-- ==== Sys2Proof/Word.lean ====
section
/-! DEFINITION. The word types and sparse tables keyed by natural numbers, in one canonical form. -/

namespace Sys2Proof

/-- A 64-bit word: register contents, addresses while they are computed, CSR values (01 R10). -/
abbrev Word := BitVec 64

/-- A byte of memory. -/
abbrev Byte := BitVec 8

/-- A half-open table from natural numbers to `α`: pairs with strictly rising keys; every key that is not
listed reads as the table's default. -/
abbrev NMap (α : Type) := List (Nat × α)

/-- The entry at `k`, or the default `d` where none is listed. -/
def NMap.get {α : Type} (d : α) : NMap α → Nat → α
  | [], _ => d
  | (i, v) :: m, k => if i = k then v else if k < i then d else NMap.get d m k

/-- The rest of a table past key `k`. -/
def NMap.past {α : Type} (k : Nat) : NMap α → NMap α
  | [] => []
  | (i, v) :: m => if i ≤ k then NMap.past k m else (i, v) :: m

/-- The entry `v` at key `k` in front of `m`, or `m` alone where `v` is the default. -/
def NMap.cons {α : Type} [DecidableEq α] (d : α) (k : Nat) (v : α) (m : NMap α) : NMap α :=
  if v = d then m else (k, v) :: m

/-- The table with `v` at `k`; storing the default removes the entry, so that equal tables are equal lists. -/
def NMap.set {α : Type} [DecidableEq α] (d : α) : NMap α → Nat → α → NMap α
  | [], k, v => NMap.cons d k v []
  | (i, w) :: m, k, v =>
    if i < k then (i, w) :: NMap.set d m k v
    else NMap.cons d k v (NMap.past k ((i, w) :: m))

/-- All listed keys are above `k` and strictly rising, and no listed entry is the default. -/
def NMap.okFrom {α : Type} [DecidableEq α] (d : α) : Nat → NMap α → Bool
  | _, [] => true
  | k, (i, v) :: m => decide (k ≤ i) && decide (v ≠ d) && NMap.okFrom d (i + 1) m

/-- The canonical form: keys strictly rising, no entry equal to the default. -/
def NMap.ok {α : Type} [DecidableEq α] (d : α) (m : NMap α) : Bool := NMap.okFrom d 0 m

end Sys2Proof
end

