-- ==== Sys2Proof/Config.lean ====
section
/-! DEFINITION. The device's constants (00 R1 to R6), the names that events carry, and the values the spec leaves
open: opaque constants, about which nothing can be proved. -/

namespace Sys2Proof

/-- Cores of the 48 x 56 grid (00 R1). -/
def numCores : Nat := 2688
/-- Clusters of the 12 x 14 mesh (00 R1). -/
def numClusters : Nat := 168
/-- Copy engines ce0 to ce47 (00 R6). -/
def numEngines : Nat := 48

/-- Where a request is performed: the homes of 05 R131. -/
inductive Home where
  | slice (cl : Nat)      -- the home slice of a device-memory line
  | io                    -- the I/O die: host memory and host-bias lines
  | core (k : Nat)        -- a core's scratchpad and lane slices
  | expander (cl : Nat)   -- cluster memory
  | stack (s : Nat)       -- a base die's stack scratchpad
  deriving DecidableEq, Repr

/-- Who issued a request: a thread, or a copy engine for one of its commands (06 R171, R173). -/
inductive Src where
  | thread (t : Nat)
  | engine (g cmd : Nat)
  deriving DecidableEq, Repr

/-- A register that an agent outside the threads writes by number: a context's CSR (14 R380), a cluster register of the
register window (22 R454), a command processor's CSR (22 R443), a function's BAR0 register (22 R442, R451, R452). -/
inductive RegRef where
  | csr (t num : Nat)
  | window (cl num : Nat)
  | cp (cp num : Nat)
  | bar (fn off : Nat)
  deriving DecidableEq, Repr

/-- The register files a debug port names (02 R73). -/
inductive RegFile where
  | scalar | vector | mask | scalarTaint | vectorTaint
  deriving DecidableEq, Repr

/-- The set of a slice a line falls in: not given by the spec (02 R59), log entry 7. -/
opaque Config.sliceSet : Nat → Nat

/-- The victim a cache chooses at its n-th choice: not visible (02 R59, 14 R385), log entry 7. -/
opaque Config.victim : Nat → Nat

/-- A byte of a core's spill backing that holds no spilled register (02 R72, R73), by core, offset and cycle; log entry 90. -/
opaque Config.backingByte : Nat → Nat → Nat → BitVec 8

/-- The hash of a meet entry's live state: not architectural (07 R200), log entry 12. -/
opaque Config.meetHash : List Nat → BitVec 64

/-- The n-th value that the spec leaves undefined, log entry 14. -/
opaque Config.freeWord : Nat → BitVec 64

/-- What a command processor reads, in a cycle, at a location of a queue entry whose writes have not completed (16 R389), log
entry 61. -/
opaque Config.entryWord : Nat → Nat → BitVec 64

/-- The fused SHA-384 hashes of the ECDSA and the LMS public key (22 R444): no rule writes those fuses; log entry 13. -/
opaque Config.ecdsaFuse : List (BitVec 8)
opaque Config.lmsFuse : List (BitVec 8)

/-- The public keys that come with an image: the spec does not say where they stand (22 R444); log entry 13. -/
opaque Config.ecdsaKey : List (BitVec 8) → List (BitVec 8)
opaque Config.lmsKey : List (BitVec 8) → List (BitVec 8)

/-- The digest of the on-package ROM (22 R447); log entry 13. -/
opaque Config.romDigest : List (BitVec 8)

/-- What the spec does not give of an SPDM answer, by its request code: the same in every answer (22 R447); log entry 13. -/
opaque Config.spdmPayload : Nat → List (BitVec 8)

/-- The device's attestation key for ECDSA P-384, and the secret number and the nonce of its n-th signature (22 R447); log entry 13. -/
opaque Config.deviceKey : Nat
opaque Config.signSecret : Nat → Nat
opaque Config.signNonce : Nat → Nat

/-- What stands in a slot's certificate chain before and after the device's public key (22 R447); log entry 13. -/
opaque Config.chainHead : Nat → List (BitVec 8)
opaque Config.chainTail : Nat → List (BitVec 8)

end Sys2Proof
end

