-- ==== Sys2Proof/Machine/Num.lean ====
section
/-! DEFINITION. Number formats, rounding, conversion, block scales and the accumulation of products (03 R85 to R107),
and the exact arithmetic of scalar and lane floating point (10 R284, 11 R298). -/

namespace Sys2Proof.Machine

/-- An exact value. A finite one is `(-1)^neg * m * 2^e`, or, where `sticky` holds, lies strictly between that and
`(-1)^neg * (m + 1) * 2^e`: quotients and square roots carry enough bits for every rounding. -/
inductive Ex where
  | nan
  | inf (neg : Bool)
  | fin (neg : Bool) (m : Nat) (e : Int) (sticky : Bool)
  deriving DecidableEq, Repr

/-- Which special codes a format has (03 R87). -/
inductive Specials where
  | ieee | e4m3 | none
  deriving DecidableEq, Repr

/-- A scalar or element format (03 R87). -/
structure Fmt where
  eb : Nat
  mb : Nat
  bias : Int
  sp : Specials
  deriving DecidableEq, Repr

def Fmt.f32 : Fmt := ⟨8, 23, 127, .ieee⟩
def Fmt.bf16 : Fmt := ⟨8, 7, 127, .ieee⟩
def Fmt.f16 : Fmt := ⟨5, 10, 15, .ieee⟩
def Fmt.e4m3 : Fmt := ⟨4, 3, 7, .e4m3⟩
def Fmt.e5m2 : Fmt := ⟨5, 2, 15, .ieee⟩
def Fmt.e2m1 : Fmt := ⟨2, 1, 1, .none⟩

/-- Scalar format codes 0x00 to 0x04 (03 R85). -/
def fmtScalar (c : Nat) : Bool := c ≤ 4
/-- Block format codes 0x06 to 0x09 (03 R85). -/
def fmtBlock (c : Nat) : Bool := 6 ≤ c && c ≤ 9
/-- Codes that a format field may hold at all: reserved codes and E2M1 are illegal (03 R85, R86). -/
def fmtLegal (c : Nat) : Bool := fmtScalar c || fmtBlock c

/-- The scalar format of a code, or the element format of a block code. -/
def fmtOf (c : Nat) : Fmt :=
  if c = 0 then Fmt.f32 else if c = 1 then Fmt.bf16 else if c = 2 then Fmt.f16
  else if c = 3 then Fmt.e4m3 else if c = 4 then Fmt.e5m2
  else if c = 6 then Fmt.e4m3 else if c = 8 then Fmt.e4m3 else Fmt.e2m1

/-- Bytes of a scalar element. -/
def fmtBytes (c : Nat) : Nat := if c = 0 then 4 else if c ≤ 2 then 2 else 1

/-- Elements of a block: 24 for KD, 32 for MX (03 R91). -/
def blockElems (c : Nat) : Nat := if c ≤ 7 then 24 else 32

/-- Bytes of a block (03 R85). -/
def blockBytes (c : Nat) : Nat := if c = 6 then 30 else if c = 7 then 18 else if c = 8 then 33 else 17

/-- Whether a block code is a KD format. -/
def isKd (c : Nat) : Bool := c = 6 || c = 7

/-- Whether a block's elements are 4 bits wide. -/
def is4bit (c : Nat) : Bool := c = 7 || c = 9

/-- Bytes that the elements of a block take. -/
def elemBytes (c : Nat) : Nat := if is4bit c then blockElems c / 2 else blockElems c

/-! ## Exact arithmetic -/

def Ex.zero (neg : Bool) : Ex := .fin neg 0 0 false

/-- The exact value of an integer. -/
def Ex.ofInt (i : Int) : Ex := .fin (decide (i < 0)) i.natAbs 0 false

/-- The signed integer numerator of `m * 2^e` over `2^base`, for `base ≤ e`. -/
def alignTo (neg : Bool) (m : Nat) (e base : Int) : Int :=
  let n : Int := ((m <<< (e - base).toNat : Nat) : Int)
  if neg then -n else n

/-- Exact sum (10 R284). `rdn`: an exact zero from values of opposite sign is -0. -/
def Ex.add (rdn : Bool) : Ex → Ex → Ex
  | .nan, _ => .nan
  | _, .nan => .nan
  | .inf a, .inf b => if a = b then .inf a else .nan
  | .inf a, _ => .inf a
  | _, .inf b => .inf b
  | .fin na ma ea sa, .fin nb mb eb sb =>
    let base := min ea eb
    let n := alignTo na ma ea base + alignTo nb mb eb base
    if n = 0 then .fin (if na = nb then na else rdn) 0 0 false
    else .fin (decide (n < 0)) n.natAbs base (sa || sb)

def Ex.neg : Ex → Ex
  | .nan => .nan
  | .inf a => .inf (!a)
  | .fin n m e s => .fin (!n) m e s

/-- Exact product. -/
def Ex.mul : Ex → Ex → Ex
  | .nan, _ => .nan
  | _, .nan => .nan
  | .inf a, .inf b => .inf (a != b)
  | .inf a, .fin nb mb _ _ => if mb = 0 then .nan else .inf (a != nb)
  | .fin na ma _ _, .inf b => if ma = 0 then .nan else .inf (na != b)
  | .fin na ma ea _, .fin nb mb eb _ => .fin (na != nb) (ma * mb) (ea + eb) false

/-- Quotient, to at least 64 bits with a sticky remainder (10 R284). -/
def Ex.div : Ex → Ex → Ex
  | .nan, _ => .nan
  | _, .nan => .nan
  | .inf _, .inf _ => .nan
  | .inf a, .fin nb _ _ _ => .inf (a != nb)
  | .fin na _ _ _, .inf b => .fin (na != b) 0 0 false
  | .fin na ma ea _, .fin nb mb eb _ =>
    if mb = 0 then (if ma = 0 then .nan else .inf (na != nb))
    else if ma = 0 then .fin (na != nb) 0 0 false
    else
      let sh := 65 + Nat.log2 mb
      .fin (na != nb) ((ma <<< sh) / mb) (ea - eb - sh) (decide ((ma <<< sh) % mb ≠ 0))

/-- Integer square root of `n`, bit by bit from bit `i`. -/
def isqrt (n : Nat) : Nat → Nat → Nat
  | 0, r => r
  | i + 1, r => let c := r + 2 ^ i; isqrt n i (if c * c ≤ n then c else r)

/-- Square root, to at least 64 bits with a sticky remainder (11 R298). -/
def Ex.sqrt : Ex → Ex
  | .nan => .nan
  | .inf true => .nan
  | .inf false => .inf false
  | .fin neg m e _ =>
    if m = 0 then .fin neg 0 0 false
    else if neg then .nan
    else
      let odd : Nat := if e % 2 = 0 then 0 else 1
      let n := m <<< (128 + odd)
      let r := isqrt n 96 0
      .fin false r ((e - 128 - odd) / 2) (decide (r * r ≠ n))

/-- `x * 2^k`, exactly. -/
def Ex.scale (k : Int) : Ex → Ex
  | .fin n m e s => .fin n m (e + k) s
  | x => x

/-- Whether `a < b` for values that are no NaN; -0 equals +0. -/
def Ex.lt : Ex → Ex → Bool
  | .nan, _ => false
  | _, .nan => false
  | .inf a, .inf b => a && !b
  | .inf a, _ => a
  | _, .inf b => !b
  | .fin na ma ea _, .fin nb mb eb _ =>
    let base := min ea eb
    decide (alignTo na ma ea base < alignTo nb mb eb base)

/-- Whether two values that are no NaN are equal; -0 equals +0. -/
def Ex.eq (a b : Ex) : Bool :=
  match a, b with
  | .nan, _ => false
  | _, .nan => false
  | _, _ => !(Ex.lt a b) && !(Ex.lt b a)

def Ex.isNan : Ex → Bool
  | .nan => true
  | _ => false

def Ex.isNeg : Ex → Bool
  | .nan => false
  | .inf n => n
  | .fin n _ _ _ => n

def Ex.isZero : Ex → Bool
  | .fin _ 0 _ _ => true
  | _ => false

/-! ## Decoding and rounding -/

/-- The value of a scalar or element code (03 R87, R88). -/
def decodeFmt (f : Fmt) (bits : Nat) : Ex :=
  let neg := (bits >>> (f.eb + f.mb)) % 2 = 1
  let ex := (bits >>> f.mb) % 2 ^ f.eb
  let fr := bits % 2 ^ f.mb
  if f.sp = .ieee && ex = 2 ^ f.eb - 1 then (if fr = 0 then .inf neg else .nan)
  else if f.sp = .e4m3 && ex = 15 && fr = 7 then .nan
  else if ex = 0 then .fin neg fr (1 - f.bias - f.mb) false
  else .fin neg (2 ^ f.mb + fr) ((ex : Int) - f.bias - f.mb) false

/-- FlushSrc of 03 R107: a subnormal FP32, BF16 or FP16 source becomes a zero of its sign (03 R98). -/
def flushSrc (code bits : Nat) : Ex :=
  let f := fmtOf code
  let x := decodeFmt f bits
  if code ≤ 2 && (bits >>> f.mb) % 2 ^ f.eb = 0 then
    (match x with
     | .fin n _ _ _ => Ex.zero n
     | y => y)
  else x

/-- DrawSR of 03 R107: sixteen Galois steps. -/
def galois (x : BitVec 32) : BitVec 32 := if x.getLsbD 0 then (x >>> 1) ^^^ 0x80200003#32 else x >>> 1

def drawSR (x : BitVec 32) : BitVec 32 :=
  galois (galois (galois (galois (galois (galois (galois (galois (galois (galois (galois (galois (galois (galois (galois
    (galois x)))))))))))))))

/-- Rounding of a magnitude: the integer multiple of the spacing `2^qe` below it, whether it is inexact, and whether it
rounds up. `r16` is the 16-bit draw of a stochastic rounding. -/
structure Rounded where
  n : Nat
  qe : Int
  inexact : Bool

/-- RoundFmt of 03 R107 on a non-zero magnitude with spacing `2^qe`. -/
def roundAt (neg : Bool) (m : Nat) (e : Int) (sticky : Bool) (qe : Int) (rnd r16 : Nat) : Rounded :=
  if qe ≤ e then ⟨m <<< (e - qe).toNat, qe, false⟩
  else
    let sh := (qe - e).toNat
    let lo := m >>> sh
    let r := m % 2 ^ sh
    let inexact := decide (r ≠ 0) || sticky
    let up :=
      if rnd = 0 then decide (2 * r > 2 ^ sh) || (decide (2 * r = 2 ^ sh) && (sticky || lo % 2 = 1))
      else if rnd = 1 then false
      else if rnd = 2 then neg
      else if rnd = 3 then !neg
      else decide (2 ^ 16 ≤ (r * 2 ^ 16) / 2 ^ sh + r16)
    ⟨lo + (if inexact && up then 1 else 0), qe, inexact⟩

/-- The spacing exponent of a format at a non-zero magnitude. -/
def spacing (f : Fmt) (m : Nat) (e : Int) : Int := max ((Nat.log2 m : Int) + e) (1 - f.bias) - f.mb

/-- MaxFinite as `m * 2^e` (03 R107). -/
def maxFinite (f : Fmt) : Nat × Int :=
  match f.sp with
  | .ieee => (2 ^ (f.mb + 1) - 1, (2 ^ f.eb - 2 : Int) - f.bias - f.mb)
  | .e4m3 => (14, 5)
  | .none => (3, 1)

/-- The code of a sign, an exponent field and a fraction. -/
def packFmt (f : Fmt) (neg : Bool) (ex fr : Nat) : Nat :=
  (if neg then 2 ^ (f.eb + f.mb) else 0) + ex * 2 ^ f.mb + fr

/-- The code of `n * 2^qe` with `qe` at or above the subnormal spacing and `n ≤ 2^(mb+1)`. -/
def encodeFmt (f : Fmt) (neg : Bool) (n : Nat) (qe : Int) : Nat :=
  if n < 2 ^ f.mb then packFmt f neg 0 n
  else if n < 2 ^ (f.mb + 1) then packFmt f neg (qe + f.mb + f.bias).toNat (n - 2 ^ f.mb)
  else packFmt f neg (qe + 1 + f.mb + f.bias).toNat 0

/-- Whether `n * 2^qe` exceeds MaxFinite. -/
def overflows (f : Fmt) (n : Nat) (qe : Int) : Bool :=
  let (mm, me) := maxFinite f
  let base := min qe me
  decide ((mm <<< (me - base).toNat) < (n <<< (qe - base).toNat))

/-- The canonical NaN of a format (03 R90). -/
def canonNan (f : Fmt) : Nat :=
  match f.sp with
  | .ieee => (2 ^ f.eb - 1) * 2 ^ f.mb + 2 ^ (f.mb - 1)
  | .e4m3 => 0x7F
  | .none => 0

def infCode (f : Fmt) (neg : Bool) : Nat := packFmt f neg (2 ^ f.eb - 1) 0

def maxCode (f : Fmt) (neg : Bool) : Nat :=
  match f.sp with
  | .ieee => packFmt f neg (2 ^ f.eb - 2) (2 ^ f.mb - 1)
  | .e4m3 => packFmt f neg 15 6
  | .none => packFmt f neg 3 1

/-- The overflow table of 03 R99. -/
def overflowCode (f : Fmt) (neg : Bool) (rnd : Nat) (sat : Bool) : Nat :=
  if sat then maxCode f neg
  else match f.sp with
    | .e4m3 => canonNan f
    | .none => maxCode f neg
    | .ieee =>
      if rnd = 0 || rnd = 4 then infCode f neg
      else if rnd = 1 then maxCode f neg
      else if rnd = 2 then (if neg then infCode f neg else maxCode f neg)
      else (if neg then maxCode f neg else infCode f neg)

/-- A code and the stochastic-rounding state after it. -/
abbrev Coded := Nat × BitVec 32

/-- Rounds a finite value to a format; draws once, and only where a stochastic rounding is inexact (03 R96). -/
def roundFin (f : Fmt) (neg : Bool) (m : Nat) (e : Int) (sticky : Bool) (rnd : Nat) (seed : BitVec 32) :
    Rounded × BitVec 32 :=
  let qe := spacing f m e
  let seed' := drawSR seed
  let r := roundAt neg m e sticky qe rnd (seed'.toNat % 2 ^ 16)
  (r, if rnd = 4 && r.inexact then seed' else seed)

/-- Convert of 03 R107 on an exact value. -/
def convert (f : Fmt) (x : Ex) (rnd : Nat) (sat : Bool) (seed : BitVec 32) : Coded :=
  match x with
  | .nan => (canonNan f, seed)
  | .inf neg =>
    if sat then (maxCode f neg, seed)
    else if f.sp = .ieee then (infCode f neg, seed) else (canonNan f, seed)
  | .fin neg m e sticky =>
    if m = 0 then (packFmt f neg 0 0, seed)
    else
      let (r, seed') := roundFin f neg m e sticky rnd seed
      if overflows f r.n r.qe then (overflowCode f neg rnd sat, seed')
      else (encodeFmt f neg r.n r.qe, seed')

/-- FpResult of 10 R284: as Convert to FP32, but an infinity stays an infinity whatever SAT is. -/
def fpResult (x : Ex) (rnd : Nat) (sat : Bool) (seed : BitVec 32) : Coded :=
  match x with
  | .inf neg => (infCode Fmt.f32 neg, seed)
  | y => convert Fmt.f32 y rnd sat seed

/-- The FP32 value of the low 32 bits of a number. -/
def f32 (bits : Nat) : Ex := decodeFmt Fmt.f32 (bits % 2 ^ 32)

/-- Rounds to an integer with spacing 1 (10 R286): the signed integer and the new state. -/
def roundInt (x : Ex) (rnd : Nat) (seed : BitVec 32) : Int × BitVec 32 :=
  match x with
  | .fin neg m e s =>
    if m = 0 then (0, seed)
    else
      let seed' := drawSR seed
      let r := roundAt neg m e s 0 rnd (seed'.toNat % 2 ^ 16)
      ((if neg then -(r.n : Int) else r.n), if rnd = 4 && r.inexact then seed' else seed)
  | _ => (0, seed)

/-- FCVTFI of 10 R286. -/
def cvtToI64 (x : Ex) (rnd : Nat) (seed : BitVec 32) : Word × BitVec 32 :=
  match x with
  | .nan => (0, seed)
  | .inf neg => (if neg then BitVec.ofNat 64 (2 ^ 63) else BitVec.ofNat 64 (2 ^ 63 - 1), seed)
  | y =>
    let (i, seed') := roundInt y rnd seed
    (if i ≥ 2 ^ 63 then BitVec.ofNat 64 (2 ^ 63 - 1)
     else if i < -(2 ^ 63) then BitVec.ofNat 64 (2 ^ 63) else BitVec.ofInt 64 i, seed')

/-- VCVTFI of 11 R303: toward zero, saturating. -/
def cvtToI32 (x : Ex) : BitVec 32 :=
  match x with
  | .nan => 0
  | .inf neg => if neg then 0x80000000 else 0x7FFFFFFF
  | y =>
    let i := (roundInt y 1 0).1
    if i ≥ 2 ^ 31 then 0x7FFFFFFF else if i < -(2 ^ 31) then 0x80000000 else BitVec.ofInt 32 i

/-- VCVTFU of 11 R303: toward zero, saturating. -/
def cvtToU32 (x : Ex) : BitVec 32 :=
  match x with
  | .nan => 0
  | .inf neg => if neg then 0 else 0xFFFFFFFF
  | y =>
    let i := (roundInt y 1 0).1
    if i ≥ 2 ^ 32 then 0xFFFFFFFF else if i < 0 then 0 else BitVec.ofInt 32 i

/-! ## Blocks -/

/-- The byte at index `i` of a list, 0 past its end. -/
def byteAt (bs : List Nat) (i : Nat) : Nat := bs.getD i 0

/-- The code of element `j` in a block's bytes (03 R91). -/
def blockElem (c : Nat) (bs : List Nat) (j : Nat) : Nat :=
  if is4bit c then (if j % 2 = 0 then byteAt bs (j / 2) % 16 else byteAt bs (j / 2) / 16 % 16) else byteAt bs j

/-- DequantElem of 03 R107. -/
def dequantElem (c : Nat) (bs : List Nat) (j : Nat) : Ex :=
  let eb := elemBytes c
  let scale :=
    if isKd c then
      let sel := byteAt bs eb + byteAt bs (eb + 1) * 256 + byteAt bs (eb + 2) * 65536
      let flags := byteAt bs (eb + 5)
      if flags / 2 ≠ 0 then 0xFF
      else if flags % 2 = 0 && (sel >>> j) % 2 = 1 then byteAt bs (eb + 4) else byteAt bs (eb + 3)
    else byteAt bs eb
  if scale = 0xFF then .nan
  else (decodeFmt (fmtOf c) (blockElem c bs j)).scale ((scale : Int) - 127)

/-- QElem of 03 R107: the element code under scale `s`. -/
def qElem (c : Nat) (x : Ex) (s rnd : Nat) (seed : BitVec 32) : Coded :=
  let f := fmtOf c
  match x.scale (127 - (s : Int)) with
  | .fin neg m e sticky =>
    if m = 0 then (packFmt f neg 0 0, seed)
    else
      let (r, seed') := roundFin f neg m e sticky rnd seed
      if overflows f r.n r.qe then (maxCode f neg, seed') else (encodeFmt f neg r.n r.qe, seed')
  | .inf neg => (maxCode f neg, seed)
  | .nan => (0, seed)

/-- A non-negative dyadic `m * 2^e`, for the errors of 03 R103. -/
abbrev Err := Nat × Int

def Err.add (a b : Err) : Err :=
  let base := min a.2 b.2
  ((a.1 <<< (a.2 - base).toNat) + (b.1 <<< (b.2 - base).toNat), base)

def Err.lt (a b : Err) : Bool :=
  let base := min a.2 b.2
  decide ((a.1 <<< (a.2 - base).toNat) < (b.1 <<< (b.2 - base).toNat))

/-- The error of an element under a scale: (x - Qd(x, S))^2 (03 R103). -/
def elemErr (c : Nat) (x : Ex) (s : Nat) : Err :=
  let q := (decodeFmt (fmtOf c) (qElem c x s 0 0).1).scale ((s : Int) - 127)
  match Ex.add false x q.neg with
  | .fin _ m e _ => (m * m, 2 * e)
  | _ => (0, 0)

/-- A candidate S1 = S0 - k: the elements it takes and its total error (03 R103). -/
def candidate (c : Nat) (xs : List Ex) (s0 k : Nat) : List Bool × Err :=
  xs.foldr (fun x acc =>
    let e0 := elemErr c x s0
    let e1 := elemErr c x (s0 - k)
    let take := Err.lt e1 e0
    (take :: acc.1, Err.add (if take then e1 else e0) acc.2)) ([], (0, 0))

/-- The best candidate among k = 1 .. n: smallest total error, then the smaller k. -/
def bestCandidate (c : Nat) (xs : List Ex) (s0 : Nat) : Nat → Option (Nat × List Bool × Err)
  | 0 => none
  | k + 1 =>
    let (sel, err) := candidate c xs s0 (k + 1)
    match bestCandidate c xs s0 k with
    | none => some (k + 1, sel, err)
    | some b => if Err.lt err b.2.2 then some (k + 1, sel, err) else some b

/-- The scales chosen for a block: S0, S1, the selector of each element, F0 (03 R102, R103). -/
structure Scales where
  s0 : Nat
  s1 : Nat
  sel : List Bool
  f0 : Bool

/-- Exp(x) of a non-zero finite value. -/
def exExp : Ex → Option Int
  | .fin _ m e _ => if m = 0 then none else some ((Nat.log2 m : Int) + e)
  | _ => none

def Ex.isFinite : Ex → Bool
  | .fin _ _ _ _ => true
  | _ => false

/-- The scale choice of 03 R102 and R103, under RNE. -/
def chooseScales (c : Nat) (xs : List Ex) : Scales :=
  let none1 := xs.map (fun _ => false)
  if xs.any (fun x => !x.isFinite) then ⟨0xFF, 0xFF, none1, true⟩
  else match (xs.filterMap exExp).max? with
    | none => ⟨0, 0, none1, true⟩
    | some top =>
      let emax : Int := if is4bit c then 2 else 8
      let s0 := (max 0 (min 254 (top - emax + 127))).toNat
      if !isKd c then ⟨s0, s0, none1, true⟩
      else
        let only := xs.foldr (fun x acc => Err.add (elemErr c x s0) acc) (0, 0)
        match bestCandidate c xs s0 (min 15 s0) with
        | none => ⟨s0, s0, none1, true⟩
        | some (k, sel, err) => if Err.lt err only then ⟨s0, s0 - k, sel, false⟩ else ⟨s0, s0, none1, true⟩

/-- Element codes under the chosen scales, in ascending order (03 R104). -/
def quantElems (c rnd : Nat) : List Ex → List Nat → BitVec 32 → List Nat × BitVec 32
  | x :: xs, s :: ss, seed =>
    let (code, seed1) := qElem c x s rnd seed
    let (rest, seed2) := quantElems c rnd xs ss seed1
    (code :: rest, seed2)
  | _, _, seed => ([], seed)

/-- Packs 4-bit codes two to a byte. -/
def packNibbles : List Nat → List Nat
  | a :: b :: l => (a + 16 * b) :: packNibbles l
  | [a] => [a]
  | [] => []

/-- The bits of a list, first lowest. -/
def boolsToNat : List Bool → Nat
  | [] => 0
  | b :: l => (if b then 1 else 0) + 2 * boolsToNat l

/-- QuantBlock of 03 R107: the block's bytes. -/
def quantBlock (c : Nat) (xs : List Ex) (rnd : Nat) (seed : BitVec 32) : List Nat × BitVec 32 :=
  let sc := chooseScales c xs
  let bad := xs.any (fun x => !x.isFinite)
  let ss := sc.sel.map (fun b => if b then sc.s1 else sc.s0)
  let (codes, seed') := if bad then (xs.map (fun _ => 0), seed) else quantElems c rnd xs ss seed
  let body := if is4bit c then packNibbles codes else codes
  let sel := boolsToNat sc.sel
  (if isKd c then body ++ [sel % 256, sel / 256 % 256, sel / 65536, sc.s0, sc.s1, if sc.f0 then 1 else 0]
   else body ++ [sc.s0], seed')

/-! ## Products -/

/-- The exact sum of a list of values; +0 for none. A sum of zeros is -0 only where every one is -0. -/
def exSum : List Ex → Ex
  | [] => Ex.zero false
  | [x] => x
  | x :: l => Ex.add false x (exSum l)

/-- ChunkDot of 03 R107 on decoded elements: the FP32 code of the new running value. -/
def chunkDot (acc : Nat) (as bs : List Ex) : Nat :=
  let p := (convert Fmt.f32 (exSum (List.zipWith Ex.mul as bs)) 0 false 0).1
  (convert Fmt.f32 (Ex.add false (f32 acc) (f32 p)) 0 false 0).1

/-- Elements of a K-chunk: 32 for BF16, 96 for the other operand formats (03 R105). -/
def chunkLen (c : Nat) : Nat := if c = 1 then 32 else 96

/-- Whether two operand formats may be multiplied (03 R105). -/
def pairLegal (a b : Nat) : Bool :=
  (a = 1 && b = 1) || ((a = 3 || a = 4 || fmtBlock a) && (b = 3 || b = 4 || fmtBlock b))

/-- The exact element `j` of a row or group of format `c` held in bytes, flushed as a source value (03 R98). -/
def elemOf (c : Nat) (bs : List Nat) (j : Nat) : Ex :=
  if fmtBlock c then
    dequantElem c ((bs.drop (j / blockElems c * blockBytes c)).take (blockBytes c)) (j % blockElems c)
  else
    let w := fmtBytes c
    flushSrc c (if w = 1 then byteAt bs j
      else if w = 2 then byteAt bs (2 * j) + 256 * byteAt bs (2 * j + 1)
      else byteAt bs (4 * j) + 256 * byteAt bs (4 * j + 1) + 65536 * byteAt bs (4 * j + 2)
        + 16777216 * byteAt bs (4 * j + 3))

/-- The bytes of a scalar code, lowest first. -/
def codeBytes (w code : Nat) : List Nat := (List.range w).map (fun i => code / 256 ^ i % 256)

/-- Converts a list of values to a scalar format in ascending order, threading the stochastic-rounding state. -/
def convertAll (f : Fmt) (rnd : Nat) (sat : Bool) : List Ex → BitVec 32 → List Nat × BitVec 32
  | [], seed => ([], seed)
  | x :: xs, seed =>
    let (c, seed1) := convert f x rnd sat seed
    let (cs, seed2) := convertAll f rnd sat xs seed1
    (c :: cs, seed2)

/-- Cuts a list into runs of `n`, `k` of them. -/
def runsOf {α : Type} (n : Nat) : Nat → List α → List (List α)
  | 0, _ => []
  | k + 1, l => l.take n :: runsOf n k (l.drop n)

/-- Quantises consecutive blocks, threading the stochastic-rounding state. -/
def quantBlocks (c rnd : Nat) : List (List Ex) → BitVec 32 → List Nat × BitVec 32
  | [], seed => ([], seed)
  | b :: bs, seed =>
    let (x, seed1) := quantBlock c b rnd seed
    let (y, seed2) := quantBlocks c rnd bs seed1
    (x ++ y, seed2)

end Sys2Proof.Machine
end

