-- ==== Sys2Proof/Syntax.lean ====
section
/-! DEFINITION. The abstract syntax: one constructor per row of spec/opcode_table.json. The first 266 are the encoded
instructions, with the fields of the row under the table's names (a one-bit field is a Bool; VINT.I's split immediate is
one field); the other 129 are the machine's steps that are no instruction, each with the agents and values it names. -/

namespace Sys2Proof

/-- An instruction or a step of the machine. -/
inductive Instr where
  | add (z : Bool) (m : Bool) (n : Bool) (b : BitVec 5) (a : BitVec 5) (d : BitVec 5)
  | sub (z : Bool) (m : Bool) (n : Bool) (b : BitVec 5) (a : BitVec 5) (d : BitVec 5)
  | and (z : Bool) (m : Bool) (n : Bool) (b : BitVec 5) (a : BitVec 5) (d : BitVec 5)
  | or (z : Bool) (m : Bool) (n : Bool) (b : BitVec 5) (a : BitVec 5) (d : BitVec 5)
  | xor (z : Bool) (m : Bool) (n : Bool) (b : BitVec 5) (a : BitVec 5) (d : BitVec 5)
  | andn (z : Bool) (m : Bool) (n : Bool) (b : BitVec 5) (a : BitVec 5) (d : BitVec 5)
  | sll (z : Bool) (m : Bool) (n : Bool) (b : BitVec 5) (a : BitVec 5) (d : BitVec 5)
  | srl (z : Bool) (m : Bool) (n : Bool) (b : BitVec 5) (a : BitVec 5) (d : BitVec 5)
  | sra (z : Bool) (m : Bool) (n : Bool) (b : BitVec 5) (a : BitVec 5) (d : BitVec 5)
  | ror (z : Bool) (m : Bool) (n : Bool) (b : BitVec 5) (a : BitVec 5) (d : BitVec 5)
  | min (z : Bool) (m : Bool) (n : Bool) (b : BitVec 5) (a : BitVec 5) (d : BitVec 5)
  | max (z : Bool) (m : Bool) (n : Bool) (b : BitVec 5) (a : BitVec 5) (d : BitVec 5)
  | minu (z : Bool) (m : Bool) (n : Bool) (b : BitVec 5) (a : BitVec 5) (d : BitVec 5)
  | maxu (z : Bool) (m : Bool) (n : Bool) (b : BitVec 5) (a : BitVec 5) (d : BitVec 5)
  | slt (z : Bool) (m : Bool) (n : Bool) (b : BitVec 5) (a : BitVec 5) (d : BitVec 5)
  | sltu (z : Bool) (m : Bool) (n : Bool) (b : BitVec 5) (a : BitVec 5) (d : BitVec 5)
  | seq (z : Bool) (m : Bool) (n : Bool) (b : BitVec 5) (a : BitVec 5) (d : BitVec 5)
  | sne (z : Bool) (m : Bool) (n : Bool) (b : BitVec 5) (a : BitVec 5) (d : BitVec 5)
  | cmovz (m : Bool) (n : Bool) (b : BitVec 5) (a : BitVec 5) (d : BitVec 5)
  | cmovnz (m : Bool) (n : Bool) (b : BitVec 5) (a : BitVec 5) (d : BitVec 5)
  | clz (z : Bool) (n : Bool) (a : BitVec 5) (d : BitVec 5)
  | ctz (z : Bool) (n : Bool) (a : BitVec 5) (d : BitVec 5)
  | popc (z : Bool) (n : Bool) (a : BitVec 5) (d : BitVec 5)
  | mul (z : Bool) (m : Bool) (n : Bool) (b : BitVec 5) (a : BitVec 5) (d : BitVec 5)
  | mulh (z : Bool) (m : Bool) (n : Bool) (b : BitVec 5) (a : BitVec 5) (d : BitVec 5)
  | mulhu (z : Bool) (m : Bool) (n : Bool) (b : BitVec 5) (a : BitVec 5) (d : BitVec 5)
  | mulhsu (z : Bool) (m : Bool) (n : Bool) (b : BitVec 5) (a : BitVec 5) (d : BitVec 5)
  | div (z : Bool) (m : Bool) (n : Bool) (b : BitVec 5) (a : BitVec 5) (d : BitVec 5)
  | divu (z : Bool) (m : Bool) (n : Bool) (b : BitVec 5) (a : BitVec 5) (d : BitVec 5)
  | rem (z : Bool) (m : Bool) (n : Bool) (b : BitVec 5) (a : BitVec 5) (d : BitVec 5)
  | remu (z : Bool) (m : Bool) (n : Bool) (b : BitVec 5) (a : BitVec 5) (d : BitVec 5)
  | addi (i : BitVec 14) (n : Bool) (a : BitVec 5) (d : BitVec 5)
  | andi (i : BitVec 14) (n : Bool) (a : BitVec 5) (d : BitVec 5)
  | ori (i : BitVec 14) (n : Bool) (a : BitVec 5) (d : BitVec 5)
  | xori (i : BitVec 14) (n : Bool) (a : BitVec 5) (d : BitVec 5)
  | slli (z : Bool) (c : BitVec 6) (n : Bool) (a : BitVec 5) (d : BitVec 5)
  | srli (z : Bool) (c : BitVec 6) (n : Bool) (a : BitVec 5) (d : BitVec 5)
  | srai (z : Bool) (c : BitVec 6) (n : Bool) (a : BitVec 5) (d : BitVec 5)
  | rori (z : Bool) (c : BitVec 6) (n : Bool) (a : BitVec 5) (d : BitVec 5)
  | seqi (i : BitVec 12) (n : Bool) (a : BitVec 5) (d : BitVec 5)
  | snei (i : BitVec 12) (n : Bool) (a : BitVec 5) (d : BitVec 5)
  | slti (i : BitVec 12) (n : Bool) (a : BitVec 5) (d : BitVec 5)
  | sltiu (i : BitVec 12) (n : Bool) (a : BitVec 5) (d : BitVec 5)
  | lui (i : BitVec 20) (d : BitVec 5)
  | leapc (i : BitVec 20) (d : BitVec 5)
  | bfxu (l : BitVec 6) (p : BitVec 6) (n : Bool) (a : BitVec 5) (d : BitVec 5)
  | bfx (l : BitVec 6) (p : BitVec 6) (n : Bool) (a : BitVec 5) (d : BitVec 5)
  | bfi (l : BitVec 6) (p : BitVec 6) (n : Bool) (a : BitVec 5) (d : BitVec 5)
  | fadd (m : Bool) (n : Bool) (b : BitVec 5) (a : BitVec 5) (d : BitVec 5)
  | fsub (m : Bool) (n : Bool) (b : BitVec 5) (a : BitVec 5) (d : BitVec 5)
  | fmul (m : Bool) (n : Bool) (b : BitVec 5) (a : BitVec 5) (d : BitVec 5)
  | fma (m : Bool) (n : Bool) (b : BitVec 5) (a : BitVec 5) (d : BitVec 5)
  | fdiv (m : Bool) (n : Bool) (b : BitVec 5) (a : BitVec 5) (d : BitVec 5)
  | fcmp (m : Bool) (n : Bool) (b : BitVec 5) (a : BitVec 5) (d : BitVec 5)
  | fcvtif (n : Bool) (a : BitVec 5) (d : BitVec 5)
  | fcvtfi (n : Bool) (a : BitVec 5) (d : BitVec 5)
  | beq (i : BitVec 12) (b : BitVec 5) (a : BitVec 5)
  | bne (i : BitVec 12) (b : BitVec 5) (a : BitVec 5)
  | blt (i : BitVec 12) (b : BitVec 5) (a : BitVec 5)
  | bge (i : BitVec 12) (b : BitVec 5) (a : BitVec 5)
  | bltu (i : BitVec 12) (b : BitVec 5) (a : BitVec 5)
  | bgeu (i : BitVec 12) (b : BitVec 5) (a : BitVec 5)
  | j (i : BitVec 20)
  | call (i : BitVec 20) (l : BitVec 5)
  | jr (i : BitVec 14) (n : Bool) (a : BitVec 5)
  | callr (i : BitVec 14) (n : Bool) (a : BitVec 5) (d : BitVec 5)
  | lb (o : BitVec 10) (n : Bool) (b : BitVec 5) (d : BitVec 5)
  | lh (o : BitVec 10) (n : Bool) (b : BitVec 5) (d : BitVec 5)
  | lw (o : BitVec 10) (n : Bool) (b : BitVec 5) (d : BitVec 5)
  | ld (o : BitVec 10) (n : Bool) (b : BitVec 5) (d : BitVec 5)
  | lbu (o : BitVec 10) (n : Bool) (b : BitVec 5) (d : BitVec 5)
  | lhu (o : BitVec 10) (n : Bool) (b : BitVec 5) (d : BitVec 5)
  | lwu (o : BitVec 10) (n : Bool) (b : BitVec 5) (d : BitVec 5)
  | sb (o : BitVec 10) (m : Bool) (n : Bool) (b : BitVec 5) (d : BitVec 5)
  | sh (o : BitVec 10) (m : Bool) (n : Bool) (b : BitVec 5) (d : BitVec 5)
  | sw (o : BitVec 10) (m : Bool) (n : Bool) (b : BitVec 5) (d : BitVec 5)
  | sd (o : BitVec 10) (m : Bool) (n : Bool) (b : BitVec 5) (d : BitVec 5)
  | ldm (o : BitVec 10) (c : BitVec 3) (n : Bool) (b : BitVec 5) (d : BitVec 5)
  | stm (o : BitVec 10) (c : BitVec 3) (n : Bool) (b : BitVec 5) (d : BitVec 5)
  | aadd (z : Bool) (m : Bool) (n : Bool) (b : BitVec 5) (a : BitVec 5) (d : BitVec 5)
  | afadd (z : Bool) (m : Bool) (n : Bool) (b : BitVec 5) (a : BitVec 5) (d : BitVec 5)
  | amin (z : Bool) (m : Bool) (n : Bool) (b : BitVec 5) (a : BitVec 5) (d : BitVec 5)
  | amax (z : Bool) (m : Bool) (n : Bool) (b : BitVec 5) (a : BitVec 5) (d : BitVec 5)
  | aminu (z : Bool) (m : Bool) (n : Bool) (b : BitVec 5) (a : BitVec 5) (d : BitVec 5)
  | amaxu (z : Bool) (m : Bool) (n : Bool) (b : BitVec 5) (a : BitVec 5) (d : BitVec 5)
  | aand (z : Bool) (m : Bool) (n : Bool) (b : BitVec 5) (a : BitVec 5) (d : BitVec 5)
  | aor (z : Bool) (m : Bool) (n : Bool) (b : BitVec 5) (a : BitVec 5) (d : BitVec 5)
  | axor (z : Bool) (m : Bool) (n : Bool) (b : BitVec 5) (a : BitVec 5) (d : BitVec 5)
  | aswap (z : Bool) (m : Bool) (n : Bool) (b : BitVec 5) (a : BitVec 5) (d : BitVec 5)
  | acas (z : Bool) (m : Bool) (n : Bool) (b : BitVec 5) (a : BitVec 5) (d : BitVec 5)
  | fence (s : BitVec 2) (k : BitVec 4)
  | tclr (v : Bool) (d : BitVec 5)
  | tjoin (w : Bool) (v : Bool) (n : Bool) (a : BitVec 5) (d : BitVec 5)
  | twait (w : Bool) (n : Bool) (a : BitVec 5)
  | bar (n : Bool) (a : BitVec 5)
  | baradd (z : Bool) (m : Bool) (n : Bool) (b : BitVec 5) (a : BitVec 5) (d : BitVec 5)
  | barfadd (m : Bool) (n : Bool) (b : BitVec 5) (a : BitVec 5) (d : BitVec 5)
  | chsend (m : Bool) (n : Bool) (b : BitVec 5) (a : BitVec 5)
  | chrecv (n : Bool) (a : BitVec 5) (d : BitVec 5)
  | amld (z : BitVec 3) (n : Bool) (a : BitVec 5) (d : BitVec 5)
  | amst (z : BitVec 2) (m : Bool) (n : Bool) (b : BitVec 5) (a : BitVec 5)
  | amopAadd (z : Bool) (m : Bool) (n : Bool) (b : BitVec 5) (a : BitVec 5) (d : BitVec 5)
  | amopAfadd (z : Bool) (m : Bool) (n : Bool) (b : BitVec 5) (a : BitVec 5) (d : BitVec 5)
  | amopAmin (z : Bool) (m : Bool) (n : Bool) (b : BitVec 5) (a : BitVec 5) (d : BitVec 5)
  | amopAmax (z : Bool) (m : Bool) (n : Bool) (b : BitVec 5) (a : BitVec 5) (d : BitVec 5)
  | amopAminu (z : Bool) (m : Bool) (n : Bool) (b : BitVec 5) (a : BitVec 5) (d : BitVec 5)
  | amopAmaxu (z : Bool) (m : Bool) (n : Bool) (b : BitVec 5) (a : BitVec 5) (d : BitVec 5)
  | amopAand (z : Bool) (m : Bool) (n : Bool) (b : BitVec 5) (a : BitVec 5) (d : BitVec 5)
  | amopAor (z : Bool) (m : Bool) (n : Bool) (b : BitVec 5) (a : BitVec 5) (d : BitVec 5)
  | amopAxor (z : Bool) (m : Bool) (n : Bool) (b : BitVec 5) (a : BitVec 5) (d : BitVec 5)
  | amopAswap (z : Bool) (m : Bool) (n : Bool) (b : BitVec 5) (a : BitVec 5) (d : BitVec 5)
  | amopAcas (z : Bool) (m : Bool) (n : Bool) (b : BitVec 5) (a : BitVec 5) (d : BitVec 5)
  | fork (p : BitVec 5)
  | meet (w : BitVec 12) (p : BitVec 5)
  | meetC (w : BitVec 12) (q : BitVec 5) (p : BitVec 5)
  | done
  | align
  | yield
  | spawn (p : BitVec 5)
  | waitw
  | taskend
  | commit
  | hrq (q : BitVec 5) (p : BitVec 5)
  | hrqSw (q : BitVec 5) (p : BitVec 5)
  | tdef (b : BitVec 5) (a : BitVec 5) (d : BitVec 5)
  | trel (d : BitVec 5)
  | tstat (a : BitVec 5) (d : BitVec 5)
  | twaitr (d : BitVec 5)
  | tfill (a : BitVec 5) (d : BitVec 5)
  | tcons (d : BitVec 5)
  | mma (z : Bool) (c : Bool) (e : BitVec 2) (b : BitVec 5) (a : BitVec 5)
  | mmac (z : Bool) (c : Bool) (e : BitVec 2) (b : BitVec 5) (a : BitVec 5) (d : BitVec 5)
  | mzero (c : Bool) (e : BitVec 2)
  | mstore (c : Bool) (e : BitVec 2) (a : BitVec 5)
  | mmask (c : Bool) (e : BitVec 2) (a : BitVec 5)
  | mscale (c : Bool) (e : BitVec 2) (b : BitVec 5) (a : BitVec 5)
  | cpy (e : BitVec 2) (a : BitVec 5)
  | cpyw (e : BitVec 2) (a : BitVec 5)
  | cpyq (e : BitVec 2) (a : BitVec 5) (d : BitVec 5)
  | cpyc (e : BitVec 2) (a : BitVec 5)
  | bstake (c : BitVec 7) (d : BitVec 5)
  | bspeek (c : BitVec 7) (d : BitVec 5)
  | bsemit (c : BitVec 7) (n : Bool) (a : BitVec 5)
  | bsskip (c : BitVec 7)
  | bsalign (c : BitVec 7)
  | csrr (c : BitVec 12) (d : BitVec 5)
  | csrw (c : BitVec 12) (n : Bool) (a : BitVec 5) (d : BitVec 5)
  | csrs (c : BitVec 12) (n : Bool) (a : BitVec 5) (d : BitVec 5)
  | csrc (c : BitVec 12) (n : Bool) (a : BitVec 5) (d : BitVec 5)
  | trap (b : BitVec 5)
  | eret
  | halt
  | dbg (b : BitVec 5)
  | tlbw (m : Bool) (n : Bool) (b : BitVec 5) (a : BitVec 5)
  | tlbi (t : Bool) (s : BitVec 2) (n : Bool) (a : BitVec 5) (d : BitVec 5)
  | cwb (n : Bool) (a : BitVec 5)
  | cinv (n : Bool) (a : BitVec 5)
  | fmt (s : Bool) (r : BitVec 3) (d : BitVec 5) (b : BitVec 5) (a : BitVec 5)
  | vmov (s : Bool) (k : BitVec 3) (b : BitVec 5) (d : BitVec 5)
  | vadd (n : Bool) (s : Bool) (k : BitVec 3) (b : BitVec 5) (a : BitVec 5) (d : BitVec 5)
  | vsub (n : Bool) (s : Bool) (k : BitVec 3) (b : BitVec 5) (a : BitVec 5) (d : BitVec 5)
  | vmul (n : Bool) (s : Bool) (k : BitVec 3) (b : BitVec 5) (a : BitVec 5) (d : BitVec 5)
  | vand (n : Bool) (s : Bool) (k : BitVec 3) (b : BitVec 5) (a : BitVec 5) (d : BitVec 5)
  | vor (n : Bool) (s : Bool) (k : BitVec 3) (b : BitVec 5) (a : BitVec 5) (d : BitVec 5)
  | vxor (n : Bool) (s : Bool) (k : BitVec 3) (b : BitVec 5) (a : BitVec 5) (d : BitVec 5)
  | vshl (n : Bool) (s : Bool) (k : BitVec 3) (b : BitVec 5) (a : BitVec 5) (d : BitVec 5)
  | vshr (n : Bool) (s : Bool) (k : BitVec 3) (b : BitVec 5) (a : BitVec 5) (d : BitVec 5)
  | vmin (n : Bool) (s : Bool) (k : BitVec 3) (b : BitVec 5) (a : BitVec 5) (d : BitVec 5)
  | vmax (n : Bool) (s : Bool) (k : BitVec 3) (b : BitVec 5) (a : BitVec 5) (d : BitVec 5)
  | vsra (n : Bool) (s : Bool) (k : BitVec 3) (b : BitVec 5) (a : BitVec 5) (d : BitVec 5)
  | vminu (n : Bool) (s : Bool) (k : BitVec 3) (b : BitVec 5) (a : BitVec 5) (d : BitVec 5)
  | vmaxu (n : Bool) (s : Bool) (k : BitVec 3) (b : BitVec 5) (a : BitVec 5) (d : BitVec 5)
  | vmulhu (n : Bool) (s : Bool) (k : BitVec 3) (b : BitVec 5) (a : BitVec 5) (d : BitVec 5)
  | vmadd (n : Bool) (s : Bool) (k : BitVec 3) (b : BitVec 5) (a : BitVec 5) (d : BitVec 5)
  | vmovI (i : BitVec 6) (k : BitVec 3) (d : BitVec 5)
  | vaddI (n : Bool) (i : BitVec 6) (k : BitVec 3) (a : BitVec 5) (d : BitVec 5)
  | vsubI (n : Bool) (i : BitVec 6) (k : BitVec 3) (a : BitVec 5) (d : BitVec 5)
  | vmulI (n : Bool) (i : BitVec 6) (k : BitVec 3) (a : BitVec 5) (d : BitVec 5)
  | vandI (n : Bool) (i : BitVec 6) (k : BitVec 3) (a : BitVec 5) (d : BitVec 5)
  | vorI (n : Bool) (i : BitVec 6) (k : BitVec 3) (a : BitVec 5) (d : BitVec 5)
  | vxorI (n : Bool) (i : BitVec 6) (k : BitVec 3) (a : BitVec 5) (d : BitVec 5)
  | vshlI (n : Bool) (k : BitVec 3) (i : BitVec 5) (a : BitVec 5) (d : BitVec 5)
  | vshrI (n : Bool) (k : BitVec 3) (i : BitVec 5) (a : BitVec 5) (d : BitVec 5)
  | vminI (n : Bool) (i : BitVec 6) (k : BitVec 3) (a : BitVec 5) (d : BitVec 5)
  | vmaxI (n : Bool) (i : BitVec 6) (k : BitVec 3) (a : BitVec 5) (d : BitVec 5)
  | vsraI (n : Bool) (k : BitVec 3) (i : BitVec 5) (a : BitVec 5) (d : BitVec 5)
  | vminuI (n : Bool) (i : BitVec 6) (k : BitVec 3) (a : BitVec 5) (d : BitVec 5)
  | vmaxuI (n : Bool) (i : BitVec 6) (k : BitVec 3) (a : BitVec 5) (d : BitVec 5)
  | vfadd (n : Bool) (s : Bool) (k : BitVec 3) (b : BitVec 5) (a : BitVec 5) (d : BitVec 5)
  | vfsub (n : Bool) (s : Bool) (k : BitVec 3) (b : BitVec 5) (a : BitVec 5) (d : BitVec 5)
  | vfmul (n : Bool) (s : Bool) (k : BitVec 3) (b : BitVec 5) (a : BitVec 5) (d : BitVec 5)
  | vfmin (n : Bool) (s : Bool) (k : BitVec 3) (b : BitVec 5) (a : BitVec 5) (d : BitVec 5)
  | vfmax (n : Bool) (s : Bool) (k : BitVec 3) (b : BitVec 5) (a : BitVec 5) (d : BitVec 5)
  | vfma (n : Bool) (s : Bool) (k : BitVec 3) (b : BitVec 5) (a : BitVec 5) (d : BitVec 5)
  | vfdiv (n : Bool) (s : Bool) (k : BitVec 3) (b : BitVec 5) (a : BitVec 5) (d : BitVec 5)
  | vfsqrt (n : Bool) (k : BitVec 3) (a : BitVec 5) (d : BitVec 5)
  | vfabs (n : Bool) (k : BitVec 3) (a : BitVec 5) (d : BitVec 5)
  | vfneg (n : Bool) (k : BitVec 3) (a : BitVec 5) (d : BitVec 5)
  | vceq (n : Bool) (s : Bool) (k : BitVec 3) (b : BitVec 5) (a : BitVec 5) (d : BitVec 3)
  | vcne (n : Bool) (s : Bool) (k : BitVec 3) (b : BitVec 5) (a : BitVec 5) (d : BitVec 3)
  | vclt (n : Bool) (s : Bool) (k : BitVec 3) (b : BitVec 5) (a : BitVec 5) (d : BitVec 3)
  | vcle (n : Bool) (s : Bool) (k : BitVec 3) (b : BitVec 5) (a : BitVec 5) (d : BitVec 3)
  | vcltu (n : Bool) (s : Bool) (k : BitVec 3) (b : BitVec 5) (a : BitVec 5) (d : BitVec 3)
  | vcleu (n : Bool) (s : Bool) (k : BitVec 3) (b : BitVec 5) (a : BitVec 5) (d : BitVec 3)
  | vfceq (n : Bool) (s : Bool) (k : BitVec 3) (b : BitVec 5) (a : BitVec 5) (d : BitVec 3)
  | vfclt (n : Bool) (s : Bool) (k : BitVec 3) (b : BitVec 5) (a : BitVec 5) (d : BitVec 3)
  | vfcle (n : Bool) (s : Bool) (k : BitVec 3) (b : BitVec 5) (a : BitVec 5) (d : BitVec 3)
  | vcvt (n : Bool) (k : BitVec 3) (a : BitVec 5) (d : BitVec 5)
  | vcvtif (n : Bool) (k : BitVec 3) (a : BitVec 5) (d : BitVec 5)
  | vcvtuf (n : Bool) (k : BitVec 3) (a : BitVec 5) (d : BitVec 5)
  | vcvtfi (n : Bool) (k : BitVec 3) (a : BitVec 5) (d : BitVec 5)
  | vcvtfu (n : Bool) (k : BitVec 3) (a : BitVec 5) (d : BitVec 5)
  | vperm (n : Bool) (s : Bool) (k : BitVec 3) (b : BitVec 5) (a : BitVec 5) (d : BitVec 5)
  | vslideup (n : Bool) (s : Bool) (k : BitVec 3) (b : BitVec 5) (a : BitVec 5) (d : BitVec 5)
  | vslidedn (n : Bool) (s : Bool) (k : BitVec 3) (b : BitVec 5) (a : BitVec 5) (d : BitVec 5)
  | vziplo (n : Bool) (s : Bool) (k : BitVec 3) (b : BitVec 5) (a : BitVec 5) (d : BitVec 5)
  | vziphi (n : Bool) (s : Bool) (k : BitVec 3) (b : BitVec 5) (a : BitVec 5) (d : BitVec 5)
  | vcompress (n : Bool) (k : BitVec 3) (a : BitVec 5) (d : BitVec 5)
  | vexpand (n : Bool) (k : BitVec 3) (a : BitVec 5) (d : BitVec 5)
  | vextr (n : Bool) (b : BitVec 5) (a : BitVec 5) (d : BitVec 5)
  | vradd (n : Bool) (k : BitVec 3) (a : BitVec 5) (d : BitVec 5)
  | vrmin (n : Bool) (k : BitVec 3) (a : BitVec 5) (d : BitVec 5)
  | vrmax (n : Bool) (k : BitVec 3) (a : BitVec 5) (d : BitVec 5)
  | vrand (n : Bool) (k : BitVec 3) (a : BitVec 5) (d : BitVec 5)
  | vror (n : Bool) (k : BitVec 3) (a : BitVec 5) (d : BitVec 5)
  | vrxor (n : Bool) (k : BitVec 3) (a : BitVec 5) (d : BitVec 5)
  | vrfadd (n : Bool) (k : BitVec 3) (a : BitVec 5) (d : BitVec 5)
  | vrfmax (n : Bool) (k : BitVec 3) (a : BitVec 5) (d : BitVec 5)
  | kand (k : BitVec 3) (b : BitVec 3) (a : BitVec 3) (d : BitVec 3)
  | kor (k : BitVec 3) (b : BitVec 3) (a : BitVec 3) (d : BitVec 3)
  | kxor (k : BitVec 3) (b : BitVec 3) (a : BitVec 3) (d : BitVec 3)
  | kandn (k : BitVec 3) (b : BitVec 3) (a : BitVec 3) (d : BitVec 3)
  | knot (k : BitVec 3) (a : BitVec 3) (d : BitVec 3)
  | kmov (k : BitVec 3) (b : BitVec 5) (d : BitVec 3)
  | kread (k : BitVec 3) (a : BitVec 3) (d : BitVec 5)
  | kpopc (k : BitVec 3) (a : BitVec 3) (d : BitVec 5)
  | kffs (k : BitVec 3) (a : BitVec 3) (d : BitVec 5)
  | vqnt (n : Bool) (a : BitVec 5) (d : BitVec 5)
  | vdqnt (n : Bool) (a : BitVec 5) (d : BitVec 5)
  | vdot (n : Bool) (b : BitVec 5) (a : BitVec 5) (d : BitVec 5)
  | vhist (n : Bool) (k : BitVec 3) (a : BitVec 5) (d : BitVec 5)
  | vld (e : BitVec 2) (k : BitVec 3) (a : BitVec 5) (d : BitVec 5)
  | vlds (e : BitVec 2) (k : BitVec 3) (t : BitVec 5) (a : BitVec 5) (d : BitVec 5)
  | vldbc (e : BitVec 2) (k : BitVec 3) (a : BitVec 5) (d : BitVec 5)
  | vldb (a : BitVec 5) (d : BitVec 5)
  | vst (e : BitVec 2) (k : BitVec 3) (a : BitVec 5) (d : BitVec 5)
  | vsts (e : BitVec 2) (k : BitVec 3) (t : BitVec 5) (a : BitVec 5) (d : BitVec 5)
  | vgather (e : BitVec 2) (k : BitVec 3) (x : BitVec 5) (a : BitVec 5) (d : BitVec 5)
  | vscatter (e : BitVec 2) (k : BitVec 3) (x : BitVec 5) (a : BitVec 5) (d : BitVec 5)
  | nop
  | vmov16 (m : Bool) (b : BitVec 5) (d : BitVec 5)
  | vadd16 (m : Bool) (b : BitVec 5) (d : BitVec 5)
  | vsub16 (m : Bool) (b : BitVec 5) (d : BitVec 5)
  | vmul16 (m : Bool) (b : BitVec 5) (d : BitVec 5)
  | vand16 (m : Bool) (b : BitVec 5) (d : BitVec 5)
  | vor16 (m : Bool) (b : BitVec 5) (d : BitVec 5)
  | vxor16 (m : Bool) (b : BitVec 5) (d : BitVec 5)
  | vshl16 (m : Bool) (b : BitVec 5) (d : BitVec 5)
  | vshr16 (m : Bool) (b : BitVec 5) (d : BitVec 5)
  | vmin16 (m : Bool) (b : BitVec 5) (d : BitVec 5)
  | vmax16 (m : Bool) (b : BitVec 5) (d : BitVec 5)
  | vfadd16 (m : Bool) (b : BitVec 5) (d : BitVec 5)
  | vfsub16 (m : Bool) (b : BitVec 5) (d : BitVec 5)
  | vfmul16 (m : Bool) (b : BitVec 5) (d : BitVec 5)
  | vfmin16 (m : Bool) (b : BitVec 5) (d : BitVec 5)
  | vfmax16 (m : Bool) (b : BitVec 5) (d : BitVec 5)
  | longLatencyResult (t : Nat)
  | barrierArrival (t : Nat)
  | activeMessage (src : Src) (k : Nat)
  | meetRegistration (t : Nat)
  | meetDeadline (weld : Bool) (unit e : Nat)
  | quiescenceRelease (launch : Nat)
  | alignTimeout (cl : Nat)
  | forwardedRecordArrival (cl : Nat)
  | taskDispatch (k : Nat)
  | taskStartFreeContext (k : Nat)
  | taskSteal (k : Nat)
  | tileOperandsConsumed (k e : Nat)
  | mmaStep (k : Nat)
  | mstoreFillStep (k : Nat)
  | accumulatorClear (k : Nat) (one : Bool)
  | engineCommandStart (g : Nat)
  | engineChunkStart (g : Nat)
  | engineFinalStatus (g cmd : Nat)
  | engineReply (g : Nat) (h : Home)
  | engineAck (g : Nat) (h : Home)
  | engineSettle (g : Nat) (h : Home)
  | registerWrite (r : RegRef) (v : BitVec 64)
  | mcWrite (t : Nat) (v : BitVec 64)
  | lgrantWrite (t : Nat) (v : BitVec 64)
  | srseedWrite (t : Nat) (v : BitVec 64)
  | xfringWrite (t : Nat) (v : BitVec 64)
  | xfheadWrite (t : Nat) (v : BitVec 64)
  | xfclaimRead (t : Nat) (d : BitVec 5)
  | transformWake (k : Nat)
  | clpartWrite (cl : Nat) (v : BitVec 64)
  | clpartLeavingLine (cl : Nat)
  | clpartShrinkComplete (cl : Nat)
  | hclrGo (cl : Nat) (v : BitVec 64)
  | hclrComplete (cl : Nat)
  | hearthUpdate (cl : Nat)
  | hearthSummaryBroadcast (cl : Nat)
  | hearthSummaryApply (dst src : Nat)
  | tlbiCompletion (cl : Nat)
  | cwbWritebackDone (t : Nat)
  | registerRefill (t : Nat)
  | performLoad (src : Src) (h : Home)
  | performStore (src : Src) (h : Home)
  | performAtomic (src : Src) (h : Home)
  | recall (line : Nat)
  | l1Eviction (k line : Nat)
  | processReply (k : Nat) (h : Home)
  | processAck (k : Nat) (h : Home)
  | processAtomicReply (k : Nat) (h : Home)
  | processInv (k : Nat) (h : Home)
  | processSettle (k : Nat) (h : Home)
  | bankDrowsy (k b : Nat)
  | bankWake (k b : Nat)
  | coreGate (k : Nat)
  | coreWake (k : Nat)
  | expanderExpandComplete (cl blk : Nat) (ue : Bool)
  | expanderCompressComplete (cl blk : Nat)
  | tscMessageArrival (cl : Nat)
  | tlbWriteback (k : Nat)
  | tscMsgRead (cl : Nat)
  | tinboxPop (cl : Nat)
  | tinboxDefer (cl : Nat)
  | tfpost (cl : Nat) (v : BitVec 64)
  | tfattach (cl : Nat) (v : BitVec 64)
  | faultAnswerRetry (cl asid seq : Nat)
  | faultAnswerKill (cl asid seq : Nat)
  | faultAnswerTimeout (cl seq : Nat)
  | fetchBlockDelivery (cl asid va : Nat)
  | ebudgetRefill
  | channelDeadlockScan (cl : Nat)
  | qtailWrite (fn q : Nat) (v : BitVec 64)
  | qcfgWrite (fn q : Nat) (v : BitVec 64)
  | nopEntry (fn q : Nat)
  | launchEntry (fn q : Nat)
  | grun (fn q : Nat)
  | gpatch (fn q : Nat)
  | cancelEntry (fn q : Nat)
  | gfree (fn q : Nat)
  | reservedEntry (fn q : Nat)
  | graphNodeAccept (fn slot bank : Nat)
  | cancelArrival (launch k : Nat)
  | allocatorPass
  | launchStart (launch : Nat)
  | usageAccounting
  | preemptContext (cp : Nat) (v : BitVec 64)
  | preemptCore (cp : Nat) (v : BitVec 64)
  | preemptLaunch (cp : Nat) (v : BitVec 64)
  | preemptionSave (t : Nat)
  | preemptionLimitExpiry (t : Nat)
  | contextRestore (addr k c : Nat)
  | contextResume (t : Nat)
  | biasFlipToHost (page : Nat)
  | biasFlipToDevice (page : Nat)
  | biasFlipComplete (page : Nat)
  | cxlMemRead (pa n : Nat)
  | cxlMemWrite (pa n : Nat) (v : BitVec 512)
  | cxlIoRequest (write : Bool) (h : Home) (off n : Nat) (v : BitVec 512)
  | tscStoreLoad (cl : Nat) (img : List (BitVec 8))
  | heartbeat (cp : Nat)
  | heartbeatTimeout (cp : Nat)
  | progressTimeout (launch : Nat)
  | escalationTimeout (launch : Nat)
  | mailboxUpdate
  | liveReplacementRestart (cp : Nat)
  | mailboxQuench
  | mailboxLoadimg
  | mailboxReserved
  | coldBoot
  | packageReset
  | ioDieWatchdogExpiry
  | droopStretch (cl : Nat)
  | powerAlarmAssert
  | powerAlarmDeassert
  | narrowClear
  | kdstateWrite (v : BitVec 64)
  | getVersion
  | getCapabilities
  | negotiateAlgorithms
  | getDigests
  | getCertificate (slot : Nat)
  | challenge (nonce : Nat)
  | getMeasurements (index : Nat)
  | debugRegisterRead (t : Nat) (f : RegFile) (r : Nat)
  | debugRegisterWrite (t : Nat) (f : RegFile) (r : Nat) (v : BitVec 512)
  | debugAccumulatorRead (k : Nat) (one : Bool) (i j : Nat)
  | dispenserTraceRead (cl e w : Nat)
  | debuggerResume (t : Nat)
  | haltedContextFree (t : Nat)
  | hostCacheSnoop (line : Nat)
  | mmaskLastByteRead (k : Nat)
  deriving DecidableEq, Repr

end Sys2Proof
end

