-- ==== Sys2Proof/Machine/State.lean ====
section
/-! DEFINITION. The state of the whole device as plain data, the reasons a step can stop, and the state after reset. -/

namespace Sys2Proof.Machine

/-- Why a machine stops with a fault. -/
inductive Fault where
  /-- The package has no power: level 5 was taken by the platform and the host has not re-initialised the device
  (18 R436). Raised by every step but a cold boot. Safe. -/
  | packageDown
  deriving DecidableEq, Repr

/-- Why an instruction has no meaning. -/
inductive Refusal where
  /-- The instruction has no meaning in the model yet. Safe. -/
  | notModelled (mnemonic : String)
  deriving DecidableEq, Repr

/-! ## Registers -/

/-- How an architectural register is mapped (07 R189, R190, R192). -/
inductive Mapping where
  | unmapped | physical | spilled
  deriving DecidableEq, Repr

/-- A scalar register: value, taint set, mapping, the identity of its physical register, its last use (07 R192). -/
structure SReg where
  val : Word := 0
  taint : BitVec 8 := 0
  map : Mapping := .unmapped
  id : Nat := 0
  used : Nat := 0
  deriving DecidableEq, Repr

/-- A vector register of 16 lanes of 32 bits. -/
structure VReg where
  val : BitVec 512 := 0
  taint : BitVec 8 := 0
  map : Mapping := .unmapped
  id : Nat := 0
  used : Nat := 0
  deriving DecidableEq, Repr

/-- A mask register; masks are not renamed (07 R189). -/
structure KReg where
  val : BitVec 16 := 0
  taint : BitVec 8 := 0
  deriving DecidableEq, Repr

/-! ## The ordering machine -/

/-- A tag (05 R130, R135): busy, age, replies still to come, the (home, line) pairs it waits for, and
those its loads went to (06 R161). -/
structure Tag where
  busy : Bool := false
  age : Nat := 0
  replies : Nat := 0
  waits : List (Home × Nat) := []
  homes : List (Home × Nat) := []
  deriving DecidableEq, Repr

/-- Where an access lands: the location of its first byte in the flat map of log entry 6, the home that performs it,
whether the line is cacheable in an L1 (05 R150), whether a slice caches it (02 R53), the (ASID, 64 KiB granule) of a translated access (02 R80), and the
page size of the entry that translated it (01 R26, R42). -/
structure Place where
  loc : Nat
  home : Home
  cacheable : Bool := false
  alloc : Bool := false
  pair : Option (Nat × Nat) := none
  size : Nat := 0
  deriving DecidableEq, Repr

/-- A slot of the region store buffer (05 R130). `mask` bit i says byte i of the line is written; `also` are the places of stores
that joined it through other translations of the line (01 R42). -/
structure Slot where
  line : Nat
  place : Place
  mask : BitVec 128
  data : BitVec 1024
  also : List Place := []
  deriving DecidableEq, Repr

/-- The operation of an atomic (12 R321). -/
inductive AtomOp where
  | aadd | afadd | amin | amax | aminu | amaxu | aand | aor | axor | aswap | acas
  deriving DecidableEq, Repr

/-- What a request asks of its home (05 R132). `bytes` is how many bytes a load or an atomic names. -/
inductive ReqKind where
  | load (bytes : Nat)
  | store (mask : BitVec 128) (data : BitVec 1024)
  | atomic (op : AtomOp) (dbl : Bool) (y expected : Word) (mc : Nat)
  | writeback                       -- CWB's place in its FIFO (14 R387)
  deriving DecidableEq, Repr

/-- A request in an outbound FIFO. `tag` is none for a request that takes no tag; `part` numbers the pieces of one
instruction; `posted` marks a posted AMOP (12 R336); `also` is that of the slot it drains. -/
structure Req where
  src : Src
  place : Place
  kind : ReqKind
  tag : Option Nat := none
  part : Nat := 0
  posted : Bool := false
  also : List Place := []
  deriving DecidableEq, Repr

/-- Who receives a message: a core (a TSC among them) or a copy engine (06 R173). -/
inductive Rcv where
  | core (k : Nat)
  | engine (g : Nat)
  deriving DecidableEq, Repr

/-- A message to a receive queue (05 R132). -/
inductive MsgKind where
  | reply (src : Src) (tag : Option Nat) (part : Nat) (place : Place) (bytes : Nat) (val : Word) (line : BitVec 1024)
      (settled : Bool)
  | ack (src : Src) (mask : BitVec 128) (data : BitVec 1024) (settled : Bool)
  | atomicReply (src : Src) (tag : Option Nat) (part : Nat) (old : Word) (mask : BitVec 128) (data : BitVec 1024)
      (settled : Bool) (posted : Bool)
  | inv
  | settle
  deriving DecidableEq, Repr

/-- A message of line `line` from `home` to `dest`. -/
structure Msg where
  dest : Rcv
  home : Home
  line : Nat
  kind : MsgKind
  deriving DecidableEq, Repr

/-- Directory state of a line (05 R130): sharers S, invalidations outstanding P, and settle set W. -/
structure Dir where
  sharers : List Nat := []
  invs : NMap Nat := []
  waiters : List Rcv := []
  born : Nat := 0             -- when the entry was allocated (02 R60)
  deriving DecidableEq, Repr

/-- An L1 copy of a line. -/
structure L1Line where
  data : BitVec 1024
  settled : Bool
  deriving DecidableEq, Repr

/-- A device-memory line cached in a slice (02 R59): its way, whether it is dirty and then the 128 bytes its stack still
holds, the pair it recorded (02 R80), and whether it is leaving (02 R65). -/
structure SliceLine where
  way : Nat
  dirty : Bool
  stale : BitVec 1024
  pair : Option (Nat × Nat)
  leaving : Bool
  deriving DecidableEq, Repr

/-- What an instruction that left rotation does with the bytes it waits for (05 R141, R144). -/
inductive Finish where
  | scalar (d : Nat) (bytes : Nat) (signed : Bool)
  | ldm (d n : Nat)
  | vector (vd : Nat) (bcast : Bool) (lanes : BitVec 16) (masked : Bool)
  | vldb (vd regs : Nat)
  | atomic (d : Nat) (signExtend : Bool) (dbl : Bool)
  | bits (d bit n : Nat)
  | mscale (one : Bool)
  | spawn
  deriving DecidableEq, Repr

/-- One piece of an access in flight: which lane or word it is, where it lies, and its value once it is known. -/
structure Piece where
  index : Nat
  place : Place
  bytes : Nat
  overlay : Bool                        -- bytes of the RSB overlay the reply (05 R141; not for AMLD, 12 R336)
  val : Option Word
  deriving DecidableEq, Repr

/-- The access in flight of a thread that left rotation for it. -/
structure Pending where
  tag : Option Nat
  finish : Finish
  pieces : List Piece
  deriving DecidableEq, Repr

/-! ## Threads -/

/-- Why a thread is out of rotation (07 R188). -/
inductive Wait where
  | reply                                -- a memory access through a home, an atomic, a vector access
  | taint (mask : BitVec 8)              -- operands whose taint must retire
  | tag (age : Nat)                      -- a tag is needed, none is free: the oldest busy tag's age (05 R140)
  | tile (entry : Nat)                   -- a tile operand is not ready or full
  | tileMat (entry : Nat)                -- the same, of an MMA or an MMAC, which a pre-emption stops there (18 R430)
  | tileIdle (entry : Nat)               -- a fill, refill or drain must wait its turn
  | tileSettled (entry : Nat)            -- TWAITR
  | tileFree                             -- TDEF with no entry free
  | settled                              -- Stores settled
  | loads                                -- Loads settled
  | fence (mask : BitVec 4) (scope : BitVec 2)
  | drained                              -- Drained, before an arrival or the thread's end
  | tlb (asid : Nat) (va : Word) (acc : Nat) -- a TLB miss in a miss slot: what it accesses, and its kind (01 R31)
  | missSlot                             -- no miss slot free (R32)
  | fetch (asid va : Nat)                -- a fetch block is not held
  | refill (vec : Bool) (r : Nat) (reads : List (Bool × Nat)) -- a spilled register is read, among those its instruction reads
  | latency (till : Nat)                 -- a fixed latency above 8 cycles
  | budget                               -- the energy budget is zero
  | align                                -- ALIGN, till the record's release
  | acc (one : Bool)                     -- an accumulator another context owns
  | matrix                               -- a matrix instruction in progress
  | window (ways : List Nat)             -- cluster-memory ways not yet usable (02 R65)
  | block (cl blk : Nat)                 -- a block of cluster memory that the expander does not hold (04 R113)
  | bank (b : Nat)                       -- a drowsy bank of the own core, or with 32 the gated core itself (02 R56, R57)
  | gate (k : Nat)                       -- a gated core that a store of the thread has reached (02 R57)
  | engineQueue (g : Nat)                -- an engine queue is full
  | ownFifo                              -- earlier stores to the own core must perform before a descriptor is read
  | push                                 -- a task record needs a pool slot
  | channel (chan : Nat) (send : Bool)   -- a channel FIFO is empty or full
  | channelRecord (cl chan : Nat)        -- no channel record of the cluster is free (12 R330)
  | completion (off : Nat)               -- CPYW
  | inbox                                -- the TSC reads tmsg0 with an empty inbox
  | tlbi                                 -- a TLBI is in progress
  | writeback                            -- CWB waits for its line
  | twin (group : Nat)                   -- a second thread of a core at an MMAC in progress
  | preempt                              -- stopped at a commit point for its save (18 R430)
  deriving DecidableEq, Repr

/-- Why a thread is parked (07 R186). -/
inductive Park where
  | holder (weld : Bool) (unit entry : Nat)
  | barrier
  | waitw (since : Nat)
  | ring                                 -- the transform thread in WAITW (04 R122)
  | mmac
  | fault                                -- stopped on a translation fault whose answer is awaited
  deriving DecidableEq, Repr

/-- The state of a context (07 R186), with a halted context (14 R384), one stopped by a trap with tvec 0 (18 R425) and one
stopped for a debugger (18 R426). -/
inductive RunState where
  | free
  | ready
  | waiting (w : Wait)
  | parked (p : Park)
  | halted
  | trapStopped
  | debugStopped
  deriving DecidableEq, Repr

/-- The checkpoint of a region (18 R428): the registers and the CSRs of 14 R379. -/
structure Ckpt where
  s : NMap SReg := []
  v : NMap VReg := []
  k : NMap KReg := []
  mc : Nat := 1
  srseed : BitVec 32 := 1
  bsrd : Word := 0
  bswr : Word := 0
  bsacc : BitVec 7 := 0
  fmtpend : BitVec 25 := 0
  pfx : Bool := false
  deriving DecidableEq, Repr

/-- A pending FORK child (07 R198, 14 R367): what it takes from its parent at the FORK. -/
structure Child where
  dst : Nat
  pc : Word
  s : NMap SReg
  v : NMap VReg
  k : NMap KReg
  mc : Nat
  srseed : BitVec 32
  handles : NMap (Option Nat)
  sv : Bool
  tvec : Word
  escratch : Word
  bsrd : Word
  bswr : Word
  bsacc : BitVec 7
  prio : Nat
  args : List Word
  deriving DecidableEq, Repr

/-- The fields of the lrect CSR (07 R183). -/
structure Rect where
  x0 : Nat := 0
  y0 : Nat := 0
  w : Nat := 0
  h : Nat := 0
  nthr : Nat := 0
  deriving DecidableEq, Repr

/-- The lgrant CSR (01 R20). -/
structure Grant where
  smask : BitVec 12 := 0
  sbase : BitVec 6 := 0
  ssize : BitVec 7 := 0
  cmem : Bool := false
  deriving DecidableEq, Repr

/-- A barrier arrival (12 R326, R327). kind 0 BAR, 1 BARADD, 2 BARFADD. -/
structure Arrival where
  launch : Nat
  group : Word
  t : Nat
  kind : Nat
  dbl : Bool
  d : Nat
  val : Word
  mc : Nat
  unmap : List (BitVec 5) := []         -- scalar sources marked last-use, unmapped at the release
  deriving DecidableEq, Repr

/-- An MMAC arrival (13 R351, R352). Tile entries are none where the thread supplies none. -/
structure MmacArr where
  launch : Nat
  group : Word
  t : Nat
  one : Bool
  zero : Bool
  fa : Nat
  fb : Nat
  ta : Option Nat
  tb : Option Nat
  cls : Nat := 0                        -- energy class
  started : Bool := false
  gone : Bool := false                  -- its thread has ended since the start
  deriving DecidableEq, Repr

/-- The second half of an instruction whose issue step has been taken and that still waits: a barrier or a meet for
Drained, an ending thread for Drained, HALT for Drained, SPAWN for Stores settled and then for its record and a slot,
CPY and TFILL for their issue step once the descriptor has been read. -/
inductive Stage where
  | barrier (a : Arrival)
  | meet (weld : Bool) (p q w : Nat)
  | finish (results : List Word)
  | halt
  | spawn (p : Place)
  | spawnRead (rec : List Word)
  | copy (desc : List Word) (cls : Nat) (tile : Option Nat)
  deriving DecidableEq, Repr

/-- A context: registers, tag file, region store buffer, CSRs, and the thread it holds. -/
structure Thread where
  run : RunState := .free
  pc : Word := 0
  s : NMap SReg := []
  v : NMap VReg := []
  k : NMap KReg := []
  limbo : List Nat := []                -- physical scalar registers that return at the next commit point (07 R191)
  limboV : List Nat := []
  tags : NMap Tag := []
  nextAge : Nat := 0
  rsb : List Slot := []
  storeCount : Nat := 0
  awaiting : List (Home × Nat) := []
  inflight : Option Pending := none
  sv : Bool := false
  pfx : Bool := false
  pin : Bool := false
  hflag : Bool := false
  launch : Nat := 0
  fn : Nat := 0
  mc : Nat := 1
  rect : Rect := {}
  asid : Nat := 0
  srseed : BitVec 32 := 1
  fmtpend : BitVec 25 := 0
  regpc : Word := 0
  boundary : Bool := false              -- no instruction has issued since the last commit point or dispatch (18 R430)
  ckpt : Ckpt := {}
  lgrant : Grant := {}
  ebTe : Bool := false
  ebRefill : BitVec 24 := 0xFFFFFF
  ebBudget : BitVec 32 := 0xFFFFFFFF
  mprogV : Bool := false
  mprogSteps : Nat := 0
  fadr : Word := 0
  fcause : BitVec 6 := 0                -- ACC in [5:4], CAUSE in [3:0] (14 R381)
  bsrd : Word := 0
  bswr : Word := 0
  bsacc : BitVec 7 := 0
  tvec : Word := 0
  epc : Word := 0
  estatus : Word := 0
  ecause : BitVec 13 := 0               -- CODE in [12:8], CAUSE in [4:0] (14 R381)
  escratch : Word := 0
  handles : NMap (Option Nat) := []
  tcons : List Nat := []
  children : List Child := []
  task : Bool := false
  prio : Nat := 0
  cancel : Bool := false
  faultSeq : Option Nat := none
  stage : Option Stage := none
  inUse : List (Bool × Nat) := []       -- registers that the instruction in progress reads or writes: vector?, number (07 R192)
  owed : Option (Word × Nat) := none    -- parked on a fault whose record has still to be posted: address, access (01 R49)
  releasing : List Child := []          -- released children that still need a context or a pool slot (16 R411)
  notBefore : Nat := 0                  -- the cycle from which its next instruction may issue (07 R188)
  atWaitw : Bool := false               -- stopped at a WAITW for its save (12 R326)
  deriving DecidableEq, Repr

/-! ## Cores -/

/-- A translation entry: the words TE0 and TE1 (01 R26). -/
structure Tlb where
  te0 : Word := 0
  te1 : Word := 0
  deriving DecidableEq, Repr

/-- The state of a tile (02 R74). -/
inductive TileState where
  | empty | filling | ready | draining
  deriving DecidableEq, Repr

/-- The pending operation of a tile (02 R74). -/
inductive TileOp where
  | none | refill | drain | release
  deriving DecidableEq, Repr

/-- What carries a requested fill or drain: an engine command by its number, or an MSTORE of a thread. -/
inductive Filler where
  | engine (cmd : Nat)
  | mstore (t : Nat)
  deriving DecidableEq, Repr

/-- An entry of the tile table (02 R74, 13 R337). `live` is false for a free entry. A contribution is an ASID, a granule
and a number of units (02 R79). -/
structure Tile where
  live : Bool := false
  launch : Nat := 0
  addr : Word := 0
  shape : Word := 0
  refs : Nat := 0
  state : TileState := .empty
  count : Nat := 0
  op : TileOp := .none
  filler : Option Filler := .none
  relWait : Bool := false               -- a release waits for the operation in progress (02 R76)
  contribs : List (Nat × Nat × Nat) := []
  bad : Bool := false                   -- F of 13 R341
  deriving DecidableEq, Repr

/-- An accumulator (13 R346, R347): elements by 128 i + j, mask rows, owner. -/
structure Acc where
  elems : NMap (BitVec 32) := []
  mask : NMap (BitVec 128) := []
  owner : Option Nat := none
  clearing : Bool := false
  deriving DecidableEq, Repr

/-- A job of the matrix sequencer (13 R349, R355). Tiles are table entries; `fa` and `fb` are format codes. -/
inductive JobKind where
  | mma (ta tb : Nat) (fa fb m n k : Nat) (zero : Bool)
  | mmac (group : Nat)
  | mstore (entry : Nat) (fd rnd : Nat) (sat : Bool) (rows cols : Nat)
  | mmask (entry : Nat) (bytes : Nat)
  deriving DecidableEq, Repr

/-- How far the accesses of a job's step `step` to cluster memory have come: the blocks accessed, and the one that waits at the
expander (04 R113). -/
structure StepBlocks where
  step : Nat := 0
  had : List Nat := []
  wait : Option Nat := none
  deriving DecidableEq, Repr

/-- A job, its thread, its accumulator, the steps it has taken, and whether its instruction consumed a prefix (18 R430). -/
structure Job where
  t : Nat
  one : Bool
  kind : JobKind
  steps : Nat := 0
  pfx : Bool := false
  blocks : StepBlocks := {}
  deriving DecidableEq, Repr

/-- An entry of a meet table (07 R200 to R205). `live` holds the values of the named registers. -/
structure Meet where
  valid : Bool := false
  launch : Nat := 0
  site : Nat := 0
  smask : BitVec 32 := 0
  vmask : BitVec 8 := 0
  group : Nat := 0
  lives : List Nat := []
  holder : Nat := 0
  count : Nat := 0
  deadline : Nat := 0
  deriving DecidableEq, Repr

/-- A task record (16 R406) as the 16 doublewords it has in memory. -/
abbrev Record := List Word

/-- A record in a deque: when it entered. -/
structure Queued where
  task : Record
  since : Nat
  deriving DecidableEq, Repr

/-- A barrel slot: the thread it holds and the instructions issued since it took the slot (07 R187). -/
structure BarrelSlot where
  t : Nat
  issued : Nat
  deriving DecidableEq, Repr

/-- A fetch block held by a core (07 R196). -/
structure Block where
  asid : Nat
  va : Nat
  bits : BitVec 512
  deriving DecidableEq, Repr

/-- A core: L1, TLB, tile table, accumulators, sequencer, meet table, deque, barrel and core CSRs. A TSC has only a TLB-less
core entry for its L1-less receive queues. -/
structure Core where
  l1 : NMap (Option L1Line) := []
  tlb : NMap Tlb := []
  tlbPtr : Nat := 0
  misses : NMap (Option (Nat × Nat)) := []  -- the busy ones of the 4 miss slots: (ASID, VA[51:19]) (01 R32)
  blocks : List Block := []
  barrel : NMap (Option BarrelSlot) := []
  readyQ : List Nat := []
  joinedAt : Nat := 0                   -- the cycle in which a thread last became ready, and which did (07 R187)
  joined : List Nat := []
  handling : List Req := []             -- the atomics for which the handler has issued once (12 R334)
  wanted : List Nat := []               -- banks that an access waits for; 32 the gated core itself (02 R56, R57)
  nextId : Nat := 1                     -- identities of physical registers given out so far
  tiles : NMap Tile := []
  acc0 : Acc := {}
  acc1 : Acc := {}
  jobs : List Job := []
  lastOne : Bool := true                -- the accumulator stepped last; a0 starts (13 R349)
  narrow : Bool := false
  meets : NMap Meet := []
  deque : List Queued := []
  spIdle : BitVec 16 := 16
  spAwake : BitVec 32 := 0xFFFFFFFF
  touched : NMap Nat := []
  gated : Bool := false
  xfLog : Nat := 0
  xfBase : Nat := 0
  claim : BitVec 16 := 0
  head : BitVec 16 := 0
  stealDly : BitVec 32 := 2048
  lastSteal : Option Nat := none
  owner : Option Nat := none            -- the live launch the core belongs to (16 R395)
  deriving DecidableEq, Repr

/-! ## Clusters -/

/-- An entry of a hearth table (02 R78). -/
structure Hearth where
  valid : Bool := false
  asid : Nat := 0
  gran : Nat := 0
  cores : NMap Nat := []
  slice : Nat := 0
  deriving DecidableEq, Repr

/-- A hearth update on its way to a table (02 R82): the pair, the core it counts for (none: the slice), a signed number of units,
and the cycle of its event. -/
structure HearthUpd where
  asid : Nat
  gran : Nat
  core : Option Nat
  delta : Int
  since : Nat := 0
  deriving DecidableEq, Repr

/-- The state of an expander entry (04 R113); an invalid entry is not listed. -/
inductive ExpState where
  | expanding | clean | dirty | compressing
  deriving DecidableEq, Repr

/-- An expander entry; entries are kept least recently used first (04 R114). -/
structure Expanded where
  blk : Nat
  state : ExpState
  forBlk : Option Nat := none           -- of an entry that is leaving: the block that takes its place (04 R114)
  deriving DecidableEq, Repr

/-- A message to a TSC (01 R38): its three words and, for a shootdown, the command processor that sent it; for a miss, the function and
the launch of the access, which its record names (01 R50). -/
structure TscMsg where
  w0 : Word
  w1 : Word
  w2 : Word
  cp : Nat := 0
  fn : Nat := 0
  launch : Nat := 0
  deriving DecidableEq, Repr

/-- What waits on a fault record (01 R39, R49): a thread with the address it accessed, one of a launch whose context has been
saved, with the block of its image (01 R52), an engine's command. -/
inductive Waiter where
  | thread (t : Nat) (va : Word)
  | saved (t launch block : Nat) (va : Word)
  | engine (g cmd : Nat)
  deriving DecidableEq, Repr

/-- A pending fault record (01 R50). -/
structure FaultRec where
  seq : Nat
  asid : Nat
  w0 : Word
  va : Word
  w2 : Word
  w3 : Word
  pin : Bool
  waiters : List Waiter
  posted : Nat                          -- cycle it was posted, for the fault-answer time
  late : Bool := false                  -- the fault-answer time has raised its level
  fn : Nat := 0
  launch : Nat := 0                     -- the launch of the access that posted it (22 R452)
  deriving DecidableEq, Repr

/-- A record that 64 pending ones keep from being posted (01 R49): the four words it will have, and whose it is. -/
structure OwedRec where
  words : List Word
  asid : Nat
  pin : Bool
  waiters : List Waiter
  fn : Nat
  launch : Nat
  deriving DecidableEq, Repr

/-- An answer kept for a thread whose context was saved while it waited (01 R52): RETRY, or KILL with the fault cause and
address. -/
structure Answer where
  seq : Nat
  t : Nat
  launch : Nat
  block : Nat
  kill : Bool
  cause : BitVec 6
  va : Word
  deriving DecidableEq, Repr

/-- The align record of a cluster (07 R197). -/
structure Align where
  pc : Word
  launch : Nat
  cores : List Nat
  start : Nat
  waiters : List Nat
  deriving DecidableEq, Repr

/-- A thread that waits on a channel record: the word it sends, or the channel word of a receiver and its destination; and
its sources marked last-use. -/
structure ChanWait where
  t : Nat
  word : Word
  d : Nat := 0
  unmap : List (BitVec 5) := []
  deriving DecidableEq, Repr

/-- A channel record (12 R330): key, FIFO, last sender, waiting receivers and senders in order. -/
structure Chan where
  live : Bool := false
  launch : Nat := 0
  chan : Nat := 0
  fifo : List Word := []
  last : Option Nat := none
  recvs : List ChanWait := []
  sends : List ChanWait := []
  sent : Nat := 0                       -- the cluster's count of CHSENDs at the last one to this record (12 R333)
  deriving DecidableEq, Repr

/-- A fetch request outstanding at the cluster's port (07 R196), with the threads that wait. -/
structure Fetch where
  asid : Nat
  va : Nat
  waiters : List Nat
  asked : Bool := false                 -- its miss message has been sent
  fn : Nat := 0                         -- the function and the launch of the thread that missed first
  launch : Nat := 0
  deriving DecidableEq, Repr

/-- A TLBI in progress (01 R42): the accesses that were translated through removed entries and are not yet performed, by who
makes them and where they lie. -/
structure TlbiWait where
  held : List (Src × Place)
  deriving DecidableEq, Repr

/-- A cluster. `mesh` holds the messages on their way to its TSC (01 R38). DESIGN CHOICE: those of different senders arrive in the
order of their sending (log entry 105). -/
structure Cluster where
  spw : Nat := 0
  busy : Bool := false
  drain : Bool := false
  refused : Bool := false
  dleft : Nat := 0
  oldSpw : Nat := 0
  metas : NMap Byte := []               -- metadata byte of each block (04 R108)
  expander : List Expanded := []
  hearth : NMap Hearth := []
  updates : List HearthUpd := []
  hclrAsid : Nat := 0
  hclrBusy : Option Nat := none          -- the ASID whose entries are being removed
  ctc : NMap Tlb := []
  fetches : List Fetch := []
  align : Option Align := none
  weld : NMap Meet := []
  arrivals : List Arrival := []
  mmacs : List MmacArr := []
  chans : NMap Chan := []
  sends : Nat := 0                      -- CHSENDs to records of the cluster so far (12 R333)
  withdrawn : List Arrival := []        -- barrier arrivals that a pre-emption has withdrawn in cycle `withdrawnAt` (12 R328)
  withdrawnAt : Nat := 0
  scan : List (Nat × Nat × Nat) := []   -- receive waits seen by the last scan: thread, record, sends then
  pool : List (Nat × Record) := []
  forwarded : List Queued := []
  trace : List (Word × Word) := []
  bfwdEn : Bool := false
  bfwdMargin : BitVec 16 := 16
  summaries : NMap (NMap Nat) := []     -- last summary of each other cluster, by set
  sumInbox : NMap (NMap Nat) := []      -- summaries broadcast and not yet applied
  icache : List (Nat × BitVec 512) := [] -- 64-byte blocks the instruction cache holds by physical address (07 R196)
  istore : Bool := false                -- the TSC's instruction store has been loaded
  reload : Bool := false                -- a quench has touched the cluster since (01 R36)
  working : Bool := false               -- the TSC has read `tmsg0` and not yet popped or deferred that message (01 R36)
  mesh : List TscMsg := []
  inbox : List TscMsg := []
  deferred : List TscMsg := []
  ue : Bool := false
  hostErr : Bool := false
  rej : Bool := false
  tfail : Bool := false
  tseq : Nat := 0                       -- SEQ of the next fault record
  tlast : Nat := 0                      -- SEQ of the last record posted
  twtgt : BitVec 12 := 0
  faults : List FaultRec := []
  owed : List OwedRec := []             -- records to be posted when a slot frees, oldest first (01 R49)
  writebacks : List (Nat × Tlb) := []   -- TLB entries on their way to a core (01 R34)
  answers : List Answer := []
  tlbi : Option TlbiWait := none
  tscStopped : Bool := false
  quench : Nat := 0                     -- the quench level in progress for the cluster (22 R449)
  hsel : BitVec 11 := 0
  deriving DecidableEq, Repr

/-! ## Engines -/

/-- Where a copy command stands in its current chunk: between chunks, reading (a packed stream's group header first),
writing (06 R171 to R173; 13 R363). -/
inductive ChunkPhase where
  | idle
  | header
  | reading
  | writing
  deriving DecidableEq, Repr

/-- A completed chunk of a command whose destination is as the spec states (04 R127): its source bytes as runs of addresses,
the lines it read with where they lie, its destination as runs, and how many changes of memory stood recorded when its
reads had come. -/
structure Copied where
  src : List (Word × Nat)
  lines : List Word
  places : NMap Nat
  dests : List (Word × Nat)
  seen : Nat
  deriving DecidableEq, Repr

/-- A copy command (06 R171, 13 R358 to R364): the descriptor it started from, and where its thread stood. The chunk in
progress holds its source lines with their places and the bytes returned, and the writes not yet sent. -/
structure Cmd where
  id : Nat
  desc : List Word
  t : Nat
  core : Nat
  cluster : Nat
  asid : Nat
  sv : Bool
  launch : Nat
  fn : Nat := 0
  srs : BitVec 32                       -- state at the start of the current chunk
  nextSrs : BitVec 32 := 1              -- state after the current chunk
  entered : Bool := true                -- false while a TFILL's command waits for its tile (13 R343)
  fill : Option Nat := none             -- tile entry a TFILL fills
  drain : Option Nat := none            -- tile entry a TFILL drains
  chunk : Nat := 0                      -- chunks completed
  poff : Nat := 0
  nextPoff : Nat := 0
  running : Bool := false
  cancelled : Bool := false
  cancelAt : Nat := 0                   -- the cycle of its CPYC (13 R365), plus 1
  stat : Nat := 0                       -- final status once decided
  phase : ChunkPhase := .idle
  lines : List Word := []               -- line addresses the chunk reads
  got : NMap (Option (BitVec 1024)) := [] -- those returned
  asked : Nat := 0                      -- lines whose reads have been sent
  reading : Nat := 0                    -- reads sent and not returned (06 R164, R172)
  size : Nat := 0                       -- bytes of cluster memory at the start of the chunk (02 R67)
  out : List (Word × Nat × Nat) := []   -- writes not yet sent: address, bytes, value
  unsettled : Nat := 0
  awaiting : List (Home × Nat) := []
  stopped : Option Nat := none          -- SEQ of the fault record it is attached to
  missed : Option (Nat × Bool) := none  -- an ETC miss in flight: page, destination access
  since : Nat := 0                      -- changes of memory recorded when it was issued (04 R127)
  places : NMap Nat := []               -- where the lines returned lie
  dests : List (Word × Nat) := []       -- where the chunk in progress writes; none once that is undefined
  seen : Nat := 0                       -- changes recorded when the chunk's reads had come
  copied : List Copied := []            -- completed chunks whose destination is not undefined
  lost : Bool := false                  -- the destination of every later chunk is undefined (04 R127, a PACK)
  redo : Bool := false                  -- it writes free values to chunks that have become undefined
  final : Option (Nat × List (Nat × Nat × Nat)) := none
    -- its final status once decided, and what of it is still to be written: offset, bytes, value (06 R164)
  deriving DecidableEq, Repr

/-- An engine: the running command first, then its queue (13 R362). -/
structure Engine where
  cmds : List Cmd := []                 -- commands not yet final: the running ones and the queue, in arrival order
  deriving DecidableEq, Repr

/-! ## Launch unit, functions and command processors -/

/-- Where a launch stands (16 R396 to R400, R369). -/
inductive Phase where
  | accepted | placed | live | ended
  deriving DecidableEq, Repr

/-- Which entry a launch came from: a queue entry, or a node of a graph replay. -/
inductive Origin where
  | queue (fn q : Nat)
  | node (fn slot bank : Nat)
  deriving DecidableEq, Repr

/-- Bytes of a local image that are still to be written to a block of cluster memory (16 R400). -/
structure LoadPiece where
  cl : Nat
  off : Nat
  bytes : Nat
  val : Nat
  deriving DecidableEq, Repr

/-- A launch. `entry` is the 16 doublewords of its LAUNCH entry. -/
structure Launch where
  num : Nat
  entry : List Word
  fn : Nat
  origin : Origin
  seqno : Nat                           -- the entry's number in its queue or replay
  phase : Phase := .accepted
  accepted : Nat := 0
  rect : Rect := {}
  sv : Bool := false
  stat : Nat := 0
  tasks : Nat := 0
  nrun : Nat := 0
  nabort : Nat := 0
  cancelled : Bool := false
  progress : Nat := 0
  level : Nat := 0
  cp : Nat := 0                         -- the command processor that accepted it
  passed : Option Nat := none           -- when the allocator first passed it over (16 R396)
  reached : List Nat := []              -- cores that its cancel has reached (16 R416)
  loading : Option (List LoadPiece) := none -- what its local image has still to write, once its load has begun (16 R400)
  deriving DecidableEq, Repr

/-- An accepted entry of a queue that has not completed. `tag` is its TAG (16 R391). -/
structure Accepted where
  seqno : Nat
  op : Nat
  tag : Word
  cpl : Word
  asid : Nat
  slot : Nat := 0
  bank : Nat := 0
  targets : List Nat := []              -- launches a CANCEL waits for
  replays : List (Nat × Nat) := []      -- replays (slot, bank) a CANCEL waits for
  ring : List (Nat × Nat) := []         -- targets of a CANCEL that are still in a ring: queue, number
  nrun : Nat := 0
  nabort : Nat := 0
  deriving DecidableEq, Repr

/-- A command queue (22 R442). -/
structure Queue where
  qbase : Nat := 0
  en : Bool := false
  err : Bool := false
  log2n : Nat := 4
  asid : Nat := 0
  tail : BitVec 16 := 0
  head : BitVec 16 := 0
  seqno : Nat := 0                      -- entries accepted so far
  open_ : List Accepted := []
  deriving DecidableEq, Repr

/-- A replay of a graph in a run bank (16 R404). -/
structure Replay where
  regs : NMap Word
  node : Nat := 0                       -- next node to accept
  count : Nat := 0
  running : List Nat := []              -- nodes accepted and not complete
  done : Nat := 0
  cancelled : Bool := false
  q : Nat := 0
  seqno : Nat := 0
  asid : Nat := 0
  deriving DecidableEq, Repr

/-- A graph slot (16 R403). -/
structure Slot16 where
  bound : Option Nat := none
  staging : NMap Word := []
  run0 : Option Replay := none
  run1 : Option Replay := none
  re : Bool := false
  deriving DecidableEq, Repr

/-- The three CSR instructions of RISC-V: write, set bits, clear bits (log entry 69). -/
inductive CsrOp where
  | rw | rs | rc
  deriving DecidableEq, Repr

/-- A function (01 R24, 22 R442 to R452). -/
structure Func where
  asid0 : Nat := 0
  asidN : Nat := 0
  weight : Nat := 1
  cap : Nat := 2 ^ 40 - 1
  refill : Nat := 0xFFFFFF
  usage : Nat := 0
  queues : NMap Queue := []
  slots : NMap Slot16 := []
  nrBase : Nat := 0
  nrLog : Nat := 0
  nrHead : BitVec 16 := 0
  nrTail : BitVec 16 := 0
  nrOvf : Bool := false
  nrSeq : Nat := 0
  msix : Nat := 0                       -- signals of MSI-X vector 0 so far
  deriving DecidableEq, Repr

/-- The standard CSRs of a command processor, which are RISC-V's (22 R443; log entry 69); `sstatus`, `sie` and `sip` are views of the
machine-mode ones. -/
structure CpCsrs where
  fcsr : BitVec 8 := 0
  mstatus : Word := 0
  medeleg : Word := 0
  mideleg : Word := 0
  mie : Word := 0
  mip : Word := 0
  mtvec : Word := 0
  mcounteren : BitVec 32 := 0
  mcountinhibit : BitVec 32 := 0
  mscratch : Word := 0
  mepc : Word := 0
  mcause : Word := 0
  mtval : Word := 0
  mcycle : Word := 0
  minstret : Word := 0
  stvec : Word := 0
  scounteren : BitVec 32 := 0
  sscratch : Word := 0
  sepc : Word := 0
  scause : Word := 0
  stval : Word := 0
  satp : Word := 0
  pmpcfg : NMap Word := []
  pmpaddr : NMap Word := []
  deriving DecidableEq, Repr

/-- A command processor (22 R443, R448). Its core is RV64GC (00 R1) with machine and supervisor mode. -/
structure Cp where
  x : NMap Word := []                   -- x1 to x31
  f : NMap Word := []                   -- f0 to f31
  pc : Word := 0
  smode : Bool := false                 -- supervisor mode, else machine mode
  csrs : CpCsrs := {}
  sel : Nat := 0
  ans : Nat := 4096
  resv : Nat := 2 ^ 20
  prelim : Nat := 2 ^ 16
  biasDir : Bool := false
  biasBusy : Bool := false
  biasPage : Nat := 0
  cwsel : Word := 0
  cwdat : Word := 0
  prog : Nat := 2 ^ 12
  esc : Nat := 2 ^ 10
  maxLvl : Nat := 4
  fring : Word := 0
  fringTail : Nat := 0
  wdsave : Nat := 0
  beat : Nat := 0
  running : Bool := true
  restart : Bool := false               -- the I/O die is restarting it (22 R448)
  irqs : List Nat := []                 -- save-complete notices not yet taken as interrupts: the cores named (22 R453)
  reserved : Option (Nat × Nat × Nat) := none
    -- the reservation of a load-reserved: address, bytes, and the changes of memory recorded when it was made
  acks : Nat := 0                       -- acknowledgements of the shootdown in progress (01 R43)
  shooting : Bool := false              -- a shootdown is in progress
  shoots : List (Nat × Word) := []      -- shootdowns its firmware will make next: scope, TE0 word
  deriving DecidableEq, Repr

/-- A pre-emption request for one context (18 R430, 22 R453): thread, block address, when it came, who asked. It stays until
every request of its block is over, when the header and the records are written. -/
structure Preempt where
  t : Nat
  launch : Nat
  block : Nat
  since : Nat
  cp : Nat
  noticed : Bool := false               -- its limit has expired on a pinned region
  quench : Bool := false                -- made by level 2: ended if a second limit expires (18 R436)
  gone : Bool := false                  -- the context has been saved or freed
  saved : Bool := false                 -- it has been saved
  deriving DecidableEq, Repr

/-- A context that a save has emptied and no restore has filled again (18 R432, R434): the block of its image, whether it stood at
a WAITW, and what the image does not hold of it, its current task and its priority. -/
structure SavedCtx where
  t : Nat
  launch : Nat
  block : Nat
  waitw : Bool
  task : Bool
  prio : Nat
  deriving DecidableEq, Repr

/-- A flip of a page's bias in progress (06 R179, R180). -/
structure Flip where
  page : Nat
  toHost : Bool
  before : List Req := []               -- the page's requests that were in FIFOs when the flip began
  deriving DecidableEq, Repr

/-- Firmware, boot and service state (22 R444 to R451, R455, R456). -/
structure Service where
  state : Nat := 1                      -- kdstate.STATE
  alarm : Bool := false
  narrow : Bool := false
  fell : Option Nat := none             -- when ALARM fell
  store : List Byte := []
  running : List Byte := []
  booted : Bool := true                 -- a valid image runs; without one only the physical function's mailbox answers (22 R445)
  quench : Nat := 0                     -- the quench level in progress for the device (22 R449)
  fused : Nat := 0
  update : Option Nat := none           -- command processors that have restarted
  newImage : List Byte := []
  mbCmd : Word := 0
  mbArg0 : Word := 0
  mbArg1 : Word := 0
  mbBusy : Bool := false
  mbNow : Nat := 0                      -- the command that runs (22 R451)
  mbResult : Nat := 0
  resetReq : Bool := false
  down : Bool := false                  -- level 5 taken, not yet booted
  spdm : Option (Nat × List Byte) := none -- the last SPDM response: code and payload
  deriving DecidableEq, Repr

/-- What the host or a debugger has been given, newest first. -/
inductive HostEvent where
  | readData (pa : Nat) (val : BitVec 512)
  | writeDone (pa : Nat)
  | ioRead (val : BitVec 512)
  | debug (val : BitVec 512)
  deriving DecidableEq, Repr

/-- An instruction of a command processor's firmware (22 R443; log entry 69): the 32 bits at its pc, of which a compressed one takes
the low half; and whether a store-conditional fails though its reservation stands, as RISC-V lets it. -/
structure CpAct where
  word : BitVec 32
  scFails : Bool := false
  deriving DecidableEq, Repr

/-- A move the environment has chosen: a row of the opcode table that is a step of the machine and not an encoded
instruction, the turn of a thread to issue (05 R134, 07 R187), or an instruction of a command processor. -/
inductive Move where
  | event (i : Instr)
  | turn (t : Nat)
  | firmware (p : Nat) (a : CpAct)
  deriving DecidableEq, Repr

/-- What the spec orders, or allows once, within one cycle: CLPART writes to a cluster (02 R63), arrivals at a meet table
(07 R202), senders to and receivers from a channel (12 R331, R332), the issue of a core (07 R187), the scans and passes that
come at set cycles (12 R333; 13 R357; 16 R396, R397, R409), quench requests and the launches they end (22 R449), a thread's stop for its save (12 R328),
a record's move (16 R415), a bellows read of a hearth table (02 R82), a task's end on a core (16 R418). -/
inductive Tie where
  | clpart (cl : Nat)
  | meet (weld : Bool) (unit : Nat)
  | chan (cl launch chan : Nat) (send : Bool)
  | issue (k : Nat)
  | scan (cl : Nat)
  | refill
  | allocator
  | usage
  | summary (cl : Nat)
  | quench
  | ended (launch : Nat)
  | stopped (t : Nat)
  | bellows (cl : Nat)
  | tasks (k : Nat)
  deriving DecidableEq, Repr

/-- A launch that has ended and is complete once its record is written (16 R391): its number, where it came from, and its
counts. -/
structure Closing where
  num : Nat
  origin : Origin
  seqno : Nat
  nrun : Nat
  nabort : Nat
  deriving DecidableEq, Repr

/-- A part of a record that the launch unit or a command processor writes: bytes at physical addresses, the notice of a
save that is complete, to a command processor, naming a core, or the completion of a launch whose record has been written. -/
inductive LaterAct where
  | nothing
  | bytes (bs : List (Nat × Byte))
  | irq (cp core : Nat)
  | close (c : Closing)
  deriving DecidableEq, Repr

/-- What goes one after another: the result entries of a launch (16 R401), the words of a completion record (16 R394), the
notice of a save block (18 R432), the fault records of a command processor (01 R50). -/
inductive Chain where
  | results (launch : Nat)
  | record (loc : Nat)
  | save (block : Nat)
  | ring (cp : Nat)
  deriving DecidableEq, Repr

/-- A part that waits until what precedes it in its chain is done and the lines named have settled. -/
structure Later where
  chain : Chain
  after : List Nat
  act : LaterAct
  deriving DecidableEq, Repr

/-- A CXL.io memory request that has arrived at its quadrant service core (06 R182): its home, an offset in it, its bytes, and the
value it writes, none for a read. -/
structure IoReq where
  home : Home
  off : Nat
  bytes : Nat
  val : Option (BitVec 512)
  deriving DecidableEq, Repr

/-- The whole device. -/
structure State where
  agenda : List Move := []
  pace : List Nat := []
  picks : List Nat := []                -- the environment's picks: the pieces and order of an engine's accesses (06 R164, R172), an event's command processor
  badLines : List Nat := []             -- lines a read of which meets an uncorrectable error (01 R37, 16 R400)
  lostLines : List Nat := []            -- host-memory lines that CXL.cache does not reach (01 R37)
  taken : List (Tie × Nat) := []        -- what has been done in this cycle of what a cycle orders, with its rank
  cur : Nat := 0
  cycle : Nat := 0
  dieReset : Nat := 0                   -- cycle of the last core-die reset
  fresh : Nat := 0                      -- free values drawn so far
  mem : List Host.Cell := []
  threads : NMap Thread := []
  cores : NMap Core := []
  clusters : NMap Cluster := []
  fifo : List Req := []
  rq : List Msg := []
  dirs : NMap Dir := []
  slices : NMap (Option SliceLine) := []
  etcs : NMap (NMap Tlb) := []
  engines : NMap Engine := []
  nextCmd : Nat := 0
  changed : List Nat := []              -- locations written while a copy command is in flight, newest first
  hostBias : List Nat := []             -- pages in host bias, rising
  flips : List Flip := []
  launches : List Launch := []
  nextLaunch : Nat := 1
  funcs : NMap Func := []
  cps : NMap Cp := []
  preempts : List Preempt := []
  saved : List SavedCtx := []
  pushed : List Nat := []               -- save blocks whose records a restore has pushed back (18 R434)
  later : List Later := []              -- parts of records still to be written, in order
  closed : List Closing := []           -- launches whose record has been written and that are to be completed (16 R391)
  debugger : Bool := false
  breakpoints : List Word := []         -- addresses on which a debug-port breakpoint is set (18 R424)
  service : Service := {}
  host : List HostEvent := []
  hostWrites : List (Nat × Nat × Nat) := [] -- CXL.mem writes performed and not completed: address, bytes, value (06 R181)
  ioq : NMap (List IoReq) := []         -- what has arrived at each quadrant service core, oldest first (06 R182)
  ioLast : NMap (Option Nat) := []      -- the line a quadrant service core's last request must settle (06 R182)
  maps : List (Nat × Nat × Tlb) := []   -- page tables as the command processors read them: from and until a cycle, an entry
  deriving DecidableEq, Repr

/-- The machine right after reset: no launch, every table empty, every register at the value INVENTORY.md lists. -/
def State.reset : State := {}

end Sys2Proof.Machine
end

