-- ==== Sys2Proof/Machine/Ops.lean ====
section
/-! DEFINITION. The named operations over the state: parts of the device, memory, registers, rotation, notices, taking a
trap and returning from it, regions and commit points, addresses and translation. -/

namespace Sys2Proof.Machine

/-! ## Parts of the device -/

def State.thread (s : State) (t : Nat) : Thread := NMap.get {} s.threads t
def State.setThread (s : State) (t : Nat) (x : Thread) : State := { s with threads := NMap.set {} s.threads t x }
def State.updThread (s : State) (t : Nat) (f : Thread → Thread) : State := s.setThread t (f (s.thread t))
def State.core (s : State) (k : Nat) : Core := NMap.get {} s.cores k
def State.setCore (s : State) (k : Nat) (x : Core) : State := { s with cores := NMap.set {} s.cores k x }
def State.updCore (s : State) (k : Nat) (f : Core → Core) : State := s.setCore k (f (s.core k))
def State.cluster (s : State) (c : Nat) : Cluster := NMap.get {} s.clusters c
def State.setCluster (s : State) (c : Nat) (x : Cluster) : State := { s with clusters := NMap.set {} s.clusters c x }
def State.updCluster (s : State) (c : Nat) (f : Cluster → Cluster) : State := s.setCluster c (f (s.cluster c))
def State.engine (s : State) (g : Nat) : Engine := NMap.get {} s.engines g
def State.updEngine (s : State) (g : Nat) (f : Engine → Engine) : State :=
  { s with engines := NMap.set {} s.engines g (f (s.engine g)) }
def State.func (s : State) (f : Nat) : Func := NMap.get {} s.funcs f
def State.updFunc (s : State) (f : Nat) (u : Func → Func) : State :=
  { s with funcs := NMap.set {} s.funcs f (u (s.func f)) }
def State.cp (s : State) (p : Nat) : Cp := NMap.get {} s.cps p
def State.updCp (s : State) (p : Nat) (u : Cp → Cp) : State := { s with cps := NMap.set {} s.cps p (u (s.cp p)) }
def State.dir (s : State) (line : Nat) : Dir := NMap.get {} s.dirs line
def State.updDir (s : State) (line : Nat) (u : Dir → Dir) : State :=
  { s with dirs := NMap.set {} s.dirs line (u (s.dir line)) }
def State.slice (s : State) (line : Nat) : Option SliceLine := NMap.get none s.slices line
def State.setSlice (s : State) (line : Nat) (x : Option SliceLine) : State :=
  { s with slices := NMap.set none s.slices line x }

/-- The launch with number `n`. -/
def State.launch (s : State) (n : Nat) : Option Launch := s.launches.find? (fun l => l.num = n)
def State.updLaunch (s : State) (n : Nat) (u : Launch → Launch) : State :=
  { s with launches := s.launches.map (fun l => if l.num = n then u l else l) }

/-- The issuing thread. -/
def State.me (s : State) : Thread := s.thread s.cur
def State.updMe (s : State) (f : Thread → Thread) : State := s.updThread s.cur f

/-! ## Coordinates (00 R2 to R4) -/

/-- A thread's core: thread numbers are 16 k + c; the TSC of cluster cl is core 2688 + cl (log entry 6). -/
def coreOf (t : Nat) : Nat := t / 16
def ctxOf (t : Nat) : Nat := t % 16
def isTscCore (k : Nat) : Bool := numCores ≤ k
def isTsc (t : Nat) : Bool := isTscCore (coreOf t)
def tscThread (cl : Nat) : Nat := (numCores + cl) * 16
def coreX (k : Nat) : Nat := k % 48
def coreY (k : Nat) : Nat := k / 48
/-- The cluster index of a core (00 R3), a TSC's own cluster for its core number. -/
def clusterOf (k : Nat) : Nat := if isTscCore k then k - numCores else 12 * (coreY k / 4) + coreX k / 4
/-- The local number of a core in its cluster (00 R2). -/
def localOf (k : Nat) : Nat := 4 * (coreY k % 4) + coreX k % 4
/-- The core with local number `j` in cluster `cl`. -/
def coreAt (cl j : Nat) : Nat := 48 * (4 * (cl / 12) + j / 4) + (4 * (cl % 12) + j % 4)
def clusterCores (cl : Nat) : List Nat := (List.range 16).map (coreAt cl)
/-- The 12-bit core field (00 R4). -/
def coreField (k : Nat) : Nat := 64 * coreY k + coreX k
/-- The core a 12-bit field names, if any (00 R4). -/
def ofCoreField (f : Nat) : Option Nat := if f % 64 < 48 && f / 64 < 56 then some (48 * (f / 64) + f % 64) else none
/-- Whether core `k` lies in a rectangle. -/
def Rect.has (r : Rect) (k : Nat) : Bool :=
  decide (r.x0 ≤ coreX k) && decide (coreX k < r.x0 + r.w) && decide (r.y0 ≤ coreY k) && decide (coreY k < r.y0 + r.h)
/-- The cores of a rectangle by ascending index. -/
def Rect.cores (r : Rect) : List Nat :=
  (List.range r.h).flatMap (fun j => (List.range r.w).map (fun i => 48 * (r.y0 + j) + r.x0 + i))
/-- The threads of a core, by context. -/
def coreThreads (k : Nat) : List Nat := (List.range 16).map (fun c => 16 * k + c)

/-! ## Memory: the flat map of log entry 6 -/

def locSpm (k off : Nat) : Nat := 2 ^ 48 + k * 2 ^ 18 + off
def locLane (k lane off : Nat) : Nat := 2 ^ 48 + 2 ^ 30 + k * 2 ^ 16 + lane * 2 ^ 12 + off
def locCluster (cl off : Nat) : Nat := 2 ^ 48 + 2 ^ 31 + cl * 2 ^ 24 + off
def locStack (st off : Nat) : Nat := 2 ^ 48 + 2 ^ 33 + st * 2 ^ 26 + off
def locIstore (cl off : Nat) : Nat := 2 ^ 48 + 2 ^ 35 + cl * 2 ^ 17 + off
/-- Host physical address `h` as a physical address (01 R21). -/
def locHost (h : Nat) : Nat := 2 ^ 47 + h

/-- What an unlisted location reads as (log entry 3). -/
def memDefault : Byte := 0

def State.byte (s : State) (loc : Nat) : Byte := NMap.get memDefault s.mem loc

/-- The writes to memory recorded once `locs` have been written, with whatever value; they are kept while a copy command is in
flight (04 R127, 06 R176; log entry 24) or a command processor holds a reservation (log entry 69). -/
def State.noteChanges (s : State) (locs : List Nat) : List Nat :=
  if s.engines.isEmpty && s.cps.all (fun p => p.2.reserved.isNone) then [] else locs ++ s.changed
/-- Memory becomes `mem`, in which the bytes at `locs` have been written. -/
def State.setMem (s : State) (mem : List Host.Cell) (locs : List Nat) : State :=
  { s with mem := mem, changed := s.noteChanges locs }
def State.setByte (s : State) (loc : Nat) (b : Byte) : State := s.setMem (NMap.set memDefault s.mem loc b) [loc]

/-- The memory's canonical form: addresses strictly rising, no entry equal to what an unlisted location reads as. -/
abbrev State.memOk (s : State) : Bool := NMap.ok memDefault s.mem

/-- `n` bytes from `loc`, little-endian (00 R7). -/
def readMem (mem : List Host.Cell) (loc : Nat) : Nat → Nat
  | 0 => 0
  | n + 1 => (NMap.get memDefault mem loc).toNat + 256 * readMem mem (loc + 1) n

/-- Writes the low `n` bytes of `v` at `loc`, little-endian (00 R7). -/
def writeMem (mem : List Host.Cell) (loc : Nat) : Nat → Nat → List Host.Cell
  | 0, _ => mem
  | n + 1, v => writeMem (NMap.set memDefault mem loc (BitVec.ofNat 8 v)) (loc + 1) n (v / 256)

def State.read (s : State) (loc n : Nat) : Nat := readMem s.mem loc n
def State.write (s : State) (loc n v : Nat) : State :=
  s.setMem (writeMem s.mem loc n v) ((List.range n).map (fun i => loc + i))
def State.readBytes (s : State) (loc n : Nat) : List Nat := (List.range n).map (fun i => (s.byte (loc + i)).toNat)
def State.readWord (s : State) (loc : Nat) : Word := BitVec.ofNat 64 (s.read loc 8)
def State.writeWord (s : State) (loc : Nat) (w : Word) : State := s.write loc 8 w.toNat
/-- `n` consecutive doublewords. -/
def State.readWords (s : State) (loc n : Nat) : List Word := (List.range n).map (fun i => s.readWord (loc + 8 * i))
/-- Writes consecutive doublewords. -/
def State.writeWords (s : State) (loc : Nat) : List Word → State
  | [] => s
  | w :: ws => (s.writeWord loc w).writeWords (loc + 8) ws

/-- The 128 bytes of a line. -/
def State.lineData (s : State) (line : Nat) : BitVec 1024 := BitVec.ofNat 1024 (s.read (128 * line) 128)

/-- Writes those of the first `n` bytes of a line whose mask bit is set. -/
def writeMasked (mem : List Host.Cell) (line : Nat) (mask : BitVec 128) (data : BitVec 1024) : Nat → List Host.Cell
  | 0 => mem
  | n + 1 =>
    let m := writeMasked mem line mask data n
    if mask.getLsbD n then NMap.set memDefault m (128 * line + n) (data.extractLsb' (8 * n) 8) else m

def State.writeLine (s : State) (line : Nat) (mask : BitVec 128) (data : BitVec 1024) : State :=
  s.setMem (writeMasked s.mem line mask data 128)
    (((List.range 128).filter (fun i => mask.getLsbD i)).map (fun i => 128 * line + i))

/-- Zeroes the listed locations of a range by dropping their entries. -/
def State.clearRange (s : State) (lo n : Nat) : State :=
  s.setMem (s.mem.filter (fun c => decide (c.1 < lo) || decide (lo + n ≤ c.1)))
    ((s.mem.filter (fun c => decide (lo ≤ c.1) && decide (c.1 < lo + n))).map (·.1))

/-- The mask of `n` bytes from offset `off` of a line. -/
def byteMask (off n : Nat) : BitVec 128 := BitVec.ofNat 128 ((2 ^ n - 1) * 2 ^ off)
/-- `v` placed at byte offset `off` of a line. -/
def placeData (off : Nat) (v : Nat) : BitVec 1024 := BitVec.ofNat 1024 (v * 256 ^ off)
/-- The bits of `x` where the byte mask is set, of `y` elsewhere. -/
def mergeLine (mask : BitVec 128) (x y : BitVec 1024) : Nat → BitVec 1024
  | 0 => y
  | n + 1 =>
    let z := mergeLine mask x y n
    if mask.getLsbD n then
      let m : BitVec 1024 := BitVec.ofNat 1024 (255 * 256 ^ n)
      (z &&& ~~~m) ||| (x &&& m)
    else z
def overlayLine (mask : BitVec 128) (x y : BitVec 1024) : BitVec 1024 := mergeLine mask x y 128

/-- Draws the next free value (log entry 14). -/
def State.draw (s : State) : Word × State := (Config.freeWord s.fresh, { s with fresh := s.fresh + 1 })

/-! ## Homes (02 R53, R58; 06 R177) -/

/-- The home slice of a device-memory address (02 R58). -/
def homeSlice (pa : Nat) : Nat :=
  let g := pa / 2 ^ 11 % 2 ^ 29
  (g ^^^ (g >>> 12) ^^^ (g >>> 24)) % numClusters

def isHostPa (pa : Nat) : Bool := decide (2 ^ 47 ≤ pa)
/-- The reserved range of 01 R21. -/
def isReservedPa (pa : Nat) : Bool := decide (0x00C000000000 ≤ pa) && decide (pa < 2 ^ 47)
def biasPage (pa : Nat) : Nat := pa / 2 ^ 19

def State.homeOfPa (s : State) (pa : Nat) : Home :=
  if isHostPa pa || s.hostBias.contains (biasPage pa) then .io else .slice (homeSlice pa)

/-- Device memory that a slice caches: not host memory, not a host-bias page (06 R177). -/
def State.sliceable (s : State) (pa : Nat) : Bool := !isHostPa pa && !s.hostBias.contains (biasPage pa)

/-! ## Registers (07 R189 to R193) -/

def Thread.sval (x : Thread) (r : Nat) : Word := if r = 0 then 0 else (NMap.get {} x.s r).val
def Thread.staint (x : Thread) (r : Nat) : BitVec 8 := if r = 0 then 0 else (NMap.get {} x.s r).taint
def Thread.vval (x : Thread) (r : Nat) : BitVec 512 := (NMap.get {} x.v r).val
def Thread.vtaint (x : Thread) (r : Nat) : BitVec 8 := (NMap.get {} x.v r).taint
def Thread.kval (x : Thread) (r : Nat) : BitVec 16 := if r = 0 then 0xFFFF else (NMap.get {} x.k r).val
def Thread.ktaint (x : Thread) (r : Nat) : BitVec 8 := if r = 0 then 0 else (NMap.get {} x.k r).taint
/-- Lane `j` of a vector value. -/
def lane (v : BitVec 512) (j : Nat) : BitVec 32 := v.extractLsb' (32 * j) 32
/-- A vector value from its lanes, lane 0 first. -/
def ofLanes (ls : List (BitVec 32)) : BitVec 512 :=
  ls.foldr (fun x acc => (acc <<< 32) ||| x.zeroExtend 512) 0

/-- A tag's bit in a taint set. -/
def tagBit (g : Nat) : BitVec 8 := 1#8 <<< g

/-- The busy tags of a thread as a set. -/
def Thread.busyTags (x : Thread) : BitVec 8 :=
  (List.range 8).foldl (fun acc g => if (NMap.get {} x.tags g).busy then acc ||| tagBit g else acc) 0

/-- Identities of the physical scalar registers that a context keeps from the pool (07 R191). -/
def Thread.sIds (x : Thread) : List Nat :=
  let f := fun (m : NMap SReg) => m.filterMap (fun p => if p.2.map = .physical then some p.2.id else none)
  f x.s ++ f x.ckpt.s ++ x.limbo ++ x.children.flatMap (fun c => f c.s) ++ x.releasing.flatMap (fun c => f c.s)
def Thread.vIds (x : Thread) : List Nat :=
  let f := fun (m : NMap VReg) => m.filterMap (fun p => if p.2.map = .physical then some p.2.id else none)
  f x.v ++ f x.ckpt.v ++ x.limboV ++ x.children.flatMap (fun c => f c.v) ++ x.releasing.flatMap (fun c => f c.v)

/-- The mappings of a scalar file with those to physical register `id` moved to the backing. -/
def spillIn (m : NMap SReg) (id : Nat) : NMap SReg :=
  m.map (fun p => (p.1, if p.2.map = .physical ∧ p.2.id = id then { p.2 with map := .spilled } else p.2))
/-- The same for a vector file. -/
def spillInV (m : NMap VReg) (id : Nat) : NMap VReg :=
  m.map (fun p => (p.1, if p.2.map = .physical ∧ p.2.id = id then { p.2 with map := .spilled } else p.2))
def Child.spillS (id : Nat) (c : Child) : Child := { c with s := spillIn c.s id }
def Child.spillV (id : Nat) (c : Child) : Child := { c with v := spillInV c.v id }

/-- A physical scalar register leaves everything a context keeps it for: its registers, its checkpoint, its pending
children, what returns at its next commit point. -/
def Thread.spillS (id : Nat) (x : Thread) : Thread :=
  { x with s := spillIn x.s id, ckpt := { x.ckpt with s := spillIn x.ckpt.s id }, limbo := x.limbo.filter (fun i => i ≠ id),
           children := x.children.map (Child.spillS id), releasing := x.releasing.map (Child.spillS id) }
/-- The same for a vector register. -/
def Thread.spillV (id : Nat) (x : Thread) : Thread :=
  { x with v := spillInV x.v id, ckpt := { x.ckpt with v := spillInV x.ckpt.v id }, limboV := x.limboV.filter (fun i => i ≠ id),
           children := x.children.map (Child.spillV id), releasing := x.releasing.map (Child.spillV id) }

/-- Updates several threads. -/
def State.updThreads (s : State) (f : Thread → Thread) : List Nat → State
  | [] => s
  | t :: ts => (s.updThread t f).updThreads f ts

/-- A victim is spilled: its physical register is free, and every architectural register of the core that was mapped to it
is mapped to the backing (07 R192). -/
def State.spill (s : State) (k : Nat) (vec : Bool) (id : Nat) : State :=
  s.updThreads (if vec then Thread.spillV id else Thread.spillS id) (coreThreads k)

/-- The victim class of a context (07 R192): parked, then waiting, then ready. DESIGN CHOICE: a context that is halted, stopped
in a trap or stopped for the debugger, which is not parked (14 R384), ranks with the waiting ones (log entry 92). -/
def RunState.victimClass : RunState → Nat
  | .parked _ => 0
  | .halted => 1
  | .trapStopped => 1
  | .debugStopped => 1
  | .waiting _ => 1
  | _ => 2

/-- The physical registers that the instruction in progress of a thread reads or writes: never victims (07 R192). -/
def Thread.idsInUse (x : Thread) (vec : Bool) : List Nat :=
  x.inUse.filterMap (fun p =>
    if p.1 ≠ vec then none else some (if vec then (NMap.get {} x.v p.2).id else (NMap.get {} x.s p.2).id))

/-- Candidate victims as (class, last use, thread, register). -/
def State.victims (s : State) (k : Nat) (vec : Bool) : List (Nat × Nat × Nat × Nat) :=
  (coreThreads k).flatMap (fun t =>
    let x := s.thread t
    let c := x.run.victimClass
    if vec then x.v.filterMap (fun p => if p.2.map = .physical then some (c, p.2.used, t, p.1) else none)
    else x.s.filterMap (fun p => if p.2.map = .physical then some (c, p.2.used, t, p.1) else none))

/-- Lexicographic order of victims (07 R192). -/
def victimLt (a b : Nat × Nat × Nat × Nat) : Bool :=
  decide (a.1 < b.1) || (decide (a.1 = b.1) && (decide (a.2.1 < b.2.1) || (decide (a.2.1 = b.2.1) &&
    (decide (a.2.2.1 < b.2.2.1) || (decide (a.2.2.1 = b.2.2.1) && decide (a.2.2.2 < b.2.2.2))))))

/-- The physical register that a candidate victim holds. -/
def State.victimId (s : State) (vec : Bool) (c : Nat × Nat × Nat × Nat) : Nat :=
  let x := s.thread c.2.2.1
  if vec then (NMap.get {} x.v c.2.2.2).id else (NMap.get {} x.s c.2.2.2).id

/-- Spills a victim where no physical register of the kind is free (07 R192). Where nothing is left to spill the register is
taken all the same (log entry 16). -/
def State.makeRoom (s : State) (t : Nat) (vec : Bool) : State :=
  let k := coreOf t
  let ids := (coreThreads k).flatMap (fun u => if vec then (s.thread u).vIds else (s.thread u).sIds)
  if ids.dedup.length < (if vec then 256 else 384) then s
  else
    let cands := (s.victims k vec).filter (fun c => !((s.thread t).idsInUse vec).contains (s.victimId vec c))
    match cands.foldl (fun best c => match best with
      | none => some c
      | some b => if victimLt c b then some c else some b) none with
    | none => s
    | some c => s.spill k vec (s.victimId vec c)

/-- The instruction in progress of a thread reads or writes more registers (07 R192). -/
def Thread.uses (rs : List (Bool × Nat)) (x : Thread) : Thread := { x with inUse := x.inUse ++ rs }

/-- `n` consecutive registers as the instruction in progress names them. -/
def regRun (vec : Bool) (d n : Nat) : List (Bool × Nat) := (List.range n).map (fun i => (vec, d + i))

/-- Writes a scalar register; a write to s0 is discarded with its taint (06 R157). -/
def State.setS (s : State) (t r : Nat) (v : Word) (taint : BitVec 8) : State :=
  if r = 0 then s
  else
    let s1 := (s.updThread t (Thread.uses [(false, r)])).makeRoom t false
    let id := (s1.core (coreOf t)).nextId
    let s2 := s1.updCore (coreOf t) (fun c => { c with nextId := c.nextId + 1 })
    s2.updThread t (fun x =>
      let old := NMap.get {} x.s r
      { x with
        s := NMap.set {} x.s r ⟨v, taint, .physical, id, s.cycle⟩
        limbo := if old.map = .physical then old.id :: x.limbo else x.limbo })

/-- Writes a vector register. -/
def State.setV (s : State) (t r : Nat) (v : BitVec 512) (taint : BitVec 8) : State :=
  let s1 := (s.updThread t (Thread.uses [(true, r)])).makeRoom t true
  let id := (s1.core (coreOf t)).nextId
  let s2 := s1.updCore (coreOf t) (fun c => { c with nextId := c.nextId + 1 })
  s2.updThread t (fun x =>
    let old := NMap.get {} x.v r
    { x with
      v := NMap.set {} x.v r ⟨v, taint, .physical, id, s.cycle⟩
      limboV := if old.map = .physical then old.id :: x.limboV else x.limboV })

/-- Writes a mask register; k0 is hard-wired (06 R157, 09 R271). -/
def State.setK (s : State) (t r : Nat) (v : BitVec 16) (taint : BitVec 8) : State :=
  if r = 0 then s else s.updThread t (fun x => { x with k := NMap.set {} x.k r ⟨v, taint⟩ })

/-- A source register of an instruction, with its last-use bit. -/
inductive Opnd where
  | s (r : BitVec 5) (last : Bool)
  | v (r : BitVec 5) (last : Bool)
  | k (r : BitVec 3)
  deriving DecidableEq, Repr

/-- A register operand as kind and number; masks are not renamed. -/
def Opnd.reg : Opnd → Option (Bool × Nat)
  | .s r _ => some (false, r.toNat)
  | .v r _ => some (true, r.toNat)
  | .k _ => none

/-- The taint of an operand. -/
def Opnd.taint (x : Thread) : Opnd → BitVec 8
  | .s r _ => x.staint r.toNat
  | .v r _ => x.vtaint r.toNat
  | .k r => x.ktaint r.toNat

/-- The union of the taint of several operands (06 R155). -/
def taintOf (x : Thread) (os : List Opnd) : BitVec 8 := os.foldl (fun acc o => acc ||| o.taint x) 0

/-- A spilled register among the operands: kind and number (07 R193). -/
def spilledOf (x : Thread) (os : List Opnd) : Option (Bool × Nat) :=
  os.findSome? (fun o => match o with
    | .s r _ => if r ≠ 0 ∧ (NMap.get {} x.s r.toNat).map = .spilled then some (false, r.toNat) else none
    | .v r _ => if (NMap.get {} x.v r.toNat).map = .spilled then some (true, r.toNat) else none
    | .k _ => none)

/-- Records the read of a source and unmaps it where its last-use bit is 1 (07 R190); s0 ignores the bit. -/
def Thread.consume (now : Nat) (x : Thread) : Opnd → Thread
  | .s r last =>
    if r = 0 then x
    else
      let o := NMap.get {} x.s r.toNat
      if last then
        { x with
          s := NMap.set {} x.s r.toNat {}
          limbo := if o.map = .physical then o.id :: x.limbo else x.limbo }
      else if o.map = .unmapped then x else { x with s := NMap.set {} x.s r.toNat { o with used := now } }
  | .v r last =>
    let o := NMap.get {} x.v r.toNat
    if last then
      { x with
        v := NMap.set {} x.v r.toNat {}
        limboV := if o.map = .physical then o.id :: x.limboV else x.limboV }
    else if o.map = .unmapped then x else { x with v := NMap.set {} x.v r.toNat { o with used := now } }
  | .k _ => x

/-- The operands of an instruction are read as it issues; from here on it is the one in progress (07 R190, R192). -/
def State.consume (s : State) (t : Nat) (os : List Opnd) : State :=
  s.updThread t (fun x => { os.foldl (Thread.consume s.cycle) x with inUse := os.filterMap Opnd.reg })

/-- Sources marked last-use of an instruction that completes later are unmapped. -/
def State.unmap (s : State) (t : Nat) (rs : List (BitVec 5)) : State :=
  s.updThread t (fun x => rs.foldl (fun x r => Thread.consume s.cycle x (.s r true)) x)

/-- Refills a spilled register: its taint becomes its taint byte ANDed with the busy tags (05 R136, 07 R193). -/
def State.refill (s : State) (t : Nat) (vec : Bool) (r : Nat) : State :=
  let s1 := s.makeRoom t vec
  let id := (s1.core (coreOf t)).nextId
  let s2 := s1.updCore (coreOf t) (fun c => { c with nextId := c.nextId + 1 })
  s2.updThread t (fun x =>
    if vec then
      let o := NMap.get {} x.v r
      { x with v := NMap.set {} x.v r { o with map := .physical, id := id, taint := o.taint &&& x.busyTags, used := s.cycle } }
    else
      let o := NMap.get {} x.s r
      { x with s := NMap.set {} x.s r { o with map := .physical, id := id, taint := o.taint &&& x.busyTags, used := s.cycle } })

/-! ## Rotation (07 R186 to R188) -/

/-- Ready-queue order: context 14, context 15, then user threads as they came (07 R187). -/
def queueRank (t : Nat) : Nat := if ctxOf t = 14 then 0 else if ctxOf t = 15 then 1 else 2

/-- The queue with a thread at the tail of its part; `joined` are those that became ready in the same cycle, of which the
lower context goes first. -/
def enqueueAmong (joined : List Nat) (t : Nat) : List Nat → List Nat
  | [] => [t]
  | u :: q =>
    if queueRank t < queueRank u || (decide (queueRank t = queueRank u) && joined.contains u && decide (ctxOf t < ctxOf u)) then
      t :: u :: q
    else u :: enqueueAmong joined t q
def enqueue (t : Nat) (q : List Nat) : List Nat := enqueueAmong [] t q

/-- The queue with a thread at the head of its user part (07 R187). -/
def enqueueFront (t : Nat) : List Nat → List Nat
  | [] => [t]
  | u :: q => if queueRank u = 2 then t :: u :: q else u :: enqueueFront t q

/-- The lowest barrel slot that satisfies `p`, counting up from `i`. -/
def findSlot (b : NMap (Option BarrelSlot)) (p : Option BarrelSlot → Bool) (i : Nat) : Nat → Option Nat
  | 0 => none
  | n + 1 => if p (NMap.get none b i) then some i else findSlot b p (i + 1) n

def Core.slotOf (c : Core) (t : Nat) : Option Nat :=
  findSlot c.barrel (fun o => match o with
    | some b => b.t = t
    | none => false) 0 8

/-- Whether `u` comes after `t` among threads that became ready in one cycle. -/
def comesAfter (u t : Nat) : Bool :=
  decide (queueRank t < queueRank u) || (decide (queueRank t = queueRank u) && decide (ctxOf t < ctxOf u))

/-- Of the slots that threads of `joined` have taken and not issued from, one whose thread comes after `t` and last of them. -/
def Core.yielding (c : Core) (joined : List Nat) (t : Nat) : Option (Nat × Nat) :=
  (List.range 8).foldl (fun best i => match NMap.get none c.barrel i with
    | some b =>
      if joined.contains b.t && decide (b.issued = 0) && comesAfter b.t t &&
          (match best with
            | some u => comesAfter b.t u.2
            | none => true) then some (i, b.t) else best
    | none => best) none

/-- A thread that becomes ready in cycle `now` takes a free slot, or joins the ready queue; of two that become ready in one
cycle the lower context goes first. Context 14 takes the slot that issues next where none is free, and the thread it
displaces goes to the head of the user part (07 R187). -/
def Core.enter (c : Core) (t now : Nat) : Core :=
  if (c.slotOf t).isSome || c.readyQ.contains t then c
  else
    let joined := if c.joinedAt = now then c.joined else []
    let c1 := { c with joinedAt := now, joined := t :: joined }
    match findSlot c.barrel (fun o => o.isNone) 0 8 with
    | some i => { c1 with barrel := NMap.set none c.barrel i (some ⟨t, 0⟩) }
    | none =>
      if ctxOf t = 14 then
        let i := (now + 1) % 8
        { c1 with barrel := NMap.set none c.barrel i (some ⟨t, 0⟩),
                  readyQ := match NMap.get none c.barrel i with
                    | some b => enqueueFront b.t c.readyQ
                    | none => c.readyQ }
      else match c.yielding joined t with
        | some (i, u) => { c1 with barrel := NMap.set none c.barrel i (some ⟨t, 0⟩), readyQ := enqueueAmong joined u c.readyQ }
        | none => { c1 with readyQ := enqueueAmong joined t c.readyQ }

/-- A thread that leaves rotation gives up its slot, which the head of the ready queue fills. -/
def Core.leave (c : Core) (t : Nat) : Core :=
  match c.slotOf t with
  | none => { c with readyQ := c.readyQ.filter (fun u => u ≠ t) }
  | some i =>
    match c.readyQ with
    | [] => { c with barrel := NMap.set none c.barrel i none }
    | u :: q => { c with barrel := NMap.set none c.barrel i (some ⟨u, 0⟩), readyQ := q }

/-- Whether the ready queue holds a user thread. -/
def Core.userQueued (c : Core) : Bool := c.readyQ.any (fun u => decide (ctxOf u < 14))

/-- Gives up a thread's slot to the ready queue and queues the thread at its tail (07 R187, 14 R370). -/
def Core.rotate (c : Core) (t : Nat) : Core := let c' := c.leave t; { c' with readyQ := enqueue t c'.readyQ }

/-- A thread that leaves rotation and returns in the same cycle: it gives up its slot (07 R188). -/
def Core.requeue (c : Core) (t now : Nat) : Core := (c.leave t).enter t now

/-- Counts an issue in the thread's slot; a user thread gives it up after 64 while a user thread is queued. -/
def Core.issued (c : Core) (t : Nat) : Core :=
  match c.slotOf t with
  | none => c
  | some i =>
    match NMap.get none c.barrel i with
    | none => c
    | some b =>
      if decide (64 ≤ b.issued + 1) && c.userQueued && decide (ctxOf t < 14) then c.rotate t
      else { c with barrel := NMap.set none c.barrel i (some ⟨t, b.issued + 1⟩) }

/-- Takes a thread out of rotation in a run state. -/
def State.stop (s : State) (t : Nat) (r : RunState) : State :=
  (s.updThread t (fun x => { x with run := r })).updCore (coreOf t) (fun c => c.leave t)

/-- Returns a thread to rotation; one whose released children still need a place waits for them (16 R411). -/
def State.wake (s : State) (t : Nat) : State :=
  if (s.thread t).releasing ≠ [] then s.stop t (.waiting .push)
  else (s.updThread t (fun x => { x with run := .ready })).updCore (coreOf t) (fun c => c.enter t s.cycle)

/-- A thread whose instruction takes it out of rotation and has completed at once returns to it (07 R188, 11 R295). -/
def State.requeue (s : State) (t : Nat) : State :=
  if (s.thread t).run = .ready then s.updCore (coreOf t) (fun c => c.requeue t s.cycle) else s

/-! ## What a cycle orders -/

/-- No move of the same kind and a higher rank has been made in this cycle. -/
def State.tieOk (s : State) (k : Tie) (rank : Nat) : Bool := s.taken.all (fun p => decide (p.1 ≠ k) || decide (p.2 ≤ rank))
/-- A move of a kind has been made in this cycle. -/
def State.tieTaken (s : State) (k : Tie) : Bool := s.taken.any (fun p => decide (p.1 = k))
/-- A move of a kind is made, with its rank. -/
def State.tie (s : State) (k : Tie) (rank : Nat) : State := { s with taken := (k, rank) :: s.taken }

/-! ## Notices (22 R450, R452) -/

/-- Writes one notice to a function's ring. -/
def State.noticeTo (s : State) (f kind level fn launch : Nat) (w1 w2 w3 : Word) : State :=
  let x := s.func f
  if x.nrLog = 0 then s
  else if (x.nrTail - x.nrHead).toNat = 2 ^ x.nrLog then s.updFunc f (fun y => { y with nrOvf := true })
  else
    let loc := locHost ((x.nrBase + 32 * (x.nrTail.toNat % 2 ^ x.nrLog)) % 2 ^ 47)
    let w0 : Nat := kind * 2 ^ 56 + level * 2 ^ 53 + fn * 2 ^ 46 + launch % 2 ^ 16 * 2 ^ 16 + x.nrSeq % 2 ^ 16
    ((s.writeWords (loc + 8) [w1, w2, w3]).writeWord loc (BitVec.ofNat 64 w0)).updFunc f (fun y =>
      { y with nrTail := y.nrTail + 1, nrSeq := y.nrSeq + 1, msix := y.msix + 1 })

/-- A notice: the physical function receives every one, a virtual function those about its own launches. -/
def State.notice (s : State) (kind level fn launch : Nat) (w1 w2 w3 : Word) : State :=
  let s1 := s.noticeTo 0 kind level fn launch w1 w2 w3
  if fn = 0 then s1 else s1.noticeTo fn kind level fn launch w1 w2 w3

/-! ## Traps (18 R423, R425; 14 R383) -/

/-- The trap classes of 18 R423. -/
def causeIllegal : Nat := 0x01
def causeAlign : Nat := 0x02
def causeLocal : Nat := 0x03
def causeMult : Nat := 0x04
def causeFatal : Nat := 0x05
def causeDeadlock : Nat := 0x06
def causeEnergy : Nat := 0x07
def causeDebug : Nat := 0x08
def causeTrap : Nat := 0x09

/-- A trap to take: its class and code, whether epc is the next instruction (18 R423), and fadr where the class writes it. -/
structure TrapReq where
  cause : Nat
  code : Nat := 0
  past : Bool := false
  fadr : Option Word := none
  deriving DecidableEq, Repr

/-- The status CSR (14 R381). -/
def Thread.status (x : Thread) : Word :=
  BitVec.ofNat 64 ((if x.pin then 1024 else 0) + (if x.pfx then 256 else 0) + (if x.sv then 1 else 0))

/-- `ecause` (14 R381). -/
def TrapReq.ecause (r : TrapReq) : BitVec 13 := BitVec.ofNat 13 (r.code % 32 * 256 + r.cause % 32)

/-- `epc` at trap entry (18 R423); its bit 0 is read-only 0 (14 R381). -/
def Thread.trapPc (x : Thread) (r : TrapReq) : Word := (if r.past then x.pc + 4 else x.pc) &&& ~~~1#64

/-- A debug-class trap with a debugger attached stops the context for it instead, with `status` as it stood
(18 R426). -/
def State.debugStop (s : State) (t : Nat) (r : TrapReq) : State :=
  State.stop (s.updThread t (fun x => { x with epc := x.trapPc r, estatus := x.status, ecause := r.ecause, stage := none }))
    t .debugStopped

/-- Trap entry (18 R425): one step. With tvec 0 the context stops in place and its function is told. -/
def State.trapEntry (s : State) (t : Nat) (r : TrapReq) : State :=
  let x := s.thread t
  let epc := x.trapPc r
  let ecause := r.ecause
  let y : Thread := { x with
    epc := epc
    estatus := x.status
    ecause := ecause
    fadr := r.fadr.getD x.fadr
    sv := true
    pfx := false
    pin := true
    hflag := true
    boundary := false
    stage := none }
  if x.tvec = 0 then
    let s1 := (s.setThread t y).stop t .trapStopped
    s1.notice 0x02 1 x.fn x.launch (ecause.zeroExtend 64) epc y.fadr
  else
    let s1 := s.setThread t { y with pc := x.tvec }
    s1.wake t

/-- Return from a trap (14 R383, 18 R426): pc, SV and PFX restored, the handler flag cleared. -/
def State.trapReturn (s : State) (t : Nat) : State :=
  s.updThread t (fun x => { x with pc := x.epc, sv := x.estatus.getLsbD 0, pfx := x.estatus.getLsbD 8, hflag := false })

/-- The quench of a TSC that would trap is taken by its caller; here it stops (01 R37). -/
def State.stopTsc (s : State) (cl : Nat) (pc : Word) : State :=
  (((s.stop (tscThread cl) .halted).updCluster cl (fun c => { c with tscStopped := true })).notice 0x08 3 0 0
    (BitVec.ofNat 64 cl) pc 0)

/-! ## Regions (18 R427, R428) -/

def Thread.snapshot (x : Thread) : Ckpt :=
  ⟨x.s, x.v, x.k, x.mc, x.srseed, x.bsrd, x.bswr, x.bsacc, x.fmtpend, x.pfx⟩

/-- A region begins at `pc`: regpc, PIN, a checkpoint; physical registers unmapped before it return (07 R191). -/
def Thread.beginRegion (x : Thread) (pc : Word) : Thread :=
  let y := { x with regpc := pc &&& ~~~1#64, pin := x.hflag, limbo := [], limboV := [] }
  { y with ckpt := y.snapshot }

/-- The checkpoint also takes a result that a commit point writes after its issue step (18 R428). -/
def Thread.ckptS (x : Thread) (d : Nat) : Thread :=
  if d = 0 then x else { x with ckpt := { x.ckpt with s := NMap.set {} x.ckpt.s d (NMap.get {} x.s d) } }

/-- A register set restored from a checkpoint: the saved taint ANDed with the busy tags (05 R148). -/
def restoreS (busy : BitVec 8) (m : NMap SReg) : NMap SReg := m.map (fun p => (p.1, { p.2 with taint := p.2.taint &&& busy }))
def restoreV (busy : BitVec 8) (m : NMap VReg) : NMap VReg := m.map (fun p => (p.1, { p.2 with taint := p.2.taint &&& busy }))
def restoreK (busy : BitVec 8) (m : NMap KReg) : NMap KReg :=
  (m.map (fun p => (p.1, { p.2 with taint := p.2.taint &&& busy }))).filter (fun p => p.2 ≠ {})

/-- A launch makes progress (22 R448). -/
def State.progress (s : State) (n : Nat) : State :=
  s.updLaunch n (fun l => { l with progress := s.cycle, level := 0 })

/-- The commit drain's STORE requests, in slot order (05 R146). -/
def drainReqs (t : Nat) (rsb : List Slot) : List Req :=
  rsb.map (fun c => { src := .thread t, place := c.place, kind := .store c.mask c.data, also := c.also })

/-- Moves the RSB to the FIFOs (05 R146). -/
def State.drainRsb (s : State) (t : Nat) : State :=
  let x := s.thread t
  let s1 := { s with fifo := s.fifo ++ drainReqs t x.rsb }
  s1.setThread t { x with rsb := [], storeCount := x.storeCount + x.rsb.length }

/-- An overflow drain: the same effect, and the region is pinned (05 R147, 18 R427). -/
def State.overflowDrain (s : State) (t : Nat) : State := (s.drainRsb t).updThread t (fun x => { x with pin := true })

/-- Stores performed (05 R153): no STORE or ATOMIC of the thread is in an outbound FIFO. -/
def State.storesPerformed (s : State) (t : Nat) : Bool :=
  s.fifo.all (fun r => decide (r.src ≠ .thread t) || match r.kind with
    | .store _ _ => false
    | .atomic _ _ _ _ _ => false
    | _ => true)

/-- Stores settled, Loads settled, Drained (05 R153). -/
def Thread.storesSettled (x : Thread) : Bool := x.rsb = [] && x.storeCount = 0
def Thread.loadsSettled (x : Thread) : Bool := x.tags.all (fun p => !p.2.busy)
def Thread.drained (x : Thread) : Bool := x.storesSettled && x.loadsSettled

/-! ## Addresses (01 R10 to R19, R37) -/

/-- The kind of an access, as 01 R50 codes it. -/
inductive Acc4 where
  | read | write | rmw | exec
  deriving DecidableEq, Repr

def Acc4.code : Acc4 → Nat
  | .read => 0 | .write => 1 | .rmw => 2 | .exec => 3

/-- The outcome of the space check: a global address, or a place in a local window. -/
inductive Addr where
  | bad
  | global
  | place (p : Place)
  deriving DecidableEq, Repr

/-- The space value and zero bits of an address (01 R10 to R15). `lane?` is the lane of a vector access. -/
def State.space (s : State) (k : Nat) (a : Word) (lane? : Option Nat) : Addr :=
  let n := a.toNat
  let sp := n / 2 ^ 60
  if sp = 0 then (if n / 2 ^ 52 = 0 then .global else .bad)
  else if sp = 8 then
    (if n % 2 ^ 60 / 2 ^ 18 = 0 then .place { loc := locSpm k (n % 2 ^ 18), home := .core k } else .bad)
  else if sp = 9 then
    (if n % 2 ^ 48 / 2 ^ 18 = 0 then
      match ofCoreField (n / 2 ^ 48 % 2 ^ 12) with
      | some j => .place { loc := locSpm j (n % 2 ^ 18), home := .core j }
      | none => .bad
     else .bad)
  else if sp = 10 then
    let off := n % 2 ^ 24
    (if n % 2 ^ 60 / 2 ^ 24 = 0 && decide (off < (s.cluster (clusterOf k)).spw * 2 ^ 20) then
      .place { loc := locCluster (clusterOf k) off, home := .expander (clusterOf k) }
     else .bad)
  else if sp = 11 then
    let st := n / 2 ^ 56 % 16
    (if n % 2 ^ 56 / 2 ^ 26 = 0 && decide (st < 12) then
      .place { loc := locStack st (n % 2 ^ 26), home := .stack st }
     else .bad)
  else if sp = 12 then
    (if n % 2 ^ 60 / 2 ^ 16 ≠ 0 then .bad
     else match lane? with
      | some j =>
        if n / 2 ^ 12 % 16 = 0 then .place { loc := locLane k j (n % 2 ^ 12), home := .core k } else .bad
      | none => .place { loc := locLane k (n / 2 ^ 12 % 16) (n % 2 ^ 12), home := .core k })
  else .bad

/-- The TSC's data accesses: space 0x0 is physical, space 0x8 its own 64 KiB (01 R37). -/
def State.tscSpace (s : State) (k : Nat) (a : Word) : Addr :=
  let n := a.toNat
  let sp := n / 2 ^ 60
  if sp = 0 then
    (if n / 2 ^ 48 ≠ 0 || isReservedPa n then .bad
     else .place { loc := n, home := s.homeOfPa n, alloc := s.sliceable n })
  else if sp = 8 then
    (if n % 2 ^ 60 < 2 ^ 16 then .place { loc := locSpm k (n % 2 ^ 16), home := .core k } else .bad)
  else .bad

/-- The local-access grant (01 R19) of a user context for `n` bytes at `a`, whose space check has passed. -/
def Thread.granted (x : Thread) (k : Nat) (a : Word) : Bool :=
  let n := a.toNat
  let sp := n / 2 ^ 60
  if x.sv then true
  else if sp = 9 then
    (match ofCoreField (n / 2 ^ 48 % 2 ^ 12) with
     | some j => decide (j = k) || x.rect.has j
     | none => false)
  else if sp = 10 then x.lgrant.cmem
  else if sp = 11 then
    x.lgrant.smask.getLsbD (n / 2 ^ 56 % 16) && decide (x.lgrant.sbase.toNat * 2 ^ 20 ≤ n % 2 ^ 26) &&
      decide (n % 2 ^ 26 < (x.lgrant.sbase.toNat + x.lgrant.ssize.toNat) * 2 ^ 20)
  else true

/-- The outcome of the checks of 01 R17 that come before translation. -/
inductive Checked where
  | trap (cause : Nat)
  | global
  | place (p : Place)
  deriving DecidableEq, Repr

/-- Space and zero bits, then grant, then alignment to `w` (01 R17). -/
def State.check (s : State) (t : Nat) (a : Word) (w : Nat) (lane? : Option Nat) : Checked :=
  let k := coreOf t
  let sp := if isTsc t then s.tscSpace k a else s.space k a lane?
  match sp with
  | .bad => .trap causeLocal
  | .global => if a.toNat % w ≠ 0 then .trap causeAlign else .global
  | .place p =>
    if !isTsc t && !(s.thread t).granted k a then .trap causeLocal
    else if a.toNat % w ≠ 0 then .trap causeAlign else .place p

/-- Whether a cluster-memory way still holds a leaving line, so that it is not yet usable (02 R65). -/
def State.wayBusy (s : State) (cl way : Nat) : Bool :=
  s.slices.any (fun p => match p.2 with
    | some l => l.leaving && decide (l.way = way) && decide (homeSlice (128 * p.1) = cl)
    | none => false)

def State.waitsForWay (s : State) (p : Place) : Bool :=
  match p.home with
  | .expander cl => s.wayBusy cl ((p.loc - locCluster cl 0) / 2 ^ 20)
  | _ => false

/-! ## Translation (01 R22 to R30) -/

namespace Tlb
def asid (e : Tlb) : Nat := e.te0.toNat / 2 ^ 48
def size (e : Tlb) : Nat := e.te0.toNat / 2 ^ 46 % 4
def v (e : Tlb) : Bool := e.te0.getLsbD 45
def l (e : Tlb) : Bool := e.te0.getLsbD 44
def vpn (e : Tlb) : Nat := e.te0.toNat % 2 ^ 33
def mt (e : Tlb) : Nat := e.te1.toNat / 2 ^ 36 % 4
def u (e : Tlb) : Bool := e.te1.getLsbD 35
def x (e : Tlb) : Bool := e.te1.getLsbD 34
def w (e : Tlb) : Bool := e.te1.getLsbD 33
def rd (e : Tlb) : Bool := e.te1.getLsbD 32
def ppn (e : Tlb) : Nat := e.te1.toNat % 2 ^ 29
end Tlb

/-- Low VPN bits that a page size ignores (01 R22, R26). -/
def sizeShift (size : Nat) : Nat := if size = 0 then 0 else if size = 1 then 6 else 12

/-- Whether an entry covers (ASID, VA[51:19]) (01 R28). -/
def Tlb.covers (e : Tlb) (asid vpn : Nat) : Bool :=
  e.v && decide (e.asid = asid) && decide (e.vpn / 2 ^ sizeShift e.size = vpn / 2 ^ sizeShift e.size)

/-- The matching entry: smallest page size, then lowest slot (01 R28). -/
def tlbLookup (m : NMap Tlb) (asid vpn : Nat) : Option Tlb :=
  m.foldl (fun best p =>
    if p.2.covers asid vpn then
      match best with
      | none => some p.2
      | some b => if p.2.size < b.size then some p.2 else some b
    else best) none

/-- The physical address of a virtual address under an entry. -/
def Tlb.pa (e : Tlb) (va : Nat) : Nat :=
  let sh := sizeShift e.size
  e.ppn / 2 ^ sh * 2 ^ (19 + sh) + va % 2 ^ (19 + sh)

/-- The cause an entry fails an access with, in the order 0x3, 0x2, 0x4 (01 R29). -/
def Tlb.fails (e : Tlb) (va : Nat) (sv : Bool) (acc : Acc4) : Option Nat :=
  if !sv && !e.u then some 0x3
  else if (match acc with
    | .read => !e.rd | .write => !e.w | .rmw => !(e.rd && e.w) | .exec => !e.x) then some 0x2
  else if isReservedPa (e.pa va) then some 0x4
  else none

/-- The place of a translated address. -/
def State.placeOf (s : State) (e : Tlb) (asid va : Nat) : Place :=
  let pa := e.pa va
  { loc := pa, home := s.homeOfPa pa, cacheable := decide (e.mt = 0), alloc := decide (e.mt = 0) && s.sliceable pa,
    pair := some (asid, va / 2 ^ 16 % 2 ^ 36), size := e.size }

/-! ## How an instruction ends -/

/-- Why an instruction does not complete in this step: it traps, it waits out of rotation before its issue step, or it
leaves the state given. -/
inductive Stop where
  | trap (r : TrapReq)
  | wait (w : Wait)
  | goto (s : State)

def illegal {α : Type} : Except Stop α := .error (.trap { cause := causeIllegal })
def localFault {α : Type} (a : Word) : Except Stop α := .error (.trap { cause := causeLocal, fadr := some a })
def alignTrap {α : Type} (a : Word) : Except Stop α := .error (.trap { cause := causeAlign, fadr := some a })
def multTrap {α : Type} : Except Stop α := .error (.trap { cause := causeMult })
def waitFor {α : Type} (w : Wait) : Except Stop α := .error (.wait w)
/-- Goes on only where `b` holds. -/
def need (b : Bool) (e : Stop) : Except Stop Unit := if b then .ok () else .error e

/-- The instruction has issued: the format word pending is consumed, the pc moves on by `len`, the slot counts it. -/
def State.retire (s : State) (len : Nat) : State :=
  (s.updMe (fun x => { x with pfx := false, boundary := false, pc := x.pc + BitVec.ofNat 64 len })).updCore (coreOf s.cur)
    (fun c => c.issued s.cur)

/-- As `retire`, to a transfer's target. -/
def State.retireTo (s : State) (target : Word) : State :=
  (s.updMe (fun x => { x with pfx := false, boundary := false, pc := target })).updCore (coreOf s.cur) (fun c => c.issued s.cur)

end Sys2Proof.Machine
end

