-- ==== Sys2Proof/Machine/Home.lean ====
section
/-! DEFINITION. The home side of the ordering machine: directories, invalidations, the slice caches, the expander, and
the perform steps of 05 R149 to R151. -/

namespace Sys2Proof.Machine

def lineOf (loc : Nat) : Nat := loc / 128

/-- Settled(L) of 05 R150. -/
def State.settledAt (s : State) (line : Nat) : Bool := (s.dir line).invs = []

/-- INV(L) to each core named, each counted in P(L) (05 R150, R151). -/
def State.sendInvs (s : State) (h : Home) (line : Nat) (cs : List Nat) : State :=
  State.updDir { s with rq := s.rq ++ cs.map (fun d => { dest := .core d, home := h, line := line, kind := .inv }) } line
    (fun x => { x with invs := cs.foldl (fun m d => NMap.set 0 m d (NMap.get 0 m d + 1)) x.invs })

/-- The recall step of a line with sharers (05 R151). -/
def State.recallLine (s : State) (line : Nat) : State :=
  let sh := (s.dir line).sharers
  if sh = [] then s
  else (s.sendInvs (s.homeOfPa (128 * line)) line sh).updDir line (fun x => { x with sharers := [] })

/-- Whether a cluster's slice still holds a leaving line (02 R65). -/
def State.anyLeaving (s : State) (cl : Nat) : Bool :=
  s.slices.any (fun p => match p.2 with
    | some l => l.leaving && decide (homeSlice (128 * p.1) = cl)
    | none => false)

/-- A grow is over once no leaving line is left: DRAIN and BUSY become 0 (02 R65). -/
def State.growOver (s : State) (cl : Nat) : State :=
  if (s.cluster cl).drain && !s.anyLeaving cl then
    s.updCluster cl (fun c => { c with drain := false, busy := false, dleft := 0 })
  else s

/-- A line leaves the cache ways: sharers invalidated, written back, its pair's slice count reduced (02 R59, R65, R80). -/
def State.dropSlice (s : State) (line : Nat) : State :=
  match s.slice line with
  | none => s
  | some l =>
    let cl := homeSlice (128 * line)
    let s1 := (s.recallLine line).setSlice line none
    (s1.updCluster cl (fun c => { c with
      dleft := if l.leaving && l.dirty then c.dleft - 1 else c.dleft
      updates := match l.pair with
        | some (a, g) => c.updates ++ [⟨a, g, none, -1, s.cycle⟩]
        | none => c.updates })).growOver cl

/-- A dirty line is written back to its stack and stays cached, clean (14 R387). -/
def State.cleanSlice (s : State) (line : Nat) : State :=
  match s.slice line with
  | some l =>
    if l.dirty then
      (s.setSlice line (some { l with dirty := false, stale := 0 })).updCluster (homeSlice (128 * line)) (fun c =>
        { c with dleft := if l.leaving then c.dleft - 1 else c.dleft })
    else s
  | none => s

/-- The cached lines of a slice in the set of `line`. -/
def State.setMates (s : State) (line : Nat) : List (Nat × SliceLine) :=
  s.slices.filterMap (fun p => match p.2 with
    | some l =>
      if homeSlice (128 * p.1) = homeSlice (128 * line) && Config.sliceSet p.1 % 8192 = Config.sliceSet line % 8192 then
        some (p.1, l) else none
    | none => none)

/-- Puts a line in a way, counting it for its pair (02 R80). -/
def State.installSlice (s : State) (line way : Nat) (pair : Option (Nat × Nat)) : State :=
  (s.setSlice line (some ⟨way, false, 0, pair, false⟩)).updCluster (homeSlice (128 * line)) (fun c =>
    { c with updates := match pair with
      | some (a, g) => c.updates ++ [⟨a, g, none, 1, s.cycle⟩]
      | none => c.updates })

/-- The ways that are not cache ways: those of cluster memory, and in a shrink those it gives up, until it is complete (02 R59,
R66). -/
def Cluster.memoryWays (c : Cluster) : Nat := if c.busy && !c.drain then max c.spw c.oldSpw else c.spw

/-- Allocates a missing line in a cache way, evicting a victim where its set is full (02 R59); with SPW = 16 nothing is
cached (02 R60). The victim's choice is not visible (log entry 7). -/
def State.allocSlice (s : State) (line : Nat) (pair : Option (Nat × Nat)) : State :=
  let spw := (s.cluster (homeSlice (128 * line))).memoryWays
  let ways := (List.range 16).filter (fun w => decide (spw ≤ w))
  let mates := s.setMates line
  match ways.find? (fun w => !mates.any (fun m => decide (m.2.way = w))) with
  | some w => s.installSlice line w pair
  | none =>
    if ways = [] then s
    else
      let w := ways.getD (Config.victim s.fresh % ways.length) 15
      let s1 := { s with fresh := s.fresh + 1 }
      match mates.find? (fun m => decide (m.2.way = w)) with
      | some m => (s1.dropSlice m.1).installSlice line w pair
      | none => s1

/-- An access performs at a slice: a leaving line is processed first, a missing line is allocated where the access
allocates (02 R59, R65). -/
def State.touchSlice (s : State) (line : Nat) (alloc : Bool) (pair : Option (Nat × Nat)) : State :=
  match s.slice line with
  | some l => if l.leaving then (if alloc then (s.dropSlice line).allocSlice line pair else s.dropSlice line) else s
  | none => if alloc then s.allocSlice line pair else s

/-- A cached line is about to be written: it becomes dirty, and its stack keeps the bytes it has. -/
def State.dirtySlice (s : State) (line : Nat) : State :=
  match s.slice line with
  | some l => if l.dirty then s else s.setSlice line (some { l with dirty := true, stale := s.lineData line })
  | none => s

/-- Makes room in a full directory of 16,384 lines, those homed at the slice: the least recently allocated line loses its
copies (02 R60). DESIGN CHOICE: of lines allocated in one cycle the lowest counts as the least recently allocated (log entry
70). -/
def State.dirRoom (s : State) (line : Nat) : State :=
  let mine := s.dirs.filter (fun p => !p.2.sharers.isEmpty && decide (homeSlice (128 * p.1) = homeSlice (128 * line)) &&
    s.sliceable (128 * p.1))
  if mine.length < 16384 then s
  else match mine.foldl (fun best p => match best with
      | none => some p
      | some b => if p.2.born < b.2.born then some p else some b) (none : Option (Nat × Dir)) with
    | some p => s.recallLine p.1
    | none => s

/-- S(L) := S(L) + {c}. -/
def State.share (s : State) (h : Home) (line c : Nat) : State :=
  let d := s.dir line
  if d.sharers.contains c then s
  else if d.sharers = [] then
    let s1 := match h with
      | .slice _ => s.dirRoom line
      | _ => s
    s1.updDir line (fun x => { x with sharers := [c], born := s.cycle })
  else s.updDir line (fun x => { x with sharers := c :: x.sharers })

/-- W(L) := W(L) + {r} where the line is not settled. -/
def State.await (s : State) (line : Nat) (r : Rcv) : State :=
  if s.settledAt line then s
  else s.updDir line (fun x => { x with waiters := if x.waiters.contains r then x.waiters else x.waiters ++ [r] })

/-- The receiver of a request's messages (05 R132, 06 R173). -/
def rcvOf : Src → Rcv
  | .thread t => .core (coreOf t)
  | .engine g _ => .engine g

/-- The core whose copy a write keeps in S(L): the writer's, if it is a core. -/
def srcCore : Src → Option Nat
  | .thread t => some (coreOf t)
  | .engine _ _ => none

/-- The masked bytes are written at their home, last in coherence order, and every other sharer is invalidated
(05 R150). -/
def State.writeHome (s : State) (h : Home) (line : Nat) (mask : BitVec 128) (data : BitVec 1024) (alloc : Bool)
    (pair : Option (Nat × Nat)) (keep : Option Nat) : State :=
  let s1 := match h with
    | .slice _ => (s.touchSlice line alloc pair).dirtySlice line
    | _ => s
  let s2 := s1.writeLine line mask data
  let sh := (s2.dir line).sharers
  let others := sh.filter (fun d => decide (keep ≠ some d))
  if sh = [] then s2
  else (s2.sendInvs h line others).updDir line (fun x => { x with sharers := sh.filter (fun d => decide (keep = some d)) })

/-- A write by an agent that is neither a core nor an engine: the host, a command processor, the launch unit. -/
def State.outsideWrite (s : State) (line : Nat) (mask : BitVec 128) (data : BitVec 1024) : State :=
  s.writeHome (s.homeOfPa (128 * line)) line mask data (s.sliceable (128 * line)) none none

/-- Such a write of `n` bytes, line by line. -/
def State.outsideBytes (s : State) (loc : Nat) : Nat → Nat → State
  | 0, _ => s
  | n + 1, v =>
    let s1 := s.outsideWrite (lineOf loc) (byteMask (loc % 128) 1) (placeData (loc % 128) (v % 256))
    s1.outsideBytes (loc + 1) n (v / 256)

/-- Such a write of consecutive doublewords. -/
def State.outsideWords (s : State) (loc : Nat) : List Word → State
  | [] => s
  | w :: ws => (s.outsideWrite (lineOf loc) (byteMask (loc % 128) 8) (placeData (loc % 128) w.toNat)).outsideWords (loc + 8) ws

/-! ## Atomics at the home (12 R321) -/

/-- AfAdd of 12 R321 on one 32-bit half. -/
def afAdd (old y m : Nat) : Nat := (fpResult (Ex.add false (f32 old) ((f32 y).mul (Ex.ofInt m))) 0 false 0).1

/-- The signed value of the low `n` bits. -/
def signedOf (n v : Nat) : Int := if v % 2 ^ n < 2 ^ (n - 1) then (v % 2 ^ n : Nat) else (v % 2 ^ n : Nat) - (2 ^ n : Nat)

/-- NEW of 12 R321, or none where the operation writes no byte. -/
def atomicNew (op : AtomOp) (dbl : Bool) (old y expected m : Nat) : Option Nat :=
  let n := if dbl then 64 else 32
  match op with
  | .aadd => some ((old + y * m) % 2 ^ n)
  | .afadd =>
    if dbl then some (afAdd (old % 2 ^ 32) (y % 2 ^ 32) m + 2 ^ 32 * afAdd (old / 2 ^ 32) (y / 2 ^ 32) m)
    else some (afAdd old y m)
  | .amin => some (if signedOf n old ≤ signedOf n y then old else y)
  | .amax => some (if signedOf n old ≥ signedOf n y then old else y)
  | .aminu => some (if old ≤ y then old else y)
  | .amaxu => some (if old ≥ y then old else y)
  | .aand => some (old &&& y)
  | .aor => some (old ||| y)
  | .axor => if m % 2 = 1 then some (old ^^^ y) else none
  | .aswap => some y
  | .acas => if old = expected then some y else none

/-- Ext of 12 R321. -/
def atomicExt (op : AtomOp) (dbl : Bool) (old : Nat) : Word :=
  if dbl then BitVec.ofNat 64 old
  else match op with
    | .aminu | .amaxu | .afadd => BitVec.ofNat 64 (old % 2 ^ 32)
    | _ => (BitVec.ofNat 32 old).signExtend 64

/-! ## Requests and messages -/

/-- The first request of a FIFO (05 R149). -/
def State.headReq (s : State) (src : Src) (h : Home) : Option Req := s.fifo.find? (fun r => r.src = src && r.place.home = h)

/-- The state without the first occurrence of a request. -/
def State.dropReq (s : State) (r : Req) : State := { s with fifo := s.fifo.erase r }

def State.send (s : State) (m : Msg) : State := { s with rq := s.rq ++ [m] }

/-- PerformLoad of 05 R150. -/
def State.performLoadReq (s : State) (r : Req) (n : Nat) : State :=
  let p := r.place
  let line := lineOf p.loc
  let s1 := match p.home with
    | .slice _ => s.touchSlice line p.alloc p.pair
    | _ => s
  let s2 := match r.src with
    | .thread t => if p.cacheable then s1.share p.home line (coreOf t) else s1
    | .engine _ _ => s1
  let flag := s2.settledAt line
  let s3 := s2.await line (rcvOf r.src)
  s3.send { dest := (rcvOf r.src), home := p.home, line := line,
            kind := .reply r.src r.tag r.part p n (BitVec.ofNat 64 (s.read p.loc (min n 8))) (s.lineData line) flag }

/-- PerformStore of 05 R150. -/
def State.performStoreReq (s : State) (r : Req) (mask : BitVec 128) (data : BitVec 1024) : State :=
  let p := r.place
  let line := lineOf p.loc
  let s1 := s.writeHome p.home line mask data p.alloc p.pair (srcCore r.src)
  let flag := s1.settledAt line
  (s1.await line (rcvOf r.src)).send
    { dest := (rcvOf r.src), home := p.home, line := line, kind := .ack r.src mask data flag }

/-- PerformAtomic of 05 R150. -/
def State.performAtomicReq (s : State) (r : Req) (op : AtomOp) (dbl : Bool) (y expected : Word) (mc : Nat) : State :=
  let p := r.place
  let line := lineOf p.loc
  let n := if dbl then 8 else 4
  let old := s.read p.loc n
  let reply := fun (s' : State) (mask : BitVec 128) (data : BitVec 1024) =>
    let flag := s'.settledAt line
    (s'.await line (rcvOf r.src)).send
      { dest := (rcvOf r.src), home := p.home, line := line,
        kind := .atomicReply r.src r.tag r.part (atomicExt op dbl old) mask data flag r.posted }
  match atomicNew op dbl old (y.toNat % 2 ^ (8 * n)) (expected.toNat % 2 ^ (8 * n)) mc with
  | none =>
    let s1 := match p.home with
      | .slice _ => s.touchSlice line p.alloc p.pair
      | _ => s
    reply s1 0 0
  | some new =>
    let mask := byteMask (p.loc % 128) n
    let data := placeData (p.loc % 128) new
    reply (s.writeHome p.home line mask data p.alloc p.pair (srcCore r.src)) mask data

/-! ## Homes that must be made ready first -/

/-- Whether a place is device memory, whose page has a bias. -/
def isDevice (p : Place) : Bool := decide (p.loc < 2 ^ 47)

/-- A page whose bias is being flipped holds the requests that came after the flip began (06 R179, R180). -/
def State.flipHolds (s : State) (r : Req) : Bool :=
  isDevice r.place && s.flips.any (fun f => decide (f.page = biasPage r.place.loc) && !f.before.contains r)

/-- A request of a flipping page has performed. -/
def State.flipDone (s : State) (r : Req) : State :=
  if s.flips = [] then s else { s with flips := s.flips.map (fun f => { f with before := f.before.erase r }) }

/-- The scratchpad bank of a location of core `k`, if it lies in the scratchpad (02 R55). -/
def bankOf (k loc : Nat) : Option Nat :=
  if locSpm k 0 ≤ loc && loc < locSpm k 0 + 2 ^ 18 then some ((loc - locSpm k 0) / 2 ^ 13) else none

/-- Whether core `k` is awake for an access to `loc` (02 R56, R57). -/
def State.coreAwake (s : State) (k loc : Nat) : Bool :=
  isTscCore k || (!(s.core k).gated && match bankOf k loc with
    | some b => (s.core k).spAwake.getLsbD b
    | none => true)

/-- Records that a bank was touched (02 R56). -/
def State.touchBank (s : State) (k loc : Nat) : State :=
  match bankOf k loc with
  | some b => if isTscCore k then s else s.updCore k (fun c => { c with touched := NMap.set 0 c.touched b s.cycle })
  | none => s

/-- The cluster-memory block of a location of cluster `cl`. -/
def blockOf (cl loc : Nat) : Nat := (loc - locCluster cl 0) / 512

def State.expState (s : State) (cl blk : Nat) : Option ExpState :=
  ((s.cluster cl).expander.find? (fun e => e.blk = blk)).map (·.state)

/-- Allocates an expander entry, evicting the least recently used clean or dirty one on which no access waits; one victim is
evicted for an allocation (04 R113, R114). -/
def expAlloc (es : List Expanded) (waited : Nat → Bool) (blk : Nat) (st : ExpState) : List Expanded :=
  if es.length < 64 then es ++ [{ blk := blk, state := st }]
  else if es.any (fun e => e.forBlk = some blk) then es
  else match es.find? (fun e => (e.state = .clean || e.state = .dirty) && !waited e.blk) with
    | none => es
    | some e =>
      if e.state = .clean then (es.erase e) ++ [{ blk := blk, state := st }]
      else es.map (fun x => if x = e then { x with state := .compressing, forBlk := some blk } else x)

/-- The block of cluster memory for which the next step of a job waits at the expander. -/
def Job.waitsFor (j : Job) : Option Nat := if j.blocks.step = j.steps then j.blocks.wait else none

/-- The block for which a launch image's next write waits at an expander (16 R400). -/
def Launch.waitsFor (l : Launch) : Option (Nat × Nat) :=
  match l.loading with
  | some (p :: _) => some (p.cl, p.off / 512)
  | _ => none

/-- Whether an access waits on a block of a cluster's memory: the first request of a FIFO or of a quadrant service core, a step of
a sequencer, a write of a launch image. -/
def State.blockWaited (s : State) (cl blk : Nat) : Bool :=
  s.fifo.any (fun r => decide (r.place.home = .expander cl) && decide (blockOf cl r.place.loc = blk) &&
    decide (s.headReq r.src r.place.home = some r)) ||
  (clusterCores cl).any (fun k => (s.core k).jobs.any (fun j => decide (j.waitsFor = some blk))) ||
  s.launches.any (fun l => decide (l.waitsFor = some (cl, blk))) ||
  s.ioq.any (fun q => match q.2 with
    | r :: _ => decide (r.home = .expander cl) && decide (r.off / 512 = blk)
    | [] => false)

/-- An access of an expanded block makes it the most recently used, and a write makes it dirty (04 R113). -/
def expTouch (es : List Expanded) (blk : Nat) (w : Bool) : List Expanded :=
  match es.find? (fun e => e.blk = blk) with
  | none => es
  | some e => (es.erase e) ++ [{ e with state := if w then .dirty else e.state }]

/-- Whether an access can perform at once: the bank is awake, the block expanded, the way usable. -/
def State.homeReady (s : State) (p : Place) : Bool :=
  match p.home with
    | .core k => s.coreAwake k p.loc
    | .expander cl => !s.wayBusy cl ((p.loc - locCluster cl 0) / 2 ^ 20) &&
        (s.expState cl (blockOf cl p.loc) = some .clean || s.expState cl (blockOf cl p.loc) = some .dirty)
    | _ => true

/-- The bookkeeping of the home for an access that performs. -/
def State.homeTouch (s : State) (p : Place) (w : Bool) : State :=
  match p.home with
  | .core k => s.touchBank k p.loc
  | .expander cl => s.updCluster cl (fun c => { c with expander := expTouch c.expander (blockOf cl p.loc) w })
  | _ => s

/-- A bank of a core, or with 32 the core itself, is wanted. -/
def Core.want (b : Nat) (c : Core) : Core := if c.wanted.contains b then c else { c with wanted := c.wanted ++ [b] }
/-- What an access to a location of core `k`'s stores waits for: the core, where it is gated, or its bank (02 R56, R57). -/
def State.bankFor (s : State) (k loc : Nat) : Nat := if (s.core k).gated then 32 else (bankOf k loc).getD 32
def State.want (s : State) (k loc : Nat) : State := s.updCore k (Core.want (s.bankFor k loc))

/-- What an access that cannot perform yet makes its home do: an expander allocates the block, in state `st`; a core wakes the
bank; everything else waits for its own step. -/
def State.homePrepare (s : State) (p : Place) (st : ExpState) : State :=
  match p.home with
  | .core k => s.want k p.loc
  | .expander cl =>
    if s.expState cl (blockOf cl p.loc) = none && !s.wayBusy cl ((p.loc - locCluster cl 0) / 2 ^ 20) then
      s.updCluster cl (fun c => { c with expander := expAlloc c.expander (s.blockWaited cl) (blockOf cl p.loc) st })
    else s
  | _ => s

/-- The state in which the expander allocates a block for a request: dirty for an engine whose writes cover the whole block,
which are then all in its FIFO (04 R113); expanding otherwise. -/
def State.allocState (s : State) (r : Req) : ExpState :=
  let blk := r.place.loc / 512
  let mine := s.fifo.filter (fun q => q.src = r.src && q.place.home = r.place.home && decide (q.place.loc / 512 = blk))
  let covered := fun (line : Nat) => mine.foldl (fun (m : BitVec 128) q => match q.kind with
    | .store mask _ => if lineOf q.place.loc = line then m ||| mask else m
    | _ => m) 0
  match r.src, r.kind with
  | .engine _ _, .store _ _ =>
    if (List.range 4).all (fun i => decide (covered (4 * blk + i) = BitVec.allOnes 128)) then .dirty else .expanding
  | _, _ => .expanding

/-! ## Flow control (05 R133) -/

/-- The messages of a home to a receiver that are not yet processed, in order. -/
def State.unprocessed (s : State) (h : Home) (r : Rcv) : List Msg := s.rq.filter (fun m => m.home = h && m.dest = r)
/-- Those that the home has sent: it stops sending while 128 are unprocessed. -/
def State.sentTo (s : State) (h : Home) (r : Rcv) : List Msg := (s.unprocessed h r).take 128
/-- Those that it still holds back, to send them as earlier ones are processed (log entry 81). -/
def State.unsent (s : State) (h : Home) (r : Rcv) : List Msg := (s.unprocessed h r).drop 128

/-- A home may send a message to a receiver at once. -/
def State.mayEnter (s : State) (h : Home) (r : Rcv) : Bool := decide ((s.unprocessed h r).length < 128)

/-- Whether a request writes: a load does not, nor an atomic that writes no byte (05 R150). -/
def State.reqWrites (s : State) (r : Req) : Bool :=
  match r.kind with
  | .load _ => false
  | .atomic op dbl y e mc =>
    let n := if dbl then 8 else 4
    (atomicNew op dbl (s.read r.place.loc n) (y.toNat % 2 ^ (8 * n)) (e.toNat % 2 ^ (8 * n)) mc).isSome
  | _ => true

/-- A home may perform a request: it may answer, and may invalidate every other sharer where the request writes. -/
def State.mayAnswer (s : State) (r : Req) : Bool :=
  let others := if s.reqWrites r then (s.dir (lineOf r.place.loc)).sharers.filter (fun d => decide (srcCore r.src ≠ some d)) else []
  s.mayEnter r.place.home (rcvOf r.src) && others.all (fun d => s.mayEnter r.place.home (.core d))

/-! ## Accesses of a TSC that fail (01 R37) -/

/-- An access of a TSC that cannot complete: true where CXL.cache does not reach its line, false where a load meets an
uncorrectable error. Which lines these are is an input (log entry 68). -/
def State.tscFails (s : State) (r : Req) : Option Bool :=
  let line := lineOf r.place.loc
  match r.src with
  | .engine _ _ => none
  | .thread t =>
    if !isTsc t then none
    else if isHostPa r.place.loc && s.lostLines.contains line then some true
    else match r.kind with
      | .load _ => if s.badLines.contains line then some false else none
      | _ => none

/-- Such an access returns 0 and writes nothing, and a bit of `tinbox` says which it was. -/
def State.failTsc (s : State) (r : Req) (host : Bool) : State :=
  let s1 := match r.src with
    | .thread t => s.updCluster (clusterOf (coreOf t)) (fun c => if host then { c with hostErr := true } else { c with ue := true })
    | .engine _ _ => s
  s1.send { dest := rcvOf r.src, home := r.place.home, line := lineOf r.place.loc, kind := match r.kind with
    | .load n => .reply r.src r.tag r.part r.place n 0 0 true
    | _ => .ack r.src 0 0 true }

/-- A thread whose access waits at an expander, or at a drowsy bank of its own core, leaves rotation (04 R113; 02 R56). -/
def State.holdAtHome (s : State) (r : Req) : State :=
  match r.src, r.place.home with
  | .thread t, .expander cl =>
    if (s.thread t).run = .ready then s.stop t (.waiting (.block cl (blockOf cl r.place.loc))) else s
  | .thread t, .core k =>
    if (s.thread t).run = .ready && decide (coreOf t = k) then s.stop t (.waiting (.bank (s.bankFor k r.place.loc))) else s
  | _, _ => s

/-- Whether a thread has a request to a block of a cluster's memory in its FIFO. -/
def State.atBlock (s : State) (t cl blk : Nat) : Bool :=
  s.fifo.any (fun r => decide (r.src = .thread t) && decide (r.place.home = .expander cl) && decide (blockOf cl r.place.loc = blk))

/-- The perform step of the head of a FIFO, for requests that `pick` selects (05 R149, R150). -/
def State.performHead (s : State) (src : Src) (h : Home) (pick : ReqKind → Bool) : State :=
  match s.headReq src h with
  | none => s
  | some r =>
    if !pick r.kind then s
    else if s.flipHolds r || !s.mayAnswer r then s
    else if !s.homeReady r.place then (s.homePrepare r.place (s.allocState r)).holdAtHome r
    else
      let s1 := (s.dropReq r).flipDone r
      match s.tscFails r with
      | some host => s1.failTsc r host
      | none => match r.kind with
      | .load n => (s1.homeTouch r.place false).performLoadReq r n
      | .store mask data => (s1.homeTouch r.place true).performStoreReq r mask data
      | .atomic op dbl y e mc => (s1.homeTouch r.place true).performAtomicReq r op dbl y e mc
      | .writeback => s

end Sys2Proof.Machine
end

