-- ==== Sys2Proof/Machine/TileTable.lean ====
section
/-! DEFINITION. The tile table (02 R74 to R77, R79; 13 R337 to R344), accumulator ownership (13 R346), and the hearth
updates they cause. -/

namespace Sys2Proof.Machine

def State.tile (s : State) (k e : Nat) : Tile := NMap.get {} (s.core k).tiles e
def State.setTile (s : State) (k e : Nat) (x : Tile) : State :=
  s.updCore k (fun c => { c with tiles := NMap.set {} c.tiles e x })
def State.updTile (s : State) (k e : Nat) (f : Tile → Tile) : State := s.setTile k e (f (s.tile k e))
/-- The entry a handle of a thread is bound to. -/
def Thread.handle (x : Thread) (h : Nat) : Option Nat := NMap.get none x.handles h

/-- Hearth updates for a tile's contributions, added or subtracted (02 R79). -/
def State.hearthTile (s : State) (k : Nat) (cs : List (Nat × Nat × Nat)) (add : Bool) : State :=
  s.updCluster (clusterOf k) (fun c => { c with
    updates := c.updates ++ cs.map (fun p => ⟨p.1, p.2.1, some (localOf k), if add then (p.2.2 : Int) else -(p.2.2 : Int), s.cycle⟩) })

/-- Puts a command that waited for its tile at the tail of its engine's queue (13 R343). -/
def State.enterQueue (s : State) (id : Nat) : State :=
  { s with engines := s.engines.map (fun g => match g.2.cmds.find? (fun c => c.id = id) with
      | some c => (g.1, { g.2 with cmds := g.2.cmds.erase c ++ [{ c with entered := true }] })
      | none => g) }

/-- Whether a job has a step to take: an MSTORE's must have reached its fill; MMASK takes none (13 R349, R353, R355). -/
def State.steppable (s : State) (k : Nat) (j : Job) : Bool :=
  match j.kind with
  | .mma _ _ _ _ _ _ _ _ => true
  | .mmac _ => true
  | .mstore e _ _ _ _ _ => decide ((s.tile k e).state = .filling) && decide ((s.tile k e).filler = some (.mstore j.t))
  | .mmask _ _ => false

/-- Whether both accumulators of a core have work. -/
def State.bothWork (s : State) (k : Nat) : Bool :=
  let js := (s.core k).jobs.filter (fun j => s.steppable k j)
  js.any (fun j => j.one) && js.any (fun j => !j.one)
/-- The alternation is over once one of them has none: the next one starts with a0 (13 R349). -/
def State.turnOver (s : State) (k : Nat) : State :=
  if s.bothWork k then s else s.updCore k (fun c => { c with lastOne := true })

/-- Whether a core's sequencer has no step in progress. -/
def State.seqIdle (s : State) (k : Nat) : Bool := (s.core k).jobs.all (fun j => !s.steppable k j)

/-- The mode in which a sequencer that is idle starts (13 R349, 22 R456). -/
def State.seqMode (s : State) (k : Nat) : State :=
  if s.seqIdle k then s.updCore k (fun c => { c with narrow := s.service.narrow }) else s

/-- The operands-consumed event (02 R76, R77): with an operation pending and the count 0, the contributions are
subtracted and the operation starts. -/
def State.tileEvent (s : State) (k e : Nat) : State :=
  let x := s.tile k e
  if x.state ≠ .ready || x.count ≠ 0 then s
  else match x.op with
    | .none => s
    | .refill | .drain =>
      let s1 := (s.hearthTile k x.contribs false).setTile k e
        { x with state := if x.op = .refill then .filling else .draining, op := .none, contribs := [],
                 bad := x.bad && decide (x.op = .drain) }
      (match x.filler with
       | some (.engine id) => s1.enterQueue id
       | _ => if s.seqIdle k then s1.updCore k (fun c => { c with narrow := s.service.narrow }) else s1)
    | .release =>
      let s1 := s.hearthTile k x.contribs false
      s1.setTile k e (if x.refs = 0 then {} else { x with state := .empty, op := .none, contribs := [] })

/-- One consumer of a tile has read its last byte (02 R75). -/
def State.tileConsumed (s : State) (k e : Nat) : State :=
  (s.updTile k e (fun x => { x with count := x.count - 1 })).tileEvent k e

/-- A release is requested (02 R76): at once where the tile is ready, after the fill, drain or pending operation
otherwise; an empty tile is free at once (13 R340). -/
def State.tileRelease (s : State) (k e : Nat) : State :=
  let x := s.tile k e
  match x.state with
  | .empty => if x.op = .none && x.filler = none then s.setTile k e {} else s.setTile k e { x with relWait := true }
  | .ready =>
    if x.op = .none then (s.setTile k e { x with op := .release }).tileEvent k e
    else s.setTile k e { x with relWait := true }
  | _ => s.setTile k e { x with relWait := true }

/-- A fill, refill or drain has ended: done makes a filled tile ready with its contributions, anything else leaves it
empty (02 R76, 13 R343); a release that waited is taken. -/
def State.tileEnd (s : State) (k e : Nat) (done : Bool) (contribs : List (Nat × Nat × Nat)) : State :=
  let x := s.tile k e
  let ready := x.state = .filling && done
  let s1 := if ready then s.hearthTile k contribs true else s
  let y := { x with state := if ready then TileState.ready else .empty, filler := none, bad := !done,
                    contribs := if ready then contribs else [] }
  if y.relWait then (s1.setTile k e { y with relWait := false }).tileRelease k e else s1.setTile k e y

/-- Lowers an entry's handle count; the last one requests a release (13 R340). -/
def State.dropHandle (s : State) (k e : Nat) : State :=
  let s1 := s.updTile k e (fun x => { x with refs := x.refs - 1 })
  if (s1.tile k e).refs = 0 then s1.tileRelease k e else s1

/-- Unbinds a set of handles, each as by TREL. -/
def State.dropHandles (s : State) (k : Nat) (hs : NMap (Option Nat)) : State :=
  hs.foldl (fun s p => match p.2 with
    | some e => s.dropHandle k e
    | none => s) s

/-- Ends every TCONS hold of a thread (13 R344). -/
def State.dropTcons (s : State) (t : Nat) : State :=
  let hs := (s.thread t).tcons
  if hs = [] then s
  else hs.foldl (fun s e => s.tileConsumed (coreOf t) e) (s.updThread t (fun x => { x with tcons := [] }))

/-- A context gives up the accumulators it owns, which are cleared (13 R346). -/
def State.giveUpAccs (s : State) (t : Nat) : State :=
  let c := s.core (coreOf t)
  let f := fun (a : Acc) => if a.owner = some (ctxOf t) then { a with owner := none, clearing := true } else a
  if c.acc0.owner = some (ctxOf t) || c.acc1.owner = some (ctxOf t) then
    s.setCore (coreOf t) { c with acc0 := f c.acc0, acc1 := f c.acc1 }
  else s

/-- The readers of an A tile and of a B tile of a cooperative product: 2^LW and 2^LH (13 R352). -/
def readersA (group : Word) : Nat := 2 ^ (group.toNat / 2 ^ 12 % 8)
def readersB (group : Word) : Nat := 2 ^ (group.toNat / 2 ^ 15 % 8)

/-- A number of consumers of a tile are withdrawn (13 R352). -/
def State.tileWithdraw (s : State) (k : Nat) (e : Option Nat) (n : Nat) : State :=
  match e with
  | some i => (s.updTile k i (fun x => { x with count := x.count - n })).tileEvent k i
  | none => s

/-- An arrival at an MMAC withdraws the counts it added (13 R352). -/
def State.withdrawMmac (s : State) (a : MmacArr) : State :=
  (s.tileWithdraw (coreOf a.t) a.ta (readersA a.group)).tileWithdraw (coreOf a.t) a.tb (readersB a.group)

/-- A thread's MMAC arrival that has not started is withdrawn. -/
def State.leaveMmac (s : State) (t : Nat) : State :=
  let cl := clusterOf (coreOf t)
  match (s.cluster cl).mmacs.find? (fun a => decide (a.t = t) && !a.started) with
  | some a => (s.updCluster cl (fun c => { c with mmacs := c.mmacs.erase a })).withdrawMmac a
  | none => s

/-- The arrivals of an MMAC's group. -/
def State.mmacGroup (s : State) (cl launch : Nat) (g : Word) : List MmacArr :=
  (s.cluster cl).mmacs.filter (fun a => decide (a.launch = launch) && decide (a.group = g))

/-- The arrival of the core at group position (x, y). -/
def mmacAt (as : List MmacArr) (g : Word) (x y : Nat) : Option MmacArr :=
  as.find? (fun a => decide (coreOf a.t = 48 * (g.toNat / 2 ^ 6 % 64 + y) + g.toNat % 64 + x))

/-- The tiles a core reads for an MMAC, each with the core that supplies it (13 R351). -/
def mmacTiles (as : List MmacArr) (g : Word) (k : Nat) : Option ((Nat × Nat) × (Nat × Nat)) :=
  match mmacAt as g 0 (coreY k - g.toNat / 2 ^ 6 % 64), mmacAt as g (coreX k - g.toNat % 64) 0 with
  | some p, some q => match p.ta, q.tb with
    | some ta, some tb => some ((coreOf p.t, ta), (coreOf q.t, tb))
    | _, _ => none
  | _, _ => none

/-- Every core of a group has finished its steps: all participants return to rotation, but those that have ended
(13 R352). -/
def State.mmacDone (s : State) (cl launch : Nat) (g : Word) : State :=
  let as := s.mmacGroup cl launch g
  if as.any (fun a => (s.core (coreOf a.t)).jobs.any (fun j => decide (j.t = a.t))) then s
  else
    let s1 := s.updCluster cl (fun c => { c with mmacs := c.mmacs.filter (fun a => !(decide (a.launch = launch) && decide (a.group = g))) })
    (as.filter (fun a => !a.gone)).foldl (fun s a =>
      (s.updThread a.t (fun x => { x with pc := x.pc + 4, boundary := false })).wake a.t) s1

/-- A core has no more steps of an MMAC to take: it gives up its counts (13 R351, R352). -/
def State.mmacLeave (s : State) (k launch : Nat) (g : Word) : State :=
  let cl := clusterOf k
  match mmacTiles (s.mmacGroup cl launch g) g k with
  | some (a, b) => ((s.tileConsumed a.1 a.2).tileConsumed b.1 b.2).mmacDone cl launch g
  | none => s

/-- An MSTORE that is dropped leaves its tile: empty where its fill has begun, as it is where a refill still waits
(02 R76). -/
def State.dropMstore (s : State) (k e : Nat) : State :=
  let x := s.tile k e
  if x.state = .ready && x.op = .refill then
    let y := { x with op := TileOp.none, filler := none, relWait := false }
    if x.relWait then (s.setTile k e y).tileRelease k e else s.setTile k e y
  else s.tileEnd k e false []

/-- The jobs of a thread that is ended where it stands leave the sequencer, with their holds on tiles. -/
def State.dropJobs (s : State) (t : Nat) : State :=
  let k := coreOf t
  let launch := (s.thread t).launch
  let mine := (s.core k).jobs.filter (fun j => j.t = t)
  if mine = [] then s
  else
    let s1 := (s.updCore k (fun c => { c with jobs := c.jobs.filter (fun j => j.t ≠ t) })).updCluster (clusterOf k) (fun c =>
      { c with mmacs := c.mmacs.map (fun a => if a.t = t then { a with gone := true } else a) })
    mine.foldl (fun s j => match j.kind with
      | .mma ta tb _ _ _ _ _ _ => (s.tileConsumed k ta).tileConsumed k tb
      | .mmask e _ => s.tileConsumed k e
      | .mstore e _ _ _ _ _ => s.dropMstore k e
      | .mmac g => s.mmacLeave k launch (BitVec.ofNat 64 g)) (s1.turnOver k)

end Sys2Proof.Machine
end

