-- ==== Sys2Proof/Machine/Life.lean ====
section
/-! DEFINITION. The life of threads and launches: children and task records, commit points, the end of a thread and of a
launch, completion records, and the quench levels. -/

namespace Sys2Proof.Machine

/-! ## The exceptions of a command processor (22 R443; log entry 69) -/

/-- Whether supervisor mode may reach a CSR by its number: bits [9:8] name the lowest mode that may. -/
def csrOfMachine (num : Nat) : Bool := decide (num / 2 ^ 8 % 4 = 3)

/-- A bit of a status word. -/
def bitIf (b : Bool) (i : Nat) : Word := if b then BitVec.ofNat 64 (2 ^ i) else 0

/-- A trap taken to machine mode: the pc and the cause saved, the mode in MPP and the interrupt enable in MPIE, the pc at the base
of `mtvec`. -/
def Cp.machineTrap (x : Cp) (cause tval : Word) : Cp :=
  let c := x.csrs
  { x with
    csrs := { c with mepc := x.pc &&& ~~~1#64, mcause := cause, mtval := tval
                     mstatus := (c.mstatus &&& ~~~0x1888#64) ||| bitIf (c.mstatus.getLsbD 3) 7 ||| bitIf true 11 ||| bitIf (!x.smode) 12 }
    pc := c.mtvec &&& ~~~3#64
    smode := false }

/-- A trap that is delegated to supervisor mode, from which it came. -/
def Cp.supervisorTrap (x : Cp) (cause tval : Word) : Cp :=
  let c := x.csrs
  { x with
    csrs := { c with sepc := x.pc &&& ~~~1#64, scause := cause, stval := tval
                     mstatus := (c.mstatus &&& ~~~0x122#64) ||| bitIf (c.mstatus.getLsbD 1) 5 ||| bitIf true 8 }
    pc := c.stvec &&& ~~~3#64 }

/-- An exception of a command processor: to supervisor mode where it comes from there and `medeleg` delegates it, else to machine
mode. -/
def Cp.exception (x : Cp) (cause tval : Word) : Cp :=
  if x.smode && x.csrs.medeleg.getLsbD cause.toNat then x.supervisorTrap cause tval else x.machineTrap cause tval

/-- The illegal-instruction exception of a command processor; what its value register holds is open. -/
def State.cpIllegal (s : State) (p : Nat) : State :=
  let r := s.draw
  r.2.updCp p (fun x => x.exception 2 r.1)

/-- An access of command processor `p` to a machine-mode CSR: from supervisor mode it raises the exception. -/
def State.asMachine (s : State) (p : Nat) (go : Host.Outcome State Fault Refusal) : Host.Outcome State Fault Refusal :=
  if (s.cp p).smode then .next (s.cpIllegal p) else go

/-- The command processor that makes the access of an event whose row names none, as the environment picks it. -/
def State.chosenCp (s : State) : Nat × State := (s.picks.headD 0 % 4, { s with picks := s.picks.tail })

/-! ## Memory as the command processors reach it -/

/-- The physical address of a byte as a command processor or the launch unit reaches it, by the page tables in memory (log
entry 11): none where there is no mapping, where it does not permit the access (01 R29), or where CXL.cache does not reach the
line (16 R393). -/
def State.walk (s : State) (asid va : Nat) (acc : Acc4) : Option Nat :=
  if va / 2 ^ 52 ≠ 0 then none
  else match s.maps.find? (fun m => decide (m.1 ≤ s.cycle) && decide (s.cycle < m.2.1) && m.2.2.covers asid (va / 2 ^ 19)) with
    | some m =>
      let pa := m.2.2.pa va
      if (m.2.2.fails va true acc).isSome || (isHostPa pa && s.lostLines.contains (lineOf pa)) then none else some pa
    | none => none

/-- The bytes of a write of `n` bytes under an ASID, each with its physical address; none where one of them cannot be
reached. -/
def State.cpBytes (s : State) (asid va : Nat) : Nat → Nat → Option (List (Nat × Byte))
  | 0, _ => some []
  | n + 1, v =>
    match s.walk asid va .write, s.cpBytes asid (va + 1) n (v / 256) with
    | some pa, some bs => some ((pa, BitVec.ofNat 8 v) :: bs)
    | _, _ => none

/-- Reads `n` bytes under an ASID. -/
def State.cpRead (s : State) (asid va : Nat) : Nat → Option Nat
  | 0 => some 0
  | n + 1 =>
    match s.walk asid va .read, s.cpRead asid (va + 1) n with
    | some pa, some hi => some ((s.byte pa).toNat + 256 * hi)
    | _, _ => none

/-- Whether a read of `n` bytes under an ASID meets an uncorrectable error (16 R400). -/
def State.cpBad (s : State) (asid va n : Nat) : Bool :=
  (List.range n).any (fun i => match s.walk asid (va + i) .read with
    | some pa => s.badLines.contains (lineOf pa)
    | none => false)

/-- The `n` bytes of a value from a physical address on, each with its address. -/
def physBytes (pa n v : Nat) : List (Nat × Byte) := (List.range n).map (fun i => (pa + i, BitVec.ofNat 8 (v / 256 ^ i)))

/-- Bytes written one after another at their homes. -/
def State.writePhys (s : State) : List (Nat × Byte) → State
  | [] => s
  | (pa, b) :: l => (s.outsideWrite (lineOf pa) (byteMask (pa % 128) 1) (placeData (pa % 128) b.toNat)).writePhys l

/-- Whether some of these bytes lie in a page whose bias is being flipped: a write that is new to the page waits (06 R179,
R180). -/
def State.flipping (s : State) (bs : List (Nat × Byte)) : Bool :=
  bs.any (fun b => decide (b.1 < 2 ^ 47) && s.flips.any (fun f => decide (f.page = biasPage b.1)))

/-- Whether some of `n` bytes from a physical address on lie in such a page: a read that is new to it waits too. -/
def State.heldAt (s : State) (pa n : Nat) : Bool :=
  s.flips.any (fun f => decide (pa < 2 ^ 47) && decide (biasPage pa ≤ f.page) && decide (f.page ≤ biasPage (pa + n - 1)))
/-- The same of a read of `n` bytes under an ASID. -/
def State.cpHeld (s : State) (asid va n : Nat) : Bool :=
  !s.flips.isEmpty && (List.range n).any (fun i => match s.walk asid (va + i) .read with
    | some pa => s.heldAt pa 1
    | none => false)

/-- Whether a part of a record can be written. -/
def State.mayWrite (s : State) (x : Later) : Bool :=
  x.after.all s.settledAt && match x.act with
    | .bytes bs => !s.flipping bs
    | _ => true

/-- The parts of records that can be written, in order: a part waits for what precedes it in its chain, for the lines it
names to settle (16 R394, R401; 18 R432) and for a flip of its page. `held` are the chains that wait. -/
def State.laterGo (s : State) (held : List Chain) : List Later → State
  | [] => s
  | x :: xs =>
    if held.contains x.chain || !s.mayWrite x then
      State.laterGo { s with later := s.later ++ [x] } (x.chain :: held) xs
    else match x.act with
      | .nothing => s.laterGo held xs
      | .close c => State.laterGo { s with closed := s.closed ++ [c] } held xs
      | .irq cp core => (s.updCp cp (fun p => { p with irqs := p.irqs ++ [core] })).laterGo held xs
      | .bytes bs =>
        let lines := (bs.map (fun b => lineOf b.1)).dedup
        let s1 := s.writePhys bs
        if lines.all s1.settledAt then s1.laterGo held xs
        else State.laterGo { s1 with later := s1.later ++ [⟨x.chain, lines, .nothing⟩] } (x.chain :: held) xs

def State.runLater (s : State) : State := if s.later = [] then s else State.laterGo { s with later := [] } [] s.later
/-- Further parts of records. -/
def State.defer (s : State) (xs : List Later) : State := State.runLater { s with later := s.later ++ xs }

/-- A list of doublewords as one number, the first lowest. -/
def wordsToNat : List Word → Nat
  | [] => 0
  | w :: ws => w.toNat + 2 ^ 64 * wordsToNat ws

/-- A number as `n` doublewords. -/
def natToWords : Nat → Nat → List Word
  | 0, _ => []
  | n + 1, v => BitVec.ofNat 64 v :: natToWords n (v / 2 ^ 64)

/-- A record whose first word is written last, once the others have settled (16 R394). -/
def State.cpRecord (s : State) (asid va : Nat) (w0 : Word) (rest : List Word) : Option State :=
  match s.cpBytes asid va 8 w0.toNat, s.cpBytes asid (va + 8) (8 * rest.length) (wordsToNat rest) with
  | some b0, some bs =>
    let c := Chain.record ((b0.map (·.1)).headD 0)
    some (s.defer [⟨c, [], .bytes bs⟩, ⟨c, [], .bytes b0⟩])
  | _, _ => none

/-- The completion record of 16 R394; one that cannot be written is replaced by a notice (16 R393), which names the launch `n`
that the record reports, or 0. -/
def State.writeCpl (s : State) (fn n op asid : Nat) (cpl tag : Word) (stat reason tasks nrun nabort : Nat) : State :=
  if cpl = 0 then s
  else
    let w0 : Word := BitVec.ofNat 64 (stat * 2 ^ 60 + reason * 2 ^ 56)
    match s.cpRecord asid cpl.toNat w0 [tag, BitVec.ofNat 64 tasks, BitVec.ofNat 64 (nrun * 2 ^ 32 + nabort)] with
    | some s1 => s1
    | none => s.notice 0x0A 0 fn n cpl tag (BitVec.ofNat 64 op)

/-! ## Launches -/

/-- Word `i` of a launch's entry. -/
def Launch.dw (l : Launch) (i : Nat) : Word := l.entry.getD i 0
/-- Bits `hi` down to `lo` of a word, as a number. -/
def field (w : Word) (hi lo : Nat) : Nat := w.toNat / 2 ^ lo % 2 ^ (hi - lo + 1)
def Launch.asid (l : Launch) : Nat := field (l.dw 0) 15 0
def Launch.prio (l : Launch) : Nat := field (l.dw 0) 55 53
def Launch.nthr (l : Launch) : Nat := field (l.dw 0) 52 49
def Launch.any (l : Launch) : Bool := (l.dw 0).getLsbD 57

/-- The live threads of a launch (a context that is not free). -/
def State.threadsOf (s : State) (n : Nat) : List Nat :=
  s.threads.filterMap (fun p => if p.2.run ≠ .free && p.2.launch = n && !isTsc p.1 then some p.1 else none)

def State.queue (s : State) (fn q : Nat) : Queue := NMap.get {} (s.func fn).queues q
def State.updQueue (s : State) (fn q : Nat) (f : Queue → Queue) : State :=
  s.updFunc fn (fun x => { x with queues := NMap.set {} x.queues q (f (NMap.get {} x.queues q)) })
def State.gslot (s : State) (fn i : Nat) : Slot16 := NMap.get {} (s.func fn).slots i
def State.updGslot (s : State) (fn i : Nat) (f : Slot16 → Slot16) : State :=
  s.updFunc fn (fun x => { x with slots := NMap.set {} x.slots i (f (NMap.get {} x.slots i)) })
def Slot16.bank (g : Slot16) (b : Nat) : Option Replay := if b = 0 then g.run0 else g.run1
def Slot16.setBank (g : Slot16) (b : Nat) (r : Option Replay) : Slot16 :=
  if b = 0 then { g with run0 := r } else { g with run1 := r }

/-- An accepted entry leaves its queue with its completion record (16 R391); `n` is the launch it reports, or 0. -/
def State.completeEntry (s : State) (fn q n : Nat) (a : Accepted) (asid stat reason tasks nrun nabort : Nat) : State :=
  (s.updQueue fn q (fun x => { x with open_ := x.open_.filter (fun b => b.seqno ≠ a.seqno) })).writeCpl fn n a.op asid a.cpl
    a.tag stat reason tasks nrun nabort

/-- A target of CANCEL entries has completed: they take its counts, and complete with their last target (16 R416, R417). -/
def State.targetDone (s : State) (fn : Nat) (hit : Accepted → Option Accepted) : State :=
  (s.func fn).queues.foldl (fun s p => p.2.open_.foldl (fun s a =>
      if a.op ≠ 4 then s
      else match hit a with
        | none => s
        | some b =>
          if b.targets = [] && b.replays = [] && b.ring = [] then s.completeEntry fn p.1 0 b b.asid 1 0 0 b.nrun b.nabort
          else s.updQueue fn p.1 (fun x => { x with open_ := x.open_.map (fun c => if c.seqno = b.seqno then b else c) })) s) s

/-- A slot without a replay in flight: a GFREE that waits for it unbinds it and zeroes its banks (16 R405). -/
def State.slotFree (s : State) (fn i : Nat) : State :=
  if (s.gslot fn i).run0.isSome || (s.gslot fn i).run1.isSome then s
  else (s.func fn).queues.foldl (fun s p => p.2.open_.foldl (fun s a =>
    if a.op = 5 && decide (a.slot = i) then (s.updGslot fn i (fun _ => {})).completeEntry fn p.1 0 a a.asid 1 0 0 0 0 else s) s) s

/-- A replay whose nodes have all completed, or a cancelled one with none running, completes its GRUN (16 R391, R416). -/
def State.replayOver (s : State) (fn i b : Nat) : State :=
  match (s.gslot fn i).bank b with
  | none => s
  | some r =>
    if r.running ≠ [] || (!r.cancelled && decide (r.node < r.count)) then s
    else
      let s1 := s.updGslot fn i (fun g => g.setBank b none)
      let entry := (s.queue fn r.q).open_.find? (fun a => a.seqno = r.seqno)
      let s2 := match entry with
        | some a => s1.completeEntry fn r.q 0 a r.asid (if r.cancelled then 3 else 1) 0 r.done a.nrun a.nabort
        | none => s1
      let nrun := (entry.map (·.nrun)).getD 0
      let nabort := (entry.map (·.nabort)).getD 0
      (s2.targetDone fn (fun a => if a.replays.contains (i, b) then
        some { a with replays := a.replays.filter (fun x => x ≠ (i, b)), nrun := a.nrun + nrun, nabort := a.nabort + nabort }
        else none)).slotFree fn i

/-- A node of a replay has completed. -/
def State.nodeDone (s : State) (fn i b n nrun nabort : Nat) : State :=
  match (s.gslot fn i).bank b with
  | none => s
  | some r =>
    let s1 := (s.updGslot fn i (fun g => g.setBank b (some { r with running := r.running.filter (fun m => m ≠ n), done := r.done + 1 }))).updQueue
      fn r.q (fun x => { x with open_ := x.open_.map (fun a =>
        if a.seqno = r.seqno then { a with nrun := a.nrun + nrun, nabort := a.nabort + nabort } else a) })
    s1.replayOver fn i b

/-- A launch whose record has been written completes: its entry leaves its queue and the CANCEL entries that name it take its
counts, or its node is done (16 R391, R402, R417). -/
def State.close (s : State) (c : Closing) : State :=
  match c.origin with
  | .queue fn q =>
    (s.updQueue fn q (fun x => { x with open_ := x.open_.filter (fun b => b.seqno ≠ c.seqno) })).targetDone fn (fun a =>
      if a.targets.contains c.num then
        some { a with targets := a.targets.filter (fun m => m ≠ c.num), nrun := a.nrun + c.nrun, nabort := a.nabort + c.nabort }
      else none)
  | .node fn i b => s.nodeDone fn i b c.seqno c.nrun c.nabort

/-- It completes at once, or, where a part of its record has still to be written, after it. -/
def State.closeAfter (s : State) (c : Closing) (record : Option Nat) : State :=
  match record with
  | some loc =>
    if s.later.any (fun x => decide (x.chain = .record loc)) then { s with later := s.later ++ [⟨.record loc, [], .close c⟩] }
    else s.close c
  | none => s.close c

/-- The launches whose records have been written in the meantime complete. -/
def State.runClosed (s : State) : State :=
  if s.closed = [] then s else s.closed.foldl (fun s c => s.close c) { s with closed := [] }

/-- A launch has ended: its completion record, and with it its entry or node; its cores, tiles and channel records (16 R391, R394,
R395; 13 R337; 12 R330). -/
def State.endLaunch (s : State) (n stat : Nat) : State :=
  match s.launch n with
  | none => s
  | some l =>
    let s0 : State := { s with
      launches := s.launches.filter (fun m => m.num ≠ n)
      saved := s.saved.filter (fun c => c.launch ≠ n)
      cores := s.cores.map (fun p => if p.2.owner = some n then (p.1, { p.2 with owner := none }) else p)
      clusters := s.clusters.map (fun p =>
        (p.1, { p.2 with chans := p.2.chans.filter (fun c => !(c.2.live && c.2.launch = n)),
                         mmacs := p.2.mmacs.filter (fun a => a.launch ≠ n) })) }
    let s1 := (l.rect.cores).foldl (fun s k => (s.core k).tiles.foldl (fun s p =>
      if p.2.live && p.2.launch = n then (s.updTile k p.1 (fun x => { x with refs := 0 })).tileRelease k p.1 else s) s) s0
    let c : Closing := ⟨n, l.origin, l.seqno, l.nrun, l.nabort⟩
    let done := fun (fn op : Nat) (cpl tag : Word) =>
      (s1.writeCpl fn n op l.asid cpl tag stat 0 l.tasks l.nrun l.nabort).closeAfter c (s1.walk l.asid cpl.toNat .write)
    match l.origin with
    | .queue fn q =>
      match (s.queue fn q).open_.find? (fun a => a.seqno = l.seqno) with
      | some a => done fn a.op a.cpl a.tag
      | none => s1.close c
    | .node fn _ _ => done fn 1 (l.dw 6) (l.dw 14)

/-- Task records of a launch that are in a deque or a dispenser (14 R369). -/
def State.recordsOf (s : State) (n : Nat) : Nat :=
  let mine := fun (r : Record) => decide (field (r.getD 1 0) 47 32 = n % 2 ^ 16)
  (s.cores.map (fun p => (p.2.deque.filter (fun q => mine q.task)).length)).sum +
    (s.clusters.map (fun p => (p.2.pool.filter (fun q => mine q.2)).length + (p.2.forwarded.filter (fun q => mine q.task)).length)).sum

/-- Engine commands of a launch that are in flight. -/
def State.commandsOf (s : State) (n : Nat) : Nat :=
  (s.engines.map (fun p => (p.2.cmds.filter (fun c => c.launch = n)).length)).sum

/-- A launch ends in the cycle in which its last thread has ended, no record and no engine command of it remains
(14 R369). -/
def State.endIfOver (s : State) (n : Nat) : State :=
  match s.launch n with
  | none => s
  | some l =>
    if l.phase = .live && s.threadsOf n = [] && !s.saved.any (fun c => c.launch = n) && s.recordsOf n = 0 &&
        s.commandsOf n = 0 then
      s.endLaunch n (if l.stat ≠ 0 then l.stat else if l.cancelled then 3 else 1)
    else s

/-- A task report: the count, and a result entry where the launch has a ring: DW7 last, and each entry settled before the next
begins (16 R401). -/
def State.report (s : State) (t : Nat) (results : List Word) : State :=
  let x := s.thread t
  match s.launch x.launch with
  | none => s
  | some l =>
    let ring := l.dw 7
    let lg := ring.toNat % 64
    let s1 := s.updLaunch l.num (fun m => { m with tasks := m.tasks + 1 })
    if ring = 0 then s1
    else
      let seq := l.tasks % 2 ^ 32
      let at_ := ring.toNat / 64 * 64 + 64 * (seq % 2 ^ lg)
      let tid := BitVec.ofNat 64 (x.launch % 2 ^ 16 * 2 ^ 48 + coreField (coreOf t) * 16 + ctxOf t)
      match s1.cpBytes l.asid at_ 56 (wordsToNat (results ++ [tid])), s1.cpBytes l.asid (at_ + 56) 8 seq with
      | some bs, some b7 => s1.defer [⟨.results l.num, [], .bytes bs⟩, ⟨.results l.num, [], .bytes b7⟩]
      | _, _ => s1

/-! ## Threads -/

/-- Whether a thread is in WAITW: parked for a record, or a transform thread that waits for its ring (04 R122). -/
def Thread.inWaitw (x : Thread) : Bool :=
  match x.run with
  | .parked (.waitw _) => true
  | .parked .ring => true
  | _ => false

/-- Whether a group word is legal for a thread on core `k` with rectangle `r` (07 R185). -/
def groupLegal (r : Rect) (k : Nat) (w : Word) : Bool :=
  let lw := field w 14 12
  let lh := field w 17 15
  let x := field w 5 0
  let y := field w 11 6
  decide (w.toNat / 2 ^ 18 = 0) && decide (lw ≤ 5) && decide (lh ≤ 5) && decide (x % 2 ^ lw = 0) && decide (y % 2 ^ lh = 0) &&
    decide (r.x0 ≤ x) && decide (x + 2 ^ lw ≤ r.x0 + r.w) && decide (r.y0 ≤ y) && decide (y + 2 ^ lh ≤ r.y0 + r.h) &&
    decide (x ≤ coreX k) && decide (coreX k < x + 2 ^ lw) && decide (y ≤ coreY k) && decide (coreY k < y + 2 ^ lh)

/-- The cores of a group. -/
def groupCores (w : Word) : List Nat :=
  Rect.cores ⟨field w 5 0, field w 11 6, 2 ^ field w 14 12, 2 ^ field w 17 15, 0⟩

/-- The cluster that keeps a group's arrivals: that of its origin core. -/
def groupHome (w : Word) : Nat := clusterOf (48 * field w 11 6 + field w 5 0)

/-- The members of a barrier: the live threads of the launch on the group's cores that are not in WAITW (12 R326). -/
def State.members (s : State) (launch : Nat) (group : Word) : List Nat :=
  ((groupCores group).flatMap coreThreads).filter (fun t =>
    let x := s.thread t
    decide (x.run ≠ .free) && decide (x.launch = launch) && !x.inWaitw && !x.atWaitw && decide (ctxOf t ≠ 14))

/-- Whether a member is switched out: a saved thread stays a member till it is restored and arrives (12 R328; 18 R432). -/
def State.savedMember (s : State) (launch : Nat) (group : Word) : Bool :=
  s.saved.any (fun c => decide (c.launch = launch) && !c.waitw && (groupCores group).contains (coreOf c.t))

/-- The result a barrier gives an arrival: the sum over the arrivals of its own kind and size (12 R327). -/
def barrierResult (as : List Arrival) (a : Arrival) : Word :=
  let mine := as.filter (fun b => b.kind = a.kind && b.dbl = a.dbl)
  if a.kind = 2 then
    BitVec.ofNat 64 (fpResult (exSum (mine.map (fun b => (f32 b.val.toNat).mul (Ex.ofInt b.mc)))) 0 false 0).1
  else
    let n := if a.dbl then 64 else 32
    let sum := (mine.map (fun b => b.val.toNat % 2 ^ n * b.mc)).sum % 2 ^ n
    if a.dbl then BitVec.ofNat 64 sum else (BitVec.ofNat 32 sum).signExtend 64

/-- Unmaps sources marked last-use of an instruction that completes after its issue step, in the checkpoint too. -/
def State.unmapAt (s : State) (t : Nat) (rs : List (BitVec 5)) : State :=
  rs.foldl (fun s r => (s.unmap t [r]).updThread t (fun x => x.ckptS r.toNat)) s

/-- A member leaves the barrier with its result, which also enters the checkpoint (18 R428), and returns to rotation past
the instruction; one that a pre-emption has stopped in this cycle is saved there (12 R328). -/
def State.releaseBarrier (s : State) (as : List Arrival) (a : Arrival) : State :=
  let s0 := s.unmapAt a.t a.unmap
  let s1 := if a.kind = 0 then s0 else (s0.setS a.t a.d (barrierResult as a) 0).updThread a.t (fun x => x.ckptS a.d)
  if (s1.thread a.t).run = .waiting .preempt then
    s1.updThread a.t (fun x => { ({ x with pc := x.pc + 4 } : Thread).beginRegion (x.pc + 4) with boundary := true })
  else (s1.updThread a.t (fun x => { x with pc := x.pc + 4 })).wake a.t

/-- The arrivals that a pre-emption has withdrawn in this cycle: a completion in the same cycle wins (12 R328). -/
def State.withdrawnNow (s : State) (cl : Nat) : List Arrival :=
  if (s.cluster cl).withdrawnAt = s.cycle then (s.cluster cl).withdrawn else []

/-- A barrier completes in the first cycle in which every member has arrived (12 R327). -/
def State.checkBarrier (s : State) (cl launch : Nat) (group : Word) : State :=
  let mine := fun (a : Arrival) => decide (a.launch = launch) && decide (a.group = group)
  let as := (s.cluster cl).arrivals.filter mine ++ (s.withdrawnNow cl).filter mine
  if as = [] || s.savedMember launch group || !(s.members launch group).all (fun t => as.any (fun a => a.t = t)) then s
  else
    let s1 := s.updCluster cl (fun c => { c with arrivals := c.arrivals.filter (fun a => !mine a), withdrawn := c.withdrawn.filter (fun a => !mine a) })
    as.foldl (fun s a => s.releaseBarrier as a) s1

/-- Checks every barrier of a launch whose membership has changed, those whose arrivals have all been withdrawn in this cycle among
them. -/
def State.checkBarriers (s : State) (launch : Nat) : State :=
  s.clusters.foldl (fun s p => ((p.2.arrivals ++ s.withdrawnNow p.1).filter (fun a => a.launch = launch)).foldl
    (fun s a => s.checkBarrier p.1 a.launch a.group) s) s

/-- Whether the image in `block` of context `t` of launch `n` is still to be written: the thread has stopped for it (18 R430). -/
def State.unsavedImage (s : State) (t n block : Nat) : Bool :=
  decide ((s.thread t).run = .waiting .preempt) && decide ((s.thread t).launch = n) &&
    s.preempts.any (fun r => decide (r.t = t) && !r.gone && decide (r.block = block))

/-- A thread's arrivals and waits are withdrawn from its cluster's units, and a meet entry it holds becomes free. What a fault record
keeps for an image that is then never written goes with it (01 R52). -/
def State.withdraw (s : State) (t : Nat) : State :=
  let dropMeet := fun (m : NMap Meet) => m.filter (fun p => p.2.holder ≠ t)
  let other := fun (u : Nat) => decide (u ≠ t)
  let clear := fun (c : Cluster) => { c with
    arrivals := c.arrivals.filter (fun a => other a.t),
    mmacs := (c.mmacs.filter (fun a => other a.t || a.started)).map (fun a => if other a.t then a else { a with gone := true }),
    weld := dropMeet c.weld,
    chans := (c.chans.map (fun p =>
      (p.1, { p.2 with recvs := p.2.recvs.filter (fun u => other u.t), sends := p.2.sends.filter (fun u => other u.t) }))).filter
        (fun p => !(decide (p.2.fifo = []) && decide (p.2.recvs = []) && decide (p.2.sends = []))),
    fetches := c.fetches.map (fun f => { f with waiters := f.waiters.filter other }),
    align := c.align.map (fun a => { a with waiters := a.waiters.filter other }),
    faults := c.faults.map (fun f => { f with waiters := f.waiters.filter (fun w => match w with
      | .thread u _ => other u
      | .saved u n b _ => other u || !s.unsavedImage t n b
      | _ => true) })
    answers := c.answers.filter (fun a => other a.t || !s.unsavedImage t a.launch a.block)
    withdrawn := c.withdrawn.filter (fun a => other a.t) }
  let s1 : State := { s with clusters := s.clusters.map (fun p => (p.1, clear p.2)) }
  s1.updCore (coreOf t) (fun c => { c with meets := dropMeet c.meets })

/-- What a context keeps when its thread ends: the CSRs that a later child or record inherits, and the ordering machine's
own state (16 R399, R413; 05 R148). Its physical registers return, those of its checkpoint too (07 R191). -/
def Thread.emptied (x : Thread) : Thread :=
  { x with run := .free, s := [], v := [], k := [], limbo := [], limboV := [], rsb := [], inflight := none, pfx := false,
           handles := [], tcons := [], children := [], task := false, cancel := false, faultSeq := none, stage := none,
           releasing := [], hflag := false, ckpt := {}, inUse := [], owed := none, notBefore := 0, atWaitw := false }

/-- A thread ends: its holds, handles, pending children's bindings and accumulators are given up, its context is free
(14 R369, 13 R337, R346). What it had in its RSB is discarded: an ordinary end finds it empty. -/
def State.endThread (s : State) (t : Nat) : State :=
  let x := s.thread t
  let k := coreOf t
  let s1 := (((s.leaveMmac t).dropJobs t).withdraw t).dropTcons t
  let s2 := (x.children ++ x.releasing).foldl (fun s c => s.dropHandles k c.handles) (s1.dropHandles k x.handles)
  let s3 := (s2.giveUpAccs t).updCore k (fun c => c.leave t)
  ((s3.updThread t Thread.emptied).checkBarriers x.launch).endIfOver x.launch

/-- A marked thread, or one ended where it waits, ends without a report (16 R417). -/
def State.abortThread (s : State) (t : Nat) : State :=
  let x := s.thread t
  let s1 := if x.task then s.updLaunch x.launch (fun l => { l with nabort := l.nabort + 1 }) else s
  s1.endThread t

/-- A context takes a new thread at `pc`, a region beginning there (07 R199, 16 R413). -/
def State.startThread (s : State) (t : Nat) (x : Thread) (pc : Word) : State :=
  let y := { x with run := .ready, pc := pc, tags := (s.thread t).tags, nextAge := (s.thread t).nextAge,
                    storeCount := (s.thread t).storeCount, awaiting := (s.thread t).awaiting }
  (s.setThread t (y.beginRegion pc)).updCore (coreOf t) (fun c => { c.enter t s.cycle with gated := false })

/-- A context's CSRs that start at 0 for a child released into it and for a dispatched record (14 R367, 16 R413). -/
def Thread.fresh (x : Thread) : Thread :=
  { x.emptied with epc := 0, estatus := 0, ecause := 0, fadr := 0, fcause := 0, mprogV := false, mprogSteps := 0,
                   fmtpend := 0, pin := false }

/-- The lowest-numbered free context from 0 to 13 of a core. -/
def State.freeCtx (s : State) (k : Nat) : Option Nat :=
  ((List.range 14).map (fun c => 16 * k + c)).find? (fun t => (s.thread t).run = .free)

/-- A released child starts in a free context of its parent's core (07 R199, 14 R367). -/
def State.startChild (s : State) (parent t : Nat) (c : Child) : State :=
  let p := s.thread parent
  let x := (s.thread t).fresh
  s.startThread t { x with s := c.s, v := c.v, k := c.k, mc := c.mc, srseed := c.srseed, handles := c.handles, sv := c.sv,
                           tvec := c.tvec, escratch := c.escratch, bsrd := c.bsrd, bswr := c.bswr, bsacc := c.bsacc,
                           launch := p.launch, fn := p.fn, prio := c.prio } c.pc

/-! ## Task records (16 R406 to R411) -/

namespace Record
def entry (r : Record) : Word := r.getD 0 0
def asid (r : Record) : Nat := field (r.getD 1 0) 63 48
def launch (r : Record) : Nat := field (r.getD 1 0) 47 32
def mc (r : Record) : Nat := field (r.getD 1 0) 31 0
def args (r : Record) : List Word := (r.drop 2).take 6
def fk (r : Record) : Bool := (r.getD 9 0).getLsbD 40
def fd (r : Record) : Nat := field (r.getD 9 0) 39 35
def prio (r : Record) : Nat := field (r.getD 9 0) 34 32
/-- The read tiles that name something: address and length. -/
def tiles (r : Record) : List (Nat × Nat) :=
  [8, 10, 12, 14].filterMap (fun i =>
    let va := (r.getD i 0).toNat
    let len := field (r.getD (i + 1) 0) 31 0
    if len = 0 || va / 2 ^ 52 ≠ 0 then none else some (va, len))
end Record

/-- The record of a child that finds no free context (07 R199). -/
def childRecord (asid launch : Nat) (c : Child) : Record :=
  [c.pc, BitVec.ofNat 64 (asid * 2 ^ 48 + launch % 2 ^ 16 * 2 ^ 32 + c.mc % 2 ^ 32)] ++ c.args ++
    [0, BitVec.ofNat 64 (2 ^ 40 + c.dst * 2 ^ 35 + c.prio % 8 * 2 ^ 32), 0, 0, 0, 0, 0, 0]

/-- The set of a pair in a hearth table (02 R78). -/
def hearthSet (asid gran : Nat) : Nat := gran % 256 ^^^ asid % 256

/-- The entry of a pair, if the table holds one. -/
def hearthFind (m : NMap Hearth) (asid gran : Nat) : Option (Nat × Hearth) :=
  m.find? (fun p => p.2.valid && decide (p.2.asid = asid) && decide (p.2.gran = gran))

/-- The granules of a read tile, each with O(g) (16 R408). -/
def tileGranules (va len : Nat) : List (Nat × Nat) :=
  let g0 := va / 2 ^ 16
  let g1 := (va + len - 1) / 2 ^ 16
  (List.range (g1 - g0 + 1)).map (fun i =>
    let g := g0 + i
    (g, min (va + len) ((g + 1) * 2 ^ 16) - max va (g * 2 ^ 16)))

/-- The score of a core for a record (16 R408). -/
def State.score (s : State) (r : Record) (k : Nat) : Nat :=
  let m := (s.cluster (clusterOf k)).hearth
  let gs := (Record.tiles r).flatMap (fun p => tileGranules p.1 p.2)
  let p := (gs.map (fun g => match hearthFind m (Record.asid r) g.1 with
    | some e => min (NMap.get 0 e.2.cores (localOf k) * 256) g.2
    | none => 0)).sum
  let l := (gs.map (fun g => match hearthFind m (Record.asid r) g.1 with
    | some e => min (e.2.slice * 128) g.2
    | none => 0)).sum
  p + l / 2

/-- The estimate E(c) of 16 R409 from the last summary that cluster `cl` holds of cluster `c`. -/
def State.estimate (s : State) (cl c : Nat) (r : Record) : Nat :=
  let sm := NMap.get [] (s.cluster cl).summaries c
  (((Record.tiles r).flatMap (fun p => tileGranules p.1 p.2)).map (fun g =>
    min (NMap.get 0 sm (hearthSet (Record.asid r) g.1) * 256) g.2)).sum

/-- The eligible cores of the dispenser of cluster `cl` (16 R407). -/
def State.eligible (s : State) (cl : Nat) (r : Record) : List Nat :=
  (clusterCores cl).filter (fun j => match (s.core j).owner with
    | some n => n % 2 ^ 16 = Record.launch r
    | none => false)

/-- A placement: the core, the KIND of its trace entry, its score and the highest other score (16 R407, 21 R440). -/
structure Placing where
  core : Nat
  kind : Nat
  best : Nat
  second : Nat

/-- The placement of a record by the dispenser of cluster `cl`, pushed by core `k` (16 R407): the highest score, then the
fewer deque entries, then the lower core index. -/
def State.placing (s : State) (cl k : Nat) (r : Record) : Placing :=
  let el := s.eligible cl r
  if Record.tiles r = [] || el = [] then ⟨k, 0, 0, 0⟩
  else
    let best := (el.map (fun j => s.score r j)).foldl max 0
    let top := el.filter (fun j => s.score r j = best)
    let few := (top.map (fun j => (s.core j).deque.length)).foldl min 64
    let least := top.filter (fun j => (s.core j).deque.length = few)
    let j := least.foldl min (least.headD k)
    ⟨j, if top.length = 1 then 1 else if least.length = 1 then 2 else 3, best,
      ((el.filter (fun i => i ≠ j)).map (fun i => s.score r i)).foldl max 0⟩

/-- The cluster a record is forwarded to with E(c), if any (16 R410). -/
def State.forwardTo (s : State) (cl : Nat) (r : Record) (best : Nat) : Option (Nat × Nat) :=
  let c := s.cluster cl
  if !c.bfwdEn || Record.tiles r = [] then none
  else
    let others := (List.range numClusters).filter (fun d => decide (d ≠ cl) && !(s.eligible d r).isEmpty)
    match others.foldl (fun b d => match b with
      | none => some (d, s.estimate cl d r)
      | some e => if s.estimate cl d r > e.2 then some (d, s.estimate cl d r) else some e) (none : Option (Nat × Nat)) with
    | some e => if e.2 > best + c.bfwdMargin.toNat * 4096 then some e else none
    | none => none

/-- The two words of a trace entry (21 R440). -/
def traceWords (cycle kind chosen pusher dest deq best next : Nat) : Word × Word :=
  (BitVec.ofNat 64 (cycle % 2 ^ 32 * 2 ^ 32 + kind * 2 ^ 28 + chosen * 2 ^ 24 + pusher * 2 ^ 20 + dest * 2 ^ 12 + min deq 255),
   BitVec.ofNat 64 (min best (2 ^ 32 - 1) * 2 ^ 32 + min next (2 ^ 32 - 1)))

/-- The dispenser's trace keeps its last 16 placements, the newest first (21 R440). -/
def State.trace (s : State) (cl : Nat) (e : Word × Word) : State :=
  s.updCluster cl (fun c => { c with trace := (e :: c.trace).take 16 })

/-- Puts a record in core `j`'s deque, or in the pool where the deque is full, or nowhere where the pool is full too
(16 R411). -/
def State.intoDeque (s : State) (j : Nat) (r : Record) : Option State :=
  let cl := clusterOf j
  if (s.core j).deque.length < 64 then
    some (s.updCore j (fun c => { c with deque := c.deque ++ [⟨r, s.cycle⟩] }))
  else if (s.cluster cl).pool.length < 512 then
    some (s.updCluster cl (fun c => { c with pool := c.pool ++ [(j, r)] }))
  else none

/-- A deque slot has freed: the oldest pooled record of the core moves in (16 R411). -/
def State.fromPool (s : State) (j : Nat) : State :=
  let cl := clusterOf j
  match (s.cluster cl).pool.find? (fun p => p.1 = j) with
  | some p =>
    if (s.core j).deque.length < 64 then
      (s.updCluster cl (fun c => { c with pool := c.pool.erase p })).updCore j
        (fun c => { c with deque := c.deque ++ [⟨p.2, s.cycle⟩] })
    else s
  | none => s

/-- Pushes a record from core `k`, or none where it must wait for a pool slot (16 R407, R410, R411). `arrived`: it came by
forwarding, so it is not forwarded again. -/
def State.push (s : State) (cl k : Nat) (r : Record) (arrived : Bool) : Option State :=
  let p := s.placing cl k r
  let s := s.tie (.bellows cl) 0
  match (if arrived then none else s.forwardTo cl r p.best) with
  | some (d, e) =>
    some ((s.updCluster d (fun c => { c with forwarded := c.forwarded ++ [⟨r, s.cycle⟩] })).trace cl
      (traceWords (s.cycle - s.dieReset) 4 0 (localOf k) d 0 e p.best))
  | none =>
    let deq := (s.core p.core).deque.length
    (s.intoDeque p.core r).map (fun s1 => s1.trace cl
      (traceWords (s.cycle - s.dieReset) (if arrived then 5 else p.kind) (localOf p.core) (if arrived then 15 else localOf k) 0 deq p.best
        p.second))

/-- Places released children until one must wait for a pool slot (07 R199, 16 R411). A child that becomes a record gives
up its bindings (13 R337). -/
def State.placeChildren (s : State) (t : Nat) : List Child → State
  | [] => s.updThread t (fun x => { x with releasing := [] })
  | c :: cs =>
    let k := coreOf t
    match s.freeCtx k with
    | some u => (s.startChild t u c).placeChildren t cs
    | none =>
      match s.push (clusterOf k) k (childRecord (s.thread t).asid (s.thread t).launch c) false with
      | some s1 => (s1.dropHandles k c.handles).placeChildren t cs
      | none => s.updThread t (fun x => { x with releasing := c :: cs })

/-- Releases the pending children of a thread (07 R198). -/
def State.releaseChildren (s : State) (t : Nat) : State :=
  let cs := (s.thread t).children
  if cs = [] then s else (s.updThread t (fun x => { x with children := [] })).placeChildren t cs

/-- The issue step of a commit point (05 R146): the drain, a new region at `pc`, the children released, the TCONS holds
ended, and the launch's progress (22 R448). -/
def State.commitPoint (s : State) (t : Nat) (pc : Word) : State :=
  let s1 := (s.drainRsb t).updThread t (fun x => { x.beginRegion pc with boundary := true })
  ((s1.releaseChildren t).dropTcons t).progress (s.thread t).launch

/-- A region abort (18 R428): RSB, children and TCONS holds are dropped, registers and CSRs restored. DESIGN CHOICE: a load
whose REPLY is still to come leaves no result; only its tag retires (log entry 71). -/
def State.abortRegion (s : State) (t : Nat) : State :=
  let k := coreOf t
  let s1 := (s.thread t).children.foldl (fun s c => s.dropHandles k c.handles) (s.dropTcons t)
  s1.updThread t (fun x =>
    let b := x.busyTags
    { x with rsb := [], children := [], inflight := none, stage := none,
             s := restoreS b x.ckpt.s, v := restoreV b x.ckpt.v, k := restoreK b x.ckpt.k,
             mc := x.ckpt.mc, srseed := x.ckpt.srseed, bsrd := x.ckpt.bsrd, bswr := x.ckpt.bswr, bsacc := x.ckpt.bsacc,
             fmtpend := x.ckpt.fmtpend, pfx := x.ckpt.pfx, pc := x.regpc, limbo := [], limboV := [] })

/-! ## The quench ladder (18 R436, 22 R448 to R450) -/

/-- Threads of launch `n` end at once as cancelled threads do, its records are removed and counted, and the launch ends with
STAT 0x5; its engine commands stop (18 R436; 16 R417). -/
def State.quenchLaunch (s : State) (n : Nat) : State :=
  let s1 : State := { s with engines := s.engines.map (fun g =>
    (g.1, { g.2 with cmds := g.2.cmds.map (fun c => if c.launch = n then { c with cancelled := true, launch := 0 } else c) })) }
  let held := (s.saved.filter (fun c => decide (c.launch = n) && c.task)).length
  let s2 := s1.updLaunch n (fun l => { l with phase := .ended, nabort := l.nabort + held })
  let s3 := ((s1.threadsOf n).foldl (fun s t => s.abortThread t) s2).updLaunch n (fun l => { l with nrun := l.nrun + s1.recordsOf n })
  let mine := fun (r : Record) => decide (Record.launch r = n % 2 ^ 16)
  let s4 : State := { s3 with
    cores := s3.cores.map (fun p => (p.1, { p.2 with deque := p.2.deque.filter (fun q => !mine q.task) }))
    clusters := s3.clusters.map (fun p => (p.1, { p.2 with pool := p.2.pool.filter (fun q => !mine q.2),
                                                           forwarded := p.2.forwarded.filter (fun q => !mine q.task) })) }
  (s4.endLaunch n 5).tie (.ended n) 0

/-- Level 2 ends contexts of a launch at once; with none left, and no record from which one would start, the launch ends with STAT
0x5, else it continues (18 R436). -/
def State.endContexts (s : State) (n : Nat) (ts : List Nat) : State :=
  let old := ((s.launch n).map (·.stat)).getD 0
  let s1 := s.updLaunch n (fun l => { l with stat := 5 })
  let s2 := ts.foldl (fun s t => s.withdraw t) s1
  let s3 := (ts.foldl (fun s t => s.abortThread t) s2).endIfOver n
  if s3.threadsOf n = [] && !s3.saved.any (fun c => c.launch = n) && s3.recordsOf n = 0 then s3
  else s3.updLaunch n (fun l => { l with stat := old })

/-- What a core keeps across a level-3 quench: its TLB, fetch blocks, L1 and CSRs (18 R436). -/
def Core.cleared (c : Core) : Core :=
  { c with tiles := [], acc0 := {}, acc1 := {}, jobs := [], meets := [], deque := [], barrel := [], readyQ := [], joined := [],
           handling := [], wanted := [] }

/-- What a cluster keeps across a level-3 quench. -/
def Cluster.cleared (c : Cluster) : Cluster :=
  { c with metas := [], expander := [], hearth := [], updates := [], ctc := [], weld := [], arrivals := [], withdrawn := [],
           mmacs := [], chans := [], scan := [], pool := [], forwarded := [], trace := [], align := none, busy := false,
           drain := false, dleft := 0, reload := true, quench := max c.quench 3 }

/-- Recovery state, in which ALARM narrows (22 R449, R456). -/
def Service.recover (v : Service) : Service := { v with state := 3, narrow := v.narrow || v.alarm }

/-- Level 3 on a cluster (18 R436, R438): its launches end, its dirty lines are written back, its stores and tables
cleared; the notice names the function and launch that brought it about, if one did. -/
def State.quenchCluster (s : State) (cl reason fn launch : Nat) : State :=
  let owners := ((clusterCores cl).filterMap (fun k => (s.core k).owner)).dedup
  let s1 := owners.foldl (fun s n => s.quenchLaunch n) s
  let mine := fun (p : Nat × Option SliceLine) => decide (homeSlice (128 * p.1) = cl)
  let leaving := (s1.slices.filter (fun p => mine p && (p.2.map (·.leaving)).getD false)).map (·.1)
  let s1' := leaving.foldl (fun s line => s.dropSlice line) s1
  let s2 : State := { s1' with slices := s1'.slices.map (fun p =>
    if mine p then (p.1, p.2.map (fun l => { l with dirty := false, stale := 0 })) else p) }
  let s3 := (clusterCores cl).foldl (fun s k =>
    ((s.updCore k Core.cleared).clearRange (locSpm k 0) (2 ^ 18)).clearRange (locLane k 0 0) (2 ^ 16)) s2
  let s4 := (s3.updCluster cl Cluster.cleared).clearRange (locCluster cl 0) (2 ^ 24)
  State.notice { s4 with service := s4.service.recover } 0x01 3 fn launch (BitVec.ofNat 64 cl)
    (BitVec.ofNat 64 reason) 0

/-- The slices lose what they hold: a dirty line goes back to what its stack has (18 R436). -/
def State.loseSlices (s : State) : State :=
  let s1 := s.slices.foldl (fun s p => match p.2 with
    | some l => if l.dirty then s.writeLine p.1 (BitVec.allOnes 128) l.stale else s
    | none => s) s
  { s1 with slices := [], dirs := [], fifo := [], rq := [], flips := [] }

/-- Level 4 (18 R436): both core dies are reset, dirty lines of slices are lost, and every launch ends, its record written by the
command processors after that loss. -/
def State.quenchDevice (s : State) (reason fn launch : Nat) : State :=
  let s1 := (s.launches.map (·.num)).foldl (fun s n => s.quenchLaunch n) s.loseSlices
  let s3 := ((s1.clearRange (2 ^ 48) (2 ^ 33)).clearRange (locIstore 0 0) (168 * 2 ^ 17))
  let s4 : State := { s3 with
    threads := [], cores := [], clusters := [], fifo := [], rq := [], dirs := [], engines := [], preempts := [],
    dieReset := s.cycle, service := { s3.service.recover with quench := 4 }
    cps := s3.cps.map (fun p => (p.1, { p.2 with shooting := false })) }
  s4.notice 0x01 4 fn launch 0xFF (BitVec.ofNat 64 reason) 0

/-! ## Ending an instruction's step -/

/-- A thread that waits for a bank of its core, or for the core, makes it wake (02 R56, R57). -/
def State.wantFor (s : State) (w : Wait) : State :=
  match w with
  | .bank b => s.updCore (coreOf s.cur) (Core.want b)
  | _ => s

/-- The outcome of an instruction's step: traps, waits and completions all leave a next state. A TSC that would trap stops,
and its cluster takes level 3 (01 R37). DESIGN CHOICE: that level's notice has reason 0 and names no function and no launch (log
entry 101). -/
def settle (s : State) (r : Except Stop State) : Host.Outcome State Fault Refusal :=
  match r with
  | .ok s1 => .next s1
  | .error (.goto s1) => .next s1
  | .error (.wait w) => .next ((s.wantFor w).stop s.cur (.waiting w))
  | .error (.trap q) =>
    if isTsc s.cur then
      let cl := clusterOf (coreOf s.cur)
      .next ((s.stopTsc cl s.me.pc).quenchCluster cl 0 0 0)
    else if s.debugger && decide (q.cause = causeDebug) then .next (s.debugStop s.cur q)
    else .next (s.trapEntry s.cur q)

end Sys2Proof.Machine
end

