-- ==== Sys2Proof/Machine/Accum.lean ====
section
/-! DEFINITION. Accumulators (13 R346, R347, R354), tile shapes (13 R338) and the cluster-memory block codec (04 R108 to
R111). -/

namespace Sys2Proof.Machine

/-- A list of bytes as a number, the first lowest (00 R7). -/
def bytesToNat : List Nat → Nat
  | [] => 0
  | b :: bs => b % 256 + 256 * bytesToNat bs

/-! ## Accumulators -/

def Core.acc (c : Core) (one : Bool) : Acc := if one then c.acc1 else c.acc0
def State.updAcc (s : State) (k : Nat) (one : Bool) (f : Acc → Acc) : State :=
  s.updCore k (fun c => if one then { c with acc1 := f c.acc1 } else { c with acc0 := f c.acc0 })

/-- Element (i, j), at index 128 i + j. -/
def Acc.elem (a : Acc) (n : Nat) : BitVec 32 := NMap.get 0 a.elems n
/-- A full row of the mask plane. -/
def fullRow : BitVec 128 := BitVec.allOnes 128
def Acc.row (a : Acc) (i : Nat) : BitVec 128 := NMap.get fullRow a.mask i
def Acc.kept (a : Acc) (i j : Nat) : Bool := (a.row i).getLsbD j

/-- An accumulator whose elements are given by a function of their index. -/
def Acc.fill (a : Acc) (f : Nat → BitVec 32) : Acc :=
  { a with elems := (List.range 8192).filterMap (fun n => if f n = 0 then none else some (n, f n)) }

/-- Every element +0 (13 R353). -/
def Acc.zeroed (a : Acc) : Acc := { a with elems := [] }
/-- Every element +0 and a full mask (13 R346). -/
def Acc.cleared (a : Acc) : Acc := { a with elems := [], mask := [], clearing := false }

/-- The effect of MSCALE (13 R354). -/
def Acc.scale (a : Acc) (rows cols : Nat → Nat) : Acc :=
  a.fill (fun n => BitVec.ofNat 32 (fpResult (((f32 (a.elem n).toNat).mul (f32 (rows (n / 128)))).mul (f32 (cols (n % 128)))) 0
    false 0).1)

/-- Whether the issuing thread can own an accumulator (13 R346). -/
def State.ownable (s : State) (one : Bool) : Except Stop Unit :=
  match ((s.core (coreOf s.cur)).acc one).owner with
  | none => .ok ()
  | some c => if c = ctxOf s.cur then .ok () else waitFor (.acc one)

/-- A thread takes an accumulator; one being cleared is clear when it is taken. -/
def State.takeAcc (s : State) (t : Nat) (one : Bool) : State :=
  s.updAcc (coreOf t) one (fun a => { (if a.clearing then a.cleared else a) with owner := some (ctxOf t) })

/-! ## Energy (13 R357) -/

/-- W(c). -/
def energyWeight (c : Nat) : Nat := 2 ^ c

/-- An energy trap where TE is set and the budget is 0; it comes after the entry's own checks (18 R424). -/
def State.energyTrap (s : State) : Except Stop Unit :=
  if s.me.ebTe && s.me.ebBudget = 0 then .error (.trap { cause := causeEnergy }) else .ok ()
/-- The issue waits while the budget is 0. -/
def State.energyWait (s : State) : Except Stop Unit := if s.me.ebBudget = 0 then waitFor .budget else .ok ()
/-- The budget is debited, and stops at 0. -/
def State.debit (s : State) (t n : Nat) : State :=
  s.updThread t (fun x => { x with ebBudget := BitVec.ofNat 32 (x.ebBudget.toNat - n) })

/-! ## Shapes (13 R338) -/

def shapeFmt (w : Word) : Nat := field w 28 24
def shapeCols (w : Word) : Nat := field w 23 12 + 1
def shapeRows (w : Word) : Nat := field w 11 0 + 1
/-- Bytes of a row of `cols` elements. -/
def rowSize (fmt cols : Nat) : Nat := if fmtBlock fmt then cols / blockElems fmt * blockBytes fmt else cols * fmtBytes fmt
def shapeSize (w : Word) : Nat := shapeRows w * rowSize (shapeFmt w) (shapeCols w)
def shapeLegal (w : Word) : Bool :=
  decide (w.toNat / 2 ^ 29 = 0) && fmtLegal (shapeFmt w) &&
    (!fmtBlock (shapeFmt w) || decide (shapeCols w % blockElems (shapeFmt w) = 0))

/-- Where a tile of core `k` at address `a` lies. -/
def tileLoc (k : Nat) (a : Word) : Nat :=
  if field a 63 60 = 8 then locSpm k (a.toNat % 2 ^ 18) else locCluster (clusterOf k) (a.toNat % 2 ^ 24)

/-- The check of 02 R69 on a tile that an instruction names as it issues. -/
def State.notShrunk (s : State) (k : Nat) (x : Tile) : Except Stop Unit :=
  let lim := (s.cluster (clusterOf k)).spw * 2 ^ 20
  let off := x.addr.toNat % 2 ^ 24
  if field x.addr 63 60 = 10 && decide (lim < off + shapeSize x.shape) then
    localFault (x.addr + BitVec.ofNat 64 (lim - off))
  else .ok ()

/-! ## The block codec (04 R108 to R111) -/

/-- The exponent fields of a block's words under a MODE: 32-bit words for 0, 16-bit for 1 (04 R110). -/
def expFields (mode : Nat) (bs : List Nat) : List Nat :=
  if mode = 0 then (List.range 128).map (fun i => bytesToNat ((bs.drop (4 * i)).take 4) / 2 ^ 23 % 256)
  else (List.range 256).map (fun i => bytesToNat ((bs.drop (2 * i)).take 2) / 2 ^ 7 % 256)

/-- The least w with `d` < 2^w. -/
def widthOf (d : Nat) : Nat := if d = 0 then 0 else Nat.log2 d + 1

/-- Base exponent and delta width of a block. -/
def expBase (es : List Nat) : Nat × Nat :=
  let lo := es.foldl min 255
  let hi := es.foldl max 0
  (lo, widthOf (hi - lo))

/-- Bytes of an EXPLANE block (04 R110). -/
def explaneBytes (mode w : Nat) : Nat := if mode = 0 then 388 + 16 * w else 260 + 32 * w
def sectorsOf (bytes : Nat) : Nat := (bytes + 15) / 16

/-- `n` little-endian bytes of a number. -/
def bytesOf : Nat → Nat → List Nat
  | 0, _ => []
  | n + 1, v => v % 256 :: bytesOf n (v / 256)

/-- The bytes of an EXPLANE block, padded to whole sectors. -/
def explane (mode : Nat) (bs : List Nat) : List Nat :=
  let es := expFields mode bs
  let (lo, w) := expBase es
  let n := es.length
  let plane := (List.range n).foldl (fun acc i => acc + (es.getD i 0 - lo) * 2 ^ (i * w)) 0
  let rest := (List.range n).flatMap (fun i =>
    if mode = 0 then
      let x := bytesToNat ((bs.drop (4 * i)).take 4)
      bytesOf 3 (x % 2 ^ 23 + x / 2 ^ 31 * 2 ^ 23)
    else
      let x := bytesToNat ((bs.drop (2 * i)).take 2)
      bytesOf 1 (x % 2 ^ 7 + x / 2 ^ 15 * 2 ^ 7))
  let body := [mode, lo, w, 0] ++ bytesOf (n * w / 8) plane ++ rest
  body ++ List.replicate (16 * sectorsOf (explaneBytes mode w) - body.length) 0

/-- The candidates of 04 R111 in the order of preference: sectors and MODE (none for RAW). -/
def candidates (bs : List Nat) : List (Nat × Option Nat) :=
  let sz := fun (mode : Nat) => sectorsOf (explaneBytes mode (expBase (expFields mode bs)).2)
  (32, none) :: ((if sz 0 ≤ 31 then [(sz 0, some 0)] else []) ++ (if sz 1 ≤ 31 then [(sz 1, some 1)] else []))

/-- The encoder of 04 R111: the metadata byte and the stored bytes of a block of 512 bytes. -/
def encodeBlock (bs : List Nat) : Nat × List Nat :=
  if bs.all (fun b => decide (b = 0)) then (0, [])
  else
    let best := (candidates bs).foldl (fun b c => if c.1 < b.1 then c else b) (33, none)
    match best.2 with
    | some mode => (128 + 32 * mode + (best.1 - 1), explane mode bs)
    | none => (64 + 31, bs)

/-- Whether a metadata byte is valid (04 R128). -/
def metaValid (m : Nat) : Bool :=
  let codec := m / 64
  let sec := m % 32
  if codec = 0 then decide (sec = 0)
  else if codec = 1 then decide (sec = 31)
  else if codec = 2 then decide (16 ≤ sec) && decide (sec ≠ 31)
  else false

/-- Sectors that a block with this metadata stores (04 R109). -/
def metaSectors (m : Nat) : Nat := if m / 64 = 0 then 0 else m % 32 + 1

/-- Whether an EXPLANE header agrees with its metadata (04 R128). DESIGN CHOICE: a byte 3 that is not 0 and a w above 8 disagree;
a base that a delta takes beyond 255 does not, and its exponent wraps (log entry 73). -/
def headerAgrees (m : Nat) (bs : List Nat) : Bool :=
  m / 64 ≠ 2 || (decide (bs.getD 0 0 = m / 32 % 2) && decide (bs.getD 2 0 ≤ 8) && decide (bs.getD 3 0 = 0) &&
    decide (sectorsOf (explaneBytes (m / 32 % 2) (bs.getD 2 0)) = metaSectors m))

/-- The 512 bytes of a stored block (04 R109, R110). -/
def decodeBlock (m : Nat) (bs : List Nat) : List Nat :=
  if m / 64 = 0 then List.replicate 512 0
  else if m / 64 = 1 then bs.take 512
  else
    let mode := m / 32 % 2
    let lo := bs.getD 1 0
    let w := bs.getD 2 0
    let n := if mode = 0 then 128 else 256
    let plane := bytesToNat ((bs.drop 4).take (n * w / 8))
    let rest := bs.drop (4 + n * w / 8)
    (List.range n).flatMap (fun i =>
      let e := (lo + plane / 2 ^ (i * w) % 2 ^ w) % 256
      if mode = 0 then
        let r := bytesToNat ((rest.drop (3 * i)).take 3)
        bytesOf 4 (r % 2 ^ 23 + e * 2 ^ 23 + r / 2 ^ 23 * 2 ^ 31)
      else
        let r := rest.getD i 0
        bytesOf 2 (r % 2 ^ 7 + e * 2 ^ 7 + r / 2 ^ 7 * 2 ^ 15))

/-! ## Accesses to cluster memory that pass no FIFO (02 R56, 04 R112 to R114, 13 R355, 16 R400; log entry 74) -/

/-- The numbers of the aligned pieces of `size` bytes that `n` bytes at offset `off` touch. -/
def spanOf8 (size off n : Nat) : List Nat :=
  if n = 0 then [] else (List.range ((off + n - 1) / size + 1 - off / size)).map (fun i => off / size + i)

/-- Whether a location lies in a scratchpad of a core, and not in cluster memory. -/
def inSpm (loc : Nat) : Bool := decide (loc < 2 ^ 48 + 2 ^ 30)
/-- The banks of core `k` that a range of its scratchpad touches. -/
def rangeBanks (k : Nat) (r : Nat × Nat) : List Nat := if inSpm r.1 then spanOf8 8192 (r.1 - locSpm k 0) r.2 else []
/-- The blocks of cluster `cl` that a range of its memory touches. -/
def rangeBlocks (cl : Nat) (r : Nat × Nat) : List Nat := if inSpm r.1 then [] else spanOf8 512 (r.1 - locCluster cl 0) r.2

/-- Whether an access to a block of cluster memory can perform at its entry now: its way is usable, the block expanded. -/
def State.blockReady (s : State) (cl blk : Nat) : Bool :=
  !s.wayBusy cl (blk / 2048) && (decide (s.expState cl blk = some .clean) || decide (s.expState cl blk = some .dirty))

/-- Whether every access of the sequencer to some ranges of core `k`'s scratchpad and its cluster's memory can perform now. -/
def State.rangesReady (s : State) (k : Nat) (rs : List (Nat × Nat)) : Bool :=
  (rs.flatMap (rangeBanks k)).all (fun b => s.coreAwake k (locSpm k (8192 * b))) &&
    (rs.flatMap (rangeBlocks (clusterOf k))).all (s.blockReady (clusterOf k))

/-- What the sequencer's accesses wait for: the banks wake. -/
def State.wantRanges (s : State) (k : Nat) (rs : List (Nat × Nat)) : State :=
  (rs.flatMap (rangeBanks k)).foldl (fun s b =>
    if s.coreAwake k (locSpm k (8192 * b)) then s else s.want k (locSpm k (8192 * b))) s

/-- The banks that some ranges touch have been accessed. -/
def State.touchRanges (s : State) (k : Nat) (rs : List (Nat × Nat)) : State :=
  (rs.flatMap (rangeBanks k)).foldl (fun s b => s.touchBank k (locSpm k (8192 * b))) s

/-- The blocks that have been accessed, and the one that the next access waits for. -/
structure BlockWalk where
  s : State
  had : List Nat
  wait : Option Nat

/-- Accesses to blocks of a cluster's memory one after another, each at its entry, but those had before; `act` is what an access
does. The first that cannot perform yet waits, its entry allocated where there is none (04 R113, R114). -/
def State.walkBlocks (s : State) (cl : Nat) (w : Bool) (act : State → Nat → State) (had : List Nat) : List Nat → BlockWalk
  | [] => ⟨s, had, none⟩
  | b :: bs =>
    if had.contains b then s.walkBlocks cl w act had bs
    else if s.blockReady cl b then
      (act (s.updCluster cl (fun c => { c with expander := expTouch c.expander b w })) b).walkBlocks cl w act (b :: had) bs
    else ⟨s.homePrepare { loc := locCluster cl (512 * b), home := .expander cl } .expanding, had, some b⟩

/-- The blocks that the step in progress of a job has accessed. -/
def Job.had (j : Job) : List Nat := if j.blocks.step = j.steps then j.blocks.had else []

/-- A job's step goes on with its accesses to `cl`'s memory: the walk, recorded in the job where the step has still to wait. -/
def State.jobWalk (s : State) (k : Nat) (j : Job) (w : Bool) (act : State → Nat → State) (blocks : List Nat) : BlockWalk :=
  s.walkBlocks (clusterOf k) w act j.had blocks
def State.jobWaits (s : State) (k : Nat) (j : Job) (r : BlockWalk) : State :=
  s.updCore k (fun c => { c with jobs := c.jobs.map (fun i => if i = j then { i with blocks := ⟨j.steps, r.had, r.wait⟩ } else i) })

/-- The part of a write of bytes `bs` at location `loc` that lies in block `blk` of a cluster's memory. -/
def State.writeInBlock (s : State) (cl loc : Nat) (bs : List Nat) (blk : Nat) : State :=
  let lo := max loc (locCluster cl (512 * blk))
  let hi := min (loc + bs.length) (locCluster cl (512 * (blk + 1)))
  s.write lo (hi - lo) (bytesToNat ((bs.drop (lo - loc)).take (hi - lo)))

/-- The sequencer's writes to a tile of core `k` in its scratchpad (13 R355); those to cluster memory perform block by block. -/
def State.writeTile (s : State) (k : Nat) (a : Word) (off : Nat) (bs : List Nat) : State :=
  let loc := tileLoc k a + off
  if field a 63 60 = 8 then (s.write loc bs.length (bytesToNat bs)).touchRanges k [(loc, bs.length)] else s

end Sys2Proof.Machine
end

