-- ==== Sys2Proof/Machine/Issue.lean ====
section
/-! DEFINITION. What comes before the issue step of every instruction (09 R266, R269; 14 R366; 18 R424; 05 R138): the
execution state, the pending prefix, spilled registers and taint; and how an instruction that accesses no memory ends. -/

namespace Sys2Proof.Machine

/-- Where an instruction may run (14 R366). -/
inductive Place14 where
  | any          -- a core's contexts and the TSC
  | core         -- a core's contexts
  | userContext  -- contexts 0 to 13
  | supervisor
  | supervisorUserContext
  | transform    -- context 15
  | tsc
  deriving DecidableEq, Repr

/-- Whether the issuing thread may run an instruction; context 14 runs no program. -/
def State.may (s : State) (p : Place14) : Bool :=
  let c := ctxOf s.cur
  if isTsc s.cur then p = .any || p = .tsc
  else if c = 14 then false
  else match p with
    | .any | .core => true
    | .userContext => decide (c ≤ 13)
    | .supervisor => s.me.sv
    | .supervisorUserContext => s.me.sv && decide (c ≤ 13)
    | .transform => decide (c = 15)
    | .tsc => false

/-- How an instruction uses the FMT prefix: the rows of 09 R266. -/
inductive Use where
  | plain | fp | vcvt | vqnt | vdqnt | vldb | dot | mma | mstore
  deriving DecidableEq, Repr

/-- The fields of a prefix (09 R245, R267). -/
structure Mode where
  fa : Nat := 0
  fb : Nat := 0
  fd : Nat := 0
  rnd : Nat := 0
  sat : Bool := false
  deriving DecidableEq, Repr

def Mode.ofPrefix (p : BitVec 25) : Mode :=
  ⟨(p.extractLsb' 0 5).toNat, (p.extractLsb' 5 5).toNat, (p.extractLsb' 10 5).toNat, (p.extractLsb' 15 3).toNat, p.getLsbD 18⟩

/-- Whether a prefix suits an instruction (09 R266). -/
def Use.accepts (u : Use) (m : Mode) : Bool :=
  let rnd := decide (m.rnd ≤ 4)
  match u with
  | .plain => false
  | .fp => decide (m.fa = 0) && decide (m.fb = 0) && decide (m.fd = 0) && rnd
  | .vcvt => fmtScalar m.fa && decide (m.fb = 0) && fmtScalar m.fd && rnd
  | .vqnt => decide (m.fa ≤ 2) && decide (m.fb = 0) && fmtBlock m.fd && rnd && !m.sat
  | .vdqnt => fmtBlock m.fa && decide (m.fb = 0) && decide (m.fd ≤ 2) && rnd
  | .vldb => fmtBlock m.fa && decide (m.fb = 0) && decide (m.fd = 0) && decide (m.rnd = 0) && !m.sat
  | .dot | .mma => pairLegal m.fa m.fb && decide (m.fd = 0) && decide (m.rnd = 0) && !m.sat
  | .mstore => decide (m.fa = 0) && decide (m.fb = 0) && fmtLegal m.fd && rnd

/-- The mode without a prefix, where the instruction has one (09 R266). -/
def Use.default : Use → Option Mode
  | .plain | .fp | .mstore => some {}
  | .mma => some { fa := 1, fb := 1 }
  | .vcvt | .vqnt | .vdqnt | .vldb | .dot => none

/-- Steps 4 and 5 of 09 R269, in their order. -/
def State.enterInstr (s : State) (p : Place14) (u : Use) : Except Stop Mode :=
  if !s.may p then illegal
  else if s.me.pfx then
    let m := Mode.ofPrefix s.me.fmtpend
    if u.accepts m then .ok m else illegal
  else match u.default with
    | some m => .ok m
    | none => illegal

/-- An operand that stays mapped for now: its last use is taken when the instruction completes. -/
def Opnd.kept : Opnd → Opnd
  | .s r _ => .s r false
  | .v r _ => .v r false
  | .k r => .k r

/-- An instruction that completes later has read its operands (07 R192). -/
def State.reads (s : State) (os : List Opnd) : State := s.consume s.cur (os.map Opnd.kept)

/-- Every source register must be in the physical file (07 R193). -/
def State.refilled (s : State) (os : List Opnd) : Except Stop Unit :=
  match spilledOf s.me os with
  | some (vec, r) => waitFor (.refill vec r (os.filterMap Opnd.reg))
  | none => .ok ()

/-- Operands that supply an address, an index or a value written wait for empty taint (05 R138, 06 R158). -/
def State.untainted (s : State) (os : List Opnd) : Except Stop Unit :=
  if taintOf s.me os = 0 then .ok () else waitFor (.taint (taintOf s.me os))

/-- The result of an instruction that accesses no memory: sources marked last-use unmapped, the result written with the
union of the sources' taint, the pc moved on (05 R139, 06 R155, 07 R190). -/
def State.putS (s : State) (os : List Opnd) (d : BitVec 5) (v : Word) (len : Nat) : State :=
  ((s.consume s.cur os).setS s.cur d.toNat v (taintOf s.me os)).retire len

/-- As `putS`, to a vector register. -/
def State.putV (s : State) (os : List Opnd) (d : BitVec 5) (v : BitVec 512) (taint : BitVec 8) (len : Nat) : State :=
  ((s.consume s.cur os).setV s.cur d.toNat v taint).retire len

/-- As `putS`, to a mask register. -/
def State.putK (s : State) (os : List Opnd) (d : BitVec 3) (v : BitVec 16) (len : Nat) : State :=
  ((s.consume s.cur os).setK s.cur d.toNat v (taintOf s.me os)).retire len

/-- The thread leaves rotation for a fixed latency above 8 cycles (07 R188); the result is already written
(log entry 9). -/
def State.longLatency (s : State) (n : Nat) : State := s.stop s.cur (.waiting (.latency (s.cycle + n)))

/-- A marked thread ends instead of executing a commit point, DONE, TASKEND or WAITW (16 R417). -/
def State.notCancelled (s : State) : Except Stop Unit :=
  if s.me.cancel then .error (.goto (s.abortThread s.cur)) else .ok ()

/-- A thread whose released children still need a place waits out of rotation for a pool slot (16 R411). -/
def State.holdPush (s : State) : State := if s.me.releasing = [] then s else s.stop s.cur (.waiting .push)

end Sys2Proof.Machine
end

