-- ==== Sys2Proof/Machine/Operands.lean ====
section
/-! DEFINITION. Operand forms: immediates, effective addresses, transfer targets, the second operand of lane operations,
the active lanes (09 R245, R246, R252, R263, R264; 11 R293). -/

namespace Sys2Proof.Machine

/-- An immediate sign-extended to 64 bits. -/
def simm {w : Nat} (i : BitVec w) : Word := i.signExtend 64

/-- The first byte of the fetch block that holds `pc`. -/
def blockBase (pc : Word) : Word := pc &&& ~~~63#64

/-- Next() of 09 R271. -/
def nextBlock (pc : Word) : Word := blockBase pc + 64

/-- Target(disp) of 09 R246, R271. -/
def target {w : Nat} (pc : Word) (disp : BitVec w) : Word := blockBase pc + simm disp * 64

/-- The effective address base + off10 x width of the M format (09 R252). -/
def effAddr (base : Word) (off : BitVec 10) (width : Nat) : Word := base + simm off * BitVec.ofNat 64 width

/-- The two operands of a register-register instruction, with their last-use bits. -/
def rrOps (m n : Bool) (b a : BitVec 5) : List Opnd := [.s a n, .s b m]

/-- The operation of a width `.w` or `.d` on the low bits of the operands, sign-extended (10 R273). -/
def bySize (z : Bool) (op : {w : Nat} → BitVec w → BitVec w → BitVec w) (x y : Word) : Word :=
  if z then op x y else (op (x.setWidth 32) (y.setWidth 32)).signExtend 64

/-- As `bySize` for one operand whose result is zero-extended. -/
def countBySize (z : Bool) (op : {w : Nat} → BitVec w → Nat) (x : Word) : Word :=
  if z then BitVec.ofNat 64 (op x) else BitVec.ofNat 64 (op (x.setWidth 32))

/-- A vector register read, or a scalar register broadcast where S is 1 (09 R263). -/
def vbOpnd (sc : Bool) (b : BitVec 5) : Opnd := if sc then .s b false else .v b false

/-- The value of lane `j` of the second operand. -/
def vbLane (x : Thread) (sc : Bool) (b : BitVec 5) (j : Nat) : BitVec 32 :=
  if sc then (x.sval b.toNat).setWidth 32 else lane (x.vval b.toNat) j

/-- Active(j) of 09 R271. -/
def active (mask : BitVec 16) (j : Nat) : Bool := mask.getLsbD j

/-- The lanes of a result: `f j` in active lanes, the destination's own in the others (11 R293). -/
def maskedLanes (mask : BitVec 16) (old : BitVec 512) (f : Nat → BitVec 32) : BitVec 512 :=
  ofLanes ((List.range 16).map (fun j => if active mask j then f j else lane old j))

end Sys2Proof.Machine
end

