-- ==== Sys2Proof/Machine/Flags.lean ====
section
/-! DEFINITION. Conditions and predicates: the device has no flags register; compares write 0 or 1 to registers and masks
(10 R276, R279, R285, R287; 11 R301). -/

namespace Sys2Proof.Machine

/-- A truth value as a register holds it. -/
def flag (b : Bool) : Word := if b then 1 else 0

def condEq {w : Nat} (x y : BitVec w) : Bool := x == y
def condNe {w : Nat} (x y : BitVec w) : Bool := x != y
def condLt {w : Nat} (x y : BitVec w) : Bool := x.slt y
def condGe {w : Nat} (x y : BitVec w) : Bool := y.sle x
def condLe {w : Nat} (x y : BitVec w) : Bool := x.sle y
def condLtu {w : Nat} (x y : BitVec w) : Bool := x.ult y
def condLeu {w : Nat} (x y : BitVec w) : Bool := x.ule y
def condGeu {w : Nat} (x y : BitVec w) : Bool := y.ule x

/-- A compare of `.w` or `.d`, written zero-extended (10 R273). -/
def cmpBySize (z : Bool) (rel : {w : Nat} → BitVec w → BitVec w → Bool) (x y : Word) : Word :=
  flag (if z then rel x y else rel (x.setWidth 32) (y.setWidth 32))

/-- The predicate of FCMP (10 R285). -/
def fcmpHolds (p : BitVec 2) (a b : Ex) : Bool :=
  if p = 0 then Ex.eq a b
  else if p = 1 then Ex.lt a b
  else if p = 2 then Ex.eq a b || Ex.lt a b
  else a.isNan || b.isNan

end Sys2Proof.Machine
end

