-- ==== Sys2Proof/Machine/Scalar.lean ====
section
/-! DEFINITION. Scalar integer, immediate, bit-field, multiply and divide instructions (10 R276 to R282). -/

namespace Sys2Proof.Machine

abbrev Outcome := Host.Outcome State Fault Refusal

/-- A scalar instruction that computes a result from registers alone. -/
def scalarOp (s : State) (os : List Opnd) (d : BitVec 5) (v : Word) : Outcome :=
  settle s (do
    let _ ← s.enterInstr .any .plain
    s.refilled os
    .ok (s.putS os d v 4))

/-- As `scalarOp`, out of rotation for `n` cycles (10 R274). -/
def scalarLongOp (s : State) (os : List Opnd) (d : BitVec 5) (v : Word) (n : Nat) : Outcome :=
  settle s (do
    let _ ← s.enterInstr .any .plain
    s.refilled os
    .ok ((s.putS os d v 4).longLatency n))

/-- The value of scalar register `r` of the issuing thread. -/
def State.x (s : State) (r : BitVec 5) : Word := s.me.sval r.toNat

def opAdd {w : Nat} (x y : BitVec w) : BitVec w := x + y
def opSub {w : Nat} (x y : BitVec w) : BitVec w := x - y
def opAnd {w : Nat} (x y : BitVec w) : BitVec w := x &&& y
def opOr {w : Nat} (x y : BitVec w) : BitVec w := x ||| y
def opXor {w : Nat} (x y : BitVec w) : BitVec w := x ^^^ y
def opAndn {w : Nat} (x y : BitVec w) : BitVec w := x &&& ~~~y
def opSll {w : Nat} (x y : BitVec w) : BitVec w := x <<< (y.toNat % w)
def opSrl {w : Nat} (x y : BitVec w) : BitVec w := x >>> (y.toNat % w)
def opSra {w : Nat} (x y : BitVec w) : BitVec w := x.sshiftRight (y.toNat % w)
def opRor {w : Nat} (x y : BitVec w) : BitVec w := x.rotateRight (y.toNat % w)
def opMin {w : Nat} (x y : BitVec w) : BitVec w := if x.slt y then x else y
def opMax {w : Nat} (x y : BitVec w) : BitVec w := if y.slt x then x else y
def opMinu {w : Nat} (x y : BitVec w) : BitVec w := if x.ult y then x else y
def opMaxu {w : Nat} (x y : BitVec w) : BitVec w := if y.ult x then x else y

/-- Leading zero bits. -/
def opClz {w : Nat} (x : BitVec w) : Nat := if x = 0 then w else w - 1 - Nat.log2 x.toNat
/-- Trailing zero bits. -/
def opCtz {w : Nat} (x : BitVec w) : Nat := (List.range w).findIdx (fun i => x.getLsbD i)
/-- One bits. -/
def opPopc {w : Nat} (x : BitVec w) : Nat := (List.range w).countP (fun i => x.getLsbD i)

def opMul {w : Nat} (x y : BitVec w) : BitVec w := x * y
def opMulh {w : Nat} (x y : BitVec w) : BitVec w := BitVec.ofInt w ((x.toInt * y.toInt) >>> w)
def opMulhu {w : Nat} (x y : BitVec w) : BitVec w := BitVec.ofNat w ((x.toNat * y.toNat) >>> w)
def opMulhsu {w : Nat} (x y : BitVec w) : BitVec w := BitVec.ofInt w ((x.toInt * (y.toNat : Int)) >>> w)
def opDiv {w : Nat} (x y : BitVec w) : BitVec w := if y = 0 then BitVec.allOnes w else x.sdiv y
def opDivu {w : Nat} (x y : BitVec w) : BitVec w := if y = 0 then BitVec.allOnes w else x / y
def opRem {w : Nat} (x y : BitVec w) : BitVec w := if y = 0 then x else x.srem y
def opRemu {w : Nat} (x y : BitVec w) : BitVec w := if y = 0 then x else x % y

/-- ADD (10 R276). -/
def execAdd (z m n : Bool) (b a d : BitVec 5) (s : State) : Outcome :=
  scalarOp s (rrOps m n b a) d (bySize z opAdd (s.x a) (s.x b))

/-- SUB (10 R276). -/
def execSub (z m n : Bool) (b a d : BitVec 5) (s : State) : Outcome :=
  scalarOp s (rrOps m n b a) d (bySize z opSub (s.x a) (s.x b))

/-- AND (10 R276). -/
def execAnd (z m n : Bool) (b a d : BitVec 5) (s : State) : Outcome :=
  scalarOp s (rrOps m n b a) d (bySize z opAnd (s.x a) (s.x b))

/-- OR (10 R276). -/
def execOr (z m n : Bool) (b a d : BitVec 5) (s : State) : Outcome :=
  scalarOp s (rrOps m n b a) d (bySize z opOr (s.x a) (s.x b))

/-- XOR (10 R276). -/
def execXor (z m n : Bool) (b a d : BitVec 5) (s : State) : Outcome :=
  scalarOp s (rrOps m n b a) d (bySize z opXor (s.x a) (s.x b))

/-- ANDN (10 R276). -/
def execAndn (z m n : Bool) (b a d : BitVec 5) (s : State) : Outcome :=
  scalarOp s (rrOps m n b a) d (bySize z opAndn (s.x a) (s.x b))

/-- SLL (10 R276). -/
def execSll (z m n : Bool) (b a d : BitVec 5) (s : State) : Outcome :=
  scalarOp s (rrOps m n b a) d (bySize z opSll (s.x a) (s.x b))

/-- SRL (10 R276). -/
def execSrl (z m n : Bool) (b a d : BitVec 5) (s : State) : Outcome :=
  scalarOp s (rrOps m n b a) d (bySize z opSrl (s.x a) (s.x b))

/-- SRA (10 R276). -/
def execSra (z m n : Bool) (b a d : BitVec 5) (s : State) : Outcome :=
  scalarOp s (rrOps m n b a) d (bySize z opSra (s.x a) (s.x b))

/-- ROR (10 R276). -/
def execRor (z m n : Bool) (b a d : BitVec 5) (s : State) : Outcome :=
  scalarOp s (rrOps m n b a) d (bySize z opRor (s.x a) (s.x b))

/-- MIN (10 R276). -/
def execMin (z m n : Bool) (b a d : BitVec 5) (s : State) : Outcome :=
  scalarOp s (rrOps m n b a) d (bySize z opMin (s.x a) (s.x b))

/-- MAX (10 R276). -/
def execMax (z m n : Bool) (b a d : BitVec 5) (s : State) : Outcome :=
  scalarOp s (rrOps m n b a) d (bySize z opMax (s.x a) (s.x b))

/-- MINU (10 R276). -/
def execMinu (z m n : Bool) (b a d : BitVec 5) (s : State) : Outcome :=
  scalarOp s (rrOps m n b a) d (bySize z opMinu (s.x a) (s.x b))

/-- MAXU (10 R276). -/
def execMaxu (z m n : Bool) (b a d : BitVec 5) (s : State) : Outcome :=
  scalarOp s (rrOps m n b a) d (bySize z opMaxu (s.x a) (s.x b))

/-- SLT (10 R276). -/
def execSlt (z m n : Bool) (b a d : BitVec 5) (s : State) : Outcome :=
  scalarOp s (rrOps m n b a) d (cmpBySize z condLt (s.x a) (s.x b))

/-- SLTU (10 R276). -/
def execSltu (z m n : Bool) (b a d : BitVec 5) (s : State) : Outcome :=
  scalarOp s (rrOps m n b a) d (cmpBySize z condLtu (s.x a) (s.x b))

/-- SEQ (10 R276). -/
def execSeq (z m n : Bool) (b a d : BitVec 5) (s : State) : Outcome :=
  scalarOp s (rrOps m n b a) d (cmpBySize z condEq (s.x a) (s.x b))

/-- SNE (10 R276). -/
def execSne (z m n : Bool) (b a d : BitVec 5) (s : State) : Outcome :=
  scalarOp s (rrOps m n b a) d (cmpBySize z condNe (s.x a) (s.x b))

/-- CMOVZ (10 R276): d is read and always written. -/
def execCmovz (m n : Bool) (b a d : BitVec 5) (s : State) : Outcome :=
  scalarOp s (rrOps m n b a ++ [.s d false]) d (if s.x b = 0 then s.x a else s.x d)

/-- CMOVNZ (10 R276): d is read and always written. -/
def execCmovnz (m n : Bool) (b a d : BitVec 5) (s : State) : Outcome :=
  scalarOp s (rrOps m n b a ++ [.s d false]) d (if s.x b ≠ 0 then s.x a else s.x d)

/-- CLZ (10 R276). -/
def execClz (z n : Bool) (a d : BitVec 5) (s : State) : Outcome :=
  scalarOp s [.s a n] d (countBySize z opClz (s.x a))

/-- CTZ (10 R276). -/
def execCtz (z n : Bool) (a d : BitVec 5) (s : State) : Outcome :=
  scalarOp s [.s a n] d (countBySize z opCtz (s.x a))

/-- POPC (10 R276). -/
def execPopc (z n : Bool) (a d : BitVec 5) (s : State) : Outcome :=
  scalarOp s [.s a n] d (countBySize z opPopc (s.x a))

/-- MUL (10 R282). -/
def execMul (z m n : Bool) (b a d : BitVec 5) (s : State) : Outcome :=
  scalarOp s (rrOps m n b a) d (bySize z opMul (s.x a) (s.x b))

/-- MULH (10 R282). -/
def execMulh (z m n : Bool) (b a d : BitVec 5) (s : State) : Outcome :=
  scalarOp s (rrOps m n b a) d (bySize z opMulh (s.x a) (s.x b))

/-- MULHU (10 R282). -/
def execMulhu (z m n : Bool) (b a d : BitVec 5) (s : State) : Outcome :=
  scalarOp s (rrOps m n b a) d (bySize z opMulhu (s.x a) (s.x b))

/-- MULHSU (10 R282). -/
def execMulhsu (z m n : Bool) (b a d : BitVec 5) (s : State) : Outcome :=
  scalarOp s (rrOps m n b a) d (bySize z opMulhsu (s.x a) (s.x b))

/-- Cycles a division keeps its thread out of rotation (10 R274). -/
def divCycles (z : Bool) : Nat := if z then 28 else 16

/-- DIV (10 R282). -/
def execDiv (z m n : Bool) (b a d : BitVec 5) (s : State) : Outcome :=
  scalarLongOp s (rrOps m n b a) d (bySize z opDiv (s.x a) (s.x b)) (divCycles z)

/-- DIVU (10 R282). -/
def execDivu (z m n : Bool) (b a d : BitVec 5) (s : State) : Outcome :=
  scalarLongOp s (rrOps m n b a) d (bySize z opDivu (s.x a) (s.x b)) (divCycles z)

/-- REM (10 R282). -/
def execRem (z m n : Bool) (b a d : BitVec 5) (s : State) : Outcome :=
  scalarLongOp s (rrOps m n b a) d (bySize z opRem (s.x a) (s.x b)) (divCycles z)

/-- REMU (10 R282). -/
def execRemu (z m n : Bool) (b a d : BitVec 5) (s : State) : Outcome :=
  scalarLongOp s (rrOps m n b a) d (bySize z opRemu (s.x a) (s.x b)) (divCycles z)

/-- ADDI (10 R277). -/
def execAddi (i : BitVec 14) (n : Bool) (a d : BitVec 5) (s : State) : Outcome :=
  scalarOp s [.s a n] d (s.x a + simm i)

/-- ANDI (10 R277). -/
def execAndi (i : BitVec 14) (n : Bool) (a d : BitVec 5) (s : State) : Outcome :=
  scalarOp s [.s a n] d (s.x a &&& simm i)

/-- ORI (10 R277). -/
def execOri (i : BitVec 14) (n : Bool) (a d : BitVec 5) (s : State) : Outcome :=
  scalarOp s [.s a n] d (s.x a ||| simm i)

/-- XORI (10 R277). -/
def execXori (i : BitVec 14) (n : Bool) (a d : BitVec 5) (s : State) : Outcome :=
  scalarOp s [.s a n] d (s.x a ^^^ simm i)

/-- SLLI (10 R278). -/
def execSlli (z : Bool) (c : BitVec 6) (n : Bool) (a d : BitVec 5) (s : State) : Outcome :=
  scalarOp s [.s a n] d (bySize z opSll (s.x a) (c.setWidth 64))

/-- SRLI (10 R278). -/
def execSrli (z : Bool) (c : BitVec 6) (n : Bool) (a d : BitVec 5) (s : State) : Outcome :=
  scalarOp s [.s a n] d (bySize z opSrl (s.x a) (c.setWidth 64))

/-- SRAI (10 R278). -/
def execSrai (z : Bool) (c : BitVec 6) (n : Bool) (a d : BitVec 5) (s : State) : Outcome :=
  scalarOp s [.s a n] d (bySize z opSra (s.x a) (c.setWidth 64))

/-- RORI (10 R278). -/
def execRori (z : Bool) (c : BitVec 6) (n : Bool) (a d : BitVec 5) (s : State) : Outcome :=
  scalarOp s [.s a n] d (bySize z opRor (s.x a) (c.setWidth 64))

/-- SEQI (10 R279). -/
def execSeqi (i : BitVec 12) (n : Bool) (a d : BitVec 5) (s : State) : Outcome :=
  scalarOp s [.s a n] d (flag (condEq (s.x a) (simm i)))

/-- SNEI (10 R279). -/
def execSnei (i : BitVec 12) (n : Bool) (a d : BitVec 5) (s : State) : Outcome :=
  scalarOp s [.s a n] d (flag (condNe (s.x a) (simm i)))

/-- SLTI (10 R279). -/
def execSlti (i : BitVec 12) (n : Bool) (a d : BitVec 5) (s : State) : Outcome :=
  scalarOp s [.s a n] d (flag (condLt (s.x a) (simm i)))

/-- SLTIU (10 R279). -/
def execSltiu (i : BitVec 12) (n : Bool) (a d : BitVec 5) (s : State) : Outcome :=
  scalarOp s [.s a n] d (flag (condLtu (s.x a) (simm i)))

/-- LUI (10 R280). -/
def execLui (i : BitVec 20) (d : BitVec 5) (s : State) : Outcome := scalarOp s [] d (simm i * 2 ^ 14)

/-- LEAPC (10 R280). -/
def execLeapc (i : BitVec 20) (d : BitVec 5) (s : State) : Outcome := scalarOp s [] d (target s.me.pc i)

/-- The field of `len` bits at `pos` (10 R281). -/
def bitFieldOf (x : Word) (pos len : Nat) : Word := (x >>> pos) &&& BitVec.ofNat 64 (2 ^ len - 1)

/-- BFXU (10 R281); the field l holds len - 1. -/
def execBfxu (l p : BitVec 6) (n : Bool) (a d : BitVec 5) (s : State) : Outcome :=
  scalarOp s [.s a n] d (bitFieldOf (s.x a) p.toNat (l.toNat + 1))

/-- BFX (10 R281). -/
def execBfx (l p : BitVec 6) (n : Bool) (a d : BitVec 5) (s : State) : Outcome :=
  scalarOp s [.s a n] d ((bitFieldOf (s.x a) p.toNat (l.toNat + 1) <<< (63 - l.toNat)).sshiftRight (63 - l.toNat))

/-- BFI (10 R281): d is read. -/
def execBfi (l p : BitVec 6) (n : Bool) (a d : BitVec 5) (s : State) : Outcome :=
  let mask : Word := BitVec.ofNat 64 (2 ^ (l.toNat + 1) - 1) <<< p.toNat
  scalarOp s [.s a n, .s d false] d ((s.x d &&& ~~~mask) ||| ((s.x a <<< p.toNat) &&& mask))

end Sys2Proof.Machine
end

