-- ==== Sys2Proof/Machine/Control.lean ====
section
/-! DEFINITION. Control transfer (10 R287 to R291). -/

namespace Sys2Proof.Machine

/-- Whether a PC lies where code may stand: space 0x0, or the TSC's store (01 R10, R36). -/
def codeAddress (t : Nat) (pc : Word) : Bool :=
  if isTsc t then decide (pc.toNat < 2 ^ 17) else decide (pc.toNat < 2 ^ 52)

/-- A taken transfer (10 R290): the target's checks, the link, the new pc. Code lies in space 0x0, a TSC's in its instruction store (01 R36). -/
def State.transfer (s : State) (os : List Opnd) (t : Word) (link : BitVec 5) : Except Stop State :=
  if !codeAddress s.cur t then localFault t
  else if t.toNat % 64 ≠ 0 then alignTrap t
  else .ok (((s.consume s.cur os).setS s.cur link.toNat (nextBlock s.me.pc) 0).retireTo t)

/-- A conditional branch (10 R287): a branch not taken checks nothing. -/
def branch (s : State) (i : BitVec 12) (b a : BitVec 5) (taken : Bool) : Outcome :=
  settle s (do
    let _ ← s.enterInstr .any .plain
    s.refilled [.s a false, .s b false]
    if taken then s.transfer [.s a false, .s b false] (target s.me.pc i) 0
    else .ok ((s.consume s.cur [.s a false, .s b false]).retire 4))

/-- BEQ (10 R287). -/
def execBeq (i : BitVec 12) (b a : BitVec 5) (s : State) : Outcome := branch s i b a (condEq (s.x a) (s.x b))

/-- BNE (10 R287). -/
def execBne (i : BitVec 12) (b a : BitVec 5) (s : State) : Outcome := branch s i b a (condNe (s.x a) (s.x b))

/-- BLT (10 R287). -/
def execBlt (i : BitVec 12) (b a : BitVec 5) (s : State) : Outcome := branch s i b a (condLt (s.x a) (s.x b))

/-- BGE (10 R287). -/
def execBge (i : BitVec 12) (b a : BitVec 5) (s : State) : Outcome := branch s i b a (condGe (s.x a) (s.x b))

/-- BLTU (10 R287). -/
def execBltu (i : BitVec 12) (b a : BitVec 5) (s : State) : Outcome := branch s i b a (condLtu (s.x a) (s.x b))

/-- BGEU (10 R287). -/
def execBgeu (i : BitVec 12) (b a : BitVec 5) (s : State) : Outcome := branch s i b a (condGeu (s.x a) (s.x b))

/-- A jump to a target formed from `os` (10 R288, R289); `link` 0 writes no register. -/
def jump (s : State) (os : List Opnd) (t : Word) (link : BitVec 5) : Outcome :=
  settle s (do
    let _ ← s.enterInstr .any .plain
    s.refilled os
    s.transfer os t link)

/-- J (10 R288). -/
def execJ (i : BitVec 20) (s : State) : Outcome := jump s [] (target s.me.pc i) 0

/-- CALL (10 R288). -/
def execCall (i : BitVec 20) (l : BitVec 5) (s : State) : Outcome := jump s [] (target s.me.pc i) l

/-- JR (10 R289). -/
def execJr (i : BitVec 14) (n : Bool) (a : BitVec 5) (s : State) : Outcome := jump s [.s a n] (s.x a + simm i * 64) 0

/-- CALLR (10 R289). -/
def execCallr (i : BitVec 14) (n : Bool) (a d : BitVec 5) (s : State) : Outcome :=
  jump s [.s a n] (s.x a + simm i * 64) d

end Sys2Proof.Machine
end

