-- ==== Sys2Proof/WellFormed.lean ====
section
/-! DEFINITION. Which operand values an encoding admits: the reserved values of 09 R246 and of the code tables. -/

namespace Sys2Proof

/-- A field that names a tile handle holds 0 to 15 (09 R246). -/
def hnd (t : BitVec 5) : Bool := decide (t.toNat < 16)

/-- An immediate shift count is below 32 for `.w` (09 R249). -/
def shiftCount (z : Bool) (c : BitVec 6) : Bool := z || decide (c.toNat < 32)

/-- A bit field ends within the register: pos + len is at most 64, the field holding len - 1 (09 R245, R249). -/
def bitField (l p : BitVec 6) : Bool := decide (p.toNat + l.toNat + 1 ≤ 64)

/-- LDM and STM do not pass s31 (09 R252). -/
def runOf (c : BitVec 3) (d : BitVec 5) : Bool := decide (d.toNat + c.toNat ≤ 31)

/-- HRQ writes four registers from 1 to 28 on (09 R256, 14 R375). -/
def hrqRun (p : BitVec 5) : Bool := decide (1 ≤ p.toNat) && decide (p.toNat ≤ 28)

/-- A bit-stream count is 1 to 64 (09 R260). -/
def streamCount (c : BitVec 7) : Bool := decide (1 ≤ c.toNat) && decide (c.toNat ≤ 64)

/-- BSALIGN aligns to 8, 16, 32 or 64 bits (09 R260). -/
def alignCount (c : BitVec 7) : Bool := decide (c = 8) || decide (c = 16) || decide (c = 32) || decide (c = 64)

/-- TLBI names a local core number only for a core target (09 R262). -/
def tlbiTarget (t : Bool) (d : BitVec 5) : Bool := if t then decide (d.toNat < 16) else decide (d = 0)

/-- The CSR numbers of 14 R380. -/
def csrListed (c : BitVec 12) : Bool :=
  let n := c.toNat
  decide (n ≤ 0x12) || (decide (0x20 ≤ n) && decide (n ≤ 0x24)) || (decide (0x100 ≤ n) && decide (n ≤ 0x105)) ||
    decide (n = 0x200) || decide (n = 0x201) || (decide (0x300 ≤ n) && decide (n ≤ 0x306)) ||
    (decide (0x400 ≤ n) && decide (n ≤ 0x45F)) || (decide (0x500 ≤ n) && decide (n ≤ 0x7FF))

/-- Whether every operand holds a value its encoding admits; a step that is no instruction has no encoding. The
halfword 0x0000 is NOP and no VMOV (09 R243), and J and JR are not CALL and CALLR with register 0 (10 R289). DESIGN CHOICE: the
assembler therefore refuses `call s0` and `callr s0` with E4 (log entry 63). -/
def Instr.wf : Instr → Bool
  | .add _ _ _ _ _ _ => true
  | .sub _ _ _ _ _ _ => true
  | .and _ _ _ _ _ _ => true
  | .or _ _ _ _ _ _ => true
  | .xor _ _ _ _ _ _ => true
  | .andn _ _ _ _ _ _ => true
  | .sll _ _ _ _ _ _ => true
  | .srl _ _ _ _ _ _ => true
  | .sra _ _ _ _ _ _ => true
  | .ror _ _ _ _ _ _ => true
  | .min _ _ _ _ _ _ => true
  | .max _ _ _ _ _ _ => true
  | .minu _ _ _ _ _ _ => true
  | .maxu _ _ _ _ _ _ => true
  | .slt _ _ _ _ _ _ => true
  | .sltu _ _ _ _ _ _ => true
  | .seq _ _ _ _ _ _ => true
  | .sne _ _ _ _ _ _ => true
  | .cmovz _ _ _ _ _ => true
  | .cmovnz _ _ _ _ _ => true
  | .clz _ _ _ _ => true
  | .ctz _ _ _ _ => true
  | .popc _ _ _ _ => true
  | .mul _ _ _ _ _ _ => true
  | .mulh _ _ _ _ _ _ => true
  | .mulhu _ _ _ _ _ _ => true
  | .mulhsu _ _ _ _ _ _ => true
  | .div _ _ _ _ _ _ => true
  | .divu _ _ _ _ _ _ => true
  | .rem _ _ _ _ _ _ => true
  | .remu _ _ _ _ _ _ => true
  | .addi _ _ _ _ => true
  | .andi _ _ _ _ => true
  | .ori _ _ _ _ => true
  | .xori _ _ _ _ => true
  | .slli z c _ _ _ => shiftCount z c
  | .srli z c _ _ _ => shiftCount z c
  | .srai z c _ _ _ => shiftCount z c
  | .rori z c _ _ _ => shiftCount z c
  | .seqi _ _ _ _ => true
  | .snei _ _ _ _ => true
  | .slti _ _ _ _ => true
  | .sltiu _ _ _ _ => true
  | .lui _ _ => true
  | .leapc _ _ => true
  | .bfxu l p _ _ _ => bitField l p
  | .bfx l p _ _ _ => bitField l p
  | .bfi l p _ _ _ => bitField l p
  | .fadd _ _ _ _ _ => true
  | .fsub _ _ _ _ _ => true
  | .fmul _ _ _ _ _ => true
  | .fma _ _ _ _ _ => true
  | .fdiv _ _ _ _ _ => true
  | .fcmp _ _ _ _ _ => true
  | .fcvtif _ _ _ => true
  | .fcvtfi _ _ _ => true
  | .beq _ _ _ => true
  | .bne _ _ _ => true
  | .blt _ _ _ => true
  | .bge _ _ _ => true
  | .bltu _ _ _ => true
  | .bgeu _ _ _ => true
  | .j _ => true
  | .call _ l => decide (l ≠ 0)
  | .jr _ _ _ => true
  | .callr _ _ _ d => decide (d ≠ 0)
  | .lb _ _ _ _ => true
  | .lh _ _ _ _ => true
  | .lw _ _ _ _ => true
  | .ld _ _ _ _ => true
  | .lbu _ _ _ _ => true
  | .lhu _ _ _ _ => true
  | .lwu _ _ _ _ => true
  | .sb _ _ _ _ _ => true
  | .sh _ _ _ _ _ => true
  | .sw _ _ _ _ _ => true
  | .sd _ _ _ _ _ => true
  | .ldm _ c _ _ d => runOf c d
  | .stm _ c _ _ d => runOf c d
  | .aadd _ _ _ _ _ _ => true
  | .afadd _ _ _ _ _ _ => true
  | .amin _ _ _ _ _ _ => true
  | .amax _ _ _ _ _ _ => true
  | .aminu _ _ _ _ _ _ => true
  | .amaxu _ _ _ _ _ _ => true
  | .aand _ _ _ _ _ _ => true
  | .aor _ _ _ _ _ _ => true
  | .axor _ _ _ _ _ _ => true
  | .aswap _ _ _ _ _ _ => true
  | .acas _ _ _ _ _ _ => true
  | .fence _ _ => true
  | .tclr _ _ => true
  | .tjoin _ _ _ _ _ => true
  | .twait _ _ _ => true
  | .bar _ _ => true
  | .baradd _ _ _ _ _ _ => true
  | .barfadd _ _ _ _ _ => true
  | .chsend _ _ _ _ => true
  | .chrecv _ _ _ => true
  | .amld z _ _ _ => (z != 7)
  | .amst _ _ _ _ _ => true
  | .amopAadd _ _ _ _ _ _ => true
  | .amopAfadd _ _ _ _ _ _ => true
  | .amopAmin _ _ _ _ _ _ => true
  | .amopAmax _ _ _ _ _ _ => true
  | .amopAminu _ _ _ _ _ _ => true
  | .amopAmaxu _ _ _ _ _ _ => true
  | .amopAand _ _ _ _ _ _ => true
  | .amopAor _ _ _ _ _ _ => true
  | .amopAxor _ _ _ _ _ _ => true
  | .amopAswap _ _ _ _ _ _ => true
  | .amopAcas _ _ _ _ _ _ => true
  | .fork _ => true
  | .meet _ _ => true
  | .meetC _ _ _ => true
  | .done => true
  | .align => true
  | .yield => true
  | .spawn _ => true
  | .waitw => true
  | .taskend => true
  | .commit => true
  | .hrq _ p => hrqRun p
  | .hrqSw _ p => hrqRun p
  | .tdef _ _ d => hnd d
  | .trel d => hnd d
  | .tstat a _ => hnd a
  | .twaitr d => hnd d
  | .tfill _ d => hnd d
  | .tcons d => hnd d
  | .mma _ _ _ b a => hnd a && hnd b
  | .mmac _ _ _ b a _ => hnd a && hnd b
  | .mzero _ _ => true
  | .mstore _ _ a => hnd a
  | .mmask _ _ a => hnd a
  | .mscale _ _ _ _ => true
  | .cpy _ _ => true
  | .cpyw _ _ => true
  | .cpyq _ _ _ => true
  | .cpyc _ _ => true
  | .bstake c _ => streamCount c
  | .bspeek c _ => streamCount c
  | .bsemit c _ _ => streamCount c
  | .bsskip c => streamCount c
  | .bsalign c => alignCount c
  | .csrr c _ => csrListed c
  | .csrw c _ _ _ => csrListed c
  | .csrs c _ _ _ => csrListed c
  | .csrc c _ _ _ => csrListed c
  | .trap _ => true
  | .eret => true
  | .halt => true
  | .dbg _ => true
  | .tlbw _ _ _ _ => true
  | .tlbi t s _ _ d => (s != 3) && tlbiTarget t d
  | .cwb _ _ => true
  | .cinv _ _ => true
  | .fmt _ _ _ _ _ => true
  | .vmov _ _ _ _ => true
  | .vadd _ _ _ _ _ _ => true
  | .vsub _ _ _ _ _ _ => true
  | .vmul _ _ _ _ _ _ => true
  | .vand _ _ _ _ _ _ => true
  | .vor _ _ _ _ _ _ => true
  | .vxor _ _ _ _ _ _ => true
  | .vshl _ _ _ _ _ _ => true
  | .vshr _ _ _ _ _ _ => true
  | .vmin _ _ _ _ _ _ => true
  | .vmax _ _ _ _ _ _ => true
  | .vsra _ _ _ _ _ _ => true
  | .vminu _ _ _ _ _ _ => true
  | .vmaxu _ _ _ _ _ _ => true
  | .vmulhu _ _ _ _ _ _ => true
  | .vmadd _ _ _ _ _ _ => true
  | .vmovI _ _ _ => true
  | .vaddI _ _ _ _ _ => true
  | .vsubI _ _ _ _ _ => true
  | .vmulI _ _ _ _ _ => true
  | .vandI _ _ _ _ _ => true
  | .vorI _ _ _ _ _ => true
  | .vxorI _ _ _ _ _ => true
  | .vshlI _ _ _ _ _ => true
  | .vshrI _ _ _ _ _ => true
  | .vminI _ _ _ _ _ => true
  | .vmaxI _ _ _ _ _ => true
  | .vsraI _ _ _ _ _ => true
  | .vminuI _ _ _ _ _ => true
  | .vmaxuI _ _ _ _ _ => true
  | .vfadd _ _ _ _ _ _ => true
  | .vfsub _ _ _ _ _ _ => true
  | .vfmul _ _ _ _ _ _ => true
  | .vfmin _ _ _ _ _ _ => true
  | .vfmax _ _ _ _ _ _ => true
  | .vfma _ _ _ _ _ _ => true
  | .vfdiv _ _ _ _ _ _ => true
  | .vfsqrt _ _ _ _ => true
  | .vfabs _ _ _ _ => true
  | .vfneg _ _ _ _ => true
  | .vceq _ _ _ _ _ d => (d != 0)
  | .vcne _ _ _ _ _ d => (d != 0)
  | .vclt _ _ _ _ _ d => (d != 0)
  | .vcle _ _ _ _ _ d => (d != 0)
  | .vcltu _ _ _ _ _ d => (d != 0)
  | .vcleu _ _ _ _ _ d => (d != 0)
  | .vfceq _ _ _ _ _ d => (d != 0)
  | .vfclt _ _ _ _ _ d => (d != 0)
  | .vfcle _ _ _ _ _ d => (d != 0)
  | .vcvt _ _ _ _ => true
  | .vcvtif _ _ _ _ => true
  | .vcvtuf _ _ _ _ => true
  | .vcvtfi _ _ _ _ => true
  | .vcvtfu _ _ _ _ => true
  | .vperm _ _ _ _ _ _ => true
  | .vslideup _ _ _ _ _ _ => true
  | .vslidedn _ _ _ _ _ _ => true
  | .vziplo _ _ _ _ _ _ => true
  | .vziphi _ _ _ _ _ _ => true
  | .vcompress _ _ _ _ => true
  | .vexpand _ _ _ _ => true
  | .vextr _ _ _ _ => true
  | .vradd _ _ _ _ => true
  | .vrmin _ _ _ _ => true
  | .vrmax _ _ _ _ => true
  | .vrand _ _ _ _ => true
  | .vror _ _ _ _ => true
  | .vrxor _ _ _ _ => true
  | .vrfadd _ _ _ _ => true
  | .vrfmax _ _ _ _ => true
  | .kand _ _ _ d => (d != 0)
  | .kor _ _ _ d => (d != 0)
  | .kxor _ _ _ d => (d != 0)
  | .kandn _ _ _ d => (d != 0)
  | .knot _ _ d => (d != 0)
  | .kmov _ _ d => (d != 0)
  | .kread _ _ _ => true
  | .kpopc _ _ _ => true
  | .kffs _ _ _ => true
  | .vqnt _ _ _ => true
  | .vdqnt _ _ _ => true
  | .vdot _ _ _ _ => true
  | .vhist _ _ _ _ => true
  | .vld e _ _ _ => (e != 3)
  | .vlds e _ _ _ _ => (e != 3)
  | .vldbc e _ _ _ => (e != 3)
  | .vldb _ _ => true
  | .vst e _ _ _ => (e != 3)
  | .vsts e _ _ _ _ => (e != 3)
  | .vgather e _ _ _ _ => (e != 3)
  | .vscatter e _ _ _ _ => (e != 3)
  | .nop => true
  | .vmov16 m b d => !(!m && decide (b = 0) && decide (d = 0))
  | .vadd16 _ _ _ => true
  | .vsub16 _ _ _ => true
  | .vmul16 _ _ _ => true
  | .vand16 _ _ _ => true
  | .vor16 _ _ _ => true
  | .vxor16 _ _ _ => true
  | .vshl16 _ _ _ => true
  | .vshr16 _ _ _ => true
  | .vmin16 _ _ _ => true
  | .vmax16 _ _ _ => true
  | .vfadd16 _ _ _ => true
  | .vfsub16 _ _ _ => true
  | .vfmul16 _ _ _ => true
  | .vfmin16 _ _ _ => true
  | .vfmax16 _ _ _ => true
  | .longLatencyResult _ => true
  | .barrierArrival _ => true
  | .activeMessage _ _ => true
  | .meetRegistration _ => true
  | .meetDeadline _ _ _ => true
  | .quiescenceRelease _ => true
  | .alignTimeout _ => true
  | .forwardedRecordArrival _ => true
  | .taskDispatch _ => true
  | .taskStartFreeContext _ => true
  | .taskSteal _ => true
  | .tileOperandsConsumed _ _ => true
  | .mmaStep _ => true
  | .mstoreFillStep _ => true
  | .accumulatorClear _ _ => true
  | .engineCommandStart _ => true
  | .engineChunkStart _ => true
  | .engineFinalStatus _ _ => true
  | .engineReply _ _ => true
  | .engineAck _ _ => true
  | .engineSettle _ _ => true
  | .registerWrite _ _ => true
  | .mcWrite _ _ => true
  | .lgrantWrite _ _ => true
  | .srseedWrite _ _ => true
  | .xfringWrite _ _ => true
  | .xfheadWrite _ _ => true
  | .xfclaimRead _ _ => true
  | .transformWake _ => true
  | .clpartWrite _ _ => true
  | .clpartLeavingLine _ => true
  | .clpartShrinkComplete _ => true
  | .hclrGo _ _ => true
  | .hclrComplete _ => true
  | .hearthUpdate _ => true
  | .hearthSummaryBroadcast _ => true
  | .hearthSummaryApply _ _ => true
  | .tlbiCompletion _ => true
  | .cwbWritebackDone _ => true
  | .registerRefill _ => true
  | .performLoad _ _ => true
  | .performStore _ _ => true
  | .performAtomic _ _ => true
  | .recall _ => true
  | .l1Eviction _ _ => true
  | .processReply _ _ => true
  | .processAck _ _ => true
  | .processAtomicReply _ _ => true
  | .processInv _ _ => true
  | .processSettle _ _ => true
  | .bankDrowsy _ _ => true
  | .bankWake _ _ => true
  | .coreGate _ => true
  | .coreWake _ => true
  | .expanderExpandComplete _ _ _ => true
  | .expanderCompressComplete _ _ => true
  | .tscMessageArrival _ => true
  | .tlbWriteback _ => true
  | .tscMsgRead _ => true
  | .tinboxPop _ => true
  | .tinboxDefer _ => true
  | .tfpost _ _ => true
  | .tfattach _ _ => true
  | .faultAnswerRetry _ _ _ => true
  | .faultAnswerKill _ _ _ => true
  | .faultAnswerTimeout _ _ => true
  | .fetchBlockDelivery _ _ _ => true
  | .ebudgetRefill => true
  | .channelDeadlockScan _ => true
  | .qtailWrite _ _ _ => true
  | .qcfgWrite _ _ _ => true
  | .nopEntry _ _ => true
  | .launchEntry _ _ => true
  | .grun _ _ => true
  | .gpatch _ _ => true
  | .cancelEntry _ _ => true
  | .gfree _ _ => true
  | .reservedEntry _ _ => true
  | .graphNodeAccept _ _ _ => true
  | .cancelArrival _ _ => true
  | .allocatorPass => true
  | .launchStart _ => true
  | .usageAccounting => true
  | .preemptContext _ _ => true
  | .preemptCore _ _ => true
  | .preemptLaunch _ _ => true
  | .preemptionSave _ => true
  | .preemptionLimitExpiry _ => true
  | .contextRestore _ _ _ => true
  | .contextResume _ => true
  | .biasFlipToHost _ => true
  | .biasFlipToDevice _ => true
  | .biasFlipComplete _ => true
  | .cxlMemRead _ _ => true
  | .cxlMemWrite _ _ _ => true
  | .cxlIoRequest _ _ _ _ _ => true
  | .tscStoreLoad _ _ => true
  | .heartbeat _ => true
  | .heartbeatTimeout _ => true
  | .progressTimeout _ => true
  | .escalationTimeout _ => true
  | .mailboxUpdate => true
  | .liveReplacementRestart _ => true
  | .mailboxQuench => true
  | .mailboxLoadimg => true
  | .mailboxReserved => true
  | .coldBoot => true
  | .packageReset => true
  | .ioDieWatchdogExpiry => true
  | .droopStretch _ => true
  | .powerAlarmAssert => true
  | .powerAlarmDeassert => true
  | .narrowClear => true
  | .kdstateWrite _ => true
  | .getVersion => true
  | .getCapabilities => true
  | .negotiateAlgorithms => true
  | .getDigests => true
  | .getCertificate _ => true
  | .challenge _ => true
  | .getMeasurements _ => true
  | .debugRegisterRead _ _ _ => true
  | .debugRegisterWrite _ _ _ _ => true
  | .debugAccumulatorRead _ _ _ _ => true
  | .dispenserTraceRead _ _ _ => true
  | .debuggerResume _ => true
  | .haltedContextFree _ => true
  | .hostCacheSnoop _ => true
  | .mmaskLastByteRead _ => true

end Sys2Proof
end

