-- ==== Sys2Proof/Decode.lean ====
section
/-! DEFINITION. Decoding and encoding (09 R242 to R265). Decoding is total: bytes that no row of the code tables admits
are refused under the name of the check that fails (09 R269). Lean's code generator numbers at most 245 constructors
with fields, so the functions that build the later ones are marked noncomputable; the kernel evaluates them. -/

namespace Sys2Proof

/-- Why bytes are no instruction, in the order of 09 R269. -/
inductive DecodeError where
  /-- Fewer bytes than the instruction has. -/
  | truncated
  /-- A reserved major opcode. -/
  | reservedMajor
  /-- A reserved function, sub-operation, condition or kind. -/
  | reservedFunction
  /-- A field that must be zero, or a reserved value. -/
  | reservedField
  deriving DecidableEq, Repr

/-! ## The 32-bit formats -/

/-- Format RR (09 R245). -/
structure RR where
  sz : BitVec 3
  fn : BitVec 5
  lb : Bool
  la : Bool
  b : BitVec 5
  a : BitVec 5
  d : BitVec 5
  deriving DecidableEq, Repr

def RR.toWord (major : BitVec 6) (f : RR) : BitVec 32 :=
  f.sz ++ f.fn ++ BitVec.ofBool f.lb ++ BitVec.ofBool f.la ++ f.b ++ f.a ++ f.d ++ major ++ 1#1
def RR.ofWord (w : BitVec 32) : RR :=
  ⟨w.extractLsb' 29 3, w.extractLsb' 24 5, w.getLsbD 23, w.getLsbD 22, w.extractLsb' 17 5, w.extractLsb' 12 5, w.extractLsb' 7 5⟩

/-- Format RI (09 R245). -/
structure RI where
  imm : BitVec 14
  la : Bool
  a : BitVec 5
  d : BitVec 5
  deriving DecidableEq, Repr

def RI.toWord (major : BitVec 6) (f : RI) : BitVec 32 :=
  f.imm ++ BitVec.ofBool f.la ++ f.a ++ f.d ++ major ++ 1#1
def RI.ofWord (w : BitVec 32) : RI :=
  ⟨w.extractLsb' 18 14, w.getLsbD 17, w.extractLsb' 12 5, w.extractLsb' 7 5⟩

/-- Format U (09 R245). -/
structure U where
  imm : BitVec 20
  d : BitVec 5
  deriving DecidableEq, Repr

def U.toWord (major : BitVec 6) (f : U) : BitVec 32 :=
  f.imm ++ f.d ++ major ++ 1#1
def U.ofWord (w : BitVec 32) : U :=
  ⟨w.extractLsb' 12 20, w.extractLsb' 7 5⟩

/-- Format BF (09 R245). -/
structure BF where
  sign : Bool
  len : BitVec 6
  pos : BitVec 6
  ins : Bool
  la : Bool
  a : BitVec 5
  d : BitVec 5
  deriving DecidableEq, Repr

def BF.toWord (major : BitVec 6) (f : BF) : BitVec 32 :=
  BitVec.ofBool f.sign ++ f.len ++ f.pos ++ BitVec.ofBool f.ins ++ BitVec.ofBool f.la ++ f.a ++ f.d ++ major ++ 1#1
def BF.ofWord (w : BitVec 32) : BF :=
  ⟨w.getLsbD 31, w.extractLsb' 25 6, w.extractLsb' 19 6, w.getLsbD 18, w.getLsbD 17, w.extractLsb' 12 5, w.extractLsb' 7 5⟩

/-- Format M (09 R245). -/
structure M where
  off : BitVec 10
  sz : BitVec 3
  ld : Bool
  lbase : Bool
  base : BitVec 5
  d : BitVec 5
  deriving DecidableEq, Repr

def M.toWord (major : BitVec 6) (f : M) : BitVec 32 :=
  f.off ++ f.sz ++ BitVec.ofBool f.ld ++ BitVec.ofBool f.lbase ++ f.base ++ f.d ++ major ++ 1#1
def M.ofWord (w : BitVec 32) : M :=
  ⟨w.extractLsb' 22 10, w.extractLsb' 19 3, w.getLsbD 18, w.getLsbD 17, w.extractLsb' 12 5, w.extractLsb' 7 5⟩

/-- Format BR (09 R245). -/
structure BR where
  disp : BitVec 12
  cond : BitVec 3
  b : BitVec 5
  a : BitVec 5
  deriving DecidableEq, Repr

def BR.toWord (major : BitVec 6) (f : BR) : BitVec 32 :=
  f.disp ++ f.cond ++ f.b ++ f.a ++ major ++ 1#1
def BR.ofWord (w : BitVec 32) : BR :=
  ⟨w.extractLsb' 20 12, w.extractLsb' 17 3, w.extractLsb' 12 5, w.extractLsb' 7 5⟩

/-- Format J (09 R245). -/
structure J where
  disp : BitVec 20
  link : BitVec 5
  deriving DecidableEq, Repr

def J.toWord (major : BitVec 6) (f : J) : BitVec 32 :=
  f.disp ++ f.link ++ major ++ 1#1
def J.ofWord (w : BitVec 32) : J :=
  ⟨w.extractLsb' 12 20, w.extractLsb' 7 5⟩

/-- Format VX (09 R245). -/
structure VX where
  fn : BitVec 5
  la : Bool
  s : Bool
  k : BitVec 3
  vb : BitVec 5
  va : BitVec 5
  vd : BitVec 5
  deriving DecidableEq, Repr

def VX.toWord (major : BitVec 6) (f : VX) : BitVec 32 :=
  f.fn ++ BitVec.ofBool f.la ++ BitVec.ofBool f.s ++ f.k ++ f.vb ++ f.va ++ f.vd ++ major ++ 1#1
def VX.ofWord (w : BitVec 32) : VX :=
  ⟨w.extractLsb' 27 5, w.getLsbD 26, w.getLsbD 25, w.extractLsb' 22 3, w.extractLsb' 17 5, w.extractLsb' 12 5, w.extractLsb' 7 5⟩

/-- Format VM (09 R245). -/
structure VM where
  zero : BitVec 2
  sub : BitVec 3
  esz : BitVec 2
  k : BitVec 3
  x : BitVec 5
  base : BitVec 5
  vd : BitVec 5
  deriving DecidableEq, Repr

def VM.toWord (major : BitVec 6) (f : VM) : BitVec 32 :=
  f.zero ++ f.sub ++ f.esz ++ f.k ++ f.x ++ f.base ++ f.vd ++ major ++ 1#1
def VM.ofWord (w : BitVec 32) : VM :=
  ⟨w.extractLsb' 30 2, w.extractLsb' 27 3, w.extractLsb' 25 2, w.extractLsb' 22 3, w.extractLsb' 17 5, w.extractLsb' 12 5, w.extractLsb' 7 5⟩

/-- Format X (09 R245). -/
structure X where
  md : BitVec 3
  cls : BitVec 2
  fn : BitVec 5
  b : BitVec 5
  a : BitVec 5
  d : BitVec 5
  deriving DecidableEq, Repr

def X.toWord (major : BitVec 6) (f : X) : BitVec 32 :=
  f.md ++ f.cls ++ f.fn ++ f.b ++ f.a ++ f.d ++ major ++ 1#1
def X.ofWord (w : BitVec 32) : X :=
  ⟨w.extractLsb' 29 3, w.extractLsb' 27 2, w.extractLsb' 22 5, w.extractLsb' 17 5, w.extractLsb' 12 5, w.extractLsb' 7 5⟩

/-- Format P (09 R245). -/
structure P where
  zero : BitVec 6
  sat : Bool
  rnd : BitVec 3
  fd : BitVec 5
  fb : BitVec 5
  fa : BitVec 5
  deriving DecidableEq, Repr

def P.toWord (major : BitVec 6) (f : P) : BitVec 32 :=
  f.zero ++ BitVec.ofBool f.sat ++ f.rnd ++ f.fd ++ f.fb ++ f.fa ++ major ++ 1#1
def P.ofWord (w : BitVec 32) : P :=
  ⟨w.extractLsb' 26 6, w.getLsbD 25, w.extractLsb' 22 3, w.extractLsb' 17 5, w.extractLsb' 12 5, w.extractLsb' 7 5⟩

/-- Format TC (09 R245). -/
structure TC where
  imm : BitVec 12
  q : BitVec 5
  p : BitVec 5
  sub : BitVec 3
  deriving DecidableEq, Repr

def TC.toWord (major : BitVec 6) (f : TC) : BitVec 32 :=
  f.imm ++ f.q ++ f.p ++ f.sub ++ major ++ 1#1
def TC.ofWord (w : BitVec 32) : TC :=
  ⟨w.extractLsb' 20 12, w.extractLsb' 15 5, w.extractLsb' 10 5, w.extractLsb' 7 3⟩

/-! ## Decoding by major opcode (09 R247 to R265) -/

/-- The instruction, where its fields hold no reserved value. -/
def only (ok : Bool) (i : Instr) : Except DecodeError Instr := if ok then .ok i else .error .reservedField

/-- The instruction of width `.w` or `.d` (09 R248). -/
def sized (sz : BitVec 3) (ok : Bool) (i : Bool → Instr) : Except DecodeError Instr :=
  if sz = 2 then only ok (i false) else if sz = 3 then only ok (i true) else .error .reservedField

/-- Major 0x01. -/
def decodeIntRR (f : RR) : Except DecodeError Instr :=
  match f.fn.toNat with
  | 0 => sized f.sz true (fun z => .add z f.lb f.la f.b f.a f.d)
  | 1 => sized f.sz true (fun z => .sub z f.lb f.la f.b f.a f.d)
  | 2 => sized f.sz true (fun z => .and z f.lb f.la f.b f.a f.d)
  | 3 => sized f.sz true (fun z => .or z f.lb f.la f.b f.a f.d)
  | 4 => sized f.sz true (fun z => .xor z f.lb f.la f.b f.a f.d)
  | 5 => sized f.sz true (fun z => .andn z f.lb f.la f.b f.a f.d)
  | 6 => sized f.sz true (fun z => .sll z f.lb f.la f.b f.a f.d)
  | 7 => sized f.sz true (fun z => .srl z f.lb f.la f.b f.a f.d)
  | 8 => sized f.sz true (fun z => .sra z f.lb f.la f.b f.a f.d)
  | 9 => sized f.sz true (fun z => .ror z f.lb f.la f.b f.a f.d)
  | 10 => sized f.sz true (fun z => .min z f.lb f.la f.b f.a f.d)
  | 11 => sized f.sz true (fun z => .max z f.lb f.la f.b f.a f.d)
  | 12 => sized f.sz true (fun z => .minu z f.lb f.la f.b f.a f.d)
  | 13 => sized f.sz true (fun z => .maxu z f.lb f.la f.b f.a f.d)
  | 14 => sized f.sz true (fun z => .slt z f.lb f.la f.b f.a f.d)
  | 15 => sized f.sz true (fun z => .sltu z f.lb f.la f.b f.a f.d)
  | 16 => sized f.sz true (fun z => .seq z f.lb f.la f.b f.a f.d)
  | 17 => sized f.sz true (fun z => .sne z f.lb f.la f.b f.a f.d)
  | 18 => only (decide (f.sz = 3)) (.cmovz f.lb f.la f.b f.a f.d)
  | 19 => only (decide (f.sz = 3)) (.cmovnz f.lb f.la f.b f.a f.d)
  | 20 => sized f.sz (!f.lb && decide (f.b = 0)) (fun z => .clz z f.la f.a f.d)
  | 21 => sized f.sz (!f.lb && decide (f.b = 0)) (fun z => .ctz z f.la f.a f.d)
  | 22 => sized f.sz (!f.lb && decide (f.b = 0)) (fun z => .popc z f.la f.a f.d)
  | _ => .error .reservedFunction

/-- Major 0x02. -/
def decodeAddi (f : RI) : Except DecodeError Instr :=
  .ok (.addi f.imm f.la f.a f.d)

/-- Major 0x03. -/
def decodeAndi (f : RI) : Except DecodeError Instr :=
  .ok (.andi f.imm f.la f.a f.d)

/-- Major 0x04. -/
def decodeOri (f : RI) : Except DecodeError Instr :=
  .ok (.ori f.imm f.la f.a f.d)

/-- Major 0x05. -/
def decodeXori (f : RI) : Except DecodeError Instr :=
  .ok (.xori f.imm f.la f.a f.d)

/-- Major 0x06. -/
def decodeShiftImm (f : RI) : Except DecodeError Instr :=
  match (f.imm.extractLsb' 6 2).toNat with
  | 0 => only (decide (f.imm.extractLsb' 10 4 = 0) && f.imm.getLsbD 9 && shiftCount (f.imm.getLsbD 8) (f.imm.extractLsb' 0 6)) (.slli (f.imm.getLsbD 8) (f.imm.extractLsb' 0 6) f.la f.a f.d)
  | 1 => only (decide (f.imm.extractLsb' 10 4 = 0) && f.imm.getLsbD 9 && shiftCount (f.imm.getLsbD 8) (f.imm.extractLsb' 0 6)) (.srli (f.imm.getLsbD 8) (f.imm.extractLsb' 0 6) f.la f.a f.d)
  | 2 => only (decide (f.imm.extractLsb' 10 4 = 0) && f.imm.getLsbD 9 && shiftCount (f.imm.getLsbD 8) (f.imm.extractLsb' 0 6)) (.srai (f.imm.getLsbD 8) (f.imm.extractLsb' 0 6) f.la f.a f.d)
  | _ => only (decide (f.imm.extractLsb' 10 4 = 0) && f.imm.getLsbD 9 && shiftCount (f.imm.getLsbD 8) (f.imm.extractLsb' 0 6)) (.rori (f.imm.getLsbD 8) (f.imm.extractLsb' 0 6) f.la f.a f.d)

/-- Major 0x07. -/
def decodeCmpImm (f : RI) : Except DecodeError Instr :=
  match (f.imm.extractLsb' 12 2).toNat with
  | 0 => .ok (.seqi (f.imm.extractLsb' 0 12) f.la f.a f.d)
  | 1 => .ok (.snei (f.imm.extractLsb' 0 12) f.la f.a f.d)
  | 2 => .ok (.slti (f.imm.extractLsb' 0 12) f.la f.a f.d)
  | _ => .ok (.sltiu (f.imm.extractLsb' 0 12) f.la f.a f.d)

/-- Major 0x08. -/
def decodeLui (f : U) : Except DecodeError Instr :=
  .ok (.lui f.imm f.d)

/-- Major 0x09. -/
def decodeLeapc (f : U) : Except DecodeError Instr :=
  .ok (.leapc f.imm f.d)

/-- Major 0x0A. -/
def decodeBit (f : BF) : Except DecodeError Instr :=
  match f.ins, f.sign with
  | false, false => only (bitField f.len f.pos) (.bfxu f.len f.pos f.la f.a f.d)
  | false, true => only (bitField f.len f.pos) (.bfx f.len f.pos f.la f.a f.d)
  | true, false => only (bitField f.len f.pos) (.bfi f.len f.pos f.la f.a f.d)
  | true, true => .error .reservedFunction

/-- Major 0x0B. -/
def decodeMulDiv (f : RR) : Except DecodeError Instr :=
  match f.fn.toNat with
  | 0 => sized f.sz true (fun z => .mul z f.lb f.la f.b f.a f.d)
  | 1 => sized f.sz true (fun z => .mulh z f.lb f.la f.b f.a f.d)
  | 2 => sized f.sz true (fun z => .mulhu z f.lb f.la f.b f.a f.d)
  | 3 => sized f.sz true (fun z => .mulhsu z f.lb f.la f.b f.a f.d)
  | 4 => sized f.sz true (fun z => .div z f.lb f.la f.b f.a f.d)
  | 5 => sized f.sz true (fun z => .divu z f.lb f.la f.b f.a f.d)
  | 6 => sized f.sz true (fun z => .rem z f.lb f.la f.b f.a f.d)
  | 7 => sized f.sz true (fun z => .remu z f.lb f.la f.b f.a f.d)
  | _ => .error .reservedFunction

/-- Major 0x0C. -/
def decodeScalarFp (f : RR) : Except DecodeError Instr :=
  match f.fn.toNat with
  | 0 => only (decide (f.sz = 2)) (.fadd f.lb f.la f.b f.a f.d)
  | 1 => only (decide (f.sz = 2)) (.fsub f.lb f.la f.b f.a f.d)
  | 2 => only (decide (f.sz = 2)) (.fmul f.lb f.la f.b f.a f.d)
  | 3 => only (decide (f.sz = 2)) (.fma f.lb f.la f.b f.a f.d)
  | 4 => only (decide (f.sz = 2)) (.fdiv f.lb f.la f.b f.a f.d)
  | 5 => only (decide (f.sz = 2)) (.fcmp f.lb f.la f.b f.a f.d)
  | 6 => only (decide (f.sz = 2) && !f.lb && decide (f.b = 0)) (.fcvtif f.la f.a f.d)
  | 7 => only (decide (f.sz = 2) && !f.lb && decide (f.b = 0)) (.fcvtfi f.la f.a f.d)
  | _ => .error .reservedFunction

/-- Major 0x0D. -/
def decodeBranch (f : BR) : Except DecodeError Instr :=
  match f.cond.toNat with
  | 0 => .ok (.beq f.disp f.b f.a)
  | 1 => .ok (.bne f.disp f.b f.a)
  | 2 => .ok (.blt f.disp f.b f.a)
  | 3 => .ok (.bge f.disp f.b f.a)
  | 4 => .ok (.bltu f.disp f.b f.a)
  | 5 => .ok (.bgeu f.disp f.b f.a)
  | _ => .error .reservedFunction

/-- Major 0x0E. -/
def decodeJump (f : J) : Except DecodeError Instr :=
  if f.link = 0 then .ok (.j f.disp) else .ok (.call f.disp f.link)

/-- Major 0x0F. -/
def decodeJumpReg (f : RI) : Except DecodeError Instr :=
  if f.d = 0 then .ok (.jr f.imm f.la f.a) else .ok (.callr f.imm f.la f.a f.d)

/-- Major 0x10. -/
def decodeLoad (f : M) : Except DecodeError Instr :=
  match f.sz.toNat with
  | 0 => only (!f.ld) (.lb f.off f.lbase f.base f.d)
  | 1 => only (!f.ld) (.lh f.off f.lbase f.base f.d)
  | 2 => only (!f.ld) (.lw f.off f.lbase f.base f.d)
  | 3 => only (!f.ld) (.ld f.off f.lbase f.base f.d)
  | 4 => only (!f.ld) (.lbu f.off f.lbase f.base f.d)
  | 5 => only (!f.ld) (.lhu f.off f.lbase f.base f.d)
  | 6 => only (!f.ld) (.lwu f.off f.lbase f.base f.d)
  | _ => .error .reservedFunction

/-- Major 0x11. -/
def decodeStore (f : M) : Except DecodeError Instr :=
  match f.sz.toNat with
  | 0 => .ok (.sb f.off f.ld f.lbase f.base f.d)
  | 1 => .ok (.sh f.off f.ld f.lbase f.base f.d)
  | 2 => .ok (.sw f.off f.ld f.lbase f.base f.d)
  | 3 => .ok (.sd f.off f.ld f.lbase f.base f.d)
  | _ => .error .reservedFunction

/-- Major 0x12. -/
def decodeMulti (f : M) : Except DecodeError Instr :=
  if f.ld then only (runOf f.sz f.d) (.stm f.off f.sz f.lbase f.base f.d) else only (runOf f.sz f.d) (.ldm f.off f.sz f.lbase f.base f.d)

/-- Major 0x13. -/
def decodeAtomic (f : RR) : Except DecodeError Instr :=
  match f.fn.toNat with
  | 0 => sized f.sz true (fun z => .aadd z f.lb f.la f.b f.a f.d)
  | 1 => sized f.sz true (fun z => .afadd z f.lb f.la f.b f.a f.d)
  | 2 => sized f.sz true (fun z => .amin z f.lb f.la f.b f.a f.d)
  | 3 => sized f.sz true (fun z => .amax z f.lb f.la f.b f.a f.d)
  | 4 => sized f.sz true (fun z => .aminu z f.lb f.la f.b f.a f.d)
  | 5 => sized f.sz true (fun z => .amaxu z f.lb f.la f.b f.a f.d)
  | 6 => sized f.sz true (fun z => .aand z f.lb f.la f.b f.a f.d)
  | 7 => sized f.sz true (fun z => .aor z f.lb f.la f.b f.a f.d)
  | 8 => sized f.sz true (fun z => .axor z f.lb f.la f.b f.a f.d)
  | 9 => sized f.sz true (fun z => .aswap z f.lb f.la f.b f.a f.d)
  | 10 => sized f.sz true (fun z => .acas z f.lb f.la f.b f.a f.d)
  | _ => .error .reservedFunction

/-- Major 0x14. -/
def decodeFence (f : RR) : Except DecodeError Instr :=
  match f.fn.toNat with
  | 0 => only (!f.sz.getLsbD 2 && !f.d.getLsbD 4 && !f.lb && !f.la && decide (f.b = 0) && decide (f.a = 0)) (.fence (f.sz.extractLsb' 0 2) (f.d.extractLsb' 0 4))
  | 1 => only (decide (f.sz.extractLsb' 1 2 = 0) && !f.lb && !f.la && decide (f.b = 0) && decide (f.a = 0)) (.tclr (f.sz.getLsbD 0) f.d)
  | 2 => only (!f.sz.getLsbD 2 && !f.lb && decide (f.b = 0)) (.tjoin (f.sz.getLsbD 1) (f.sz.getLsbD 0) f.la f.a f.d)
  | 3 => only (!f.sz.getLsbD 0 && !f.sz.getLsbD 2 && !f.lb && decide (f.b = 0) && decide (f.d = 0)) (.twait (f.sz.getLsbD 1) f.la f.a)
  | _ => .error .reservedFunction

/-- Major 0x15. -/
def decodeBarrier (f : RR) : Except DecodeError Instr :=
  match f.fn.toNat with
  | 0 => only (decide (f.sz = 0) && !f.lb && decide (f.b = 0) && decide (f.d = 0)) (.bar f.la f.a)
  | 1 => sized f.sz true (fun z => .baradd z f.lb f.la f.b f.a f.d)
  | 2 => only (decide (f.sz = 2)) (.barfadd f.lb f.la f.b f.a f.d)
  | _ => .error .reservedFunction

/-- Major 0x16. -/
def decodeMessage (f : RR) : Except DecodeError Instr :=
  match f.fn.toNat with
  | 0 => only (decide (f.sz = 0) && decide (f.d = 0)) (.chsend f.lb f.la f.b f.a)
  | 1 => only (decide (f.sz = 0) && !f.lb && decide (f.b = 0)) (.chrecv f.la f.a f.d)
  | 2 => only ((f.sz != 7) && !f.lb && decide (f.b = 0)) (.amld f.sz f.la f.a f.d)
  | 3 => only (!f.sz.getLsbD 2 && decide (f.d = 0)) (.amst (f.sz.extractLsb' 0 2) f.lb f.la f.b f.a)
  | 16 => sized f.sz true (fun z => .amopAadd z f.lb f.la f.b f.a f.d)
  | 17 => sized f.sz true (fun z => .amopAfadd z f.lb f.la f.b f.a f.d)
  | 18 => sized f.sz true (fun z => .amopAmin z f.lb f.la f.b f.a f.d)
  | 19 => sized f.sz true (fun z => .amopAmax z f.lb f.la f.b f.a f.d)
  | 20 => sized f.sz true (fun z => .amopAminu z f.lb f.la f.b f.a f.d)
  | 21 => sized f.sz true (fun z => .amopAmaxu z f.lb f.la f.b f.a f.d)
  | 22 => sized f.sz true (fun z => .amopAand z f.lb f.la f.b f.a f.d)
  | 23 => sized f.sz true (fun z => .amopAor z f.lb f.la f.b f.a f.d)
  | 24 => sized f.sz true (fun z => .amopAxor z f.lb f.la f.b f.a f.d)
  | 25 => sized f.sz true (fun z => .amopAswap z f.lb f.la f.b f.a f.d)
  | 26 => sized f.sz true (fun z => .amopAcas z f.lb f.la f.b f.a f.d)
  | _ => .error .reservedFunction

/-- Major 0x17. -/
def decodeThread (f : TC) : Except DecodeError Instr :=
  match f.sub.toNat with
  | 0 => only (decide (f.imm = 0) && decide (f.q = 0)) (.fork f.p)
  | 1 => only (decide (f.q = 0)) (.meet f.imm f.p)
  | 2 => .ok (.meetC f.imm f.q f.p)
  | 3 => only (decide (f.imm = 0) && decide (f.q = 0) && decide (f.p = 0)) (.done)
  | 4 => only (decide (f.imm = 0) && decide (f.q = 0) && decide (f.p = 0)) (.align)
  | 5 => only (decide (f.imm = 0) && decide (f.q = 0) && decide (f.p = 0)) (.yield)
  | _ => .error .reservedFunction

/-- Major 0x18. -/
def decodeTask (f : TC) : Except DecodeError Instr :=
  match f.sub.toNat with
  | 0 => only (decide (f.imm = 0) && decide (f.q = 0)) (.spawn f.p)
  | 1 => only (decide (f.imm = 0) && decide (f.q = 0) && decide (f.p = 0)) (.waitw)
  | 2 => only (decide (f.imm = 0) && decide (f.q = 0) && decide (f.p = 0)) (.taskend)
  | 3 => only (decide (f.imm = 0) && decide (f.q = 0) && decide (f.p = 0)) (.commit)
  | 4 => if f.imm = 0 then only (hrqRun f.p) (.hrq f.q f.p) else only (decide (f.imm = 1) && hrqRun f.p) (.hrqSw f.q f.p)
  | _ => .error .reservedFunction

/-- Major 0x19. -/
def decodeTile (f : RR) : Except DecodeError Instr :=
  match f.fn.toNat with
  | 0 => only (decide (f.sz = 0) && !f.lb && !f.la && hnd f.d) (.tdef f.b f.a f.d)
  | 1 => only (decide (f.sz = 0) && !f.lb && !f.la && decide (f.b = 0) && decide (f.a = 0) && hnd f.d) (.trel f.d)
  | 2 => only (decide (f.sz = 0) && !f.lb && !f.la && decide (f.b = 0) && hnd f.a) (.tstat f.a f.d)
  | 3 => only (decide (f.sz = 0) && !f.lb && !f.la && decide (f.b = 0) && decide (f.a = 0) && hnd f.d) (.twaitr f.d)
  | 4 => only (decide (f.sz = 0) && !f.lb && !f.la && decide (f.b = 0) && hnd f.d) (.tfill f.a f.d)
  | 5 => only (decide (f.sz = 0) && !f.lb && !f.la && decide (f.b = 0) && decide (f.a = 0) && hnd f.d) (.tcons f.d)
  | _ => .error .reservedFunction

/-- Major 0x1A. -/
def decodeMatrix (f : X) : Except DecodeError Instr :=
  match f.fn.toNat with
  | 0 => only (!f.md.getLsbD 2 && decide (f.d = 0) && hnd f.a && hnd f.b) (.mma (f.md.getLsbD 1) (f.md.getLsbD 0) f.cls f.b f.a)
  | 1 => only (!f.md.getLsbD 2 && hnd f.a && hnd f.b) (.mmac (f.md.getLsbD 1) (f.md.getLsbD 0) f.cls f.b f.a f.d)
  | 2 => only (!f.md.getLsbD 2 && !f.md.getLsbD 1 && decide (f.b = 0) && decide (f.a = 0) && decide (f.d = 0)) (.mzero (f.md.getLsbD 0) f.cls)
  | 3 => only (!f.md.getLsbD 2 && !f.md.getLsbD 1 && decide (f.b = 0) && decide (f.d = 0) && hnd f.a) (.mstore (f.md.getLsbD 0) f.cls f.a)
  | 4 => only (!f.md.getLsbD 2 && !f.md.getLsbD 1 && decide (f.b = 0) && decide (f.d = 0) && hnd f.a) (.mmask (f.md.getLsbD 0) f.cls f.a)
  | 5 => only (!f.md.getLsbD 2 && !f.md.getLsbD 1 && decide (f.d = 0)) (.mscale (f.md.getLsbD 0) f.cls f.b f.a)
  | _ => .error .reservedFunction

/-- Major 0x1B. -/
def decodeCopy (f : X) : Except DecodeError Instr :=
  match f.fn.toNat with
  | 0 => only (decide (f.md = 0) && decide (f.b = 0) && decide (f.d = 0)) (.cpy f.cls f.a)
  | 1 => only (decide (f.md = 0) && decide (f.b = 0) && decide (f.d = 0)) (.cpyw f.cls f.a)
  | 2 => only (decide (f.md = 0) && decide (f.b = 0)) (.cpyq f.cls f.a f.d)
  | 3 => only (decide (f.md = 0) && decide (f.b = 0) && decide (f.d = 0)) (.cpyc f.cls f.a)
  | _ => .error .reservedFunction

/-- Major 0x1C. -/
def decodeStream (f : RI) : Except DecodeError Instr :=
  match (f.imm.extractLsb' 11 3).toNat with
  | 0 => only (decide (f.imm.extractLsb' 7 4 = 0) && streamCount (f.imm.extractLsb' 0 7) && !f.la && decide (f.a = 0)) (.bstake (f.imm.extractLsb' 0 7) f.d)
  | 1 => only (decide (f.imm.extractLsb' 7 4 = 0) && streamCount (f.imm.extractLsb' 0 7) && !f.la && decide (f.a = 0)) (.bspeek (f.imm.extractLsb' 0 7) f.d)
  | 2 => only (decide (f.imm.extractLsb' 7 4 = 0) && streamCount (f.imm.extractLsb' 0 7) && decide (f.d = 0)) (.bsemit (f.imm.extractLsb' 0 7) f.la f.a)
  | 3 => only (decide (f.imm.extractLsb' 7 4 = 0) && streamCount (f.imm.extractLsb' 0 7) && !f.la && decide (f.a = 0) && decide (f.d = 0)) (.bsskip (f.imm.extractLsb' 0 7))
  | 4 => only (decide (f.imm.extractLsb' 7 4 = 0) && alignCount (f.imm.extractLsb' 0 7) && !f.la && decide (f.a = 0) && decide (f.d = 0)) (.bsalign (f.imm.extractLsb' 0 7))
  | _ => .error .reservedFunction

/-- Major 0x1D. -/
def decodeCsr (f : RI) : Except DecodeError Instr :=
  match (f.imm.extractLsb' 12 2).toNat with
  | 0 => only (csrListed (f.imm.extractLsb' 0 12) && !f.la && decide (f.a = 0)) (.csrr (f.imm.extractLsb' 0 12) f.d)
  | 1 => only (csrListed (f.imm.extractLsb' 0 12)) (.csrw (f.imm.extractLsb' 0 12) f.la f.a f.d)
  | 2 => only (csrListed (f.imm.extractLsb' 0 12)) (.csrs (f.imm.extractLsb' 0 12) f.la f.a f.d)
  | _ => only (csrListed (f.imm.extractLsb' 0 12)) (.csrc (f.imm.extractLsb' 0 12) f.la f.a f.d)

/-- Major 0x1E. -/
def decodeSystem (f : RR) : Except DecodeError Instr :=
  match f.fn.toNat with
  | 0 => only (decide (f.sz = 0) && !f.lb && !f.la && decide (f.a = 0) && decide (f.d = 0)) (.trap f.b)
  | 1 => only (decide (f.sz = 0) && !f.lb && !f.la && decide (f.b = 0) && decide (f.a = 0) && decide (f.d = 0)) (.eret)
  | 2 => only (decide (f.sz = 0) && !f.lb && !f.la && decide (f.b = 0) && decide (f.a = 0) && decide (f.d = 0)) (.halt)
  | 3 => only (decide (f.sz = 0) && !f.lb && !f.la && decide (f.a = 0) && decide (f.d = 0)) (.dbg f.b)
  | 4 => only (decide (f.sz = 0) && decide (f.d = 0)) (.tlbw f.lb f.la f.b f.a)
  | 5 => only ((f.sz.extractLsb' 0 2 != 3) && !f.lb && decide (f.b = 0) && tlbiTarget (f.sz.getLsbD 2) f.d) (.tlbi (f.sz.getLsbD 2) (f.sz.extractLsb' 0 2) f.la f.a f.d)
  | 6 => only (decide (f.sz = 0) && !f.lb && decide (f.b = 0) && decide (f.d = 0)) (.cwb f.la f.a)
  | 7 => only (decide (f.sz = 0) && !f.lb && decide (f.b = 0) && decide (f.d = 0)) (.cinv f.la f.a)
  | _ => .error .reservedFunction

/-- Major 0x1F. -/
def decodePrefix (f : P) : Except DecodeError Instr :=
  only (decide (f.zero = 0)) (.fmt f.sat f.rnd f.fd f.fb f.fa)

/-- Major 0x20. -/
def decodeVint (f : VX) : Except DecodeError Instr :=
  match f.fn.toNat with
  | 0 => only (!f.la && decide (f.va = 0)) (.vmov f.s f.k f.vb f.vd)
  | 1 => .ok (.vadd f.la f.s f.k f.vb f.va f.vd)
  | 2 => .ok (.vsub f.la f.s f.k f.vb f.va f.vd)
  | 3 => .ok (.vmul f.la f.s f.k f.vb f.va f.vd)
  | 4 => .ok (.vand f.la f.s f.k f.vb f.va f.vd)
  | 5 => .ok (.vor f.la f.s f.k f.vb f.va f.vd)
  | 6 => .ok (.vxor f.la f.s f.k f.vb f.va f.vd)
  | 7 => .ok (.vshl f.la f.s f.k f.vb f.va f.vd)
  | 8 => .ok (.vshr f.la f.s f.k f.vb f.va f.vd)
  | 9 => .ok (.vmin f.la f.s f.k f.vb f.va f.vd)
  | 10 => .ok (.vmax f.la f.s f.k f.vb f.va f.vd)
  | 11 => .ok (.vsra f.la f.s f.k f.vb f.va f.vd)
  | 12 => .ok (.vminu f.la f.s f.k f.vb f.va f.vd)
  | 13 => .ok (.vmaxu f.la f.s f.k f.vb f.va f.vd)
  | 14 => .ok (.vmulhu f.la f.s f.k f.vb f.va f.vd)
  | 15 => .ok (.vmadd f.la f.s f.k f.vb f.va f.vd)
  | _ => .error .reservedFunction

/-- Major 0x21. -/
def decodeVfp (f : VX) : Except DecodeError Instr :=
  match f.fn.toNat with
  | 0 => .ok (.vfadd f.la f.s f.k f.vb f.va f.vd)
  | 1 => .ok (.vfsub f.la f.s f.k f.vb f.va f.vd)
  | 2 => .ok (.vfmul f.la f.s f.k f.vb f.va f.vd)
  | 3 => .ok (.vfmin f.la f.s f.k f.vb f.va f.vd)
  | 4 => .ok (.vfmax f.la f.s f.k f.vb f.va f.vd)
  | 5 => .ok (.vfma f.la f.s f.k f.vb f.va f.vd)
  | 6 => .ok (.vfdiv f.la f.s f.k f.vb f.va f.vd)
  | 7 => only (!f.s && decide (f.vb = 0)) (.vfsqrt f.la f.k f.va f.vd)
  | 8 => only (!f.s && decide (f.vb = 0)) (.vfabs f.la f.k f.va f.vd)
  | 9 => only (!f.s && decide (f.vb = 0)) (.vfneg f.la f.k f.va f.vd)
  | _ => .error .reservedFunction

/-- Major 0x22. -/
def decodeVcmp (f : VX) : Except DecodeError Instr :=
  match f.fn.toNat with
  | 0 => only (decide (f.vd.extractLsb' 3 2 = 0) && (f.vd.extractLsb' 0 3 != 0)) (.vceq f.la f.s f.k f.vb f.va (f.vd.extractLsb' 0 3))
  | 1 => only (decide (f.vd.extractLsb' 3 2 = 0) && (f.vd.extractLsb' 0 3 != 0)) (.vcne f.la f.s f.k f.vb f.va (f.vd.extractLsb' 0 3))
  | 2 => only (decide (f.vd.extractLsb' 3 2 = 0) && (f.vd.extractLsb' 0 3 != 0)) (.vclt f.la f.s f.k f.vb f.va (f.vd.extractLsb' 0 3))
  | 3 => only (decide (f.vd.extractLsb' 3 2 = 0) && (f.vd.extractLsb' 0 3 != 0)) (.vcle f.la f.s f.k f.vb f.va (f.vd.extractLsb' 0 3))
  | 4 => only (decide (f.vd.extractLsb' 3 2 = 0) && (f.vd.extractLsb' 0 3 != 0)) (.vcltu f.la f.s f.k f.vb f.va (f.vd.extractLsb' 0 3))
  | 5 => only (decide (f.vd.extractLsb' 3 2 = 0) && (f.vd.extractLsb' 0 3 != 0)) (.vcleu f.la f.s f.k f.vb f.va (f.vd.extractLsb' 0 3))
  | 6 => only (decide (f.vd.extractLsb' 3 2 = 0) && (f.vd.extractLsb' 0 3 != 0)) (.vfceq f.la f.s f.k f.vb f.va (f.vd.extractLsb' 0 3))
  | 7 => only (decide (f.vd.extractLsb' 3 2 = 0) && (f.vd.extractLsb' 0 3 != 0)) (.vfclt f.la f.s f.k f.vb f.va (f.vd.extractLsb' 0 3))
  | 8 => only (decide (f.vd.extractLsb' 3 2 = 0) && (f.vd.extractLsb' 0 3 != 0)) (.vfcle f.la f.s f.k f.vb f.va (f.vd.extractLsb' 0 3))
  | _ => .error .reservedFunction

/-- Major 0x23. -/
def decodeVcvt (f : VX) : Except DecodeError Instr :=
  match f.fn.toNat with
  | 0 => only (!f.s && decide (f.vb = 0)) (.vcvt f.la f.k f.va f.vd)
  | 1 => only (!f.s && decide (f.vb = 0)) (.vcvtif f.la f.k f.va f.vd)
  | 2 => only (!f.s && decide (f.vb = 0)) (.vcvtuf f.la f.k f.va f.vd)
  | 3 => only (!f.s && decide (f.vb = 0)) (.vcvtfi f.la f.k f.va f.vd)
  | 4 => only (!f.s && decide (f.vb = 0)) (.vcvtfu f.la f.k f.va f.vd)
  | _ => .error .reservedFunction

/-- Major 0x24. -/
def decodeVperm (f : VX) : Except DecodeError Instr :=
  match f.fn.toNat with
  | 0 => .ok (.vperm f.la f.s f.k f.vb f.va f.vd)
  | 1 => .ok (.vslideup f.la f.s f.k f.vb f.va f.vd)
  | 2 => .ok (.vslidedn f.la f.s f.k f.vb f.va f.vd)
  | 3 => .ok (.vziplo f.la f.s f.k f.vb f.va f.vd)
  | 4 => .ok (.vziphi f.la f.s f.k f.vb f.va f.vd)
  | 5 => only (!f.s && decide (f.vb = 0)) (.vcompress f.la f.k f.va f.vd)
  | 6 => only (!f.s && decide (f.vb = 0)) (.vexpand f.la f.k f.va f.vd)
  | 7 => only (f.s && decide (f.k = 0)) (.vextr f.la f.vb f.va f.vd)
  | _ => .error .reservedFunction

/-- Major 0x25. -/
def decodeVred (f : VX) : Except DecodeError Instr :=
  match f.fn.toNat with
  | 0 => only (!f.s && decide (f.vb = 0)) (.vradd f.la f.k f.va f.vd)
  | 1 => only (!f.s && decide (f.vb = 0)) (.vrmin f.la f.k f.va f.vd)
  | 2 => only (!f.s && decide (f.vb = 0)) (.vrmax f.la f.k f.va f.vd)
  | 3 => only (!f.s && decide (f.vb = 0)) (.vrand f.la f.k f.va f.vd)
  | 4 => only (!f.s && decide (f.vb = 0)) (.vror f.la f.k f.va f.vd)
  | 5 => only (!f.s && decide (f.vb = 0)) (.vrxor f.la f.k f.va f.vd)
  | 6 => only (!f.s && decide (f.vb = 0)) (.vrfadd f.la f.k f.va f.vd)
  | 7 => only (!f.s && decide (f.vb = 0)) (.vrfmax f.la f.k f.va f.vd)
  | _ => .error .reservedFunction

/-- Major 0x26. -/
def decodeVmask (f : VX) : Except DecodeError Instr :=
  match f.fn.toNat with
  | 0 => only (decide (f.vb.extractLsb' 3 2 = 0) && decide (f.va.extractLsb' 3 2 = 0) && decide (f.vd.extractLsb' 3 2 = 0) && (f.vd.extractLsb' 0 3 != 0) && !f.la && !f.s) (.kand f.k (f.vb.extractLsb' 0 3) (f.va.extractLsb' 0 3) (f.vd.extractLsb' 0 3))
  | 1 => only (decide (f.vb.extractLsb' 3 2 = 0) && decide (f.va.extractLsb' 3 2 = 0) && decide (f.vd.extractLsb' 3 2 = 0) && (f.vd.extractLsb' 0 3 != 0) && !f.la && !f.s) (.kor f.k (f.vb.extractLsb' 0 3) (f.va.extractLsb' 0 3) (f.vd.extractLsb' 0 3))
  | 2 => only (decide (f.vb.extractLsb' 3 2 = 0) && decide (f.va.extractLsb' 3 2 = 0) && decide (f.vd.extractLsb' 3 2 = 0) && (f.vd.extractLsb' 0 3 != 0) && !f.la && !f.s) (.kxor f.k (f.vb.extractLsb' 0 3) (f.va.extractLsb' 0 3) (f.vd.extractLsb' 0 3))
  | 3 => only (decide (f.vb.extractLsb' 3 2 = 0) && decide (f.va.extractLsb' 3 2 = 0) && decide (f.vd.extractLsb' 3 2 = 0) && (f.vd.extractLsb' 0 3 != 0) && !f.la && !f.s) (.kandn f.k (f.vb.extractLsb' 0 3) (f.va.extractLsb' 0 3) (f.vd.extractLsb' 0 3))
  | 4 => only (decide (f.va.extractLsb' 3 2 = 0) && decide (f.vd.extractLsb' 3 2 = 0) && (f.vd.extractLsb' 0 3 != 0) && !f.la && !f.s && decide (f.vb = 0)) (.knot f.k (f.va.extractLsb' 0 3) (f.vd.extractLsb' 0 3))
  | 5 => only (decide (f.vd.extractLsb' 3 2 = 0) && (f.vd.extractLsb' 0 3 != 0) && !f.la && f.s && decide (f.va = 0)) (.kmov f.k f.vb (f.vd.extractLsb' 0 3))
  | 6 => only (decide (f.va.extractLsb' 3 2 = 0) && !f.la && !f.s && decide (f.vb = 0)) (.kread f.k (f.va.extractLsb' 0 3) f.vd)
  | 7 => only (decide (f.va.extractLsb' 3 2 = 0) && !f.la && !f.s && decide (f.vb = 0)) (.kpopc f.k (f.va.extractLsb' 0 3) f.vd)
  | 8 => only (decide (f.va.extractLsb' 3 2 = 0) && !f.la && !f.s && decide (f.vb = 0)) (.kffs f.k (f.va.extractLsb' 0 3) f.vd)
  | _ => .error .reservedFunction

/-- Major 0x27. -/
noncomputable def decodeVload (f : VM) : Except DecodeError Instr :=
  match f.sub.toNat with
  | 0 => only (decide (f.zero = 0) && (f.esz != 3) && decide (f.x = 0)) (.vld f.esz f.k f.base f.vd)
  | 1 => only (decide (f.zero = 0) && (f.esz != 3)) (.vlds f.esz f.k f.x f.base f.vd)
  | 2 => only (decide (f.zero = 0) && (f.esz != 3) && decide (f.x = 0)) (.vldbc f.esz f.k f.base f.vd)
  | 3 => only (decide (f.zero = 0) && decide (f.esz = 0) && decide (f.k = 0) && decide (f.x = 0)) (.vldb f.base f.vd)
  | _ => .error .reservedFunction

/-- Major 0x28. -/
noncomputable def decodeVstore (f : VM) : Except DecodeError Instr :=
  match f.sub.toNat with
  | 0 => only (decide (f.zero = 0) && (f.esz != 3) && decide (f.x = 0)) (.vst f.esz f.k f.base f.vd)
  | 1 => only (decide (f.zero = 0) && (f.esz != 3)) (.vsts f.esz f.k f.x f.base f.vd)
  | _ => .error .reservedFunction

/-- Major 0x29. -/
noncomputable def decodeVindex (f : VM) : Except DecodeError Instr :=
  match f.sub.toNat with
  | 0 => only (decide (f.zero = 0) && (f.esz != 3)) (.vgather f.esz f.k f.x f.base f.vd)
  | 1 => only (decide (f.zero = 0) && (f.esz != 3)) (.vscatter f.esz f.k f.x f.base f.vd)
  | _ => .error .reservedFunction

/-- Major 0x2A. -/
def decodeVnarrow (f : VX) : Except DecodeError Instr :=
  match f.fn.toNat with
  | 0 => only (!f.s && decide (f.k = 0) && decide (f.vb = 0)) (.vqnt f.la f.va f.vd)
  | 1 => only (!f.s && decide (f.k = 0) && decide (f.vb = 0)) (.vdqnt f.la f.va f.vd)
  | 2 => only (!f.s && decide (f.k = 0)) (.vdot f.la f.vb f.va f.vd)
  | _ => .error .reservedFunction

/-- Major 0x2B. -/
def decodeVhist (f : VX) : Except DecodeError Instr :=
  match f.fn.toNat with
  | 0 => only (!f.s && decide (f.vb = 0)) (.vhist f.la f.k f.va f.vd)
  | _ => .error .reservedFunction

/-- Major 0x2C. -/
def decodeVintI (f : VX) : Except DecodeError Instr :=
  match f.fn.toNat with
  | 0 => only (!f.la && decide (f.va = 0)) (.vmovI (BitVec.ofBool f.s ++ f.vb) f.k f.vd)
  | 1 => .ok (.vaddI f.la (BitVec.ofBool f.s ++ f.vb) f.k f.va f.vd)
  | 2 => .ok (.vsubI f.la (BitVec.ofBool f.s ++ f.vb) f.k f.va f.vd)
  | 3 => .ok (.vmulI f.la (BitVec.ofBool f.s ++ f.vb) f.k f.va f.vd)
  | 4 => .ok (.vandI f.la (BitVec.ofBool f.s ++ f.vb) f.k f.va f.vd)
  | 5 => .ok (.vorI f.la (BitVec.ofBool f.s ++ f.vb) f.k f.va f.vd)
  | 6 => .ok (.vxorI f.la (BitVec.ofBool f.s ++ f.vb) f.k f.va f.vd)
  | 7 => only (!f.s) (.vshlI f.la f.k f.vb f.va f.vd)
  | 8 => only (!f.s) (.vshrI f.la f.k f.vb f.va f.vd)
  | 9 => .ok (.vminI f.la (BitVec.ofBool f.s ++ f.vb) f.k f.va f.vd)
  | 10 => .ok (.vmaxI f.la (BitVec.ofBool f.s ++ f.vb) f.k f.va f.vd)
  | 11 => only (!f.s) (.vsraI f.la f.k f.vb f.va f.vd)
  | 12 => .ok (.vminuI f.la (BitVec.ofBool f.s ++ f.vb) f.k f.va f.vd)
  | 13 => .ok (.vmaxuI f.la (BitVec.ofBool f.s ++ f.vb) f.k f.va f.vd)
  | _ => .error .reservedFunction

/-- The instruction of a 32-bit word (09 R247). -/
noncomputable def decode32 (w : BitVec 32) : Except DecodeError Instr :=
  match (w.extractLsb' 1 6).toNat with
  | 0x01 => decodeIntRR (RR.ofWord w)
  | 0x02 => decodeAddi (RI.ofWord w)
  | 0x03 => decodeAndi (RI.ofWord w)
  | 0x04 => decodeOri (RI.ofWord w)
  | 0x05 => decodeXori (RI.ofWord w)
  | 0x06 => decodeShiftImm (RI.ofWord w)
  | 0x07 => decodeCmpImm (RI.ofWord w)
  | 0x08 => decodeLui (U.ofWord w)
  | 0x09 => decodeLeapc (U.ofWord w)
  | 0x0A => decodeBit (BF.ofWord w)
  | 0x0B => decodeMulDiv (RR.ofWord w)
  | 0x0C => decodeScalarFp (RR.ofWord w)
  | 0x0D => decodeBranch (BR.ofWord w)
  | 0x0E => decodeJump (J.ofWord w)
  | 0x0F => decodeJumpReg (RI.ofWord w)
  | 0x10 => decodeLoad (M.ofWord w)
  | 0x11 => decodeStore (M.ofWord w)
  | 0x12 => decodeMulti (M.ofWord w)
  | 0x13 => decodeAtomic (RR.ofWord w)
  | 0x14 => decodeFence (RR.ofWord w)
  | 0x15 => decodeBarrier (RR.ofWord w)
  | 0x16 => decodeMessage (RR.ofWord w)
  | 0x17 => decodeThread (TC.ofWord w)
  | 0x18 => decodeTask (TC.ofWord w)
  | 0x19 => decodeTile (RR.ofWord w)
  | 0x1A => decodeMatrix (X.ofWord w)
  | 0x1B => decodeCopy (X.ofWord w)
  | 0x1C => decodeStream (RI.ofWord w)
  | 0x1D => decodeCsr (RI.ofWord w)
  | 0x1E => decodeSystem (RR.ofWord w)
  | 0x1F => decodePrefix (P.ofWord w)
  | 0x20 => decodeVint (VX.ofWord w)
  | 0x21 => decodeVfp (VX.ofWord w)
  | 0x22 => decodeVcmp (VX.ofWord w)
  | 0x23 => decodeVcvt (VX.ofWord w)
  | 0x24 => decodeVperm (VX.ofWord w)
  | 0x25 => decodeVred (VX.ofWord w)
  | 0x26 => decodeVmask (VX.ofWord w)
  | 0x27 => decodeVload (VM.ofWord w)
  | 0x28 => decodeVstore (VM.ofWord w)
  | 0x29 => decodeVindex (VM.ofWord w)
  | 0x2A => decodeVnarrow (VX.ofWord w)
  | 0x2B => decodeVhist (VX.ofWord w)
  | 0x2C => decodeVintI (VX.ofWord w)
  | _ => .error .reservedMajor

/-- The instruction of a halfword (09 R243, R244): every halfword with bit 0 clear is one. -/
noncomputable def decode16 (h : BitVec 16) : Instr :=
  match (h.extractLsb' 1 4).toNat with
  | 0 => if h = 0 then .nop else .vmov16 (h.getLsbD 15) (h.extractLsb' 10 5) (h.extractLsb' 5 5)
  | 1 => .vadd16 (h.getLsbD 15) (h.extractLsb' 10 5) (h.extractLsb' 5 5)
  | 2 => .vsub16 (h.getLsbD 15) (h.extractLsb' 10 5) (h.extractLsb' 5 5)
  | 3 => .vmul16 (h.getLsbD 15) (h.extractLsb' 10 5) (h.extractLsb' 5 5)
  | 4 => .vand16 (h.getLsbD 15) (h.extractLsb' 10 5) (h.extractLsb' 5 5)
  | 5 => .vor16 (h.getLsbD 15) (h.extractLsb' 10 5) (h.extractLsb' 5 5)
  | 6 => .vxor16 (h.getLsbD 15) (h.extractLsb' 10 5) (h.extractLsb' 5 5)
  | 7 => .vshl16 (h.getLsbD 15) (h.extractLsb' 10 5) (h.extractLsb' 5 5)
  | 8 => .vshr16 (h.getLsbD 15) (h.extractLsb' 10 5) (h.extractLsb' 5 5)
  | 9 => .vmin16 (h.getLsbD 15) (h.extractLsb' 10 5) (h.extractLsb' 5 5)
  | 10 => .vmax16 (h.getLsbD 15) (h.extractLsb' 10 5) (h.extractLsb' 5 5)
  | 11 => .vfadd16 (h.getLsbD 15) (h.extractLsb' 10 5) (h.extractLsb' 5 5)
  | 12 => .vfsub16 (h.getLsbD 15) (h.extractLsb' 10 5) (h.extractLsb' 5 5)
  | 13 => .vfmul16 (h.getLsbD 15) (h.extractLsb' 10 5) (h.extractLsb' 5 5)
  | 14 => .vfmin16 (h.getLsbD 15) (h.extractLsb' 10 5) (h.extractLsb' 5 5)
  | _ => .vfmax16 (h.getLsbD 15) (h.extractLsb' 10 5) (h.extractLsb' 5 5)

/-- Decodes the instruction at the head of a list of bytes, and gives the bytes after it. -/
noncomputable def decode : List Byte → Except DecodeError (Instr × List Byte)
  | b0 :: b1 :: rest =>
    if b0.getLsbD 0 then
      match rest with
      | b2 :: b3 :: rest' => (decode32 (b3 ++ b2 ++ b1 ++ b0)).map (fun i => (i, rest'))
      | _ => .error .truncated
    else .ok (decode16 (b1 ++ b0), rest)
  | _ => .error .truncated

/-! ## Encoding -/

/-- The encoding of an instruction: a halfword, a word, or none for a step that is no instruction. -/
inductive Code where
  | none
  | half (h : BitVec 16)
  | word (w : BitVec 32)
  deriving DecidableEq, Repr

/-- The size code of `.w` and `.d` (09 R248). -/
def wd (z : Bool) : BitVec 3 := if z then 3 else 2

/-- A three-bit code with the given low bits. -/
def bit3 (b0 b1 : Bool) : BitVec 3 := 0#1 ++ BitVec.ofBool b1 ++ BitVec.ofBool b0

/-- A 16-bit instruction (09 R244). -/
def halfWord (m : Bool) (b d : BitVec 5) (op : BitVec 4) : BitVec 16 := BitVec.ofBool m ++ b ++ d ++ op ++ 0#1

/-- The encoding of every row of the code tables. -/
def Instr.code : Instr → Code
  | .add z m n b a d => .word (RR.toWord 1 (.mk (wd z) 0 m n b a d))
  | .sub z m n b a d => .word (RR.toWord 1 (.mk (wd z) 1 m n b a d))
  | .and z m n b a d => .word (RR.toWord 1 (.mk (wd z) 2 m n b a d))
  | .or z m n b a d => .word (RR.toWord 1 (.mk (wd z) 3 m n b a d))
  | .xor z m n b a d => .word (RR.toWord 1 (.mk (wd z) 4 m n b a d))
  | .andn z m n b a d => .word (RR.toWord 1 (.mk (wd z) 5 m n b a d))
  | .sll z m n b a d => .word (RR.toWord 1 (.mk (wd z) 6 m n b a d))
  | .srl z m n b a d => .word (RR.toWord 1 (.mk (wd z) 7 m n b a d))
  | .sra z m n b a d => .word (RR.toWord 1 (.mk (wd z) 8 m n b a d))
  | .ror z m n b a d => .word (RR.toWord 1 (.mk (wd z) 9 m n b a d))
  | .min z m n b a d => .word (RR.toWord 1 (.mk (wd z) 10 m n b a d))
  | .max z m n b a d => .word (RR.toWord 1 (.mk (wd z) 11 m n b a d))
  | .minu z m n b a d => .word (RR.toWord 1 (.mk (wd z) 12 m n b a d))
  | .maxu z m n b a d => .word (RR.toWord 1 (.mk (wd z) 13 m n b a d))
  | .slt z m n b a d => .word (RR.toWord 1 (.mk (wd z) 14 m n b a d))
  | .sltu z m n b a d => .word (RR.toWord 1 (.mk (wd z) 15 m n b a d))
  | .seq z m n b a d => .word (RR.toWord 1 (.mk (wd z) 16 m n b a d))
  | .sne z m n b a d => .word (RR.toWord 1 (.mk (wd z) 17 m n b a d))
  | .cmovz m n b a d => .word (RR.toWord 1 (.mk 3 18 m n b a d))
  | .cmovnz m n b a d => .word (RR.toWord 1 (.mk 3 19 m n b a d))
  | .clz z n a d => .word (RR.toWord 1 (.mk (wd z) 20 false n 0 a d))
  | .ctz z n a d => .word (RR.toWord 1 (.mk (wd z) 21 false n 0 a d))
  | .popc z n a d => .word (RR.toWord 1 (.mk (wd z) 22 false n 0 a d))
  | .mul z m n b a d => .word (RR.toWord 11 (.mk (wd z) 0 m n b a d))
  | .mulh z m n b a d => .word (RR.toWord 11 (.mk (wd z) 1 m n b a d))
  | .mulhu z m n b a d => .word (RR.toWord 11 (.mk (wd z) 2 m n b a d))
  | .mulhsu z m n b a d => .word (RR.toWord 11 (.mk (wd z) 3 m n b a d))
  | .div z m n b a d => .word (RR.toWord 11 (.mk (wd z) 4 m n b a d))
  | .divu z m n b a d => .word (RR.toWord 11 (.mk (wd z) 5 m n b a d))
  | .rem z m n b a d => .word (RR.toWord 11 (.mk (wd z) 6 m n b a d))
  | .remu z m n b a d => .word (RR.toWord 11 (.mk (wd z) 7 m n b a d))
  | .addi i n a d => .word (RI.toWord 2 (.mk i n a d))
  | .andi i n a d => .word (RI.toWord 3 (.mk i n a d))
  | .ori i n a d => .word (RI.toWord 4 (.mk i n a d))
  | .xori i n a d => .word (RI.toWord 5 (.mk i n a d))
  | .slli z c n a d => .word (RI.toWord 6 (.mk (0#4 ++ 1#1 ++ BitVec.ofBool z ++ 0#2 ++ c) n a d))
  | .srli z c n a d => .word (RI.toWord 6 (.mk (0#4 ++ 1#1 ++ BitVec.ofBool z ++ 1#2 ++ c) n a d))
  | .srai z c n a d => .word (RI.toWord 6 (.mk (0#4 ++ 1#1 ++ BitVec.ofBool z ++ 2#2 ++ c) n a d))
  | .rori z c n a d => .word (RI.toWord 6 (.mk (0#4 ++ 1#1 ++ BitVec.ofBool z ++ 3#2 ++ c) n a d))
  | .seqi i n a d => .word (RI.toWord 7 (.mk (0#2 ++ i) n a d))
  | .snei i n a d => .word (RI.toWord 7 (.mk (1#2 ++ i) n a d))
  | .slti i n a d => .word (RI.toWord 7 (.mk (2#2 ++ i) n a d))
  | .sltiu i n a d => .word (RI.toWord 7 (.mk (3#2 ++ i) n a d))
  | .lui i d => .word (U.toWord 8 (.mk i d))
  | .leapc i d => .word (U.toWord 9 (.mk i d))
  | .bfxu l p n a d => .word (BF.toWord 10 (.mk false l p false n a d))
  | .bfx l p n a d => .word (BF.toWord 10 (.mk true l p false n a d))
  | .bfi l p n a d => .word (BF.toWord 10 (.mk false l p true n a d))
  | .fadd m n b a d => .word (RR.toWord 12 (.mk 2 0 m n b a d))
  | .fsub m n b a d => .word (RR.toWord 12 (.mk 2 1 m n b a d))
  | .fmul m n b a d => .word (RR.toWord 12 (.mk 2 2 m n b a d))
  | .fma m n b a d => .word (RR.toWord 12 (.mk 2 3 m n b a d))
  | .fdiv m n b a d => .word (RR.toWord 12 (.mk 2 4 m n b a d))
  | .fcmp m n b a d => .word (RR.toWord 12 (.mk 2 5 m n b a d))
  | .fcvtif n a d => .word (RR.toWord 12 (.mk 2 6 false n 0 a d))
  | .fcvtfi n a d => .word (RR.toWord 12 (.mk 2 7 false n 0 a d))
  | .beq i b a => .word (BR.toWord 13 (.mk i 0 b a))
  | .bne i b a => .word (BR.toWord 13 (.mk i 1 b a))
  | .blt i b a => .word (BR.toWord 13 (.mk i 2 b a))
  | .bge i b a => .word (BR.toWord 13 (.mk i 3 b a))
  | .bltu i b a => .word (BR.toWord 13 (.mk i 4 b a))
  | .bgeu i b a => .word (BR.toWord 13 (.mk i 5 b a))
  | .j i => .word (J.toWord 14 (.mk i 0))
  | .call i l => .word (J.toWord 14 (.mk i l))
  | .jr i n a => .word (RI.toWord 15 (.mk i n a 0))
  | .callr i n a d => .word (RI.toWord 15 (.mk i n a d))
  | .lb o n b d => .word (M.toWord 16 (.mk o 0 false n b d))
  | .lh o n b d => .word (M.toWord 16 (.mk o 1 false n b d))
  | .lw o n b d => .word (M.toWord 16 (.mk o 2 false n b d))
  | .ld o n b d => .word (M.toWord 16 (.mk o 3 false n b d))
  | .lbu o n b d => .word (M.toWord 16 (.mk o 4 false n b d))
  | .lhu o n b d => .word (M.toWord 16 (.mk o 5 false n b d))
  | .lwu o n b d => .word (M.toWord 16 (.mk o 6 false n b d))
  | .sb o m n b d => .word (M.toWord 17 (.mk o 0 m n b d))
  | .sh o m n b d => .word (M.toWord 17 (.mk o 1 m n b d))
  | .sw o m n b d => .word (M.toWord 17 (.mk o 2 m n b d))
  | .sd o m n b d => .word (M.toWord 17 (.mk o 3 m n b d))
  | .ldm o c n b d => .word (M.toWord 18 (.mk o c false n b d))
  | .stm o c n b d => .word (M.toWord 18 (.mk o c true n b d))
  | .aadd z m n b a d => .word (RR.toWord 19 (.mk (wd z) 0 m n b a d))
  | .afadd z m n b a d => .word (RR.toWord 19 (.mk (wd z) 1 m n b a d))
  | .amin z m n b a d => .word (RR.toWord 19 (.mk (wd z) 2 m n b a d))
  | .amax z m n b a d => .word (RR.toWord 19 (.mk (wd z) 3 m n b a d))
  | .aminu z m n b a d => .word (RR.toWord 19 (.mk (wd z) 4 m n b a d))
  | .amaxu z m n b a d => .word (RR.toWord 19 (.mk (wd z) 5 m n b a d))
  | .aand z m n b a d => .word (RR.toWord 19 (.mk (wd z) 6 m n b a d))
  | .aor z m n b a d => .word (RR.toWord 19 (.mk (wd z) 7 m n b a d))
  | .axor z m n b a d => .word (RR.toWord 19 (.mk (wd z) 8 m n b a d))
  | .aswap z m n b a d => .word (RR.toWord 19 (.mk (wd z) 9 m n b a d))
  | .acas z m n b a d => .word (RR.toWord 19 (.mk (wd z) 10 m n b a d))
  | .fence s k => .word (RR.toWord 20 (.mk (s.zeroExtend 3) 0 false false 0 0 (k.zeroExtend 5)))
  | .tclr v d => .word (RR.toWord 20 (.mk (bit3 v false) 1 false false 0 0 d))
  | .tjoin w v n a d => .word (RR.toWord 20 (.mk (bit3 v w) 2 false n 0 a d))
  | .twait w n a => .word (RR.toWord 20 (.mk (bit3 false w) 3 false n 0 a 0))
  | .bar n a => .word (RR.toWord 21 (.mk 0 0 false n 0 a 0))
  | .baradd z m n b a d => .word (RR.toWord 21 (.mk (wd z) 1 m n b a d))
  | .barfadd m n b a d => .word (RR.toWord 21 (.mk 2 2 m n b a d))
  | .chsend m n b a => .word (RR.toWord 22 (.mk 0 0 m n b a 0))
  | .chrecv n a d => .word (RR.toWord 22 (.mk 0 1 false n 0 a d))
  | .amld z n a d => .word (RR.toWord 22 (.mk z 2 false n 0 a d))
  | .amst z m n b a => .word (RR.toWord 22 (.mk (z.zeroExtend 3) 3 m n b a 0))
  | .amopAadd z m n b a d => .word (RR.toWord 22 (.mk (wd z) 16 m n b a d))
  | .amopAfadd z m n b a d => .word (RR.toWord 22 (.mk (wd z) 17 m n b a d))
  | .amopAmin z m n b a d => .word (RR.toWord 22 (.mk (wd z) 18 m n b a d))
  | .amopAmax z m n b a d => .word (RR.toWord 22 (.mk (wd z) 19 m n b a d))
  | .amopAminu z m n b a d => .word (RR.toWord 22 (.mk (wd z) 20 m n b a d))
  | .amopAmaxu z m n b a d => .word (RR.toWord 22 (.mk (wd z) 21 m n b a d))
  | .amopAand z m n b a d => .word (RR.toWord 22 (.mk (wd z) 22 m n b a d))
  | .amopAor z m n b a d => .word (RR.toWord 22 (.mk (wd z) 23 m n b a d))
  | .amopAxor z m n b a d => .word (RR.toWord 22 (.mk (wd z) 24 m n b a d))
  | .amopAswap z m n b a d => .word (RR.toWord 22 (.mk (wd z) 25 m n b a d))
  | .amopAcas z m n b a d => .word (RR.toWord 22 (.mk (wd z) 26 m n b a d))
  | .fork p => .word (TC.toWord 23 (.mk 0 0 p 0))
  | .meet w p => .word (TC.toWord 23 (.mk w 0 p 1))
  | .meetC w q p => .word (TC.toWord 23 (.mk w q p 2))
  | .done => .word (TC.toWord 23 (.mk 0 0 0 3))
  | .align => .word (TC.toWord 23 (.mk 0 0 0 4))
  | .yield => .word (TC.toWord 23 (.mk 0 0 0 5))
  | .spawn p => .word (TC.toWord 24 (.mk 0 0 p 0))
  | .waitw => .word (TC.toWord 24 (.mk 0 0 0 1))
  | .taskend => .word (TC.toWord 24 (.mk 0 0 0 2))
  | .commit => .word (TC.toWord 24 (.mk 0 0 0 3))
  | .hrq q p => .word (TC.toWord 24 (.mk 0 q p 4))
  | .hrqSw q p => .word (TC.toWord 24 (.mk 1 q p 4))
  | .tdef b a d => .word (RR.toWord 25 (.mk 0 0 false false b a d))
  | .trel d => .word (RR.toWord 25 (.mk 0 1 false false 0 0 d))
  | .tstat a d => .word (RR.toWord 25 (.mk 0 2 false false 0 a d))
  | .twaitr d => .word (RR.toWord 25 (.mk 0 3 false false 0 0 d))
  | .tfill a d => .word (RR.toWord 25 (.mk 0 4 false false 0 a d))
  | .tcons d => .word (RR.toWord 25 (.mk 0 5 false false 0 0 d))
  | .mma z c e b a => .word (X.toWord 26 (.mk (bit3 c z) e 0 b a 0))
  | .mmac z c e b a d => .word (X.toWord 26 (.mk (bit3 c z) e 1 b a d))
  | .mzero c e => .word (X.toWord 26 (.mk (bit3 c false) e 2 0 0 0))
  | .mstore c e a => .word (X.toWord 26 (.mk (bit3 c false) e 3 0 a 0))
  | .mmask c e a => .word (X.toWord 26 (.mk (bit3 c false) e 4 0 a 0))
  | .mscale c e b a => .word (X.toWord 26 (.mk (bit3 c false) e 5 b a 0))
  | .cpy e a => .word (X.toWord 27 (.mk 0 e 0 0 a 0))
  | .cpyw e a => .word (X.toWord 27 (.mk 0 e 1 0 a 0))
  | .cpyq e a d => .word (X.toWord 27 (.mk 0 e 2 0 a d))
  | .cpyc e a => .word (X.toWord 27 (.mk 0 e 3 0 a 0))
  | .bstake c d => .word (RI.toWord 28 (.mk (0#3 ++ 0#4 ++ c) false 0 d))
  | .bspeek c d => .word (RI.toWord 28 (.mk (1#3 ++ 0#4 ++ c) false 0 d))
  | .bsemit c n a => .word (RI.toWord 28 (.mk (2#3 ++ 0#4 ++ c) n a 0))
  | .bsskip c => .word (RI.toWord 28 (.mk (3#3 ++ 0#4 ++ c) false 0 0))
  | .bsalign c => .word (RI.toWord 28 (.mk (4#3 ++ 0#4 ++ c) false 0 0))
  | .csrr c d => .word (RI.toWord 29 (.mk (0#2 ++ c) false 0 d))
  | .csrw c n a d => .word (RI.toWord 29 (.mk (1#2 ++ c) n a d))
  | .csrs c n a d => .word (RI.toWord 29 (.mk (2#2 ++ c) n a d))
  | .csrc c n a d => .word (RI.toWord 29 (.mk (3#2 ++ c) n a d))
  | .trap b => .word (RR.toWord 30 (.mk 0 0 false false b 0 0))
  | .eret => .word (RR.toWord 30 (.mk 0 1 false false 0 0 0))
  | .halt => .word (RR.toWord 30 (.mk 0 2 false false 0 0 0))
  | .dbg b => .word (RR.toWord 30 (.mk 0 3 false false b 0 0))
  | .tlbw m n b a => .word (RR.toWord 30 (.mk 0 4 m n b a 0))
  | .tlbi t s n a d => .word (RR.toWord 30 (.mk (BitVec.ofBool t ++ s) 5 false n 0 a d))
  | .cwb n a => .word (RR.toWord 30 (.mk 0 6 false n 0 a 0))
  | .cinv n a => .word (RR.toWord 30 (.mk 0 7 false n 0 a 0))
  | .fmt s r d b a => .word (P.toWord 31 (.mk 0 s r d b a))
  | .vmov s k b d => .word (VX.toWord 32 (.mk 0 false s k b 0 d))
  | .vadd n s k b a d => .word (VX.toWord 32 (.mk 1 n s k b a d))
  | .vsub n s k b a d => .word (VX.toWord 32 (.mk 2 n s k b a d))
  | .vmul n s k b a d => .word (VX.toWord 32 (.mk 3 n s k b a d))
  | .vand n s k b a d => .word (VX.toWord 32 (.mk 4 n s k b a d))
  | .vor n s k b a d => .word (VX.toWord 32 (.mk 5 n s k b a d))
  | .vxor n s k b a d => .word (VX.toWord 32 (.mk 6 n s k b a d))
  | .vshl n s k b a d => .word (VX.toWord 32 (.mk 7 n s k b a d))
  | .vshr n s k b a d => .word (VX.toWord 32 (.mk 8 n s k b a d))
  | .vmin n s k b a d => .word (VX.toWord 32 (.mk 9 n s k b a d))
  | .vmax n s k b a d => .word (VX.toWord 32 (.mk 10 n s k b a d))
  | .vsra n s k b a d => .word (VX.toWord 32 (.mk 11 n s k b a d))
  | .vminu n s k b a d => .word (VX.toWord 32 (.mk 12 n s k b a d))
  | .vmaxu n s k b a d => .word (VX.toWord 32 (.mk 13 n s k b a d))
  | .vmulhu n s k b a d => .word (VX.toWord 32 (.mk 14 n s k b a d))
  | .vmadd n s k b a d => .word (VX.toWord 32 (.mk 15 n s k b a d))
  | .vmovI i k d => .word (VX.toWord 44 (.mk 0 false (i.getLsbD 5) k (i.extractLsb' 0 5) 0 d))
  | .vaddI n i k a d => .word (VX.toWord 44 (.mk 1 n (i.getLsbD 5) k (i.extractLsb' 0 5) a d))
  | .vsubI n i k a d => .word (VX.toWord 44 (.mk 2 n (i.getLsbD 5) k (i.extractLsb' 0 5) a d))
  | .vmulI n i k a d => .word (VX.toWord 44 (.mk 3 n (i.getLsbD 5) k (i.extractLsb' 0 5) a d))
  | .vandI n i k a d => .word (VX.toWord 44 (.mk 4 n (i.getLsbD 5) k (i.extractLsb' 0 5) a d))
  | .vorI n i k a d => .word (VX.toWord 44 (.mk 5 n (i.getLsbD 5) k (i.extractLsb' 0 5) a d))
  | .vxorI n i k a d => .word (VX.toWord 44 (.mk 6 n (i.getLsbD 5) k (i.extractLsb' 0 5) a d))
  | .vshlI n k i a d => .word (VX.toWord 44 (.mk 7 n false k i a d))
  | .vshrI n k i a d => .word (VX.toWord 44 (.mk 8 n false k i a d))
  | .vminI n i k a d => .word (VX.toWord 44 (.mk 9 n (i.getLsbD 5) k (i.extractLsb' 0 5) a d))
  | .vmaxI n i k a d => .word (VX.toWord 44 (.mk 10 n (i.getLsbD 5) k (i.extractLsb' 0 5) a d))
  | .vsraI n k i a d => .word (VX.toWord 44 (.mk 11 n false k i a d))
  | .vminuI n i k a d => .word (VX.toWord 44 (.mk 12 n (i.getLsbD 5) k (i.extractLsb' 0 5) a d))
  | .vmaxuI n i k a d => .word (VX.toWord 44 (.mk 13 n (i.getLsbD 5) k (i.extractLsb' 0 5) a d))
  | .vfadd n s k b a d => .word (VX.toWord 33 (.mk 0 n s k b a d))
  | .vfsub n s k b a d => .word (VX.toWord 33 (.mk 1 n s k b a d))
  | .vfmul n s k b a d => .word (VX.toWord 33 (.mk 2 n s k b a d))
  | .vfmin n s k b a d => .word (VX.toWord 33 (.mk 3 n s k b a d))
  | .vfmax n s k b a d => .word (VX.toWord 33 (.mk 4 n s k b a d))
  | .vfma n s k b a d => .word (VX.toWord 33 (.mk 5 n s k b a d))
  | .vfdiv n s k b a d => .word (VX.toWord 33 (.mk 6 n s k b a d))
  | .vfsqrt n k a d => .word (VX.toWord 33 (.mk 7 n false k 0 a d))
  | .vfabs n k a d => .word (VX.toWord 33 (.mk 8 n false k 0 a d))
  | .vfneg n k a d => .word (VX.toWord 33 (.mk 9 n false k 0 a d))
  | .vceq n s k b a d => .word (VX.toWord 34 (.mk 0 n s k b a (d.zeroExtend 5)))
  | .vcne n s k b a d => .word (VX.toWord 34 (.mk 1 n s k b a (d.zeroExtend 5)))
  | .vclt n s k b a d => .word (VX.toWord 34 (.mk 2 n s k b a (d.zeroExtend 5)))
  | .vcle n s k b a d => .word (VX.toWord 34 (.mk 3 n s k b a (d.zeroExtend 5)))
  | .vcltu n s k b a d => .word (VX.toWord 34 (.mk 4 n s k b a (d.zeroExtend 5)))
  | .vcleu n s k b a d => .word (VX.toWord 34 (.mk 5 n s k b a (d.zeroExtend 5)))
  | .vfceq n s k b a d => .word (VX.toWord 34 (.mk 6 n s k b a (d.zeroExtend 5)))
  | .vfclt n s k b a d => .word (VX.toWord 34 (.mk 7 n s k b a (d.zeroExtend 5)))
  | .vfcle n s k b a d => .word (VX.toWord 34 (.mk 8 n s k b a (d.zeroExtend 5)))
  | .vcvt n k a d => .word (VX.toWord 35 (.mk 0 n false k 0 a d))
  | .vcvtif n k a d => .word (VX.toWord 35 (.mk 1 n false k 0 a d))
  | .vcvtuf n k a d => .word (VX.toWord 35 (.mk 2 n false k 0 a d))
  | .vcvtfi n k a d => .word (VX.toWord 35 (.mk 3 n false k 0 a d))
  | .vcvtfu n k a d => .word (VX.toWord 35 (.mk 4 n false k 0 a d))
  | .vperm n s k b a d => .word (VX.toWord 36 (.mk 0 n s k b a d))
  | .vslideup n s k b a d => .word (VX.toWord 36 (.mk 1 n s k b a d))
  | .vslidedn n s k b a d => .word (VX.toWord 36 (.mk 2 n s k b a d))
  | .vziplo n s k b a d => .word (VX.toWord 36 (.mk 3 n s k b a d))
  | .vziphi n s k b a d => .word (VX.toWord 36 (.mk 4 n s k b a d))
  | .vcompress n k a d => .word (VX.toWord 36 (.mk 5 n false k 0 a d))
  | .vexpand n k a d => .word (VX.toWord 36 (.mk 6 n false k 0 a d))
  | .vextr n b a d => .word (VX.toWord 36 (.mk 7 n true 0 b a d))
  | .vradd n k a d => .word (VX.toWord 37 (.mk 0 n false k 0 a d))
  | .vrmin n k a d => .word (VX.toWord 37 (.mk 1 n false k 0 a d))
  | .vrmax n k a d => .word (VX.toWord 37 (.mk 2 n false k 0 a d))
  | .vrand n k a d => .word (VX.toWord 37 (.mk 3 n false k 0 a d))
  | .vror n k a d => .word (VX.toWord 37 (.mk 4 n false k 0 a d))
  | .vrxor n k a d => .word (VX.toWord 37 (.mk 5 n false k 0 a d))
  | .vrfadd n k a d => .word (VX.toWord 37 (.mk 6 n false k 0 a d))
  | .vrfmax n k a d => .word (VX.toWord 37 (.mk 7 n false k 0 a d))
  | .kand k b a d => .word (VX.toWord 38 (.mk 0 false false k (b.zeroExtend 5) (a.zeroExtend 5) (d.zeroExtend 5)))
  | .kor k b a d => .word (VX.toWord 38 (.mk 1 false false k (b.zeroExtend 5) (a.zeroExtend 5) (d.zeroExtend 5)))
  | .kxor k b a d => .word (VX.toWord 38 (.mk 2 false false k (b.zeroExtend 5) (a.zeroExtend 5) (d.zeroExtend 5)))
  | .kandn k b a d => .word (VX.toWord 38 (.mk 3 false false k (b.zeroExtend 5) (a.zeroExtend 5) (d.zeroExtend 5)))
  | .knot k a d => .word (VX.toWord 38 (.mk 4 false false k 0 (a.zeroExtend 5) (d.zeroExtend 5)))
  | .kmov k b d => .word (VX.toWord 38 (.mk 5 false true k b 0 (d.zeroExtend 5)))
  | .kread k a d => .word (VX.toWord 38 (.mk 6 false false k 0 (a.zeroExtend 5) d))
  | .kpopc k a d => .word (VX.toWord 38 (.mk 7 false false k 0 (a.zeroExtend 5) d))
  | .kffs k a d => .word (VX.toWord 38 (.mk 8 false false k 0 (a.zeroExtend 5) d))
  | .vqnt n a d => .word (VX.toWord 42 (.mk 0 n false 0 0 a d))
  | .vdqnt n a d => .word (VX.toWord 42 (.mk 1 n false 0 0 a d))
  | .vdot n b a d => .word (VX.toWord 42 (.mk 2 n false 0 b a d))
  | .vhist n k a d => .word (VX.toWord 43 (.mk 0 n false k 0 a d))
  | .vld e k a d => .word (VM.toWord 39 (.mk 0 0 e k 0 a d))
  | .vlds e k t a d => .word (VM.toWord 39 (.mk 0 1 e k t a d))
  | .vldbc e k a d => .word (VM.toWord 39 (.mk 0 2 e k 0 a d))
  | .vldb a d => .word (VM.toWord 39 (.mk 0 3 0 0 0 a d))
  | .vst e k a d => .word (VM.toWord 40 (.mk 0 0 e k 0 a d))
  | .vsts e k t a d => .word (VM.toWord 40 (.mk 0 1 e k t a d))
  | .vgather e k x a d => .word (VM.toWord 41 (.mk 0 0 e k x a d))
  | .vscatter e k x a d => .word (VM.toWord 41 (.mk 0 1 e k x a d))
  | .nop => .half 0
  | .vmov16 m b d => .half (halfWord m b d 0)
  | .vadd16 m b d => .half (halfWord m b d 1)
  | .vsub16 m b d => .half (halfWord m b d 2)
  | .vmul16 m b d => .half (halfWord m b d 3)
  | .vand16 m b d => .half (halfWord m b d 4)
  | .vor16 m b d => .half (halfWord m b d 5)
  | .vxor16 m b d => .half (halfWord m b d 6)
  | .vshl16 m b d => .half (halfWord m b d 7)
  | .vshr16 m b d => .half (halfWord m b d 8)
  | .vmin16 m b d => .half (halfWord m b d 9)
  | .vmax16 m b d => .half (halfWord m b d 10)
  | .vfadd16 m b d => .half (halfWord m b d 11)
  | .vfsub16 m b d => .half (halfWord m b d 12)
  | .vfmul16 m b d => .half (halfWord m b d 13)
  | .vfmin16 m b d => .half (halfWord m b d 14)
  | .vfmax16 m b d => .half (halfWord m b d 15)
  | .longLatencyResult _ => .none
  | .barrierArrival _ => .none
  | .activeMessage _ _ => .none
  | .meetRegistration _ => .none
  | .meetDeadline _ _ _ => .none
  | .quiescenceRelease _ => .none
  | .alignTimeout _ => .none
  | .forwardedRecordArrival _ => .none
  | .taskDispatch _ => .none
  | .taskStartFreeContext _ => .none
  | .taskSteal _ => .none
  | .tileOperandsConsumed _ _ => .none
  | .mmaStep _ => .none
  | .mstoreFillStep _ => .none
  | .accumulatorClear _ _ => .none
  | .engineCommandStart _ => .none
  | .engineChunkStart _ => .none
  | .engineFinalStatus _ _ => .none
  | .engineReply _ _ => .none
  | .engineAck _ _ => .none
  | .engineSettle _ _ => .none
  | .registerWrite _ _ => .none
  | .mcWrite _ _ => .none
  | .lgrantWrite _ _ => .none
  | .srseedWrite _ _ => .none
  | .xfringWrite _ _ => .none
  | .xfheadWrite _ _ => .none
  | .xfclaimRead _ _ => .none
  | .transformWake _ => .none
  | .clpartWrite _ _ => .none
  | .clpartLeavingLine _ => .none
  | .clpartShrinkComplete _ => .none
  | .hclrGo _ _ => .none
  | .hclrComplete _ => .none
  | .hearthUpdate _ => .none
  | .hearthSummaryBroadcast _ => .none
  | .hearthSummaryApply _ _ => .none
  | .tlbiCompletion _ => .none
  | .cwbWritebackDone _ => .none
  | .registerRefill _ => .none
  | .performLoad _ _ => .none
  | .performStore _ _ => .none
  | .performAtomic _ _ => .none
  | .recall _ => .none
  | .l1Eviction _ _ => .none
  | .processReply _ _ => .none
  | .processAck _ _ => .none
  | .processAtomicReply _ _ => .none
  | .processInv _ _ => .none
  | .processSettle _ _ => .none
  | .bankDrowsy _ _ => .none
  | .bankWake _ _ => .none
  | .coreGate _ => .none
  | .coreWake _ => .none
  | .expanderExpandComplete _ _ _ => .none
  | .expanderCompressComplete _ _ => .none
  | .tscMessageArrival _ => .none
  | .tlbWriteback _ => .none
  | .tscMsgRead _ => .none
  | .tinboxPop _ => .none
  | .tinboxDefer _ => .none
  | .tfpost _ _ => .none
  | .tfattach _ _ => .none
  | .faultAnswerRetry _ _ _ => .none
  | .faultAnswerKill _ _ _ => .none
  | .faultAnswerTimeout _ _ => .none
  | .fetchBlockDelivery _ _ _ => .none
  | .ebudgetRefill => .none
  | .channelDeadlockScan _ => .none
  | .qtailWrite _ _ _ => .none
  | .qcfgWrite _ _ _ => .none
  | .nopEntry _ _ => .none
  | .launchEntry _ _ => .none
  | .grun _ _ => .none
  | .gpatch _ _ => .none
  | .cancelEntry _ _ => .none
  | .gfree _ _ => .none
  | .reservedEntry _ _ => .none
  | .graphNodeAccept _ _ _ => .none
  | .cancelArrival _ _ => .none
  | .allocatorPass => .none
  | .launchStart _ => .none
  | .usageAccounting => .none
  | .preemptContext _ _ => .none
  | .preemptCore _ _ => .none
  | .preemptLaunch _ _ => .none
  | .preemptionSave _ => .none
  | .preemptionLimitExpiry _ => .none
  | .contextRestore _ _ _ => .none
  | .contextResume _ => .none
  | .biasFlipToHost _ => .none
  | .biasFlipToDevice _ => .none
  | .biasFlipComplete _ => .none
  | .cxlMemRead _ _ => .none
  | .cxlMemWrite _ _ _ => .none
  | .cxlIoRequest _ _ _ _ _ => .none
  | .tscStoreLoad _ _ => .none
  | .heartbeat _ => .none
  | .heartbeatTimeout _ => .none
  | .progressTimeout _ => .none
  | .escalationTimeout _ => .none
  | .mailboxUpdate => .none
  | .liveReplacementRestart _ => .none
  | .mailboxQuench => .none
  | .mailboxLoadimg => .none
  | .mailboxReserved => .none
  | .coldBoot => .none
  | .packageReset => .none
  | .ioDieWatchdogExpiry => .none
  | .droopStretch _ => .none
  | .powerAlarmAssert => .none
  | .powerAlarmDeassert => .none
  | .narrowClear => .none
  | .kdstateWrite _ => .none
  | .getVersion => .none
  | .getCapabilities => .none
  | .negotiateAlgorithms => .none
  | .getDigests => .none
  | .getCertificate _ => .none
  | .challenge _ => .none
  | .getMeasurements _ => .none
  | .debugRegisterRead _ _ _ => .none
  | .debugRegisterWrite _ _ _ _ => .none
  | .debugAccumulatorRead _ _ _ _ => .none
  | .dispenserTraceRead _ _ _ => .none
  | .debuggerResume _ => .none
  | .haltedContextFree _ => .none
  | .hostCacheSnoop _ => .none
  | .mmaskLastByteRead _ => .none

/-- The bytes of an encoding, lowest address first (09 R242). -/
def Code.bytes : Code → List Byte
  | .none => []
  | .half h => [h.extractLsb' 0 8, h.extractLsb' 8 8]
  | .word w => [w.extractLsb' 0 8, w.extractLsb' 8 8, w.extractLsb' 16 8, w.extractLsb' 24 8]

/-- Whether a row of the opcode table has an encoding. -/
def Instr.encoded (i : Instr) : Bool := i.code != .none

/-- The bytes of an instruction. -/
def encode (i : Instr) : List Byte := i.code.bytes

/-- The length of an instruction in bytes. -/
def Instr.len (i : Instr) : Nat := (encode i).length

/-- The bytes of an instruction whose bits are `w`, `nbits` of them given by the table and the rest 0; the longest
instruction has four bytes. -/
def tableBytes (nbits w : Nat) : List Byte :=
  let v := w % 2 ^ nbits
  [BitVec.ofNat 8 v, BitVec.ofNat 8 (v / 2 ^ 8), BitVec.ofNat 8 (v / 2 ^ 16), BitVec.ofNat 8 (v / 2 ^ 24)]

/-- The instruction that the decoder reads from bits numbered as the opcode table numbers them. -/
noncomputable def decodeTableWord (nbits w : Nat) : Option Instr :=
  if nbits = 0 then none
  else match decode (tableBytes nbits w) with
    | .ok (i, _) => some i
    | .error _ => none

end Sys2Proof
end

