-- ==== Sys2Proof/Machine/Crypto.lean ====
section
/-! DEFINITION. The standard algorithms that 22 R444 and R447 name and do not define: SHA-384 and SHA-256 (FIPS 180-4), ECDSA P-384
(FIPS 186-5), and LMS_SHA256_M32_H20 with LMOTS_SHA256_N32_W8 (RFC 8554). PRESUMED: their definitions are taken from those
standards (log entry 13). -/

namespace Sys2Proof.Machine

/-- The number that bytes stand for, the first one highest. -/
def beNum (bs : List Byte) : Nat := bs.foldl (fun acc b => 256 * acc + b.toNat) 0
/-- `n` bytes of a number, the highest first. -/
def beBytes (n x : Nat) : List Byte := (List.range n).map (fun i => BitVec.ofNat 8 (x / 256 ^ (n - 1 - i)))

/-! ## SHA-2 -/

/-- What tells one SHA-2 function from another: its rounds, and the amounts of its four mixing functions. -/
structure Sha2 where
  rounds : Nat
  big0 : Nat × Nat × Nat
  big1 : Nat × Nat × Nat
  small0 : Nat × Nat × Nat
  small1 : Nat × Nat × Nat

/-- Three rotations of a word. -/
def shaBig {w : Nat} (r : Nat × Nat × Nat) (x : BitVec w) : BitVec w :=
  x.rotateRight r.1 ^^^ x.rotateRight r.2.1 ^^^ x.rotateRight r.2.2
/-- Two rotations of a word and a shift. -/
def shaSmall {w : Nat} (r : Nat × Nat × Nat) (x : BitVec w) : BitVec w :=
  x.rotateRight r.1 ^^^ x.rotateRight r.2.1 ^^^ (x >>> r.2.2)

/-- `n` more words of a message schedule, whose last word stands first. -/
def shaSchedule {w : Nat} (p : Sha2) : Nat → List (BitVec w) → List (BitVec w)
  | 0, l => l
  | n + 1, l => shaSchedule p n
    ((shaSmall p.small1 (l.getD 1 0) + l.getD 6 0 + shaSmall p.small0 (l.getD 14 0) + l.getD 15 0) :: l)

/-- One round, with a constant and a word of the schedule. -/
def shaRound {w : Nat} (p : Sha2) (h : List (BitVec w)) (kw : BitVec w × BitVec w) : List (BitVec w) :=
  let x := fun i => h.getD i 0
  let t1 := x 7 + shaBig p.big1 (x 4) + ((x 4 &&& x 5) ^^^ (~~~(x 4) &&& x 6)) + kw.1 + kw.2
  let t2 := shaBig p.big0 (x 0) + ((x 0 &&& x 1) ^^^ (x 0 &&& x 2) ^^^ (x 1 &&& x 2))
  [t1 + t2, x 0, x 1, x 2, x 3 + t1, x 4, x 5, x 6]

/-- One block of a message. -/
def shaBlock {w : Nat} (p : Sha2) (k : List (BitVec w)) (h : List (BitVec w)) (b : List Byte) : List (BitVec w) :=
  let ws := (List.range 16).map (fun i => BitVec.ofNat w (beNum ((b.drop (w / 8 * i)).take (w / 8))))
  let sched := (shaSchedule p (p.rounds - 16) ws.reverse).reverse
  List.zipWith (· + ·) h ((k.zip sched).foldl (shaRound p) h)

/-- The blocks of a padded message, `n` of them. -/
def shaBlocks {w : Nat} (p : Sha2) (k : List (BitVec w)) : Nat → List (BitVec w) → List Byte → List (BitVec w)
  | 0, h, _ => h
  | n + 1, h, m => shaBlocks p k n (shaBlock p k h (m.take (2 * w))) (m.drop (2 * w))

/-- The padding of a message of `n` bytes in words of `w` bits. -/
def shaPad (w n : Nat) : List Byte :=
  0x80#8 :: (List.replicate ((2 * w - (n + 1 + w / 4) % (2 * w)) % (2 * w)) 0 ++ beBytes (w / 4) (8 * n))

/-- The digest words of a message. -/
def sha2 {w : Nat} (p : Sha2) (k h : List (BitVec w)) (m : List Byte) : List (BitVec w) :=
  let all := m ++ shaPad w m.length
  shaBlocks p k (all.length / (2 * w)) h all

/-- The round constants of SHA-384; the high halves of the first 64 are those of SHA-256. -/
def shaK : List Nat :=
  [0x428A2F98D728AE22, 0x7137449123EF65CD, 0xB5C0FBCFEC4D3B2F, 0xE9B5DBA58189DBBC,
   0x3956C25BF348B538, 0x59F111F1B605D019, 0x923F82A4AF194F9B, 0xAB1C5ED5DA6D8118,
   0xD807AA98A3030242, 0x12835B0145706FBE, 0x243185BE4EE4B28C, 0x550C7DC3D5FFB4E2,
   0x72BE5D74F27B896F, 0x80DEB1FE3B1696B1, 0x9BDC06A725C71235, 0xC19BF174CF692694] ++
  [0xE49B69C19EF14AD2, 0xEFBE4786384F25E3, 0x0FC19DC68B8CD5B5, 0x240CA1CC77AC9C65,
   0x2DE92C6F592B0275, 0x4A7484AA6EA6E483, 0x5CB0A9DCBD41FBD4, 0x76F988DA831153B5,
   0x983E5152EE66DFAB, 0xA831C66D2DB43210, 0xB00327C898FB213F, 0xBF597FC7BEEF0EE4,
   0xC6E00BF33DA88FC2, 0xD5A79147930AA725, 0x06CA6351E003826F, 0x142929670A0E6E70] ++
  [0x27B70A8546D22FFC, 0x2E1B21385C26C926, 0x4D2C6DFC5AC42AED, 0x53380D139D95B3DF,
   0x650A73548BAF63DE, 0x766A0ABB3C77B2A8, 0x81C2C92E47EDAEE6, 0x92722C851482353B,
   0xA2BFE8A14CF10364, 0xA81A664BBC423001, 0xC24B8B70D0F89791, 0xC76C51A30654BE30,
   0xD192E819D6EF5218, 0xD69906245565A910, 0xF40E35855771202A, 0x106AA07032BBD1B8] ++
  [0x19A4C116B8D2D0C8, 0x1E376C085141AB53, 0x2748774CDF8EEB99, 0x34B0BCB5E19B48A8,
   0x391C0CB3C5C95A63, 0x4ED8AA4AE3418ACB, 0x5B9CCA4F7763E373, 0x682E6FF3D6B2B8A3,
   0x748F82EE5DEFB2FC, 0x78A5636F43172F60, 0x84C87814A1F0AB72, 0x8CC702081A6439EC,
   0x90BEFFFA23631E28, 0xA4506CEBDE82BDE9, 0xBEF9A3F7B2C67915, 0xC67178F2E372532B] ++
  [0xCA273ECEEA26619C, 0xD186B8C721C0C207, 0xEADA7DD6CDE0EB1E, 0xF57D4F7FEE6ED178,
   0x06F067AA72176FBA, 0x0A637DC5A2C898A6, 0x113F9804BEF90DAE, 0x1B710B35131C471B,
   0x28DB77F523047D84, 0x32CAAB7B40C72493, 0x3C9EBE0A15C9BEBC, 0x431D67C49C100D4C,
   0x4CC5D4BECB3E42B6, 0x597F299CFC657E2A, 0x5FCB6FAB3AD6FAEC, 0x6C44198C4A475817]

/-- SHA-384. -/
def sha384 (m : List Byte) : List Byte :=
  let h : List (BitVec 64) :=
    [0xCBBB9D5DC1059ED8, 0x629A292A367CD507, 0x9159015A3070DD17, 0x152FECD8F70E5939,
     0x67332667FFC00B31, 0x8EB44A8768581511, 0xDB0C2E0D64F98FA7, 0x47B5481DBEFA4FA4]
  (((sha2 ⟨80, (28, 34, 39), (14, 18, 41), (1, 8, 7), (19, 61, 6)⟩ (shaK.map (BitVec.ofNat 64)) h m).take 6).map
    (fun x => beBytes 8 x.toNat)).flatten

/-- SHA-256. -/
def sha256 (m : List Byte) : List Byte :=
  let h : List (BitVec 32) :=
    [0x6A09E667, 0xBB67AE85, 0x3C6EF372, 0xA54FF53A, 0x510E527F, 0x9B05688C, 0x1F83D9AB, 0x5BE0CD19]
  ((sha2 ⟨64, (2, 13, 22), (6, 11, 25), (7, 18, 3), (17, 19, 10)⟩
    ((shaK.take 64).map (fun x => BitVec.ofNat 32 (x / 2 ^ 32))) h m).map (fun x => beBytes 4 x.toNat)).flatten

/-! ## ECDSA P-384 -/

/-- The prime of the field, the coefficient b, the order of the group and the base point of P-384. -/
def p384 : Nat := 2 ^ 384 - 2 ^ 128 - 2 ^ 96 + 2 ^ 32 - 1
def p384b : Nat :=
  0xB3312FA7E23EE7E4988E056BE3F82D19181D9C6EFE8141120314088F5013875AC656398D8A2ED19D2A85C8EDD3EC2AEF
def p384n : Nat :=
  0xFFFFFFFFFFFFFFFFFFFFFFFFFFFFFFFFFFFFFFFFFFFFFFFFC7634D81F4372DDF581A0DB248B0A77AECEC196ACCC52973
def p384g : Nat × Nat :=
  (0xAA87CA22BE8B05378EB1C71EF320AD746E1D3B628BA79B9859F741E082542A385502F25DBF55296C3A545E3872760AB7,
   0x3617DE4A96262C6F5D9E98BF9292DC29F8F41DBD289A147CE9DA3113B5F0B8C00A60B1CE1D7E819D7A431D7C90EA0E5F)

/-- A power modulo `m`, by `n` squarings. -/
def powMod (m : Nat) : Nat → Nat → Nat → Nat
  | 0, _, _ => 1 % m
  | n + 1, b, e => let r := powMod m n (b * b % m) (e / 2); if e % 2 = 1 then b * r % m else r
/-- The inverse modulo a prime below 2^384. -/
def invMod (m x : Nat) : Nat := powMod m 384 x (m - 2)
/-- A difference modulo `m`. -/
def subMod (m x y : Nat) : Nat := (x + (m - y % m)) % m

/-- The sum of two points of the curve; none is the point at infinity. -/
def ecAdd (a b : Option (Nat × Nat)) : Option (Nat × Nat) :=
  match a, b with
  | none, q => q
  | q, none => q
  | some (x, y), some (u, v) =>
    if x = u && (y + v) % p384 = 0 then none
    else
      let l := if x = u then 3 * subMod p384 (x * x) 1 * invMod p384 (2 * y) % p384
        else subMod p384 v y * invMod p384 (subMod p384 u x) % p384
      let r := subMod p384 (subMod p384 (l * l) x) u
      some (r, subMod p384 (l * subMod p384 x r) y)

/-- A multiple of a point, by `n` doublings. -/
def ecMul : Nat → Nat → Option (Nat × Nat) → Option (Nat × Nat)
  | 0, _, _ => none
  | n + 1, k, q => let r := ecMul n (k / 2) (ecAdd q q); if k % 2 = 1 then ecAdd q r else r

/-- Whether a signature, r then s, verifies over a digest under a key, x then y (each number 48 bytes, the highest first). -/
def ecdsaP384 (key digest sig : List Byte) : Bool :=
  let x := beNum (key.take 48)
  let y := beNum (key.drop 48)
  let r := beNum (sig.take 48)
  let s := beNum (sig.drop 48)
  let w := invMod p384n s
  decide (key.length = 96) && decide (sig.length = 96) && decide (x < p384) && decide (y < p384) &&
    decide (y * y % p384 = subMod p384 (x * x * x + p384b) (3 * x)) &&
    decide (1 ≤ r) && decide (r < p384n) && decide (1 ≤ s) && decide (s < p384n) &&
    match ecAdd (ecMul 384 (beNum digest * w % p384n) (some p384g)) (ecMul 384 (r * w % p384n) (some (x, y))) with
    | some (u, _) => decide (u % p384n = r)
    | none => false

/-- The public key of a secret key, x then y. -/
def ecdsaPublic (d : Nat) : List Byte :=
  match ecMul 384 (d % p384n) (some p384g) with
  | some (x, y) => beBytes 48 x ++ beBytes 48 y
  | none => []

/-- The signature of a digest under a secret key with a secret number: r then s. -/
def ecdsaSign (d secret : Nat) (digest : List Byte) : List Byte :=
  match ecMul 384 (secret % p384n) (some p384g) with
  | some (x, _) =>
    let r := x % p384n
    beBytes 48 r ++ beBytes 48 (invMod p384n secret * (beNum digest + r * d) % p384n)
  | none => []

/-! ## LMS -/

/-- A chain of an LM-OTS key: `n` more hashes, the last of them number 254. -/
def lmotsChain (pre : List Byte) : Nat → List Byte → List Byte
  | 0, t => t
  | n + 1, t => lmotsChain pre n (sha256 (pre ++ beBytes 1 (254 - n) ++ t))

/-- The LM-OTS public key that a signature, C then 34 chains, leads to (W8). -/
def lmotsKey (i q sig m : List Byte) : List Byte :=
  let h := sha256 (i ++ q ++ beBytes 2 0x8181 ++ sig.take 32 ++ m)
  let h2 := h ++ beBytes 2 ((h.map (fun b => 255 - b.toNat)).foldl (· + ·) 0)
  sha256 (i ++ q ++ beBytes 2 0x8080 ++ ((List.range 34).map (fun j =>
    lmotsChain (i ++ q ++ beBytes 2 j) (255 - (h2.getD j 0).toNat) ((sig.drop (32 + 32 * j)).take 32))).flatten)

/-- The root that a leaf and its path lead to; node `n` is the leaf's. -/
def lmsRoot (i : List Byte) : Nat → Nat → List Byte → List Byte → List Byte
  | 0, _, t, _ => t
  | k + 1, n, t, path =>
    let p := path.take 32
    lmsRoot i k (n / 2) (sha256 (i ++ beBytes 4 (n / 2) ++ beBytes 2 0x8383 ++ (if n % 2 = 1 then p ++ t else t ++ p))) (path.drop 32)

/-- Whether a signature verifies over a message under a public key: type 8, LM-OTS type 4, I, the root. -/
def lmsVerify (key m sig : List Byte) : Bool :=
  let i := (key.drop 8).take 16
  let q := sig.take 4
  let leaf := 2 ^ 20 + beNum q
  let k := lmotsKey i q ((sig.drop 8).take 1120) m
  decide (key.length = 56) && decide (sig.length = 1772) && decide (beNum (key.take 4) = 8) && decide (beNum ((key.drop 4).take 4) = 4) &&
    decide (beNum q < 2 ^ 20) && decide (beNum ((sig.drop 4).take 4) = 4) && decide (beNum ((sig.drop 1128).take 4) = 8) &&
    decide (lmsRoot i 20 leaf (sha256 (i ++ beBytes 4 leaf ++ beBytes 2 0x8282 ++ k)) (sig.drop 1132) = key.drop 24)

end Sys2Proof.Machine
end

