-- ==== Sys2Proof/Machine/ScalarFp.lean ====
section
/-! DEFINITION. Scalar floating point (10 R283 to R286). -/

namespace Sys2Proof.Machine

/-- A scalar FP instruction whose result and stochastic-rounding state `f` gives under the prefix's mode. -/
def scalarFp (s : State) (os : List Opnd) (d : BitVec 5) (f : Mode → Coded) : Except Stop State := do
  let m ← s.enterInstr .any .fp
  s.refilled os
  let r := f m
  .ok ((s.updMe (fun x => { x with srseed := r.2 })).putS os d (BitVec.ofNat 64 r.1) 4)

/-- The FP32 operand in the low half of a register. -/
def State.fx (s : State) (r : BitVec 5) : Ex := f32 (s.x r).toNat

/-- RDN is rounding code 2 (03 R94): an exact zero of opposite signs is -0 under it (10 R284). -/
def Mode.rdn (m : Mode) : Bool := decide (m.rnd = 2)

/-- FpResult under a mode. -/
def Mode.fp (m : Mode) (e : Ex) (seed : BitVec 32) : Coded := fpResult e m.rnd m.sat seed

/-- FADD (10 R284). -/
def execFadd (m n : Bool) (b a d : BitVec 5) (s : State) : Outcome :=
  settle s (scalarFp s (rrOps m n b a) d (fun q => q.fp (Ex.add q.rdn (s.fx a) (s.fx b)) s.me.srseed))

/-- FSUB (10 R284). -/
def execFsub (m n : Bool) (b a d : BitVec 5) (s : State) : Outcome :=
  settle s (scalarFp s (rrOps m n b a) d (fun q => q.fp (Ex.add q.rdn (s.fx a) (s.fx b).neg) s.me.srseed))

/-- FMUL (10 R284). -/
def execFmul (m n : Bool) (b a d : BitVec 5) (s : State) : Outcome :=
  settle s (scalarFp s (rrOps m n b a) d (fun q => q.fp ((s.fx a).mul (s.fx b)) s.me.srseed))

/-- FMA (10 R284): d is read; one rounding. -/
def execFma (m n : Bool) (b a d : BitVec 5) (s : State) : Outcome :=
  settle s (scalarFp s (rrOps m n b a ++ [.s d false]) d (fun q =>
    q.fp (Ex.add q.rdn (s.fx d) ((s.fx a).mul (s.fx b))) s.me.srseed))

/-- FDIV (10 R284), 20 cycles out of rotation (10 R274). -/
def execFdiv (m n : Bool) (b a d : BitVec 5) (s : State) : Outcome :=
  settle s (do
    let s1 ← scalarFp s (rrOps m n b a) d (fun q => q.fp ((s.fx a).div (s.fx b)) s.me.srseed)
    .ok (s1.longLatency 20))

/-- FCMP (10 R285): d[1:0] is the predicate. -/
def execFcmp (m n : Bool) (b a d : BitVec 5) (s : State) : Outcome :=
  settle s (scalarFp s (rrOps m n b a ++ [.s d false]) d (fun _ =>
    ((flag (fcmpHolds ((s.x d).extractLsb' 0 2) (s.fx a) (s.fx b))).toNat, s.me.srseed)))

/-- FCVTIF (10 R286). -/
def execFcvtif (n : Bool) (a d : BitVec 5) (s : State) : Outcome :=
  settle s (scalarFp s [.s a n] d (fun q => q.fp (Ex.ofInt (s.x a).toInt) s.me.srseed))

/-- FCVTFI (10 R286). -/
def execFcvtfi (n : Bool) (a d : BitVec 5) (s : State) : Outcome :=
  settle s (scalarFp s [.s a n] d (fun q =>
    let r := cvtToI64 (flushSrc 0 ((s.x a).toNat % 2 ^ 32)) q.rnd s.me.srseed
    (r.1.toNat, r.2)))

end Sys2Proof.Machine
end

