-- ==== Sys2Proof/Machine/Vector.lean ====
section
/-! DEFINITION. Integer lane operations: VINT, VINT.I and the 16-bit forms (11 R293, R296, R297; 09 R244, R264). -/

namespace Sys2Proof.Machine

/-- The sources of a lane operation: va, the second operand, the mask, and the destination where inactive lanes or the
operation itself read it (11 R293). -/
def laneOps (srcs : List Opnd) (k : BitVec 3) (d : BitVec 5) (readsD : Bool) : List Opnd :=
  srcs ++ [.k k] ++ (if k ≠ 0 || readsD then [.v d false] else [])

/-- The mask a lane operation runs under. -/
def State.maskOf (s : State) (k : BitVec 3) : BitVec 16 := s.me.kval k.toNat

/-- The old value of a vector register. -/
def State.vx (s : State) (r : BitVec 5) : BitVec 512 := s.me.vval r.toNat

/-- A lane operation whose lanes do not depend on one another. -/
def laneOp (s : State) (srcs : List Opnd) (k : BitVec 3) (d : BitVec 5) (readsD : Bool) (len : Nat)
    (f : Nat → BitVec 32) : Outcome :=
  settle s (do
    let _ ← s.enterInstr .core .plain
    let os := laneOps srcs k d readsD
    s.refilled os
    .ok (s.putV os d (maskedLanes (s.maskOf k) (s.vx d) f) (taintOf s.me os) len))

/-- Two-operand VINT (11 R296). -/
def vintOp (s : State) (n sc : Bool) (k : BitVec 3) (b a d : BitVec 5) (op : BitVec 32 → BitVec 32 → BitVec 32) : Outcome :=
  laneOp s [.v a n, vbOpnd sc b] k d false 4 (fun j => op (lane (s.vx a) j) (vbLane s.me sc b j))

/-- VINT.I: an immediate in every lane (11 R297). -/
def vintImm (s : State) (n : Bool) (y : BitVec 32) (k : BitVec 3) (a d : BitVec 5) (op : BitVec 32 → BitVec 32 → BitVec 32) :
    Outcome :=
  laneOp s [.v a n] k d false 4 (fun j => op (lane (s.vx a) j) y)

/-- The 16-bit form: vd is both the first source and the destination (09 R244). -/
def vint16 (s : State) (m : Bool) (b d : BitVec 5) (op : BitVec 32 → BitVec 32 → BitVec 32) : Outcome :=
  laneOp s [.v d false, .v b m] 0 d false 2 (fun j => op (lane (s.vx d) j) (lane (s.vx b) j))

/-- VMOV (11 R296): va is not read. -/
def execVmov (sc : Bool) (k : BitVec 3) (b d : BitVec 5) (s : State) : Outcome :=
  laneOp s [vbOpnd sc b] k d false 4 (fun j => vbLane s.me sc b j)

/-- VADD (11 R296). -/
def execVadd (n sc : Bool) (k : BitVec 3) (b a d : BitVec 5) (s : State) : Outcome :=
  vintOp s n sc k b a d opAdd

/-- VSUB (11 R296). -/
def execVsub (n sc : Bool) (k : BitVec 3) (b a d : BitVec 5) (s : State) : Outcome :=
  vintOp s n sc k b a d opSub

/-- VMUL (11 R296). -/
def execVmul (n sc : Bool) (k : BitVec 3) (b a d : BitVec 5) (s : State) : Outcome :=
  vintOp s n sc k b a d opMul

/-- VAND (11 R296). -/
def execVand (n sc : Bool) (k : BitVec 3) (b a d : BitVec 5) (s : State) : Outcome :=
  vintOp s n sc k b a d opAnd

/-- VOR (11 R296). -/
def execVor (n sc : Bool) (k : BitVec 3) (b a d : BitVec 5) (s : State) : Outcome :=
  vintOp s n sc k b a d opOr

/-- VXOR (11 R296). -/
def execVxor (n sc : Bool) (k : BitVec 3) (b a d : BitVec 5) (s : State) : Outcome :=
  vintOp s n sc k b a d opXor

/-- VSHL (11 R296). -/
def execVshl (n sc : Bool) (k : BitVec 3) (b a d : BitVec 5) (s : State) : Outcome :=
  vintOp s n sc k b a d opSll

/-- VSHR (11 R296). -/
def execVshr (n sc : Bool) (k : BitVec 3) (b a d : BitVec 5) (s : State) : Outcome :=
  vintOp s n sc k b a d opSrl

/-- VMIN (11 R296). -/
def execVmin (n sc : Bool) (k : BitVec 3) (b a d : BitVec 5) (s : State) : Outcome :=
  vintOp s n sc k b a d opMin

/-- VMAX (11 R296). -/
def execVmax (n sc : Bool) (k : BitVec 3) (b a d : BitVec 5) (s : State) : Outcome :=
  vintOp s n sc k b a d opMax

/-- VSRA (11 R296). -/
def execVsra (n sc : Bool) (k : BitVec 3) (b a d : BitVec 5) (s : State) : Outcome :=
  vintOp s n sc k b a d opSra

/-- VMINU (11 R296). -/
def execVminu (n sc : Bool) (k : BitVec 3) (b a d : BitVec 5) (s : State) : Outcome :=
  vintOp s n sc k b a d opMinu

/-- VMAXU (11 R296). -/
def execVmaxu (n sc : Bool) (k : BitVec 3) (b a d : BitVec 5) (s : State) : Outcome :=
  vintOp s n sc k b a d opMaxu

/-- VMULHU (11 R296). -/
def execVmulhu (n sc : Bool) (k : BitVec 3) (b a d : BitVec 5) (s : State) : Outcome :=
  vintOp s n sc k b a d opMulhu

/-- VMADD (11 R296): vd is read. -/
def execVmadd (n sc : Bool) (k : BitVec 3) (b a d : BitVec 5) (s : State) : Outcome :=
  laneOp s [.v a n, vbOpnd sc b] k d true 4 (fun j => lane (s.vx d) j + lane (s.vx a) j * vbLane s.me sc b j)

/-- VMOV of VINT.I (11 R297). -/
def execVmovI (i : BitVec 6) (k : BitVec 3) (d : BitVec 5) (s : State) : Outcome :=
  laneOp s [] k d false 4 (fun _ => i.signExtend 32)

/-- VADD of VINT.I (11 R297). -/
def execVaddI (n : Bool) (i : BitVec 6) (k : BitVec 3) (a d : BitVec 5) (s : State) : Outcome :=
  vintImm s n (i.signExtend 32) k a d opAdd

/-- VSUB of VINT.I (11 R297). -/
def execVsubI (n : Bool) (i : BitVec 6) (k : BitVec 3) (a d : BitVec 5) (s : State) : Outcome :=
  vintImm s n (i.signExtend 32) k a d opSub

/-- VMUL of VINT.I (11 R297). -/
def execVmulI (n : Bool) (i : BitVec 6) (k : BitVec 3) (a d : BitVec 5) (s : State) : Outcome :=
  vintImm s n (i.signExtend 32) k a d opMul

/-- VAND of VINT.I (11 R297). -/
def execVandI (n : Bool) (i : BitVec 6) (k : BitVec 3) (a d : BitVec 5) (s : State) : Outcome :=
  vintImm s n (i.signExtend 32) k a d opAnd

/-- VOR of VINT.I (11 R297). -/
def execVorI (n : Bool) (i : BitVec 6) (k : BitVec 3) (a d : BitVec 5) (s : State) : Outcome :=
  vintImm s n (i.signExtend 32) k a d opOr

/-- VXOR of VINT.I (11 R297). -/
def execVxorI (n : Bool) (i : BitVec 6) (k : BitVec 3) (a d : BitVec 5) (s : State) : Outcome :=
  vintImm s n (i.signExtend 32) k a d opXor

/-- VMIN of VINT.I (11 R297). -/
def execVminI (n : Bool) (i : BitVec 6) (k : BitVec 3) (a d : BitVec 5) (s : State) : Outcome :=
  vintImm s n (i.signExtend 32) k a d opMin

/-- VMAX of VINT.I (11 R297). -/
def execVmaxI (n : Bool) (i : BitVec 6) (k : BitVec 3) (a d : BitVec 5) (s : State) : Outcome :=
  vintImm s n (i.signExtend 32) k a d opMax

/-- VMINU of VINT.I (11 R297). -/
def execVminuI (n : Bool) (i : BitVec 6) (k : BitVec 3) (a d : BitVec 5) (s : State) : Outcome :=
  vintImm s n (i.signExtend 32) k a d opMinu

/-- VMAXU of VINT.I (11 R297). -/
def execVmaxuI (n : Bool) (i : BitVec 6) (k : BitVec 3) (a d : BitVec 5) (s : State) : Outcome :=
  vintImm s n (i.signExtend 32) k a d opMaxu

/-- VSHL of VINT.I (11 R297). -/
def execVshlI (n : Bool) (k : BitVec 3) (i a d : BitVec 5) (s : State) : Outcome :=
  vintImm s n (i.setWidth 32) k a d opSll

/-- VSHR of VINT.I (11 R297). -/
def execVshrI (n : Bool) (k : BitVec 3) (i a d : BitVec 5) (s : State) : Outcome :=
  vintImm s n (i.setWidth 32) k a d opSrl

/-- VSRA of VINT.I (11 R297). -/
def execVsraI (n : Bool) (k : BitVec 3) (i a d : BitVec 5) (s : State) : Outcome :=
  vintImm s n (i.setWidth 32) k a d opSra

/-- NOP, the halfword 0x0000 (09 R243): only the pc moves. -/
def execNop (s : State) : Outcome :=
  settle s (do
    let _ ← s.enterInstr .any .plain
    .ok (s.retire 2))

/-- VMOV, 16-bit (09 R244): vd is only written. -/
def execVmov16 (m : Bool) (b d : BitVec 5) (s : State) : Outcome :=
  laneOp s [.v b m] 0 d false 2 (fun j => lane (s.vx b) j)

/-- VADD, 16-bit (09 R244). -/
def execVadd16 (m : Bool) (b d : BitVec 5) (s : State) : Outcome := vint16 s m b d opAdd

/-- VSUB, 16-bit (09 R244). -/
def execVsub16 (m : Bool) (b d : BitVec 5) (s : State) : Outcome := vint16 s m b d opSub

/-- VMUL, 16-bit (09 R244). -/
def execVmul16 (m : Bool) (b d : BitVec 5) (s : State) : Outcome := vint16 s m b d opMul

/-- VAND, 16-bit (09 R244). -/
def execVand16 (m : Bool) (b d : BitVec 5) (s : State) : Outcome := vint16 s m b d opAnd

/-- VOR, 16-bit (09 R244). -/
def execVor16 (m : Bool) (b d : BitVec 5) (s : State) : Outcome := vint16 s m b d opOr

/-- VXOR, 16-bit (09 R244). -/
def execVxor16 (m : Bool) (b d : BitVec 5) (s : State) : Outcome := vint16 s m b d opXor

/-- VSHL, 16-bit (09 R244). -/
def execVshl16 (m : Bool) (b d : BitVec 5) (s : State) : Outcome := vint16 s m b d opSll

/-- VSHR, 16-bit (09 R244). -/
def execVshr16 (m : Bool) (b d : BitVec 5) (s : State) : Outcome := vint16 s m b d opSrl

/-- VMIN, 16-bit (09 R244). -/
def execVmin16 (m : Bool) (b d : BitVec 5) (s : State) : Outcome := vint16 s m b d opMin

/-- VMAX, 16-bit (09 R244). -/
def execVmax16 (m : Bool) (b d : BitVec 5) (s : State) : Outcome := vint16 s m b d opMax

end Sys2Proof.Machine
end

