-- ==== Sys2Proof/Machine/VectorFp.lean ====
section
/-! DEFINITION. Floating-point lane operations and conversions (11 R298, R299, R302, R303). -/

namespace Sys2Proof.Machine

/-- Lanes in ascending order, the stochastic-rounding state threaded through the active ones (03 R96). -/
def roundedLanes (mask : BitVec 16) (old : BitVec 512) (f : Nat → BitVec 32 → Coded) :
    List Nat → BitVec 32 → List (BitVec 32) × BitVec 32
  | [], seed => ([], seed)
  | j :: js, seed =>
    let r := if active mask j then f j seed else ((lane old j).toNat, seed)
    let rest := roundedLanes mask old f js r.2
    (BitVec.ofNat 32 r.1 :: rest.1, rest.2)

/-- A lane operation that rounds under the prefix's mode. -/
def vfpBody (s : State) (u : Use) (srcs : List Opnd) (k : BitVec 3) (d : BitVec 5) (readsD : Bool) (len : Nat)
    (f : Mode → Nat → BitVec 32 → Coded) : Except Stop State := do
  let m ← s.enterInstr .core u
  let os := laneOps srcs k d readsD
  s.refilled os
  let r := roundedLanes (s.maskOf k) (s.vx d) (f m) (List.range 16) s.me.srseed
  .ok ((s.updMe (fun x => { x with srseed := r.2 })).putV os d (ofLanes r.1) (taintOf s.me os) len)

/-- The FP32 value of a lane of va, and of the second operand. -/
def State.fa (s : State) (a : BitVec 5) (j : Nat) : Ex := f32 (lane (s.vx a) j).toNat
def State.fb (s : State) (sc : Bool) (b : BitVec 5) (j : Nat) : Ex := f32 (vbLane s.me sc b j).toNat

/-- VFMIN and VFMAX of 11 R299, on codes: any NaN gives the canonical one; -0 is less than +0. -/
def fminCode (x y : BitVec 32) : Nat :=
  let a := f32 x.toNat
  let b := f32 y.toNat
  if a.isNan || b.isNan then 0x7FC00000
  else if Ex.lt a b then x.toNat
  else if Ex.lt b a then y.toNat
  else if a.isNeg then x.toNat else y.toNat

def fmaxCode (x y : BitVec 32) : Nat :=
  let a := f32 x.toNat
  let b := f32 y.toNat
  if a.isNan || b.isNan then 0x7FC00000
  else if Ex.lt a b then y.toNat
  else if Ex.lt b a then x.toNat
  else if a.isNeg then y.toNat else x.toNat

/-- VFADD (11 R298). -/
def execVfadd (n sc : Bool) (k : BitVec 3) (b a d : BitVec 5) (s : State) : Outcome :=
  settle s (vfpBody s .fp [.v a n, vbOpnd sc b] k d false 4 (fun m j seed => m.fp (Ex.add m.rdn (s.fa a j) (s.fb sc b j)) seed))

/-- VFSUB (11 R298). -/
def execVfsub (n sc : Bool) (k : BitVec 3) (b a d : BitVec 5) (s : State) : Outcome :=
  settle s (vfpBody s .fp [.v a n, vbOpnd sc b] k d false 4 (fun m j seed => m.fp (Ex.add m.rdn (s.fa a j) (s.fb sc b j).neg) seed))

/-- VFMUL (11 R298). -/
def execVfmul (n sc : Bool) (k : BitVec 3) (b a d : BitVec 5) (s : State) : Outcome :=
  settle s (vfpBody s .fp [.v a n, vbOpnd sc b] k d false 4 (fun m j seed => m.fp ((s.fa a j).mul (s.fb sc b j)) seed))

/-- VFMIN (11 R299). -/
def execVfmin (n sc : Bool) (k : BitVec 3) (b a d : BitVec 5) (s : State) : Outcome :=
  settle s (vfpBody s .fp [.v a n, vbOpnd sc b] k d false 4 (fun _ j seed =>
    (fminCode (lane (s.vx a) j) (vbLane s.me sc b j), seed)))

/-- VFMAX (11 R299). -/
def execVfmax (n sc : Bool) (k : BitVec 3) (b a d : BitVec 5) (s : State) : Outcome :=
  settle s (vfpBody s .fp [.v a n, vbOpnd sc b] k d false 4 (fun _ j seed =>
    (fmaxCode (lane (s.vx a) j) (vbLane s.me sc b j), seed)))

/-- VFMA (11 R298): vd is read; one rounding. -/
def execVfma (n sc : Bool) (k : BitVec 3) (b a d : BitVec 5) (s : State) : Outcome :=
  settle s (vfpBody s .fp [.v a n, vbOpnd sc b] k d true 4 (fun m j seed =>
    m.fp (Ex.add m.rdn (s.fa d j) ((s.fa a j).mul (s.fb sc b j))) seed))

/-- VFDIV (11 R298), 20 cycles out of rotation (11 R295). -/
def execVfdiv (n sc : Bool) (k : BitVec 3) (b a d : BitVec 5) (s : State) : Outcome :=
  settle s (do
    let s1 ← vfpBody s .fp [.v a n, vbOpnd sc b] k d false 4 (fun m j seed => m.fp ((s.fa a j).div (s.fb sc b j)) seed)
    .ok (s1.longLatency 20))

/-- VFSQRT (11 R298), 20 cycles out of rotation (11 R295). -/
def execVfsqrt (n : Bool) (k : BitVec 3) (a d : BitVec 5) (s : State) : Outcome :=
  settle s (do
    let s1 ← vfpBody s .fp [.v a n] k d false 4 (fun m j seed => m.fp (s.fa a j).sqrt seed)
    .ok (s1.longLatency 20))

/-- VFABS (11 R299). -/
def execVfabs (n : Bool) (k : BitVec 3) (a d : BitVec 5) (s : State) : Outcome :=
  settle s (vfpBody s .fp [.v a n] k d false 4 (fun _ j seed =>
    (if (s.fa a j).isNan then 0x7FC00000 else (lane (s.vx a) j).toNat % 2 ^ 31, seed)))

/-- VFNEG (11 R299). -/
def execVfneg (n : Bool) (k : BitVec 3) (a d : BitVec 5) (s : State) : Outcome :=
  settle s (vfpBody s .fp [.v a n] k d false 4 (fun _ j seed =>
    (if (s.fa a j).isNan then 0x7FC00000 else (lane (s.vx a) j ^^^ 0x80000000).toNat, seed)))

/-- VFADD, 16-bit (09 R244). -/
def execVfadd16 (m : Bool) (b d : BitVec 5) (s : State) : Outcome :=
  settle s (vfpBody s .fp [.v d false, .v b m] 0 d false 2 (fun m j seed => m.fp (Ex.add m.rdn (s.fa d j) (s.fa b j)) seed))

/-- VFSUB, 16-bit (09 R244). -/
def execVfsub16 (m : Bool) (b d : BitVec 5) (s : State) : Outcome :=
  settle s (vfpBody s .fp [.v d false, .v b m] 0 d false 2 (fun m j seed => m.fp (Ex.add m.rdn (s.fa d j) (s.fa b j).neg) seed))

/-- VFMUL, 16-bit (09 R244). -/
def execVfmul16 (m : Bool) (b d : BitVec 5) (s : State) : Outcome :=
  settle s (vfpBody s .fp [.v d false, .v b m] 0 d false 2 (fun m j seed => m.fp ((s.fa d j).mul (s.fa b j)) seed))

/-- VFMIN, 16-bit (09 R244). -/
def execVfmin16 (m : Bool) (b d : BitVec 5) (s : State) : Outcome :=
  settle s (vfpBody s .fp [.v d false, .v b m] 0 d false 2 (fun _ j seed =>
    (fminCode (lane (s.vx d) j) (lane (s.vx b) j), seed)))

/-- VFMAX, 16-bit (09 R244). -/
def execVfmax16 (m : Bool) (b d : BitVec 5) (s : State) : Outcome :=
  settle s (vfpBody s .fp [.v d false, .v b m] 0 d false 2 (fun _ j seed =>
    (fmaxCode (lane (s.vx d) j) (lane (s.vx b) j), seed)))

/-- The source element of VCVT: the low bits of the lane (11 R302). -/
def cvtSource (code : Nat) (x : BitVec 32) : Ex := flushSrc code (x.toNat % 2 ^ (8 * fmtBytes code))

/-- VCVT (11 R302). -/
def execVcvt (n : Bool) (k : BitVec 3) (a d : BitVec 5) (s : State) : Outcome :=
  settle s (vfpBody s .vcvt [.v a n] k d false 4 (fun m j seed =>
    convert (fmtOf m.fd) (cvtSource m.fa (lane (s.vx a) j)) m.rnd m.sat seed))

/-- VCVTIF (11 R303). -/
def execVcvtif (n : Bool) (k : BitVec 3) (a d : BitVec 5) (s : State) : Outcome :=
  laneOp s [.v a n] k d false 4 (fun j => BitVec.ofNat 32 (fpResult (Ex.ofInt (lane (s.vx a) j).toInt) 0 false 0).1)

/-- VCVTUF (11 R303). -/
def execVcvtuf (n : Bool) (k : BitVec 3) (a d : BitVec 5) (s : State) : Outcome :=
  laneOp s [.v a n] k d false 4 (fun j => BitVec.ofNat 32 (fpResult (Ex.ofInt (lane (s.vx a) j).toNat) 0 false 0).1)

/-- VCVTFI (11 R303). -/
def execVcvtfi (n : Bool) (k : BitVec 3) (a d : BitVec 5) (s : State) : Outcome :=
  laneOp s [.v a n] k d false 4 (fun j => cvtToI32 (flushSrc 0 (lane (s.vx a) j).toNat))

/-- VCVTFU (11 R303). -/
def execVcvtfu (n : Bool) (k : BitVec 3) (a d : BitVec 5) (s : State) : Outcome :=
  laneOp s [.v a n] k d false 4 (fun j => cvtToU32 (flushSrc 0 (lane (s.vx a) j).toNat))

end Sys2Proof.Machine
end

