-- ==== Sys2Proof/Machine/Mask.lean ====
section
/-! DEFINITION. Compares, masks, permutes, reductions and the histogram (11 R300, R301, R304 to R306). -/

namespace Sys2Proof.Machine

/-- The bits of a mask result: `f j` where the mask k is 1, the destination's own elsewhere (11 R293). -/
def maskBits (mask old : BitVec 16) (f : Nat → Bool) : BitVec 16 :=
  BitVec.ofNat 16 (boolsToNat ((List.range 16).map (fun j => if active mask j then f j else old.getLsbD j)))

/-- Sources of an instruction with a mask destination: a mask k other than k0 keeps inactive bits (11 R293). -/
def maskOps (srcs : List Opnd) (k d : BitVec 3) : List Opnd := srcs ++ [.k k] ++ (if k ≠ 0 then [.k d] else [])

/-- An instruction that writes bits of a mask register. -/
def maskOp (s : State) (srcs : List Opnd) (k d : BitVec 3) (f : Nat → Bool) : Outcome :=
  settle s (do
    let _ ← s.enterInstr .core .plain
    let os := maskOps srcs k d
    s.refilled os
    .ok (s.putK os d (maskBits (s.maskOf k) (s.maskOf d) f) 4))

/-- VCEQ (11 R300). -/
def execVceq (n sc : Bool) (k : BitVec 3) (b a : BitVec 5) (d : BitVec 3) (s : State) : Outcome :=
  maskOp s [.v a n, vbOpnd sc b] k d (fun j => condEq (lane (s.vx a) j) (vbLane s.me sc b j))

/-- VCNE (11 R300). -/
def execVcne (n sc : Bool) (k : BitVec 3) (b a : BitVec 5) (d : BitVec 3) (s : State) : Outcome :=
  maskOp s [.v a n, vbOpnd sc b] k d (fun j => condNe (lane (s.vx a) j) (vbLane s.me sc b j))

/-- VCLT (11 R300). -/
def execVclt (n sc : Bool) (k : BitVec 3) (b a : BitVec 5) (d : BitVec 3) (s : State) : Outcome :=
  maskOp s [.v a n, vbOpnd sc b] k d (fun j => condLt (lane (s.vx a) j) (vbLane s.me sc b j))

/-- VCLE (11 R300). -/
def execVcle (n sc : Bool) (k : BitVec 3) (b a : BitVec 5) (d : BitVec 3) (s : State) : Outcome :=
  maskOp s [.v a n, vbOpnd sc b] k d (fun j => condLe (lane (s.vx a) j) (vbLane s.me sc b j))

/-- VCLTU (11 R300). -/
def execVcltu (n sc : Bool) (k : BitVec 3) (b a : BitVec 5) (d : BitVec 3) (s : State) : Outcome :=
  maskOp s [.v a n, vbOpnd sc b] k d (fun j => condLtu (lane (s.vx a) j) (vbLane s.me sc b j))

/-- VCLEU (11 R300). -/
def execVcleu (n sc : Bool) (k : BitVec 3) (b a : BitVec 5) (d : BitVec 3) (s : State) : Outcome :=
  maskOp s [.v a n, vbOpnd sc b] k d (fun j => condLeu (lane (s.vx a) j) (vbLane s.me sc b j))

/-- VFCEQ (11 R300): any NaN makes it false. -/
def execVfceq (n sc : Bool) (k : BitVec 3) (b a : BitVec 5) (d : BitVec 3) (s : State) : Outcome :=
  maskOp s [.v a n, vbOpnd sc b] k d (fun j => Ex.eq (s.fa a j) (s.fb sc b j))

/-- VFCLT (11 R300): any NaN makes it false. -/
def execVfclt (n sc : Bool) (k : BitVec 3) (b a : BitVec 5) (d : BitVec 3) (s : State) : Outcome :=
  maskOp s [.v a n, vbOpnd sc b] k d (fun j => Ex.lt (s.fa a j) (s.fb sc b j))

/-- VFCLE (11 R300): any NaN makes it false. -/
def execVfcle (n sc : Bool) (k : BitVec 3) (b a : BitVec 5) (d : BitVec 3) (s : State) : Outcome :=
  maskOp s [.v a n, vbOpnd sc b] k d (fun j => Ex.eq (s.fa a j) (s.fb sc b j) || Ex.lt (s.fa a j) (s.fb sc b j))

/-- KAND (11 R301). -/
def execKand (k b a d : BitVec 3) (s : State) : Outcome :=
  maskOp s [.k a, .k b] k d (fun j => (s.maskOf a).getLsbD j && (s.maskOf b).getLsbD j)

/-- KOR (11 R301). -/
def execKor (k b a d : BitVec 3) (s : State) : Outcome :=
  maskOp s [.k a, .k b] k d (fun j => (s.maskOf a).getLsbD j || (s.maskOf b).getLsbD j)

/-- KXOR (11 R301). -/
def execKxor (k b a d : BitVec 3) (s : State) : Outcome :=
  maskOp s [.k a, .k b] k d (fun j => (s.maskOf a).getLsbD j != (s.maskOf b).getLsbD j)

/-- KANDN (11 R301). -/
def execKandn (k b a d : BitVec 3) (s : State) : Outcome :=
  maskOp s [.k a, .k b] k d (fun j => (s.maskOf a).getLsbD j && !(s.maskOf b).getLsbD j)

/-- KNOT (11 R301). -/
def execKnot (k a d : BitVec 3) (s : State) : Outcome := maskOp s [.k a] k d (fun j => !(s.maskOf a).getLsbD j)

/-- KMOV (11 R301). -/
def execKmov (k : BitVec 3) (b : BitVec 5) (d : BitVec 3) (s : State) : Outcome :=
  maskOp s [.s b false] k d (fun j => (s.x b).getLsbD j)

/-- An instruction of the lane families that writes a scalar register. -/
def laneScalarOp (s : State) (os : List Opnd) (d : BitVec 5) (v : Word) : Outcome :=
  settle s (do
    let _ ← s.enterInstr .core .plain
    s.refilled os
    .ok (s.putS os d v 4))

/-- a AND k of the scalar results of VMASK (11 R301). -/
def State.maskAnd (s : State) (k a : BitVec 3) : BitVec 16 := s.maskOf a &&& s.maskOf k

/-- KREAD (11 R301). -/
def execKread (k a : BitVec 3) (d : BitVec 5) (s : State) : Outcome :=
  laneScalarOp s [.k a, .k k] d ((s.maskAnd k a).setWidth 64)

/-- KPOPC (11 R301). -/
def execKpopc (k a : BitVec 3) (d : BitVec 5) (s : State) : Outcome :=
  laneScalarOp s [.k a, .k k] d (BitVec.ofNat 64 (opPopc (s.maskAnd k a)))

/-- KFFS (11 R301): 16 for an empty mask. -/
def execKffs (k a : BitVec 3) (d : BitVec 5) (s : State) : Outcome :=
  laneScalarOp s [.k a, .k k] d (BitVec.ofNat 64 (opCtz (s.maskAnd k a)))

/-! ## Permutes (11 R304) -/

/-- VPERM (11 R304). -/
def execVperm (n sc : Bool) (k : BitVec 3) (b a d : BitVec 5) (s : State) : Outcome :=
  laneOp s [.v a n, vbOpnd sc b] k d false 4 (fun j => lane (s.vx a) ((vbLane s.me sc b j).toNat % 16))

/-- VSLIDEUP (11 R304). -/
def execVslideup (n sc : Bool) (k : BitVec 3) (b a d : BitVec 5) (s : State) : Outcome :=
  laneOp s [.v a n, vbOpnd sc b] k d false 4 (fun j => if (vbLane s.me sc b 0).toNat % 32 ≤ j then lane (s.vx a) (j - (vbLane s.me sc b 0).toNat % 32) else 0)

/-- VSLIDEDN (11 R304). -/
def execVslidedn (n sc : Bool) (k : BitVec 3) (b a d : BitVec 5) (s : State) : Outcome :=
  laneOp s [.v a n, vbOpnd sc b] k d false 4 (fun j => if j + (vbLane s.me sc b 0).toNat % 32 < 16 then lane (s.vx a) (j + (vbLane s.me sc b 0).toNat % 32) else 0)

/-- VZIPLO (11 R304). -/
def execVziplo (n sc : Bool) (k : BitVec 3) (b a d : BitVec 5) (s : State) : Outcome :=
  laneOp s [.v a n, vbOpnd sc b] k d false 4 (fun j => if j % 2 = 0 then lane (s.vx a) (j / 2) else vbLane s.me sc b (j / 2))

/-- VZIPHI (11 R304). -/
def execVziphi (n sc : Bool) (k : BitVec 3) (b a d : BitVec 5) (s : State) : Outcome :=
  laneOp s [.v a n, vbOpnd sc b] k d false 4 (fun j => if j % 2 = 0 then lane (s.vx a) (8 + j / 2) else vbLane s.me sc b (8 + j / 2))

/-- VCOMPRESS and VEXPAND write all 16 lanes (11 R293, R304). -/
def allLanesOp (s : State) (os : List Opnd) (d : BitVec 5) (f : Nat → BitVec 32) : Outcome :=
  settle s (do
    let _ ← s.enterInstr .core .plain
    s.refilled os
    .ok (s.putV os d (ofLanes ((List.range 16).map f)) (taintOf s.me os) 4))

/-- The selected lanes in ascending order. -/
def selected (mask : BitVec 16) : List Nat := (List.range 16).filter (fun j => active mask j)

/-- VCOMPRESS (11 R304). -/
def execVcompress (n : Bool) (k : BitVec 3) (a d : BitVec 5) (s : State) : Outcome :=
  allLanesOp s [.v a n, .k k] d (fun j => match (selected (s.maskOf k))[j]? with
    | some i => lane (s.vx a) i
    | none => 0)

/-- VEXPAND (11 R304). -/
def execVexpand (n : Bool) (k : BitVec 3) (a d : BitVec 5) (s : State) : Outcome :=
  allLanesOp s [.v a n, .k k] d (fun j =>
    if active (s.maskOf k) j then lane (s.vx a) (((selected (s.maskOf k)).filter (fun i => decide (i < j))).length) else 0)

/-- VEXTR (11 R304). -/
def execVextr (n : Bool) (b a d : BitVec 5) (s : State) : Outcome :=
  laneScalarOp s [.v a n, .s b false] d ((lane (s.vx a) ((s.x b).toNat % 16)).setWidth 64)

/-! ## Reductions (11 R305) and the histogram (11 R306) -/

/-- The active lanes of va. -/
def State.activeLanes (s : State) (k : BitVec 3) (a : BitVec 5) : List (BitVec 32) :=
  (selected (s.maskOf k)).map (fun j => lane (s.vx a) j)

/-- An integer fold, sign-extended. -/
def foldOp (s : State) (n : Bool) (k : BitVec 3) (a d : BitVec 5) (e : BitVec 32) (op : BitVec 32 → BitVec 32 → BitVec 32) :
    Outcome :=
  laneScalarOp s [.v a n, .k k] d (((s.activeLanes k a).foldl op e).signExtend 64)

/-- VRADD (11 R305). -/
def execVradd (n : Bool) (k : BitVec 3) (a d : BitVec 5) (s : State) : Outcome := foldOp s n k a d 0 opAdd

/-- VRMIN (11 R305). -/
def execVrmin (n : Bool) (k : BitVec 3) (a d : BitVec 5) (s : State) : Outcome := foldOp s n k a d 0x7FFFFFFF opMin

/-- VRMAX (11 R305). -/
def execVrmax (n : Bool) (k : BitVec 3) (a d : BitVec 5) (s : State) : Outcome := foldOp s n k a d 0x80000000 opMax

/-- VRAND (11 R305). -/
def execVrand (n : Bool) (k : BitVec 3) (a d : BitVec 5) (s : State) : Outcome := foldOp s n k a d 0xFFFFFFFF opAnd

/-- VROR (11 R305). -/
def execVror (n : Bool) (k : BitVec 3) (a d : BitVec 5) (s : State) : Outcome := foldOp s n k a d 0 opOr

/-- VRXOR (11 R305). -/
def execVrxor (n : Bool) (k : BitVec 3) (a d : BitVec 5) (s : State) : Outcome := foldOp s n k a d 0 opXor

/-- VRFADD (11 R305): the exact sum, rounded once. -/
def execVrfadd (n : Bool) (k : BitVec 3) (a d : BitVec 5) (s : State) : Outcome :=
  laneScalarOp s [.v a n, .k k] d
    (BitVec.ofNat 64 (fpResult (exSum ((s.activeLanes k a).map (fun x => f32 x.toNat))) 0 false 0).1)

/-- VRFMAX (11 R305). -/
def execVrfmax (n : Bool) (k : BitVec 3) (a d : BitVec 5) (s : State) : Outcome :=
  laneScalarOp s [.v a n, .k k] d
    ((((s.activeLanes k a).foldl (fun (x y : BitVec 32) => BitVec.ofNat 32 (fmaxCode x y)) 0xFF800000)).setWidth 64)

/-- VHIST (11 R306): every bin is written; k selects only the inputs. -/
def execVhist (n : Bool) (k : BitVec 3) (a d : BitVec 5) (s : State) : Outcome :=
  allLanesOp s [.v a n, .k k, .v d false] d (fun i =>
    lane (s.vx d) i + BitVec.ofNat 32 ((s.activeLanes k a).countP (fun x => decide (x.toNat % 16 = i))))

end Sys2Proof.Machine
end

