-- ==== Sys2Proof/Machine/Narrow.lean ====
section
/-! DEFINITION. Narrow formats in register groups: VQNT, VDQNT, VDOT (11 R311 to R314). -/

namespace Sys2Proof.Machine

/-- Bytes of a chunk of format `c` in a register group (11 R311). -/
def chunkBytes (c : Nat) : Nat := if fmtBlock c then 96 / blockElems c * blockBytes c else 96 * fmtBytes c

/-- Registers of a group of `n` bytes. -/
def groupRegs (n : Nat) : Nat := (n + 63) / 64

/-- The registers of a group as operands. -/
def groupOps (r : BitVec 5) (n : Nat) (last : Bool) : List Opnd :=
  (List.range n).map (fun i => .v (BitVec.ofNat 5 (r.toNat + i)) last)

/-- The bytes of a group. -/
def State.groupBytes (s : State) (r : BitVec 5) (n : Nat) : List Nat :=
  (List.range n).map (fun i => (s.me.vval (r.toNat + i / 64)).toNat / 256 ^ (i % 64) % 256)

/-- Writes a group, zero past its bytes, with one taint (11 R311). -/
def State.writeGroup (s : State) (r : Nat) (taint : BitVec 8) : Nat → List Nat → State
  | 0, _ => s
  | n + 1, bs =>
    (s.setV s.cur r (BitVec.ofNat 512 (bytesToNat (bs.take 64))) taint).writeGroup (r + 1) taint n (bs.drop 64)

/-- A group stays within v31, or the instruction is illegal (11 R311). -/
def groupFits (r : BitVec 5) (n : Nat) : Except Stop Unit := if r.toNat + n ≤ 32 then .ok () else illegal

/-- Ends an instruction that writes a group. -/
def State.putGroup (s : State) (os : List Opnd) (d : BitVec 5) (n : Nat) (bs : List Nat) : State :=
  (((s.consume s.cur os).updMe (Thread.uses (regRun true d.toNat n))).writeGroup d.toNat (taintOf s.me os) n bs).retire 4

/-- VQNT (11 R312), 32 cycles out of rotation. -/
def execVqnt (n : Bool) (a d : BitVec 5) (s : State) : Outcome :=
  settle s (do
    let m ← s.enterInstr .core .vqnt
    let na := groupRegs (chunkBytes m.fa)
    let nd := groupRegs (chunkBytes m.fd)
    groupFits a na
    groupFits d nd
    let os := groupOps a na n
    s.refilled os
    let src := s.groupBytes a (chunkBytes m.fa)
    let xs := (List.range 96).map (fun j => elemOf m.fa src j)
    let r := quantBlocks m.fd m.rnd (runsOf (blockElems m.fd) (96 / blockElems m.fd) xs) s.me.srseed
    .ok (((s.updMe (fun x => { x with srseed := r.2 })).putGroup os d nd r.1).longLatency 32))

/-- VDQNT (11 R313), 12 cycles out of rotation. -/
def execVdqnt (n : Bool) (a d : BitVec 5) (s : State) : Outcome :=
  settle s (do
    let m ← s.enterInstr .core .vdqnt
    let na := groupRegs (chunkBytes m.fa)
    let nd := groupRegs (chunkBytes m.fd)
    groupFits a na
    groupFits d nd
    let os := groupOps a na n
    s.refilled os
    let src := s.groupBytes a (chunkBytes m.fa)
    let r := convertAll (fmtOf m.fd) m.rnd m.sat ((List.range 96).map (fun j => elemOf m.fa src j)) s.me.srseed
    .ok (((s.updMe (fun x => { x with srseed := r.2 })).putGroup os d nd
      (r.1.flatMap (codeBytes (fmtBytes m.fd)))).longLatency 12))

/-- Bytes of VDOT's groups: a BF16 group is 32 elements in one register (11 R311). -/
def dotBytes (c : Nat) : Nat := if c = 1 then 64 else chunkBytes c

/-- VDOT (11 R314), 12 cycles out of rotation; lanes 1 to 15 of vd are unchanged. -/
def execVdot (n : Bool) (b a d : BitVec 5) (s : State) : Outcome :=
  settle s (do
    let m ← s.enterInstr .core .dot
    let na := groupRegs (dotBytes m.fa)
    let nb := groupRegs (dotBytes m.fb)
    groupFits a na
    groupFits b nb
    let os := groupOps a na n ++ groupOps b nb false ++ [.v d false]
    s.refilled os
    let xs := (List.range (chunkLen m.fa)).map (fun j => elemOf m.fa (s.groupBytes a (dotBytes m.fa)) j)
    let ys := (List.range (chunkLen m.fa)).map (fun j => elemOf m.fb (s.groupBytes b (dotBytes m.fb)) j)
    let r := chunkDot (lane (s.vx d) 0).toNat xs ys
    .ok ((s.putV os d (ofLanes ((List.range 16).map (fun j => if j = 0 then BitVec.ofNat 32 r else lane (s.vx d) j)))
      (taintOf s.me os) 4).longLatency 12))

end Sys2Proof.Machine
end

