-- ==== Sys2Proof/Machine/Memory.lean ====
section
/-! DEFINITION. Memory accesses of a thread: the checks before the issue step, the ways of a load, the region store
buffer, and the scalar and vector loads and stores (05 R138 to R145; 12 R316 to R320, R336; 11 R307 to R310, R315). -/

namespace Sys2Proof.Machine

/-- One access of an instruction: its lane or word number, its address, its width, and the lane of a vector access. -/
structure Access where
  index : Nat
  addr : Word
  width : Nat
  lane : Option Nat := none
  deriving DecidableEq, Repr

/-- The checks of 01 R17 on every access in order; the lowest failing one decides the trap (01 R18, 11 R309). The answer
gives each access its place, or none where it must be translated. -/
def State.checkAll (s : State) : List Access → Except Stop (List (Access × Option Place))
  | [] => .ok []
  | x :: xs =>
    match s.check s.cur x.addr x.width x.lane with
    | .trap c => .error (.trap { cause := c, fadr := some x.addr })
    | .global => (s.checkAll xs).map (fun ys => (x, none) :: ys)
    | .place p => (s.checkAll xs).map (fun ys => (x, some p) :: ys)

/-- The lowest free miss slot of a core (01 R32). -/
def Core.freeMiss (c : Core) : Option Nat := (List.range 4).find? (fun i => NMap.get none c.misses i = none)

/-- The data-miss message of 01 R38 for an access of thread `t`. -/
def State.missMsg (s : State) (t : Nat) (va : Word) (acc : Acc4) (slot : Nat) : TscMsg :=
  let x := s.thread t
  { w0 := BitVec.ofNat 64 (1 * 2 ^ 60 + (if x.pin then 2 ^ 59 else 0) + acc.code * 2 ^ 56 + slot * 2 ^ 54 + 0x3F * 2 ^ 48 +
      x.asid * 2 ^ 32 + ctxOf t * 2 ^ 16 + coreField (coreOf t))
    w1 := va
    w2 := x.regpc
    fn := x.fn
    launch := x.launch }

/-- An access without a usable translation takes its thread out of rotation and, where no slot is in flight for its page,
sends a miss message (01 R31, R32). A TLB entry that fails 01 R29 is reported in the same way (log entry 15). -/
def State.miss (s : State) (va : Word) (acc : Acc4) : Stop :=
  let k := coreOf s.cur
  let page := (s.me.asid, va.toNat / 2 ^ 19)
  if (s.core k).misses.any (fun p => p.2 = some page) then .wait (.tlb s.me.asid va acc.code)
  else match (s.core k).freeMiss with
    | none => .wait .missSlot
    | some i =>
      let s1 := s.updCore k (fun c => { c with misses := NMap.set none c.misses i (some page) })
      let s2 := s1.updCluster (clusterOf k) (fun c => { c with mesh := c.mesh ++ [s.missMsg s.cur va acc i] })
      .goto (s2.stop s.cur (.waiting (.tlb s.me.asid va acc.code)))

/-- The translation of one address of the issuing thread (01 R28, R29). -/
def State.translate (s : State) (acc : Acc4) (va : Word) : Except Stop Place :=
  match tlbLookup (s.core (coreOf s.cur)).tlb s.me.asid (va.toNat / 2 ^ 19) with
  | some e => if (e.fails va.toNat s.me.sv acc).isNone then .ok (s.placeOf e s.me.asid va.toNat) else .error (s.miss va acc)
  | none => .error (s.miss va acc)

/-- Every access must have its translation before the issue step (05 R138). -/
def State.translateAll (s : State) (acc : Acc4) : List (Access × Option Place) → Except Stop (List (Access × Place))
  | [] => .ok []
  | (x, some p) :: xs => (s.translateAll acc xs).map (fun ys => (x, p) :: ys)
  | (x, none) :: xs =>
    match s.translate acc x.addr with
    | .ok p => (s.translateAll acc xs).map (fun ys => (x, p) :: ys)
    | .error e => .error e

/-- What must hold before a memory access issues, after its entry's own checks: the sources `os` in the physical file,
those that supply an address, an index, a mask or a value written (`pre`) untainted, every translation there (05 R138). -/
def State.ready (s : State) (acc : Acc4) (os pre : List Opnd) (ys : List (Access × Option Place)) :
    Except Stop (List (Access × Place)) := do
  s.refilled os
  s.untainted pre
  s.translateAll acc ys

/-- The checks of 01 R17 and then `ready`. -/
def State.access (s : State) (acc : Acc4) (os pre : List Opnd) (xs : List Access) : Except Stop (List (Access × Place)) := do
  let ys ← s.checkAll xs
  s.ready acc os pre ys

/-! ## Lines and the region store buffer -/

/-- `n` bytes from byte `off` of a line. -/
def lineField (data : BitVec 1024) (off n : Nat) : Nat := data.toNat / 256 ^ off % 256 ^ n

/-- The RSB slot of a line. -/
def Thread.slotFor (x : Thread) (line : Nat) : Option Slot := x.rsb.find? (fun c => c.line = line)

/-- `n` bytes at `loc` whose value without the RSB is `v`, overlaid by the RSB (05 R140, R141). -/
def Thread.overlay (x : Thread) (loc n v : Nat) : Nat :=
  match x.slotFor (lineOf loc) with
  | some c => lineField (overlayLine c.mask c.data (placeData (loc % 128) v)) (loc % 128) n
  | none => v

/-- Whether a request writes. -/
def ReqKind.writes : ReqKind → Bool
  | .store _ _ => true
  | .atomic _ _ _ _ _ => true
  | _ => false

/-- A STORE or ATOMIC of the thread to the line is in a FIFO, or has performed with its ACK or REPLY not yet processed
(05 R140). -/
def State.outstanding (s : State) (t line : Nat) : Bool :=
  s.fifo.any (fun r => r.src = .thread t && r.kind.writes && decide (lineOf r.place.loc = line)) ||
  s.rq.any (fun m => decide (m.line = line) && match m.kind with
    | .ack src _ _ _ => decide (src = .thread t)
    | .atomicReply src _ _ _ _ _ _ _ => decide (src = .thread t)
    | _ => false)

/-- How one load is served (05 R140): its value is known at once, or comes from its home. -/
inductive Way where
  | now (v : Nat)
  | unsettled (v : Nat)
  | home
  deriving DecidableEq, Repr

/-- The second way of 05 R140, from the L1, and the third where it does not apply. -/
def State.l1Way (s : State) (x : Thread) (t : Nat) (z : Access × Place) : Way :=
  let line := lineOf z.2.loc
  if z.2.cacheable && !s.outstanding t line then
    match NMap.get none (s.core (coreOf t)).l1 line with
    | some c =>
      let v := x.overlay z.2.loc z.1.width (lineField c.data (z.2.loc % 128) z.1.width)
      if c.settled then .now v else .unsettled v
    | none => .home
  else .home

/-- The first way of 05 R140 that applies. The TSC always takes the third (01 R37), and so does AMLD (12 R336). -/
def State.way (s : State) (t : Nat) (z : Access × Place) (direct : Bool) : Way :=
  let x := s.thread t
  let off := z.2.loc % 128
  let all := byteMask off z.1.width
  if direct || isTsc t then .home
  else match x.slotFor (lineOf z.2.loc) with
    | some c => if c.mask &&& all = all then .now (lineField c.data off z.1.width) else s.l1Way x t z
    | none => s.l1Way x t z

/-- The lowest-numbered free tag (05 R135). -/
def Thread.freeTag (x : Thread) : Option Nat := (List.range 8).find? (fun g => !(NMap.get {} x.tags g).busy)
/-- The age of the oldest busy tag. -/
def Thread.oldestAge (x : Thread) : Nat := (x.tags.filterMap (fun p => if p.2.busy then some p.2.age else none)).min?.getD 0
/-- The tag an access needs; with none free the thread waits for the oldest to retire (05 R140). -/
def Thread.needTag (x : Thread) : Except Stop Nat :=
  match x.freeTag with
  | some g => .ok g
  | none => waitFor (.tag x.oldestAge)

/-- A tag becomes busy, the youngest of its thread; `homes` are those its requests go to, each with the line. -/
def Thread.takeTag (x : Thread) (g replies : Nat) (waits homes : List (Home × Nat)) : Thread :=
  { x with tags := NMap.set {} x.tags g ⟨true, x.nextAge, replies, waits, homes⟩, nextAge := x.nextAge + 1 }

/-- A tag retires: it is free, and its bit leaves every register in the physical file (05 R135). -/
def Thread.retireTag (x : Thread) (g : Nat) : Thread :=
  let m := ~~~tagBit g
  { x with
    tags := NMap.set {} x.tags g {}
    s := x.s.map (fun p => if p.2.map = .physical then (p.1, { p.2 with taint := p.2.taint &&& m }) else p)
    v := x.v.map (fun p => if p.2.map = .physical then (p.1, { p.2 with taint := p.2.taint &&& m }) else p)
    k := (x.k.map (fun p => (p.1, { p.2 with taint := p.2.taint &&& m }))).filter (fun p => p.2 ≠ {}) }

/-- The extension of a load's bytes (12 R316). -/
def extendLoad (bytes : Nat) (signed : Bool) (v : Word) : Word :=
  if !signed then v
  else if bytes = 1 then (v.setWidth 8).signExtend 64
  else if bytes = 2 then (v.setWidth 16).signExtend 64
  else if bytes = 4 then (v.setWidth 32).signExtend 64
  else v

/-- The value of piece `i`. -/
def pieceVal (ps : List Piece) (i : Nat) : Word := ((ps.find? (fun p => p.index = i)).bind (·.val)).getD 0

/-- Writes scalar registers one after another. -/
def State.putRun (s : State) (t d : Nat) (taint : BitVec 8) : List Word → State
  | [] => s
  | v :: vs => (s.setS t d v taint).putRun t (d + 1) taint vs
/-- Writes consecutive scalar registers, all of them destinations of one instruction. -/
def State.setRun (s : State) (t d : Nat) (taint : BitVec 8) (vs : List Word) : State :=
  (s.updThread t (Thread.uses (regRun false d vs.length))).putRun t d taint vs

/-- Writes vector registers one after another from bytes. -/
def State.putVRun (s : State) (t d : Nat) (taint : BitVec 8) : Nat → List Nat → State
  | 0, _ => s
  | n + 1, bs => (s.setV t d (BitVec.ofNat 512 (bytesToNat (bs.take 64))) taint).putVRun t (d + 1) taint n (bs.drop 64)
/-- Writes consecutive vector registers from bytes, all of them destinations of one instruction. -/
def State.setVRun (s : State) (t d : Nat) (taint : BitVec 8) (n : Nat) (bs : List Nat) : State :=
  (s.updThread t (Thread.uses (regRun true d n))).putVRun t d taint n bs

/-- The taint of a vector destination as an instruction in progress reads it: that of a register spilled meanwhile counts only
for tags still busy (05 R136). -/
def Thread.oldTaint (x : Thread) (r : Nat) : BitVec 8 :=
  if (NMap.get {} x.v r).map = .spilled then x.vtaint r &&& x.busyTags else x.vtaint r

/-- An access completes: the result registers are written (05 R141, R144, R155). -/
def State.finishAccess (s : State) (t : Nat) (fin : Finish) (ps : List Piece) (g : Option Nat) : State :=
  let taint := match g with
    | some i => tagBit i
    | none => 0
  match fin with
  | .scalar d bytes signed => s.setS t d (extendLoad bytes signed (pieceVal ps 0)) taint
  | .ldm d n => s.setRun t d taint ((List.range n).map (pieceVal ps))
  | .vector vd bcast lanes masked =>
    let x := s.thread t
    s.setV t vd (ofLanes ((List.range 16).map (fun j =>
      if active lanes j then (pieceVal ps (if bcast then 0 else j)).setWidth 32 else lane (x.vval vd) j)))
      (if masked then taint ||| x.oldTaint vd else taint)
  | .vldb vd regs => s.setVRun t vd taint regs ((List.range ps.length).map (fun i => (pieceVal ps i).toNat))
  | .atomic d _ _ => (s.setS t d (pieceVal ps 0) taint).updThread t (fun x => x.ckptS d)
  | .bits d bit n =>
    let v := bytesToNat ((List.range ps.length).map (fun i => (pieceVal ps i).toNat))
    s.setS t d (BitVec.ofNat 64 (v / 2 ^ bit % 2 ^ n)) taint
  | .mscale one => s.updAcc (coreOf t) one (fun a => a.scale (fun i => (pieceVal ps i).toNat) (fun j => (pieceVal ps (64 + j)).toNat))
  | .spawn => s.updThread t (fun x => { x with stage := some (.spawnRead ((List.range 16).map (pieceVal ps))) })

/-- Starts a load of one or more pieces for thread `t` (05 R140, R144): at most one tag; where every piece is known at once
the result is written, otherwise the thread leaves rotation. -/
def State.startLoad (s : State) (t : Nat) (zs : List (Access × Place)) (fin : Finish) (direct : Bool) : Except Stop State := do
  let ways := zs.map (fun z => (z, s.way t z direct))
  let homes := ways.filter (fun w => decide (w.2 = .home))
  let waits := (ways.filterMap (fun w => match w.2 with
    | .unsettled _ => some (w.1.2.home, lineOf w.1.2.loc)
    | _ => none)).dedup
  let pieces := ways.map (fun w => (⟨w.1.1.index, w.1.2, w.1.1.width, !direct, match w.2 with
    | .now v => some (BitVec.ofNat 64 v)
    | .unsettled v => some (BitVec.ofNat 64 v)
    | .home => none⟩ : Piece))
  if homes = [] && waits = [] then .ok (s.finishAccess t fin pieces none)
  else
    let g ← (s.thread t).needTag
    let s1 := s.updThread t (fun x => x.takeTag g homes.length waits (homes.map (fun w => (w.1.2.home, lineOf w.1.2.loc))).dedup)
    if homes = [] then .ok (s1.finishAccess t fin pieces (some g))
    else
      let reqs := homes.map (fun w => ({ src := .thread t, place := w.1.2, kind := .load w.1.1.width, tag := some g, part := w.1.1.index } : Req))
      let s2 := { s1 with fifo := s1.fifo ++ reqs }.updThread t (fun x => { x with inflight := some ⟨some g, fin, pieces⟩ })
      .ok (s2.stop t (.waiting .reply))

/-- The issue step of a load instruction: its sources consumed, the pc moved on, the load started. -/
def State.issueLoad (s : State) (os : List Opnd) (zs : List (Access × Place)) (fin : Finish) (direct : Bool) :
    Except Stop State :=
  ((s.consume s.cur os).retire 4).startLoad s.cur zs fin direct

/-! ## Stores -/

/-- A store made through another translation of its line joins a slot: a TLBI of either waits for it (01 R42). -/
def Slot.joined (c : Slot) (p : Place) : List Place :=
  let same := fun (q : Place) => decide (q.pair = p.pair) && decide (q.size = p.size)
  if same c.place || c.also.any same then c.also else c.also ++ [p]

/-- A store into the RSB (05 R142): the slot of its line, or a new one after an overflow drain where 32 are in use. -/
def State.rsbStore (s : State) (t : Nat) (p : Place) (n v : Nat) : State :=
  let line := lineOf p.loc
  let mask := byteMask (p.loc % 128) n
  let data := placeData (p.loc % 128) v
  match (s.thread t).slotFor line with
  | some _ => s.updThread t (fun x => { x with rsb := x.rsb.map (fun c =>
      if c.line = line then { c with mask := c.mask ||| mask, data := overlayLine mask data c.data, also := c.joined p } else c) })
  | none =>
    let s1 := if 32 ≤ (s.thread t).rsb.length then s.overflowDrain t else s
    s1.updThread t (fun x => { x with rsb := x.rsb ++ [⟨line, p, mask, data, []⟩] })

/-- A store that goes to its home's FIFO and adds 1 to the store count (05 R142). -/
def State.sendStore (s : State) (t : Nat) (p : Place) (n v : Nat) : State :=
  let kind := ReqKind.store (byteMask (p.loc % 128) n) (placeData (p.loc % 128) v)
  State.updThread { s with fifo := s.fifo ++ [{ src := .thread t, place := p, kind := kind }] } t
    (fun x => { x with storeCount := x.storeCount + 1 })

/-- Whether an address lies in space 0x0. -/
def inSpace0 (a : Word) : Bool := decide (a.toNat / 2 ^ 60 = 0)

/-- One store of `v` (05 R142). -/
def State.storeOne (s : State) (t : Nat) (z : Access × Place) (direct : Bool) (v : Nat) : State :=
  let w := v % 256 ^ z.1.width
  if inSpace0 z.1.addr && !direct then s.rsbStore t z.2 z.1.width w else s.sendStore t z.2 z.1.width w

/-- The cluster-memory ways among some accesses that are not yet usable (02 R65). -/
def State.busyWays (s : State) (zs : List (Access × Place)) : List Nat :=
  (zs.filterMap (fun z => match z.2.home with
    | .expander cl => if s.waitsForWay z.2 then some ((z.2.loc - locCluster cl 0) / 2 ^ 20) else none
    | _ => none)).dedup

/-- A thread whose stores wait for cluster-memory ways waits out of rotation till they are usable (02 R65). -/
def State.windowWait (s : State) (zs : List (Access × Place)) : State :=
  if s.busyWays zs = [] then s else s.stop s.cur (.waiting (.window (s.busyWays zs)))

/-- The issue step of an instruction that stores: its accesses in ascending order (05 R142, R144). -/
def State.issueStore (s : State) (os : List Opnd) (zs : List (Access × Place)) (direct : Bool) (val : Nat → Nat) : State :=
  (((zs.foldl (fun s z => s.storeOne s.cur z direct (val z.1.index)) s).consume s.cur os).retire 4).windowWait zs

/-! ## LOAD, STORE, LDM, STM (12 R316 to R320) -/

/-- A scalar load (12 R316, R317). -/
def loadOp (s : State) (o : BitVec 10) (n : Bool) (b d : BitVec 5) (bytes : Nat) (signed : Bool) : Outcome :=
  settle s (do
    let _ ← s.enterInstr .any .plain
    let zs ← s.access .read [.s b n] [.s b n] [{ index := 0, addr := effAddr (s.x b) o bytes, width := bytes }]
    s.issueLoad [.s b n] zs (.scalar d.toNat bytes signed) false)

/-- A scalar store (12 R316, R317). -/
def storeOp (s : State) (o : BitVec 10) (m n : Bool) (b d : BitVec 5) (bytes : Nat) : Outcome :=
  settle s (do
    let _ ← s.enterInstr .any .plain
    let os : List Opnd := [.s b n, .s d m]
    let zs ← s.access .write os os [{ index := 0, addr := effAddr (s.x b) o bytes, width := bytes }]
    .ok (s.issueStore os zs false (fun _ => (s.x d).toNat)))

/-- LB (12 R316). -/
def execLb (o : BitVec 10) (n : Bool) (b d : BitVec 5) (s : State) : Outcome := loadOp s o n b d 1 true

/-- LH (12 R316). -/
def execLh (o : BitVec 10) (n : Bool) (b d : BitVec 5) (s : State) : Outcome := loadOp s o n b d 2 true

/-- LW (12 R316). -/
def execLw (o : BitVec 10) (n : Bool) (b d : BitVec 5) (s : State) : Outcome := loadOp s o n b d 4 true

/-- LD (12 R316). -/
def execLd (o : BitVec 10) (n : Bool) (b d : BitVec 5) (s : State) : Outcome := loadOp s o n b d 8 false

/-- LBU (12 R316). -/
def execLbu (o : BitVec 10) (n : Bool) (b d : BitVec 5) (s : State) : Outcome := loadOp s o n b d 1 false

/-- LHU (12 R316). -/
def execLhu (o : BitVec 10) (n : Bool) (b d : BitVec 5) (s : State) : Outcome := loadOp s o n b d 2 false

/-- LWU (12 R316). -/
def execLwu (o : BitVec 10) (n : Bool) (b d : BitVec 5) (s : State) : Outcome := loadOp s o n b d 4 false

/-- SB (12 R316). -/
def execSb (o : BitVec 10) (m n : Bool) (b d : BitVec 5) (s : State) : Outcome := storeOp s o m n b d 1

/-- SH (12 R316). -/
def execSh (o : BitVec 10) (m n : Bool) (b d : BitVec 5) (s : State) : Outcome := storeOp s o m n b d 2

/-- SW (12 R316). -/
def execSw (o : BitVec 10) (m n : Bool) (b d : BitVec 5) (s : State) : Outcome := storeOp s o m n b d 4

/-- SD (12 R316). -/
def execSd (o : BitVec 10) (m n : Bool) (b d : BitVec 5) (s : State) : Outcome := storeOp s o m n b d 8

/-- The words of LDM and STM: `n` consecutive doublewords from `a`. -/
def runAccesses (a : Word) (n : Nat) : List Access :=
  (List.range n).map (fun i => { index := i, addr := a + BitVec.ofNat 64 (8 * i), width := 8 })

/-- LDM (12 R319, R320). -/
def execLdm (o : BitVec 10) (c : BitVec 3) (n : Bool) (b d : BitVec 5) (s : State) : Outcome :=
  settle s (do
    let _ ← s.enterInstr .any .plain
    let zs ← s.access .read [.s b n] [.s b n] (runAccesses (effAddr (s.x b) o 8) (c.toNat + 1))
    s.issueLoad [.s b n] zs (.ldm d.toNat (c.toNat + 1)) false)

/-- STM (12 R319, R320). -/
def execStm (o : BitVec 10) (c : BitVec 3) (n : Bool) (b d : BitVec 5) (s : State) : Outcome :=
  settle s (do
    let _ ← s.enterInstr .any .plain
    let os : List Opnd := .s b n :: (List.range (c.toNat + 1)).map (fun i => .s (BitVec.ofNat 5 (d.toNat + i)) false)
    let zs ← s.access .write os os (runAccesses (effAddr (s.x b) o 8) (c.toNat + 1))
    .ok (s.issueStore os zs false (fun i => (s.me.sval (d.toNat + i)).toNat)))

/-! ## Vector accesses (11 R307 to R310, R315) -/

/-- Bytes of an element (11 R307). -/
def elemWidth (e : BitVec 2) : Nat := 2 ^ e.toNat

/-- The accesses of the active lanes, in ascending order. -/
def laneAccesses (mask : BitVec 16) (w : Nat) (addr : Nat → Word) : List Access :=
  (List.range 16).filterMap (fun j => if active mask j then some { index := j, addr := addr j, width := w, lane := some j } else none)

/-- A vector load whose address registers are `ops` (11 R309, R310). With no active lane it makes no access. It leaves
rotation, be it complete at once (11 R295). -/
def vectorLoad (s : State) (k : BitVec 3) (d : BitVec 5) (ops : List Opnd) (xs : List Access) (bcast : Bool) :
    Outcome :=
  settle s (do
    let _ ← s.enterInstr .core .plain
    let os := laneOps ops k d false
    let zs ← s.access .read os (ops ++ [.k k]) xs
    if s.maskOf k = 0 then .ok (((s.consume s.cur os).retire 4).requeue s.cur)
    else (s.issueLoad os zs (.vector d.toNat bcast (s.maskOf k) (k ≠ 0)) false).map (fun s1 => s1.requeue s.cur))

/-- A vector store; it too leaves rotation (11 R295). -/
def vectorStore (s : State) (k : BitVec 3) (d : BitVec 5) (ops : List Opnd) (xs : List Access) : Outcome :=
  settle s (do
    let _ ← s.enterInstr .core .plain
    let os := ops ++ [.k k, .v d false]
    let zs ← s.access .write os os xs
    .ok ((s.issueStore os zs false (fun j => (lane (s.vx d) j).toNat)).requeue s.cur))

/-- sbase + j x w. -/
def unitAddr (base : Word) (w j : Nat) : Word := base + BitVec.ofNat 64 (j * w)
/-- sbase + j x stride. -/
def strideAddr (base stride : Word) (j : Nat) : Word := base + BitVec.ofNat 64 j * stride
/-- sbase + sext(index lane j) x w. -/
def indexAddr (base : Word) (ix : BitVec 512) (w j : Nat) : Word := base + (lane ix j).signExtend 64 * BitVec.ofNat 64 w

/-- VLD (11 R307). -/
def execVld (e : BitVec 2) (k : BitVec 3) (a d : BitVec 5) (s : State) : Outcome :=
  vectorLoad s k d [.s a false] (laneAccesses (s.maskOf k) (elemWidth e) (unitAddr (s.x a) (elemWidth e))) false

/-- VLDS (11 R307). -/
def execVlds (e : BitVec 2) (k : BitVec 3) (t a d : BitVec 5) (s : State) : Outcome :=
  vectorLoad s k d [.s a false, .s t false] (laneAccesses (s.maskOf k) (elemWidth e) (strideAddr (s.x a) (s.x t))) false

/-- VLDBC (11 R308): one access, but one per active lane in space 0xC. -/
def execVldbc (e : BitVec 2) (k : BitVec 3) (a d : BitVec 5) (s : State) : Outcome :=
  let w := elemWidth e
  if (s.x a).toNat / 2 ^ 60 = 12 then vectorLoad s k d [.s a false] (laneAccesses (s.maskOf k) w (fun _ => s.x a)) false
  else
    vectorLoad s k d [.s a false] (if s.maskOf k = 0 then [] else [{ index := 0, addr := s.x a, width := w }]) true

/-- VST (11 R307). -/
def execVst (e : BitVec 2) (k : BitVec 3) (a d : BitVec 5) (s : State) : Outcome :=
  vectorStore s k d [.s a false] (laneAccesses (s.maskOf k) (elemWidth e) (unitAddr (s.x a) (elemWidth e)))

/-- VSTS (11 R307). -/
def execVsts (e : BitVec 2) (k : BitVec 3) (t a d : BitVec 5) (s : State) : Outcome :=
  vectorStore s k d [.s a false, .s t false] (laneAccesses (s.maskOf k) (elemWidth e) (strideAddr (s.x a) (s.x t)))

/-- VGATHER (11 R307). -/
def execVgather (e : BitVec 2) (k : BitVec 3) (x a d : BitVec 5) (s : State) : Outcome :=
  vectorLoad s k d [.s a false, .v x false]
    (laneAccesses (s.maskOf k) (elemWidth e) (indexAddr (s.x a) (s.vx x) (elemWidth e))) false

/-- VSCATTER (11 R307). -/
def execVscatter (e : BitVec 2) (k : BitVec 3) (x a d : BitVec 5) (s : State) : Outcome :=
  vectorStore s k d [.s a false, .v x false]
    (laneAccesses (s.maskOf k) (elemWidth e) (indexAddr (s.x a) (s.vx x) (elemWidth e)))

/-- VLDB (11 R315): a chunk's bytes, each an element access of one byte. -/
def execVldb (a d : BitVec 5) (s : State) : Outcome :=
  settle s (do
    let m ← s.enterInstr .core .vldb
    let bytes := chunkBytes m.fa
    groupFits d (groupRegs bytes)
    if (s.x a).toNat / 2 ^ 60 = 12 then localFault (s.x a)
    else do
      let zs ← s.access .read [.s a false] [.s a false]
        ((List.range bytes).map (fun i => { index := i, addr := unitAddr (s.x a) 1 i, width := 1 }))
      (s.issueLoad [.s a false] zs (.vldb d.toNat (groupRegs bytes)) false).map (fun s1 => s1.requeue s.cur))

/-! ## AMLD and AMST (12 R336) -/

/-- The explicit active-message forms do not reach space 0xC. -/
def notLane (a : Word) : Except Stop Unit := if a.toNat / 2 ^ 60 = 12 then localFault a else .ok ()

/-- Whether a load's size code extends its sign (09 R248). -/
def sizeSigned (z : BitVec 3) : Bool := decide (z.toNat < 3)

/-- AMLD (12 R336): always through the home, with no overlay. -/
def execAmld (z : BitVec 3) (n : Bool) (a d : BitVec 5) (s : State) : Outcome :=
  settle s (do
    let _ ← s.enterInstr .core .plain
    notLane (s.x a)
    let w := 2 ^ (z.toNat % 4)
    let zs ← s.access .read [.s a n] [.s a n] [{ index := 0, addr := s.x a, width := w }]
    s.issueLoad [.s a n] zs (.scalar d.toNat w (sizeSigned z)) true)

/-- AMST (12 R336): a space 0x0 store bypasses the RSB. -/
def execAmst (z : BitVec 2) (m n : Bool) (b a : BitVec 5) (s : State) : Outcome :=
  settle s (do
    let _ ← s.enterInstr .core .plain
    notLane (s.x a)
    let os := rrOps m n b a
    let zs ← s.access .write os os [{ index := 0, addr := s.x a, width := 2 ^ z.toNat }]
    .ok (s.issueStore os zs true (fun _ => (s.x b).toNat)))

end Sys2Proof.Machine
end

