-- ==== Sys2Proof/Machine/Order.lean ====
section
/-! DEFINITION. The steps of the ordering machine that are no instruction: perform steps, recalls, evictions and receive
steps (05 R149 to R152). A step whose precondition does not hold leaves the state as it is (log entry 2). -/

namespace Sys2Proof.Machine

/-- Whether a thread of another core sends to core `k`: as active messages, which the core's handler performs (12 R334). -/
def isMessage (src : Src) (k : Nat) : Bool := match src with
  | .thread t => decide (coreOf t ≠ k)
  | .engine _ _ => false

/-- A home performs the first request of a FIFO, but for what an active-message handler performs. -/
def State.performAt (s : State) (src : Src) (h : Home) (pick : ReqKind → Bool) : State :=
  match h with
  | .core k => if isMessage src k then s else s.performHead src h pick
  | _ => s.performHead src h pick

/-- PERFORM_LOAD (05 R149, R150). -/
def execPerformLoad (src : Src) (h : Home) (s : State) : Outcome :=
  .next (s.performAt src h (fun r => match r with
    | .load _ => true
    | _ => false))

/-- PERFORM_STORE (05 R149, R150). -/
def execPerformStore (src : Src) (h : Home) (s : State) : Outcome :=
  .next (s.performAt src h (fun r => match r with
    | .store _ _ => true
    | _ => false))

/-- PERFORM_ATOMIC (05 R149, R150; 12 R321). -/
def execPerformAtomic (src : Src) (h : Home) (s : State) : Outcome :=
  .next (s.performAt src h (fun r => match r with
    | .atomic _ _ _ _ _ => true
    | _ => false))

/-- RECALL (05 R151), once the home may send to every sharer (05 R133). -/
def execRecall (line : Nat) (s : State) : Outcome :=
  .next (if (s.dir line).sharers.all (fun d => s.mayEnter (s.homeOfPa (128 * line)) (.core d)) then s.recallLine line else s)

/-- Sets or drops a core's L1 copy of a line. -/
def State.setL1 (s : State) (k line : Nat) (c : Option L1Line) : State :=
  s.updCore k (fun x => { x with l1 := NMap.set none x.l1 line c })

def State.l1 (s : State) (k line : Nat) : Option L1Line := NMap.get none (s.core k).l1 line

/-- The other lines of a core's L1 in the set of `line`: 64 sets by PA[12:7] (02 R61). -/
def Core.l1Mates (c : Core) (line : Nat) : List Nat :=
  c.l1.filterMap (fun p => if p.2.isSome && decide (p.1 % 64 = line % 64) && decide (p.1 ≠ line) then some p.1 else none)

/-- A copy enters a core's L1; where the 8 ways of its set are taken another line of the set leaves (02 R61). Which one is not
visible (log entry 7). -/
def State.fillL1 (s : State) (k line : Nat) (c : L1Line) : State :=
  let mates := (s.core k).l1Mates line
  if mates.length < 8 then s.setL1 k line (some c)
  else (State.setL1 { s with fresh := s.fresh + 1 } k (mates.getD (Config.victim s.fresh % mates.length) line) none).setL1 k line (some c)

/-- L1_EVICTION (05 R151). -/
def execL1Eviction (k line : Nat) (s : State) : Outcome := .next (s.setL1 k line none)

/-- The head of a receive queue (05 R133). -/
def State.headMsg (s : State) (r : Rcv) (h : Home) : Option Msg := s.rq.find? (fun m => m.dest = r && m.home = h)
def State.dropMsg (s : State) (m : Msg) : State := { s with rq := s.rq.erase m }

/-- A reply reaches a tag: one fewer to come, and the line is waited for where the flag is 0 (05 R152). -/
def Thread.tagReply (x : Thread) (g : Nat) (h : Home) (line : Nat) (flag : Bool) : Thread :=
  let y := NMap.get {} x.tags g
  let w := if flag || y.waits.contains (h, line) then y.waits else y.waits ++ [(h, line)]
  { x with tags := NMap.set {} x.tags g { y with replies := y.replies - 1, waits := w } }

/-- The bytes of one piece of the access in flight have come (05 R141, R152). -/
def Thread.pieceReply (x : Thread) (g part : Nat) (v : Word) : Thread :=
  { x with inflight := x.inflight.map (fun p =>
      if p.tag = some g then
        { p with pieces := p.pieces.map (fun q =>
            if q.index = part && q.val = none then
              { q with val := some (if q.overlay then BitVec.ofNat 64 (x.overlay q.place.loc q.bytes v.toNat) else v) }
            else q) }
      else p) }

/-- The last reply of an instruction completes it and returns its thread to rotation (05 R145, R152). -/
def State.completeAccess (s : State) (t g : Nat) : State :=
  match (s.thread t).inflight with
  | some p =>
    if p.tag = some g then
      let s1 := (s.updThread t (fun x => { x with inflight := none })).finishAccess t p.finish p.pieces (some g)
      if (s.thread t).run = .waiting .reply then s1.wake t else s1
    else s
  | none => s

/-- A reply to a thread's load or atomic is processed: the tag retires with its last reply where it waits for no line. -/
def State.threadReply (s : State) (t g : Nat) (h : Home) (line part : Nat) (flag : Bool) (v : Word) : State :=
  let s1 := s.updThread t (fun x => (x.tagReply g h line flag).pieceReply g part v)
  let y := NMap.get {} (s1.thread t).tags g
  if y.replies ≠ 0 then s1
  else
    let s2 := s1.completeAccess t g
    if y.waits = [] then s2.updThread t (fun x => x.retireTag g) else s2

/-- PROCESS_REPLY (05 R152). -/
def execProcessReply (k : Nat) (h : Home) (s : State) : Outcome :=
  match s.headMsg (.core k) h with
  | some m =>
    match m.kind with
    | .reply (.thread t) (some g) part place _ v data flag =>
      let s1 := s.dropMsg m
      let s2 := if place.cacheable && !isTscCore k then s1.fillL1 k m.line ⟨data, flag⟩ else s1
      .next (s2.threadReply t g h m.line part flag v)
    | _ => .next s
  | none => .next s

/-- The effects of an ACK (05 R152): the core's copy takes the bytes, the store settles or awaits its line. -/
def State.ackEffects (s : State) (k t : Nat) (h : Home) (line : Nat) (mask : BitVec 128) (data : BitVec 1024)
    (flag : Bool) : State :=
  let s1 := match s.l1 k line with
    | some c => s.setL1 k line (some ⟨overlayLine mask data c.data, flag⟩)
    | none => s
  s1.updThread t (fun x =>
    if flag then { x with storeCount := x.storeCount - 1 } else { x with awaiting := x.awaiting ++ [(h, line)] })

/-- PROCESS_ACK (05 R152); the REPLY of a posted AMOP is processed as one (12 R336). -/
def execProcessAck (k : Nat) (h : Home) (s : State) : Outcome :=
  match s.headMsg (.core k) h with
  | some m =>
    match m.kind with
    | .ack (.thread t) mask data flag => .next ((s.dropMsg m).ackEffects k t h m.line mask data flag)
    | .atomicReply (.thread t) _ _ _ mask data flag true => .next ((s.dropMsg m).ackEffects k t h m.line mask data flag)
    | _ => .next s
  | none => .next s

/-- PROCESS_ATOMIC_REPLY (05 R152): the effects of ACK, then those of REPLY without a copy. -/
def execProcessAtomicReply (k : Nat) (h : Home) (s : State) : Outcome :=
  match s.headMsg (.core k) h with
  | some m =>
    match m.kind with
    | .atomicReply (.thread t) (some g) part old mask data flag false =>
      .next (((s.dropMsg m).ackEffects k t h m.line mask data flag).threadReply t g h m.line part flag old)
    | _ => .next s
  | none => .next s

/-- SETTLE to every receiver that waits, once no invalidation is outstanding (05 R152). -/
def State.settleLine (s : State) (h : Home) (line : Nat) : State :=
  if s.settledAt line then
    let ws := (s.dir line).waiters
    State.updDir { s with rq := s.rq ++ ws.map (fun r => { dest := r, home := h, line := line, kind := .settle }) } line
      (fun d => { d with waiters := [] })
  else s

/-- PROCESS_INV (05 R152). -/
def execProcessInv (k : Nat) (h : Home) (s : State) : Outcome :=
  match s.headMsg (.core k) h with
  | some m =>
    match m.kind with
    | .inv =>
      let s1 := (s.dropMsg m).setL1 k m.line none
      let s2 := s1.updDir m.line (fun d => { d with invs := NMap.set 0 d.invs k (NMap.get 0 d.invs k - 1) })
      .next (s2.settleLine h m.line)
    | _ => .next s
  | none => .next s

/-- SETTLE for one thread: tags and stores that wait for the line (05 R152). -/
def Thread.settled (x : Thread) (h : Home) (line : Nat) : Thread :=
  let y := (List.range 8).foldl (fun (x : Thread) g =>
    let u := NMap.get {} x.tags g
    if u.busy && u.waits.contains (h, line) then
      let w := u.waits.filter (fun p => p ≠ (h, line))
      if w = [] && u.replies = 0 then x.retireTag g
      else { x with tags := NMap.set {} x.tags g { u with waits := w } }
    else x) x
  let mine := y.awaiting.filter (fun p => p = (h, line))
  if mine = [] then y
  else { y with awaiting := y.awaiting.filter (fun p => p ≠ (h, line)), storeCount := y.storeCount - mine.length }

/-- SETTLE for the threads of a core. -/
def State.settleCore (s : State) (h : Home) (line : Nat) : List Nat → State
  | [] => s
  | t :: ts => (s.updThread t (fun x => x.settled h line)).settleCore h line ts

/-- PROCESS_SETTLE (05 R152). -/
def execProcessSettle (k : Nat) (h : Home) (s : State) : Outcome :=
  match s.headMsg (.core k) h with
  | some m =>
    match m.kind with
    | .settle =>
      let s1 := s.dropMsg m
      let s2 := match s1.l1 k m.line with
        | some c => s1.setL1 k m.line (some { c with settled := true })
        | none => s1
      .next (s2.settleCore h m.line (coreThreads k))
    | _ => .next s
  | none => .next s

end Sys2Proof.Machine
end

