-- ==== Sys2Proof/Machine/Atomic.lean ====
section
/-! DEFINITION. Atomics and AMOP (12 R321 to R323, R336). -/

namespace Sys2Proof.Machine

/-- Checks the one access of an instruction (01 R17): its place, or none where it must be translated. -/
def State.checkOne (s : State) (x : Access) : Except Stop (Option Place) :=
  match s.check s.cur x.addr x.width x.lane with
  | .trap c => .error (.trap { cause := c, fadr := some x.addr })
  | .global => .ok none
  | .place p => .ok (some p)

/-- As `ready`, for one access. -/
def State.readyOne (s : State) (acc : Acc4) (os pre : List Opnd) (x : Access) (p? : Option Place) : Except Stop Place := do
  s.refilled os
  s.untainted pre
  match p? with
  | some p => .ok p
  | none => s.translate acc x.addr

/-- The issue step that a commit point begins with (05 R146): the sources consumed, the pc past the instruction, the
drain, and a new region there. -/
def State.issueCommit (s : State) (os : List Opnd) : State :=
  let s1 := (s.consume s.cur os).retire 4
  s1.commitPoint s1.cur s1.me.pc

/-- The issue step of an atomic that takes a tag (05 R143). -/
def State.issueAtomic (s : State) (os : List Opnd) (p : Place) (kind : ReqKind) (bytes : Nat) (d : BitVec 5) (dbl : Bool)
    (g : Nat) : State :=
  let t := s.cur
  let s1 := s.issueCommit os
  let r : Req := { src := .thread t, place := p, kind := kind, tag := some g }
  let s2 := { s1 with fifo := s1.fifo ++ [r] }
  (s2.updThread t (fun x => { x.takeTag g 1 [] [(p.home, lineOf p.loc)] with
    storeCount := x.storeCount + 1
    inflight := some ⟨some g, .atomic d.toNat true dbl, [⟨0, p, bytes, false, none⟩]⟩ })).stop t (.waiting .reply)

/-- The issue step of a posted AMOP (12 R336): no tag, and the thread stays in rotation, unless a cluster-memory way is not yet
usable (02 R65). -/
def State.issuePosted (s : State) (os : List Opnd) (p : Place) (kind : ReqKind) : State :=
  let t := s.cur
  let s1 := s.issueCommit os
  let r : Req := { src := .thread t, place := p, kind := kind, posted := true }
  let s2 := { s1 with fifo := s1.fifo ++ [r] }
  let s3 := s2.updThread t (fun x => { x with storeCount := x.storeCount + 1 })
  if s.waitsForWay p then s3.windowWait [({ index := 0, addr := 0, width := 8 }, p)] else s3.holdPush

/-- Whether an operation raises a multiplicity trap when `mc` exceeds 1 (12 R321). -/
def AtomOp.single : AtomOp → Bool
  | .aswap => true
  | .acas => true
  | _ => false

/-- ATOMIC and AMOP (12 R321, R322, R336): decoding, the address checks, the multiplicity check; then taint, translation and
a tag; then the issue step of 05 R143. -/
def atomicOp (s : State) (op : AtomOp) (amop z m n : Bool) (b a d : BitVec 5) : Outcome :=
  settle s (do
    let _ ← s.enterInstr .core .plain
    (if amop then notLane (s.x a) else .ok ())
    let x : Access := { index := 0, addr := s.x a, width := if z then 8 else 4 }
    let p? ← s.checkOne x
    (if op.single && decide (1 < s.me.mc) then multTrap else .ok ())
    s.notCancelled
    let os := rrOps m n b a ++ (if op = .acas then [.s d false] else [])
    let p ← s.readyOne .rmw os os x p?
    let kind := ReqKind.atomic op z (s.x b) (s.x d) s.me.mc
    if amop && decide (d = 0) then .ok (s.issuePosted os p kind)
    else do
      let g ← s.me.needTag
      .ok (s.issueAtomic os p kind x.width d z g))

/-- AADD (12 R321). -/
def execAadd (z m n : Bool) (b a d : BitVec 5) (s : State) : Outcome := atomicOp s .aadd false z m n b a d

/-- AFADD (12 R321). -/
def execAfadd (z m n : Bool) (b a d : BitVec 5) (s : State) : Outcome := atomicOp s .afadd false z m n b a d

/-- AMIN (12 R321). -/
def execAmin (z m n : Bool) (b a d : BitVec 5) (s : State) : Outcome := atomicOp s .amin false z m n b a d

/-- AMAX (12 R321). -/
def execAmax (z m n : Bool) (b a d : BitVec 5) (s : State) : Outcome := atomicOp s .amax false z m n b a d

/-- AMINU (12 R321). -/
def execAminu (z m n : Bool) (b a d : BitVec 5) (s : State) : Outcome := atomicOp s .aminu false z m n b a d

/-- AMAXU (12 R321). -/
def execAmaxu (z m n : Bool) (b a d : BitVec 5) (s : State) : Outcome := atomicOp s .amaxu false z m n b a d

/-- AAND (12 R321). -/
def execAand (z m n : Bool) (b a d : BitVec 5) (s : State) : Outcome := atomicOp s .aand false z m n b a d

/-- AOR (12 R321). -/
def execAor (z m n : Bool) (b a d : BitVec 5) (s : State) : Outcome := atomicOp s .aor false z m n b a d

/-- AXOR (12 R321). -/
def execAxor (z m n : Bool) (b a d : BitVec 5) (s : State) : Outcome := atomicOp s .axor false z m n b a d

/-- ASWAP (12 R321). -/
def execAswap (z m n : Bool) (b a d : BitVec 5) (s : State) : Outcome := atomicOp s .aswap false z m n b a d

/-- ACAS (12 R321). -/
def execAcas (z m n : Bool) (b a d : BitVec 5) (s : State) : Outcome := atomicOp s .acas false z m n b a d

/-- AMOP AADD (12 R336). -/
def execAmopAadd (z m n : Bool) (b a d : BitVec 5) (s : State) : Outcome := atomicOp s .aadd true z m n b a d

/-- AMOP AFADD (12 R336). -/
def execAmopAfadd (z m n : Bool) (b a d : BitVec 5) (s : State) : Outcome := atomicOp s .afadd true z m n b a d

/-- AMOP AMIN (12 R336). -/
def execAmopAmin (z m n : Bool) (b a d : BitVec 5) (s : State) : Outcome := atomicOp s .amin true z m n b a d

/-- AMOP AMAX (12 R336). -/
def execAmopAmax (z m n : Bool) (b a d : BitVec 5) (s : State) : Outcome := atomicOp s .amax true z m n b a d

/-- AMOP AMINU (12 R336). -/
def execAmopAminu (z m n : Bool) (b a d : BitVec 5) (s : State) : Outcome := atomicOp s .aminu true z m n b a d

/-- AMOP AMAXU (12 R336). -/
def execAmopAmaxu (z m n : Bool) (b a d : BitVec 5) (s : State) : Outcome := atomicOp s .amaxu true z m n b a d

/-- AMOP AAND (12 R336). -/
def execAmopAand (z m n : Bool) (b a d : BitVec 5) (s : State) : Outcome := atomicOp s .aand true z m n b a d

/-- AMOP AOR (12 R336). -/
def execAmopAor (z m n : Bool) (b a d : BitVec 5) (s : State) : Outcome := atomicOp s .aor true z m n b a d

/-- AMOP AXOR (12 R336). -/
def execAmopAxor (z m n : Bool) (b a d : BitVec 5) (s : State) : Outcome := atomicOp s .axor true z m n b a d

/-- AMOP ASWAP (12 R336). -/
def execAmopAswap (z m n : Bool) (b a d : BitVec 5) (s : State) : Outcome := atomicOp s .aswap true z m n b a d

/-- AMOP ACAS (12 R336). -/
def execAmopAcas (z m n : Bool) (b a d : BitVec 5) (s : State) : Outcome := atomicOp s .acas true z m n b a d

end Sys2Proof.Machine
end

