-- ==== Sys2Proof/Machine/FenceTaint.lean ====
section
/-! DEFINITION. FENCE, the taint instructions and the format prefix (06 R159, R161 to R163; 12 R324, R325; 09 R266, R267). -/

namespace Sys2Proof.Machine

/-- Whether a fence of a scope considers a home (06 R162): 0 core, 1 cluster, 2 device, 3 system. -/
def homeInScope (k : Nat) (scope : Nat) (h : Home) : Bool :=
  match scope with
  | 0 => decide (h = .core k)
  | 1 => match h with
    | .core j => decide (clusterOf j = clusterOf k)
    | .expander cl => decide (cl = clusterOf k)
    | _ => false
  | 2 => decide (h ≠ .io)
  | _ => true

/-- Whether a STORE or ATOMIC of the thread, or the answer to one, is on its way to or from a home in scope. -/
def State.inFlightTo (s : State) (t : Nat) (inScope : Home → Bool) : Bool :=
  s.fifo.any (fun r => r.src = .thread t && inScope r.place.home && r.kind.writes) ||
  s.rq.any (fun m => inScope m.home && match m.kind with
    | .ack src _ _ _ => decide (src = .thread t)
    | .atomicReply src _ _ _ _ _ _ _ => decide (src = .thread t)
    | _ => false)

/-- Whether a tag's requests or wait set involve a home in scope (06 R161). -/
def Tag.involves (y : Tag) (inScope : Home → Bool) : Bool := y.homes.any (fun h => inScope h.1) || y.waits.any (fun w => inScope w.1)

/-- The condition of 06 R161. -/
def State.fenceHolds (s : State) (t : Nat) (mask : BitVec 4) (scope : Nat) : Bool :=
  let x := s.thread t
  let inScope := homeInScope (coreOf t) scope
  let loads := x.tags.all (fun p => !p.2.busy || !p.2.involves inScope)
  let stores := x.awaiting.all (fun w => !inScope w.1) && !s.inFlightTo t inScope
  ((mask &&& 3#4) = 0 || loads) && ((mask &&& 12#4) = 0 || stores)

/-- FENCE (06 R161 to R163; 12 R324). -/
def execFence (sc : BitVec 2) (k : BitVec 4) (s : State) : Outcome :=
  settle s (do
    let _ ← s.enterInstr .core .plain
    let s1 := if (k &&& 12#4) ≠ 0 && decide (2 ≤ sc.toNat) && decide (s.me.rsb ≠ []) then s.overflowDrain s.cur else s
    if s1.fenceHolds s1.cur k sc.toNat then .ok (s1.retire 4)
    else .error (.goto (s1.stop s1.cur (.waiting (.fence k sc)))))

/-- The taint of a register, scalar or vector. -/
def regOpnd (vec : Bool) (r : BitVec 5) (last : Bool) : Opnd := if vec then .v r last else .s r last

/-- Clears a register's taint set; its value and mapping stay (06 R159). -/
def Thread.clearTaint (x : Thread) (vec : Bool) (r : Nat) : Thread :=
  if vec then { x with v := NMap.set {} x.v r { NMap.get {} x.v r with taint := 0 } }
  else if r = 0 then x
  else { x with s := NMap.set {} x.s r { NMap.get {} x.s r with taint := 0 } }

/-- TCLR (06 R159, 12 R325). -/
def execTclr (v : Bool) (d : BitVec 5) (s : State) : Outcome :=
  settle s (do
    let _ ← s.enterInstr .core .plain
    .ok ((s.updMe (fun x => x.clearTaint v d.toNat)).retire 4))

/-- TJOIN (06 R159, 12 R325): the value of d stays, its taint takes that of a. -/
def execTjoin (w v n : Bool) (a d : BitVec 5) (s : State) : Outcome :=
  settle s (do
    let _ ← s.enterInstr .core .plain
    let os := [regOpnd w a n, regOpnd v d false]
    s.refilled os
    let taint := taintOf s.me os
    .ok (if v then s.putV os d (s.vx d) taint 4 else s.putS os d (s.x d) 4))

/-- TWAIT (06 R159, 12 R325). -/
def execTwait (w n : Bool) (a : BitVec 5) (s : State) : Outcome :=
  settle s (do
    let _ ← s.enterInstr .core .plain
    let os := [regOpnd w a n]
    s.refilled os
    s.untainted os
    .ok ((s.consume s.cur os).retire 4))

/-- FMT (09 R266, R267): the prefix is pending for the next instruction. -/
def execFmt (sat : Bool) (r : BitVec 3) (d b a : BitVec 5) (s : State) : Outcome :=
  settle s (do
    let _ ← s.enterInstr .core .plain
    let p : BitVec 25 := BitVec.ofNat 25 (a.toNat + 2 ^ 5 * b.toNat + 2 ^ 10 * d.toNat + 2 ^ 15 * r.toNat +
      (if sat then 2 ^ 18 else 0))
    .ok ((s.retire 4).updMe (fun x => { x with pfx := true, fmtpend := p })))

end Sys2Proof.Machine
end

