-- ==== Sys2Proof/Machine/Sync.lean ====
section
/-! DEFINITION. Barriers and channels, and the active-message handler (12 R326 to R335). -/

namespace Sys2Proof.Machine

/-! ## Barriers -/

/-- The registers of a list that are marked last-use. -/
def lastOf (rs : List (BitVec 5 × Bool)) : List (BitVec 5) := rs.filterMap (fun p => if p.2 then some p.1 else none)

/-- The issue step of a commit point that completes later (05 R146): the drain, and a region that begins at the next
instruction; the pc stays at the instruction. -/
def State.beginCommit (s : State) (st : Stage) : State :=
  let pc := s.me.pc + 4
  (s.commitPoint s.cur pc).updThread s.cur (fun x => { x with stage := some st })

/-- A thread with a second half pending waits for a pool slot for its children, or for Drained. -/
def State.awaitDrained (s : State) (t : Nat) : State :=
  s.stop t (.waiting (if (s.thread t).releasing = [] then .drained else .push))

/-- BAR, BARADD and BARFADD (06 R169, 12 R327): the group word first (R328), then the commit drain; the arrival follows
when the thread is Drained. -/
def barrierOp (s : State) (kind : Nat) (dbl : Bool) (rs : List (BitVec 5 × Bool)) (a b d : BitVec 5) : Outcome :=
  settle s (do
    let _ ← s.enterInstr .core .plain
    (if groupLegal s.me.rect (coreOf s.cur) (s.x a) then .ok () else illegal)
    s.notCancelled
    s.refilled (rs.map (fun p => .s p.1 p.2))
    let arr : Arrival := { launch := s.me.launch, group := s.x a, t := s.cur, kind := kind, dbl := dbl, d := d.toNat,
                           val := s.x b, mc := s.me.mc, unmap := lastOf rs }
    .ok (((s.reads (rs.map (fun p => .s p.1 p.2))).beginCommit (.barrier arr)).awaitDrained s.cur))

/-- BAR (12 R327). -/
def execBar (n : Bool) (a : BitVec 5) (s : State) : Outcome := barrierOp s 0 false [(a, n)] a 0 0

/-- BARADD (12 R327). -/
def execBaradd (z m n : Bool) (b a d : BitVec 5) (s : State) : Outcome := barrierOp s 1 z [(a, n), (b, m)] a b d

/-- BARFADD (12 R327). -/
def execBarfadd (m n : Bool) (b a d : BitVec 5) (s : State) : Outcome := barrierOp s 2 false [(a, n), (b, m)] a b d

/-- BARRIER_ARRIVAL (12 R327): a Drained thread registers its arrival, with `mc` as it stands, and parks; the barrier
completes with the last member's. -/
def execBarrierArrival (t : Nat) (s : State) : Outcome :=
  let x := s.thread t
  match x.stage with
  | some (.barrier a) =>
    if x.run = .waiting .drained && x.drained then
      let cl := groupHome a.group
      let s1 := (s.updThread t (fun y => { y with stage := none })).updCluster cl (fun c => { c with
        arrivals := c.arrivals ++ [{ a with mc := x.mc }] })
      .next ((s1.stop t (.parked .barrier)).checkBarrier cl a.launch a.group)
    else .next s
  | _ => .next s

/-! ## Channels -/

/-- Whether a channel word is legal for a thread (12 R329). -/
def channelLegal (r : Rect) (w : Word) : Bool :=
  decide (w.toNat / 2 ^ 20 = 0) && decide (field w 7 6 = 0) &&
    match ofCoreField (field w 19 8) with
    | some k => r.has k
    | none => false

/-- The cluster of a channel word. -/
def channelCluster (w : Word) : Nat := match ofCoreField (field w 19 8) with
  | some k => clusterOf k
  | none => 0

/-- The record of a key, or a free one (12 R330). -/
def Cluster.channel (c : Cluster) (launch chan : Nat) : Option Nat :=
  match c.chans.find? (fun p => p.2.live && decide (p.2.launch = launch) && decide (p.2.chan = chan)) with
  | some p => some p.1
  | none => (List.range 64).find? (fun i => !(NMap.get {} c.chans i).live)

/-- A cluster's channel record `i`, allocated for a key where it is free. -/
def Cluster.record (c : Cluster) (i launch chan : Nat) : Chan :=
  let r := NMap.get {} c.chans i
  if r.live then r else { live := true, launch := launch, chan := chan }

/-- Stores a record; one whose FIFO is empty and on which no thread waits frees (12 R330). -/
def State.setChan (s : State) (cl i : Nat) (r : Chan) : State :=
  let r' : Chan := if r.fifo = [] && r.recvs = [] && r.sends = [] then {} else r
  s.updCluster cl (fun c => { c with chans := NMap.set {} c.chans i r' })

/-- A thread that waited on a channel completes: a receiver takes `v`. -/
def State.channelDone (s : State) (w : ChanWait) (v : Option Word) : State :=
  let s1 := s.unmap w.t w.unmap
  let s2 := match v with
    | some x => s1.setS w.t w.d x 0
    | none => s1
  (s2.updThread w.t (fun x => { x with pc := x.pc + 4, pfx := false, boundary := false })).wake w.t

/-- Appends a word to a record, whose first waiting receiver takes it (12 R331, R332); the cluster counts its sends. -/
def State.channelPut (s : State) (cl i : Nat) (r : Chan) (t : Nat) (v : Word) : State :=
  let n := (s.cluster cl).sends + 1
  let s1 := s.updCluster cl (fun c => { c with sends := n })
  let r1 := { r with last := some t, sent := n }
  match r1.recvs with
  | w :: ws => (s1.setChan cl i { r1 with recvs := ws }).channelDone w (some v)
  | [] => s1.setChan cl i { r1 with fifo := r1.fifo ++ [v] }

/-- A thread meets a channel record in the order of one cycle: the lower core, then the lower context first (12 R331, R332). -/
def State.meetChannel (s : State) (cl chan : Nat) (send : Bool) : Except Stop State :=
  if s.tieOk (.chan cl s.me.launch chan send) s.cur then .ok (s.tie (.chan cl s.me.launch chan send) s.cur)
  else .error (.goto s)

/-- CHSEND (12 R331). -/
def execChsend (m n : Bool) (b a : BitVec 5) (s : State) : Outcome :=
  settle s (do
    let _ ← s.enterInstr .core .plain
    (if channelLegal s.me.rect (s.x a) then .ok () else illegal)
    let os := rrOps m n b a
    s.refilled os
    s.untainted os
    let s1 := if s.me.rsb = [] then s else s.overflowDrain s.cur
    if !s1.me.storesSettled then .error (.goto (s1.stop s1.cur (.waiting .settled)))
    else
      let cl := channelCluster (s.x a)
      let chan := field (s.x a) 5 0
      match (s.cluster cl).channel s.me.launch chan with
      | none => waitFor (.channelRecord cl chan)
      | some i => do
        let s ← s.meetChannel cl chan true
        let r := (s.cluster cl).record i s.me.launch chan
        if r.fifo.length < 8 then .ok (((s.channelPut cl i r s.cur (s.x b)).consume s.cur os).retire 4)
        else
          let w : ChanWait := { t := s.cur, word := s.x b, unmap := lastOf [(a, n), (b, m)] }
          .error (.goto (((s.reads os).setChan cl i { r with sends := r.sends ++ [w] }).stop s.cur (.waiting (.channel i true)))))

/-- CHRECV (12 R332): the oldest word, and the first waiting sender's goes in. -/
def execChrecv (n : Bool) (a d : BitVec 5) (s : State) : Outcome :=
  settle s (do
    let _ ← s.enterInstr .core .plain
    (if channelLegal s.me.rect (s.x a) then .ok () else illegal)
    let os : List Opnd := [.s a n]
    s.refilled os
    s.untainted os
    let cl := channelCluster (s.x a)
    let chan := field (s.x a) 5 0
    match (s.cluster cl).channel s.me.launch chan with
    | none => waitFor (.channelRecord cl chan)
    | some i => do
      let s ← s.meetChannel cl chan false
      let r := (s.cluster cl).record i s.me.launch chan
      match r.fifo with
      | v :: vs =>
        let s1 := (((s.setChan cl i { r with fifo := vs }).consume s.cur os).setS s.cur d.toNat v 0).retire 4
        match r.sends with
        | [] => .ok s1
        | w :: ws => .ok ((s1.channelPut cl i { r with fifo := vs, sends := ws } w.t w.word).channelDone w none)
      | [] =>
        let w : ChanWait := { t := s.cur, word := s.x a, d := d.toNat, unmap := lastOf [(a, n)] }
        .error (.goto (((s.reads os).setChan cl i { r with recvs := r.recvs ++ [w] }).stop s.cur (.waiting (.channel i false)))))

/-- The receive waits of a cluster as (thread, record, the last send to it). -/
def Cluster.recvWaits (c : Cluster) : List (Nat × Nat × Nat) :=
  c.chans.flatMap (fun p => p.2.recvs.map (fun w => (w.t, p.1, p.2.sent)))

/-- The thread that a receive wait's edge leads to (12 R333). -/
def Cluster.edge (c : Cluster) (ws : List (Nat × Nat × Nat)) (t : Nat) : Option Nat :=
  match ws.find? (fun w => w.1 = t) with
  | some w => (NMap.get {} c.chans w.2.1).last
  | none => none

/-- The threads on the path from `t`, while they wait in this cluster and waited so at the previous scan. -/
def Cluster.path (c : Cluster) (ws : List (Nat × Nat × Nat)) (t : Nat) : Nat → List Nat
  | 0 => []
  | n + 1 =>
    if ws.any (fun w => w.1 = t && c.scan.contains w) then
      match c.edge ws t with
      | some u => t :: c.path ws u n
      | none => [t]
    else []

/-- Whether `t` is the lowest thread of a deadlocked cycle: its path comes back to it, and nothing on the way is lower. -/
def Cluster.deadlocked (c : Cluster) (ws : List (Nat × Nat × Nat)) (t : Nat) : Bool :=
  match c.path ws t (ws.length + 1) with
  | [] => false
  | _ :: rest =>
    let loop := rest.takeWhile (fun u => u ≠ t)
    rest.contains t && loop.all (fun u => decide (t ≤ u))

/-- CHANNEL_DEADLOCK_SCAN (12 R333): every 4,096 cycles; the lowest thread of each deadlocked cycle traps. The scan keeps the waits it
has found, those of its victims among them. -/
def execChannelDeadlockScan (cl : Nat) (s : State) : Outcome :=
  if (s.cycle - s.dieReset) % 4096 ≠ 0 || s.tieTaken (.scan cl) then .next s
  else
    let s := s.tie (.scan cl) 0
    let c := s.cluster cl
    let ws := c.recvWaits
    let victims := c.chans.flatMap (fun p => (p.2.recvs.filter (fun w => c.deadlocked ws w.t)).map (fun w => (p.1, w)))
    let s1 := victims.foldl (fun s v =>
      let r := NMap.get {} (s.cluster cl).chans v.1
      (s.setChan cl v.1 { r with recvs := r.recvs.filter (fun w => w.t ≠ v.2.t) }).trapEntry v.2.t
        { cause := causeDeadlock, fadr := some v.2.word }) s
    .next (s1.updCluster cl (fun d => { d with scan := ws }))

/-! ## Active messages -/

/-- The handler's context of a core. -/
def handlerOf (k : Nat) : Nat := 16 * k + 14

/-- The handler of core `k` issues in its barrel slot (07 R187); it issues again 8 cycles later at the earliest (07 R188). -/
def State.handlerIssues (s : State) (k : Nat) : State :=
  ((s.tie (.issue k) 0).updCore k (fun c => c.issued (handlerOf k))).updThread (handlerOf k) (fun x => { x with notBefore := s.cycle + 8 })

/-- Whether the handler of core `k` can issue now: its slot's cycle, in which the core has not issued, and 8 cycles after its last
issue. -/
def State.handlerTurn (s : State) (k : Nat) : Bool :=
  decide ((s.core k).slotOf (handlerOf k) = some (s.cycle % 8)) && !s.tieTaken (.issue k) &&
    decide ((s.thread (handlerOf k)).notBefore ≤ s.cycle)

/-- The handler of core `k` leaves rotation once no message is left. -/
def State.handlerRest (s : State) (k : Nat) : State :=
  if s.fifo.any (fun r => decide (r.place.home = .core k) && isMessage r.src k) then s
  else s.updCore k (fun c => c.leave (handlerOf k))

/-- The handler of core `k` issues for the first request `r` of a FIFO: an atomic takes an issue for its access and one for its
update (12 R334), between which it may issue for other senders. -/
def State.handle (s : State) (src : Src) (k : Nat) (r : Req) : State :=
  match r.kind, (s.core k).handling.contains r with
  | .atomic _ _ _ _ _, false => (s.handlerIssues k).updCore k (fun c => { c with handling := c.handling ++ [r] })
  | _, _ => (((s.handlerIssues k).performHead src (.core k) (fun _ => true)).updCore k (fun c =>
      { c with handling := c.handling.erase r })).handlerRest k

/-- A thread whose message reaches a gated core leaves rotation till it is awake (02 R57; 07 R188); at a drowsy bank the handler is
held (02 R56). -/
def State.holdAtGate (s : State) (r : Req) (k : Nat) : State :=
  match r.src with
  | .thread t => if (s.core k).gated && decide ((s.thread t).run = .ready) then s.stop t (.waiting (.gate k)) else s
  | .engine _ _ => s

/-- ACTIVE_MESSAGE (12 R334, R335): a message of another core's thread wakes the core or the bank it needs, makes the handler in
context 14 ready, and performs in the handler's barrel slot. -/
def execActiveMessage (src : Src) (k : Nat) (s : State) : Outcome :=
  match s.headReq src (.core k) with
  | none => .next s
  | some r =>
    if !isMessage src k || !s.mayAnswer r then .next s
    else if !s.homeReady r.place then .next ((s.homePrepare r.place .expanding).holdAtGate r k)
    else if ((s.core k).slotOf (handlerOf k)).isNone then .next (s.updCore k (fun c => c.enter (handlerOf k) s.cycle))
    else if !s.handlerTurn k then .next s
    else .next (s.handle src k r)

end Sys2Proof.Machine
end

