-- ==== Sys2Proof/Machine/ThreadCtl.lean ====
section
/-! DEFINITION. FORK, MEET, MEET.C, DONE, ALIGN, YIELD, and the steps of meets and align records (07 R197 to R204; 14 R367
to R370). -/

namespace Sys2Proof.Machine

/-! ## FORK -/

/-- Every bound handle of a set counts one binding more (13 R337). -/
def State.addHandles (s : State) (k : Nat) (hs : NMap (Option Nat)) : State :=
  hs.foldl (fun s p => match p.2 with
    | some e => s.updTile k e (fun x => { x with refs := x.refs + 1 })
    | none => s) s

/-- Registers as a child takes them: every taint is empty, since Loads settled holds (06 R160, 07 R198). -/
def clearS (m : NMap SReg) : NMap SReg := m.map (fun p => (p.1, { p.2 with taint := 0 }))
def clearV (m : NMap VReg) : NMap VReg := m.map (fun p => (p.1, { p.2 with taint := 0 }))

/-- The pending child of a FORK (07 R198, R199; 14 R367). -/
def Thread.child (x : Thread) (d id now : Nat) : Child :=
  { dst := d, pc := nextBlock x.pc, s := if d = 0 then clearS x.s else NMap.set {} (clearS x.s) d ⟨1, 0, .physical, id, now⟩,
    v := clearV x.v, k := restoreK 0 x.k,
    mc := x.mc, srseed := x.srseed, handles := x.handles, sv := x.sv, tvec := x.tvec, escratch := x.escratch, bsrd := x.bsrd,
    bswr := x.bswr, bsacc := x.bsacc, prio := x.prio, args := (List.range 6).map (fun i => x.sval (i + 1)) }

/-- FORK (14 R367). Of the two registers it writes the child's takes its physical register first (07 R192). -/
def execFork (p : BitVec 5) (s : State) : Outcome :=
  settle s (do
    let _ ← s.enterInstr .userContext .plain
    (if decide (8 ≤ s.me.children.length) then illegal else .ok ())
    if !s.me.loadsSettled then waitFor .loads
    else
      let k := coreOf s.cur
      let s0 := (s.consume s.cur []).updMe (Thread.uses [(false, p.toNat)])
      let s1 := if p = 0 then s0 else s0.makeRoom s.cur false
      let c := s1.me.child p.toNat (s1.core k).nextId s.cycle
      let s2 := (s1.addHandles k s.me.handles).updCore k (fun y => { y with nextId := y.nextId + 1 })
      .ok (((s2.updMe (fun x => { x with children := x.children ++ [c] })).setS s.cur p.toNat 0 0).retire 4))

/-! ## Meets -/

/-- Whether a live-state word has its reserved bits clear (09 R256). -/
def liveWordLegal (w : Word) : Bool := decide (w.toNat / 2 ^ 46 = 0)

/-- The registers that the live-state word `w` names (07 R200); bit 0 of the scalar mask is ignored. -/
def liveRegs (w : Word) : List Opnd :=
  (List.range 32).filterMap (fun i => if decide (i ≠ 0) && w.getLsbD i then some (.s (BitVec.ofNat 5 i) false) else none) ++
    (List.range 8).filterMap (fun i => if w.getLsbD (32 + i) then some (.v (BitVec.ofNat 5 i) false) else none)

/-- The registers an arrival reads: its own and those it names. -/
def meetRegs (x : Thread) (weld : Bool) (p q : BitVec 5) : List Opnd :=
  (.s p false :: if weld then [.s q false] else []) ++ liveRegs (x.sval p.toNat)

/-- MEET and MEET.C (14 R368): the checks, the drain; the arrival registers when the thread is Drained. -/
def meetOp (s : State) (weld : Bool) (p q : BitVec 5) (w : BitVec 12) : Outcome :=
  settle s (do
    let _ ← s.enterInstr .userContext .plain
    (if liveWordLegal (s.x p) then .ok () else illegal)
    (if !weld || (groupLegal s.me.rect (coreOf s.cur) (s.x q) && decide (field (s.x q) 14 12 ≤ 2) && decide (field (s.x q) 17 15 ≤ 2))
      then .ok () else illegal)
    s.notCancelled
    s.refilled (meetRegs s.me weld p q)
    .ok (((s.reads (meetRegs s.me weld p q)).beginCommit (.meet weld p.toNat q.toNat w.toNat)).awaitDrained s.cur))

/-- MEET (14 R368). -/
def execMeet (w : BitVec 12) (p : BitVec 5) (s : State) : Outcome := meetOp s false p 0 w

/-- MEET.C (14 R368). -/
def execMeetC (w : BitVec 12) (q p : BitVec 5) (s : State) : Outcome := meetOp s true p q w

/-- A meet table: the weld table of cluster `u`, or the core table of core `u`. -/
def State.meets (s : State) (weld : Bool) (u : Nat) : NMap Meet := if weld then (s.cluster u).weld else (s.core u).meets

def State.setMeet (s : State) (weld : Bool) (u e : Nat) (m : Meet) : State :=
  if weld then s.updCluster u (fun c => { c with weld := NMap.set {} c.weld e m })
  else s.updCore u (fun c => { c with meets := NMap.set {} c.meets e m })

/-- The live state of an arrival (07 R200); bit 0 of the scalar mask is ignored. -/
def Thread.arrival (x : Thread) (weld : Bool) (p q : Nat) : Meet :=
  let w := x.sval p
  let sm : BitVec 32 := w.setWidth 32 &&& ~~~1#32
  let vm : BitVec 8 := w.extractLsb' 32 8
  { valid := true, launch := x.launch, site := field w 45 40, smask := sm, vmask := vm,
    group := if weld then (x.sval q).toNat else 0,
    lives := (List.range 32).filterMap (fun i => if sm.getLsbD i then some (x.sval i).toNat else none) ++
      (List.range 8).filterMap (fun i => if vm.getLsbD i then some (x.vval i).toNat else none) }

/-- Two arrivals are equal (07 R200). -/
def Meet.same (a b : Meet) : Bool :=
  a.valid && b.valid && decide (a.launch = b.launch) && decide (a.site = b.site) && decide (a.smask = b.smask) &&
    decide (a.vmask = b.vmask) && decide (a.group = b.group) && decide (a.lives = b.lives)

/-- A thread goes on past a MEET. -/
def State.passMeet (s : State) (t : Nat) : State := (s.updThread t (fun x => { x with stage := none, pc := x.pc + 4 })).wake t

/-- A holder is released with mc := COUNT, which enters its checkpoint; its entry becomes free (07 R203, 18 R428). -/
def State.releaseHolder (s : State) (weld : Bool) (u e : Nat) : State :=
  let m := NMap.get {} (s.meets weld u) e
  let s1 := (s.setMeet weld u e {}).updThread m.holder (fun x => { x with mc := m.count, ckpt := { x.ckpt with mc := m.count } })
  s1.passMeet m.holder

/-- The registration of a Drained arriver (07 R201). -/
def State.registerMeet (s : State) (t : Nat) (weld : Bool) (p q w : Nat) : State :=
  let x := s.thread t
  let u := if weld then clusterOf (coreOf t) else coreOf t
  let a := x.arrival weld p q
  let table := s.meets weld u
  match table.find? (fun m => m.2.same a) with
  | some m =>
    if m.2.count + x.mc ≤ 2 ^ 32 - 1 then (s.setMeet weld u m.1 { m.2 with count := m.2.count + x.mc }).endThread t
    else (s.releaseHolder weld u m.1).passMeet t
  | none =>
    if w = 0 then s.passMeet t
    else match (List.range (if weld then 256 else 32)).find? (fun i => !(NMap.get {} table i).valid) with
      | none => s.passMeet t
      | some i =>
        let m : Meet := { a with holder := t, count := x.mc, deadline := s.cycle + 16 * w }
        ((s.setMeet weld u i m).updThread t (fun y => { y with stage := none })).stop t (.parked (.holder weld u i))

/-- The entries of a meet table whose deadline has come are released before an arrival is taken (07 R202). -/
def State.expireMeets (s : State) (weld : Bool) (u : Nat) : State :=
  (s.meets weld u).foldl (fun s' m =>
    if m.2.valid && decide (m.2.deadline ≤ s.cycle) then s'.releaseHolder weld u m.1 else s') s

/-- MEET_REGISTRATION (07 R201): of those of one cycle the lower core, then the lower context is taken first (07 R202). A
register it reads that has been spilled meanwhile is refilled first (07 R193). -/
def execMeetRegistration (t : Nat) (s : State) : Outcome :=
  let x := s.thread t
  match x.stage with
  | some (.meet weld p q w) =>
    let u := if weld then clusterOf (coreOf t) else coreOf t
    if x.run = .waiting .drained && x.drained && s.tieOk (.meet weld u) t then
      let regs := meetRegs x weld (BitVec.ofNat 5 p) (BitVec.ofNat 5 q)
      match spilledOf x regs with
      | some (vec, r) => .next (s.stop t (.waiting (.refill vec r (regs.filterMap Opnd.reg))))
      | none => .next (((s.tie (.meet weld u) t).expireMeets weld u).registerMeet t weld p q w)
    else .next s
  | _ => .next s

/-- MEET_DEADLINE (07 R203). -/
def execMeetDeadline (weld : Bool) (unit e : Nat) (s : State) : Outcome :=
  let m := NMap.get {} (s.meets weld unit) e
  if m.valid && decide (m.deadline ≤ s.cycle) then .next (s.releaseHolder weld unit e) else .next s

/-- Whether a launch is quiescent (07 R203). DESIGN CHOICE: a context that a save has emptied counts as a live thread (log entry
102). -/
def State.quiescent (s : State) (n : Nat) : Bool :=
  let ts := s.threadsOf n
  ts.all (fun t =>
    let x := s.thread t
    (x.inWaitw || match x.run with
      | .parked (.holder _ _ _) => true
      | .parked .barrier => true
      | _ => false) && x.children = [] && x.releasing = []) && !s.saved.any (fun c => c.launch = n) && decide (s.recordsOf n = 0)

/-- The held entries of a launch, as (table, unit, entry). -/
def State.heldMeets (s : State) (n : Nat) : List (Bool × Nat × Nat) :=
  let mine := fun (m : Meet) => m.valid && decide (m.launch = n)
  s.cores.flatMap (fun c => (c.2.meets.filter (fun m => mine m.2)).map (fun m => (false, c.1, m.1))) ++
    s.clusters.flatMap (fun c => (c.2.weld.filter (fun m => mine m.2)).map (fun m => (true, c.1, m.1)))

/-! ## ALIGN -/

/-- An align record releases its threads, past their ALIGN, and becomes free (07 R197). -/
def State.releaseAlign (s : State) (cl : Nat) : State :=
  match (s.cluster cl).align with
  | none => s
  | some a =>
    let s1 := s.updCluster cl (fun c => { c with align := none })
    a.waiters.foldl (fun s t => (s.updThread t (fun x => { x with pc := x.pc + 4, boundary := false })).wake t) s1

/-- An align record 512 cycles old is released before another thread's ALIGN is taken (07 R197). -/
def State.expireAlign (s : State) (cl : Nat) : State :=
  match (s.cluster cl).align with
  | some a => if a.start + 512 ≤ s.cycle then s.releaseAlign cl else s
  | none => s

/-- ALIGN (07 R197, 14 R370). -/
def execAlign (s0 : State) : Outcome :=
  settle s0 (do
    let _ ← s0.enterInstr .core .plain
    let s := s0.expireAlign (clusterOf (coreOf s0.cur))
    let k := coreOf s.cur
    let cl := clusterOf k
    let n := s.me.launch
    let all := (clusterCores cl).filter (fun j => decide ((s.core j).owner = some n))
    let hold := fun (a : Align) =>
      let s1 := (s.updCluster cl (fun c => { c with align := some a })).stop s.cur (.waiting .align)
      if decide (all.length ≤ a.cores.length) then s1.releaseAlign cl else s1
    match (s.cluster cl).align with
    | none => .error (.goto (hold ⟨s.me.pc, n, [k], s.cycle, [s.cur]⟩))
    | some a =>
      if a.pc = s.me.pc && decide (a.launch = n) then
        .error (.goto (hold { a with cores := if a.cores.contains k then a.cores else k :: a.cores, waiters := a.waiters ++ [s.cur] }))
      else .ok (s.retire 4))

/-- ALIGN_TIMEOUT (07 R197). -/
def execAlignTimeout (cl : Nat) (s : State) : Outcome :=
  match (s.cluster cl).align with
  | some a => if decide (a.start + 512 ≤ s.cycle) then .next (s.releaseAlign cl) else .next s
  | none => .next s

/-- QUIESCENCE_RELEASE (07 R203): every holder of a quiescent launch at once, and an align record of it (R197). -/
def execQuiescenceRelease (launch : Nat) (s : State) : Outcome :=
  if s.quiescent launch then
    let s1 := (s.heldMeets launch).foldl (fun s h => s.releaseHolder h.1 h.2.1 h.2.2) s
    .next (s1.clusters.foldl (fun s c => match c.2.align with
      | some a => if a.launch = launch then s.releaseAlign c.1 else s
      | none => s) s1)
  else .next s

/-! ## YIELD and DONE -/

/-- YIELD (14 R370). -/
def execYield (s : State) : Outcome :=
  settle s (do
    let _ ← s.enterInstr .core .plain
    let s1 := s.retire 4
    .ok (s1.updCore (coreOf s.cur) (fun c => if c.userQueued && (c.slotOf s.cur).isSome then c.rotate s.cur else c)))

/-- DONE and TASKEND (14 R369, R373): the commit drain, the children released; the thread ends when it is Drained, its
task reported with `results`. -/
def State.beginEnd (s : State) (results : List Word) : State :=
  let s1 := ((s.drainRsb s.cur).releaseChildren s.cur).dropTcons s.cur
  (s1.updThread s.cur (fun x => { x with stage := some (.finish results) })).awaitDrained s.cur

/-- DONE (14 R369). -/
def execDone (s : State) : Outcome :=
  settle s (do
    let _ ← s.enterInstr .core .plain
    s.notCancelled
    .ok (s.beginEnd (List.replicate 6 0)))

/-- A Drained thread ends, its current task reported (14 R369). -/
def State.finishThread (s : State) (t : Nat) (results : List Word) : State :=
  (if (s.thread t).task then s.report t results else s).endThread t

end Sys2Proof.Machine
end

