-- ==== Sys2Proof/Machine/Task.lean ====
section
/-! DEFINITION. COMMIT, SPAWN, WAITW, TASKEND, HRQ, and the steps of the bellows (14 R371 to R375; 16 R407 to R415; 04
R122). -/

namespace Sys2Proof.Machine

/-- COMMIT (06 R166, 14 R374). -/
def execCommit (s : State) : Outcome :=
  settle s (do
    let _ ← s.enterInstr .core .plain
    s.notCancelled
    .ok ((s.issueCommit []).holdPush))

/-! ## SPAWN -/

/-- SPAWN (14 R371): the record address, then the commit drain; the record is read once Stores settled holds. -/
def execSpawn (p : BitVec 5) (s : State) : Outcome :=
  settle s (do
    let _ ← s.enterInstr .userContext .plain
    let a := s.x p
    let sp := a.toNat / 2 ^ 60
    (if sp = 0 || sp = 8 || sp = 10 then .ok () else localFault a)
    let x : Access := { index := 0, addr := a, width := 128 }
    let p? ← s.checkOne x
    s.notCancelled
    let place ← s.readyOne .read [.s p false] [.s p false] x p?
    .ok (((s.reads [.s p false]).beginCommit (.spawn place)).stop s.cur (.waiting (if s.me.children = [] then .settled else .push))))

/-- The read of the record: 16 doublewords in one access step with one tag (14 R371). -/
def State.spawnRead (s : State) (t : Nat) (p : Place) : Except Stop State :=
  s.startLoad t ((List.range 16).map (fun i =>
    ({ index := i, addr := 0, width := 8 }, { p with loc := p.loc + 8 * i }))) .spawn false

/-- The record as it is pushed: ASID and launch written, FK and FD cleared (14 R371). -/
def Thread.spawnRecord (x : Thread) (rec : List Word) : Record :=
  (rec.set 1 (BitVec.ofNat 64 (x.asid * 2 ^ 48 + x.launch % 2 ^ 16 * 2 ^ 32 + Record.mc rec))).set 9
    (rec.getD 9 0 &&& ~~~0x1F800000000#64)

/-- The checks on a record's fields and its push; the trap is that of 14 R371. -/
def State.spawnPush (s : State) (t : Nat) (rec : List Word) : State :=
  let x := s.thread t
  let e := Record.entry rec
  if e.toNat % 64 ≠ 0 || e.toNat / 2 ^ 52 ≠ 0 then s.trapEntry t { cause := causeIllegal }
  else if Record.mc rec = 0 || decide (x.mc < Record.mc rec) then s.trapEntry t { cause := causeMult }
  else match s.push (clusterOf (coreOf t)) (coreOf t) (x.spawnRecord rec) false with
    | some s1 => (s1.updThread t (fun y => { y with stage := none, pc := y.pc + 4 })).wake t
    | none => s.stop t (.waiting .push)

/-! ## WAITW, TASKEND -/

/-- Occupancy of a core's transform ring (04 R120). -/
def Core.occupancy (c : Core) : BitVec 16 := c.claim - c.head

/-- The result words of a task: `s1` to `s6` (14 R372). -/
def Thread.results (x : Thread) : List Word := (List.range 6).map (fun i => x.sval (i + 1))

/-- The registers that hold a task's results. -/
def resultRegs : List Opnd := (List.range 6).map (fun i => .s (BitVec.ofNat 5 (i + 1)) false)

/-- A thread with a current task reads its results from the physical file (07 R193). -/
def State.refilledResults (s : State) : Except Stop Unit := if s.me.task then s.refilled resultRegs else .ok ()

/-- WAITW (14 R372, 04 R122): a thread that enters it gives up its accumulators, that of context 15 too (13 R346). DESIGN CHOICE: that
of context 15 does not enter it where it completes at once (log entry 103). -/
def execWaitw (s : State) : Outcome :=
  settle s (do
    let _ ← s.enterInstr .core .plain
    s.notCancelled
    if ctxOf s.cur = 15 then
      if (s.core (coreOf s.cur)).occupancy ≠ 0 then .ok (s.retire 4)
      else .error (.goto (((s.giveUpAccs s.cur).stop s.cur (.parked .ring)).checkBarriers s.me.launch))
    else
      s.refilledResults
      let s1 := if s.me.task then (s.reads resultRegs).report s.cur s.me.results else s
      let s2 := (s1.updMe (fun x => { x with task := false })).giveUpAccs s.cur
      .ok ((s2.stop s.cur (.parked (.waitw s.cycle))).checkBarriers s.me.launch))

/-- TASKEND (14 R373); a cancel that comes in its cycle goes before it (16 R418). -/
def execTaskend (s : State) : Outcome :=
  settle s (do
    let _ ← s.enterInstr .userContext .plain
    s.notCancelled
    s.refilledResults
    .ok ((s.beginEnd s.me.results).tie (.tasks (coreOf s.cur)) 0))

/-- TRANSFORM_WAKE (04 R122): the transform thread repeats its WAITW, which completes. -/
def execTransformWake (k : Nat) (s : State) : Outcome :=
  let t := 16 * k + 15
  if (s.thread t).run = .parked .ring && (s.core k).occupancy ≠ 0 then .next (s.wake t) else .next s

/-! ## HRQ -/

/-- The four words of a hearth entry (02 R84). -/
def hearthWords (h : Hearth) : List Word :=
  if !h.valid then [0, 0, 0, 0]
  else
    let counts := fun (lo : Nat) => (List.range 8).foldr (fun j acc => min (NMap.get 0 h.cores (lo + j)) 255 + 256 * acc) 0
    [BitVec.ofNat 64 (h.asid * 2 ^ 48 + 2 ^ 47 + h.gran), BitVec.ofNat 64 (counts 0), BitVec.ofNat 64 (counts 8),
     BitVec.ofNat 64 (min h.slice 511)]

/-- HRQ's result: four registers with empty taint, 24 cycles out of rotation (14 R375). -/
def State.putHrq (s : State) (q p : BitVec 5) (h : Hearth) : State :=
  (((s.consume s.cur [.s q false]).setRun s.cur p.toNat 0 (hearthWords h)).retire 4).longLatency 24

/-- HRQ, pair mode (14 R375). -/
def execHrq (q p : BitVec 5) (s : State) : Outcome :=
  settle s (do
    let _ ← s.enterInstr .core .plain
    s.refilled [.s q false]
    let m := (s.cluster (clusterOf (coreOf s.cur))).hearth
    let h := match hearthFind m s.me.asid (field (s.x q) 51 16) with
      | some e => e.2
      | none => {}
    .ok (s.putHrq q p h))

/-- HRQ, set and way mode (14 R375). -/
def execHrqSw (q p : BitVec 5) (s : State) : Outcome :=
  settle s (do
    let _ ← s.enterInstr .supervisorUserContext .plain
    s.refilled [.s q false]
    .ok (s.putHrq q p (NMap.get {} (s.cluster (clusterOf (coreOf s.cur))).hearth (field (s.x q) 10 0))))

/-! ## The bellows' steps -/

/-- The record a core dispatches next: the highest priority, and of those the first to enter the deque (16 R412). -/
def Core.nextRecord (c : Core) : Option Queued :=
  let top := (c.deque.map (fun q => Record.prio q.task)).foldl max 0
  c.deque.find? (fun q => decide (Record.prio q.task = top))

/-- A record leaves its deque, and the oldest pooled record of the core moves in (16 R411). -/
def State.takeRecord (s : State) (k : Nat) (q : Queued) : State :=
  (s.updCore k (fun c => { c with deque := c.deque.erase q })).fromPool k

/-- The thread of a core that entered WAITW first, with the cycle (16 R412). -/
def State.firstWaiter (s : State) (k : Nat) : Option (Nat × Nat) :=
  ((List.range 14).filterMap (fun c => match (s.thread (16 * k + c)).run with
    | .parked (.waitw since) => some (since, 16 * k + c)
    | _ => none)).foldl (fun b w => match b with
      | none => some w
      | some v => if w.1 < v.1 then some w else some v) none

/-- The arguments of a record, and s[FD] := 1 of a FORK child record, as the thread's registers (14 R372, 16 R413). -/
def State.putArgs (s : State) (t : Nat) (r : Record) : State :=
  let s1 := (s.consume t []).setRun t 1 0 (Record.args r)
  if Record.fk r then s1.setS t (Record.fd r) 1 0 else s1

/-- The record that core `k` may dispatch in this cycle: one that has not moved in it (16 R415). -/
def State.dispatchable (s : State) (k : Nat) : Option Queued := (s.core k).nextRecord.filter (fun q => decide (q.since ≠ s.cycle))

/-- TASK_DISPATCH (16 R412, 14 R372). -/
def execTaskDispatch (k : Nat) (s : State) : Outcome :=
  match s.firstWaiter k, s.dispatchable k with
  | some (_, t), some q =>
    let r := q.task
    let s1 := (s.takeRecord k q).updThread t (fun x => if Record.fk r then { x with s := [], v := [] } else x)
    let s2 := (s1.putArgs t r).updThread t (fun x =>
      let y := { x with mc := Record.mc r, pc := Record.entry r, task := true, prio := Record.prio r }
      { y.beginRegion (Record.entry r) with boundary := true })
    .next (((s2.wake t).progress (s.thread t).launch).checkBarriers (s.thread t).launch)
  | _, _ => .next s

/-- The launch whose 16-bit number a record carries and that owns core `k`. -/
def State.ownerLaunch (s : State) (k : Nat) : Option Launch := (s.core k).owner.bind (fun n => s.launch n)

/-- TASK_START_FREE_CONTEXT (16 R413). -/
def execTaskStartFreeContext (k : Nat) (s : State) : Outcome :=
  match s.firstWaiter k, s.dispatchable k, s.freeCtx k, s.ownerLaunch k with
  | none, some q, some t, some l =>
    let r := q.task
    let x := { (s.thread t).fresh with
      launch := l.num, fn := l.fn, sv := l.sv, mc := Record.mc r, task := true, prio := Record.prio r,
      tvec := 0, escratch := 0, bsrd := 0, bswr := 0, bsacc := 0 }
    let s1 := ((s.takeRecord k q).setThread t x).putArgs t r
    .next ((s1.startThread t (s1.thread t) (Record.entry r)).progress l.num)
  | _, _, _, _ => .next s

/-- The next core of the launch in the cluster's ring (16 R414). -/
def State.ringNext (s : State) (k : Nat) : Option Nat :=
  let cl := clusterOf k
  let j := localOf k
  ((List.range 15).map (fun i => coreAt cl ((j + 1 + i) % 16))).find? (fun m =>
    (s.core m).owner.isSome && decide ((s.core m).owner = (s.core k).owner))

/-- The record a thief takes: the highest priority among those that waited longer than its steal delay, the oldest of
those (16 R414). -/
def State.stealable (s : State) (k v : Nat) : Option Queued :=
  let ok := (s.core v).deque.filter (fun q => decide ((s.core k).stealDly.toNat < s.cycle - q.since))
  let top := (ok.map (fun q => Record.prio q.task)).foldl max 0
  ok.find? (fun q => decide (Record.prio q.task = top))

/-- The record that the dispatch of core `k` would take: it has a thread in WAITW or a free context. -/
def State.ownDispatch (s : State) (k : Nat) : Option Queued :=
  if (s.firstWaiter k).isSome || ((s.freeCtx k).isSome && (s.ownerLaunch k).isSome) then s.dispatchable k else none

/-- TASK_STEAL (16 R414): an idle core, at most once per 64 cycles. DESIGN CHOICE: it takes nothing where the victim's own
dispatch can take the same record in this cycle (16 R415; log entry 75). -/
def execTaskSteal (k : Nat) (s : State) : Outcome :=
  let c := s.core k
  let idle := (s.firstWaiter k).isSome && c.deque = [] && !(s.cluster (clusterOf k)).pool.any (fun p => p.1 = k)
  let free := match c.lastSteal with
    | some n => decide (n + 64 ≤ s.cycle)
    | none => true
  match s.ringNext k with
  | some v =>
    match s.stealable k v with
    | some q =>
      if idle && free && decide (s.ownDispatch v ≠ some q) then
        .next ((s.takeRecord v q).updCore k (fun x => { x with deque := x.deque ++ [⟨q.task, s.cycle⟩], lastSteal := some s.cycle }))
      else .next s
    | none => .next s
  | none => .next s

/-- FORWARDED_RECORD_ARRIVAL (16 R410): placed by local scores and never forwarded again. -/
def execForwardedRecordArrival (cl : Nat) (s : State) : Outcome :=
  match (s.cluster cl).forwarded with
  | r :: rs =>
    match (if r.since = s.cycle then none else s.push cl (coreAt cl 0) r.task true) with
    | some s1 => .next (s1.updCluster cl (fun c => { c with forwarded := rs }))
    | none => .next s
  | [] => .next s

/-! ## Hearth tables (02 R78 to R83; 16 R409) -/

/-- The sum of an entry's internal counts. -/
def Hearth.total (h : Hearth) : Nat := (h.cores.map (·.2)).sum + h.slice

/-- The entry after a change of one count (02 R78, R79). -/
def Hearth.change (h : Hearth) (core : Option Nat) (delta : Int) : Hearth :=
  match core with
  | some j => { h with cores := NMap.set 0 h.cores j (min 256 (((NMap.get 0 h.cores j : Nat) : Int) + delta).toNat) }
  | none => { h with slice := min 512 ((h.slice : Int) + delta).toNat }

/-- Where a pair that has no entry is allocated: a free way of its set, else the way with the smallest sum (02 R81). DESIGN
CHOICE: of several free ways the lowest (log entry 76). -/
def hearthVictim (m : NMap Hearth) (set : Nat) : Nat :=
  let ways := (List.range 8).map (fun w => set * 8 + w)
  match ways.find? (fun i => !(NMap.get {} m i).valid) with
  | some i => i
  | none => (ways.foldl (fun b i => if (NMap.get {} m i).total < (NMap.get {} m b).total then i else b) (set * 8))

/-- One update of a hearth table (02 R79 to R81). -/
def hearthApply (m : NMap Hearth) (u : HearthUpd) : NMap Hearth :=
  match hearthFind m u.asid u.gran with
  | some e =>
    let h := e.2.change u.core u.delta
    NMap.set {} m e.1 (if h.total = 0 then {} else h)
  | none =>
    if u.delta ≤ 0 then m
    else
      let h : Hearth := { valid := true, asid := u.asid, gran := u.gran }
      NMap.set {} m (hearthVictim m (hearthSet u.asid u.gran)) (h.change u.core u.delta)

/-- One update reaches the table; one of an ASID being removed is discarded (02 R83). -/
def Cluster.takeUpdate (c : Cluster) (u : HearthUpd) : Cluster :=
  if c.hclrBusy = some u.asid then c else { c with hearth := hearthApply c.hearth u }

/-- HEARTH_UPDATE (02 R82, R83): the oldest update applies; not in a cycle in which the bellows has read the table, since such a read
sees every update of its cycle. -/
def execHearthUpdate (cl : Nat) (s : State) : Outcome :=
  if s.tieTaken (.bellows cl) then .next s
  else .next (s.updCluster cl (fun c => match c.updates with
    | [] => c
    | u :: us => { c with updates := us }.takeUpdate u))

/-- The updates of a cluster that are 32 cycles old reach its table, before the bellows reads it (02 R82). -/
def Cluster.overdue (c : Cluster) (now : Nat) : Cluster :=
  let late := c.updates.filter (fun u => decide (u.since + 32 ≤ now))
  late.foldl Cluster.takeUpdate { c with updates := c.updates.filter (fun u => !decide (u.since + 32 ≤ now)) }
def State.hearthOverdue (s : State) : State :=
  if s.clusters.any (fun p => p.2.updates.any (fun u => decide (u.since + 32 ≤ s.cycle))) then
    { s with clusters := s.clusters.map (fun p => (p.1, p.2.overdue s.cycle)) }
  else s

/-- HCLR_COMPLETE (02 R83): the entries of the ASID are removed. -/
def execHclrComplete (cl : Nat) (s : State) : Outcome :=
  .next (s.updCluster cl (fun c =>
    match c.hclrBusy with
    | some a => { c with hclrBusy := none, hearth := c.hearth.filter (fun p => p.2.asid ≠ a) }
    | none => c))

/-- The summary value of a set (16 R409). -/
def summaryValue (m : NMap Hearth) (set : Nat) : Nat :=
  min 0xFFFF (((List.range 8).map (fun w =>
    let h := NMap.get {} m (set * 8 + w)
    if h.valid then (h.cores.map (·.2)).foldl max 0 + h.slice / 4 else 0)).foldl max 0)

/-- HEARTH_SUMMARY_BROADCAST (16 R409): every 4,096 cycles each cluster sends its summary to the others. -/
def execHearthSummaryBroadcast (cl : Nat) (s : State) : Outcome :=
  if (s.cycle - s.dieReset) % 4096 ≠ 0 || s.tieTaken (.summary cl) then .next s
  else
    let s := s.tie (.summary cl) 0
    let sm := (List.range 256).foldl (fun m i => NMap.set 0 m i (summaryValue (s.cluster cl).hearth i)) ([] : NMap Nat)
    let targets := (List.range numClusters).filter (fun d => d ≠ cl)
    .next (targets.foldl (fun s d => s.updCluster d (fun c => { c with sumInbox := NMap.set [] c.sumInbox cl sm })) s)

/-- HEARTH_SUMMARY_APPLY (16 R409): a summary applies whole. -/
def execHearthSummaryApply (dst src : Nat) (s : State) : Outcome :=
  .next (s.updCluster dst (fun c =>
    if c.sumInbox.any (fun p => p.1 = src) then
      { c with summaries := NMap.set [] c.summaries src (NMap.get [] c.sumInbox src),
               sumInbox := c.sumInbox.filter (fun p => p.1 ≠ src) }
    else c))

end Sys2Proof.Machine
end

