-- ==== Sys2Proof/Machine/Tile.lean ====
section
/-! DEFINITION. TDEF, TREL, TSTAT, TWAITR and TCONS, and the operands-consumed event (13 R339 to R344; 02 R74 to R77). TFILL
stands with the copies. -/

namespace Sys2Proof.Machine

/-- Binds or unbinds a handle of the issuing thread. -/
def State.bind (s : State) (h : BitVec 5) (e : Option Nat) : State :=
  s.updMe (fun x => { x with handles := NMap.set none x.handles h.toNat e })

/-- The entry of a bound handle; an unbound one is illegal (13 R340, R342, R348). -/
def State.bound (s : State) (h : BitVec 5) : Except Stop Nat :=
  match s.me.handle h.toNat with
  | some e => .ok e
  | none => illegal

/-- The tile table has 64 entries (02 R74). -/
def tileEntries : List Nat := List.range 64

/-- The entry TDEF binds to: an equal one of the launch with no release pending, else the lowest free one (13 R339). -/
def State.tileFor (s : State) (k launch : Nat) (a w : Word) : Option (Nat × Bool) :=
  match tileEntries.find? (fun e =>
    let x := s.tile k e
    x.live && decide (x.launch = launch) && decide (x.addr = a) && decide (x.shape = w) && decide (x.op ≠ .release) && !x.relWait) with
  | some e => some (e, true)
  | none => (tileEntries.find? (fun e => !(s.tile k e).live)).map (fun e => (e, false))

/-- Whether a tile's region lies in its window (13 R339). -/
def State.tileInWindow (s : State) (k : Nat) (a w : Word) : Bool :=
  let off := a.toNat % 2 ^ 60
  if field a 63 60 = 8 then decide (off + shapeSize w ≤ 2 ^ 18)
  else if field a 63 60 = 10 then decide (off + shapeSize w ≤ (s.cluster (clusterOf k)).spw * 2 ^ 20)
  else false

/-- TDEF (13 R339). -/
def execTdef (b a d : BitVec 5) (s : State) : Outcome :=
  settle s (do
    let _ ← s.enterInstr .core .plain
    let k := coreOf s.cur
    (if (s.me.handle d.toNat).isSome || !shapeLegal (s.x b) then illegal else .ok ())
    (if s.tileInWindow k (s.x a) (s.x b) && s.me.granted k (s.x a) then .ok () else localFault (s.x a))
    (if (s.x a).toNat % 64 = 0 then .ok () else alignTrap (s.x a))
    let os : List Opnd := [.s a false, .s b false]
    s.refilled os
    match s.tileFor k s.me.launch (s.x a) (s.x b) with
    | none => waitFor .tileFree
    | some (e, old) =>
      let s1 := if old then s.updTile k e (fun x => { x with refs := x.refs + 1 })
        else s.setTile k e { live := true, launch := s.me.launch, addr := s.x a, shape := s.x b, refs := 1 }
      .ok (((s1.bind d (some e)).consume s.cur os).retire 4))

/-- TREL (13 R340). -/
def execTrel (d : BitVec 5) (s : State) : Outcome :=
  settle s (do
    let _ ← s.enterInstr .core .plain
    let e ← s.bound d
    .ok (((s.bind d none).dropHandle (coreOf s.cur) e).retire 4))

def TileState.code : TileState → Nat
  | .empty => 0 | .filling => 1 | .ready => 2 | .draining => 3
def TileOp.code : TileOp → Nat
  | .none => 0 | .refill => 1 | .drain => 2 | .release => 3

/-- The word TSTAT reads for a bound handle (13 R341). -/
def Tile.word (x : Tile) (e : Nat) : Word :=
  BitVec.ofNat 64 (min x.refs 255 * 2 ^ 18 + e * 2 ^ 12 + (if x.bad then 2 ^ 11 else 0) + 2 ^ 10 + x.op.code * 2 ^ 8 +
    x.count * 4 + x.state.code)

/-- TSTAT (13 R341). -/
def execTstat (a d : BitVec 5) (s : State) : Outcome :=
  settle s (do
    let _ ← s.enterInstr .core .plain
    let w := match s.me.handle a.toNat with
      | some e => (s.tile (coreOf s.cur) e).word e
      | none => 0
    .ok (((s.consume s.cur []).setS s.cur d.toNat w 0).retire 4))

/-- What TWAITR waits for (13 R342). -/
def Tile.quiet (x : Tile) : Bool := (decide (x.state = .ready) && decide (x.op = .none)) || decide (x.state = .empty)

/-- TWAITR (13 R342). -/
def execTwaitr (d : BitVec 5) (s : State) : Outcome :=
  settle s (do
    let _ ← s.enterInstr .core .plain
    let e ← s.bound d
    if (s.tile (coreOf s.cur) e).quiet then .ok (s.retire 4) else waitFor (.tileSettled e))

/-- An instruction that names a tile as an operand can issue, with `n` counts free (02 R75). -/
def Tile.usable (x : Tile) (n : Nat) : Bool := decide (x.state = .ready) && decide (x.op = .none) && decide (x.count + n ≤ 63)

/-- The wait of 02 R75. -/
def State.tileReady (s : State) (e n : Nat) : Except Stop Unit :=
  if (s.tile (coreOf s.cur) e).usable n then .ok () else waitFor (.tile e)
/-- That of an MMA or an MMAC. -/
def State.tileReadyMat (s : State) (e n : Nat) : Except Stop Unit :=
  if (s.tile (coreOf s.cur) e).usable n then .ok () else waitFor (.tileMat e)

/-- A consumer is counted (02 R75). -/
def State.tileCount (s : State) (k e n : Nat) : State := s.updTile k e (fun x => { x with count := x.count + n })

/-- TCONS (13 R344). -/
def execTcons (d : BitVec 5) (s : State) : Outcome :=
  settle s (do
    let _ ← s.enterInstr .core .plain
    let e ← s.bound d
    s.tileReady e 1
    .ok (((s.tileCount (coreOf s.cur) e 1).updMe (fun x => { x with tcons := e :: x.tcons })).retire 4))

/-- TILE_OPERANDS_CONSUMED (02 R77). -/
def execTileOperandsConsumed (k e : Nat) (s : State) : Outcome := .next (s.tileEvent k e)

end Sys2Proof.Machine
end

