-- ==== Sys2Proof/Machine/Matrix.lean ====
section
/-! DEFINITION. The matrix instructions and the sequencer (13 R346 to R357). -/

namespace Sys2Proof.Machine

/-- Row `i`, chunk `c` of a tile of core `k`: the decoded elements of one K-chunk (03 R106). The missing elements of a short
chunk are zero: one zero stands for them all. -/
def State.tileChunk (s : State) (k : Nat) (x : Tile) (i c n : Nat) : List Ex :=
  let f := shapeFmt x.shape
  let cols := shapeCols x.shape
  let row := s.readBytes (tileLoc k x.addr + i * rowSize f cols) (rowSize f cols)
  (List.range (min n (cols - c * n))).map (fun j => elemOf f row (c * n + j)) ++ (if cols - c * n < n then [Ex.zero false] else [])

/-- The bytes of a tile of core `k` that step `c` of a product reads, as ranges. -/
def chunkRanges (k : Nat) (x : Tile) (c : Nat) : List (Nat × Nat) :=
  let f := shapeFmt x.shape
  let cols := shapeCols x.shape
  let lo := rowSize f (c * chunkLen f)
  let hi := rowSize f (min ((c + 1) * chunkLen f) cols)
  (List.range (shapeRows x.shape)).map (fun i => (tileLoc k x.addr + i * rowSize f cols + lo, hi - lo))

/-- One step of a product over K (13 R348): `A` and `B` hold the chunk's rows. -/
def Acc.product (a : Acc) (A B : List (List Ex)) : Acc :=
  a.fill (fun n =>
    let i := n / 128
    let j := n % 128
    if i < A.length && j < B.length && a.kept i j then
      BitVec.ofNat 32 (chunkDot (a.elem n).toNat (A.getD i []) (B.getD j []))
    else a.elem n)

/-- The elements that the mask leaves out become -inf at the end (13 R348). -/
def Acc.masked (a : Acc) (m n : Nat) : Acc :=
  a.fill (fun x => if x / 128 < m && x % 128 < n && !a.kept (x / 128) (x % 128) then 0xFF800000 else a.elem x)

/-- Steps of a product of depth `cols` (13 R348). -/
def productSteps (f cols : Nat) : Nat := (cols + chunkLen f - 1) / chunkLen f

/-- Step `c` of a product of tile `ta` of core `ka` with tile `tb` of core `kb` into an accumulator. -/
def State.productStep (s : State) (k : Nat) (one : Bool) (ka ta kb tb f c : Nat) : State :=
  let xa := s.tile ka ta
  let xb := s.tile kb tb
  let n := chunkLen f
  let A := (List.range (shapeRows xa.shape)).map (fun i => s.tileChunk ka xa i c n)
  let B := (List.range (shapeRows xb.shape)).map (fun i => s.tileChunk kb xb i c n)
  if c * n < shapeCols xa.shape then s.updAcc k one (fun a => a.product A B) else s

/-- A matrix instruction's thread goes on past it. -/
def State.passMatrix (s : State) (t : Nat) : State :=
  (s.updThread t (fun x => { x with pc := x.pc + 4, boundary := false, mprogV := false, mprogSteps := 0 })).wake t

/-- A job enters the sequencer; one that was idle takes the mode in effect (13 R349). -/
def State.addJob (s : State) (k : Nat) (j : Job) : State := (s.seqMode k).updCore k (fun c => { c with jobs := c.jobs ++ [j] })
/-- A job leaves the sequencer. -/
def State.dropJob (s : State) (k : Nat) (j : Job) : State :=
  (s.updCore k (fun c => { c with jobs := c.jobs.erase j })).turnOver k

/-! ## MMA -/

/-- A tile may be operand A or B of a product (13 R348). -/
def Tile.fits (x : Tile) (f rows : Nat) : Bool := decide (shapeFmt x.shape = f) && decide (shapeRows x.shape ≤ rows)

/-- The issue step of an MMA: ownership, the counts, zeroing and debit unless it continues (13 R348, R350). The pc stays
until it completes. -/
def State.startMma (s : State) (z c : Bool) (e ta tb : Nat) (m : Mode) : State :=
  let t := s.cur
  let k := coreOf t
  let x := s.me
  let xa := s.tile k ta
  let s1 := ((s.takeAcc t c).tileCount k ta 1).tileCount k tb 1
  let s2 := if x.mprogV then s1
    else (if z then s1.updAcc k c Acc.zeroed else s1).debit t (energyWeight e * productSteps m.fa (shapeCols xa.shape))
  let j : Job := { t := t, one := c, pfx := x.pfx, steps := if x.mprogV then x.mprogSteps else 0,
                   kind := .mma ta tb m.fa m.fb (shapeRows xa.shape) (shapeRows (s.tile k tb).shape) (shapeCols xa.shape) z }
  ((s2.addJob k j).updThread t (fun y => { y with pfx := false })).stop t (.waiting .matrix)

/-- MMA (13 R348). -/
def execMma (z c : Bool) (e : BitVec 2) (b a : BitVec 5) (s : State) : Outcome :=
  settle s (do
    let m ← s.enterInstr .core .mma
    let ta ← s.bound a
    let tb ← s.bound b
    let k := coreOf s.cur
    (if (s.tile k ta).fits m.fa 64 && (s.tile k tb).fits m.fb 128 &&
        decide (shapeCols (s.tile k ta).shape = shapeCols (s.tile k tb).shape) then .ok () else illegal)
    s.notShrunk k (s.tile k ta)
    s.notShrunk k (s.tile k tb)
    (if s.me.mprogV then .ok () else s.energyTrap)
    s.ownable c
    s.tileReadyMat ta (if ta = tb then 2 else 1)
    s.tileReadyMat tb 1
    (if s.me.mprogV then .ok () else s.energyWait)
    .ok (s.startMma z c e.toNat ta tb m))

/-! ## MMAC (13 R351, R352) -/

/-- The shape words of the tiles that the arrivals supply. -/
def State.mmacShapes (s : State) (as : List MmacArr) (pick : MmacArr → Option Nat) : List Word :=
  as.filterMap (fun a => (pick a).map (fun e => (s.tile (coreOf a.t) e).shape))

/-- Whether all the members of a list are equal. -/
def allSame {α : Type} [DecidableEq α] (l : List α) : Bool := l.all (fun x => decide (some x = l.head?))

/-- Every core's thread has arrived: the arrivals are compared, and either every participant traps and the counts are
withdrawn, or the cores start their steps (13 R352). -/
def State.checkMmac (s : State) (cl launch : Nat) (g : Word) : State :=
  let as := s.mmacGroup cl launch g
  if !(groupCores g).all (fun k => as.any (fun a => decide (coreOf a.t = k))) then s
  else
    let others := fun (c : Cluster) => c.mmacs.filter (fun a => !(decide (a.launch = launch) && decide (a.group = g)))
    let same := allSame (as.map (·.fa)) && allSame (as.map (·.fb)) && allSame (s.mmacShapes as (·.ta)) &&
      allSame (s.mmacShapes as (·.tb))
    if !same then
      let s1 := s.updCluster cl (fun c => { c with mmacs := others c })
      as.foldl (fun s a => (s.withdrawMmac a).trapEntry a.t { cause := causeIllegal }) s1
    else
      let cols := shapeCols ((s.mmacShapes as (·.ta)).headD 0)
      let s1 := s.updCluster cl (fun c => { c with mmacs := others c ++ as.map (fun a => { a with started := true }) })
      as.foldl (fun s a =>
        let k := coreOf a.t
        let s1 := if a.zero then s.updAcc k a.one Acc.zeroed else s
        let j : Job := { t := a.t, one := a.one, kind := .mmac g.toNat, pfx := (s.thread a.t).pfx }
        ((s1.debit a.t (energyWeight a.cls * productSteps a.fa cols)).addJob k j).updThread a.t (fun y => { y with pfx := false })) s1

/-- MMAC (13 R351, R352). -/
def execMmac (z c : Bool) (e : BitVec 2) (b a d : BitVec 5) (s : State) : Outcome :=
  settle s (do
    let m ← s.enterInstr .core .mma
    let k := coreOf s.cur
    let cl := clusterOf k
    let g := s.x d
    (if groupLegal s.me.rect k g && decide (field g 14 12 ≤ 2) && decide (field g 17 15 ≤ 2) then .ok () else illegal)
    let ta ← (if coreX k = field g 5 0 then (s.bound a).map some else .ok none)
    let tb ← (if coreY k = field g 11 6 then (s.bound b).map some else .ok none)
    let ok := fun (e : Option Nat) (f rows : Nat) => match e with
      | some i => (s.tile k i).fits f rows
      | none => true
    let deep := match ta, tb with
      | some i, some j => decide (shapeCols (s.tile k i).shape = shapeCols (s.tile k j).shape)
      | _, _ => true
    (if ok ta m.fa 64 && ok tb m.fb 128 && deep then .ok () else illegal)
    (match ta with
      | some i => s.notShrunk k (s.tile k i)
      | none => .ok ())
    (match tb with
      | some i => s.notShrunk k (s.tile k i)
      | none => .ok ())
    s.energyTrap
    s.refilled [.s d false]
    s.untainted [.s d false]
    (if (s.mmacGroup cl s.me.launch g).any (fun a => decide (coreOf a.t = k)) then waitFor (.twin g.toNat) else .ok ())
    s.ownable c
    let na := readersA g
    let nb := readersB g
    (match ta with
      | some i => s.tileReadyMat i (if ta = tb then na + nb else na)
      | none => .ok ())
    (match tb with
      | some i => s.tileReadyMat i nb
      | none => .ok ())
    s.energyWait
    let count := fun (s : State) (e : Option Nat) (n : Nat) => match e with
      | some i => s.tileCount k i n
      | none => s
    let s1 := count (count ((s.reads [.s d false]).takeAcc s.cur c) ta na) tb nb
    let arr : MmacArr := { launch := s.me.launch, group := g, t := s.cur, one := c, zero := z, fa := m.fa, fb := m.fb, ta := ta,
                           tb := tb, cls := e.toNat }
    let s2 := (s1.updCluster cl (fun x => { x with mmacs := x.mmacs ++ [arr] })).stop s.cur (.parked .mmac)
    .ok (s2.checkMmac cl s.me.launch g))

/-! ## The sequencer (13 R349) -/

/-- The job that takes the next step: the accumulators alternate, starting with a0 (13 R349). -/
def State.nextJob (s : State) (k : Nat) : Option Job :=
  let c := s.core k
  let js := c.jobs.filter (fun j => s.steppable k j)
  match js.find? (fun j => !j.one), js.find? (fun j => j.one) with
  | some a, some b => if c.lastOne then some a else some b
  | some a, none => some a
  | none, b => b

/-- A step has ended: the alternation, which starts with a0 whenever both accumulators have work, and the sequencer's mode, which
changes only between steps (13 R349). -/
def State.stepped (s : State) (k : Nat) (j : Job) : State :=
  let both := s.bothWork k
  s.updCore k (fun c => { c with lastOne := if both then j.one else true, narrow := s.service.narrow })

/-- The tiles whose bytes the next step of a product reads, each with its core. -/
def State.stepTiles (s : State) (k : Nat) (j : Job) : List (Nat × Nat) :=
  match j.kind with
  | .mma ta tb _ _ _ _ _ _ => [(k, ta), (k, tb)]
  | .mmac g =>
    let w := BitVec.ofNat 64 g
    match mmacTiles (s.mmacGroup (clusterOf k) (s.thread j.t).launch w) w k with
    | some (a, b) => [a, b]
    | none => []
  | _ => []

/-- What the next step of a product reads: each tile's core, and the ranges of the tile's bytes. -/
def State.stepRanges (s : State) (k : Nat) (j : Job) : List (Nat × List (Nat × Nat)) :=
  (s.stepTiles k j).map (fun p => (p.1, chunkRanges p.1 (s.tile p.1 p.2) j.steps))
/-- The blocks of cluster memory among it, in order. -/
def State.readBlocks (s : State) (k : Nat) (j : Job) : List Nat :=
  (s.stepRanges k j).flatMap (fun p => p.2.flatMap (rangeBlocks (clusterOf k)))
/-- Whether the banks among it are awake. -/
def State.banksAwake (s : State) (rs : List (Nat × List (Nat × Nat))) : Bool :=
  rs.all (fun p => (p.2.flatMap (rangeBanks p.1)).all (fun b => s.coreAwake p.1 (locSpm p.1 (8192 * b))))

/-- Whether the step can take place at once: what it has not yet read of cluster memory is expanded, and the banks are awake (02
R56; 04 R112 to R114). -/
def State.readsReady (s : State) (k : Nat) (j : Job) : Bool :=
  s.banksAwake (s.stepRanges k j) && (s.readBlocks k j).all (fun b => j.had.contains b || s.blockReady (clusterOf k) b)

/-- A step of a job whose accesses are `rs` and, of cluster memory, `blocks`: they go on, and once all have been made `perform` is
the step; one that waits is recorded in the job (04 R113). -/
def State.jobStep (s : State) (k : Nat) (j : Job) (w : Bool) (act : State → Nat → State) (rs : List (Nat × List (Nat × Nat)))
    (blocks : List Nat) (perform : State → State) : State :=
  let r := s.jobWalk k j w act blocks
  if r.wait = none && r.s.banksAwake rs then perform (rs.foldl (fun s p => s.touchRanges p.1 p.2) r.s)
  else rs.foldl (fun s p => s.wantRanges p.1 p.2) (r.s.jobWaits k j r)
/-- One that only reads. -/
def State.jobReads (s : State) (k : Nat) (j : Job) (perform : State → State) : State :=
  s.jobStep k j false (fun s _ => s) (s.stepRanges k j) (s.readBlocks k j) perform

/-- The job of a step taken. -/
def State.bumpJob (s : State) (k : Nat) (j : Job) : State :=
  s.updCore k (fun c => { c with jobs := c.jobs.map (fun i => if i = j then { i with steps := i.steps + 1 } else i) })

/-- One step of an MMA; the last one ends it (13 R348). -/
def State.mmaStep (s : State) (k : Nat) (j : Job) (ta tb fa m n cols : Nat) : State :=
  let s1 := (s.productStep k j.one k ta k tb fa j.steps).stepped k j
  if j.steps + 1 < productSteps fa cols then s1.bumpJob k j
  else
    let s2 := (s1.updAcc k j.one (fun a => a.masked m n)).dropJob k j
    ((s2.tileConsumed k ta).tileConsumed k tb).passMatrix j.t

/-- One step of a core's share of an MMAC; the last one gives up the core's counts (13 R351, R352). -/
def State.mmacStep (s : State) (k : Nat) (j : Job) (g : Word) : State :=
  let launch := (s.thread j.t).launch
  match mmacTiles (s.mmacGroup (clusterOf k) launch g) g k with
  | some ((ka, ta), (kb, tb)) =>
    let a := s.tile ka ta
    let s1 := (s.productStep k j.one ka ta kb tb (shapeFmt a.shape) j.steps).stepped k j
    if j.steps + 1 < productSteps (shapeFmt a.shape) (shapeCols a.shape) then s1.bumpJob k j
    else
      ((s1.updAcc k j.one (fun x => x.masked (shapeRows a.shape) (shapeRows (s.tile kb tb).shape))).dropJob k j).mmacLeave k launch g
  | none => s

/-- MMA_STEP (13 R349): one K-chunk step of the MMA or MMAC whose turn it is, once its reads can perform. -/
def execMmaStep (k : Nat) (s : State) : Outcome :=
  match s.nextJob k with
  | some j =>
    match j.kind with
    | .mma ta tb fa _ m n cols _ =>
      .next (s.jobReads k j (fun s => s.mmaStep k j ta tb fa m n cols))
    | .mmac g =>
      .next (s.jobReads k j (fun s => s.mmacStep k j (BitVec.ofNat 64 g)))
    | _ => .next s
  | none => .next s

/-! ## MZERO, MMASK, MSCALE, MSTORE (13 R353 to R355) -/

/-- MZERO (13 R353). -/
def execMzero (c : Bool) (e : BitVec 2) (s : State) : Outcome :=
  settle s (do
    let _ ← s.enterInstr .core .plain
    s.energyTrap
    s.ownable c
    s.energyWait
    let s1 := (s.takeAcc s.cur c).updAcc (coreOf s.cur) c Acc.zeroed
    .ok (((s1.debit s.cur (energyWeight e.toNat)).retire 4).longLatency 32))

/-- MMASK (13 R353). -/
def execMmask (c : Bool) (e : BitVec 2) (a : BitVec 5) (s : State) : Outcome :=
  settle s (do
    let _ ← s.enterInstr .core .plain
    let k := coreOf s.cur
    let i ← s.bound a
    (if shapeSize (s.tile k i).shape = 1024 then .ok () else illegal)
    s.notShrunk k (s.tile k i)
    s.energyTrap
    s.ownable c
    s.tileReady i 1
    s.energyWait
    let s1 := ((s.takeAcc s.cur c).tileCount k i 1).debit s.cur (energyWeight e.toNat)
    .ok (((s1.addJob k { t := s.cur, one := c, kind := .mmask i 1024 }).retire 4).stop s.cur (.waiting .matrix)))

/-- The mask plane that 1,024 bytes hold (13 R353). -/
def maskPlane (bs : List Nat) : NMap (BitVec 128) :=
  (List.range 64).filterMap (fun i =>
    let r := BitVec.ofNat 128 (bytesToNat ((bs.drop (16 * i)).take 16))
    if r = fullRow then none else some (i, r))

/-- MMASK_LAST_BYTE_READ (13 R353): the oldest MMASK of the core has read its last byte. -/
def execMmaskLastByteRead (k : Nat) (s : State) : Outcome :=
  match (s.core k).jobs.find? (fun j => match j.kind with
    | .mmask _ _ => true
    | _ => false) with
  | some j =>
    match j.kind with
    | .mmask e n =>
      let loc := tileLoc k (s.tile k e).addr
      .next (s.jobStep k j false (fun s _ => s) [(k, [(loc, n)])] (rangeBlocks (clusterOf k) (loc, n)) (fun s =>
        let s1 := (s.updAcc k j.one (fun a => { a with mask := maskPlane (s.readBytes loc n) })).dropJob k j
        (s1.tileConsumed k e).wake j.t))
    | _ => .next s
  | none => .next s

/-- The 192 words that MSCALE reads: 64 row scales, then 128 column scales (13 R354). -/
def rowScales (r : Word) : List Access :=
  (List.range 64).map (fun i => { index := i, addr := r + BitVec.ofNat 64 (4 * i), width := 4 })
def columnScales (c : Word) : List Access :=
  (List.range 128).map (fun j => { index := 64 + j, addr := c + BitVec.ofNat 64 (4 * j), width := 4 })

/-- The checks on one address of MSCALE and on the words read from it (13 R354, 01 R17): space 0x8, 64-byte alignment. -/
def State.scaleCheck (s : State) (a : Word) (xs : List Access) : Except Stop (List (Access × Option Place)) := do
  (if field a 63 60 = 8 then .ok () else localFault a)
  let _ ← s.checkOne { index := 0, addr := a, width := 64 }
  s.checkAll xs

/-- MSCALE (13 R354). -/
def execMscale (c : Bool) (e : BitVec 2) (b a : BitVec 5) (s : State) : Outcome :=
  settle s (do
    let _ ← s.enterInstr .core .plain
    let rs ← s.scaleCheck (s.x a) (rowScales (s.x a))
    let cs ← s.scaleCheck (s.x b) (columnScales (s.x b))
    s.energyTrap
    let os : List Opnd := [.s a false, .s b false]
    let zs ← s.ready .read os os (rs ++ cs)
    s.ownable c
    s.energyWait
    let s1 ← (s.takeAcc s.cur c).issueLoad os zs (.mscale c) false
    .ok (s1.debit s.cur (energyWeight e.toNat)))

/-- MSTORE (13 R355): it waits as TFILL does, then requests a fill or a refill that the sequencer carries out. -/
def execMstore (c : Bool) (e : BitVec 2) (a : BitVec 5) (s : State) : Outcome :=
  settle s (do
    let m ← s.enterInstr .core .mstore
    let k := coreOf s.cur
    let i ← s.bound a
    let x := s.tile k i
    (if x.fits m.fd 64 && decide (shapeCols x.shape ≤ 128) then .ok () else illegal)
    s.notShrunk k x
    s.energyTrap
    s.ownable c
    (if (x.state = .ready || x.state = .empty) && x.op = .none then .ok () else waitFor (.tileIdle i))
    s.energyWait
    let s1 := (s.takeAcc s.cur c).debit s.cur (energyWeight e.toNat)
    let j : Job := { t := s.cur, one := c, pfx := s.me.pfx,
                     kind := .mstore i m.fd m.rnd m.sat (shapeRows x.shape) (shapeCols x.shape) }
    let s2 := ((s1.addJob k j).retire 4).stop s.cur (.waiting .matrix)
    let f : Filler := .mstore s.cur
    .ok (if x.state = .empty then s2.setTile k i { x with state := .filling, filler := some f, bad := false }
      else (s2.setTile k i { x with op := .refill, filler := some f }).tileEvent k i))

/-- The bytes of one row of an MSTORE, with the rounding state after it (13 R355). -/
def Acc.rowBytes (a : Acc) (i cols fd rnd : Nat) (sat : Bool) (seed : BitVec 32) : List Nat × BitVec 32 :=
  let codes := (List.range cols).map (fun j => (a.elem (128 * i + j)).toNat)
  if fd = 0 then (codes.flatMap (codeBytes 4), seed)
  else
    let xs := codes.map (flushSrc 0)
    if fmtBlock fd then quantBlocks fd rnd (runsOf (blockElems fd) (cols / blockElems fd) xs) seed
    else
      let (cs, seed') := convertAll (fmtOf fd) rnd sat xs seed
      (cs.flatMap (codeBytes (fmtBytes fd)), seed')

/-- Rows `i`, `i + 1`, … of an MSTORE, `n` of them. -/
def Acc.rowsBytes (a : Acc) (cols fd rnd : Nat) (sat : Bool) : Nat → Nat → BitVec 32 → List Nat × BitVec 32
  | _, 0, seed => ([], seed)
  | i, n + 1, seed =>
    let (bs, seed1) := a.rowBytes i cols fd rnd sat seed
    let (cs, seed2) := a.rowsBytes cols fd rnd sat (i + 1) n seed1
    (bs ++ cs, seed2)

/-- The bytes of the 32 rows that a step of an MSTORE writes, and the rounding state after them. -/
def State.storeRows (s : State) (k : Nat) (j : Job) (fd rnd : Nat) (sat : Bool) (rows cols : Nat) : List Nat × BitVec 32 :=
  ((s.core k).acc j.one).rowsBytes cols fd rnd sat (32 * j.steps) (min 32 (rows - 32 * j.steps)) (s.thread j.t).srseed

/-- One 32-row step of an MSTORE; after the last the tile is ready and the thread goes on (13 R355). -/
def State.mstoreStep (s : State) (k : Nat) (j : Job) (e fd rnd : Nat) (sat : Bool) (rows cols : Nat) : State :=
  let i := 32 * j.steps
  let (bs, seed) := s.storeRows k j fd rnd sat rows cols
  let s1 := ((s.writeTile k (s.tile k e).addr (i * rowSize fd cols) bs).updThread j.t (fun x => { x with srseed := seed })).stepped k j
  if i + 32 < rows then s1.bumpJob k j
  else ((s1.dropJob k j).tileEnd k e true []).wake j.t

/-- The bytes that the next step of an MSTORE writes, as ranges. -/
def storeRanges (k : Nat) (x : Tile) (steps : Nat) : List (Nat × Nat) :=
  let r := rowSize (shapeFmt x.shape) (shapeCols x.shape)
  [(tileLoc k x.addr + 32 * steps * r, min 32 (shapeRows x.shape - 32 * steps) * r)]

/-- MSTORE_FILL_STEP (13 R355), once its writes can perform. -/
def execMstoreFillStep (k : Nat) (s : State) : Outcome :=
  match s.nextJob k with
  | some j =>
    match j.kind with
    | .mstore e fd rnd sat rows cols =>
      let rs := storeRanges k (s.tile k e) j.steps
      let loc := (rs.headD (0, 0)).1
      let bs := (s.storeRows k j fd rnd sat rows cols).1
      .next (s.jobStep k j true (fun s b => s.writeInBlock (clusterOf k) loc bs b) [(k, rs)] (rs.flatMap (rangeBlocks (clusterOf k)))
        (fun s => s.mstoreStep k j e fd rnd sat rows cols))
    | _ => .next s
  | none => .next s

/-- ACCUMULATOR_CLEAR (13 R346). -/
def execAccumulatorClear (k : Nat) (one : Bool) (s : State) : Outcome :=
  if ((s.core k).acc one).clearing then .next (s.updAcc k one Acc.cleared) else .next s

end Sys2Proof.Machine
end

