-- ==== Sys2Proof/Machine/Desc.lean ====
section
/-! DEFINITION. Copy descriptors: their fields, the checks of CPY, and what a command's chunks read and write (13 R358 to R363;
04 R124 to R128; 01 R45). -/

namespace Sys2Proof.Machine

/-- The fields of a copy descriptor (13 R358). Extents and strides are lists by dimension. -/
structure Desc where
  src : Word
  dst : Word
  rank : Nat
  ext : List Nat
  val : List Nat
  sstr : List Nat
  dstr : List Nat
  pk : Nat
  sat : Bool
  rnd : Nat
  dfmt : Nat
  sfmt : Nat
  xa : Nat
  xb : Nat
  cobj : Nat
  eng : Nat
  scl : Nat
  fill : Nat
  clean : Bool          -- bits that must be 0 are 0
  deriving DecidableEq, Repr

/-- A stride field in bytes (13 R359). -/
def strideOf (x : Nat) : Nat := x / 16 % 2 ^ 16 * 2 ^ (x % 16)

/-- The six stride fields of a side; dimension 0 has none. -/
def strideFields (w : List Word) (dest : Bool) : List Nat :=
  let g := fun (i hi lo : Nat) => field (w.getD i 0) hi lo
  if dest then [0, g 5 59 40, g 6 19 0, g 6 39 20, g 6 59 40, g 7 19 0]
  else [0, g 4 19 0, g 4 39 20, g 4 59 40, g 5 19 0, g 5 39 20]

/-- The extent fields, minus 1. -/
def extFields (w : List Word) : List Nat :=
  (List.range 5).map (fun d => field (w.getD 2 0) (12 * d + 11) (12 * d)) ++ [field (w.getD 3 0) 11 0]
/-- The valid-extent fields, minus 1. -/
def valFields (w : List Word) : List Nat := (List.range 3).map (fun d => field (w.getD 3 0) (12 * d + 23) (12 * d + 12))

/-- The fields of eight doublewords (13 R358). -/
def Desc.ofWords (w : List Word) : Desc :=
  let g := fun (i hi lo : Nat) => field (w.getD i 0) hi lo
  let rank := g 2 62 60
  let past := fun (l : List Nat) => (l.drop rank).all (fun x => decide (x = 0))
  let ext := (extFields w).map (· + 1)
  { src := w.getD 0 0, dst := w.getD 1 0, rank := rank, ext := ext.take rank,
    val := (List.range rank).map (fun d => if d < 3 then (valFields w).getD d 0 + 1 else ext.getD d 1),
    sstr := ((strideFields w false).map strideOf).take rank, dstr := ((strideFields w true).map strideOf).take rank,
    pk := g 3 63 62, sat := (w.getD 3 0).getLsbD 61, rnd := g 3 60 58, dfmt := g 3 57 53, sfmt := g 3 52 48,
    xa := g 4 62 60, xb := g 5 62 60, cobj := g 7 63 50, eng := g 7 49 44, scl := g 7 43 36, fill := g 7 35 20,
    clean := decide (g 2 63 63 = 0) && decide (g 4 63 63 = 0) && decide (g 5 63 63 = 0) && decide (g 6 63 60 = 0) &&
      past (extFields w) && past (valFields w) && past (strideFields w false) && past (strideFields w true) }

/-- Two places of a list exchanged: the destination's view of a source list (13 R363). -/
def exchange (l : List Nat) (a b : Nat) : List Nat :=
  (List.range l.length).map (fun i => if i = a then l.getD b 0 else if i = b then l.getD a 0 else l.getD i 0)

/-- The destination's extents. -/
def Desc.dext (d : Desc) : List Nat := exchange d.ext d.xa d.xb
/-- Elements per position of a format: a block's, or 1. -/
def unitElems (f : Nat) : Nat := if fmtBlock f then blockElems f else 1
/-- Bytes of a block or an element. -/
def unitBytes (f : Nat) : Nat := if fmtBlock f then blockBytes f else fmtBytes f

/-- Bytes of expanded data of a packed copy: EXT0 counts 512-byte blocks (13 R358). -/
def Desc.blocks (d : Desc) : Nat := d.ext.getD 0 0
/-- The most bytes a packed stream of the command takes (04 R124). -/
def Desc.packedMax (d : Desc) : Nat := 512 * d.blocks + 64 * ((512 * d.blocks + 32767) / 32768)

/-- The checks of 13 R361 that raise an illegal-instruction trap. DESIGN CHOICE: that of a block format's dimension-0 extent applies
to a packed command too, whose EXT0 counts 512-byte blocks (04 R124, 13 R358; log entry 72). -/
def Desc.legal (d : Desc) : Bool :=
  d.clean && decide (1 ≤ d.rank) && decide (d.rank ≤ 6) && decide (d.pk ≤ 2) && decide (d.rnd ≤ 4) && fmtLegal d.sfmt &&
    fmtLegal d.dfmt && decide (d.eng ≤ 48) && decide (d.scl ≠ 255) && decide (d.xa < d.rank) && decide (d.xb < d.rank) &&
    (List.range d.rank).all (fun i => decide (d.val.getD i 0 ≤ d.ext.getD i 0)) &&
    (!fmtBlock d.sfmt || decide (d.ext.getD 0 0 % blockElems d.sfmt = 0)) &&
    (!fmtBlock d.dfmt || decide (d.dext.getD 0 0 % blockElems d.dfmt = 0)) &&
    (decide (d.pk = 0) || (decide (d.rank = 1) && decide (d.sfmt = d.dfmt) && decide (d.xa = d.xb) && decide (d.val = d.ext) &&
      decide ((if d.pk = 1 then d.src else d.dst).toNat % 512 = 0) && decide ((if d.pk = 1 then d.dst else d.src).toNat % 16 = 0)))

/-- The coordinates of a position number, dimension 0 fastest. -/
def coords : List Nat → Nat → List Nat
  | [], _ => []
  | e :: es, n => n % e :: coords es (n / e)

/-- The address of the unit that holds an element (13 R363). -/
def unitAddrOf (base : Word) (f : Nat) (str q : List Nat) : Word :=
  base + BitVec.ofNat 64 (q.headD 0 / unitElems f * unitBytes f + (List.zipWith (· * ·) q str).foldl (· + ·) 0)

/-- Destination positions of the command. -/
def Desc.total (d : Desc) : Nat := d.ext.foldl (· * ·) 1
/-- Chunks of the command: 768 positions, or one group of 64 blocks (13 R363, 04 R126). -/
def Desc.chunks (d : Desc) : Nat := if d.pk = 0 then (d.total + 767) / 768 else (d.blocks + 63) / 64

/-- The source coordinates of destination position `p`. -/
def Desc.source (d : Desc) (p : Nat) : List Nat := exchange (coords d.dext p) d.xa d.xb
/-- Whether a source position lies inside the valid extents. -/
def Desc.valid (d : Desc) (q : List Nat) : Bool := (List.zipWith (fun x v => decide (x < v)) q d.val).all (fun b => b)
def Desc.srcAddr (d : Desc) (q : List Nat) : Word := unitAddrOf d.src d.sfmt d.sstr q
def Desc.dstAddr (d : Desc) (p : Nat) : Word := unitAddrOf d.dst d.dfmt d.dstr (coords d.dext p)

/-- The positions of a chunk. -/
def Desc.positions (d : Desc) (c : Nat) : List Nat := (List.range (min 768 (d.total - 768 * c))).map (fun i => 768 * c + i)

/-- `n` bytes from an address. -/
def addrRun (a : Word) (n : Nat) : List Word := (List.range n).map (fun i => a + BitVec.ofNat 64 i)

/-- The source elements that a list of positions reads, each as its unit's address (17 R421). -/
def Desc.reads (d : Desc) (ps : List Nat) : List Word :=
  ps.filterMap (fun p => if d.valid (d.source p) then some (d.srcAddr (d.source p)) else none)

/-- The bytes of element `j` of a unit, as offset and length within it (03 R91). -/
def elemRun (f j : Nat) : Nat × Nat := if fmtBlock f then (if is4bit f then j / 2 else j, 1) else (0, fmtBytes f)
/-- The bytes that the elements of a block share: mask, scales, flags (03 R91). -/
def sharedRun (f : Nat) : List (Nat × Nat) := if fmtBlock f then [(elemBytes f, blockBytes f - elemBytes f)] else []

/-- The runs of source bytes that a list of positions reads: a fill position none (17 R421). DESIGN CHOICE: an element of a block
needs all bytes that the block's elements share, which are visited after the elements of it that follow one another (log entry 79). -/
def Desc.readRuns (d : Desc) : List Nat → List (Word × Nat)
  | [] => []
  | p :: ps =>
    let q := d.source p
    let more := ps.head?.any (fun r => d.valid (d.source r) && decide (d.srcAddr (d.source r) = d.srcAddr q))
    let rs := elemRun d.sfmt (q.headD 0 % unitElems d.sfmt) :: (if more then [] else sharedRun d.sfmt)
    (if d.valid q then rs.map (fun r => (d.srcAddr q + BitVec.ofNat 64 r.1, r.2)) else []) ++ d.readRuns ps
/-- Those bytes. -/
def Desc.readBytes (d : Desc) (ps : List Nat) : List Word := (d.readRuns ps).flatMap (fun r => addrRun r.1 r.2)

/-- Every source byte of a plain command, and every destination byte, in the order they are visited (13 R361). -/
def Desc.srcBytes (d : Desc) : List Word :=
  if d.pk = 0 then d.readBytes (List.range d.total)
  else addrRun d.src (if d.pk = 1 then 512 * d.blocks else d.packedMax)
def Desc.dstBytes (d : Desc) : List Word :=
  if d.pk = 0 then (List.range d.total).flatMap (fun p => addrRun (d.dstAddr p) (unitBytes d.dfmt))
  else addrRun d.dst (if d.pk = 1 then d.packedMax else 512 * d.blocks)

/-- The offset past the last byte that a side reaches. -/
def spanOf (f : Nat) (ext str : List Nat) : Nat :=
  (ext.headD 1 + unitElems f - 1) / unitElems f * unitBytes f +
    (List.zipWith (fun e t => (e - 1) * t) (ext.drop 1) (str.drop 1)).foldl (· + ·) 0
def Desc.srcSpan (d : Desc) : Nat :=
  if d.pk = 0 then spanOf d.sfmt d.val d.sstr else if d.pk = 1 then 512 * d.blocks else d.packedMax
def Desc.dstSpan (d : Desc) : Nat :=
  if d.pk = 0 then spanOf d.dfmt d.dext d.dstr else if d.pk = 1 then d.packedMax else 512 * d.blocks

/-- Whether a byte fails the local-address checks of 01 R45 for a thread. -/
def State.byteFails (s : State) (t : Nat) (a : Word) : Bool :=
  decide (field a 63 60 = 12) || match s.check t a 1 none with
    | .trap _ => true
    | _ => false

/-- The first misaligned element of a command (13 R361). -/
def Desc.misaligned (d : Desc) : Option Word :=
  if d.pk ≠ 0 then none
  else
    let ok := fun (f : Nat) (base : Word) (str : List Nat) =>
      fmtBlock f || (decide (base.toNat % fmtBytes f = 0) && (str.drop 1).all (fun x => decide (x % fmtBytes f = 0)))
    let bad := fun (f : Nat) (as : List Word) => as.find? (fun a => !fmtBlock f && decide (a.toNat % fmtBytes f ≠ 0))
    if ok d.sfmt d.src d.sstr && ok d.dfmt d.dst d.dstr then none
    else match bad d.sfmt (d.reads (List.range d.total)) with
      | some a => some a
      | none => bad d.dfmt ((List.range d.total).map d.dstAddr)

/-- Everything CPY checks in a descriptor, in its order (13 R361). -/
def State.checkDesc (s : State) (d : Desc) : Except Stop Unit :=
  if !d.legal then illegal
  else match (d.srcBytes ++ d.dstBytes).find? (fun a => s.byteFails s.cur a) with
    | some a => localFault a
    | none => match d.misaligned with
      | some a => alignTrap a
      | none => .ok ()

/-! ## What a chunk reads -/

/-- The first address of each line that a list of byte addresses touches. -/
def linesOf : List Word → List Word → List Word
  | [], acc => acc.reverse
  | a :: as, acc => linesOf as (if acc.any (fun b => decide (b.toNat / 128 = a.toNat / 128)) then acc else a :: acc)

/-- The blocks of a group (04 R125). -/
def Desc.groupSize (d : Desc) (c : Nat) : Nat := min 64 (d.blocks - 64 * c)

/-- The lines a chunk reads first: its source elements, a group's blocks, or a packed group's 64 metadata bytes. -/
def Desc.firstLines (d : Desc) (c poff : Nat) : List Word :=
  linesOf (if d.pk = 0 then d.readBytes (d.positions c)
    else if d.pk = 1 then addrRun (d.src + BitVec.ofNat 64 (32768 * c)) (512 * d.groupSize c)
    else addrRun (d.src + BitVec.ofNat 64 poff) 64) []

/-- The byte at an address among the lines returned. -/
def Cmd.byte (c : Cmd) (a : Word) : Nat :=
  match c.lines.findIdx? (fun b => decide (b.toNat / 128 = a.toNat / 128)) with
  | some i => match NMap.get none c.got i with
    | some x => x.toNat / 256 ^ (a.toNat % 128) % 256
    | none => 0
  | none => 0
def Cmd.bytes (c : Cmd) (a : Word) (n : Nat) : List Nat := (addrRun a n).map c.byte

/-! ## What a chunk writes -/

/-- Bytes at addresses, grouped into runs within a line. -/
def groupBytes : List (Nat × Nat) → List (Nat × List Nat)
  | [] => []
  | (a, b) :: l => match groupBytes l with
    | (x, bs) :: r => if x = a + 1 && decide (x % 128 ≠ 0) then (a, b :: bs) :: r else (a, [b]) :: (x, bs) :: r
    | [] => [(a, [b])]

/-- The writes of a list of units. -/
def writesOf (us : List (Word × List Nat)) : List (Word × Nat × Nat) :=
  (groupBytes (us.flatMap (fun u => (addrRun u.1 u.2.length).zip u.2 |>.map (fun p => (p.1.toNat, p.2))))).map
    (fun g => (BitVec.ofNat 64 g.1, g.2.length, bytesToNat g.2))

/-- The value of a source element (13 R363): flushed or dequantised, then scaled exactly. -/
def Desc.value (d : Desc) (c : Cmd) (q : List Nat) : Ex :=
  let bs := c.bytes (d.srcAddr q) (unitBytes d.sfmt)
  let x := if fmtBlock d.sfmt then dequantElem d.sfmt bs (q.headD 0 % blockElems d.sfmt) else elemOf d.sfmt bs 0
  x.scale ((d.scl : Int) - 127)

/-- The bits of a fill position of a scalar destination (13 R360). -/
def Desc.fillBits (d : Desc) : Nat :=
  if d.dfmt = 0 then d.fill * 2 ^ 16 else if fmtBytes d.dfmt = 2 then d.fill else d.fill % 256

/-- Whether elements are copied bit for bit (13 R363). -/
def Desc.exact (d : Desc) : Bool :=
  decide (d.sfmt = d.dfmt) && decide (d.scl = 127) && decide (d.val = d.ext) &&
    (!fmtBlock d.sfmt || decide (d.xa = d.xb) || (decide (d.xa ≠ 0) && decide (d.xb ≠ 0)))

/-- The units of a scalar destination, with the rounding state after them. -/
def Desc.scalarUnits (d : Desc) (c : Cmd) : List Nat → BitVec 32 → List (Word × List Nat) × BitVec 32
  | [], seed => ([], seed)
  | p :: ps, seed =>
    let q := d.source p
    let (code, seed1) := if d.valid q then convert (fmtOf d.dfmt) (d.value c q) d.rnd d.sat seed else (d.fillBits, seed)
    let (us, seed2) := d.scalarUnits c ps seed1
    ((d.dstAddr p, codeBytes (fmtBytes d.dfmt) code) :: us, seed2)

/-- The blocks of a block destination. -/
def Desc.blockUnits (d : Desc) (c : Cmd) : List (List Nat) → BitVec 32 → List (Word × List Nat) × BitVec 32
  | [], seed => ([], seed)
  | ps :: rest, seed =>
    let xs := ps.map (fun p =>
      let q := d.source p
      if d.valid q then d.value c q
      else decodeFmt (fmtOf d.dfmt) (d.fill % (if is4bit d.dfmt then 16 else 256)))
    let (bs, seed1) := quantBlock d.dfmt xs d.rnd seed
    let (us, seed2) := d.blockUnits c rest seed1
    ((d.dstAddr (ps.headD 0), bs) :: us, seed2)

/-- The writes of a plain chunk, with the rounding state after it (13 R363). -/
def Desc.plainWrites (d : Desc) (c : Cmd) : List (Word × Nat × Nat) × BitVec 32 :=
  let ps := d.positions c.chunk
  let n := unitElems d.dfmt
  if d.exact then
    (writesOf ((ps.filter (fun p => decide ((coords d.dext p).headD 0 % n = 0))).map (fun p =>
      (d.dstAddr p, c.bytes (d.srcAddr (d.source p)) (unitBytes d.sfmt)))), c.srs)
  else if fmtBlock d.dfmt then
    let (us, seed) := d.blockUnits c (runsOf n (ps.length / n) ps) c.srs
    (writesOf us, seed)
  else
    let (us, seed) := d.scalarUnits c ps c.srs
    (writesOf us, seed)

/-- The bytes of a packed group and its length (04 R125). -/
def Desc.packGroup (d : Desc) (c : Cmd) : List Nat :=
  let bs := (List.range (d.groupSize c.chunk)).map (fun i =>
    encodeBlock (c.bytes (d.src + BitVec.ofNat 64 (32768 * c.chunk + 512 * i)) 512))
  let metas := bs.map (·.1)
  metas ++ List.replicate (64 - metas.length) 0 ++ bs.flatMap (·.2)

/-- The metadata of a packed group whose header has been read. -/
def Desc.groupMeta (d : Desc) (c : Cmd) : List Nat := c.bytes (d.src + BitVec.ofNat 64 c.poff) (d.groupSize c.chunk)
/-- Bytes of a packed group's sectors. -/
def sectorBytes (ms : List Nat) : Nat := 16 * (ms.map metaSectors).foldl (· + ·) 0
/-- The lines of a packed group's sectors that its header's lines do not hold already. -/
def Desc.sectorLines (d : Desc) (c : Cmd) : List Word :=
  let all := linesOf (addrRun (d.src + BitVec.ofNat 64 (c.poff + 64)) (sectorBytes (d.groupMeta c))) []
  all.filter (fun a => !c.lines.any (fun b => decide (b.toNat / 128 = a.toNat / 128)))

/-- The source bytes of a chunk as runs of addresses (04 R127). -/
def Desc.sourceOf (d : Desc) (c : Cmd) : List (Word × Nat) :=
  if d.pk = 0 then d.readRuns (d.positions c.chunk)
  else if d.pk = 1 then [(d.src + BitVec.ofNat 64 (32768 * c.chunk), 512 * d.groupSize c.chunk)]
  else [(d.src + BitVec.ofNat 64 c.poff, 64 + sectorBytes (d.groupMeta c))]

/-- Whether a location holds one of the source bytes of a chunk that read `lines`, which lie at `places`. -/
def hitsSource (src : List (Word × Nat)) (lines : List Word) (places : NMap Nat) (loc : Nat) : Bool :=
  (List.range lines.length).any (fun i =>
    let va := BitVec.ofNat 64 ((lines.getD i 0).toNat / 128 * 128 + loc % 128)
    decide (NMap.get 0 places i = loc / 128 * 128) && src.any (fun r => decide ((va - r.1).toNat < r.2)))

/-- The blocks of a packed group, each with its metadata and its stored bytes. -/
def storedBlocks (c : Cmd) : Word → List Nat → List (Nat × List Nat)
  | _, [] => []
  | a, m :: ms => (m, c.bytes a (16 * metaSectors m)) :: storedBlocks c (a + BitVec.ofNat 64 (16 * metaSectors m)) ms

/-- The writes of an unpacked group, or none where a header disagrees with its metadata (04 R128). -/
def Desc.unpackWrites (d : Desc) (c : Cmd) : Option (List (Word × Nat × Nat)) :=
  let bs := storedBlocks c (d.src + BitVec.ofNat 64 (c.poff + 64)) (d.groupMeta c)
  if bs.all (fun b => headerAgrees b.1 b.2) then
    some (writesOf ((List.range bs.length).map (fun i =>
      let b := bs.getD i (0, [])
      (d.dst + BitVec.ofNat 64 (32768 * c.chunk + 512 * i), decodeBlock b.1 b.2))))
  else none

/-- The contributions of a fill: its four granules with the most distinct source bytes in space 0x0 (02 R79). `len` is how
much of a packed stream it has read. -/
def Desc.contribs (d : Desc) (asid len : Nat) : List (Nat × Nat × Nat) :=
  let bytes := if d.pk = 2 then addrRun d.src len else d.srcBytes
  let as := (bytes.filter (fun a => decide (field a 63 60 = 0))).dedup
  let gs := (as.map (fun a => field a 51 16)).dedup
  let cs := gs.map (fun g => (g, (as.filter (fun a => decide (field a 51 16 = g))).length))
  let best := cs.insertionSort (fun x y => y.2 < x.2 ∨ (x.2 = y.2 ∧ x.1 ≤ y.1))
  (best.take 4).map (fun p => (asid, p.1, (p.2 + 255) / 256))

end Sys2Proof.Machine
end

