-- ==== Sys2Proof/Machine/Copy.lean ====
section
/-! DEFINITION. CPY, CPYW, CPYQ, CPYC and TFILL, and the copy engines (06 R171 to R176; 13 R343, R361 to R365; 01 R44 to
R46; 02 R67; 04 R126 to R128). -/

namespace Sys2Proof.Machine

/-! ## Completion objects (13 R364) -/

def cplWord0 (stat eng chunks : Nat) : Word := BitVec.ofNat 64 (stat * 2 ^ 60 + eng * 2 ^ 54 + chunks % 2 ^ 32)
def cplWord1 (srs : BitVec 32) (poff : Nat) : Word := BitVec.ofNat 64 (srs.toNat * 2 ^ 32 + poff % 2 ^ 32)

/-- Doublewords written to a core's scratchpad, performed there at once. -/
def State.spmWords (s : State) (k off : Nat) (ws : List Word) : State :=
  let loc := locSpm k off
  (s.writeHome (.core k) (lineOf loc) (byteMask (loc % 128) (8 * ws.length)) (placeData (loc % 128) (wordsToNat ws)) false none
    none).touchBank k loc

/-- Bytes of a core's scratchpad, as offset, number and value, written there at once. -/
def State.spmPiece (s : State) (k : Nat) (p : Nat × Nat × Nat) : State :=
  let loc := locSpm k p.1
  (s.writeHome (.core k) (lineOf loc) (byteMask (loc % 128) p.2.1) (placeData (loc % 128) p.2.2) false none none).touchBank k loc

/-- Whether core `k` can be accessed at offset `off` of its scratchpad; what an access that cannot be made wants. -/
def State.spmAwake (s : State) (k off : Nat) : Bool := s.coreAwake k (locSpm k off)
def State.spmWant (s : State) (k off : Nat) : State := s.want k (locSpm k off)

/-- An access of the issuing thread to its own scratchpad waits for a drowsy bank (02 R56). -/
def State.spmReady (s : State) (off : Nat) : Except Stop Unit :=
  let k := coreOf s.cur
  if s.spmAwake k off then .ok () else waitFor (.bank (s.bankFor k (locSpm k off)))

/-! ## Issue -/

/-- The engine of a command (13 R358, R362). -/
def Desc.engine (d : Desc) (k : Nat) : Nat := if d.eng ≠ 0 then d.eng - 1 else 4 * (clusterOf k % 12) + localOf k % 4

/-- Commands queued at an engine and not yet running. -/
def State.queued (s : State) (g : Nat) : Nat := ((s.engine g).cmds.filter (fun c => c.entered && !c.running)).length

/-- What a TFILL does to its tile, or illegal (13 R343). -/
inductive FillKind where
  | none | fill | drain
  deriving DecidableEq, Repr

def Desc.fillKind (d : Desc) (x : Tile) : Option FillKind :=
  if d.dst = x.addr then
    (if d.dfmt = shapeFmt x.shape && decide (d.dstSpan ≤ shapeSize x.shape) then some .fill else Option.none)
  else if d.src = x.addr then
    (if d.sfmt = shapeFmt x.shape && decide (d.srcSpan ≤ shapeSize x.shape) then some .drain else Option.none)
  else Option.none

/-- The command that an issue step starts. -/
def State.newCmd (s : State) (w : List Word) : Cmd :=
  let x := s.me
  let k := coreOf s.cur
  { id := s.nextCmd, desc := w, t := s.cur, core := k, cluster := clusterOf k, asid := x.asid, sv := x.sv, launch := x.launch,
    fn := x.fn, srs := x.srseed, nextSrs := x.srseed }

/-- A command enters an engine. -/
def State.addCmd (s : State) (g : Nat) (c : Cmd) : State :=
  ({ s with nextCmd := s.nextCmd + 1 }).updEngine g (fun e => { cmds := e.cmds ++ [{ c with since := s.changed.length }] })

/-- The issue step of CPY and TFILL once everything it waits for holds (13 R343, R362). -/
def State.startCopy (s : State) (w : List Word) (cls : Nat) (tile : Option Nat) : State :=
  let d := Desc.ofWords w
  let k := coreOf s.cur
  let g := d.engine k
  let off := 16 * d.cobj
  let c := s.newCmd w
  let s1 := (s.spmWords k off [cplWord0 0 g 0, cplWord1 s.me.srseed 0]).debit s.cur (cls * d.chunks)
  let s2 := match tile with
    | none => s1.addCmd g c
    | some e =>
      let x := s.tile k e
      match d.fillKind x, x.state with
      | some .fill, .empty =>
        (s1.addCmd g { c with fill := some e }).setTile k e { x with state := .filling, filler := some (.engine c.id), bad := false }
      | some .drain, .empty => (s1.spmWords k off [cplWord0 1 g 0]).setTile k e { x with bad := false }
      | some .fill, _ =>
        ((s1.addCmd g { c with fill := some e, entered := false }).setTile k e
          { x with op := .refill, filler := some (.engine c.id) }).tileEvent k e
      | _, _ =>
        ((s1.addCmd g { c with drain := some e, entered := false }).setTile k e
          { x with op := .drain, filler := some (.engine c.id) }).tileEvent k e
  (s2.updMe (fun x => { x with stage := none })).retire 4

/-- What CPY and TFILL wait for once their descriptor has been read and checked (06 R171; 13 R343, R357, R362; 02 R69). -/
def State.copyGo (s : State) (w : List Word) (cls : Nat) (tile : Option Nat) : Except Stop State := do
  let d := Desc.ofWords w
  let k := coreOf s.cur
  (match tile with
    | some e => s.notShrunk k (s.tile k e)
    | none => .ok ())
  s.energyTrap
  (match tile with
    | some e =>
      let x := s.tile k e
      if (x.state = .ready || x.state = .empty) && x.op = .none then .ok () else waitFor (.tileIdle e)
    | none => .ok ())
  let s1 := if s.me.rsb = [] then s else s.overflowDrain s.cur
  (if s1.me.storesSettled then .ok () else .error (.goto (s1.stop s1.cur (.waiting .settled))))
  let held := match tile with
    | some e => decide ((s.tile k e).state = .ready) || decide (d.fillKind (s.tile k e) = some .drain)
    | none => false
  (if !held && decide (16 ≤ s.queued (d.engine k)) then waitFor (.engineQueue (d.engine k)) else .ok ())
  s.energyWait
  s.spmReady (16 * d.cobj)
  .ok (s1.startCopy w cls tile)

/-- The instruction has read its descriptor and goes on from it, waiting or not. -/
def State.copyHold (s : State) (w : List Word) (cls : Nat) (tile : Option Nat) : Except Stop State :=
  let s1 := s.updMe (fun x => { x with stage := some (.copy w cls tile) })
  match s1.copyGo w cls tile with
  | .error (.wait v) => .error (.goto ((s1.wantFor v).stop s1.cur (.waiting v)))
  | r => r

/-- The descriptor address's own checks, its wait, the read (13 R361). The read sees every earlier store of the thread to
its scratchpad, so those must have performed (log entry 10). -/
def State.readDesc (s : State) (a : BitVec 5) : Except Stop (List Word) := do
  let p := s.x a
  (if field p 63 60 = 8 then .ok () else localFault p)
  (match s.check s.cur p 64 none with
    | .trap c => .error (.trap { cause := c, fadr := some p })
    | _ => .ok ())
  let os : List Opnd := [.s a false]
  s.refilled os
  s.untainted os
  let k := coreOf s.cur
  (if (s.headReq (.thread s.cur) (.core k)).isSome then waitFor .ownFifo else .ok ())
  s.spmReady (p.toNat % 2 ^ 18)
  .ok (s.readWords (locSpm k (p.toNat % 2 ^ 18)) 8)

/-- The bank that held a descriptor has been touched. -/
def State.descRead (s : State) (a : BitVec 5) : State :=
  (s.consume s.cur [.s a false]).touchBank (coreOf s.cur) (locSpm (coreOf s.cur) ((s.x a).toNat % 2 ^ 18))

/-- CPY (13 R361, R362; 06 R171). -/
def execCpy (e : BitVec 2) (a : BitVec 5) (s : State) : Outcome :=
  settle s (do
    let _ ← s.enterInstr .core .plain
    let w ← s.readDesc a
    s.checkDesc (Desc.ofWords w)
    (s.descRead a).copyHold w (energyWeight e.toNat) none)

/-- TFILL (13 R343). -/
def execTfill (a d : BitVec 5) (s : State) : Outcome :=
  settle s (do
    let _ ← s.enterInstr .core .plain
    let i ← s.bound d
    let w ← s.readDesc a
    s.checkDesc (Desc.ofWords w)
    (if ((Desc.ofWords w).fillKind (s.tile (coreOf s.cur) i)).isSome then .ok () else illegal)
    (s.descRead a).copyHold w 4 (some i))

/-- The checks of 13 R365 on the address of a completion object. -/
def State.cobjAddr (s : State) (a : Word) (remote : Bool) : Except Stop (List (Access × Option Place)) := do
  (if field a 63 60 = 8 || (remote && decide (field a 63 60 = 9)) then .ok () else localFault a)
  s.checkAll [{ index := 0, addr := a, width := 16 }]

/-- CPYW (13 R365): the pc stays until word 0 holds a final status. -/
def execCpyw (_e : BitVec 2) (a : BitVec 5) (s : State) : Outcome :=
  settle s (do
    let _ ← s.enterInstr .core .plain
    let _ ← s.cobjAddr (s.x a) false
    let os : List Opnd := [.s a false]
    s.refilled os
    s.untainted os
    let off := (s.x a).toNat % 2 ^ 18
    let loc := locSpm (coreOf s.cur) off
    s.spmReady off
    if field (s.readWord loc) 63 60 ≠ 0 then .ok (((s.consume s.cur os).touchBank (coreOf s.cur) loc).retire 4)
    else .error (.goto (((s.reads os).touchBank (coreOf s.cur) loc).stop s.cur (.waiting (.completion off)))))

/-- CPYQ (13 R365): a load of word 0. -/
def execCpyq (_e : BitVec 2) (a d : BitVec 5) (s : State) : Outcome :=
  settle s (do
    let _ ← s.enterInstr .core .plain
    let ys ← s.cobjAddr (s.x a) true
    let os : List Opnd := [.s a false]
    let zs ← s.ready .read os os (ys.map (fun y => ({ y.1 with width := 8 }, y.2)))
    s.issueLoad os zs (.scalar d.toNat 8 false) false)

/-- CPYC (13 R365). -/
def execCpyc (_e : BitVec 2) (a : BitVec 5) (s : State) : Outcome :=
  settle s (do
    let _ ← s.enterInstr .core .plain
    let _ ← s.cobjAddr (s.x a) false
    let os : List Opnd := [.s a false]
    s.refilled os
    s.untainted os
    let k := coreOf s.cur
    let off := (s.x a).toNat % 2 ^ 18
    let hit := fun (c : Cmd) => decide (c.core = k) && decide (16 * (Desc.ofWords c.desc).cobj = off)
    let mark := fun (e : Engine) => ({ cmds := e.cmds.map (fun c => if hit c && !c.cancelled then
      { c with cancelled := true, cancelAt := s.cycle + 1 } else c) } : Engine)
    let s1 : State := { s with engines := s.engines.map (fun p => (p.1, mark p.2)) }
    .ok ((s1.consume s.cur os).retire 4))

/-! ## Engines -/

def State.updCmd (s : State) (g id : Nat) (f : Cmd → Cmd) : State :=
  s.updEngine g (fun e => { cmds := e.cmds.map (fun c => if c.id = id then f c else c) })
def State.cmd (s : State) (g id : Nat) : Option Cmd := (s.engine g).cmds.find? (fun c => c.id = id)

/-- A request of a command is still in a FIFO. -/
def State.cmdInFifo (s : State) (g id : Nat) : Bool := s.fifo.any (fun r => decide (r.src = .engine g id))

/-- Every chunk of a command is done, or its final status is decided. -/
def Cmd.over (c : Cmd) : Bool :=
  decide (c.phase = .idle) && (decide (c.stat ≠ 0) || decide ((Desc.ofWords c.desc).chunks ≤ c.chunk))

/-- ENGINE_COMMAND_START (13 R362): the next queued command, once every write of those before it has performed. -/
def execEngineCommandStart (g : Nat) (s : State) : Outcome :=
  let cs := (s.engine g).cmds
  match cs.find? (fun c => c.entered && !c.running) with
  | some c =>
    if (cs.filter (·.running)).all (fun x => x.over && !s.cmdInFifo g x.id) then
      .next (s.updCmd g c.id (fun x => { x with running := true }))
    else .next s
  | none => .next s

/-- The place of an address of a command: a translated one needs the engine translation cache (01 R44); local ones were
checked at issue (01 R45). An engine's access records no pair (17 R421). -/
def State.cmdPlace (s : State) (g : Nat) (c : Cmd) (a : Word) (dst : Bool) : Option Place :=
  let n := a.toNat
  match field a 63 60 with
  | 0 =>
    match tlbLookup (NMap.get [] s.etcs (g / 4)) c.asid (n / 2 ^ 19) with
    | some e =>
      if (e.fails n c.sv (if dst then .write else .read)).isNone then
        some { s.placeOf e c.asid n with cacheable := false, pair := none }
      else none
    | none => none
  | 8 => some { loc := locSpm c.core (n % 2 ^ 18), home := .core c.core }
  | 9 =>
    let k := (ofCoreField (field a 59 48)).getD 0
    some { loc := locSpm k (n % 2 ^ 18), home := .core k }
  | 10 => some { loc := locCluster c.cluster (n % 2 ^ 24), home := .expander c.cluster }
  | _ => some { loc := locStack (field a 59 56) (n % 2 ^ 26), home := .stack (field a 59 56) }

/-- An engine miss (01 R38, R44). -/
def State.cmdMiss (s : State) (g : Nat) (c : Cmd) (a : Word) (dst : Bool) : State :=
  let m : TscMsg := {
    w0 := BitVec.ofNat 64 (3 * 2 ^ 60 + (if dst then 2 ^ 56 + 2 ^ 29 else 0) + g * 2 ^ 48 + c.asid * 2 ^ 32 + coreField c.core)
    w1 := a
    w2 := BitVec.ofNat 64 c.chunk
    fn := c.fn
    launch := c.launch }
  (s.updCmd g c.id (fun x => { x with missed := some (a.toNat / 2 ^ 19, dst) })).updCluster c.cluster (fun y =>
    { y with mesh := y.mesh ++ [m] })

/-! An engine's accesses are atomic per byte only and follow no program order (06 R164, R172): the environment picks into which
pieces each is cut and in which order they go to the FIFOs. Without picks they stand as they are. -/

/-- `n` bytes from offset `off` in the pieces that the environment picks. -/
def cutLen : List Nat → Nat → Nat → List (Nat × Nat) × List Nat
  | [], off, n => ([(off, n)], [])
  | p :: ps, off, n =>
    let m := p % n
    if n = 0 || m = 0 then ([(off, n)], ps) else let r := cutLen ps (off + m) (n - m); ((off, m) :: r.1, r.2)

/-- Accesses in their pieces. -/
def cutAll {α : Type} (size : α → Nat) (piece : α → Nat × Nat → α) : List Nat → List α → List α × List Nat
  | ps, [] => ([], ps)
  | ps, x :: xs =>
    let r := cutLen ps 0 (size x)
    let q := cutAll size piece r.2 xs
    (r.1.map (piece x) ++ q.1, q.2)

/-- Each access joins those before it at the place that the environment picks, counted from the last. -/
def mixIn {α : Type} : List Nat → List α → List α → List α × List Nat
  | ps, acc, [] => (acc, ps)
  | [], acc, x :: xs => (acc ++ x :: xs, [])
  | p :: ps, acc, x :: xs =>
    let i := acc.length - p % (acc.length + 1)
    mixIn ps (acc.take i ++ x :: acc.drop i) xs

/-- Accesses in the pieces and the order that the environment picks. -/
def arrange {α : Type} (size : α → Nat) (piece : α → Nat × Nat → α) (ps : List Nat) (xs : List α) : List α × List Nat :=
  let r := cutAll size piece ps xs
  mixIn r.2 [] r.1

/-- Writes, as address, bytes, value, in pieces and in order. -/
def State.arrangeWrites (s : State) (ws : List (Word × Nat × Nat)) : List (Word × Nat × Nat) × State :=
  let r := arrange (fun w => w.2.1) (fun w q => (w.1 + BitVec.ofNat 64 q.1, q.2, w.2.2 / 256 ^ q.1 % 256 ^ q.2)) s.picks ws
  (r.1, { s with picks := r.2 })

/-- Words of a completion object, as offset, bytes, value, in pieces and in order. -/
def State.arrangeStatus (s : State) (ws : List Word) : List (Nat × Nat × Nat) × State :=
  let r := arrange (fun w => w.2.1) (fun w q => (w.1 + q.1, q.2, w.2.2 / 256 ^ q.1 % 256 ^ q.2)) s.picks
    [(0, 8 * ws.length, wordsToNat ws)]
  (r.1, { s with picks := r.2 })

/-- A request enters a FIFO, which stands from its end here, before the last `n` of those it may pass. -/
def joinRev (same : Req → Bool) (r : Req) : Nat → List Req → List Req
  | _, [] => [r]
  | 0, l => r :: l
  | n + 1, x :: l => x :: joinRev same r (if same x then n else n + 1) l

/-- Requests of an engine enter its FIFOs. Those of a plain command pass the earlier ones that the environment picks, of other
chunks too: its accesses follow no program order (06 R172; log entry 84). The chunks of a packed one run strictly in order
(04 R126). -/
def State.join (s : State) (plain : Bool) : List Req → State
  | [] => s
  | r :: rs =>
    let same := fun (x : Req) => decide (x.src = r.src) && decide (x.place.home = r.place.home)
    match plain, s.picks with
    | true, p :: ps => ({ s with fifo := (joinRev same r p s.fifo.reverse).reverse, picks := ps }).join plain rs
    | _, _ => ({ s with fifo := s.fifo ++ [r] }).join plain rs

/-- Reads of whole lines, as line, offset, bytes, in pieces and in order. -/
def State.arrangeReads (s : State) (is : List Nat) : List (Nat × Nat × Nat) × State :=
  let r := arrange (fun x => x.2.2) (fun x q => (x.1, x.2.1 + q.1, q.2)) s.picks (is.map (fun i => (i, 0, 128)))
  (r.1, { s with picks := r.2 })

/-- Sends the LOADs of the lines a chunk has not asked for yet, or a miss message. -/
def State.cmdReads (s : State) (g : Nat) (c : Cmd) : State :=
  let todo := c.lines.drop c.asked
  match todo.find? (fun a => (s.cmdPlace g c a false).isNone) with
  | some a => s.cmdMiss g c a false
  | none =>
    let r := s.arrangeReads (List.range todo.length)
    let reqs := r.1.filterMap (fun x =>
      (s.cmdPlace g c (todo.getD x.1 0) false).map (fun p =>
        ({ src := .engine g c.id, place := { p with loc := p.loc / 128 * 128 + x.2.1 }, kind := .load x.2.2, part := c.asked + x.1 } : Req)))
    (r.2.join (decide ((Desc.ofWords c.desc).pk = 0)) reqs).updCmd g c.id (fun x =>
      { x with asked := x.lines.length, reading := x.reading + reqs.length })

/-- The record of a chunk that is complete; none where its destination is undefined already (04 R127). -/
def Cmd.record (c : Cmd) : List Copied :=
  if c.dests = [] then []
  else [{ src := (Desc.ofWords c.desc).sourceOf c, lines := c.lines, places := c.places, dests := c.dests, seen := c.seen }]

/-- A chunk whose writes have all been sent is complete; a failed one leaves the command's status (13 R363, 04 R128). -/
def State.chunkDone (s : State) (g id : Nat) : State :=
  match s.cmd g id with
  | none => s
  | some c =>
    if c.redo || decide (c.stat ≠ 0) then s.updCmd g id (fun x => { x with phase := .idle, redo := false })
    else (s.updCmd g id (fun x => { x with
      phase := .idle, chunk := x.chunk + 1, srs := x.nextSrs, poff := x.nextPoff, copied := x.copied ++ x.record })).progress c.launch

/-- Sends a chunk's STOREs in order until one has no translation. -/
def State.cmdWrites (s : State) (g id : Nat) : List (Word × Nat × Nat) → State
  | [] => s.chunkDone g id
  | (a, n, v) :: l =>
    match s.cmd g id with
    | none => s
    | some c =>
      match s.cmdPlace g c a true with
      | none => (s.updCmd g id (fun x => { x with out := (a, n, v) :: l })).cmdMiss g c a true
      | some p =>
        let r : Req := { src := .engine g id, place := p, kind := .store (byteMask (p.loc % 128) n) (placeData (p.loc % 128) v) }
        let s1 := (s.join (decide ((Desc.ofWords c.desc).pk = 0)) [r]).updCmd g id (fun x => { x with
          unsettled := x.unsettled + 1, out := l })
        s1.cmdWrites g id l

/-- A command goes on where a miss or the start of its chunk left it. -/
def State.cmdGo (s : State) (g id : Nat) : State :=
  match s.cmd g id with
  | none => s
  | some c =>
    if c.missed.isSome || c.stopped.isSome then s
    else match c.phase with
      | .idle => s
      | .header | .reading => if c.asked < c.lines.length then s.cmdReads g c else s
      | .writing => s.cmdWrites g id c.out

/-- The start of a chunk: what it reads first. -/
def Cmd.startChunk (c : Cmd) : Cmd :=
  let d := Desc.ofWords c.desc
  { c with phase := if d.pk = 2 then .header else .reading, lines := d.firstLines c.chunk c.poff, got := [], asked := 0, reading := 0, out := [],
           places := [], dests := [] }

/-- A command stopped on a fault goes on: its chunk restarts (01 R46). -/
def Cmd.restart (c : Cmd) : Cmd := if c.redo then { c with stopped := none } else Cmd.startChunk { c with stopped := none }

/-- Whether a byte lies in cluster memory at or beyond a size (02 R67). -/
def pastSize (lim : Nat) (a : Word) : Bool := decide (field a 63 60 = 10) && decide (lim ≤ a.toNat % 2 ^ 60)

/-- The address of a packed stream. -/
def Desc.stream (d : Desc) : Word := if d.pk = 1 then d.dst else d.src
/-- Whether what a chunk touches is not known when it starts: its packed group, of a length that only its reads tell, may reach
beyond the cluster memory's size. -/
def Desc.startsLate (d : Desc) : Bool := decide (d.pk ≠ 0) && decide (field d.stream 63 60 = 10)

/-- Whether a packed group of `n` bytes reaches beyond the size that the cluster memory had at the start of its chunk. -/
def Cmd.groupBeyond (c : Cmd) (n : Nat) : Bool :=
  let d := Desc.ofWords c.desc
  d.startsLate && pastSize c.size (d.stream + BitVec.ofNat 64 (c.poff + n - 1))

/-- Whether a chunk touches cluster memory at or beyond the current size (02 R67), as far as that is known before it reads: of a
packed group the 64 bytes of its header. -/
def State.beyondSize (s : State) (c : Cmd) : Bool :=
  let d := Desc.ofWords c.desc
  let bad := pastSize ((s.cluster c.cluster).spw * 2 ^ 20)
  if d.pk = 0 then
    ((d.readRuns (d.positions c.chunk)).any (fun r => bad (r.1 + BitVec.ofNat 64 (r.2 - 1)))) ||
      ((d.positions c.chunk).any (fun p => bad (d.dstAddr p + BitVec.ofNat 64 (unitBytes d.dfmt - 1))))
  else
    let whole := fun (a : Word) => bad (a + BitVec.ofNat 64 (32768 * c.chunk + 512 * d.groupSize c.chunk - 1))
    bad (d.stream + BitVec.ofNat 64 (c.poff + 63)) || whole (if d.pk = 1 then d.src else d.dst)

/-! ### A source that changes while it is copied (04 R127, 06 R176; log entry 24) -/

/-- The changes of memory recorded after the first `n`. -/
def State.changesSince (s : State) (n : Nat) : List Nat := s.changed.take (s.changed.length - n)

/-- Writes of free values to runs of addresses. -/
def freeWrites (fresh : Nat) (ds : List (Word × Nat)) : List (Word × Nat × Nat) :=
  (List.range ds.length).map (fun i =>
    let d := ds.getD i (0, 0)
    (d.1, d.2, (List.range 16).foldr (fun j acc => (Config.freeWord (fresh + 16 * i + j)).toNat + 2 ^ 64 * acc) 0 % 256 ^ d.2))

/-- A byte of the chunk's source has changed since the command was issued. -/
def State.sourceChanged (s : State) (c : Cmd) : Bool :=
  (s.changesSince c.since).any (hitsSource ((Desc.ofWords c.desc).sourceOf c) c.lines c.places)

/-- A byte of a completed chunk's source has changed since it was read. -/
def State.stale (s : State) (x : Copied) : Bool := (s.changesSince x.seen).any (hitsSource x.src x.lines x.places)

/-- The completed chunks whose destination a change of their source has made undefined; of a PACK, every later one too. -/
def State.undone (s : State) (c : Cmd) : List Copied :=
  if (Desc.ofWords c.desc).pk = 1 then c.copied.dropWhile (fun x => !s.stale x) else c.copied.filter s.stale

/-- A chunk's writes `ws` are known, and `next` is what else becomes of its command. Where the chunk's destination is undefined
it takes free values. -/
def State.sendOut (s : State) (g : Nat) (c : Cmd) (ws : List (Word × Nat × Nat)) (next : Cmd → Cmd) : State :=
  let d := Desc.ofWords c.desc
  let ds := ws.map (fun w => (w.1, w.2.1))
  let changed := s.sourceChanged c
  if c.lost || changed then
    let r := State.arrangeWrites { s with fresh := s.fresh + 16 * ds.length } (freeWrites s.fresh ds)
    (r.2.updCmd g c.id (fun x => { next x with
      phase := .writing, out := r.1, dests := [], lost := c.lost || (changed && decide (d.pk = 1)) })).cmdGo g c.id
  else
    let r := s.arrangeWrites ws
    (r.2.updCmd g c.id (fun x => { next x with phase := .writing, out := r.1, dests := ds, seen := s.changed.length })).cmdGo g c.id

/-- The bytes of a packed group, of a free length where its source has changed. -/
def State.packedBytes (s : State) (c : Cmd) : List Nat × State :=
  let d := Desc.ofWords c.desc
  if s.sourceChanged c then
    let (w, s1) := s.draw
    (List.replicate (64 + 16 * (w.toNat % (32 * d.groupSize c.chunk + 1))) 0, s1)
  else (d.packGroup c, s)

/-- The writes of an unpacked group are known, or it does not decode: an error, what it writes free (04 R128). -/
def State.sendUnpacked (s : State) (g : Nat) (c : Cmd) (ws : Option (List (Word × Nat × Nat))) : State :=
  let d := Desc.ofWords c.desc
  match ws with
  | some ws => s.sendOut g c ws (fun x => { x with nextPoff := x.poff + 64 + sectorBytes (d.groupMeta c) })
  | none =>
    let ds := (linesOf (addrRun (d.dst + BitVec.ofNat 64 (32768 * c.chunk)) (512 * d.groupSize c.chunk)) []).map (fun a => (a, 128))
    let r := State.arrangeWrites { s with fresh := s.fresh + 16 * ds.length } (freeWrites s.fresh ds)
    (r.2.updCmd g c.id (fun x => { x with phase := .writing, out := r.1, dests := [], stat := 4 })).cmdGo g c.id

/-- The progress record of a chunk start (13 R364): STOREs to the core, as all of an engine's writes are (06 R172, R174). -/
def State.progressRecord (s : State) (g : Nat) (c : Cmd) : State :=
  let d := Desc.ofWords c.desc
  let r := s.arrangeStatus [cplWord0 0 g c.chunk, cplWord1 c.srs c.poff]
  let reqs := r.1.map (fun p =>
    let loc := locSpm c.core (16 * d.cobj + p.1)
    ({ src := .engine g c.id, place := { loc := loc, home := .core c.core },
       kind := .store (byteMask (loc % 128) p.2.1) (placeData (loc % 128) p.2.2) } : Req))
  (r.2.join (decide (d.pk = 0)) reqs).updCmd g c.id (fun x => { x with unsettled := x.unsettled + reqs.length })

/-- A chunk is not started: its command ends with the local-address status (02 R67). DESIGN CHOICE: so does one whose packed group
turns out to reach beyond the size when its first reads have come, its progress record being written (04 R126; log entry 98). -/
def State.notStarted (s : State) (g : Nat) (c : Cmd) : State := s.updCmd g c.id (fun x => { x with stat := 3, phase := .idle })

/-- The length of a chunk's packed group is known: the chunk is not started where it reaches beyond the cluster memory's size;
otherwise it goes on. -/
def State.startLate (s : State) (g : Nat) (c : Cmd) (n : Nat) (go : State → State) : State :=
  if c.groupBeyond n then s.notStarted g c else go s

/-- A chunk whose read lines have all come with no fill left to read. -/
def State.finishReads (s : State) (g : Nat) (c : Cmd) : State :=
  let d := Desc.ofWords c.desc
  if d.pk = 0 then
    let (ws, seed) := d.plainWrites c
    s.sendOut g c ws (fun x => { x with nextSrs := seed, nextPoff := x.poff })
  else if d.pk = 1 then
    let r := s.packedBytes c
    r.2.startLate g c r.1.length (fun s1 =>
      s1.sendOut g c (writesOf [(d.dst + BitVec.ofNat 64 c.poff, r.1)]) (fun x => { x with nextPoff := x.poff + r.1.length }))
  else if c.phase = .header then
    if (d.groupMeta c).all metaValid then
      s.startLate g c (64 + sectorBytes (d.groupMeta c)) (fun s1 =>
        let more := d.sectorLines c
        let s2 := s1.updCmd g c.id (fun x => { x with phase := .reading, lines := x.lines ++ more })
        if more = [] then s2.sendUnpacked g c (d.unpackWrites c) else s2.cmdGo g c.id)
    else s.startLate g c 64 (fun s1 => s1.sendUnpacked g c none)
  else s.sendUnpacked g c (d.unpackWrites c)

/-- Whether every line a chunk reads has been asked for, and every read has come. -/
def Cmd.allCame (c : Cmd) : Bool := decide (c.asked = c.lines.length) && decide (c.reading = 0)

/-- A chunk that reads nothing, or whose reads have come, computes what it writes. -/
def State.maybeReads (s : State) (g id : Nat) : State :=
  match s.cmd g id with
  | some c =>
    if (decide (c.phase = .reading) || decide (c.phase = .header)) && c.allCame then s.finishReads g c else s
  | none => s

/-- Whether a command's next chunk can start. -/
def Cmd.mayStart (c : Cmd) : Bool := c.running && !c.over && decide (c.phase = .idle)

/-- Whether a CPYC of this cycle has marked a command. A final status of the same cycle would win over it (13 R365), so none
follows from it before the next. -/
def State.justCancelled (s : State) (c : Cmd) : Bool := c.cancelled && decide (c.cancelAt = s.cycle + 1)

/-- ENGINE_CHUNK_START (13 R363, R364, R365; 02 R67): the size check, the progress record, and the chunk's first reads. -/
def execEngineChunkStart (g : Nat) (s : State) : Outcome :=
  match (s.engine g).cmds.find? Cmd.mayStart with
  | some c =>
    if s.justCancelled c then .next s
    else if c.cancelled then .next (s.updCmd g c.id (fun x => { x with stat := 5 }))
    else if s.beyondSize c then .next (s.notStarted g c)
    else
      let start := fun (x : Cmd) => { x.startChunk with size := (s.cluster c.cluster).spw * 2 ^ 20 }
      .next ((((s.progressRecord g c).updCmd g c.id start).cmdGo g c.id).maybeReads g c.id)
  | none => .next s

/-- The chunks that have become undefined take free values before the final status, but for addresses beyond the cluster
memory's size. -/
def State.rewrite (s : State) (g : Nat) (c : Cmd) : State :=
  let xs := s.undone c
  let lim := (s.cluster c.cluster).spw * 2 ^ 20
  let ds := (xs.flatMap (·.dests)).filter (fun r => decide (field r.1 63 60 ≠ 10) || decide (r.1.toNat % 2 ^ 60 + r.2 ≤ lim))
  let r := State.arrangeWrites { s with fresh := s.fresh + 16 * ds.length } (freeWrites s.fresh ds)
  (r.2.updCmd g c.id (fun x => { x with
    phase := .writing, redo := true, out := r.1, copied := x.copied.filter (fun y => !xs.contains y) })).cmdGo g c.id

/-- The status that a command has reached (13 R364, R365). -/
def State.reached (s : State) (c : Cmd) : Nat := if c.stat ≠ 0 then c.stat else if c.cancelled && !s.justCancelled c then 5 else 1

/-- Whether a piece of a completion object holds the byte of STAT. -/
def showsStat (p : Nat × Nat × Nat) : Bool := decide (p.1 ≤ 7) && decide (7 < p.1 + p.2.1)
/-- The pieces of a final status in the order in which they are written: that with the byte of STAT, which joins (06 R175), is the
last (log entry 25). -/
def statLast (ps : List (Nat × Nat × Nat)) : List (Nat × Nat × Nat) := ps.filter (fun p => !showsStat p) ++ ps.filter showsStat

/-- The final status of a command, and what of it is still to be written: decided when its first bytes are. -/
def State.finalOf (s : State) (g : Nat) (c : Cmd) : (Nat × List (Nat × Nat × Nat)) × State :=
  match c.final with
  | some f => (f, s)
  | none =>
    let stat := s.reached c
    let w0 := cplWord0 stat g c.chunk
    let r := s.arrangeStatus (if (Desc.ofWords c.desc).pk = 1 && decide (stat = 1) then [w0, cplWord1 c.srs c.poff] else [w0])
    ((stat, statLast r.1), r.2)

/-- A command whose final status has been written is gone: the tile of a TFILL changes state, and the launch may end. -/
def State.cmdEnd (s : State) (g : Nat) (c : Cmd) (stat : Nat) : State :=
  let d := Desc.ofWords c.desc
  let s1 := s.updEngine g (fun e => { cmds := e.cmds.filter (fun x => x.id ≠ c.id) })
  let s2 := match c.fill, c.drain with
    | some e, _ => s1.tileEnd c.core e (decide (stat = 1)) (d.contribs c.asid c.poff)
    | none, some e => s1.tileEnd c.core e (decide (stat = 1)) []
    | none, none => s1
  s2.endIfOver c.launch

/-- ENGINE_FINAL_STATUS (06 R174; 13 R364; 17 R422): once every data write has settled, the final status performs at the
completion object's home, a piece in each event where it is cut (06 R164); with the last one, that of STAT, the command is gone. -/
def execEngineFinalStatus (g cmd : Nat) (s : State) : Outcome :=
  match s.cmd g cmd with
  | some c =>
    let off := 16 * (Desc.ofWords c.desc).cobj
    if !(c.running && c.over && decide (c.unsettled = 0) && !s.cmdInFifo g cmd) then .next s
    else if !s.spmAwake c.core off then .next (s.spmWant c.core off)
    else if s.undone c ≠ [] then .next (s.rewrite g c)
    else
      let r := s.finalOf g c
      let s1 := match r.1.2 with
        | [] => r.2
        | p :: _ => r.2.spmPiece c.core (off + p.1, p.2)
      let rest := r.1.2.drop 1
      if rest = [] then .next (s1.cmdEnd g c r.1.1)
      else .next (s1.updCmd g cmd (fun x => { x with final := some (r.1.1, rest) }))
  | none => .next s

/-- ENGINE_REPLY (06 R173): a read has come. -/
def execEngineReply (g : Nat) (h : Home) (s : State) : Outcome :=
  match s.headMsg (.engine g) h with
  | some m =>
    match m.kind with
    | .reply (.engine _ id) _ part place n _ line _ =>
      let mask := byteMask (place.loc % 128) n
      .next (((s.dropMsg m).updCmd g id (fun c => { c with
        got := NMap.set none c.got part (some (overlayLine mask line ((NMap.get none c.got part).getD 0)))
        places := NMap.set 0 c.places part (place.loc / 128 * 128)
        reading := c.reading - 1 })).maybeReads g id)
    | _ => .next s
  | none => .next s

/-- ENGINE_ACK (06 R173): a write has performed; it settles, or awaits its line. -/
def execEngineAck (g : Nat) (h : Home) (s : State) : Outcome :=
  match s.headMsg (.engine g) h with
  | some m =>
    match m.kind with
    | .ack (.engine _ id) _ _ flag =>
      .next ((s.dropMsg m).updCmd g id (fun c =>
        if flag then { c with unsettled := c.unsettled - 1 } else { c with awaiting := c.awaiting ++ [(h, m.line)] }))
    | _ => .next s
  | none => .next s

/-- ENGINE_SETTLE (06 R173). -/
def execEngineSettle (g : Nat) (h : Home) (s : State) : Outcome :=
  match s.headMsg (.engine g) h with
  | some m =>
    match m.kind with
    | .settle =>
      .next ((s.dropMsg m).updEngine g (fun e => { cmds := e.cmds.map (fun c =>
        let mine := c.awaiting.filter (fun p => p = (h, m.line))
        { c with awaiting := c.awaiting.filter (fun p => p ≠ (h, m.line)), unsettled := c.unsettled - mine.length }) }))
    | _ => .next s
  | none => .next s

end Sys2Proof.Machine
end

