-- ==== Sys2Proof/Machine/BitStream.lean ====
section
/-! DEFINITION. The bit-stream instructions of the transform thread (14 R376, R377; 04 R118). -/

namespace Sys2Proof.Machine

/-- The position of a cursor: OFF x 8 + BIT (14 R376). -/
def cursorPos (w : Word) : Nat := field w 23 0 * 8 + field w 26 24
/-- A cursor moved to another position of its space. -/
def cursorAt (w : Word) (pos : Nat) : Word :=
  BitVec.ofNat 64 (field w 63 60 * 2 ^ 60 + pos % 8 * 2 ^ 24 + pos / 8 % 2 ^ 24)
/-- The address of byte `i` from a cursor. -/
def cursorByte (w : Word) (i : Nat) : Word := BitVec.ofNat 64 (field w 63 60 * 2 ^ 60 + field w 23 0 + i)
/-- Whether a cursor's SPACE is one that bit-stream instructions reach (04 R118). -/
def cursorSpace (w : Word) : Bool := decide (field w 63 60 = 8) || decide (field w 63 60 = 10)

/-- The single-byte accesses of `n` bytes from a cursor. -/
def cursorAccesses (w : Word) (n : Nat) : List Access :=
  (List.range n).map (fun i => { index := i, addr := cursorByte w i, width := 1 })

/-- BSTAKE and BSPEEK (14 R377). -/
def bitsRead (s : State) (n : Nat) (d : BitVec 5) (advance : Bool) : Outcome :=
  settle s (do
    let _ ← s.enterInstr .transform .plain
    let w := s.me.bsrd
    (if cursorSpace w then .ok () else localFault w)
    let zs ← s.access .read [] [] (cursorAccesses w ((field w 26 24 + n + 7) / 8))
    let s1 ← s.issueLoad [] zs (.bits d.toNat (field w 26 24) n) false
    .ok (if advance then s1.updMe (fun x => { x with bsrd := cursorAt w (cursorPos w + n) }) else s1))

/-- BSTAKE (14 R377). -/
def execBstake (c : BitVec 7) (d : BitVec 5) (s : State) : Outcome := bitsRead s c.toNat d true

/-- BSPEEK (14 R377). -/
def execBspeek (c : BitVec 7) (d : BitVec 5) (s : State) : Outcome := bitsRead s c.toNat d false

/-- BSSKIP (14 R377). -/
def execBsskip (c : BitVec 7) (s : State) : Outcome :=
  settle s (do
    let _ ← s.enterInstr .transform .plain
    .ok ((s.updMe (fun x => { x with bsrd := cursorAt x.bsrd (cursorPos x.bsrd + c.toNat) })).retire 4))

/-- The places of the bytes a cursor's output completes, after their checks. -/
def State.emitPlaces (s : State) (os : List Opnd) (n : Nat) : Except Stop (List (Access × Place)) := do
  let w := s.me.bswr
  let total := field w 26 24 + n
  s.access .write os os (cursorAccesses w (total / 8))

/-- One STORE for each line that a run of bytes touches, ascending (14 R377). -/
def State.storeBytes (s : State) (t : Nat) : List (Place × Nat) → State
  | [] => s
  | (p, b) :: l =>
    let same := (b :: (l.takeWhile (fun q => decide (lineOf q.1.loc = lineOf p.loc))).map (·.2))
    if l.any (fun q => decide (lineOf q.1.loc ≠ lineOf p.loc)) then
      let rest := l.dropWhile (fun q => decide (lineOf q.1.loc = lineOf p.loc))
      let s1 := s.sendStore t p same.length (bytesToNat same)
      match rest with
      | (p2, b2) :: l2 => s1.sendStore t p2 (l2.length + 1) (bytesToNat (b2 :: l2.map (·.2)))
      | [] => s1
    else s.sendStore t p same.length (bytesToNat same)

/-- Appends `n` bits to the output (14 R377): completed bytes are stored, the rest stays pending. -/
def State.emit (s : State) (zs : List (Access × Place)) (v n : Nat) : State :=
  let x := s.me
  let w := x.bswr
  let bit := field w 26 24
  let all := x.bsacc.toNat % 2 ^ bit + v % 2 ^ n * 2 ^ bit
  let total := bit + n
  let s1 := s.storeBytes s.cur (zs.map (fun z => (z.2, all / 256 ^ z.1.index % 256)))
  s1.updMe (fun y => { y with bswr := cursorAt w (cursorPos w + n), bsacc := BitVec.ofNat 7 (all / 256 ^ (total / 8)) })

/-- BSEMIT (14 R377). -/
def execBsemit (c : BitVec 7) (n : Bool) (a : BitVec 5) (s : State) : Outcome :=
  settle s (do
    let _ ← s.enterInstr .transform .plain
    (if cursorSpace s.me.bswr then .ok () else localFault s.me.bswr)
    let os : List Opnd := [.s a n]
    let zs ← s.emitPlaces os c.toNat
    .ok ((((s.emit zs (s.x a).toNat c.toNat).consume s.cur os).retire 4).windowWait zs))

/-- Bits to the next multiple of `n`. -/
def padTo (pos n : Nat) : Nat := (n - pos % n) % n

/-- BSALIGN (14 R377). -/
def execBsalign (c : BitVec 7) (s : State) : Outcome :=
  settle s (do
    let _ ← s.enterInstr .transform .plain
    let n := c.toNat
    let rd := s.me.bsrd
    let s1 := if cursorSpace rd then
      s.updMe (fun x => { x with bsrd := cursorAt rd (cursorPos rd + padTo (cursorPos rd) n) }) else s
    if cursorSpace s.me.bswr then
      let k := padTo (cursorPos s.me.bswr) n
      let zs ← s.emitPlaces [] k
      .ok (((s1.emit zs 0 k).retire 4).windowWait zs)
    else .ok (s1.retire 4))

end Sys2Proof.Machine
end

