-- ==== Sys2Proof/Machine/Tsc.lean ====
section
/-! DEFINITION. The translation service cores: messages, translation entries, fault records, invalidation and fetch
delivery (01 R26 to R52; 07 R196; 14 R385, R386). -/

namespace Sys2Proof.Machine

/-! ## Entries -/

/-- The checks of 01 R27 on an entry to be written. -/
def Tlb.legal (e : Tlb) : Bool :=
  let n1 := e.te1.toNat
  decide (e.te0.toNat / 2 ^ 33 % 2 ^ 11 = 0) && decide (e.size ≠ 3) && decide (n1 / 2 ^ 38 = 0) && decide (n1 / 2 ^ 29 % 8 = 0) &&
    decide (e.mt ≤ 1) && decide (e.ppn % 2 ^ sizeShift e.size = 0)

/-- An entry with its lock bit cleared. -/
def Tlb.unlocked (e : Tlb) : Tlb := { e with te0 := e.te0 &&& ~~~(1#64 <<< 44) }

/-- The slot of a valid entry with equal ASID, VPN and size (01 R30). DESIGN CHOICE: the VPN fields are compared whole, the low bits
that a larger page ignores in matching too (log entry 78). -/
def sameEntry (m : NMap Tlb) (e : Tlb) : Option Nat :=
  (m.find? (fun p => p.2.v && decide (p.2.asid = e.asid) && decide (p.2.vpn = e.vpn) && decide (p.2.size = e.size))).map (·.1)

/-- Valid locked entries. DESIGN CHOICE: an entry with V = 0 and L = 1 is not locked, and may be replaced (log entry 78). -/
def lockedCount (m : NMap Tlb) : Nat := (m.filter (fun p => p.2.v && p.2.l)).length

/-- The first slot from `i` on, counting round, that holds no locked entry. -/
def nextUnlocked (m : NMap Tlb) (size i : Nat) : Nat → Nat
  | 0 => i % size
  | n + 1 =>
    let e := NMap.get {} m (i % size)
    if e.v && e.l then nextUnlocked m size (i + 1) n else i % size

/-- A TLBW into a core TLB (01 R30): in place, or at the replacement pointer. DESIGN CHOICE: an entry that is overwritten in place
does not count among the 8 already locked, and a slot under the pointer that has been locked in place is skipped (log entry 78). -/
def Core.writeTlb (c : Core) (e : Tlb) : Core :=
  match sameEntry c.tlb e with
  | some i =>
    let others := NMap.set {} c.tlb i {}
    { c with tlb := NMap.set {} c.tlb i (if e.l && decide (8 ≤ lockedCount others) then e.unlocked else e) }
  | none =>
    let i := nextUnlocked c.tlb 64 c.tlbPtr 64
    let m := NMap.set {} c.tlb i (if e.l && decide (8 ≤ lockedCount c.tlb) then e.unlocked else e)
    { c with tlb := m, tlbPtr := nextUnlocked m 64 (i + 1) 64 }

/-- A write into a cache of `size` entries with at most `locks` locked, whose victim is not visible (14 R385). -/
def cacheWrite (m : NMap Tlb) (e : Tlb) (size locks pick : Nat) : NMap Tlb :=
  let lock := fun (m : NMap Tlb) => if e.l && decide (locks ≤ lockedCount m) then e.unlocked else e
  match sameEntry m e with
  | some i => NMap.set {} m i (lock (NMap.set {} m i {}))
  | none =>
    match (List.range size).find? (fun i => !(NMap.get {} m i).v) with
    | some i => NMap.set {} m i (lock m)
    | none => NMap.set {} m (nextUnlocked m size pick size) (lock m)

/-- The threads of core `k` that wait with an access in (ASID, page), those parked with a record still to be posted among
them (01 R49). -/
def State.missWaiters (s : State) (k : Nat) (hit : Nat → Nat → Bool) : List (Nat × Word × Nat) :=
  (coreThreads k).filterMap (fun t => match (s.thread t).run, (s.thread t).owed with
    | .waiting (.tlb asid va acc), _ => if hit asid (va.toNat / 2 ^ 19) then some (t, va, acc) else none
    | .parked .fault, some (va, acc) => if hit (s.thread t).asid (va.toNat / 2 ^ 19) then some (t, va, acc) else none
    | _, _ => none)

/-- The miss slots of a page become free, and a thread waiting for a slot may retry by itself. -/
def State.freeMisses (s : State) (k : Nat) (hit : Nat → Nat → Bool) : State :=
  s.updCore k (fun c => { c with misses := c.misses.filter (fun p => match p.2 with
    | some q => !hit q.1 q.2
    | none => false) })

/-- Threads return to rotation. -/
def State.wakeAll (s : State) : List Nat → State
  | [] => s
  | t :: ts => ((s.updThread t (fun x => { x with owed := none })).wake t).wakeAll ts

/-- A written entry reaches a core TLB; every thread whose miss slot it covers retries (01 R30, R35; 14 R385). -/
def State.coreTlbw (s : State) (k : Nat) (e : Tlb) : State :=
  let ts := (s.missWaiters k (fun a p => e.covers a p)).map (·.1)
  ((s.updCore k (fun c => c.writeTlb e)).freeMisses k (fun a p => e.covers a p)).wakeAll ts

/-- The engines of base die `d` whose commands wait on a page that an entry covers retry (14 R385). -/
def State.retryEngines (s : State) (d : Nat) (e : Tlb) : State :=
  [4 * d, 4 * d + 1, 4 * d + 2, 4 * d + 3].foldl (fun s g => (s.engine g).cmds.foldl (fun s c => match c.missed with
    | some (p, _) =>
      if e.covers c.asid p && c.stopped.isNone then
        ((s.updCmd g c.id (fun x => { x with missed := none })).cmdGo g c.id).maybeReads g c.id
      else s
    | none => s) s) s

/-- A write into the engine translation cache of base die `d` (14 R385): never locked. -/
def State.etcWrite (s : State) (d : Nat) (e : Tlb) : State :=
  let m := cacheWrite (NMap.get [] s.etcs d) e.unlocked 1024 0 (Config.victim s.fresh)
  State.retryEngines { s with etcs := NMap.set [] s.etcs d m, fresh := s.fresh + 1 } d e

/-- A write into the cluster translation cache (14 R385); the fetch port retries what it covers (01 R40). -/
def State.ctcWrite (s : State) (cl : Nat) (e : Tlb) : State :=
  State.updCluster { s with fresh := s.fresh + 1 } cl (fun c => { c with
    ctc := cacheWrite c.ctc e 4096 256 (Config.victim s.fresh)
    fetches := c.fetches.map (fun f => if e.covers f.asid (f.va / 2 ^ 19) then { f with asked := false } else f) })

/-- TLB_WRITEBACK (01 R35): the oldest entry on its way to a core arrives. -/
def execTlbWriteback (k : Nat) (s : State) : Outcome :=
  let cl := clusterOf k
  match (s.cluster cl).writebacks.find? (fun w => w.1 = k) with
  | some w => .next ((s.updCluster cl (fun c => { c with writebacks := c.writebacks.erase w })).coreTlbw k w.2)
  | none => .next s

/-! ## Messages (01 R38, R39) -/

namespace TscMsg
def kind (m : TscMsg) : Nat := field m.w0 63 60
def pin (m : TscMsg) : Bool := m.w0.getLsbD 59
def acc (m : TscMsg) : Nat := field m.w0 57 56
def eng (m : TscMsg) : Nat := field m.w0 53 48
def asid (m : TscMsg) : Nat := field m.w0 47 32
def dst (m : TscMsg) : Bool := m.w0.getLsbD 29
def ctx (m : TscMsg) : Nat := field m.w0 19 16
def core (m : TscMsg) : Nat := (ofCoreField (field m.w0 11 0)).getD 0
def thread (m : TscMsg) : Nat := 16 * m.core + m.ctx
def page (m : TscMsg) : Nat := m.w1.toNat / 2 ^ 19
end TscMsg

def Acc4.ofCode (n : Nat) : Acc4 := if n = 0 then .read else if n = 1 then .write else if n = 2 then .rmw else .exec

/-- The command of an engine miss. -/
def State.msgCmd (s : State) (m : TscMsg) : Option Cmd :=
  (s.engine m.eng).cmds.find? (fun c => decide (c.asid = m.asid) && decide (c.missed = some (m.page, m.dst)) && c.stopped.isNone)

/-- The fetch of a fetch miss. -/
def Cluster.msgFetch (c : Cluster) (m : TscMsg) : Option Fetch :=
  c.fetches.find? (fun f => decide (f.asid = m.asid) && decide (f.va = m.w1.toNat))

/-- Whether the access of a message runs in supervisor state. DESIGN CHOICE: that of a fetch whose waiters are in both states counts as
a supervisor's only where all of them are (log entry 96). -/
def State.msgSv (s : State) (cl : Nat) (m : TscMsg) : Bool :=
  if m.kind = 3 then match s.msgCmd m with
    | some c => c.sv
    | none => false
  else if m.kind = 2 then match (s.cluster cl).msgFetch m with
    | some f => f.waiters.all (fun t => (s.thread t).sv)
    | none => false
  else (s.thread m.thread).sv

/-- TSC_MESSAGE_ARRIVAL (01 R38): a CTC hit that satisfies 01 R29 is installed and never enters the inbox of 64. -/
def execTscMessageArrival (cl : Nat) (s : State) : Outcome :=
  let c := s.cluster cl
  match c.mesh with
  | [] => .next s
  | m :: ms =>
    let full := decide (64 ≤ c.inbox.length)
    let enter := fun (x : TscMsg) =>
      if full then s else s.updCluster cl (fun y => { y with mesh := ms, inbox := y.inbox ++ [x] })
    if m.kind = 4 then .next (enter m)
    else match tlbLookup c.ctc m.asid m.page with
      | none => .next (enter m)
      | some e =>
        if (e.fails m.w1.toNat (s.msgSv cl m) (Acc4.ofCode m.acc)).isSome then .next (enter { m with w0 := m.w0 ||| (1#64 <<< 58) })
        else
          let s1 := s.updCluster cl (fun y => { y with mesh := ms })
          if m.kind = 1 then .next (s1.updCluster cl (fun y => { y with writebacks := y.writebacks ++ [(m.core, e)] }))
          else if m.kind = 3 then .next (s1.etcWrite (m.eng / 4) e)
          else .next (s1.updCluster cl (fun y => { y with fetches := y.fetches.map (fun f =>
            if e.covers f.asid (f.va / 2 ^ 19) then { f with asked := false } else f) }))

/-- A command processor receives an acknowledgement; with that of the last of the 168 TSCs its shootdown is complete (01 R43). -/
def Cp.acknowledged (p : Cp) : Cp := { p with acks := p.acks + 1, shooting := p.shooting && decide (p.acks + 1 < numClusters) }

/-- The shootdown request that command processor `p` sends to each TSC (01 R38, R43). -/
def shootMsg (p scope : Nat) (te0 : Word) : TscMsg :=
  { w0 := BitVec.ofNat 64 (4 * 2 ^ 60 + 0x3F * 2 ^ 48 + scope % 4 * 2 ^ 30), w1 := te0, w2 := 0, cp := p }

/-- A command processor whose last shootdown is complete starts the next that its firmware makes: a request to each of the 168
TSCs (01 R43). -/
def State.shoot (s : State) (p : Nat) : State :=
  match (s.cp p).shoots with
  | [] => s
  | (scope, te0) :: rest =>
    if (s.cp p).shooting || !(s.cp p).running then s
    else
      let s1 := s.updCp p (fun c => { c with shoots := rest, shooting := true, acks := 0 })
      (List.range numClusters).foldl (fun s cl => s.updCluster cl (fun c => { c with mesh := c.mesh ++ [shootMsg p scope te0] })) s1

/-- Every command processor does so. -/
def State.shootAll (s : State) : State :=
  if s.cps.all (fun p => p.2.shoots = []) then s else [0, 1, 2, 3].foldl (fun s p => s.shoot p) s

/-- Removing a head message; a shootdown request is acknowledged (01 R39, R43). -/
def State.popInbox (s : State) (cl : Nat) : State :=
  match (s.cluster cl).inbox with
  | [] => s
  | m :: ms =>
    let s1 := s.updCluster cl (fun c => { c with inbox := ms, working := false })
    if m.kind = 4 then s1.updCp m.cp Cp.acknowledged else s1

/-- Moving the head message to the deferred list (01 R39). -/
def State.deferInbox (s : State) (cl : Nat) : State :=
  s.updCluster cl (fun c => match c.inbox with
    | [] => c
    | m :: ms => { c with inbox := ms, deferred := c.deferred ++ [m], working := false })

/-- TSC_MSG_READ (01 R39): a TSC held at its read of `tmsg0` goes on once the inbox has a message. -/
def execTscMsgRead (cl : Nat) (s : State) : Outcome :=
  if (s.thread (tscThread cl)).run = .waiting .inbox && (s.cluster cl).inbox ≠ [] then .next (s.wake (tscThread cl)) else .next s

/-- TINBOX_POP (01 R39). -/
def execTinboxPop (cl : Nat) (s : State) : Outcome := .next (s.popInbox cl)

/-- TINBOX_DEFER (01 R39). -/
def execTinboxDefer (cl : Nat) (s : State) : Outcome := .next (s.deferInbox cl)

/-! ## Fault records (01 R48 to R52) -/

/-- The command processor that serves index `i`: `i` mod 4, or the next running one (22 R442). -/
def State.server (s : State) (i : Nat) : Nat :=
  match ((List.range 4).map (fun j => (i + j) % 4)).find? (fun p => (s.cp p).running) with
  | some p => p
  | none => i % 4

/-- A fatal translation trap: `fcause` takes the access kind and the cause (14 R381; 18 R423). -/
def State.fatalTrap (s : State) (t : Nat) (cause : BitVec 6) (va : Word) : State :=
  (s.updThread t (fun x => { x with fcause := cause })).trapEntry t { cause := causeFatal, fadr := some va }

/-- A faulting thread: with a pinned region it traps at once; otherwise its region aborts and it parks (01 R48). -/
def State.faultThread (s : State) (t : Nat) (va : Word) (cause : BitVec 6) (seq : Nat) : State :=
  if (s.thread t).pin then s.fatalTrap t cause va
  else ((s.abortRegion t).updThread t (fun x => { x with faultSeq := some seq, owed := none })).stop t (.parked .fault)

/-- The waiters of a message: threads with what they access, and an engine command. A joined thread with another access
kind, or with a pinned region, is no waiter of it: it retries and reports its own miss. -/
structure MsgWaiters where
  threads : List (Nat × Word)
  retry : List Nat
  cmd : Option Cmd

/-- The waiters of the head message of cluster `cl`. -/
def State.msgWaiters (s : State) (cl : Nat) (m : TscMsg) : MsgWaiters :=
  if m.kind = 1 then
    let all := s.missWaiters m.core (fun a p => decide (a = m.asid) && decide (p = m.page))
    let mine := fun (w : Nat × Word × Nat) =>
      if m.pin then decide (w.1 = m.thread) else decide (w.2.2 = m.acc) && !(s.thread w.1).pin
    ⟨(all.filter mine).map (fun w => (w.1, w.2.1)), (all.filter (fun w => !mine w)).map (·.1), none⟩
  else if m.kind = 2 then
    ⟨(match (s.cluster cl).msgFetch m with
      | some f => f.waiters.map (fun t => (t, m.w1))
      | none => []), [], none⟩
  else ⟨[], [], s.msgCmd m⟩

/-- The thread that a message other than an engine's is from. -/
def TscMsg.from_ (m : TscMsg) (w : MsgWaiters) : Nat := (w.threads.map (·.1)).headD m.thread

/-- The thread whose fault the record of a fetch miss describes: the first that waits for the block. -/
def TscMsg.fetcher (m : TscMsg) (w : MsgWaiters) : Option Nat := if m.kind = 2 then (w.threads.map (·.1)).head? else none

/-- The function and the launch of the access that a record describes. -/
def State.msgFn (s : State) (m : TscMsg) (w : MsgWaiters) : Nat := ((m.fetcher w).map (fun t => (s.thread t).fn)).getD m.fn
def State.msgLaunch (s : State) (m : TscMsg) (w : MsgWaiters) : Nat := ((m.fetcher w).map (fun t => (s.thread t).launch)).getD m.launch

/-- The four words of a record (01 R50). DESIGN CHOICE: CTX of an engine's record is 0, and the record of a fetch names, with its core
too, the first thread that still waits (log entry 28). -/
def State.recordWords (s : State) (m : TscMsg) (w : MsgWaiters) (cause pgs seq : Nat) : List Word :=
  let src := if m.kind = 1 then 0 else if m.kind = 2 then 1 else if m.dst then 3 else 2
  let first := m.from_ w
  let ctx := if m.kind = 3 then 0 else if m.kind = 2 then ctxOf first else m.ctx
  let core := if m.kind = 2 then coreField (coreOf first) else field m.w0 11 0
  [BitVec.ofNat 64 (m.asid * 2 ^ 48 + s.msgFn m w * 2 ^ 41 + src * 2 ^ 38 + m.acc * 2 ^ 36 + cause * 2 ^ 32 + pgs * 2 ^ 30 +
      (if m.pin then 2 ^ 29 else 0) + 2 ^ 28 + seq * 2 ^ 12 + core),
   m.w1,
   if m.kind = 3 then 0 else if m.kind = 2 then (s.thread first).regpc else m.w2,
   BitVec.ofNat 64 (ctx * 2 ^ 60 + (if m.kind = 3 then m.eng else 0x3F) * 2 ^ 54 +
      (if m.kind = 3 then m.w2.toNat % 2 ^ 30 * 2 ^ 24 else 0))]

/-- Writes a record to the fault ring of a command processor, word 0 last (01 R50; 22 R443), after the records before it and once no
flip holds its page (06 R179). -/
def State.ringRecord (s : State) (p : Nat) (ws : List Word) : State :=
  let c := s.cp p
  let loc := field c.fring 47 6 * 64 + 32 * (c.fringTail % 2 ^ field c.fring 5 0)
  (s.defer [⟨.ring p, [], .bytes (physBytes (loc + 8) (8 * (ws.length - 1)) (wordsToNat (ws.drop 1)))⟩,
    ⟨.ring p, [], .bytes (physBytes loc 8 (ws.getD 0 0).toNat)⟩]).updCp p (fun x => { x with fringTail := x.fringTail + 1 })

/-- The SEQ of the next record: never that of a pending one (01 R51). -/
def nextSeq (fs : List FaultRec) (n : Nat) : Nat → Nat
  | 0 => n % 2 ^ 16
  | k + 1 => if fs.any (fun f => decide (f.seq = n % 2 ^ 16)) then nextSeq fs (n + 1) k else n % 2 ^ 16

/-- A record is posted: it takes the next SEQ, in bits [27:12] of its first word (01 R39, R50). -/
def State.postRec (s : State) (cl : Nat) (o : OwedRec) : State :=
  let c := s.cluster cl
  let seq := nextSeq c.faults c.tseq 64
  let ws := o.words.set 0 (o.words.getD 0 0 + BitVec.ofNat 64 (seq * 2 ^ 12))
  let f : FaultRec := { seq := seq, asid := o.asid, w0 := ws.getD 0 0, va := ws.getD 1 0, w2 := ws.getD 2 0, w3 := ws.getD 3 0,
                        pin := o.pin, waiters := o.waiters, posted := s.cycle, fn := o.fn, launch := o.launch }
  (s.updCluster cl (fun x => { x with faults := x.faults ++ [f], tseq := (seq + 1) % 2 ^ 16, tlast := seq })).ringRecord
    (s.server o.fn) ws

/-- A record is posted, or with 64 pending when one of them frees (01 R49). -/
def State.postOrOwe (s : State) (cl : Nat) (o : OwedRec) : State :=
  if (s.cluster cl).faults.length < 64 then s.postRec cl o else s.updCluster cl (fun c => { c with owed := c.owed ++ [o] })

/-- The record of a fetch fault of a thread whose region is pinned: its own, with PIN = 1 (01 R47 to R50). -/
def State.pinnedRec (s : State) (m : TscMsg) (t cause pgs : Nat) : OwedRec :=
  let x := s.thread t
  { words := [BitVec.ofNat 64 (m.asid * 2 ^ 48 + x.fn * 2 ^ 41 + 1 * 2 ^ 38 + m.acc * 2 ^ 36 + cause * 2 ^ 32 + pgs * 2 ^ 30 + 2 ^ 29 + 2 ^ 28 +
      coreField (coreOf t)), m.w1, x.regpc, BitVec.ofNat 64 (ctxOf t * 2 ^ 60 + 0x3F * 2 ^ 54)]
    asid := m.asid, pin := true, waiters := [], fn := x.fn, launch := x.launch }

/-- The threads of a fetch miss whose regions are pinned post their records and trap (01 R48, R49). -/
def State.trapFetchers (s : State) (cl : Nat) (m : TscMsg) (cause pgs : Nat) (ts : List Nat) : State :=
  ts.foldl (fun s t => (s.postOrOwe cl (s.pinnedRec m t cause pgs)).fatalTrap t (BitVec.ofNat 6 cause ||| (BitVec.ofNat 6 m.acc <<< 4)) m.w1) s

/-- Attaches a message's waiters to record `seq`, and takes the head message off the inbox (01 R39). A pinned thread that waits for
the block of a fetch miss posts a record of its own, after the others' (DESIGN CHOICE: log entry 87). -/
def State.attach (s : State) (cl : Nat) (m : TscMsg) (w : MsgWaiters) (cause : BitVec 6) (pgs seq : Nat) : State :=
  let hit := fun (a p : Nat) => decide (a = m.asid) && decide (p = m.page)
  let free := w.threads.filter (fun p => !(s.thread p.1).pin)
  let pinned := if m.kind = 2 then (w.threads.filter (fun p => (s.thread p.1).pin)).map (·.1) else []
  let mine := if m.kind = 2 then free else w.threads
  let ws := free.map (fun p => Waiter.thread p.1 p.2) ++ (match w.cmd with
    | some c => [.engine m.eng c.id]
    | none => [])
  let s1 := s.popInbox cl
  let s2 := s1.updCluster cl (fun c => { c with
    fetches := if m.kind = 2 then c.fetches.filter (fun f => !(decide (f.asid = m.asid) && decide (f.va = m.w1.toNat))) else c.fetches
    faults := c.faults.map (fun f => if f.seq = seq then { f with waiters := f.waiters ++ ws } else f) })
  let s3 := if m.kind = 1 then s2.freeMisses m.core hit else s2
  let s4 := mine.foldl (fun s p => s.faultThread p.1 p.2 cause seq) s3
  let s5 := match w.cmd with
    | some c => s4.updCmd m.eng c.id (fun x => { x with missed := none, stopped := some seq })
    | none => s4
  (s5.trapFetchers cl m (cause.toNat % 16) pgs pinned).wakeAll w.retry

/-- A pending record that a fault with the message's key attaches to (01 R49). -/
def Cluster.sameFault (c : Cluster) (m : TscMsg) : Option FaultRec :=
  if m.pin then none
  else c.faults.find? (fun f => !f.pin && decide (f.asid = m.asid) && decide (f.va.toNat / 2 ^ 19 = m.page) &&
    decide (field f.w0 37 36 = m.acc))

/-- With 64 records pending a newly faulting thread parks, its region aborted, and its record is posted later (01 R49). -/
def State.parkOwed (s : State) (m : TscMsg) (w : MsgWaiters) : State :=
  (w.threads.filter (fun p => !(s.thread p.1).pin)).foldl (fun s p =>
    ((s.abortRegion p.1).updThread p.1 (fun x => { x with owed := some (p.2, m.acc) })).stop p.1 (.parked .fault)) s

/-- The same for a fetch miss: its pinned threads trap at once, their records to be posted later. -/
def State.parkFetchers (s : State) (cl : Nat) (m : TscMsg) (cause pgs : Nat) : State :=
  let w := s.msgWaiters cl m
  let pinned := (w.threads.filter (fun p => (s.thread p.1).pin)).map (·.1)
  let s1 := s.updCluster cl (fun c => { c with fetches := c.fetches.map (fun f =>
    if f.asid = m.asid && f.va = m.w1.toNat then { f with waiters := f.waiters.filter (fun t => !pinned.contains t) } else f) })
  (s1.parkOwed m w).trapFetchers cl m cause pgs pinned

/-- With 64 records pending, the pinned thread of a message traps at once, and its record is posted later (01 R49). -/
def State.trapPinned (s : State) (cl : Nat) (m : TscMsg) (cause : BitVec 6) : State :=
  let w := s.msgWaiters cl m
  let s1 := s.freeMisses m.core (fun a p => decide (a = m.asid) && decide (p = m.page))
  (w.threads.foldl (fun s p => s.fatalTrap p.1 cause p.2) s1).wakeAll w.retry

/-- A write to `tfpost` (01 R39, R49). -/
def State.tfpost (s : State) (cl : Nat) (v : Word) : State :=
  let c := s.cluster cl
  let cause := field v 35 32
  let six := BitVec.ofNat 6 cause
  if cause < 1 || 6 < cause then s
  else match c.inbox with
    | [] => s.updCluster cl (fun x => { x with tfail := true })
    | m :: _ =>
      let kind := six ||| (BitVec.ofNat 6 m.acc <<< 4)
      let s0 := s.updCluster cl (fun x => { x with tfail := true })
      if m.kind < 1 || 3 < m.kind then s0
      else
        let pgs := field v 31 30
        let w := s.msgWaiters cl m
        if 64 ≤ c.faults.length then
          (if m.pin then s0.trapPinned cl m kind
           else if m.kind = 2 then s0.parkFetchers cl m cause pgs
           else s0.parkOwed m w)
        else
          let s1 := s.updCluster cl (fun x => { x with tfail := false })
          let free := { w with threads := w.threads.filter (fun p => !(s.thread p.1).pin) }
          if m.kind = 2 && free.threads = [] && w.threads ≠ [] then s1.attach cl m w kind pgs 0
          else match c.sameFault m with
          | some f => s1.attach cl m w kind pgs f.seq
          | none =>
            let r := if m.kind = 2 then free else w
            let o : OwedRec := { words := s.recordWords m r cause pgs 0, asid := m.asid, pin := m.pin, waiters := [],
                                 fn := s.msgFn m r, launch := s.msgLaunch m r }
            let s2 := s1.postRec cl o
            s2.attach cl m w kind pgs (s2.cluster cl).tlast

/-- A write to `tfattach` (01 R39). -/
def State.tfattach (s : State) (cl : Nat) (v : Word) : State :=
  let c := s.cluster cl
  match c.inbox with
  | [] => s.updCluster cl (fun x => { x with rej := true })
  | m :: _ =>
    match c.faults.find? (fun f => decide (f.seq = v.toNat % 2 ^ 16)) with
    | some f =>
      if !f.pin && !m.pin && decide (1 ≤ m.kind) && decide (m.kind ≤ 3) && decide (f.asid = m.asid) &&
          decide (f.va.toNat / 2 ^ 19 = m.page) && decide (field f.w0 37 36 = m.acc) then
        s.attach cl m (s.msgWaiters cl m) (BitVec.ofNat 6 (field f.w0 37 32)) (field f.w0 31 30) f.seq
      else s.updCluster cl (fun x => { x with rej := true })
    | none => s.updCluster cl (fun x => { x with rej := true })

/-- TFPOST (01 R39). -/
def execTfpost (cl : Nat) (v : BitVec 64) (s : State) : Outcome := .next (s.tfpost cl v)

/-- TFATTACH (01 R39). -/
def execTfattach (cl : Nat) (v : BitVec 64) (s : State) : Outcome := .next (s.tfattach cl v)

/-- A record is freed: the deferred messages return to the tail of the inbox (01 R39, R51), and a record that waited for a slot is
posted (R49). DESIGN CHOICE: an inbox without room for the messages that return holds more than 64 (log entry 77). -/
def State.freeFault (s : State) (cl : Nat) (f : FaultRec) : State :=
  let s1 := s.updCluster cl (fun c => { c with faults := c.faults.erase f, inbox := c.inbox ++ c.deferred, deferred := [] })
  match (s1.cluster cl).owed with
  | [] => s1
  | o :: os => (s1.updCluster cl (fun c => { c with owed := os })).postRec cl o

/-- The answer to one thread parked on a record: it runs from `regpc` again, or traps there (01 R51; 18 R428). -/
def State.answerThread (s : State) (t : Nat) (kill : Bool) (cause : BitVec 6) (va : Word) : State :=
  let s1 := s.updThread t (fun x => { x with faultSeq := none })
  if kill then s1.fatalTrap t cause va else s1.wake t

/-- The answer to one engine's command: its chunk restarts, or it ends with STAT 0x2 (01 R46, R51). -/
def State.answerEngine (s : State) (g id : Nat) (kill : Bool) : State :=
  if kill then s.updCmd g id (fun c => { c with stopped := none, stat := 2, phase := .idle, out := [], redo := false })
  else ((s.updCmd g id Cmd.restart).cmdGo g id).maybeReads g id

/-- An answer (01 R51): one that matches no pending record changes nothing. -/
def State.answerFault (s : State) (cl asid seq : Nat) (kill : Bool) : State :=
  match (s.cluster cl).faults.find? (fun f => decide (f.seq = seq) && decide (f.asid = asid)) with
  | none => s
  | some f =>
    let cause := BitVec.ofNat 6 (field f.w0 37 32)
    f.waiters.foldl (fun s w => match w with
      | .thread t va => s.answerThread t kill cause va
      | .saved t launch block va => s.updCluster cl (fun c => { c with answers := c.answers ++ [⟨seq, t, launch, block, kill, cause, va⟩] })
      | .engine g id => s.answerEngine g id kill) (s.freeFault cl f)

/-- A write of `kmbox` (22 R443): from supervisor mode it raises the exception. -/
def answerOp (cl asid seq : Nat) (kill : Bool) (s : State) : Outcome :=
  let r := s.chosenCp
  r.2.asMachine r.1 (.next (r.2.answerFault cl asid seq kill))

/-- FAULT_ANSWER_RETRY (01 R51). -/
def execFaultAnswerRetry (cl asid seq : Nat) (s : State) : Outcome := answerOp cl asid seq false s

/-- FAULT_ANSWER_KILL (01 R51). -/
def execFaultAnswerKill (cl asid seq : Nat) (s : State) : Outcome := answerOp cl asid seq true s

/-- FAULT_ANSWER_TIMEOUT (01 R51; 22 R443, R452): a notice of level 1, once per record. -/
def execFaultAnswerTimeout (cl seq : Nat) (s : State) : Outcome :=
  match (s.cluster cl).faults.find? (fun f => decide (f.seq = seq)) with
  | some f =>
    if f.late || decide (s.cycle < f.posted + (s.cp (s.server f.fn)).ans * 4096) then .next s
    else
      .next ((s.updCluster cl (fun c => { c with faults := c.faults.map (fun g => if g = f then { g with late := true } else g) })).notice
        0x01 1 f.fn f.launch (BitVec.ofNat 64 cl) 1 f.w0)
  | none => .next s

/-! ## TLBW and TLBI -/

/-- TLBW (14 R385; 01 R27). -/
def execTlbw (m n : Bool) (b a : BitVec 5) (s : State) : Outcome :=
  settle s (do
    let _ ← s.enterInstr .tsc .plain
    let cl := clusterOf (coreOf s.cur)
    let e : Tlb := ⟨s.x a, s.x b⟩
    let w := (s.cluster cl).twtgt
    let eng := (w.extractLsb' 6 6).toNat
    (if e.legal && !(w.getLsbD 5 && decide (47 < eng)) then .ok () else illegal)
    let os := rrOps m n b a
    s.refilled os
    let s1 := (s.consume s.cur os).retire 4
    .ok (if w.getLsbD 5 then s1.etcWrite (eng / 4) e
      else if w.getLsbD 4 then
        s1.updCluster cl (fun c => { c with writebacks := c.writebacks ++ [(coreAt cl (w.extractLsb' 0 4).toNat, e)] })
      else s1.ctcWrite cl e))

/-- Whether an entry is removed: scope 0 page, 1 ASID, 2 all (01 R41, 14 R386). -/
def Tlb.removed (e : Tlb) (scope : Nat) (w : Word) : Bool :=
  e.v && (if scope = 0 then e.covers (field w 63 48) (field w 32 0)
    else if scope = 1 then decide (e.asid = field w 63 48) else true)

/-- Whether an access was translated through an entry of a scope, by the ASID, the granule and the page size it had: the entry may
have been replaced since. -/
def inScope (scope : Nat) (w : Word) (p : Place) : Bool :=
  match p.pair with
  | none => false
  | some (asid, gran) =>
    if scope = 0 then
      decide (asid = field w 63 48) && decide (gran / 8 / 2 ^ sizeShift p.size = field w 32 0 / 2 ^ sizeShift p.size)
    else if scope = 1 then decide (asid = field w 63 48)
    else true

/-- The place of a task record that a SPAWN has translated and not yet read. -/
def Thread.spawnPlace (x : Thread) : Option Place := match x.stage with
  | some (.spawn p) => some p
  | _ => none

/-- The places of the stores that a slot, or the request that drains it, holds. -/
def Slot.places (c : Slot) : List Place := c.place :: c.also
def Req.places (r : Req) : List Place := r.place :: r.also

/-- The accesses of threads of some cores translated through entries of a scope and still to perform (01 R42): requests in the
FIFOs, slots of the region store buffers, and the record reads of SPAWNs. -/
def State.heldAccesses (s : State) (ks : List Nat) (hit : Place → Bool) : List (Src × Place) :=
  let ok := fun (src : Src) (p : Place) => match src with
    | .thread t => ks.contains (coreOf t) && hit p
    | .engine _ _ => false
  s.fifo.flatMap (fun r => (r.places.filter (ok r.src)).map (fun p => (r.src, p))) ++
    (ks.flatMap coreThreads).flatMap (fun t =>
      (((s.thread t).rsb.flatMap Slot.places ++ (s.thread t).spawnPlace.toList).filter hit).map (fun p => (.thread t, p)))

/-- The accesses of the engines of base die `d` still to perform. -/
def State.heldEngines (s : State) (d : Nat) : List (Src × Place) :=
  (s.fifo.filter (fun r => match r.src with
    | .engine g _ => decide (g / 4 = d)
    | _ => false)).map (fun r => (r.src, r.place))

/-- A write-back on its way to core `k` is dropped: the threads it was for retry, miss again and send a new message (01 R35). -/
def State.dropWriteback (s : State) (k : Nat) (e : Tlb) : State :=
  let ts := (s.missWaiters k (fun a p => e.covers a p)).map (·.1)
  (s.freeMisses k (fun a p => e.covers a p)).wakeAll ts

/-- TLBI (14 R386; 01 R41, R42): the entries go at once, those on their way among them (01 R35); the TSC stays until every access through them has performed. -/
def execTlbi (t : Bool) (sc : BitVec 2) (n : Bool) (a d : BitVec 5) (s : State) : Outcome :=
  settle s (do
    let _ ← s.enterInstr .tsc .plain
    let os : List Opnd := [.s a n]
    s.refilled os
    let cl := clusterOf (coreOf s.cur)
    let w := s.x a
    let scope := sc.toNat
    let ks := if t then [coreAt cl d.toNat] else clusterCores cl
    let die := !t && decide (cl < 12)
    let held := s.heldAccesses ks (inScope scope w) ++ (if die then s.heldEngines cl else [])
    let cut := fun (m : NMap Tlb) => m.filter (fun p => !p.2.removed scope w)
    let gone := fun (p : Nat × Tlb) => ks.contains p.1 && p.2.removed scope w
    let s1 := s.updCluster cl (fun c => { c with
      ctc := if t then c.ctc else cut c.ctc
      writebacks := c.writebacks.filter (fun p => !gone p)
      tlbi := some ⟨held⟩ })
    let s2 := ((s.cluster cl).writebacks.filter gone).foldl (fun s p => s.dropWriteback p.1 p.2)
      (ks.foldl (fun s k => s.updCore k (fun c => { c with tlb := cut c.tlb })) s1)
    let s3 : State := if die then { s2 with etcs := NMap.set [] s2.etcs cl (cut (NMap.get [] s2.etcs cl)) } else s2
    .ok (((s3.consume s.cur os).stop s.cur (.waiting .tlbi))))

/-- TLBI_COMPLETION (01 R42). -/
def execTlbiCompletion (cl : Nat) (s : State) : Outcome :=
  let t := tscThread cl
  match (s.cluster cl).tlbi with
  | some w =>
    let same := fun (h : Src × Place) (p : Place) => decide (lineOf p.loc = lineOf h.2.loc) && decide (p.pair = h.2.pair)
    let left := fun (h : Src × Place) =>
      s.fifo.any (fun r => decide (r.src = h.1) && r.places.any (same h)) ||
      match h.1 with
        | .thread u => (s.thread u).rsb.any (fun c => c.places.any (same h)) || (s.thread u).spawnPlace.any (same h)
        | _ => false
    if w.held.any left then .next s
    else .next (((s.updCluster cl (fun c => { c with tlbi := none })).updThread t (fun x => { x with pc := x.pc + 4 })).wake t)
  | none => .next s

/-! ## Fetch delivery (07 R196, 01 R47) -/

/-- The fetch-miss message of a block (01 R38). -/
def fetchMsg (f : Fetch) : TscMsg :=
  { w0 := BitVec.ofNat 64 (2 * 2 ^ 60 + 3 * 2 ^ 56 + 0x3F * 2 ^ 48 + f.asid * 2 ^ 32 + coreField (coreOf (f.waiters.headD 0)))
    w1 := BitVec.ofNat 64 f.va
    w2 := 0
    fn := f.fn
    launch := f.launch }

/-- A core holds a block, at most four of them. -/
def Core.keepBlock (c : Core) (b : Block) : Core :=
  { c with blocks := (b :: c.blocks.filter (fun x => !(decide (x.asid = b.asid) && decide (x.va = b.va)))).take 4 }

/-- The blocks of 64 bytes that a cluster's instruction cache of 512 KiB holds (00 R1). -/
def icacheBlocks : Nat := 8192

/-- The instruction cache takes a block; where it is full another one leaves it. -/
def icacheKeep (m : List (Nat × BitVec 512)) (pa : Nat) (b : BitVec 512) (pick : Nat) : List (Nat × BitVec 512) :=
  let rest := m.filter (fun p => p.1 ≠ pa)
  (pa, b) :: (if rest.length < icacheBlocks then rest else rest.eraseIdx (pick % icacheBlocks))

/-- The block at a physical address as cluster `cl` delivers it, from its instruction cache or through it (07 R196). Where memory has
changed since the cache took the block, whether the cache still holds the old one is a free value (log entry 38). -/
def State.icacheRead (s : State) (cl pa : Nat) : BitVec 512 × State :=
  let now := BitVec.ofNat 512 (s.read pa 64)
  let keep := fun (s : State) => State.updCluster { s with fresh := s.fresh + 1 } cl (fun c =>
    { c with icache := icacheKeep c.icache pa now (Config.victim s.fresh) })
  match (s.cluster cl).icache.find? (fun p => p.1 = pa) with
  | none => (now, keep s)
  | some p =>
    if p.2 = now then (now, s)
    else if (Config.freeWord s.fresh).getLsbD 0 then (p.2, { s with fresh := s.fresh + 1 }) else (now, keep s)

/-- FETCH_BLOCK_DELIVERY (07 R196, 01 R47): the block reaches every core whose waiting threads may run it, once no flip of its page is
in progress (06 R179, R180); without a translation that lets them, a miss message goes to the TSC once. -/
def execFetchBlockDelivery (cl asid va : Nat) (s : State) : Outcome :=
  let c := s.cluster cl
  match c.fetches.find? (fun f => decide (f.asid = asid) && decide (f.va = va)) with
  | none => .next s
  | some f =>
    let ask := fun (s : State) (f : Fetch) =>
      if f.asked || f.waiters = [] then s else s.updCluster cl (fun x => { x with mesh := x.mesh ++ [fetchMsg f] })
    let rest := c.fetches.filter (fun g => g ≠ f)
    match tlbLookup c.ctc asid (va / 2 ^ 19) with
    | none => .next (ask (s.updCluster cl (fun x => { x with fetches := rest ++ [{ f with asked := true }] })) f)
    | some e =>
      let ok := f.waiters.filter (fun t => (e.fails va (s.thread t).sv .exec).isNone)
      let bad := f.waiters.filter (fun t => (e.fails va (s.thread t).sv .exec).isSome)
      if ok ≠ [] && s.heldAt (e.pa va) 64 then .next s else
      let r := if ok = [] then (0, s) else s.icacheRead cl (e.pa va)
      let b : Block := ⟨asid, va, r.1⟩
      let s1 := r.2.updCluster cl (fun x => { x with fetches := if bad = [] then rest else rest ++ [{ f with waiters := bad, asked := true }] })
      let s2 := (ok.map coreOf).dedup.foldl (fun s k => s.updCore k (fun x => x.keepBlock b)) s1
      .next (ask (s2.wakeAll ok) { f with waiters := bad })

end Sys2Proof.Machine
end

