-- ==== Sys2Proof/Machine/Csr.lean ====
section
/-! DEFINITION. The CSRs (14 R378 to R381): who may reach them, what they read as, what a write does; CSRR, CSRW, CSRS, CSRC
and the write steps that the other chapters give single CSRs. -/

namespace Sys2Proof.Machine

/-- The execution states of 14 R366. -/
inductive CsrState where
  | user | supervisor | tsc
  deriving DecidableEq, Repr

def State.csrState (s : State) (t : Nat) : CsrState :=
  if isTsc t then .tsc else if (s.thread t).sv then .supervisor else .user

/-- Whether a number lies between two others. -/
def within (lo hi n : Nat) : Bool := decide (lo ≤ n) && decide (n ≤ hi)

/-- The R column entries of 14 R380. -/
def csrReadable (st : CsrState) (n : Nat) : Bool :=
  let shared := within 0x000 0x012 n || within 0x100 0x105 n || within 0x400 0x45F n || within 0x500 0x7FF n
  match st with
  | .user => shared || decide (n = 0x020)
  | .supervisor => shared || within 0x020 0x024 n || within 0x200 0x201 n
  | .tsc => [0x003, 0x00D, 0x200, 0x201, 0x300, 0x301, 0x302, 0x303, 0x304, 0x305].contains n

/-- The W column entries of 14 R380 for a thread of context `ctx`. -/
def csrWritable (st : CsrState) (ctx n : Nat) : Bool :=
  match st with
  | .user => [0x002, 0x006, 0x010, 0x011, 0x012].contains n || (decide (n = 0x102) && decide (ctx = 15))
  | .supervisor =>
    [0x002, 0x006, 0x007, 0x00A, 0x00B, 0x00C, 0x00E, 0x00F, 0x010, 0x011, 0x012, 0x020, 0x021, 0x022, 0x023, 0x024, 0x101,
      0x104, 0x105, 0x200].contains n || (decide (n = 0x102) && decide (ctx = 15))
  | .tsc => [0x200, 0x201, 0x300, 0x304, 0x305, 0x306].contains n

/-! ## What a CSR reads as -/

/-- `tagstat` (05 R137). -/
def Thread.tagstat (x : Thread) : Word :=
  let busy := (List.range 8).filter (fun g => (NMap.get {} x.tags g).busy)
  let waiting := busy.filter (fun g => (NMap.get {} x.tags g).replies = 0)
  let set := fun (gs : List Nat) => (gs.map (fun g => 2 ^ g)).sum
  let oldest := busy.foldl (fun b g => if (NMap.get {} x.tags g).age < (NMap.get {} x.tags b).age then g else b) (busy.headD 0)
  BitVec.ofNat 64 (x.rsb.length * 2 ^ 32 + min x.storeCount 255 * 2 ^ 24 + oldest * 2 ^ 16 + set waiting * 2 ^ 8 + set busy)

/-- `lrect` (07 R183). -/
def Rect.word (r : Rect) : Word :=
  BitVec.ofNat 64 ((64 * r.y0 + r.x0) * 2 ^ 20 + (r.h - 1) * 2 ^ 12 + (r.w - 1) * 2 ^ 6 + r.nthr)

/-- `lgrant` (01 R20). -/
def Grant.word (g : Grant) : Word :=
  BitVec.ofNat 64 (g.smask.toNat * 2 ^ 52 + g.sbase.toNat * 2 ^ 46 + g.ssize.toNat * 2 ^ 39 + (if g.cmem then 2 ^ 38 else 0))

/-- `ebudget` (13 R357). -/
def Thread.ebudget (x : Thread) : Word :=
  BitVec.ofNat 64 ((if x.ebTe then 2 ^ 63 else 0) + x.ebRefill.toNat * 2 ^ 32 + x.ebBudget.toNat)

/-- `mprog` (13 R350). -/
def Thread.mprog (x : Thread) : Word := BitVec.ofNat 64 ((if x.mprogV then 2 ^ 16 else 0) + x.mprogSteps % 2 ^ 16)

/-- `mseq` (13 R346). NARROW is the mode of the step in progress; an idle sequencer is between steps, so that a change of
mode has taken effect (13 R349, 22 R456). -/
def State.mseq (s : State) (k : Nat) : Word :=
  let c := s.core k
  let own := fun (a : Acc) => match a.owner with
    | some o => 16 + o % 16
    | none => 0
  let narrow := if s.seqIdle k then s.service.narrow else c.narrow
  BitVec.ofNat 64 ((if narrow then 2 ^ 10 else 0) + own c.acc1 * 2 ^ 5 + own c.acc0)

/-- `xfring` (04 R119). -/
def Core.xfring (c : Core) : Word := BitVec.ofNat 64 (c.xfLog * 2 ^ 36 + c.xfBase * 2 ^ 6)

/-- `xfhead` (04 R120). -/
def Core.xfhead (c : Core) : Word := BitVec.ofNat 64 (c.claim.toNat * 2 ^ 16 + c.head.toNat)

/-- CLPART (02 R62). -/
def Cluster.clpart (c : Cluster) : Word :=
  BitVec.ofNat 64 (c.dleft * 2 ^ 16 + (if c.busy then 2 ^ 15 else 0) + (if c.drain then 2 ^ 14 else 0) +
    (if c.refused then 2 ^ 13 else 0) + c.spw)

/-- `hclr` (02 R83); GO reads 0. -/
def Cluster.hclr (c : Cluster) : Word := BitVec.ofNat 64 (c.hclrAsid * 2 ^ 48 + (if c.hclrBusy.isSome then 2 else 0))

/-- `tinbox` (01 R39). Its write-only bits read 0, as GO of `hclr` does. -/
def Cluster.tinbox (c : Cluster) : Word :=
  let bit := fun (b : Bool) (i : Nat) => if b then 2 ^ i else 0
  BitVec.ofNat 64 (bit (!c.inbox.isEmpty) 63 + min c.inbox.length 64 * 2 ^ 56 + bit c.ue 55 + bit c.hostErr 54 + bit c.rej 53 +
    bit (decide (64 ≤ c.faults.length)) 52)

/-- `tfpost` (01 R39); its write-only fields read 0. -/
def Cluster.tfpostWord (c : Cluster) : Word := BitVec.ofNat 64 ((if c.tfail then 2 ^ 16 else 0) + c.tlast % 2 ^ 16)

/-- Word `w` of entry `e` of a meet table (07 R205), as user or supervisor state sees it; an entry that is not valid reads 0
(log entry 40). -/
def State.meetWord (s : State) (t : Nat) (weld : Bool) (e w : Nat) : Word :=
  let m := NMap.get {} (s.meets weld (if weld then clusterOf (coreOf t) else coreOf t)) e
  let x := s.thread t
  if !x.sv && m.valid && decide (m.launch ≠ x.launch) then 0
  else if !m.valid then 0
  else match w with
    | 0 => BitVec.ofNat 64 (m.count * 2 ^ 32 + coreField (coreOf m.holder) * 2 ^ 20 + ctxOf m.holder * 2 ^ 16 + m.site * 2 ^ 10 +
        512 + (if weld then 256 else 0))
    | 1 => Config.meetHash m.lives
    | _ => BitVec.ofNat 64 (m.deadline - s.cycle)

/-- The value a CSR reads as, side effects apart (14 R380). -/
def State.csrValue (s : State) (t n : Nat) : Word :=
  let x := s.thread t
  let k := coreOf t
  let cl := clusterOf k
  let c := s.core k
  let u := s.cluster cl
  let word := fun (i : Nat) => match u.inbox with
    | m :: _ => if i = 0 then m.w0 else if i = 1 then m.w1 else m.w2
    | [] => 0
  if within 0x400 0x45F n then s.meetWord t false ((n - 0x400) / 3) ((n - 0x400) % 3)
  else if within 0x500 0x7FF n then s.meetWord t true ((n - 0x500) / 3) ((n - 0x500) % 3)
  else match n with
    | 0x000 => x.status
    | 0x001 => BitVec.ofNat 64 (x.launch % 2 ^ 16 * 2 ^ 48 + coreField k * 16 + ctxOf t)
    | 0x002 => BitVec.ofNat 64 x.mc
    | 0x003 => BitVec.ofNat 64 (cl * 2 ^ 12 + coreField (if isTsc t then coreAt cl 0 else k))
    | 0x004 => x.rect.word
    | 0x005 => BitVec.ofNat 64 x.asid
    | 0x006 => x.srseed.setWidth 64
    | 0x007 => x.fmtpend.setWidth 64
    | 0x008 => x.tagstat
    | 0x009 => x.regpc
    | 0x00A => x.lgrant.word
    | 0x00B => x.ebudget
    | 0x00C => x.mprog
    | 0x00D => BitVec.ofNat 64 (s.cycle - s.dieReset)
    | 0x00E => x.fadr
    | 0x00F => x.fcause.setWidth 64
    | 0x010 => x.bsrd
    | 0x011 => x.bswr
    | 0x012 => x.bsacc.setWidth 64
    | 0x020 => x.tvec
    | 0x021 => x.epc
    | 0x022 => x.estatus
    | 0x023 => x.ecause.setWidth 64
    | 0x024 => x.escratch
    | 0x100 => s.mseq k
    | 0x101 => c.xfring
    | 0x102 => c.xfhead
    | 0x103 => c.claim.setWidth 64
    | 0x104 => BitVec.ofNat 64 (c.spAwake.toNat * 2 ^ 32 + c.spIdle.toNat)
    | 0x105 => c.stealDly.setWidth 64
    | 0x200 => u.clpart
    | 0x201 => u.hclr
    | 0x300 => u.twtgt.setWidth 64
    | 0x301 => word 0
    | 0x302 => word 1
    | 0x303 => word 2
    | 0x304 => u.tinbox
    | 0x305 => u.tfpostWord
    | _ => 0

/-- A read of a CSR with its side effect: `tmsg0` holds the TSC while its inbox is empty, and the TSC then works on the message
it has read (01 R36, R39); `xfclaim` claims an entry of the ring (04 R121). -/
def State.csrRead (s : State) (t n : Nat) : Except Stop (Word × State) :=
  let c := s.core (coreOf t)
  let cl := clusterOf (coreOf t)
  if n = 0x301 then
    (if (s.cluster cl).inbox.isEmpty then waitFor .inbox
     else .ok (s.csrValue t n, s.updCluster cl (fun u => { u with working := true })))
  else if n = 0x103 then
    (if c.xfLog ≠ 0 && decide (c.occupancy.toNat < 2 ^ c.xfLog) then
      .ok (c.claim.setWidth 64, s.updCore (coreOf t) (fun y => { y with claim := y.claim + 1 }))
     else .ok (-1, s))
  else .ok (s.csrValue t n, s)

/-! ## What a write does -/

/-- A cursor's fields, its reserved bits cleared (14 R376). -/
def cursorBits (v : Word) : Word := v &&& 0xF000000007FFFFFF#64

/-- A write to `mc` (07 R206), or none where it is rejected. -/
def Thread.writeMc (x : Thread) (v : Word) : Option Thread :=
  let n := v.toNat
  if n = 0 || decide (2 ^ 32 ≤ n) || (!x.sv && decide (x.mc < n)) then none else some { x with mc := n }

/-- A write to `srseed` (03 R95). -/
def Thread.writeSeed (x : Thread) (v : Word) : Thread :=
  { x with srseed := if v.setWidth 32 = 0#32 then 1 else v.setWidth 32 }

/-- A supervisor write to `lgrant` (01 R20), or none where it is rejected. -/
def Thread.writeGrant (x : Thread) (v : Word) : Option Thread :=
  if field v 37 0 ≠ 0 || decide (64 < field v 51 46 + field v 45 39) then none
  else some { x with lgrant := ⟨BitVec.ofNat 12 (field v 63 52), BitVec.ofNat 6 (field v 51 46), BitVec.ofNat 7 (field v 45 39),
                                v.getLsbD 38⟩ }

/-- A supervisor write to `xfring` (04 R119), or none where it is rejected. -/
def Core.writeRing (c : Core) (v : Word) : Option Core :=
  let lg := field v 39 36
  let base := field v 17 6
  if decide (12 < lg) || decide (0x40000 < base * 64 + 2 ^ lg * 64) then none
  else some { c with xfLog := lg, xfBase := base, claim := 0, head := 0 }

/-- A write of context 15 to `xfhead` (04 R120), or none where it is rejected. -/
def Core.writeHead (c : Core) (v : Word) : Option Core :=
  let new : BitVec 16 := v.setWidth 16
  if (new - c.head).toNat ≤ (c.claim - c.head).toNat then some { c with head := new } else none

/-- The lines of the slice of `cl` that a grow from `a` to `b` ways takes, marked leaving (02 R65). -/
def State.markLeaving (s : State) (cl a b : Nat) : State :=
  let mine := fun (p : Nat × Option SliceLine) => match p.2 with
    | some l => decide (homeSlice (128 * p.1) = cl) && decide (a ≤ l.way) && decide (l.way < b)
    | none => false
  let dirty := (s.slices.filter (fun p => mine p && match p.2 with
    | some l => l.dirty
    | none => false)).length
  State.updCluster { s with slices := s.slices.map (fun p =>
    if mine p then (p.1, p.2.map (fun l => { l with leaving := true })) else p) } cl (fun c => { c with dleft := dirty })

/-- A CLPART write is rejected: SPW above 16, or a reserved bit set (02 R63). -/
def clpartBad (v : Word) : Bool := decide (16 < field v 4 0) || decide (field v 63 34 ≠ 0) || decide (field v 12 5 ≠ 0)

/-- The place in 02 R63's order of a write to CLPART: command processor, TSC, cores by ascending local number. -/
def clpartRank (t : Nat) : Nat := if isTsc t then 1 else 2 + localOf (coreOf t)

/-- A write to CLPART (02 R63, R64) that is not rejected. A grow that finds no valid line in the ways it takes is over at once (02
R65). -/
def State.writeClpart (s : State) (cl : Nat) (v : Word) : State :=
  let c := s.cluster cl
  let b := field v 4 0
  let refused := c.refused && !v.getLsbD 13
  if c.busy then s.updCluster cl (fun c => { c with refused := true })
  else
    let s1 := s.updCluster cl (fun c => { c with refused := refused })
    if b = c.spw then s1
    else if c.spw < b then
      ((s1.markLeaving cl c.spw b).updCluster cl (fun x => { x with oldSpw := c.spw, spw := b, busy := true, drain := true })).growOver cl
    else
      s1.updCluster cl (fun x => { x with oldSpw := c.spw, spw := b, busy := true })

/-- A write to `hclr` (02 R83): GO = 1 while BUSY is ignored. -/
def Cluster.writeHclr (c : Cluster) (v : Word) : Cluster :=
  let a := field v 63 48
  if v.getLsbD 0 then (if c.hclrBusy.isSome then c else { c with hclrAsid := a, hclrBusy := some a })
  else { c with hclrAsid := a }

/-- A write to `tinbox` (01 R39): both bits set act as POP. -/
def State.writeTinbox (s : State) (cl : Nat) (v : Word) : State :=
  let s1 := s.updCluster cl (fun c => { c with
    ue := c.ue && !v.getLsbD 55, hostErr := c.hostErr && !v.getLsbD 54, rej := c.rej && !v.getLsbD 53 })
  if v.getLsbD 0 then s1.popInbox cl else if v.getLsbD 1 then s1.deferInbox cl else s1

/-- A field-by-field write to a context's CSR that has no behaviour of its own (14 R378, R381). -/
def Thread.writePlain (x : Thread) (n : Nat) (v : Word) : Thread :=
  match n with
  | 0x007 => { x with fmtpend := v.setWidth 25 }
  | 0x00B => { x with ebTe := v.getLsbD 63, ebRefill := v.extractLsb' 32 24, ebBudget := v.setWidth 32 }
  | 0x00C => { x with mprogV := v.getLsbD 16, mprogSteps := field v 15 0 }
  | 0x00E => { x with fadr := v }
  | 0x00F => { x with fcause := v.setWidth 6 }
  | 0x010 => { x with bsrd := cursorBits v }
  | 0x011 => { x with bswr := cursorBits v }
  | 0x012 => { x with bsacc := v.setWidth 7 }
  | 0x020 => { x with tvec := v &&& ~~~0x3F#64 }
  | 0x021 => { x with epc := v &&& ~~~1#64 }
  | 0x022 => { x with estatus := v }
  | 0x023 => { x with ecause := v.setWidth 13 &&& 0x1F1F#13 }
  | 0x024 => { x with escratch := v }
  | _ => x

/-- The same for a core's or a cluster's CSR. -/
def State.writePlain (s : State) (t n : Nat) (v : Word) : State :=
  let k := coreOf t
  match n with
  | 0x104 => s.updCore k (fun c => { c with spIdle := v.setWidth 16 })
  | 0x105 => s.updCore k (fun c => { c with stealDly := v.setWidth 32 })
  | 0x300 => s.updCluster (clusterOf k) (fun c => { c with twtgt := v.setWidth 12 })
  | _ => s.updThread t (fun x => x.writePlain n v)

/-- A write to a CSR that its state may write; one that the CSR's own rule rejects raises that rule's trap (14 R378). A write
to CLPART comes too late for a cycle in which one that goes after it has been taken (02 R63); it is made in a later one. -/
def State.csrWrite (s : State) (t n : Nat) (v : Word) : Except Stop State :=
  let k := coreOf t
  let cl := clusterOf k
  let orTrap := fun (o : Option State) => match o with
    | some s1 => (.ok s1 : Except Stop State)
    | none => illegal
  match n with
  | 0x002 => orTrap (((s.thread t).writeMc v).map (fun x => s.setThread t x))
  | 0x006 => .ok (s.updThread t (fun x => x.writeSeed v))
  | 0x00A => orTrap (((s.thread t).writeGrant v).map (fun x => s.setThread t x))
  | 0x101 => orTrap (((s.core k).writeRing v).map (fun c => s.setCore k c))
  | 0x102 => orTrap (((s.core k).writeHead v).map (fun c => s.setCore k c))
  | 0x200 =>
    if clpartBad v then illegal
    else if !s.tieOk (.clpart cl) (clpartRank t) then .error (.goto s)
    else .ok ((s.writeClpart cl v).tie (.clpart cl) (clpartRank t))
  | 0x201 => .ok (s.updCluster cl (fun c => c.writeHclr v))
  | 0x304 => .ok (s.writeTinbox cl v)
  | 0x305 => .ok (s.tfpost cl v)
  | 0x306 => .ok (s.tfattach cl v)
  | _ => .ok (s.writePlain t n v)

/-! ## The instructions (14 R378) -/

/-- One CSR access of the issuing thread: what it writes as a function of the old value, if it writes. `blind` is a CSRW,
which alone reaches a CSR that can be written and not read. -/
def csrAccess (s : State) (n : Nat) (os : List Opnd) (d : BitVec 5) (new : Option (Word → Word)) (blind : Bool) : Outcome :=
  settle s (do
    let _ ← s.enterInstr .any .plain
    let t := s.cur
    let st := s.csrState t
    let w := csrWritable st (ctxOf t) n
    (if csrReadable st n || (blind && w) then .ok () else illegal)
    (if new.isSome && !w then illegal else .ok ())
    s.refilled os
    let (old, s1) ← s.csrRead t n
    let s2 ← match new with
      | some f => s1.csrWrite t n (f old)
      | none => .ok s1
    .ok (((s2.consume t os).setS t d.toNat old 0).retire 4))

/-- CSRR. -/
def execCsrr (c : BitVec 12) (d : BitVec 5) (s : State) : Outcome := csrAccess s c.toNat [] d none false

/-- CSRW. -/
def execCsrw (c : BitVec 12) (n : Bool) (a d : BitVec 5) (s : State) : Outcome :=
  csrAccess s c.toNat [.s a n] d (some (fun _ => s.x a)) true

/-- CSRS: with a = 0 it writes nothing. -/
def execCsrs (c : BitVec 12) (n : Bool) (a d : BitVec 5) (s : State) : Outcome :=
  csrAccess s c.toNat [.s a n] d (if a = 0 then none else some (fun old => old ||| s.x a)) false

/-- CSRC: with a = 0 it writes nothing. -/
def execCsrc (c : BitVec 12) (n : Bool) (a d : BitVec 5) (s : State) : Outcome :=
  csrAccess s c.toNat [.s a n] d (if a = 0 then none else some (fun old => old &&& ~~~s.x a)) false

/-! ## The write steps by themselves -/

/-- The write step of a context's CSR as an event: a write that the context's state may not make, or that the CSR's own rule
rejects, raises an illegal-instruction trap there. A context out of rotation makes none. -/
def csrStep (s : State) (t n : Nat) (v : Word) : Outcome :=
  if (s.thread t).run ≠ .ready || isTsc t then .next s
  else match (if csrWritable (s.csrState t) (ctxOf t) n then s.csrWrite t n v else illegal) with
    | .ok s1 => .next s1
    | .error _ => .next (s.trapEntry t { cause := causeIllegal })

/-- MC_WRITE (07 R206). -/
def execMcWrite (t : Nat) (v : BitVec 64) (s : State) : Outcome := csrStep s t 0x002 v

/-- LGRANT_WRITE (01 R20). -/
def execLgrantWrite (t : Nat) (v : BitVec 64) (s : State) : Outcome := csrStep s t 0x00A v

/-- SRSEED_WRITE (03 R95). -/
def execSrseedWrite (t : Nat) (v : BitVec 64) (s : State) : Outcome := csrStep s t 0x006 v

/-- XFRING_WRITE (04 R119). -/
def execXfringWrite (t : Nat) (v : BitVec 64) (s : State) : Outcome := csrStep s t 0x101 v

/-- XFHEAD_WRITE (04 R120). -/
def execXfheadWrite (t : Nat) (v : BitVec 64) (s : State) : Outcome := csrStep s t 0x102 v

/-- XFCLAIM_READ (04 R121): the read of one context in rotation, into a register of it. -/
def execXfclaimRead (t : Nat) (d : BitVec 5) (s : State) : Outcome :=
  if (s.thread t).run ≠ .ready || isTsc t then .next s
  else match s.csrRead t 0x103 with
    | .ok (v, s1) => .next ((s1.consume t []).setS t d.toNat v 0)
    | .error _ => .next s

/-- A write to CLPART through the cluster register window: a rejected one is ignored, and so is one that a later writer of
this cycle has overtaken, which is made in a later cycle (02 R63, 22 R454). -/
def State.windowClpart (s : State) (cl : Nat) (v : Word) : State :=
  if clpartBad v || !s.tieOk (.clpart cl) 0 then s else (s.writeClpart cl v).tie (.clpart cl) 0

/-- CLPART_WRITE (02 R63). -/
def execClpartWrite (cl : Nat) (v : BitVec 64) (s : State) : Outcome := .next (s.windowClpart cl v)

/-- HCLR_GO (02 R83). -/
def execHclrGo (cl : Nat) (v : BitVec 64) (s : State) : Outcome := .next (s.updCluster cl (fun c => c.writeHclr v))

end Sys2Proof.Machine
end

