-- ==== Sys2Proof/Machine/System.lean ====
section
/-! DEFINITION. TRAP, DBG, ERET, HALT, CWB and CINV (14 R382 to R384, R387), and the steps that return a thread to rotation
after a refill, a fixed latency or a stop (07 R188, R193; 18 R425, R426). -/

namespace Sys2Proof.Machine

/-- TRAP (14 R382; 18 R423): `epc` is the next instruction. -/
def execTrap (b : BitVec 5) (s : State) : Outcome :=
  settle s (do
    let _ ← s.enterInstr .core .plain
    .error (.trap { cause := causeTrap, code := b.toNat, past := true }))

/-- DBG (14 R382; 18 R423, R426). -/
def execDbg (b : BitVec 5) (s : State) : Outcome :=
  settle s (do
    let _ ← s.enterInstr .core .plain
    .error (.trap { cause := causeDebug, code := b.toNat, past := true }))

/-- ERET (14 R383; 18 R426). -/
def execEret (s : State) : Outcome :=
  settle s (do
    let _ ← s.enterInstr .supervisor .plain
    (if s.me.epc.toNat / 2 ^ 52 ≠ 0 then localFault s.me.epc else .ok ())
    .ok (((s.trapReturn s.cur).updMe (fun x => { x with boundary := false })).updCore (coreOf s.cur) (fun c => c.issued s.cur)))

/-- HALT (14 R384): the issue step of a commit point; the context stops once it is Drained. -/
def execHalt (s : State) : Outcome :=
  settle s (do
    let _ ← s.enterInstr .supervisor .plain
    s.notCancelled
    .ok ((s.beginCommit .halt).awaitDrained s.cur))

/-- A Drained thread halts, and its command processor is told (14 R384; 22 R452). -/
def State.haltThread (s : State) (t : Nat) : State :=
  let x := s.thread t
  let s1 := (s.updThread t (fun y => { y with stage := none })).stop t .halted
  s1.notice 0x03 0 x.fn x.launch (BitVec.ofNat 64 (ctxOf t * 2 ^ 12 + coreField (coreOf t))) x.pc 0

/-! ## Cache maintenance -/

/-- The place of the line that CWB and CINV act on, or none where they do nothing: a local space, or an uncached page
(14 R387). -/
def State.lineOperand (s : State) (n : Bool) (a : BitVec 5) : Except Stop (Option Place) := do
  let os : List Opnd := [.s a n]
  let ys ← s.checkAll [{ index := 0, addr := s.x a, width := 1 }]
  let zs ← s.ready .read os os ys
  match zs with
  | [(z, p)] => .ok (if field z.addr 63 60 = 0 && p.cacheable then some p else none)
  | _ => .ok none

/-- CWB (14 R387): its write-back follows the thread's earlier requests to that home. -/
def execCwb (n : Bool) (a : BitVec 5) (s : State) : Outcome :=
  settle s (do
    let _ ← s.enterInstr .core .plain
    let p? ← s.lineOperand n a
    let s1 := (s.consume s.cur [.s a n]).retire 4
    match p? with
    | none => .ok s1
    | some p =>
      let r : Req := { src := .thread s.cur, place := { p with loc := p.loc / 128 * 128 }, kind := .writeback }
      .ok (State.stop { s1 with fifo := s1.fifo ++ [r] } s.cur (.waiting .writeback)))

/-- CINV (14 R387): the L1 eviction step of 05 R151. -/
def execCinv (n : Bool) (a : BitVec 5) (s : State) : Outcome :=
  settle s (do
    let _ ← s.enterInstr .core .plain
    let p? ← s.lineOperand n a
    let s1 := (s.consume s.cur [.s a n]).retire 4
    match p? with
    | none => .ok s1
    | some p => .ok (s1.setL1 (coreOf s.cur) (lineOf p.loc) none))

/-- CWB_WRITEBACK_DONE (14 R387): the write-back at the head of its FIFO is done, and its thread goes on. -/
def execCwbWritebackDone (t : Nat) (s : State) : Outcome :=
  match s.fifo.find? (fun r => r.src = .thread t && r.kind = .writeback) with
  | none => .next s
  | some r =>
    if s.headReq (.thread t) r.place.home ≠ some r || s.flipHolds r then .next s
    else
      let s1 := ((s.dropReq r).flipDone r).cleanSlice (lineOf r.place.loc)
      if (s1.thread t).run = .waiting .writeback && !s1.fifo.any (fun q => q.src = .thread t && q.kind = .writeback) then
        .next (s1.wake t)
      else .next s1

/-! ## Threads that come back -/

/-- REGISTER_REFILL (07 R193): no register that the instruction reads makes room for it. -/
def execRegisterRefill (t : Nat) (s : State) : Outcome :=
  match (s.thread t).run with
  | .waiting (.refill vec r reads) =>
    .next (((s.updThread t (fun x => { x with inUse := reads })).refill t vec r).wake t)
  | _ => .next s

/-- LONG_LATENCY_RESULT (07 R188): the latency is over; the result has been in place since the issue step
(log entry 9). -/
def execLongLatencyResult (t : Nat) (s : State) : Outcome :=
  match (s.thread t).run with
  | .waiting (.latency till) => if till ≤ s.cycle then .next (s.wake t) else .next s
  | _ => .next s

/-- CONTEXT_RESUME (14 R384; 18 R425): a halted thread, or one that a trap with `tvec` 0 stopped as if halted, goes on at
PC + 4. -/
def execContextResume (t : Nat) (s : State) : Outcome :=
  let go := ((s.updThread t (fun x => { x with pc := x.pc + 4 })).wake t)
  if isTsc t then .next s
  else match (s.thread t).run with
    | .halted => .next go
    | .trapStopped => .next go
    | _ => .next s

/-- HALTED_CONTEXT_FREE (14 R384; 18 R425): a command processor frees the context of a stopped thread. -/
def execHaltedContextFree (t : Nat) (s : State) : Outcome :=
  if isTsc t then .next s
  else match (s.thread t).run with
    | .halted => .next (s.abortThread t)
    | .trapStopped => .next (s.abortThread t)
    | _ => .next s

/-- DEBUGGER_RESUME (18 R426): at `epc`, with `status` as it stood before the stop. -/
def execDebuggerResume (t : Nat) (s : State) : Outcome :=
  if (s.thread t).run = .debugStopped then
    .next ((s.updThread t (fun x => { x with pc := x.epc, sv := x.estatus.getLsbD 0, pfx := x.estatus.getLsbD 8, boundary := false })).wake t)
  else .next s

end Sys2Proof.Machine
end

