-- ==== Sys2Proof/Machine/Power.lean ====
section
/-! DEFINITION. Steps of the memory levels and of the clock: drowsy banks and gated cores (02 R56, R57), the expander (04 R113
to R115), CLPART transitions (02 R65 to R67), the budget refill (13 R357), droop and the power alarm (22 R455, R456). -/

namespace Sys2Proof.Machine

/-- Cycles since the last core-die reset: the `cycle` of 14 R381. -/
def State.coreCycle (s : State) : Nat := s.cycle - s.dieReset

/-! ## Banks and cores -/

/-- BANK_DROWSY (02 R56): a bank that no access has touched for IDLE x 64 cycles. -/
def execBankDrowsy (k b : Nat) (s : State) : Outcome :=
  let c := s.core k
  if c.spIdle ≠ 0 && decide (b < 32) && c.spAwake.getLsbD b &&
      decide (max (NMap.get 0 c.touched b) s.dieReset + c.spIdle.toNat * 64 ≤ s.cycle) then
    .next (s.updCore k (fun x => { x with spAwake := x.spAwake &&& ~~~(1#32 <<< b) }))
  else .next s

/-- BANK_WAKE (02 R56): an access has arrived at a drowsy bank of a core that is not gated. -/
def execBankWake (k b : Nat) (s : State) : Outcome :=
  let c := s.core k
  if !c.gated && decide (b < 32) && !c.spAwake.getLsbD b && c.wanted.contains b then
    .next (s.updCore k (fun x => { x with
      spAwake := x.spAwake ||| (1#32 <<< b), touched := NMap.set 0 x.touched b s.cycle, wanted := x.wanted.filter (fun i => i ≠ b) }))
  else .next s

/-- CORE_GATE (02 R57): all 16 contexts are idle. -/
def execCoreGate (k : Nat) (s : State) : Outcome :=
  if (coreThreads k).all (fun t => decide ((s.thread t).run = .free)) && !isTscCore k then
    .next (s.updCore k (fun x => { x with gated := true, spAwake := 0 }))
  else .next s

/-- CORE_WAKE (02 R57): an access or a launch placed on a gated core wakes it; its banks are then drowsy. -/
def execCoreWake (k : Nat) (s : State) : Outcome :=
  if (s.core k).gated && (!(s.core k).wanted.isEmpty || (s.core k).owner.isSome) then
    .next (s.updCore k (fun x => { x with gated := false, wanted := x.wanted.filter (fun i => i ≠ 32) }))
  else .next s

/-! ## The expander -/

/-- The launch that a cluster's notices name: that of its lowest core that belongs to one. -/
def State.clusterLaunch (s : State) (cl : Nat) : Option Launch :=
  ((clusterCores cl).findSome? (fun k => (s.core k).owner)).bind s.launch

/-- EXPANDER_EXPAND_COMPLETE (04 R113); with an uncorrectable error the block becomes zeros and a notice goes out
(04 R115). -/
def execExpanderExpandComplete (cl blk : Nat) (ue : Bool) (s : State) : Outcome :=
  if s.expState cl blk ≠ some .expanding then .next s
  else
    let s1 := s.updCluster cl (fun c => { c with expander := c.expander.map (fun e =>
      if e.blk = blk then { e with state := .clean } else e) })
    if !ue then .next s1
    else
      let s2 := (s1.clearRange (locCluster cl (512 * blk)) 512).updCluster cl (fun c => { c with metas := NMap.set 0 c.metas blk 0 })
      let l := s.clusterLaunch cl
      .next (s2.notice 0x04 1 ((l.map (·.fn)).getD 0) ((l.map (·.num)).getD 0) (BitVec.ofNat 64 cl) (BitVec.ofNat 64 (512 * blk))
        (BitVec.ofNat 64 ((l.map (·.asid)).getD 0)))

/-- EXPANDER_COMPRESS_COMPLETE (04 R111, R114): the sectors, then the metadata byte; the entry becomes invalid, and an access
that waits for one takes it. -/
def execExpanderCompressComplete (cl blk : Nat) (s : State) : Outcome :=
  if s.expState cl blk ≠ some .compressing then .next s
  else
    let m := BitVec.ofNat 8 (encodeBlock (s.readBytes (locCluster cl (512 * blk)) 512)).1
    .next (s.updCluster cl (fun c => { c with
      metas := NMap.set 0 c.metas blk m
      expander := c.expander.filter (fun e => e.blk ≠ blk) }))

/-! ## CLPART transitions -/

/-- The leaving lines of a cluster's slice as (way, set, line). -/
def State.leavingLines (s : State) (cl : Nat) : List (Nat × Nat × Nat) :=
  s.slices.filterMap (fun p => match p.2 with
    | some l => if l.leaving && decide (homeSlice (128 * p.1) = cl) then some (l.way, Config.sliceSet p.1 % 8192, p.1) else none
    | none => none)

/-- Ascending way, and within it ascending set (02 R65). -/
def leavingLt (a b : Nat × Nat × Nat) : Bool := decide (a.1 < b.1) || (decide (a.1 = b.1) && decide (a.2.1 < b.2.1))

/-- CLPART_LEAVING_LINE (02 R65): one line leaves; with none left, DRAIN and BUSY become 0. -/
def execClpartLeavingLine (cl : Nat) (s : State) : Outcome :=
  if !(s.cluster cl).drain then .next s
  else
    .next (match (s.leavingLines cl).foldl (fun b x => match b with
        | none => some x
        | some y => if leavingLt x y then some x else some y) (none : Option (Nat × Nat × Nat)) with
      | some x => s.dropSlice x.2.2
      | none => s.growOver cl)

/-- Whether a tile reaches beyond the current cluster-memory size. -/
def State.tileBeyond (s : State) (k : Nat) (x : Tile) : Bool :=
  field x.addr 63 60 = 10 && decide ((s.cluster (clusterOf k)).spw * 2 ^ 20 < x.addr.toNat % 2 ^ 24 + shapeSize x.shape)

/-- Whether the chunk in progress of a command has still an access to make beyond the cluster memory's size (02 R67): one of the
writes it has computed, or one that what it reads may bring, a packed group being 64 bytes and at most 512 for each block. -/
def State.chunkBeyond (s : State) (c : Cmd) : Bool :=
  let d := Desc.ofWords c.desc
  let past := pastSize ((s.cluster c.cluster).spw * 2 ^ 20)
  match c.phase with
  | .idle => false
  | .writing => c.out.any (fun w => past (w.1 + BitVec.ofNat 64 (w.2.1 - 1)))
  | _ => s.beyondSize c ||
      (d.startsLate && past (d.stream + BitVec.ofNat 64 (c.poff + 63 + 512 * d.groupSize c.chunk)))

/-- Whether an access to the surrendered ways that passed its checks before a shrink has still to perform (02 R66, R67, R69): a
request, an engine's chunk, a sequencer's job, an MMAC that has arrived, a record that a SPAWN has still to read, a write of a launch
image, a CXL.io request. -/
def State.oldAccess (s : State) (cl : Nat) : Bool :=
  let lim := (s.cluster cl).spw * 2 ^ 20
  let tile := fun (k : Nat) (e : Nat) => s.tileBeyond k (s.tile k e)
  s.fifo.any (fun r => decide (r.place.home = .expander cl) && decide (locCluster cl lim ≤ r.place.loc)) ||
    s.engines.any (fun g => g.2.cmds.any (fun c => decide (c.cluster = cl) && s.chunkBeyond c)) ||
    (clusterCores cl).any (fun k => (s.core k).jobs.any (fun j => match j.kind with
      | .mma ta tb _ _ _ _ _ _ => tile k ta || tile k tb
      | .mmac _ => false
      | .mstore e _ _ _ _ _ => tile k e
      | .mmask e _ => tile k e)) ||
    (s.cluster cl).mmacs.any (fun a => (a.ta.map (tile (coreOf a.t))).getD false || (a.tb.map (tile (coreOf a.t))).getD false) ||
    (clusterCores cl).any (fun k => (coreThreads k).any (fun t => match (s.thread t).stage with
      | some (.spawn p) => decide (p.home = .expander cl) && decide (locCluster cl lim ≤ p.loc)
      | _ => false)) ||
    s.launches.any (fun l => (l.loading.getD []).any (fun p => decide (p.cl = cl) && decide (lim < p.off + p.bytes))) ||
    s.ioq.any (fun q => q.2.any (fun r => decide (r.home = .expander cl) && decide (lim < r.off + r.bytes)))

/-- CLPART_SHRINK_COMPLETE (02 R66, R68): the surrendered blocks are discarded; BUSY becomes 0. -/
def execClpartShrinkComplete (cl : Nat) (s : State) : Outcome :=
  let c := s.cluster cl
  if !c.busy || c.drain || s.oldAccess cl then .next s
  else
    let keep := fun (blk : Nat) => decide (blk < 2048 * c.spw)
    .next ((s.clearRange (locCluster cl (c.spw * 2 ^ 20)) ((c.oldSpw - c.spw) * 2 ^ 20)).updCluster cl (fun x => { x with
      expander := x.expander.filter (fun e => keep e.blk)
      metas := x.metas.filter (fun p => keep p.1)
      busy := false }))

/-! ## Budgets -/

/-- BUDGET after a refill (13 R357): REFILL more, up to the cap; a budget beyond the cap stays. -/
def Thread.refillBudget (x : Thread) : Thread :=
  let cap := min (2 ^ 32 - 1) (64 * x.ebRefill.toNat)
  let b := x.ebBudget.toNat
  { x with ebBudget := if cap ≤ b then x.ebBudget else BitVec.ofNat 32 (min cap (b + x.ebRefill.toNat)) }

/-- EBUDGET_REFILL (13 R357): every 4,096 cycles, in every context. -/
def execEbudgetRefill (s : State) : Outcome :=
  if s.coreCycle % 4096 ≠ 0 || s.tieTaken .refill then .next s
  else .next { s.tie .refill 0 with threads := s.threads.map (fun p => (p.1, if isTsc p.1 then p.2 else p.2.refillBudget)) }

/-! ## Power -/

/-- DROOP_STRETCH (22 R455): a stretched cycle is longer in time and counts once; nothing else changes. -/
def execDroopStretch (_cl : Nat) (s : State) : Outcome := .next s

/-- The value of `kdstate` (22 R443). -/
def Service.kdstate (v : Service) : Word :=
  BitVec.ofNat 64 ((if v.narrow then 8 else 0) + (if v.alarm then 4 else 0) + v.state % 4)

/-- POWER_ALARM_ASSERT (22 R456): outside the normal state it narrows every cluster; in it, a notice. -/
def execPowerAlarmAssert (s : State) : Outcome :=
  let v := s.service
  if v.alarm then .next s
  else
    let s1 : State := { s with service := { v with alarm := true, fell := none, narrow := v.narrow || decide (v.state ≠ 0) } }
    .next (if v.state = 0 then s1.notice 0x05 0 0 0 s1.service.kdstate 0 0 else s1)

/-- POWER_ALARM_DEASSERT (22 R456). -/
def execPowerAlarmDeassert (s : State) : Outcome :=
  if s.service.alarm then .next { s with service := { s.service with alarm := false, fell := some s.cycle } } else .next s

/-- NARROW_CLEAR (22 R456): 2^20 cycles after ALARM fell. -/
def execNarrowClear (s : State) : Outcome :=
  match s.service.fell with
  | some c =>
    if decide (c + 2 ^ 20 ≤ s.cycle) && !s.service.alarm then .next { s with service := { s.service with narrow := false, fell := none } }
    else .next s
  | none => .next s

/-- Recovery is done once STATE leaves recovery: no quench level is in progress then (22 R449). -/
def State.recovered (s : State) : State :=
  if s.service.state = 3 then s
  else { s with service := { s.service with quench := 0 }, clusters := s.clusters.map (fun p => (p.1, { p.2 with quench := 0 })) }

/-- A write of STATE (22 R455, R456): normal clears NARROW, and ALARM narrows in every other state. -/
def State.writeKdstate (s : State) (v : Word) : State :=
  let st := field v 1 0
  let x := s.service
  State.recovered { s with service := { x with state := st, narrow := decide (st ≠ 0) && (x.narrow || x.alarm) } }

/-- KDSTATE_WRITE (22 R443, R455): from supervisor mode it raises the exception. -/
def execKdstateWrite (v : BitVec 64) (s : State) : Outcome :=
  let r := s.chosenCp
  r.2.asMachine r.1 (.next (r.2.writeKdstate v))

end Sys2Proof.Machine
end

