-- ==== Sys2Proof/Machine/Launch.lean ====
section
/-! DEFINITION. Command queues, launches, graphs, the allocator, the start of a launch and its cancellation (16 R389 to R405,
R416, R417; 22 R442; 19 R437). -/

namespace Sys2Proof.Machine

/-! ## Queues (16 R389, R390; 22 R442) -/

/-- The functions and queues that exist (22 R441, R442). -/
def queueExists (fn q : Nat) : Bool := decide (fn ≤ 64) && decide (q < 16)

/-- QTAIL_WRITE (16 R389; 22 R442): an occupancy above the ring's size sets ERR. -/
def execQtailWrite (fn q : Nat) (v : BitVec 64) (s : State) : Outcome :=
  if !queueExists fn q then .next s
  else .next (s.updQueue fn q (fun x =>
    let tail : BitVec 16 := v.setWidth 16
    { x with tail := tail, err := x.err || (x.en && decide (2 ^ x.log2n < (tail - x.head).toNat)) }))

/-- QCFG_WRITE (22 R442). With EN going from 0 to 1 the entries in the ring are skipped. -/
def execQcfgWrite (fn q : Nat) (v : BitVec 64) (s : State) : Outcome :=
  if !queueExists fn q then .next s
  else
    let x := s.queue fn q
    let en := v.getLsbD 63
    let lg := field v 35 32
    if x.en then .next (s.updQueue fn q (fun x => { x with en := en, err := x.err && en }))
    else
      let skip := if en then (x.tail - x.head).toNat else 0
      let s1 := s.updQueue fn q (fun x => { x with
        en := en, err := x.err && en, log2n := (if decide (4 ≤ lg) && decide (lg ≤ 12) then lg else 4), asid := field v 15 0,
        head := if en then x.tail else x.head, seqno := x.seqno + skip })
      .next (s1.targetDone fn (fun a =>
        let left := a.ring.filter (fun r => !(decide (r.1 = q) && decide (r.2 < x.seqno + skip)))
        if left.length < a.ring.length then some { a with ring := left } else none))

/-- The entry of a queue at `i` places past HEAD. While one of the host's writes to it has not completed, its contents are
undefined (16 R389): free values, log entry 61. -/
def State.entryAt (s : State) (fn q i : Nat) : List Word :=
  let x := s.queue fn q
  let loc := x.qbase + 128 * ((x.head.toNat + i) % 2 ^ x.log2n)
  if s.hostWrites.any (fun w => decide (w.1 < loc + 128) && decide (loc < w.1 + w.2.1)) then
    (List.range 16).map (fun j => Config.entryWord s.cycle (loc + 8 * j))
  else s.readWords loc 16

/-- The command processor that serves queue `q` of a function is at work. -/
def State.served (s : State) (i : Nat) : Bool := (s.cp (s.server i)).running

/-- Whether a flip of its page holds the read of a queue's entry (06 R179, R180). -/
def State.entryHeld (s : State) (fn q i : Nat) : Bool :=
  let x := s.queue fn q
  s.heldAt (x.qbase + 128 * ((x.head.toNat + i) % 2 ^ x.log2n)) 128

/-- The entry that can be accepted next, if any: the queue is served and not in error, an entry is there and can be read, and a barrier
waits for every earlier entry (16 R390). -/
def State.nextEntry (s : State) (fn q : Nat) : Option (List Word) :=
  let x := s.queue fn q
  if queueExists fn q && x.en && !x.err && decide (x.head ≠ x.tail) && s.served (fn + q) && !s.entryHeld fn q 0 then
    let e := s.entryAt fn q 0
    if (e.getD 0 0).getLsbD 59 && decide (x.open_ ≠ []) then none else some e
  else none

namespace Entry
def op (e : List Word) : Nat := field (e.getD 0 0) 63 60
def cpl (e : List Word) : Word := e.getD 6 0
def tag (e : List Word) : Word := e.getD 14 0
end Entry

/-- The smallest usage among functions with live launches (16 R397). -/
def State.leastUsage (s : State) : Nat :=
  ((s.launches.filter (fun l => decide (l.phase = .placed) || decide (l.phase = .live))).map (fun l => (s.func l.fn).usage)).foldl
    (fun b u => match b with
      | none => some u
      | some m => some (min m u)) (none : Option Nat) |>.getD 0

/-- A function without live launch and accepted entry has its usage raised as an entry is accepted (16 R397). -/
def State.newcomer (s : State) (fn : Nat) : State :=
  if s.launches.any (fun l => decide (l.fn = fn)) || (s.func fn).queues.any (fun p => decide (p.2.open_ ≠ [])) then s
  else s.updFunc fn (fun f => { f with usage := max f.usage s.leastUsage })

/-- HEAD advances past an accepted entry (16 R389); the answer is the entry's number. -/
def State.takeEntry (s : State) (fn q : Nat) : State × Nat :=
  ((s.newcomer fn).updQueue fn q (fun x => { x with head := x.head + 1, seqno := x.seqno + 1 }), (s.queue fn q).seqno)

/-- A refused entry completes at acceptance (16 R393). -/
def State.refuse (s : State) (fn q : Nat) (e : List Word) (asid reason : Nat) : State :=
  (s.takeEntry fn q).1.writeCpl fn 0 (Entry.op e) asid (Entry.cpl e) (Entry.tag e) 2 reason 0 0 0

/-- Whether an entry still in its ring was named by a CANCEL (16 R416). -/
def State.cancelledInRing (s : State) (fn q : Nat) : Bool :=
  let n := (s.queue fn q).seqno
  (s.func fn).queues.any (fun p => p.2.open_.any (fun a => decide (a.op = 4) && a.ring.contains (q, n)))

/-- A target that was not yet accepted completes at acceptance with STAT 0x3 (16 R416). -/
def State.skipCancelled (s : State) (fn q : Nat) (e : List Word) (asid : Nat) : State :=
  let (s1, n) := s.takeEntry fn q
  (s1.writeCpl fn 0 (Entry.op e) asid (Entry.cpl e) (Entry.tag e) 3 0 0 0 0).targetDone fn (fun a =>
    if a.ring.contains (q, n) then some { a with ring := a.ring.filter (fun r => r ≠ (q, n)) } else none)

/-- An accepted entry that does not complete at once joins its queue's open entries. -/
def State.openEntry (s : State) (fn q : Nat) (a : Accepted) : State :=
  s.updQueue fn q (fun x => { x with open_ := x.open_ ++ [a] })

/-- NOP_ENTRY (16 R391). -/
def execNopEntry (fn q : Nat) (s : State) : Outcome :=
  match s.nextEntry fn q with
  | some e =>
    if Entry.op e ≠ 0 then .next s
    else .next ((s.takeEntry fn q).1.writeCpl fn 0 0 (s.queue fn q).asid (Entry.cpl e) (Entry.tag e) 1 0 0 0 0)
  | none => .next s

/-- RESERVED_ENTRY (16 R391, R393). -/
def execReservedEntry (fn q : Nat) (s : State) : Outcome :=
  match s.nextEntry fn q with
  | some e => if Entry.op e < 6 then .next s else .next (s.refuse fn q e (s.queue fn q).asid 1)
  | none => .next s

/-! ## LAUNCH (16 R392, R393; 19 R437) -/

/-- Whether an ASID lies in a function's range (01 R24). -/
def Func.hasAsid (f : Func) (a : Nat) : Bool := decide (f.asid0 ≤ a) && decide (a < f.asid0 + f.asidN)

/-- Bits 6 of the substitution bytes (16 R402). -/
def substBad (w : Word) : Bool := (w &&& 0x4040404040404040#64) ≠ 0

/-- The REASON a LAUNCH entry is refused with, the first of the table's order, or none (16 R393). ASID 0x0000 is the physical
function's (19 R437). -/
def State.launchReason (s : State) (fn : Nat) (e : List Word) (node : Bool) : Option Nat :=
  let d := fun (i : Nat) => e.getD i 0
  let asid := field (d 0) 15 0
  let w := field (d 0) 30 25 + 1
  let h := field (d 0) 24 19 + 1
  let n := field (d 0) 52 49
  let org := field (d 0) 42 31
  let badPc := fun (p : Word) => decide (field p 5 0 ≠ 0) || decide (field p 63 52 ≠ 0)
  if field (d 0) 18 16 ≠ 0 || field (d 4) 39 32 ≠ 0 || (if node then substBad (d 15) else decide (d 15 ≠ 0)) then some 1
  else if n = 0 || decide (14 < n) || decide (48 < org % 64 + w) || decide (56 < org / 64 + h) then some 2
  else if asid = 0xFFFF || !(if asid = 0 then decide (fn = 0) else (s.func fn).hasAsid asid) then some 3
  else if badPc (d 1) || (decide (d 2 ≠ 0) && badPc (d 2)) then some 4
  else if field (d 3) 37 0 ≠ 0 || decide (64 < field (d 3) 51 46 + field (d 3) 45 39) || decide (20 < field (d 7) 5 0) then some 5
  else none

/-- A launch number that no launch has: 16 bits, not 0 (07 R184). -/
def freeNumber (ls : List Launch) (n : Nat) : Nat → Nat
  | 0 => n
  | k + 1 =>
    let m := if n = 0 || decide (2 ^ 16 ≤ n) then 1 else n
    if ls.any (fun l => l.num = m) then freeNumber ls (m + 1) k else m

/-- An accepted launch joins those that wait for the allocator (16 R390). -/
def State.addLaunch (s : State) (e : List Word) (fn cp seqno : Nat) (o : Origin) : State × Nat :=
  let n := freeNumber s.launches s.nextLaunch (s.launches.length + 2)
  let l : Launch := { num := n, entry := e, fn := fn, origin := o, seqno := seqno, accepted := s.cycle,
                      sv := decide (field (e.getD 0 0) 15 0 = 0), cp := cp }
  ({ s with launches := s.launches ++ [l], nextLaunch := n + 1 }, n)

/-- The ASID that a refused LAUNCH entry's completion record is translated under (16 R393). -/
def State.refusalAsid (s : State) (fn own asid : Nat) : Nat :=
  if own ≠ 0xFFFF && ((s.func fn).hasAsid own || (decide (own = 0) && decide (fn = 0))) then own else asid

/-- LAUNCH_ENTRY (16 R390, R392, R393). -/
def execLaunchEntry (fn q : Nat) (s : State) : Outcome :=
  match s.nextEntry fn q with
  | some e =>
    let asid := field (e.getD 0 0) 15 0
    if Entry.op e ≠ 1 then .next s
    else if s.cancelledInRing fn q then .next (s.skipCancelled fn q e (s.refusalAsid fn asid (s.queue fn q).asid))
    else match s.launchReason fn e false with
      | some r => .next (s.refuse fn q e (s.refusalAsid fn asid (s.queue fn q).asid) r)
      | none =>
        let (s1, n) := s.takeEntry fn q
        let (s2, _) := s1.addLaunch e fn (s.server (fn + q)) n (.queue fn q)
        .next (s2.openEntry fn q { seqno := n, op := 1, tag := Entry.tag e, cpl := Entry.cpl e, asid := asid })
  | none => .next s

/-! ## Graphs (16 R402 to R405) -/

/-- The header of a graph object: whether it is re-entrant and its number of nodes (16 R402). -/
def State.graphHeader (s : State) (asid va : Nat) : Option (Bool × Nat) :=
  if va % 64 ≠ 0 then none
  else match s.cpRead asid va 64 with
    | some h =>
      let n := h % 2 ^ 12
      if h / 2 ^ 12 % 2 ^ 51 ≠ 0 || decide (2 ^ 64 ≤ h) || decide (n = 0) then none else some (decide (h / 2 ^ 63 % 2 = 1), n)
    | none => none

/-- Whether a GFREE of the slot is under way: its command processor takes the slot's entries one at a time (16 R404). -/
def State.freeing (s : State) (fn i : Nat) : Bool :=
  (s.func fn).queues.any (fun p => p.2.open_.any (fun a => decide (a.op = 5) && decide (a.slot = i)))

/-- GRUN (16 R403, R404): refused, or accepted once its slot allows a replay. -/
def execGrun (fn q : Nat) (s : State) : Outcome :=
  match s.nextEntry fn q with
  | some e =>
    let asid := (s.queue fn q).asid
    let d0 := e.getD 0 0
    let i := field d0 51 48
    let addr := (e.getD 1 0).toNat
    let g := s.gslot fn i
    if Entry.op e ≠ 2 then .next s
    else if s.cancelledInRing fn q then .next (s.skipCancelled fn q e asid)
    else if field d0 58 52 ≠ 0 || field d0 38 0 ≠ 0 then .next (s.refuse fn q e asid 1)
    else if s.freeing fn i || s.cpHeld asid addr 64 then .next s
    else if (match g.bound with
      | some a => decide (a ≠ addr)
      | none => false) then .next (s.refuse fn q e asid 6)
    else match s.graphHeader asid addr with
      | none => .next (s.refuse fn q e asid 6)
      | some (re, count) =>
        let bank := if g.run0.isNone then some 0 else if g.run1.isNone then some 1 else none
        let busy := g.run0.isSome || g.run1.isSome
        match (if busy && !re then none else bank) with
        | none => .next s
        | some b =>
          let (s1, n) := s.takeEntry fn q
          let r : Replay := { regs := g.staging, count := count, q := q, seqno := n, asid := asid }
          let s2 := s1.updGslot fn i (fun x => ({ x with bound := some addr, re := re } : Slot16).setBank b (some r))
          .next (s2.openEntry fn q { seqno := n, op := 2, tag := Entry.tag e, cpl := Entry.cpl e, asid := asid, slot := i, bank := b })
  | none => .next s

/-- GPATCH (16 R403, R404): DW8 onward into staging registers. -/
def execGpatch (fn q : Nat) (s : State) : Outcome :=
  match s.nextEntry fn q with
  | some e =>
    let asid := (s.queue fn q).asid
    let d0 := e.getD 0 0
    let i := field d0 51 48
    let idx := field d0 47 42
    let cnt := field d0 41 39
    if Entry.op e ≠ 3 then .next s
    else if field d0 58 52 ≠ 0 || field d0 38 0 ≠ 0 then .next (s.refuse fn q e asid 1)
    else if cnt = 0 || decide (6 < cnt) || decide (64 < idx + cnt) then .next (s.refuse fn q e asid 6)
    else
      let s1 := (s.takeEntry fn q).1.updGslot fn i (fun x => { x with
        staging := (List.range cnt).foldl (fun m j => NMap.set 0 m (idx + j) (e.getD (8 + j) 0)) x.staging })
      .next (s1.writeCpl fn 0 3 asid (Entry.cpl e) (Entry.tag e) 1 0 0 0 0)
  | none => .next s

/-- GFREE (16 R403, R405). -/
def execGfree (fn q : Nat) (s : State) : Outcome :=
  match s.nextEntry fn q with
  | some e =>
    let asid := (s.queue fn q).asid
    let d0 := e.getD 0 0
    let i := field d0 51 48
    let zero := [1, 2, 3, 4, 5, 7, 8, 9, 10, 11, 12, 13, 15].all (fun j => e.getD j 0 = 0)
    if Entry.op e ≠ 5 then .next s
    else if field d0 58 52 ≠ 0 || field d0 47 0 ≠ 0 || !zero then .next (s.refuse fn q e asid 1)
    else
      let (s1, n) := s.takeEntry fn q
      .next ((s1.openEntry fn q { seqno := n, op := 5, tag := Entry.tag e, cpl := Entry.cpl e, asid := asid, slot := i }).slotFree fn i)
  | none => .next s

/-- A node's entry with its parameters in place (16 R402). -/
def substNode (regs : NMap Word) (e : List Word) : List Word :=
  let sub := e.getD 15 0
  (List.range 16).map (fun i =>
    let b := field sub (8 * (i - 6) + 7) (8 * (i - 6))
    if decide (6 ≤ i) && decide (i ≤ 13) && decide (128 ≤ b) then NMap.get 0 regs (b % 64) else e.getD i 0)

/-- GRAPH_NODE_ACCEPT (16 R402, R390): the next node of a replay, its BARRIER honoured, checked by 16 R393. -/
def execGraphNodeAccept (fn slot bank : Nat) (s : State) : Outcome :=
  match (s.gslot fn slot).bank bank, (s.gslot fn slot).bound with
  | some r, some addr =>
    if r.cancelled || decide (r.count ≤ r.node) || !s.served (fn + slot) || s.cpHeld r.asid (addr + 64 + 128 * r.node) 128 then .next s
    else
      let step := fun (s : State) (run : Bool) => s.updGslot fn slot (fun g => g.setBank bank (some { r with
        node := r.node + 1, running := if run then r.running ++ [r.node] else r.running }))
      match s.cpRead r.asid (addr + 64 + 128 * r.node) 128 with
      | none => .next ((step s true).nodeDone fn slot bank r.node 0 0)
      | some v =>
        let e := natToWords 16 v
        if (e.getD 0 0).getLsbD 59 && decide (r.running ≠ []) then .next s
        else
          let e1 := substNode r.regs e
          let asid := field (e.getD 0 0) 15 0
          let reason := if Entry.op e ≠ 1 then some 1 else s.launchReason fn e1 true
          match reason with
          | some x =>
            let own := if Entry.op e = 1 then s.refusalAsid fn asid r.asid else r.asid
            .next (((step s true).writeCpl fn 0 (Entry.op e) own (Entry.cpl e1) (Entry.tag e1) 2 x 0 0 0).nodeDone
              fn slot bank r.node 0 0)
          | none =>
            let (s1, _) := (step s true).addLaunch e1 fn (s.server (fn + slot)) r.node (.node fn slot bank)
            .next s1
  | _, _ => .next s

/-! ## CANCEL (16 R416 to R418) -/

/-- A launch is cancelled: one not yet placed ends at once, any other when the cancel has reached its cores. -/
def State.cancelLaunch (s : State) (n : Nat) : State :=
  match s.launch n with
  | none => s
  | some l => if l.phase = .accepted then s.endLaunch n 3 else s.updLaunch n (fun l => { l with cancelled := true })

/-- The launches that have ended and whose records are still to be written. -/
def State.closings (s : State) : List Closing :=
  s.closed ++ s.later.filterMap (fun x => match x.act with
    | .close c => some c
    | _ => none)

/-- The launch of an accepted queue entry that has not completed. -/
def State.launchOf (s : State) (fn q n : Nat) : Option Nat :=
  match s.launches.find? (fun l => decide (l.origin = .queue fn q) && decide (l.seqno = n)) with
  | some l => some l.num
  | none => (s.closings.find? (fun c => decide (c.origin = .queue fn q) && decide (c.seqno = n))).map (·.num)

/-- CANCEL_ENTRY (16 R416): every LAUNCH and GRUN of the function with the TAG that has not completed. -/
def execCancelEntry (fn q : Nat) (s : State) : Outcome :=
  match s.nextEntry fn q with
  | some e =>
    let asid := (s.queue fn q).asid
    let d0 := e.getD 0 0
    let tag := e.getD 8 0
    let zero := [1, 2, 3, 4, 5, 7, 9, 10, 11, 12, 13, 15].all (fun j => e.getD j 0 = 0)
    let held := (s.func fn).queues.any (fun p => p.2.en && (List.range (p.2.tail - p.2.head).toNat).any (fun i => s.entryHeld fn p.1 i))
    if Entry.op e ≠ 4 || held then .next s
    else if field d0 58 0 ≠ 0 || !zero then .next (s.refuse fn q e asid 1)
    else
      let (s1, n) := s.takeEntry fn q
      let opened := (s1.func fn).queues.flatMap (fun p => (p.2.open_.filter (fun a => decide (a.tag = tag))).map (fun a => (p.1, a)))
      let launches := opened.filterMap (fun p => if p.2.op = 1 then s1.launchOf fn p.1 p.2.seqno else none)
      let replays := (opened.filter (fun p => p.2.op = 2)).map (fun p => (p.2.slot, p.2.bank))
      let ring := (s1.func fn).queues.flatMap (fun p =>
        (List.range (p.2.tail - p.2.head).toNat).filterMap (fun i =>
          let x := s1.entryAt fn p.1 i
          if p.2.en && (decide (Entry.op x = 1) || decide (Entry.op x = 2)) && decide (Entry.tag x = tag) then
            some (p.1, p.2.seqno + i) else none))
      let a : Accepted := { seqno := n, op := 4, tag := Entry.tag e, cpl := Entry.cpl e, asid := asid, targets := launches,
                            replays := replays, ring := ring }
      if launches = [] && replays = [] && ring = [] then .next (s1.writeCpl fn 0 4 asid a.cpl a.tag 1 0 0 0 0)
      else
        let s2 := launches.foldl (fun s m => s.cancelLaunch m) (s1.openEntry fn q a)
        .next (replays.foldl (fun s p =>
          let nodes := (s.launches.filter (fun l => decide (l.origin = .node fn p.1 p.2))).map (·.num)
          let s3 := s.updGslot fn p.1 (fun g => g.setBank p.2 ((g.bank p.2).map (fun r => { r with cancelled := true })))
          (nodes.foldl (fun s m => s.cancelLaunch m) s3).replayOver fn p.1 p.2) s2)
  | none => .next s

/-- Whether a cancel that reaches a thread ends it at once (16 R417). -/
def Thread.endsAtOnce (x : Thread) : Bool :=
  x.inWaitw || match x.run with
    | .parked (.holder _ _ _) => true
    | .parked .barrier => true
    | .parked .fault => true
    | .waiting .align => true
    | _ => false

/-- CANCEL_ARRIVAL (16 R417): the cancel of a launch reaches core `k`; not in a cycle in which a TASKEND has been taken there, which
a cancel of that cycle goes before (16 R418). -/
def execCancelArrival (launch k : Nat) (s : State) : Outcome :=
  match s.launch launch with
  | none => .next s
  | some l =>
    if !l.cancelled || decide (l.phase ≠ .live) || !l.rect.has k || l.reached.contains k || s.tieTaken (.tasks k) then .next s
    else
      let cl := clusterOf k
      let mine := fun (r : Record) => decide (Record.launch r = launch)
      let inDeque := (s.core k).deque.filter (fun q => mine q.task)
      let inPool := (s.cluster cl).pool.filter (fun p => decide (p.1 = k) && mine p.2)
      let s1 := (s.updCore k (fun c => { c with deque := c.deque.filter (fun q => !mine q.task) })).updCluster cl (fun c =>
        { c with pool := c.pool.filter (fun p => !(decide (p.1 = k) && mine p.2)) })
      let s2 := s1.updLaunch launch (fun m => { m with nrun := m.nrun + inDeque.length + inPool.length, reached := k :: m.reached })
      let ts := (coreThreads k).filter (fun t => decide ((s.thread t).run ≠ .free) && decide ((s.thread t).launch = launch))
      let ends := ts.filter (fun t => (s.thread t).endsAtOnce)
      let s3 := (ts.filter (fun t => !(s.thread t).endsAtOnce)).foldl (fun s t => s.updThread t (fun x => { x with cancel := true })) s2
      let s4 := ends.foldl (fun s t => s.withdraw t) s3
      .next ((ends.foldl (fun s t => s.abortThread t) s4).endIfOver launch)

/-! ## The allocator (16 R395 to R398) -/

/-- REFILL of a launch: its entry's, or its function's default. -/
def State.launchRefill (s : State) (l : Launch) : Nat :=
  let r := field (l.dw 4) 63 40
  if r = 0 then (s.func l.fn).refill else r

/-- The cores that belong to a launch (16 R395): those of its rectangle but the ones that a save has given up (18 R432). -/
def State.coresOf (s : State) (l : Launch) : List Nat := l.rect.cores.filter (fun k => decide ((s.core k).owner = some l.num))

/-- The sum of REFILL over the contexts of a function's live launches (16 R398). -/
def State.functionRefill (s : State) (fn : Nat) : Nat :=
  ((s.launches.filter (fun l => decide (l.fn = fn) && (decide (l.phase = .placed) || decide (l.phase = .live)))).flatMap (fun l =>
    ((s.coresOf l).flatMap coreThreads).map (fun t =>
      if l.phase = .placed then s.launchRefill l else (s.thread t).ebRefill.toNat))).sum

/-- The rectangle of a launch at an origin. -/
def Launch.rectAt (l : Launch) (x y : Nat) : Rect := ⟨x, y, field (l.dw 0) 30 25 + 1, field (l.dw 0) 24 19 + 1, l.nthr⟩

/-- Whether a rectangle lies in the grid and none of its cores belongs to a launch. -/
def State.freeRect (s : State) (r : Rect) : Bool :=
  decide (r.x0 + r.w ≤ 48) && decide (r.y0 + r.h ≤ 56) && r.cores.all (fun k => (s.core k).owner.isNone)

/-- Where a launch can be placed (16 R395): at ORG, or with ANY at the lowest aligned origin. -/
def State.placement (s : State) (l : Launch) : Option Rect :=
  let org := field (l.dw 0) 42 31
  let ax := 2 ^ field (l.dw 0) 48 46
  let ay := 2 ^ field (l.dw 0) 45 43
  if !l.any then
    let r := l.rectAt (org % 64) (org / 64)
    if s.freeRect r then some r else none
  else
    ((List.range 56).flatMap (fun y => (List.range 48).map (fun x => (x, y)))).findSome? (fun p =>
      let r := l.rectAt p.1 p.2
      if decide (p.1 % ax = org % 64 % ax) && decide (p.2 % ay = org / 64 % ay) && s.freeRect r then some r else none)

/-- A launch that fits: a free rectangle, and the function's energy cap not passed. -/
def State.fits (s : State) (l : Launch) : Option Rect :=
  match s.placement l with
  | some r =>
    if s.functionRefill l.fn + 16 * r.w * r.h * s.launchRefill l ≤ (s.func l.fn).cap then some r else none
  | none => none

/-- The queue number a launch is ordered by. -/
def State.originQueue (s : State) (l : Launch) : Nat :=
  match l.origin with
  | .queue _ q => q
  | .node fn i b => (((s.gslot fn i).bank b).map (·.q)).getD 0

/-- Lexicographic order of keys. -/
def keyLe : List Nat → List Nat → Bool
  | x :: xs, y :: ys => decide (x < y) || (decide (x = y) && keyLe xs ys)
  | _, _ => true

/-- The allocator's order (16 R396). -/
def State.before (s : State) (a b : Launch) : Bool :=
  let key := fun (l : Launch) => [7 - l.prio, (s.func l.fn).usage, l.accepted, l.fn, s.originQueue l, l.seqno]
  keyLe (key a) (key b)

/-- Places the launches of a list that fit, in its order; `first`: none has been passed over yet (16 R396). -/
def State.placeAll (s : State) (first : Bool) : List Launch → State
  | [] => s
  | l :: ls =>
    match s.fits l with
    | some r =>
      let s1 := r.cores.foldl (fun s k => s.updCore k (fun c => { c with owner := some l.num })) s
      (s1.updLaunch l.num (fun m => { m with phase := .placed, rect := r })).placeAll first ls
    | none =>
      let since := l.passed.getD s.cycle
      let s1 := s.updLaunch l.num (fun m => { m with passed := some since })
      if first && decide ((s.cp l.cp).resv < s.cycle - since) then s1 else s1.placeAll false ls

/-- ALLOCATOR_PASS (16 R396): every 64 cycles. -/
def execAllocatorPass (s : State) : Outcome :=
  if s.cycle % 64 ≠ 0 || s.tieTaken .allocator then .next s
  else
    let waiting := s.launches.filter (fun l => decide (l.phase = .accepted))
    .next ((s.tie .allocator 0).placeAll true (waiting.insertionSort (fun a b => s.before a b = true)))

/-- USAGE_ACCOUNTING (16 R397): every 4,096 cycles. -/
def execUsageAccounting (s : State) : Outcome :=
  if s.cycle % 4096 ≠ 0 || s.tieTaken .usage then .next s
  else
    let live := s.launches.filter (fun l => decide (l.phase = .placed) || decide (l.phase = .live))
    .next ((live.map (·.fn)).dedup.foldl (fun s fn =>
      let cores := ((live.filter (fun l => decide (l.fn = fn))).map (fun l => (s.coresOf l).length)).sum
      s.updFunc fn (fun f => { f with usage := f.usage + cores * 4096 / max 1 f.weight })) (s.tie .usage 0))

/-! ## The start of a launch (16 R399, R400) -/

/-- The clusters whose 16 cores all lie in a rectangle. -/
def Rect.wholeClusters (r : Rect) : List Nat := (List.range numClusters).filter (fun cl => (clusterCores cl).all r.has)

/-- The cores' stores are cleared (16 R399, 02 R54). -/
def State.clearLaunch (s : State) (r : Rect) : State :=
  let s1 := r.cores.foldl (fun s k => (s.clearRange (locSpm k 0) (2 ^ 18)).clearRange (locLane k 0 0) (2 ^ 16)) s
  r.wholeClusters.foldl (fun s cl => (s.clearRange (locCluster cl 0) (2 ^ 24)).updCluster cl (fun c =>
    { c with metas := [], expander := [] })) s1

/-- The writes of `n` bytes to cluster memory, one for each block. -/
def loadPieces (cl off n v : Nat) : List LoadPiece :=
  (spanOf8 512 off n).map (fun b =>
    let lo := max off (512 * b)
    let hi := min (off + n) (512 * (b + 1))
    ⟨cl, lo, hi - lo, v / 256 ^ (lo - off) % 256 ^ (hi - lo)⟩)

/-- The writes perform at the entries of their blocks, in order, as far as they can (04 R112, R113); those that are left. -/
def State.runPieces (s : State) : List LoadPiece → State × List LoadPiece
  | [] => (s, [])
  | p :: ps =>
    let b := p.off / 512
    if s.blockReady p.cl b then
      ((s.write (locCluster p.cl p.off) p.bytes p.val).updCluster p.cl (fun c => { c with expander := expTouch c.expander b true })).runPieces ps
    else (s.homePrepare { loc := locCluster p.cl (512 * b), home := .expander p.cl } .expanding, p :: ps)

/-- One entry of the local image table, with what it writes to cluster memory, or none where its check fails or its source cannot
be read (16 R400). -/
def State.loadEntry (s : State) (l : Launch) (dst : Word) (src len : Nat) : Option (State × List LoadPiece) :=
  let n := dst.toNat
  let off := n % 2 ^ 60
  let g := l.dw 3
  match field dst 63 60, s.cpRead l.asid src len with
  | 8, some v =>
    if off + len ≤ 2 ^ 18 then some (l.rect.cores.foldl (fun s k => s.write (locSpm k off) len v) s, []) else none
  | 10, some v =>
    let cls := l.rect.wholeClusters
    if (l.sv || g.getLsbD 38) && decide (off + len ≤ 2 ^ 24) && cls.all (fun cl => decide (off + len ≤ (s.cluster cl).spw * 2 ^ 20)) then
      some (s, cls.flatMap (fun cl => loadPieces cl off len v)) else none
  | 11, some v =>
    let st := field dst 59 56
    let o := n % 2 ^ 56
    let base := field g 51 46 * 2 ^ 20
    let lim := (field g 51 46 + field g 45 39) * 2 ^ 20
    if decide (st < 12) && decide (o + len ≤ 2 ^ 26) &&
        (l.sv || ((field g 63 52).testBit st && decide (base ≤ o) && decide (o + len ≤ lim))) then
      some (s.write (locStack st o) len v, []) else none
  | _, _ => none

/-- The local image of a launch, entry by entry; the table ends at the first LEN of 0, or after 64 entries. A read of the table
that meets an uncorrectable error fails. -/
def State.loadImage (s : State) (l : Launch) (va : Nat) : Nat → Option (State × List LoadPiece)
  | 0 => some (s, [])
  | k + 1 =>
    match (if s.cpBad l.asid va 24 then none else s.cpRead l.asid va 24) with
    | none => none
    | some v =>
      let len := v / 2 ^ 128
      if len = 0 then some (s, [])
      else match s.loadEntry l (BitVec.ofNat 64 v) (v / 2 ^ 64 % 2 ^ 64) len with
        | some (s1, ps) => (s1.loadImage l (va + 24) k).map (fun r => (r.1, ps ++ r.2))
        | none => none

/-- Whether a flip holds a read of a launch's local image, of its table or of a source (06 R179, R180). -/
def State.imageHeld (s : State) (l : Launch) (va : Nat) : Nat → Bool
  | 0 => false
  | k + 1 =>
    s.cpHeld l.asid va 24 || match s.cpRead l.asid va 24 with
      | none => false
      | some v =>
        let len := v / 2 ^ 128
        !(len = 0) && (s.cpHeld l.asid (v / 2 ^ 64 % 2 ^ 64) len || s.imageHeld l (va + 24) k)

/-- The CSRs of a context as a launch writes them (16 R399; 19 R437). -/
def State.launchContext (s : State) (l : Launch) (t : Nat) : Thread :=
  let x := (s.thread t).fresh
  let refill := s.launchRefill l
  let seed : BitVec 32 := BitVec.ofNat 32 (field (l.dw 4) 31 0) ^^^ BitVec.ofNat 32 t
  let g := l.dw 3
  { x with
    launch := l.num, fn := l.fn, rect := l.rect, asid := l.asid, prio := l.prio, sv := l.sv, mc := 1
    lgrant := ⟨BitVec.ofNat 12 (field g 63 52), BitVec.ofNat 6 (field g 51 46), BitVec.ofNat 7 (field g 45 39), g.getLsbD 38⟩
    ebTe := (l.dw 0).getLsbD 56
    ebRefill := BitVec.ofNat 24 refill
    ebBudget := BitVec.ofNat 32 (min (2 ^ 32 - 1) (64 * refill))
    srseed := if seed = 0 then 1 else seed
    tvec := 0, escratch := 0, bsrd := 0, bswr := 0, bsacc := 0 }

/-- A launch's registers `s1` to `s6` (16 R399). -/
def Launch.args (l : Launch) : List Word := (List.range 6).map (fun i => l.dw (8 + i))

/-- A launch whose image is loaded starts (16 R399). -/
def State.goLive (s : State) (l : Launch) : State :=
  let s3 := s.updLaunch l.num (fun m => { m with phase := .live, progress := s.cycle, loading := none })
  let s4 := (l.rect.cores.flatMap coreThreads).foldl (fun s t => s.setThread t (s.launchContext l t)) s3
  let starts := (List.range l.nthr).map (fun c => (c, l.dw 1)) ++ (if l.dw 2 = 0 then [] else [(15, l.dw 2)])
  l.rect.cores.foldl (fun s k => starts.foldl (fun s p =>
    let t := 16 * k + p.1
    let s5 := s.setRun t 1 0 l.args
    s5.startThread t (s5.thread t) p.2) s) s4

/-- The writes of its image to cluster memory go on; the launch starts with the last. -/
def State.goLoad (s : State) (l : Launch) (ps : List LoadPiece) : State :=
  let r := s.runPieces ps
  if r.2 = [] then r.1.goLive l else r.1.updLaunch l.num (fun m => { m with loading := some r.2 })

/-- LAUNCH_START (16 R399, R400). Every core must be awake (02 R57), and no flip may hold a read of its image. What the image writes to cluster memory goes through the
expanders, and the launch starts once all of it has performed. -/
def execLaunchStart (launch : Nat) (s : State) : Outcome :=
  match s.launch launch with
  | none => .next s
  | some l =>
    if l.phase ≠ .placed || l.rect.cores.any (fun k => (s.core k).gated) ||
        (l.loading.isNone && decide (l.dw 5 ≠ 0) && !s.flips.isEmpty && s.imageHeld l (l.dw 5).toNat 64) then .next s
    else
      match l.loading with
      | some ps => .next (s.goLoad l ps)
      | none =>
        let s1 := if (l.dw 0).getLsbD 58 then s.clearLaunch l.rect else s
        match (if l.dw 5 = 0 then some (s1, []) else s1.loadImage l (l.dw 5).toNat 64) with
        | none => .next (s1.endLaunch launch 4)
        | some (s2, ps) => .next (s2.goLoad l ps)

end Sys2Proof.Machine
end

