-- ==== Sys2Proof/Machine/Preempt.lean ====
section
/-! DEFINITION. Pre-emption: requests, pre-emption points, the save sequence, the forced abort, and restore (18 R430 to R435;
22 R453; 01 R52; 12 R328, R332; 13 R350, R352). -/

namespace Sys2Proof.Machine

/-! ## Requests (22 R453) -/

/-- Bytes of a save block, and between the blocks of an array (18 R432; 22 R453). -/
def blockStride : Nat := 0x12B000

/-- The contexts of a core that a save can concern: all but context 14 (18 R432). -/
def savable : List Nat := [0, 1, 2, 3, 4, 5, 6, 7, 8, 9, 10, 11, 12, 13, 15]

/-- Requests for contexts of core `k`; a context without a thread needs nothing. -/
def State.request (s : State) (cp k block launch : Nat) (cs : List Nat) (quench : Bool) : State :=
  { s with preempts := s.preempts ++ cs.map (fun c =>
      let t := 16 * k + c
      { t := t, launch := launch, block := block, since := s.cycle, cp := cp, quench := quench,
        gone := decide ((s.thread t).run = .free) }) }

/-- Whether a save block lies in device memory (01 R21). -/
def blockLegal (a n : Nat) : Bool := decide (a + n ≤ 0x00C000000000)

/-- The block address and the core of a `kpre` write, if the core belongs to a launch and the blocks lie in device memory. -/
def State.kpre (s : State) (v : Word) : Option (Nat × Nat × Launch) :=
  match (ofCoreField (field v 11 0)) with
  | none => none
  | some k =>
    match ((s.core k).owner).bind s.launch with
    | none => none
    | some l => some (field v 63 12 * 2 ^ 12, k, l)

/-! ## What is written -/

/-- Lines that a slice caches are written back, in order. -/
def State.cleanLines (s : State) : List Nat → State
  | [] => s
  | l :: ls => (s.cleanSlice l).cleanLines ls

/-- Writes doublewords at a physical address, at once at their homes. Nothing of a save block stays dirty in a slice, so that it
survives a reset of the core dies (18 R436; log entry 88). -/
def State.saveWords (s : State) (a : Nat) (ws : List Word) : State :=
  (s.outsideWords a ws).cleanLines ((List.range ws.length).map (fun i => lineOf (a + 8 * i))).dedup

/-- The lines of a save block that have not settled. -/
def State.blockUnsettled (s : State) (block : Nat) : List Nat :=
  (s.dirs.filter (fun p => !p.2.invs.isEmpty && decide (lineOf block ≤ p.1) && decide (p.1 < lineOf (block + blockStride)))).map (·.1)

/-- Whether the bias of a page of a region is being flipped: a write that is new to the page waits (06 R179, R180). -/
def State.regionFlipping (s : State) (a n : Nat) : Bool :=
  s.flips.any (fun f => decide (biasPage a ≤ f.page) && decide (f.page ≤ biasPage (a + n - 1)))

/-- The end of a block's save: the header and, where the launch's last context on the core has been saved, its records; the core then
belongs to no launch, and once every write has settled the command processor is told (18 R432; 22 R453). -/
def State.finishBlock (s : State) (block : Nat) : State :=
  let rs := s.preempts.filter (fun r => decide (r.block = block))
  match rs with
  | [] => s
  | r :: _ =>
    if !rs.all (·.gone) || s.regionFlipping block blockStride then s
    else
      let k := coreOf r.t
      let cl := clusterOf k
      let n := r.launch
      let last := decide ((s.core k).owner = some n) && rs.any (·.saved) &&
        !(coreThreads k).any (fun t => decide ((s.thread t).run ≠ .free) && decide ((s.thread t).launch = n))
      let recs := if last then (s.core k).deque.map (·.task) ++ ((s.cluster cl).pool.filter (fun p => p.1 = k)).map (·.2) else []
      let mask := ((rs.filter (·.saved)).map (fun r => 2 ^ ctxOf r.t)).sum
      let dw0 : Word := BitVec.ofNat 64 (n * 2 ^ 48 + mask * 2 ^ 16 + recs.length)
      let s1 := s.saveWords block ([dw0, BitVec.ofNat 64 (coreField k)] ++ List.replicate 510 0)
      let s2 := s1.saveWords (block + 0x119000) (recs.flatMap (fun r => (List.range 16).map (fun i => r.getD i 0)))
      let s3 := if last then
          (s2.updCore k (fun c => { c with deque := [], owner := none })).updCluster cl (fun c =>
            { c with pool := c.pool.filter (fun p => p.1 ≠ k) })
        else s2
      let s4 : State := { s3 with preempts := s3.preempts.filter (fun r => r.block ≠ block), pushed := s3.pushed.filter (fun b => b ≠ block) }
      (s4.defer [⟨.save block, s4.blockUnsettled block, .irq r.cp (coreField k)⟩]).endIfOver n

/-- The blocks whose requests are over and that a flip has held up end (06 R179). -/
def State.finishBlocks (s : State) : State :=
  if s.preempts = [] then s else ((s.preempts.map (·.block)).dedup).foldl (fun s b => s.finishBlock b) s

/-- The requests for a thread are over. -/
def State.requestDone (s : State) (t : Nat) (saved : Bool) : State :=
  let mine := s.preempts.filter (fun r => decide (r.t = t) && !r.gone)
  let s1 : State := { s with preempts := s.preempts.map (fun r =>
    if decide (r.t = t) && !r.gone then { r with gone := true, saved := saved && decide (mine.head? = some r) } else r) }
  mine.foldl (fun s r => s.finishBlock r.block) s1

/-- PREEMPT_CONTEXT (22 R453): KIND 0b00. -/
def execPreemptContext (cp : Nat) (v : BitVec 64) (s : State) : Outcome :=
  let w := (s.cp cp).cwsel
  match s.kpre v with
  | some (a, k, l) =>
    let c := field w 59 56
    if field w 63 62 ≠ 0 || decide (c = 14) || !blockLegal a blockStride then .next s
    else s.asMachine cp (.next ((s.request cp k a l.num [c] false).finishBlock a))
  | none => .next s

/-- PREEMPT_CORE (22 R453): KIND 0b01. -/
def execPreemptCore (cp : Nat) (v : BitVec 64) (s : State) : Outcome :=
  match s.kpre v with
  | some (a, k, l) =>
    if field (s.cp cp).cwsel 63 62 ≠ 1 || !blockLegal a blockStride then .next s
    else s.asMachine cp (.next ((s.request cp k a l.num savable false).finishBlock a))
  | none => .next s

/-- PREEMPT_LAUNCH (22 R453): KIND 0b10, an array of blocks. -/
def execPreemptLaunch (cp : Nat) (v : BitVec 64) (s : State) : Outcome :=
  match s.kpre v with
  | some (a, _, l) =>
    let r := l.rect
    if field (s.cp cp).cwsel 63 62 ≠ 2 || !blockLegal a (r.w * r.h * blockStride) then .next s
    else s.asMachine cp (.next (r.cores.foldl (fun s k =>
      let b := a + ((coreY k - r.y0) * r.w + (coreX k - r.x0)) * blockStride
      (s.request cp k b l.num savable false).finishBlock b) s))
  | none => .next s

/-! ## Pre-emption points (18 R430) -/

/-- The pre-emption drain, at a point that is no commit point: a commit drain that releases children and begins a region at
the saved PC; the thread then waits for its save. -/
def State.drainAt (s : State) (t : Nat) (pc : Word) (pfx : Bool) : State :=
  let s1 := (s.drainRsb t).updThread t (fun x =>
    { ({ x with pfx := pfx } : Thread).beginRegion pc with pc := pc, stage := none, boundary := true })
  ((s1.releaseChildren t).dropTcons t).stop t (.waiting .preempt)

/-- An MMA stopped between steps: its tiles' counts are lowered and `mprog` holds the steps done (13 R350). -/
def State.stopMma (s : State) (t : Nat) : Option State :=
  let k := coreOf t
  match (s.core k).jobs.find? (fun j => j.t = t) with
  | some j =>
    match j.kind with
    | .mma ta tb _ _ _ _ _ _ =>
      let s1 := ((s.dropJob k j).tileConsumed k ta).tileConsumed k tb
      some ((s1.updThread t (fun x => { x with mprogV := true, mprogSteps := j.steps })).drainAt t (s.thread t).pc j.pfx)
    | _ => none
  | none => none

/-- A thread at a barrier whose arrivals a pre-emption withdraws, which still count in this cycle (12 R328). -/
def State.withdrawArrivals (s : State) (t : Nat) : State :=
  let s1 := s.withdraw t
  { s1 with clusters := s1.clusters.map (fun p =>
      let mine := (s.cluster p.1).arrivals.filter (fun a => decide (a.t = t))
      if mine = [] then p
      else (p.1, { p.2 with withdrawn := s.withdrawnNow p.1 ++ mine, withdrawnAt := s.cycle })) }

/-- A thread parked on a translation fault leaves its record, to which its context, saved in a block, stays attached (01 R52). -/
def Waiter.toSaved (t n block : Nat) (w : Waiter) : Waiter :=
  match w with
  | .thread u va => if u = t then .saved u n block va else w
  | _ => w

/-- A holder cannot stop in a cycle in which a registration at its table has been taken: its release comes before an equal
arrival of the same cycle (18 R435). -/
def State.holderBusy (s : State) (t : Nat) : Bool :=
  match (s.thread t).run with
  | .parked (.holder weld u _) => s.tieTaken (.meet weld u)
  | _ => false

/-- A thread at a pre-emption point, stopped there with its pre-emption drain taken, to be saved in a block; none where it is at
none. -/
def State.atPoint (s : State) (t block : Nat) : Option State :=
  let x := s.thread t
  let here := fun (s : State) => s.drainAt t x.pc x.pfx
  match x.run with
  | .ready => if x.boundary && x.stage = none then some (s.stop t (.waiting .preempt)) else none
  | .halted => some ((s.updThread t (fun y => { y with pc := y.pc + 4 })).stop t (.waiting .preempt))
  | .parked (.holder weld u e) => some ((s.releaseHolder weld u e).stop t (.waiting .preempt))
  | .parked .barrier => some (here (s.withdrawArrivals t))
  | .parked (.waitw _) => some ((here s).updThread t (fun y => { y with atWaitw := true }))
  | .parked .mmac =>
    if (s.core (coreOf t)).jobs.any (fun j => j.t = t) || (s.cluster (clusterOf (coreOf t))).mmacs.any (fun a => a.t = t && a.started)
    then none else some (here (s.leaveMmac t))
  | .parked .fault =>
    some ((State.drainAt { s with clusters := s.clusters.map (fun c => (c.1, { c.2 with faults := c.2.faults.map (fun f =>
      { f with waiters := f.waiters.map (Waiter.toSaved t x.launch block) }) })) } t x.regpc x.pfx))
  | .parked .ring => some ((here s).updThread t (fun y => { y with atWaitw := true }))
  | .waiting .drained => match x.stage with
    | some (.meet _ _ _ _) => some (here s)
    | some (.barrier _) => some (here s)
    | _ => none
  | .waiting (.channel _ _) => some (here (s.withdraw t))
  | .waiting (.channelRecord _ _) => some (here s)
  | .waiting (.completion _) => some (here s)
  | .waiting (.tileSettled _) => some (here s)
  | .waiting (.tileMat _) => some (here s)
  | .waiting .align => some (here ((s.withdraw t).releaseAlign (clusterOf (coreOf t))))
  | .waiting .budget => some (here s)
  | .waiting (.twin _) => some (here s)
  | .waiting .matrix => s.stopMma t
  | _ => none

/-! ## The context image (18 R433) -/

/-- The state word of an image. DESIGN CHOICE: a thread that is parked with its record not yet posted (01 R49) is saved with FWAIT
0 and SEQ 0, so that it runs on from `regpc` and faults again (log entry 93). -/
def State.imageState (s : State) (t : Nat) : Word :=
  let x := s.thread t
  let c := s.core (coreOf t)
  let own := fun (a : Acc) => decide (a.owner = some (ctxOf t))
  BitVec.ofNat 64 ((x.faultSeq.getD 0) % 2 ^ 16 * 2 ^ 16 + (if x.hflag then 16 else 0) + (if x.cancel then 8 else 0) +
    (if x.faultSeq.isSome then 4 else 0) + (if own c.acc1 then 2 else 0) + (if own c.acc0 then 1 else 0))

/-- The two words of handle `j`. -/
def State.imageHandle (s : State) (t j : Nat) : List Word :=
  match NMap.get none (s.thread t).handles j with
  | none => [0, 0]
  | some e =>
    let x := s.tile (coreOf t) e
    [x.addr, BitVec.ofNat 64 (2 ^ 63 + x.state.code * 2 ^ 61 + field x.shape 28 0)]

/-- The CSRs of an image, from offset 0x910 on. -/
def Thread.imageCsrs (x : Thread) : List Word :=
  [x.pc, x.regpc, x.status, BitVec.ofNat 64 x.mc, x.srseed.setWidth 64, x.fmtpend.setWidth 64, x.bsrd, x.bswr,
    x.bsacc.setWidth 64, x.mprog, x.tvec, x.epc, x.estatus, x.ecause.setWidth 64, x.escratch, x.fadr, x.fcause.setWidth 64,
    x.ebudget, x.lgrant.word]

/-- The first 4 KiB of an image. -/
def State.imageHead (s : State) (t : Nat) : List Word :=
  let x := s.thread t
  let ks := (List.range 8).map (fun i => (x.kval i).toNat)
  (List.range 32).map (fun i => x.sval i) ++
    (List.range 32).flatMap (fun i => natToWords 8 (x.vval i).toNat) ++
    natToWords 2 (ks.foldr (fun v acc => v + 2 ^ 16 * acc) 0) ++
    x.imageCsrs ++ List.replicate 11 0 ++ (List.range 16).flatMap (fun j => s.imageHandle t j) ++ [s.imageState t] ++
    List.replicate 159 0

/-- The contents of an accumulator, row-major, and its mask plane. -/
def Acc.words (a : Acc) : List Word :=
  (List.range 4096).map (fun i => (a.elem (2 * i + 1)).setWidth 64 <<< 32 ||| (a.elem (2 * i)).setWidth 64)
def Acc.maskWords (a : Acc) : List Word := (List.range 64).flatMap (fun i => natToWords 2 (a.row i).toNat)

/-- Writes the image of a context at `a`; an accumulator it does not own leaves its area as it is. -/
def State.writeImage (s : State) (t a : Nat) : State :=
  let c := s.core (coreOf t)
  let own := fun (x : Acc) => decide (x.owner = some (ctxOf t))
  let area := fun (s : State) (x : Acc) (data mask : Nat) =>
    if own x then (s.saveWords (a + data) x.words).saveWords (a + mask) x.maskWords else s
  area (area (s.saveWords a (s.imageHead t)) c.acc0 0x1000 0x11000) c.acc1 0x9000 0x11400

/-- No tile bound by the context is filling or draining or has an operation pending (18 R432). -/
def State.tilesQuiet (s : State) (t : Nat) : Bool :=
  (s.thread t).handles.all (fun p => match p.2 with
    | some e =>
      let x := s.tile (coreOf t) e
      (x.state = .ready || x.state = .empty) && x.op = .none && x.filler = none
    | none => true)

/-- Whether an entry is that of context `t` as launch `n` had it. -/
def SavedCtx.is (c : SavedCtx) (t n : Nat) : Bool := decide (c.t = t) && decide (c.launch = n)
/-- What is kept of a context beside its image, one entry for each image. -/
def State.saveEntry (s : State) (e : SavedCtx) : State :=
  { s with saved := s.saved.filter (fun c => !(c.is e.t e.launch && decide (c.block = e.block))) ++ [e] }
/-- The entry of the image of context `t` of launch `n` in a block; one whose image has been moved is found by context and launch
(log entry 94). -/
def State.savedEntry (s : State) (t n block : Nat) : Option SavedCtx :=
  match s.saved.find? (fun c => c.is t n && decide (c.block = block)) with
  | some c => some c
  | none => s.saved.find? (fun c => c.is t n)

/-- The save of one stopped context (18 R432): its image, its handles and accumulators given up, its context freed. -/
def State.saveContext (s : State) (t block : Nat) : State :=
  let x := s.thread t
  let k := coreOf t
  let s1 := (s.writeImage t (block + 0x1000 + ctxOf t * 0x11800)).dropTcons t
  let s2 := ((s1.dropHandles k x.handles).giveUpAccs t).updCore k (fun c => c.leave t)
  (s2.updThread t Thread.emptied).saveEntry ⟨t, x.launch, block, x.atWaitw, x.task, x.prio⟩

/-- PREEMPTION_SAVE (18 R430, R432): a thread at a pre-emption point stops there; in a later cycle, once it is Drained and its
tiles are quiet, its image is written and its context freed. A context that has become free is not saved. -/
def execPreemptionSave (t : Nat) (s : State) : Outcome :=
  match s.preempts.find? (fun r => decide (r.t = t) && !r.gone) with
  | none => .next s
  | some r =>
    let x := s.thread t
    if x.run = .free || decide (x.launch ≠ r.launch) then .next (s.requestDone t false)
    else if x.run = .waiting .preempt then
      if x.releasing ≠ [] then .next (s.placeChildren t x.releasing)
      else if s.tieTaken (.stopped t) then .next s
      else if x.drained && s.tilesQuiet t && !s.regionFlipping r.block blockStride then .next ((s.saveContext t r.block).requestDone t true)
      else .next s
    else if s.holderBusy t then .next s
    else match s.atPoint t r.block with
      | some s1 => .next (s1.tie (.stopped t) 0)
      | none => .next s

/-! ## The limit (18 R431) -/

/-- An atomic of the thread has issued and its REPLY is still to come (05 R143), or an MSCALE has, whose effect on its accumulator
no abort undoes (18 R429). -/
def Thread.inAtomic (x : Thread) : Bool :=
  decide (x.run = .waiting .reply) && match x.inflight with
    | some a => (match a.finish with
      | .atomic _ _ _ => true
      | .mscale _ => true
      | _ => false)
    | none => false

/-- A commit point's second half, an atomic, an MSCALE, a job of the sequencer or an MMAC that has started is under way: it ends by itself,
and the commit point wins (18 R435; 13 R352). -/
def State.midway (s : State) (t : Nat) : Bool :=
  let x := s.thread t
  x.inAtomic || (s.core (coreOf t)).jobs.any (fun j => j.t = t) ||
    (s.cluster (clusterOf (coreOf t))).mmacs.any (fun a => decide (a.t = t) && a.started) || decide (x.run = .waiting .push) ||
    match x.stage with
    | some (.copy _ _ _) => false
    | some _ => true
    | none => false

/-- The forced abort: the region is aborted, the thread is saved at `regpc` (18 R431). -/
def State.forceAbort (s : State) (t : Nat) : State :=
  let s1 := (s.withdraw t).abortRegion t
  (s1.updThread t (fun x => { x.beginRegion x.pc with boundary := true })).stop t (.waiting .preempt)

/-- PREEMPTION_LIMIT_EXPIRY (18 R431, R436): a thread that has reached no point is forced; a pinned one goes on, with a
notice; one that level 2 asked for is ended after a second limit. -/
def execPreemptionLimitExpiry (t : Nat) (s : State) : Outcome :=
  let x := s.thread t
  let mine := s.preempts.filter (fun r => decide (r.t = t) && !r.gone && decide (r.launch = x.launch))
  let lim := fun (r : Preempt) => (s.cp r.cp).prelim
  match mine with
  | [] => .next s
  | r :: _ =>
    if x.run = .free then .next s
    else if mine.any (fun q => q.quench && decide (q.since + 2 * lim q ≤ s.cycle)) then
      .next ((s.endContexts r.launch [t]).requestDone t false)
    else if decide (s.cycle < r.since + lim r) then .next s
    else if x.run = .waiting .preempt || s.midway t then .next s
    else match s.atPoint t r.block with
      | some _ => .next s
      | none =>
        if !x.pin then .next (s.forceAbort t)
        else if r.noticed then .next s
        else
          let s1 : State := { s with preempts := s.preempts.map (fun q => if q = r then { q with noticed := true } else q) }
          .next (s1.notice 0x01 1 x.fn x.launch (BitVec.ofNat 64 (clusterOf (coreOf t))) 3 0)

/-! ## Restore (18 R434) -/

/-- The registers and CSRs of an image at `a` (18 R433, R434): empty taint; a region begins at the saved PC. DESIGN CHOICE: an
`srseed` of 0 is restored as 0 (03 R95; log entry 95). -/
def State.restoreRegs (s : State) (t a : Nat) (l : Launch) (prio : Nat) (task : Bool) : State :=
  let w := fun (i : Nat) => s.readWord (a + 8 * i)
  let csr := fun (i : Nat) => w (0x122 + i)
  let st := csr 2
  let x := (s.thread t).fresh
  let eb := csr 17
  let y0 : Thread := { x with launch := l.num, fn := l.fn, rect := l.rect, asid := l.asid, prio := prio, task := task }
  let y1 := [(0x00B, eb), (0x00C, csr 9), (0x00E, csr 15), (0x00F, csr 16), (0x010, csr 6), (0x011, csr 7), (0x012, csr 8),
    (0x020, csr 10), (0x021, csr 11), (0x022, csr 12), (0x023, csr 13), (0x024, csr 14), (0x007, csr 5)].foldl
      (fun (y : Thread) p => y.writePlain p.1 p.2) y0
  let g := csr 18
  let y2 : Thread := { y1 with
    mc := (csr 3).toNat, srseed := (csr 4).setWidth 32, sv := st.getLsbD 0, pfx := st.getLsbD 8
    lgrant := ⟨BitVec.ofNat 12 (field g 63 52), BitVec.ofNat 6 (field g 51 46), BitVec.ofNat 7 (field g 45 39), g.getLsbD 38⟩ }
  let s1 := (s.setThread t y2).setRun t 1 0 ((List.range 31).map (fun i => w (1 + i)))
  let s2 := (List.range 32).foldl (fun s i =>
    s.setV t i (BitVec.ofNat 512 (wordsToNat ((List.range 8).map (fun j => w (32 + 8 * i + j))))) 0) s1
  (List.range 8).foldl (fun s i => s.setK t i ((w (0x120 + i / 4)).extractLsb' (16 * (i % 4)) 16) 0) s2

/-- Rebinds the handles of an image, each as by TDEF (18 R434, 13 R339); none where the table has no entry left. -/
def State.restoreHandles (s : State) (t launch a : Nat) : List Nat → Option State
  | [] => some s
  | j :: js =>
    let addr := s.readWord (a + 0xA00 + 16 * j)
    let d := s.readWord (a + 0xA00 + 16 * j + 8)
    let k := coreOf t
    if !d.getLsbD 63 then s.restoreHandles t launch a js
    else
      let shape : Word := BitVec.ofNat 64 (field d 28 0)
      match s.tileFor k launch addr shape with
      | none => none
      | some (e, old) =>
        let s1 := if old then s.updTile k e (fun x => { x with refs := x.refs + 1 })
          else s.setTile k e { live := true, launch := launch, addr := addr, shape := shape, refs := 1,
                               state := if field d 62 61 = 2 then .ready else .empty }
        (s1.updThread t (fun x => { x with handles := NMap.set none x.handles j (some e) })).restoreHandles t launch a js

/-- The accumulator `one` of an image, taken again with its contents and mask. -/
def State.restoreAcc (s : State) (t a : Nat) (one : Bool) : State :=
  let data := a + (if one then 0x9000 else 0x1000)
  let mask := a + (if one then 0x11400 else 0x11000)
  s.updAcc (coreOf t) one (fun _ =>
    ({ mask := (List.range 64).foldl (fun m i => NMap.set fullRow m i (BitVec.ofNat 128 (s.read (mask + 16 * i) 16))) [],
       owner := some (ctxOf t) } : Acc).fill (fun n => BitVec.ofNat 32 (s.read (data + 4 * n) 4)))

/-- Whether a core's deque and its cluster's pool have room for `n` records more (16 R411). -/
def State.recordRoom (s : State) (k n : Nat) : Bool :=
  decide (n ≤ (64 - (s.core k).deque.length) + (512 - (s.cluster (clusterOf k)).pool.length))

/-- The saved records go back to the deque in saved order, those beyond its 64 to the pool (18 R434, 16 R411); the restores of a
block's other contexts then find them taken (log entry 89). -/
def State.restoreRecords (s0 : State) (k block n : Nat) : State :=
  let s : State := { s0 with pushed := block :: s0.pushed }
  let rs := (List.range n).map (fun i => s.readWords (block + 0x119000 + 128 * i) 16)
  let room := 64 - (s.core k).deque.length
  (s.updCore k (fun c => { c with deque := c.deque ++ (rs.take room).map (fun r => ⟨r, s.cycle⟩) })).updCluster (clusterOf k) (fun c =>
    { c with pool := c.pool ++ (rs.drop room).map (fun r => (k, r)) })

/-- Whether a waiter is the image of context `t` of launch `n` in `block`, or, with none, in any block. -/
def Waiter.isImage (t n : Nat) (block : Option Nat) (w : Waiter) : Bool :=
  match w with
  | .saved u m b _ => decide (u = t) && decide (m = n) && (match block with
    | some x => decide (b = x)
    | none => true)
  | _ => false

/-- The first of some waiters that `p` selects is the running thread again. -/
def Waiter.resumeFirst (p : Waiter → Bool) : List Waiter → List Waiter
  | [] => []
  | w :: ws =>
    if p w then (match w with
      | .saved u _ _ va => .thread u va
      | x => x) :: ws
    else w :: Waiter.resumeFirst p ws

/-- A restored thread that was parked on a translation fault, its image in `block` (01 R52): parked again while its record is
pending; an answer that has come is applied. Its own image's answer or place on the record is the one taken; an image that has been
moved is found by context and launch (log entry 94). -/
def State.resumeFault (s : State) (t seq block : Nat) : State :=
  let cl := clusterOf (coreOf t)
  let n := (s.thread t).launch
  let mine := fun (a : Answer) => decide (a.seq = seq) && decide (a.t = t) && decide (a.launch = n)
  let answer := match (s.cluster cl).answers.find? (fun a => mine a && decide (a.block = block)) with
    | some a => some a
    | none => (s.cluster cl).answers.find? mine
  let waits := fun (b : Option Nat) => (s.cluster cl).faults.any (fun f => decide (f.seq = seq) && f.waiters.any (Waiter.isImage t n b))
  let park := fun (b : Option Nat) =>
    ((s.updCluster cl (fun c => { c with faults := c.faults.map (fun f =>
      if f.seq = seq then { f with waiters := Waiter.resumeFirst (Waiter.isImage t n b) f.waiters } else f) })).updThread t (fun x =>
        { x with faultSeq := some seq })).stop t (.parked .fault)
  if waits (some block) then park (some block)
  else match answer with
  | some a =>
    let s1 := s.updCluster cl (fun c => { c with answers := c.answers.erase a })
    if a.kill then s1.fatalTrap t a.cause a.va else s1
  | none => if waits none then park none else s

/-- CONTEXT_RESTORE (18 R434): slot `c` of the block at `addr`, to core `k` and context `c` it was saved from. -/
def execContextRestore (addr k c : Nat) (s : State) : Outcome :=
  let a := addr + 0x1000 + c * 0x11800
  let t := 16 * k + c
  let dw0 := s.readWord addr
  let n := field dw0 63 48
  let ok := decide (k < numCores) && savable.contains c && blockLegal addr blockStride && decide (addr % 4096 = 0) &&
    dw0.getLsbD (16 + c) && decide (field (s.readWord (addr + 8)) 11 0 = coreField k) && decide ((s.thread t).run = .free)
  match s.launch n with
  | none => .next s
  | some l =>
    let owner := (s.core k).owner
    let st := s.readWord (a + 0xB00)
    let wants := fun (one : Bool) => st.getLsbD (if one then 1 else 0)
    let held := fun (one : Bool) => wants one && ((s.core k).acc one).owner.isSome
    let n0 := field dw0 15 0
    let back := n0 ≠ 0 && !s.pushed.contains addr
    if !ok || s.heldAt addr blockStride || decide (l.phase ≠ .live) || (back && !s.recordRoom k n0) || !(owner = none || owner = some n) || held false || held true then .next s
    else
      let rest := s.savedEntry t n addr
      let prio := (rest.map (·.prio)).getD l.prio
      let task := (rest.map (·.task)).getD false
      let s1 := s.restoreRegs t a l prio task
      match s1.restoreHandles t n a (List.range 16) with
      | none => .next s
      | some s2 =>
        let s3 := if wants false then s2.restoreAcc t a false else s2
        let s4 := if wants true then s3.restoreAcc t a true else s3
        let s5 := if back then s4.restoreRecords k addr n0 else s4
        let pc := s.readWord (a + 0x910)
        let s6 : State := { s5 with saved := match rest with
          | some e => s5.saved.erase e
          | none => s5.saved }
        let s7 := (s6.updCore k (fun y => { y with owner := some n })).startThread t (s6.thread t) pc
        let s8 := s7.updThread t (fun x => { x with
          pc := pc, regpc := s.readWord (a + 0x918) &&& ~~~1#64, pin := (s.readWord (a + 0x920)).getLsbD 10, hflag := st.getLsbD 4
          cancel := st.getLsbD 3 || l.reached.contains k })
        .next (if st.getLsbD 2 then s8.resumeFault t (field st 31 16) addr else s8)

end Sys2Proof.Machine
end

