-- ==== Sys2Proof/Machine/Service.lean ====
section
/-! DEFINITION. Boot, live replacement, the mailbox, the watchdog and the quench ladder, attestation (22 R444 to R453). -/

namespace Sys2Proof.Machine

/-! ## The quench ladder (18 R436; 22 R448, R449, R453) -/

/-- The clusters that hold a core of a rectangle. -/
def Rect.clusters (r : Rect) : List Nat := (r.cores.map clusterOf).dedup

/-- Level 2: every context of some cores of a launch is pre-empted into the watchdog save area; without one they are ended
(22 R453). A core whose level 2 is in progress absorbs it (22 R449). -/
def State.quenchCores (s : State) (l : Launch) (ks : List Nat) : State :=
  let area := (s.cp l.cp).wdsave
  if area = 0 || !blockLegal area (numCores * blockStride) then
    s.endContexts l.num ((ks.flatMap coreThreads).filter (fun t =>
      decide ((s.thread t).run ≠ .free) && decide ((s.thread t).launch = l.num)))
  else
    let fresh := ks.filter (fun k => !s.preempts.any (fun r => r.quench && !r.gone && decide (coreOf r.t = k)))
    fresh.foldl (fun s k => (s.request l.cp k (area + k * blockStride) l.num savable true).finishBlock (area + k * blockStride)) s

/-- A level taken for a launch: `reason` as in 22 R452. -/
def State.quenchFor (s : State) (l : Launch) (level reason : Nat) : State :=
  let s1 := s.updLaunch l.num (fun m => { m with level := max m.level level })
  match level with
  | 1 => s1.notice 0x01 1 l.fn l.num 0xFF (BitVec.ofNat 64 reason) 0
  | 2 => (s1.notice 0x01 2 l.fn l.num 0xFF (BitVec.ofNat 64 reason) 0).quenchCores l l.rect.cores
  | 3 => l.rect.clusters.foldl (fun s cl => s.quenchCluster cl reason l.fn l.num) s1
  | _ => s1.quenchDevice reason l.fn l.num

/-- No lower level has been taken in this cycle: of two that one cycle brings the higher goes first, and absorbs the other where
they touch the same work (22 R449). -/
def State.quenchOk (s : State) (level : Nat) : Bool := s.tieOk .quench (4 - level)
/-- A level is taken in this cycle. -/
def State.quenching (s : State) (level : Nat) : State := s.tie .quench (4 - level)

/-- The level in progress for a launch (22 R449). -/
def State.launchLevel (s : State) (l : Launch) : Nat := max l.level s.service.quench
/-- The level in progress for a cluster: level 2 while it pre-empts, 3 and 4 till recovery is done (22 R449). -/
def State.clusterLevel (s : State) (cl : Nat) : Nat :=
  max (max (s.cluster cl).quench s.service.quench)
    (if s.preempts.any (fun r => r.quench && !r.gone && decide (clusterOf (coreOf r.t) = cl)) then 2 else 0)

/-- PROGRESS_TIMEOUT (22 R448): a live launch without a progress event for `kprog` units. -/
def execProgressTimeout (launch : Nat) (s : State) : Outcome :=
  match s.launch launch with
  | some l =>
    if l.phase = .live && l.level = 0 && decide (l.progress + (s.cp l.cp).prog * 4096 ≤ s.cycle) then
      .next ((s.quenching 1).quenchFor l 1 0)
    else .next s
  | none => .next s

/-- ESCALATION_TIMEOUT (22 R448): each further `kesc` units raise the level, up to MAXLVL. -/
def execEscalationTimeout (launch : Nat) (s : State) : Outcome :=
  match s.launch launch with
  | some l =>
    let p := s.cp l.cp
    if l.phase = .live && decide (1 ≤ l.level) && decide (l.level < p.maxLvl) &&
        decide (l.progress + p.prog * 4096 + l.level * p.esc * 4096 ≤ s.cycle) && s.quenchOk (l.level + 1) then
      .next ((s.quenching (l.level + 1)).quenchFor l (l.level + 1) 0)
    else .next s
  | none => .next s

/-! ## Heartbeat and restarts (22 R446, R448) -/

/-- The pending fault records that a command processor held are posted again to the one that serves them now (22 R446). -/
def State.repost (s : State) (old : Nat → Nat) : State :=
  s.clusters.foldl (fun s c => c.2.faults.foldl (fun s f =>
    let p := s.server f.fn
    if p = old f.fn then s else s.ringRecord p [f.w0, f.va, f.w2, f.w3]) s) s

/-- A command processor hands its work to its successor. -/
def State.handOver (s : State) (p : Nat) : State :=
  let s1 := s.updCp p (fun x => { x with running := false })
  s1.repost (fun fn => s.server fn)

/-- A command processor starts an image: its core is as after a reset (22 R446, R448). DESIGN CHOICE: the CSRs of 22 R443, which hold
its work and its settings, stay, and so do save-complete notices that it has not taken (log entry 104). -/
def Cp.restarted (x : Cp) (now : Nat) : Cp :=
  { x with x := [], f := [], pc := 0, smode := false, csrs := {}, reserved := none, running := true, restart := false, beat := now }

/-- It restarts into the image and takes its work back. -/
def State.takeBack (s : State) (p : Nat) : State :=
  let s1 := s.updCp p (fun x => x.restarted s.cycle)
  s1.repost (fun fn => s.server fn)

/-- HEARTBEAT (22 R448). -/
def execHeartbeat (cp : Nat) (s : State) : Outcome :=
  if cp < 4 then s.asMachine cp (.next (s.updCp cp (fun p => { p with beat := s.cycle }))) else .next s

/-- HEARTBEAT_TIMEOUT (22 R448): the I/O die restarts a silent command processor; its work is handed over meanwhile. -/
def execHeartbeatTimeout (cp : Nat) (s : State) : Outcome :=
  let p := s.cp cp
  if decide (cp < 4) && p.running && decide (p.beat + 2 ^ 24 ≤ s.cycle) then
    .next (((s.handOver cp).updCp cp (fun x => { x with restart := true })).notice 0x06 0 0 0 (BitVec.ofNat 64 cp) 0 0)
  else .next s

/-! ## Firmware images (22 R444, R446) -/

/-- The number that `n` bytes of an image hold from offset `off`. -/
def imageNum (img : List Byte) (off n : Nat) : Nat := ((img.drop off).take n).foldr (fun b acc => b.toNat + 256 * acc) 0

/-- SVN and the body's length in the header. -/
def imageSvn (img : List Byte) : Nat := imageNum img 8 4
def imageBody (img : List Byte) : List Byte := (img.drop 4096).take (imageNum img 12 4)
/-- The digest D: SHA-384 over header bytes 0x000 to 0x0FF and the body. -/
def imageDigest (img : List Byte) : List Byte := sha384 (img.take 0x100 ++ imageBody img)
/-- The ECDSA P-384 signature, and the LMS signature, whose 1,772 bytes follow from its parameters (log entry 91). -/
def imageEcdsa (img : List Byte) : List Byte := (img.drop 0x100).take 96
def imageLms (img : List Byte) : List Byte := (img.drop 0x200).take 1772

/-- Whether a list of bytes is a firmware image: a header of 4 KiB with its magic, and the body whose length it gives (log entry
91). -/
def imageFormed (img : List Byte) : Bool :=
  decide (imageNum img 0 4 = 0x4B544831) && decide (4096 + imageNum img 12 4 ≤ img.length) && decide (4096 + imageNum img 12 4 ≤ 2 ^ 24)

/-- Whether both signatures of an image verify over D, under public keys whose hashes are fused (22 R444; log entry 13). -/
def imageSigned (img : List Byte) : Bool :=
  let k1 := Config.ecdsaKey img
  let k2 := Config.lmsKey img
  decide (sha384 k1 = Config.ecdsaFuse) && decide (sha384 k2 = Config.lmsFuse) &&
    ecdsaP384 k1 (imageDigest img) (imageEcdsa img) && lmsVerify k2 (imageDigest img) (imageLms img)

/-- Whether an image is valid under a fused SVN: both signatures verify, and its SVN is not below (22 R444). -/
def imageValid (img : List Byte) (fused : Nat) : Bool := imageFormed img && imageSigned img && decide (fused ≤ imageSvn img)

/-- Whether an image asks for its SVN to be fused: bit 0 at offset 16 (22 R446). -/
def imageRaises (img : List Byte) : Bool := decide (imageNum img 16 1 % 2 = 1)

/-- A mailbox command ends (22 R451). -/
def State.mailboxDone (s : State) (result : Nat) : State :=
  { s with service := { s.service with mbBusy := false, mbResult := result } }

/-- The notice of an update or image load that has ended (22 R451, R452). -/
def State.imageNotice (s : State) (result : Nat) : State :=
  s.notice 0x07 0 0 0 (BitVec.ofNat 64 result) (BitVec.ofNat 64 (imageSvn s.service.running)) 0

/-- The end of an update: the store is written and checked, and then the fused SVN may rise (22 R446). -/
def State.finishUpdate (s : State) : State :=
  let v := s.service
  let img := v.newImage
  let fused := if imageValid img v.fused && imageRaises img then imageSvn img else v.fused
  State.imageNotice { s with service := { v with store := img, running := img, update := none, newImage := [], fused := fused, booted := true } } 0

/-- LIVE_REPLACEMENT_RESTART (22 R446, R448): a command processor hands its work over and restarts, or has restarted and takes
its work back; in an update they go in the order 3, 2, 1, 0. -/
def execLiveReplacementRestart (cp : Nat) (s : State) : Outcome :=
  let p := s.cp cp
  if 4 ≤ cp then .next s
  else if p.restart then .next (s.takeBack cp)
  else match s.service.update with
    | some n =>
      if cp ≠ 3 - n then .next s
      else if p.running then .next (s.handOver cp)
      else
        let s1 := s.takeBack cp
        if n + 1 < 4 then .next { s1 with service := { s1.service with update := some (n + 1) } } else .next s1.finishUpdate
    | none => .next s

/-! ## The mailbox (22 R451) -/

/-- The mailbox runs command `c`. -/
def State.mailboxRuns (s : State) (c : Nat) : Bool := s.service.mbBusy && decide (s.service.mbNow = c)

/-- The image that the arguments name in host memory, or none where it cannot be fetched: 4 KiB aligned, at most 16 MiB, and every
line within reach of the device (01 R37). -/
def State.fetchImage (s : State) : Option (List Byte) :=
  let a := s.service.mbArg0.toNat
  let n := s.service.mbArg1.toNat
  if a % 4096 ≠ 0 || decide (2 ^ 47 < a + n) || decide (n < 4096) || decide (2 ^ 24 < n) ||
      s.lostLines.any (fun l => decide (lineOf (locHost a) ≤ l) && decide (l < lineOf (locHost (a + n + 127)))) then none
  else some ((List.range n).map (fun i => s.byte (locHost (a + i))))

/-- MAILBOX_UPDATE (22 R446, R451): the command is over once its image has been checked, and the update runs on (log entry
51). -/
def execMailboxUpdate (s : State) : Outcome :=
  let fail := fun (r : Nat) => (((s.mailboxDone r).imageNotice r).notice 0x09 0 0 0 (BitVec.ofNat 64 r) 0 0)
  if !s.mailboxRuns 1 then .next s
  else if s.service.update.isSome then .next (fail 2)
  else match s.fetchImage with
    | none => .next (fail 3)
    | some img =>
      if imageValid img s.service.fused then
        .next (State.mailboxDone { s with service := { s.service with update := some 0, newImage := img } } 0)
      else .next (fail 1)

/-- Level 2 for a cluster: the contexts of its cores, launch by launch. -/
def State.quenchContexts (s : State) (cl : Nat) : State :=
  (((clusterCores cl).filterMap (fun k => (s.core k).owner)).dedup).foldl (fun s n => match s.launch n with
    | some l => s.quenchCores l ((clusterCores cl).filter (fun k => decide ((s.core k).owner = some n)))
    | none => s) s

/-- A level taken for a cluster. -/
def State.quenchAt (s : State) (cl level : Nat) : State :=
  match level with
  | 1 => s.notice 0x01 1 0 0 (BitVec.ofNat 64 cl) 2 0
  | 2 => (s.notice 0x01 2 0 0 (BitVec.ofNat 64 cl) 2 0).quenchContexts cl
  | 3 => s.quenchCluster cl 2 0 0
  | _ => s.quenchDevice 2 0 0

/-- MAILBOX_QUENCH (22 R449, R451). A request at or below the level in progress is absorbed, and so is one for a launch that a
level of this cycle has ended. -/
def execMailboxQuench (s : State) : Outcome :=
  let a := s.service.mbArg0
  let b := s.service.mbArg1
  let level := field a 2 0
  let bad := s.mailboxDone 4
  let ok := s.mailboxDone 0
  let go := ok.quenching level
  if !s.mailboxRuns 2 then .next s
  else if level = 0 || decide (4 < level) || decide (a.toNat / 2 ^ 6 ≠ 0) || a.getLsbD 3 then .next bad
  else if !s.quenchOk level then .next s
  else match field a 5 4 with
    | 0 =>
      match s.launch b.toNat with
      | some l => .next (if level ≤ s.launchLevel l then ok else go.quenchFor l level 2)
      | none => .next (if s.tieTaken (.ended b.toNat) then ok else bad)
    | 1 =>
      if numClusters ≤ b.toNat then .next bad
      else .next (if level ≤ s.clusterLevel b.toNat then ok else go.quenchAt b.toNat level)
    | 2 =>
      if level ≠ 4 || b ≠ 0 then .next bad
      else .next (if 4 ≤ s.service.quench then ok else go.quenchDevice 2 0 0)
    | _ => .next bad

/-- The command processors are released into an image (22 R445). -/
def State.release (s : State) : State :=
  (List.range 4).foldl (fun s p => s.updCp p (fun x => x.restarted s.cycle)) s

/-- MAILBOX_LOADIMG (22 R445, R451): in recovery state only, and not during an update; a valid image is stored, and boot
proceeds. -/
def execMailboxLoadimg (s : State) : Outcome :=
  let fail := fun (r : Nat) => (s.mailboxDone r).imageNotice r
  if !s.mailboxRuns 3 then .next s
  else if s.service.state ≠ 3 then .next (fail 5)
  else if s.service.update.isSome then .next (fail 2)
  else match s.fetchImage with
    | none => .next (fail 3)
    | some img =>
      if imageValid img s.service.fused then
        let s1 : State := { s with service := { s.service with store := img, running := img, state := 1, booted := true } }
        .next (((s1.mailboxDone 0).recovered).release.imageNotice 0)
      else .next (fail 1)

/-- MAILBOX_RESERVED (22 R451): nothing is done. -/
def execMailboxReserved (s : State) : Outcome :=
  let c := s.service.mbNow
  if s.service.mbBusy && (c = 0 || decide (3 < c)) then .next (s.mailboxDone 6) else .next s

/-! ## Boot and level 5 (22 R445, R450) -/

/-- PACKAGE_RESET (22 R450; 18 R436): everything is lost until the host re-initialises the device. -/
def execPackageReset (s : State) : Outcome := .next { s with service := { s.service with down := true } }

/-- COLD_BOOT (22 R445): the ROM checks the image store; a valid image starts the device, an invalid one leaves it in recovery
state. What stands in host memory, the image store and the fuses stay, and so does what the environment has chosen. -/
def execColdBoot (s : State) : Outcome :=
  if !s.service.down then .next s
  else
    let v := s.service
    let ok := imageValid v.store v.fused
    let s1 : State := {
      agenda := s.agenda, pace := s.pace, picks := s.picks, badLines := s.badLines, lostLines := s.lostLines, cur := s.cur, cycle := s.cycle, dieReset := s.cycle, fresh := s.fresh, maps := s.maps
      host := s.host, debugger := s.debugger, breakpoints := s.breakpoints
      mem := s.mem.filter (fun c => decide (2 ^ 47 ≤ c.1) && decide (c.1 < 2 ^ 48))
      service := { store := v.store, fused := v.fused, running := if ok then v.store else [], booted := ok, state := if ok then 1 else 3 } }
    .next (if ok then s1.release else (List.range 4).foldl (fun s p => s.updCp p (fun x => { x with running := false })) s1)

/-- IO_DIE_WATCHDOG_EXPIRY (22 R450). -/
def execIoDieWatchdogExpiry (s : State) : Outcome := .next { s with service := { s.service with resetReq := true } }

/-! ## Attestation (22 R447) -/

/-- The answer to an SPDM request: a response code and a payload. A device whose command processors do not run gives none. -/
def State.spdmAnswer (s : State) (request : Nat) (payload : List Byte) : State :=
  if !(List.range 4).any (fun p => (s.cp p).running) then s
  else { s with fresh := s.fresh + 1, service := { s.service with spdm := some (request - 0x80, payload) } }

/-- `n` bytes of an answer that the spec does not give, from byte `i` of them on. -/
def spdmFree (request i n : Nat) : List Byte := (List.range n).map (fun j => (Config.spdmPayload request).getD (i + j) 0)
/-- A number in `n` bytes, the lowest first. -/
def leNum (n v : Nat) : List Byte := (List.range n).map (fun i => BitVec.ofNat 8 (v / 256 ^ i))

/-- GET_VERSION: one version, 1.2 (22 R447), laid out as DMTF's SPDM has it (PRESUMED, log entry 52): a reserved byte, the number of
entries, the entry 0x1200. -/
def execGetVersion (s : State) : Outcome := .next (s.spdmAnswer 0x84 [0, 1, 0x00, 0x12])

/-- The CAPABILITIES answer, laid out as DMTF's SPDM has it (PRESUMED, log entry 52): certificates, challenges and measurements, which
22 R447 lists, are supported, measurements with or without signatures; nothing else is; the exponent of the time and the sizes are the
device's. -/
def spdmCapabilities : List Byte :=
  let free := spdmFree 0xE1 0
  let signs := ((free 1).getD 0 0).getLsbD 0
  [0] ++ free 1 ++ [0, 0] ++ [if signs then 0x16 else 0x0E, 0, 0, 0] ++ spdmFree 0xE1 1 8

/-- GET_CAPABILITIES. -/
def execGetCapabilities (s : State) : Outcome := .next (s.spdmAnswer 0xE1 spdmCapabilities)
/-- The ALGORITHMS answer, laid out as DMTF's SPDM has it (PRESUMED, log entry 52): the length 36; the specification and the hash of
measurements, which 22 R447 does not give; ECDSA P-384 (0x80) and SHA-384 (0x2); nothing else. -/
def spdmAlgorithms : List Byte := [36, 0] ++ spdmFree 0xE3 0 6 ++ [0x80, 0, 0, 0, 0x02, 0, 0, 0] ++ List.replicate 16 0

/-- NEGOTIATE_ALGORITHMS. -/
def execNegotiateAlgorithms (s : State) : Outcome := .next (s.spdmAnswer 0xE3 spdmAlgorithms)

/-- The certificate chain of a slot, the device's public key in it. -/
def spdmChain (slot : Nat) : List Byte := Config.chainHead slot ++ ecdsaPublic Config.deviceKey ++ Config.chainTail slot

/-- GET_DIGESTS: the SHA-384 digest of the chain of slot 0, the one that SPDM requires (PRESUMED, log entry 52). -/
def execGetDigests (s : State) : Outcome := .next (s.spdmAnswer 0x81 (sha384 (spdmChain 0)))

/-- GET_CERTIFICATE: the length of the portion given, here all of the chain that fits, the length of what is left, the chain; a slot
without a chain is an ERROR, Invalid Request (PRESUMED, log entry 52). -/
def execGetCertificate (slot : Nat) (s : State) : Outcome :=
  let c := spdmChain slot
  let n := min c.length 0xFFFF
  .next (if slot ≠ 0 then s.spdmAnswer 0xFF [1] else s.spdmAnswer 0x82 (leNum 2 n ++ leNum 2 (c.length - n) ++ c.take n))

/-- What a CHALLENGE_AUTH answer holds before its signature: the digest of the chain, the device's own nonce, no opaque data. -/
def State.challengeAuth (s : State) : List Byte := sha384 (spdmChain 0) ++ leNum 32 (Config.signNonce s.fresh) ++ [0, 0]

/-- CHALLENGE: the answer is signed, with the request's nonce, under the device's key. DESIGN CHOICE: the nonce and the answer up to
its signature are what is signed, since the bytes of the other messages are no input here (log entry 52). -/
def execChallenge (nonce : Nat) (s : State) : Outcome :=
  let a := s.challengeAuth
  .next (s.spdmAnswer 0x83 (a ++ ecdsaSign Config.deviceKey (Config.signSecret s.fresh) (sha384 (leNum 32 nonce ++ a))))

/-- The measurement blocks (22 R447): the ROM digest, D of the running image, its two signatures, and the fused SVN, which has 32
bits as the header's has (log entry 13). -/
def Service.measurement (v : Service) (index : Nat) : Option (List Byte) :=
  match index with
  | 1 => some Config.romDigest
  | 2 => some (imageDigest v.running)
  | 3 => some (imageEcdsa v.running ++ imageLms v.running)
  | 4 => some (leNum 4 v.fused)
  | _ => none

/-- GET_MEASUREMENTS: ERROR Busy during an update, else the block; what the device answers for an index without one is its own. -/
def execGetMeasurements (index : Nat) (s : State) : Outcome :=
  if s.service.update.isSome then .next { s with service := { s.service with spdm := some (0x7F, [3]) } }
  else .next (s.spdmAnswer 0xE0 ((s.service.measurement index).getD (Config.spdmPayload (0xE000 + index))))

end Sys2Proof.Machine
end

