-- ==== Sys2Proof/Machine/HostSide.lean ====
section
/-! DEFINITION. What the host, the command processors' registers and the debug port do: register writes, bias flips, CXL
requests, the load of a TSC's store, debug reads and writes (06 R177 to R182; 22 R441 to R443, R451, R452, R454; 01 R36;
02 R73; 20 R439; 21 R440). -/

namespace Sys2Proof.Machine

/-! ## Bias flips (06 R177 to R180) -/

/-- The lines of a page are lines 4096 p to 4096 p + 4095. -/
def onPage (page line : Nat) : Bool := decide (line / 4096 = page)

/-- A flip begins; one that arrives during a flip of the page waits (06 R180). -/
def State.startFlip (s : State) (page : Nat) (toHost : Bool) : State :=
  if s.flips.any (fun f => decide (f.page = page)) || s.hostBias.contains page = toHost || decide (0x00C000000000 ≤ page * 2 ^ 19) then s
  else { s with flips := s.flips ++ [{ page := page, toHost := toHost, before := s.fifo.filter (fun r => isDevice r.place && decide (biasPage r.place.loc = page)) }] }

/-- BIAS_FLIP_TO_HOST (06 R178, R179). -/
def execBiasFlipToHost (page : Nat) (s : State) : Outcome := .next (s.startFlip page true)

/-- BIAS_FLIP_TO_DEVICE (06 R180). -/
def execBiasFlipToDevice (page : Nat) (s : State) : Outcome := .next (s.startFlip page false)

/-- A page inserted in a rising list. -/
def insertPage (p : Nat) : List Nat → List Nat
  | [] => [p]
  | q :: qs => if p < q then p :: q :: qs else if p = q then q :: qs else q :: insertPage p qs

/-- A place of the page, with its home under the page's new bias. -/
def State.rehome (s : State) (page : Nat) (p : Place) : Place :=
  if isDevice p && decide (biasPage p.loc = page) then
    { p with home := s.homeOfPa p.loc, alloc := p.cacheable && s.sliceable p.loc }
  else p

/-- The page changes its bias; what waits for it goes to its new home. -/
def State.changeBias (s : State) (f : Flip) : State :=
  let s1 : State := { s with
    flips := s.flips.filter (fun g => g.page ≠ f.page)
    hostBias := if f.toHost then insertPage f.page s.hostBias else s.hostBias.filter (fun p => p ≠ f.page)
    cps := s.cps.map (fun p => (p.1, if p.2.biasBusy && decide (p.2.biasPage = f.page) && decide (p.2.biasDir = f.toHost) then
      { p.2 with biasBusy := false } else p.2)) }
  let mv := s1.rehome f.page
  let stage := fun (st : Stage) => match st with
    | .spawn p => .spawn (mv p)
    | x => x
  let sends := fun (t g line : Nat) => s1.fifo.any (fun r => decide (r.src = .thread t) && decide (r.tag = some g) &&
    decide (lineOf r.place.loc = line) && decide (biasPage r.place.loc = f.page) && isDevice r.place)
  let goes := fun (t g : Nat) (h : Home × Nat) => if sends t g h.2 then (s1.homeOfPa (128 * h.2), h.2) else h
  { s1 with
    fifo := s1.fifo.map (fun r => { r with place := mv r.place, also := r.also.map mv })
    threads := s1.threads.map (fun t => (t.1, { t.2 with
      stage := t.2.stage.map stage
      tags := t.2.tags.map (fun g => (g.1, { g.2 with homes := g.2.homes.map (goes t.1 g.1) }))
      rsb := t.2.rsb.map (fun c => { c with place := mv c.place, also := c.also.map mv })
      inflight := t.2.inflight.map (fun i => { i with pieces := i.pieces.map (fun q => { q with place := mv q.place }) }) })) }

/-- BIAS_FLIP_COMPLETE (06 R179, R180): once the earlier requests have performed, every line with sharers is recalled and
every cached line written back; once every line is settled the page changes. -/
def execBiasFlipComplete (page : Nat) (s : State) : Outcome :=
  match s.flips.find? (fun f => decide (f.page = page)) with
  | none => .next s
  | some f =>
    if f.before ≠ [] then .next s
    else
      let shared := (s.dirs.filter (fun p => onPage page p.1 && decide (p.2.sharers ≠ []))).map (·.1)
      let cached := (s.slices.filter (fun p => onPage page p.1 && p.2.isSome)).map (·.1)
      let s1 := cached.foldl (fun s line => s.dropSlice line) (shared.foldl (fun s line => s.recallLine line) s)
      if s1.dirs.any (fun p => onPage page p.1 && decide (p.2.invs ≠ [])) then .next s1 else .next (s1.changeBias f)

/-- HOST_CACHE_SNOOP (06 R177): the I/O die invalidates the device's copies of a host-memory or host-bias line. -/
def execHostCacheSnoop (line : Nat) (s : State) : Outcome :=
  if s.homeOfPa (128 * line) = .io then .next (s.recallLine line) else .next s

/-! ## CXL.mem and CXL.io (06 R178, R181, R182) -/

/-- Whether a host request of `n` bytes lies within one 64-byte line of device memory. -/
def hostLine (pa n : Nat) : Bool := decide (0 < n) && decide (pa % 64 + n ≤ 64) && decide (pa < 0x00C000000000)

/-- CXL_MEM_READ (06 R178, R181): a device-bias page is flipped first; the data is that of the perform step. -/
def execCxlMemRead (pa n : Nat) (s : State) : Outcome :=
  if !hostLine pa n then .next s
  else if s.flips.any (fun f => decide (f.page = biasPage pa)) then .next s
  else if !s.hostBias.contains (biasPage pa) then .next (s.startFlip (biasPage pa) true)
  else .next { s with host := .readData pa (BitVec.ofNat 512 (s.read pa n)) :: s.host }

/-- CXL_MEM_WRITE (06 R178, R181): the write performs, and completes in a later step once it has settled. -/
def execCxlMemWrite (pa n : Nat) (v : BitVec 512) (s : State) : Outcome :=
  let w := (pa, n, v.toNat)
  let line := pa / 128
  let done := fun (s : State) => { s with hostWrites := s.hostWrites.erase w, host := .writeDone pa :: s.host }
  if s.hostWrites.contains w then (if s.settledAt line then .next (done s) else .next s)
  else if !hostLine pa n then .next s
  else if s.flips.any (fun f => decide (f.page = biasPage pa)) then .next s
  else if !s.hostBias.contains (biasPage pa) then .next (s.startFlip (biasPage pa) true)
  else
    let s1 := s.outsideBytes pa n v.toNat
    .next (if s1.settledAt line then done s1 else { s1 with hostWrites := s1.hostWrites ++ [w] })

/-- The quadrant service core of a home (06 R182). -/
def quadrant : Home → Nat
  | .slice cl => cl % 12 / 6 + 2 * (cl / 12 / 7)
  | .expander cl => cl % 12 / 6 + 2 * (cl / 12 / 7)
  | .core k => clusterOf k % 12 / 6 + 2 * (clusterOf k / 12 / 7)
  | .stack s => s / 3
  | .io => 0

/-- The place that a CXL.io request names: a home and an offset in it, a physical address for a slice. DESIGN CHOICE: a line of
device memory in host bias is named, and served in the quadrant, of the slice that R58 gives it, and performs at the I/O die
(log entry 80). A request names cluster memory below `size` bytes. -/
def State.ioPlaceIn (s : State) (size : Nat) (h : Home) (off : Nat) : Option Place :=
  match h with
  | .slice cl => if decide (off < 0x00C000000000) && decide (homeSlice off = cl) then
      some { loc := off, home := s.homeOfPa off, alloc := s.sliceable off } else none
  | .expander cl => if decide (cl < numClusters) && decide (off < size) then
      some { loc := locCluster cl off, home := h } else none
  | .core k => if decide (k < numCores) && decide (off < 2 ^ 18) then some { loc := locSpm k off, home := h } else none
  | .stack st => if decide (st < 12) && decide (off < 2 ^ 26) then some { loc := locStack st off, home := h } else none
  | .io => none
/-- The place that a request names as it arrives: cluster memory has the size it has then. -/
def State.ioPlace (s : State) (h : Home) (off : Nat) : Option Place :=
  s.ioPlaceIn (match h with
    | .expander cl => (s.cluster cl).spw * 2 ^ 20
    | _ => 0) h off

/-- The last request of a quadrant's service core has settled, so that it may take its next (06 R182). -/
def State.ioFree (s : State) (q : Nat) : Bool :=
  match NMap.get none s.ioLast q with
  | some line => s.settledAt line
  | none => true

/-- A CXL.io request performs at its place. -/
def State.ioPerform (s : State) (q : Nat) (p : Place) (r : IoReq) : State :=
  let s1 := s.homeTouch p r.val.isSome
  match r.val with
  | some v =>
    let s2 := s1.writeHome p.home (lineOf p.loc) (byteMask (p.loc % 128) r.bytes) (placeData (p.loc % 128) (v.toNat % 256 ^ r.bytes)) p.alloc
      none none
    { s2 with ioLast := NMap.set none s2.ioLast q (some (lineOf p.loc)) }
  | none =>
    let s2 := match p.home with
      | .slice _ => s1.touchSlice (lineOf p.loc) p.alloc none
      | _ => s1
    { s2 with host := .ioRead (BitVec.ofNat 512 (s2.read p.loc r.bytes)) :: s2.host }

/-- The oldest request at a quadrant's service core performs where it can: once the last has settled, its way is usable, no flip of
its page is in progress (06 R179, R180) and its home is ready. A shrink that came after it does not take its place away (02 R66).
Whether it has gone. -/
def State.ioHead (s : State) (q : Nat) : State × Bool :=
  match NMap.get [] s.ioq q with
  | [] => (s, false)
  | r :: rs =>
    let left : State := { s with ioq := NMap.set [] s.ioq q rs }
    match s.ioPlaceIn (2 ^ 24) r.home r.off with
    | none => (left, true)
    | some p =>
      if !s.ioFree q || s.waitsForWay p || (isDevice p && s.flips.any (fun f => decide (f.page = biasPage p.loc))) then (s, false)
      else if !s.homeReady p then (s.homePrepare p .expanding, false)
      else (left.ioPerform q p r, true)

/-- A service core takes its requests in the order in which they came, as far as they can perform. -/
def State.ioServe (s : State) (q : Nat) : Nat → State
  | 0 => s
  | n + 1 => if (s.ioHead q).2 then (s.ioHead q).1.ioServe q n else (s.ioHead q).1
/-- Every service core does so. -/
def State.ioServeAll (s : State) : State := s.ioq.foldl (fun s p => s.ioServe p.1 p.2.length) s

/-- CXL_IO_REQUEST (06 R182): it arrives at its quadrant's service core, which performs it when its turn comes. DESIGN CHOICE: a request
has 1 to 64 bytes inside one 64-byte block (log entry 80). -/
def execCxlIoRequest (write : Bool) (h : Home) (off n : Nat) (v : BitVec 512) (s : State) : Outcome :=
  match s.ioPlace h off with
  | none => .next s
  | some p =>
    if n = 0 || decide (64 < p.loc % 64 + n) then .next s
    else
      let q := quadrant h
      let rs := NMap.get [] s.ioq q ++ [⟨h, off, n, if write then some v else none⟩]
      .next (State.ioServe { s with ioq := NMap.set [] s.ioq q rs } q rs.length)

/-! ## A TSC's instruction store (01 R36) -/

/-- Writes bytes from a list. -/
def State.writeList (s : State) (loc : Nat) : List Byte → State
  | [] => s
  | b :: bs => (s.setByte loc b).writeList (loc + 1) bs

/-- TSC_STORE_LOAD (01 R36): at start-up, after a quench of level 3 or 4 that touches the cluster, and during a live replacement,
where it waits until the TSC has popped the message it works on. The store is written from the running image, and the TSC starts
at PC 0 with every register 0. DESIGN CHOICE: stores that its region store buffer still holds are dropped (log entry 97). -/
def execTscStoreLoad (cl : Nat) (img : List (BitVec 8)) (s : State) : Outcome :=
  let c := s.cluster cl
  let t := tscThread cl
  let may := !c.istore || c.reload || (s.service.update.isSome && !c.working)
  if !decide (cl < numClusters) || !may || decide (2 ^ 17 < img.length) then .next s
  else
    let s1 := (s.clearRange (locIstore cl 0) (2 ^ 17)).writeList (locIstore cl 0) img
    let old := s.thread t
    let x : Thread := { tags := old.tags, nextAge := old.nextAge, storeCount := old.storeCount, awaiting := old.awaiting }
    let s2 := s1.updCore (coreOf t) (fun k => { k with barrel := [], readyQ := [], blocks := [] })
    .next ((s2.startThread t x 0).updCluster cl (fun k => { k with istore := true, reload := false, working := false, tscStopped := false, tlbi := none }))

/-! ## Register writes (22 R442, R443, R451, R452, R454) -/

/-- A write to a register of a cluster's window (22 R454). -/
def State.windowWrite (s : State) (cl num : Nat) (v : Word) : State :=
  match num with
  | 0x000 => s.windowClpart cl v
  | 0x001 => s.updCluster cl (fun c => c.writeHclr v)
  | 0x002 => s.updCluster cl (fun c => { c with bfwdEn := v.getLsbD 31, bfwdMargin := v.setWidth 16 })
  | 0x100 => s.updCluster cl (fun c => { c with hsel := v.setWidth 11 &&& 0x7FF#11 })
  | _ => s

/-- The value of a window register (22 R454): its read is one access to the register as it stands. -/
def State.windowValue (s : State) (cl num : Nat) : Word :=
  let c := s.cluster cl
  if within 0x010 0x02F num then
    let e := c.trace.getD ((num - 0x010) / 2) (0, 0)
    if num % 2 = 0 then e.1 else e.2
  else if within 0x101 0x104 num then
    (hearthWords (NMap.get {} c.hearth (c.hsel.toNat / 8 * 8 + c.hsel.toNat % 8))).getD (num - 0x101) 0
  else match num with
    | 0x000 => c.clpart
    | 0x001 => c.hclr
    | 0x002 => BitVec.ofNat 64 ((if c.bfwdEn then 2 ^ 31 else 0) + c.bfwdMargin.toNat)
    | 0x100 => c.hsel.setWidth 64
    | _ => 0

/-- Whether an ASID range overlaps another function's (22 R443). -/
def State.asidOverlap (s : State) (fn lo n : Nat) : Bool :=
  (List.range 65).any (fun g => decide (g ≠ fn) && decide (0 < (s.func g).asidN) && decide (0 < n) &&
    decide (lo < (s.func g).asid0 + (s.func g).asidN) && decide ((s.func g).asid0 < lo + n))

/-! ### The command processors' CSRs (22 R443; log entry 69) -/

/-- The bits of `mstatus` that supervisor mode sees in `sstatus`: SIE, SPIE, SPP, FS, SUM and MXR. -/
def sstatusMask : Word := 0xC6122#64
/-- `mstatus` and `sstatus` as they read, with SD where FS is dirty. -/
def CpCsrs.status (c : CpCsrs) (mask : Word) : Word := (c.mstatus &&& mask) ||| bitIf (field c.mstatus 14 13 = 3) 63

/-- What a standard CSR of command processor `p` reads as in a cycle, none where there is no such CSR (log entry 69). SXL says 64 bits,
and without a user mode UXL is 0. `mcycle` counts from a value that is kept; `time` reads as `cycle`. The identification registers, the
performance counters and their event selectors read 0. -/
def Cp.readStandard (x : Cp) (p now num : Nat) : Option Word :=
  let c := x.csrs
  match num with
  | 0x001 => some ((c.fcsr &&& 0x1F#8).setWidth 64)
  | 0x002 => some ((c.fcsr >>> 5).setWidth 64)
  | 0x003 => some (c.fcsr.setWidth 64)
  | 0x100 => some (c.status sstatusMask)
  | 0x104 => some (c.mie &&& c.mideleg)
  | 0x105 => some c.stvec
  | 0x106 => some (c.scounteren.setWidth 64)
  | 0x140 => some c.sscratch
  | 0x141 => some c.sepc
  | 0x142 => some c.scause
  | 0x143 => some c.stval
  | 0x144 => some (c.mip &&& c.mideleg)
  | 0x180 => some c.satp
  | 0x300 => some (c.status (BitVec.allOnes 64) ||| 0x800000000#64)
  | 0x301 => some (bitIf true 63 ||| 0x4112D#64)
  | 0x302 => some c.medeleg
  | 0x303 => some c.mideleg
  | 0x304 => some c.mie
  | 0x305 => some c.mtvec
  | 0x306 => some (c.mcounteren.setWidth 64)
  | 0x320 => some (c.mcountinhibit.setWidth 64)
  | 0x340 => some c.mscratch
  | 0x341 => some c.mepc
  | 0x342 => some c.mcause
  | 0x343 => some c.mtval
  | 0x344 => some (c.mip ||| bitIf (!x.irqs.isEmpty) 11)
  | 0xB00 => some (c.mcycle + BitVec.ofNat 64 now)
  | 0xB02 => some c.minstret
  | 0xC00 => some (c.mcycle + BitVec.ofNat 64 now)
  | 0xC01 => some (c.mcycle + BitVec.ofNat 64 now)
  | 0xC02 => some c.minstret
  | 0xF14 => some (BitVec.ofNat 64 p)
  | _ =>
    if within 0x3A0 0x3AF num && num % 2 = 0 then some (NMap.get 0 c.pmpcfg (num - 0x3A0))
    else if within 0x3B0 0x3EF num then some (NMap.get 0 c.pmpaddr (num - 0x3B0))
    else if within 0xB03 0xB1F num || within 0x323 0x33F num || within 0xC03 0xC1F num || within 0xF11 0xF15 num then some 0
    else none

/-- What a command processor's CSR reads as, none where it is write-only or there is no such CSR. A write-only bit reads 0. -/
def State.cpCsr (s : State) (p num : Nat) : Option Word :=
  let x := s.cp p
  let f := s.func x.sel
  let n := fun (v : Nat) => some (BitVec.ofNat 64 v)
  match num with
  | 0x7C0 => n x.sel
  | 0x7C1 => n (f.asidN * 2 ^ 16 + f.asid0)
  | 0x7C2 => n f.weight
  | 0x7C3 => n f.cap
  | 0x7C4 => n x.ans
  | 0x7C5 => n x.resv
  | 0x7C6 => n x.prelim
  | 0x7C8 => n ((if x.biasBusy then 2 ^ 62 else 0) + (if x.biasDir then 2 ^ 61 else 0) + x.biasPage)
  | 0x7C9 => some x.cwsel
  | 0x7CA => some (s.windowValue (field x.cwsel 19 12) (field x.cwsel 11 0))
  | 0x7CC => n x.prog
  | 0x7CD => n (x.maxLvl * 2 ^ 32 + x.esc)
  | 0x7CE => some s.service.kdstate
  | 0x7CF => some x.fring
  | 0x7D1 => n f.refill
  | 0x7D2 => n x.wdsave
  | _ => x.readStandard p s.cycle num

/-- A word with the bits of a mask taken from another. -/
def maskWrite (mask old new : Word) : Word := (old &&& ~~~mask) ||| (new &&& mask)

/-- Byte `i` of a word of protection configurations. -/
def pmpByte (w : Word) (i : Nat) : Nat := w.toNat / 256 ^ i % 256
/-- A configuration that is written: a locked one stays, and so does one for the reserved pair of write without read. -/
def pmpCfgWrite (old new : Nat) : Nat := if 128 ≤ old || new % 4 = 2 then old else new / 128 * 128 + new % 32
/-- A write to the protection configurations at an index. -/
def CpCsrs.writePmpcfg (c : CpCsrs) (i : Nat) (v : Word) : CpCsrs :=
  let old := NMap.get 0 c.pmpcfg i
  let bytes := (List.range 8).map (fun j => pmpCfgWrite (pmpByte old j) (pmpByte v j))
  { c with pmpcfg := NMap.set 0 c.pmpcfg i (BitVec.ofNat 64 (bytes.foldr (fun b acc => b + 256 * acc) 0)) }
/-- Whether the address of protection entry `i` is locked: by the entry, or by the next where its range begins here. -/
def CpCsrs.pmpAddrLocked (c : CpCsrs) (i : Nat) : Bool :=
  let cfg := fun (j : Nat) => pmpByte (NMap.get 0 c.pmpcfg (j / 8 * 2)) (j % 8)
  decide (128 ≤ cfg i) || (decide (128 ≤ cfg (i + 1)) && decide (cfg (i + 1) / 8 % 4 = 1))

/-- A write to a standard CSR, of which only the bits that RISC-V lets software write change (log entry 69): `satp` keeps its value
where the mode written is neither Bare nor Sv48; the privilege that MPP holds is machine or supervisor. -/
def CpCsrs.write (c : CpCsrs) (now num : Nat) (v : Word) : CpCsrs :=
  match num with
  | 0x001 => { c with mstatus := c.mstatus ||| 0x6000#64, fcsr := (c.fcsr &&& 0xE0#8) ||| (v.setWidth 8 &&& 0x1F#8) }
  | 0x002 => { c with mstatus := c.mstatus ||| 0x6000#64, fcsr := (c.fcsr &&& 0x1F#8) ||| (v.setWidth 8 <<< 5) }
  | 0x003 => { c with mstatus := c.mstatus ||| 0x6000#64, fcsr := v.setWidth 8 }
  | 0x100 => { c with mstatus := maskWrite sstatusMask c.mstatus v }
  | 0x104 => { c with mie := maskWrite c.mideleg c.mie v }
  | 0x105 => { c with stvec := v &&& ~~~2#64 }
  | 0x106 => { c with scounteren := v.setWidth 32 }
  | 0x140 => { c with sscratch := v }
  | 0x141 => { c with sepc := v &&& ~~~1#64 }
  | 0x142 => { c with scause := v }
  | 0x143 => { c with stval := v }
  | 0x144 => { c with mip := maskWrite (c.mideleg &&& 2#64) c.mip v }
  | 0x180 => if field v 63 60 = 0 || decide (field v 63 60 = 9) then { c with satp := v } else c
  | 0x300 =>
    let m := maskWrite 0x7E79AA#64 c.mstatus v
    { c with mstatus := if field m 12 11 = 0 || decide (field m 12 11 = 2) then maskWrite 0x1800#64 m c.mstatus else m }
  | 0x302 => { c with medeleg := v &&& 0xB3FF#64 }
  | 0x303 => { c with mideleg := v &&& 0x222#64 }
  | 0x304 => { c with mie := v &&& 0xAAA#64 }
  | 0x305 => { c with mtvec := v &&& ~~~2#64 }
  | 0x306 => { c with mcounteren := v.setWidth 32 }
  | 0x320 => { c with mcountinhibit := v.setWidth 32 &&& 4#32 }
  | 0x340 => { c with mscratch := v }
  | 0x341 => { c with mepc := v &&& ~~~1#64 }
  | 0x342 => { c with mcause := v }
  | 0x343 => { c with mtval := v }
  | 0x344 => { c with mip := maskWrite 0x222#64 c.mip v }
  | 0xB00 => { c with mcycle := v - BitVec.ofNat 64 now }
  | 0xB02 => { c with minstret := v }
  | _ =>
    if within 0x3A0 0x3AF num && num % 2 = 0 then c.writePmpcfg (num - 0x3A0) v
    else if within 0x3B0 0x3EF num && !c.pmpAddrLocked (num - 0x3B0) then
      { c with pmpaddr := NMap.set 0 c.pmpaddr (num - 0x3B0) (v &&& 0x3FFFFFFFFFFFFF#64) }
    else c
def Cp.writeStandard (x : Cp) (now num : Nat) (v : Word) : Cp := { x with csrs := x.csrs.write now num v }

/-- A write to a command processor's CSR (22 R443). `kpre`, `khbeat`, `kdstate` and `kmbox` act by steps of their own. -/
def State.cpWriteCsr (s : State) (p num : Nat) (v : Word) : State :=
  let x := s.cp p
  let low := field v 31 0
  let fn := x.sel
  match num with
  | 0x7C0 => s.updCp p (fun x => { x with sel := if field v 6 0 ≤ 64 then field v 6 0 else 0 })
  | 0x7C1 =>
    if s.asidOverlap fn (field v 15 0) (field v 31 16) then s
    else s.updFunc fn (fun f => { f with asid0 := field v 15 0, asidN := field v 31 16 })
  | 0x7C2 => s.updFunc fn (fun f => { f with weight := max 1 (field v 7 0) })
  | 0x7C3 => s.updFunc fn (fun f => { f with cap := field v 39 0 })
  | 0x7C4 => s.updCp p (fun x => { x with ans := low })
  | 0x7C5 => s.updCp p (fun x => { x with resv := low })
  | 0x7C6 => s.updCp p (fun x => { x with prelim := low })
  | 0x7C8 =>
    if x.biasBusy then s
    else
      let page := field v 28 0
      let dir := v.getLsbD 61
      if !v.getLsbD 63 then s.updCp p (fun x => { x with biasDir := dir, biasPage := page })
      else
        let busy := decide (page * 2 ^ 19 < 0x00C000000000) && (s.flips.any (fun f => decide (f.page = page)) || (s.hostBias.contains page) != dir)
        (s.updCp p (fun x => { x with biasDir := dir, biasPage := page, biasBusy := busy })).startFlip page dir
  | 0x7C9 => s.updCp p (fun x => { x with cwsel := v &&& 0xCF000000000FFFFF#64 })
  | 0x7CA => (s.updCp p (fun x => { x with cwdat := v })).windowWrite (field x.cwsel 19 12) (field x.cwsel 11 0) v
  | 0x7CC => s.updCp p (fun x => { x with prog := low })
  | 0x7CD => s.updCp p (fun x => { x with esc := low, maxLvl := if within 1 4 (field v 34 32) then field v 34 32 else x.maxLvl })
  | 0x7CF => s.updCp p (fun x => { x with fring := v &&& 0x0000FFFFFFFFFFFF#64 })
  | 0x7D1 => s.updFunc fn (fun f => { f with refill := max 1 (field v 23 0) })
  | 0x7D2 => s.updCp p (fun x => { x with wdsave := field v 47 12 * 2 ^ 12 })
  | _ => s.updCp p (fun x => x.writeStandard s.cycle num v)

/-- What a function's BAR0 register reads as (22 R442, R451, R452): write-only and reserved bits read 0, and so do the mailbox and
RESETREQ of a virtual function. -/
def State.barValue (s : State) (fn off : Nat) : Word :=
  let f := s.func fn
  let v := s.service
  let bit := fun (b : Bool) (i : Nat) => if b then 2 ^ i else 0
  if within 0x1000 0x11FF off then
    let x := s.queue fn ((off - 0x1000) / 0x20)
    match off % 0x20 with
    | 0x00 => BitVec.ofNat 64 x.qbase
    | 0x08 => BitVec.ofNat 64 (bit x.en 63 + bit x.err 62 + x.log2n * 2 ^ 32 + x.asid)
    | 0x10 => x.tail.setWidth 64
    | 0x18 => x.head.setWidth 64
    | _ => 0
  else match off with
    | 0x0008 => if fn = 0 then BitVec.ofNat 64 (bit v.resetReq 0) else 0
    | 0x0100 => if fn = 0 then v.mbCmd else 0
    | 0x0108 => if fn = 0 then v.mbArg0 else 0
    | 0x0110 => if fn = 0 then v.mbArg1 else 0
    | 0x0118 => if fn = 0 then BitVec.ofNat 64 (bit v.mbBusy 63 + v.mbResult) else 0
    | 0x0200 => BitVec.ofNat 64 (f.nrBase + f.nrLog)
    | 0x0208 => f.nrHead.setWidth 64
    | 0x0210 => f.nrTail.setWidth 64
    | 0x0218 => BitVec.ofNat 64 (bit f.nrOvf 0)
    | _ => 0

/-- A write to MBCMD (22 R451): CMD is written; GO starts the command, and is ignored while one runs. -/
def Service.writeMbcmd (v : Service) (w : Word) : Service :=
  if w.getLsbD 63 && !v.mbBusy then { v with mbCmd := w &&& 0xFF#64, mbBusy := true, mbNow := field w 7 0 }
  else { v with mbCmd := w &&& 0xFF#64 }

/-- A write to a function's BAR0 register (22 R442, R451, R452). QCFG and QTAIL act by steps of their own; the mailbox is the
physical function's. -/
def State.barWrite (s : State) (fn off : Nat) (v : Word) : State :=
  let q := (off - 0x1000) / 0x20
  if within 0x1000 0x11FF off then
    (if off % 0x20 = 0 && !(s.queue fn q).en then s.updQueue fn q (fun x => { x with qbase := field v 47 12 * 2 ^ 12 }) else s)
  else match off with
    | 0x0100 => if fn ≠ 0 then s else { s with service := s.service.writeMbcmd v }
    | 0x0108 => if fn ≠ 0 then s else { s with service := { s.service with mbArg0 := v } }
    | 0x0110 => if fn ≠ 0 then s else { s with service := { s.service with mbArg1 := v } }
    | 0x0200 =>
      let lg := field v 3 0
      s.updFunc fn (fun f => { f with nrBase := field v 63 12 * 2 ^ 12, nrLog := if within 4 12 lg then lg else 0 })
    | 0x0208 => s.updFunc fn (fun f => { f with nrHead := v.setWidth 16 })
    | 0x0218 => s.updFunc fn (fun f => { f with nrOvf := f.nrOvf && !v.getLsbD 0 })
    | _ => s

/-- REGISTER_WRITE (14 R378): a register that has no behaviour of its own, by whoever may write it. A context's CSR is written
by number as supervisor state writes it (13 R357, 16 R419). -/
def execRegisterWrite (r : RegRef) (v : BitVec 64) (s : State) : Outcome :=
  match r with
  | .csr t num =>
    if [0x007, 0x00B, 0x00C, 0x00E, 0x00F, 0x010, 0x011, 0x012, 0x020, 0x021, 0x022, 0x023, 0x024, 0x104, 0x105].contains num && !isTsc t then
      .next (s.writePlain t num v)
    else if num = 0x300 && isTsc t then .next (s.writePlain t num v)
    else .next s
  | .window cl num => if cl < numClusters then .next (s.windowWrite cl num v) else .next s
  | .cp p num =>
    if 4 ≤ p then .next s
    else if csrOfMachine num then s.asMachine p (.next (s.cpWriteCsr p num v))
    else .next (s.cpWriteCsr p num v)
  | .bar fn off => if fn ≤ 64 then .next (s.barWrite fn off v) else .next s

/-! ## The debug port (02 R73; 20 R439; 21 R440) -/

/-- What the debug port has read. -/
def State.debugOut (s : State) (v : BitVec 512) : State := { s with host := .debug v :: s.host }

/-- Byte `off` of core `k`'s spill backing (02 R71, R72): of a spilled register its value and its taint byte, and free values
elsewhere, the slots of registers that are not spilled among them (02 R73). -/
def State.backing (s : State) (k off : Nat) : Byte :=
  let x := s.thread (16 * k + off / 0x1000)
  let o := off % 0x1000
  let other := Config.backingByte k off s.cycle
  let sreg := fun (i : Nat) (b : SReg → Byte) =>
    let r := NMap.get {} x.s i
    if i ≠ 0 ∧ r.map = .spilled then b r else other
  let vreg := fun (i : Nat) (b : VReg → Byte) =>
    let r := NMap.get {} x.v i
    if r.map = .spilled then b r else other
  if o < 0x100 then sreg (o / 8) (fun r => r.val.extractLsb' (8 * (o % 8)) 8)
  else if o < 0x120 then sreg (o - 0x100) (fun r => r.taint)
  else if o < 0x140 then vreg (o - 0x120) (fun r => r.taint)
  else if 0x800 ≤ o then vreg ((o - 0x800) / 64) (fun r => r.val.extractLsb' (8 * (o % 64)) 8)
  else other

/-- DEBUG_REGISTER_READ (02 R73): a spilled register is read from its backing and stays spilled. -/
def execDebugRegisterRead (t : Nat) (f : RegFile) (r : Nat) (s : State) : Outcome :=
  let x := s.thread t
  match f with
  | .scalar => .next (s.debugOut ((x.sval r).setWidth 512))
  | .vector => .next (s.debugOut (x.vval r))
  | .mask => .next (s.debugOut ((x.kval r).setWidth 512))
  | .scalarTaint => .next (s.debugOut ((x.staint r).setWidth 512))
  | .vectorTaint => .next (s.debugOut ((x.vtaint r).setWidth 512))

/-- DEBUG_REGISTER_WRITE (02 R73): a mapped register keeps its mapping and its taint; an unmapped one takes a physical register;
taint itself is not written. -/
def execDebugRegisterWrite (t : Nat) (f : RegFile) (r : Nat) (v : BitVec 512) (s : State) : Outcome :=
  let x := s.thread t
  match f with
  | .scalar =>
    if r = 0 || decide (32 ≤ r) then .next s
    else
      let o := NMap.get {} x.s r
      if o.map = .unmapped then .next (s.setS t r (v.setWidth 64) 0)
      else .next (s.updThread t (fun x => { x with s := NMap.set {} x.s r { o with val := v.setWidth 64 } }))
  | .vector =>
    if 32 ≤ r then .next s
    else
      let o := NMap.get {} x.v r
      if o.map = .unmapped then .next (s.setV t r v 0)
      else .next (s.updThread t (fun x => { x with v := NMap.set {} x.v r { o with val := v } }))
  | .mask =>
    if r = 0 || decide (8 ≤ r) then .next s
    else .next (s.updThread t (fun x => { x with k := NMap.set {} x.k r { NMap.get {} x.k r with val := v.setWidth 16 } }))
  | .scalarTaint | .vectorTaint => .next s

/-- DEBUG_ACCUMULATOR_READ (20 R439): element (i, j) in bits 31 to 0 and its mask bit in bit 32; an accumulator without an owner
reads +0 and 1. -/
def execDebugAccumulatorRead (k : Nat) (one : Bool) (i j : Nat) (s : State) : Outcome :=
  let a := (s.core k).acc one
  let v := if a.owner.isNone then 2 ^ 32 else (a.elem (128 * i + j)).toNat + (if a.kept i j then 2 ^ 32 else 0)
  if decide (i < 64) && decide (j < 128) then .next (s.debugOut (BitVec.ofNat 512 v)) else .next s

/-- DISPENSER_TRACE_READ (21 R440; 22 R454): word `w` of entry `e`. -/
def execDispenserTraceRead (cl e w : Nat) (s : State) : Outcome :=
  if decide (e < 16) && decide (w < 2) && decide (cl < numClusters) then
    .next (s.debugOut ((s.windowValue cl (0x010 + 2 * e + w)).setWidth 512))
  else .next s

end Sys2Proof.Machine
end

