-- ==== Sys2Proof/Machine/Rv64.lean ====
section
/-! DEFINITION. The instructions of a command processor's core, RV64GC (00 R1; 22 R443): their decoding, 32-bit and compressed, integer
arithmetic, and floating point with its exceptions. All of it is RISC-V's, which the spec names and does not repeat (PRESUMED, log
entry 69). -/

namespace Sys2Proof.Machine

/-! ## Instructions -/

/-- The operations of OP, OP-IMM and the M extension. -/
inductive RvAlu where
  | add | sub | sll | slt | sltu | xor | srl | sra | or | and | mul | mulh | mulhsu | mulhu | div | divu | rem | remu
  deriving DecidableEq, Repr

/-- The operations of AMOs. -/
inductive RvAmo where
  | swap | add | xor | and | or | min | max | minu | maxu
  deriving DecidableEq, Repr

/-- The operations of FADD, FSUB, FMUL, FDIV and FSQRT. -/
inductive RvFp where
  | add | sub | mul | div | sqrt
  deriving DecidableEq, Repr

/-- A second source: a register or an immediate. -/
inductive RvSrc where
  | reg (r : Nat)
  | imm (v : Word)
  deriving DecidableEq, Repr

/-- A decoded instruction. `size` is the base-2 logarithm of an access's bytes; `d` says double rather than single precision, or a
doubleword rather than a word; `word` a W form; `fn` the function field of its group. -/
inductive Rv where
  | lui (rd : Nat) (v : Word)
  | auipc (rd : Nat) (v : Word)
  | jal (rd : Nat) (off : Word)
  | jalr (rd rs : Nat) (off : Word)
  | branch (fn a b : Nat) (off : Word)
  | load (rd rs : Nat) (off : Word) (size : Nat) (signed : Bool)
  | store (rs src : Nat) (off : Word) (size : Nat)
  | alu (op : RvAlu) (word : Bool) (rd a : Nat) (b : RvSrc)
  | fence
  | lr (d : Bool) (rd rs : Nat)
  | sc (d : Bool) (rd rs src : Nat)
  | amo (op : RvAmo) (d : Bool) (rd rs src : Nat)
  | csr (op : CsrOp) (rd num src : Nat) (imm : Bool)
  | ecall
  | ebreak
  | mret
  | sret
  | wfi
  | sfence
  | fload (d : Bool) (rd rs : Nat) (off : Word)
  | fstore (d : Bool) (rs src : Nat) (off : Word)
  | fma (d negProd negAdd : Bool) (rm rd a b c : Nat)
  | farith (op : RvFp) (d : Bool) (rm rd a b : Nat)
  | fsgn (d : Bool) (fn rd a b : Nat)
  | fminmax (d max : Bool) (rd a b : Nat)
  | fcmp (d : Bool) (fn rd a b : Nat)
  | fclass (d : Bool) (rd a : Nat)
  | fcvtToInt (d : Bool) (fn rm rd a : Nat)
  | fcvtFromInt (d : Bool) (fn rm rd a : Nat)
  | fcvtFmt (d : Bool) (rm rd a : Nat)
  | fmvToX (d : Bool) (rd a : Nat)
  | fmvFromX (d : Bool) (rd a : Nat)
  deriving DecidableEq, Repr

/-! ## Decoding -/

/-- Bits `hi` down to `lo` of an instruction. -/
def rvBits (w hi lo : Nat) : Nat := w / 2 ^ lo % 2 ^ (hi - lo + 1)
/-- The `n` bits of a number as a signed 64-bit value. -/
def rvSext (n v : Nat) : Word := (BitVec.ofInt 64 (signedOf n v))

/-- The immediates of the formats I, S, B, U and J. -/
def rvImmI (w : Nat) : Word := rvSext 12 (rvBits w 31 20)
def rvImmS (w : Nat) : Word := rvSext 12 (rvBits w 31 25 * 2 ^ 5 + rvBits w 11 7)
def rvImmB (w : Nat) : Word :=
  rvSext 13 (rvBits w 31 31 * 2 ^ 12 + rvBits w 7 7 * 2 ^ 11 + rvBits w 30 25 * 2 ^ 5 + rvBits w 11 8 * 2)
def rvImmU (w : Nat) : Word := rvSext 32 (rvBits w 31 12 * 2 ^ 12)
def rvImmJ (w : Nat) : Word :=
  rvSext 21 (rvBits w 31 31 * 2 ^ 20 + rvBits w 19 12 * 2 ^ 12 + rvBits w 20 20 * 2 ^ 11 + rvBits w 30 21 * 2)

/-- The operation that the function field of OP and OP-IMM names. -/
def rvOp : Nat → RvAlu
  | 0 => .add | 1 => .sll | 2 => .slt | 3 => .sltu | 4 => .xor | 5 => .srl | 6 => .or | _ => .and
/-- That of the M extension. -/
def rvMulOp : Nat → RvAlu
  | 0 => .mul | 1 => .mulh | 2 => .mulhsu | 3 => .mulhu | 4 => .div | 5 => .divu | 6 => .rem | _ => .remu

/-- OP-IMM and OP-IMM-32: shifts have their amount in 6 or 5 bits, and a function above it. -/
def rvOpImm (word : Bool) (w : Nat) : Option Rv :=
  let fn := rvBits w 14 12
  let rd := rvBits w 11 7
  let rs := rvBits w 19 15
  let sh := if word then rvBits w 24 20 else rvBits w 25 20
  let top := if word then rvBits w 31 25 else rvBits w 31 26 * 2
  let shift := fun (op : RvAlu) => some (.alu op word rd rs (.imm (BitVec.ofNat 64 sh)))
  if fn = 1 then (if top = 0 then shift .sll else none)
  else if fn = 5 then (if top = 0 then shift .srl else if top = 0x20 then shift .sra else none)
  else if word && decide (fn ≠ 0) then none
  else some (.alu (rvOp fn) word rd rs (.imm (rvImmI w)))

/-- OP and OP-32. -/
def rvOpReg (word : Bool) (w : Nat) : Option Rv :=
  let fn := rvBits w 14 12
  let op := fun (o : RvAlu) => some (.alu o word (rvBits w 11 7) (rvBits w 19 15) (.reg (rvBits w 24 20)))
  match rvBits w 31 25 with
  | 0 => if word && !(fn = 0 || fn = 1 || fn = 5) then none else op (rvOp fn)
  | 0x20 => if fn = 0 then op .sub else if fn = 5 then op .sra else none
  | 1 => if word && decide (1 ≤ fn) && decide (fn ≤ 3) then none else op (rvMulOp fn)
  | _ => none

/-- AMO, with LR and SC. -/
def rvAtomic (w : Nat) : Option Rv :=
  let fn := rvBits w 14 12
  let d := decide (fn = 3)
  let rd := rvBits w 11 7
  let rs := rvBits w 19 15
  let src := rvBits w 24 20
  if fn ≠ 2 && fn ≠ 3 then none
  else match rvBits w 31 27 with
    | 2 => if src = 0 then some (.lr d rd rs) else none
    | 3 => some (.sc d rd rs src)
    | 1 => some (.amo .swap d rd rs src)
    | 0 => some (.amo .add d rd rs src)
    | 4 => some (.amo .xor d rd rs src)
    | 0xC => some (.amo .and d rd rs src)
    | 8 => some (.amo .or d rd rs src)
    | 0x10 => some (.amo .min d rd rs src)
    | 0x14 => some (.amo .max d rd rs src)
    | 0x18 => some (.amo .minu d rd rs src)
    | 0x1C => some (.amo .maxu d rd rs src)
    | _ => none

/-- SYSTEM. -/
def rvSystem (w : Nat) : Option Rv :=
  let fn := rvBits w 14 12
  let csr := fun (op : CsrOp) => some (.csr op (rvBits w 11 7) (rvBits w 31 20) (rvBits w 19 15) (decide (4 ≤ fn)))
  match fn with
  | 0 =>
    if w = 0x73 then some .ecall else if w = 0x00100073 then some .ebreak else if w = 0x10200073 then some .sret
    else if w = 0x30200073 then some .mret else if w = 0x10500073 then some .wfi
    else if rvBits w 31 25 = 9 && rvBits w 11 7 = 0 then some .sfence else none
  | 1 => csr .rw
  | 2 => csr .rs
  | 3 => csr .rc
  | 5 => csr .rw
  | 6 => csr .rs
  | 7 => csr .rc
  | _ => none

/-- OP-FP. -/
def rvOpFp (w : Nat) : Option Rv :=
  let fmt := rvBits w 26 25
  let d := decide (fmt = 1)
  let rm := rvBits w 14 12
  let rd := rvBits w 11 7
  let a := rvBits w 19 15
  let b := rvBits w 24 20
  if 1 < fmt then none
  else match rvBits w 31 27 with
    | 0 => some (.farith .add d rm rd a b)
    | 1 => some (.farith .sub d rm rd a b)
    | 2 => some (.farith .mul d rm rd a b)
    | 3 => some (.farith .div d rm rd a b)
    | 0xB => if b = 0 then some (.farith .sqrt d rm rd a 0) else none
    | 4 => if rm ≤ 2 then some (.fsgn d rm rd a b) else none
    | 5 => if rm ≤ 1 then some (.fminmax d (decide (rm = 1)) rd a b) else none
    | 8 => if b + fmt = 1 then some (.fcvtFmt d rm rd a) else none
    | 0x14 => if rm ≤ 2 then some (.fcmp d rm rd a b) else none
    | 0x18 => if b ≤ 3 then some (.fcvtToInt d b rm rd a) else none
    | 0x1A => if b ≤ 3 then some (.fcvtFromInt d b rm rd a) else none
    | 0x1C => if b ≠ 0 then none else if rm = 0 then some (.fmvToX d rd a) else if rm = 1 then some (.fclass d rd a) else none
    | 0x1E => if b = 0 && rm = 0 then some (.fmvFromX d rd a) else none
    | _ => none

/-- A 32-bit instruction, or none where it is illegal. -/
def rvDecode32 (w : Nat) : Option Rv :=
  let fn := rvBits w 14 12
  let rd := rvBits w 11 7
  let rs := rvBits w 19 15
  let r2 := rvBits w 24 20
  let fma := fun (np na : Bool) =>
    if rvBits w 26 25 ≤ 1 then some (.fma (decide (rvBits w 26 25 = 1)) np na fn rd rs r2 (rvBits w 31 27)) else none
  match rvBits w 6 0 with
  | 0x37 => some (.lui rd (rvImmU w))
  | 0x17 => some (.auipc rd (rvImmU w))
  | 0x6F => some (.jal rd (rvImmJ w))
  | 0x67 => if fn = 0 then some (.jalr rd rs (rvImmI w)) else none
  | 0x63 => if fn = 2 || fn = 3 then none else some (.branch fn rs r2 (rvImmB w))
  | 0x03 => if fn = 7 then none else some (.load rd rs (rvImmI w) (fn % 4) (decide (fn < 4)))
  | 0x23 => if 3 < fn then none else some (.store rs r2 (rvImmS w) fn)
  | 0x13 => rvOpImm false w
  | 0x1B => rvOpImm true w
  | 0x33 => rvOpReg false w
  | 0x3B => rvOpReg true w
  | 0x0F => if fn ≤ 1 then some .fence else none
  | 0x2F => rvAtomic w
  | 0x73 => rvSystem w
  | 0x07 => if fn = 2 || fn = 3 then some (.fload (decide (fn = 3)) rd rs (rvImmI w)) else none
  | 0x27 => if fn = 2 || fn = 3 then some (.fstore (decide (fn = 3)) rs r2 (rvImmS w)) else none
  | 0x43 => fma false false
  | 0x47 => fma false true
  | 0x4B => fma true false
  | 0x4F => fma true true
  | 0x53 => rvOpFp w
  | _ => none

/-- The compressed instructions of quadrant 0. -/
def rvQuadrant0 (w : Nat) : Option Rv :=
  let r1 := 8 + rvBits w 9 7
  let r2 := 8 + rvBits w 4 2
  let offW : Word := BitVec.ofNat 64 (rvBits w 12 10 * 8 + rvBits w 6 6 * 4 + rvBits w 5 5 * 64)
  let offD : Word := BitVec.ofNat 64 (rvBits w 12 10 * 8 + rvBits w 6 5 * 64)
  let imm := rvBits w 10 7 * 64 + rvBits w 12 11 * 16 + rvBits w 5 5 * 8 + rvBits w 6 6 * 4
  match rvBits w 15 13 with
  | 0 => if imm = 0 then none else some (.alu .add false r2 2 (.imm (BitVec.ofNat 64 imm)))
  | 1 => some (.fload true r2 r1 offD)
  | 2 => some (.load r2 r1 offW 2 true)
  | 3 => some (.load r2 r1 offD 3 true)
  | 5 => some (.fstore true r1 r2 offD)
  | 6 => some (.store r1 r2 offW 2)
  | 7 => some (.store r1 r2 offD 3)
  | _ => none

/-- The register arithmetic of quadrant 1. -/
def rvArith1 (w : Nat) : Option Rv :=
  let rd := 8 + rvBits w 9 7
  let r2 : RvSrc := .reg (8 + rvBits w 4 2)
  let sh : RvSrc := .imm (BitVec.ofNat 64 (rvBits w 12 12 * 32 + rvBits w 6 2))
  match rvBits w 11 10, rvBits w 12 12, rvBits w 6 5 with
  | 0, _, _ => some (.alu .srl false rd rd sh)
  | 1, _, _ => some (.alu .sra false rd rd sh)
  | 2, _, _ => some (.alu .and false rd rd (.imm (rvSext 6 (rvBits w 12 12 * 32 + rvBits w 6 2))))
  | _, 0, 0 => some (.alu .sub false rd rd r2)
  | _, 0, 1 => some (.alu .xor false rd rd r2)
  | _, 0, 2 => some (.alu .or false rd rd r2)
  | _, 0, 3 => some (.alu .and false rd rd r2)
  | _, 1, 0 => some (.alu .sub true rd rd r2)
  | _, 1, 1 => some (.alu .add true rd rd r2)
  | _, _, _ => none

/-- The compressed instructions of quadrant 1. -/
def rvQuadrant1 (w : Nat) : Option Rv :=
  let rd := rvBits w 11 7
  let imm := rvSext 6 (rvBits w 12 12 * 32 + rvBits w 6 2)
  let sp := rvSext 10 (rvBits w 12 12 * 512 + rvBits w 6 6 * 16 + rvBits w 5 5 * 64 + rvBits w 4 3 * 128 + rvBits w 2 2 * 32)
  let j := rvSext 12 (rvBits w 12 12 * 2048 + rvBits w 11 11 * 16 + rvBits w 10 9 * 256 + rvBits w 8 8 * 1024 + rvBits w 7 7 * 64 +
    rvBits w 6 6 * 128 + rvBits w 5 3 * 2 + rvBits w 2 2 * 32)
  let b := rvSext 9 (rvBits w 12 12 * 256 + rvBits w 11 10 * 8 + rvBits w 6 5 * 64 + rvBits w 4 3 * 2 + rvBits w 2 2 * 32)
  let r1 := 8 + rvBits w 9 7
  match rvBits w 15 13 with
  | 0 => some (.alu .add false rd rd (.imm imm))
  | 1 => if rd = 0 then none else some (.alu .add true rd rd (.imm imm))
  | 2 => some (.alu .add false rd 0 (.imm imm))
  | 3 =>
    if rd = 2 then (if sp = 0 then none else some (.alu .add false 2 2 (.imm sp)))
    else if imm = 0 then none else some (.lui rd (imm <<< 12))
  | 4 => rvArith1 w
  | 5 => some (.jal 0 j)
  | 6 => some (.branch 0 r1 0 b)
  | _ => some (.branch 1 r1 0 b)

/-- The compressed instructions of quadrant 2. -/
def rvQuadrant2 (w : Nat) : Option Rv :=
  let rd := rvBits w 11 7
  let r2 := rvBits w 6 2
  let loadW : Word := BitVec.ofNat 64 (rvBits w 12 12 * 32 + rvBits w 6 4 * 4 + rvBits w 3 2 * 64)
  let loadD : Word := BitVec.ofNat 64 (rvBits w 12 12 * 32 + rvBits w 6 5 * 8 + rvBits w 4 2 * 64)
  let storeW : Word := BitVec.ofNat 64 (rvBits w 12 9 * 4 + rvBits w 8 7 * 64)
  let storeD : Word := BitVec.ofNat 64 (rvBits w 12 10 * 8 + rvBits w 9 7 * 64)
  match rvBits w 15 13 with
  | 0 => some (.alu .sll false rd rd (.imm (BitVec.ofNat 64 (rvBits w 12 12 * 32 + r2))))
  | 1 => some (.fload true rd 2 loadD)
  | 2 => if rd = 0 then none else some (.load rd 2 loadW 2 true)
  | 3 => if rd = 0 then none else some (.load rd 2 loadD 3 true)
  | 4 =>
    if rvBits w 12 12 = 0 then
      (if r2 ≠ 0 then some (.alu .add false rd 0 (.reg r2)) else if rd = 0 then none else some (.jalr 0 rd 0))
    else if r2 ≠ 0 then some (.alu .add false rd rd (.reg r2))
    else if rd = 0 then some .ebreak else some (.jalr 1 rd 0)
  | 5 => some (.fstore true 2 r2 storeD)
  | 6 => some (.store 2 r2 storeW 2)
  | _ => some (.store 2 r2 storeD 3)

/-- Bytes of an instruction: its two lowest bits tell. -/
def rvLength (w : Nat) : Nat := if w % 4 = 3 then 4 else 2

/-- The instruction that 32 bits begin with, or none where it is illegal. -/
def rvDecode (w : Nat) : Option Rv :=
  match w % 4 with
  | 0 => rvQuadrant0 (w % 2 ^ 16)
  | 1 => rvQuadrant1 (w % 2 ^ 16)
  | 2 => rvQuadrant2 (w % 2 ^ 16)
  | _ => rvDecode32 w

/-! ## Integer arithmetic -/

/-- The quotient and the remainder, with RISC-V's values for a divisor of 0. -/
def rvDivide {w : Nat} (op : RvAlu) (a b : BitVec w) : BitVec w :=
  match op with
  | .div => if b = 0 then BitVec.allOnes w else a.sdiv b
  | .divu => if b = 0 then BitVec.allOnes w else a / b
  | .rem => if b = 0 then a else a.srem b
  | _ => if b = 0 then a else a % b

/-- An operation of `w` bits whose shift amounts have `k` of them. -/
def rvCompute {w : Nat} (k : Nat) (op : RvAlu) (a b : BitVec w) : BitVec w :=
  let sh := b.toNat % 2 ^ k
  let high := fun (x : Int) => BitVec.ofInt w (x / 2 ^ w)
  match op with
  | .add => a + b
  | .sub => a - b
  | .sll => a <<< sh
  | .slt => if a.toInt < b.toInt then 1 else 0
  | .sltu => if a.toNat < b.toNat then 1 else 0
  | .xor => a ^^^ b
  | .srl => a >>> sh
  | .sra => a.sshiftRight sh
  | .or => a ||| b
  | .and => a &&& b
  | .mul => a * b
  | .mulh => high (a.toInt * b.toInt)
  | .mulhsu => high (a.toInt * b.toNat)
  | .mulhu => high (a.toNat * b.toNat)
  | .div => rvDivide .div a b
  | .divu => rvDivide .divu a b
  | .rem => rvDivide .rem a b
  | .remu => rvDivide .remu a b

/-- The result of an operation; a W form works on the low halves and sign-extends. -/
def rvAlu (op : RvAlu) (word : Bool) (a b : Word) : Word :=
  if word then (rvCompute 5 op (a.setWidth 32) (b.setWidth 32)).signExtend 64 else rvCompute 6 op a b

/-- Whether a branch is taken. -/
def rvTaken (fn : Nat) (a b : Word) : Bool :=
  match fn with
  | 0 => decide (a = b)
  | 1 => decide (a ≠ b)
  | 4 => decide (a.toInt < b.toInt)
  | 5 => decide (b.toInt ≤ a.toInt)
  | 6 => decide (a.toNat < b.toNat)
  | _ => decide (b.toNat ≤ a.toNat)

/-- What an AMO writes. -/
def rvAmo {w : Nat} (op : RvAmo) (old v : BitVec w) : BitVec w :=
  match op with
  | .swap => v
  | .add => old + v
  | .xor => old ^^^ v
  | .and => old &&& v
  | .or => old ||| v
  | .min => if old.toInt ≤ v.toInt then old else v
  | .max => if v.toInt ≤ old.toInt then old else v
  | .minu => if old.toNat ≤ v.toNat then old else v
  | .maxu => if v.toNat ≤ old.toNat then old else v

/-! ## Floating point -/

def Fmt.f64 : Fmt := ⟨11, 52, 1023, .ieee⟩
def rvFmt (d : Bool) : Fmt := if d then Fmt.f64 else Fmt.f32

/-- A code and the flags it raises: NV 16, DZ 8, OF 4, UF 2, NX 1. -/
abbrev Flagged := Nat × Nat

/-- A magnitude rounded to a multiple of `2^qe`, and whether it is inexact; modes 0 to 4 are RNE, RTZ, RDN, RUP, RMM. -/
def rvRoundOff (rm : Nat) (neg : Bool) (m : Nat) (e : Int) (sticky : Bool) (qe : Int) : Nat × Bool :=
  if qe ≤ e then (m <<< (e - qe).toNat, sticky)
  else
    let sh := (qe - e).toNat
    let lo := m >>> sh
    let r := m % 2 ^ sh
    let inexact := decide (r ≠ 0) || sticky
    let up := match rm with
      | 0 => decide (2 ^ sh < 2 * r) || (decide (2 * r = 2 ^ sh) && (sticky || decide (lo % 2 = 1)))
      | 1 => false
      | 2 => neg
      | 3 => !neg
      | _ => decide (2 ^ sh ≤ 2 * r)
    (lo + (if inexact && up then 1 else 0), inexact)

/-- A value rounded to a format. Underflow is detected after rounding. -/
def rvRound (f : Fmt) (rm : Nat) (x : Ex) : Flagged :=
  match x with
  | .nan => (canonNan f, 0)
  | .inf neg => (infCode f neg, 0)
  | .fin neg m e sticky =>
    if m = 0 then (packFmt f neg 0 0, 0)
    else
      let qe := spacing f m e
      let r := rvRoundOff rm neg m e sticky qe
      if overflows f r.1 qe then
        (if rm = 1 || (rm = 2 && !neg) || (rm = 3 && neg) then maxCode f neg else infCode f neg, 5)
      else
        let top := (Nat.log2 m : Int) + e
        let wide := rvRoundOff rm neg m e sticky (top - f.mb)
        let tiny := decide ((Nat.log2 wide.1 : Int) + (top - f.mb) < 1 - f.bias)
        (encodeFmt f neg r.1 qe, (if r.2 then 1 else 0) + (if r.2 && tiny then 2 else 0))

/-- Whether a code is a NaN, a signalling one. -/
def rvSignals (f : Fmt) (bits : Nat) : Bool := (decodeFmt f bits).isNan && decide (bits / 2 ^ (f.mb - 1) % 2 = 0)

/-- A rounded result, invalid where a source signals or `invalid` says so. -/
def rvResult (f : Fmt) (rm : Nat) (srcs : List Nat) (invalid : Bool) (x : Ex) : Flagged :=
  let r := rvRound f rm x
  (r.1, if srcs.any (rvSignals f) || invalid then r.2 ||| 16 else r.2)

/-- FADD, FSUB, FMUL, FDIV and FSQRT. -/
def rvFp (f : Fmt) (op : RvFp) (rm a b : Nat) : Flagged :=
  let x := decodeFmt f a
  let y := decodeFmt f b
  let both := fun (z : Ex) => rvResult f rm [a, b] (z.isNan && !x.isNan && !y.isNan) z
  match op with
  | .add => both (Ex.add (decide (rm = 2)) x y)
  | .sub => both (Ex.add (decide (rm = 2)) x y.neg)
  | .mul => both (x.mul y)
  | .div =>
    let r := both (x.div y)
    if y.isZero && x.isFinite && !x.isZero then (r.1, r.2 ||| 8) else r
  | .sqrt => rvResult f rm [a] (x.sqrt.isNan && !x.isNan) x.sqrt

/-- The fused multiply-add and its three other forms. -/
def rvFma (f : Fmt) (negProd negAdd : Bool) (rm a b c : Nat) : Flagged :=
  let x := decodeFmt f a
  let y := decodeFmt f b
  let z := decodeFmt f c
  let p := if negProd then (x.mul y).neg else x.mul y
  let q := if negAdd then z.neg else z
  let s := Ex.add (decide (rm = 2)) p q
  let invalid := (p.isNan && !x.isNan && !y.isNan) || (s.isNan && !p.isNan && !q.isNan)
  rvResult f rm [a, b, c] invalid s

/-- FSGNJ, FSGNJN, FSGNJX. -/
def rvSign (f : Fmt) (fn a b : Nat) : Nat :=
  let s := 2 ^ (f.eb + f.mb)
  let sb := b / s % 2
  (match fn with
    | 0 => sb
    | 1 => 1 - sb
    | _ => (a / s + sb) % 2) * s + a % s

/-- FMIN and FMAX: the number of a number and a NaN; -0 lies below +0. -/
def rvMinMax (f : Fmt) (max : Bool) (a b : Nat) : Flagged :=
  let x := decodeFmt f a
  let y := decodeFmt f b
  let less := x.lt y || (x.eq y && x.isNeg)
  (if x.isNan && y.isNan then canonNan f else if x.isNan then b else if y.isNan then a else if less != max then a else b,
   if rvSignals f a || rvSignals f b then 16 else 0)

/-- FLE, FLT, FEQ. -/
def rvCompare (f : Fmt) (fn a b : Nat) : Flagged :=
  let x := decodeFmt f a
  let y := decodeFmt f b
  let holds := match fn with
    | 0 => x.lt y || x.eq y
    | 1 => x.lt y
    | _ => x.eq y
  let invalid := if fn = 2 then rvSignals f a || rvSignals f b else x.isNan || y.isNan
  (if holds then 1 else 0, if invalid then 16 else 0)

/-- FCLASS. -/
def rvClass (f : Fmt) (a : Nat) : Nat :=
  let neg := decide (a / 2 ^ (f.eb + f.mb) % 2 = 1)
  match decodeFmt f a with
  | .nan => if rvSignals f a then 2 ^ 8 else 2 ^ 9
  | .inf _ => if neg then 1 else 2 ^ 7
  | .fin _ m _ _ =>
    if m = 0 then (if neg then 2 ^ 3 else 2 ^ 4)
    else if m < 2 ^ f.mb then (if neg then 2 ^ 2 else 2 ^ 5) else (if neg then 2 else 2 ^ 6)

/-- The range of FCVT's integers: W, WU, L, LU. -/
def rvRange (fn : Nat) : Int × Int :=
  match fn with
  | 0 => (-(2 ^ 31), 2 ^ 31 - 1)
  | 1 => (0, 2 ^ 32 - 1)
  | 2 => (-(2 ^ 63), 2 ^ 63 - 1)
  | _ => (0, 2 ^ 64 - 1)

/-- The integer that a value converts to, with its flags: out of range it is the nearest one and invalid. -/
def rvToInt (fn rm : Nat) (x : Ex) : Int × Nat :=
  let r := rvRange fn
  match x with
  | .nan => (r.2, 16)
  | .inf neg => (if neg then r.1 else r.2, 16)
  | .fin neg m e sticky =>
    let q := rvRoundOff rm neg m e sticky 0
    let i : Int := if neg then -(q.1 : Int) else q.1
    if i < r.1 then (r.1, 16) else if r.2 < i then (r.2, 16) else (i, if q.2 then 1 else 0)

/-- FCVT to an integer register; a 32-bit result is sign-extended, an unsigned one too. -/
def rvCvtToInt (f : Fmt) (fn rm a : Nat) : Word × Nat :=
  let r := rvToInt fn rm (decodeFmt f a)
  (if fn ≤ 1 then (BitVec.ofInt 32 r.1).signExtend 64 else BitVec.ofInt 64 r.1, r.2)

/-- FCVT from an integer register. -/
def rvCvtFromInt (f : Fmt) (fn rm : Nat) (v : Word) : Flagged :=
  rvRound f rm (Ex.ofInt (match fn with
    | 0 => (v.setWidth 32).toInt
    | 1 => ((v.setWidth 32).toNat : Int)
    | 2 => v.toInt
    | _ => (v.toNat : Int)))

/-- FCVT between the two formats, to double precision or from it. -/
def rvCvtFmt (d : Bool) (rm a : Nat) : Flagged :=
  let src := rvFmt (!d)
  let r := rvRound (rvFmt d) rm (decodeFmt src a)
  (r.1, if rvSignals src a then r.2 ||| 16 else r.2)

end Sys2Proof.Machine
end

