-- ==== Sys2Proof/Machine/Firmware.lean ====
section
/-! DEFINITION. What a command processor's core does in one of its steps (22 R443; 00 R1): it takes a pending interrupt, or executes
the instruction at its pc. The spec names RV64GC and the privileged architecture; their rules are RISC-V's (PRESUMED, log entry 69).
It gives no firmware, so the environment names the bits at the pc. -/

namespace Sys2Proof.Machine

/-! ## Registers -/

/-- Register x`i`; x0 is 0. -/
def Cp.reg (x : Cp) (i : Nat) : Word := if i = 0 then 0 else NMap.get 0 x.x i
def Cp.setReg (x : Cp) (i : Nat) (v : Word) : Cp := if i = 0 then x else { x with x := NMap.set 0 x.x i v }

/-- Register f`i` as a source of a precision: a single-precision value whose upper half is not all ones reads as the canonical NaN. -/
def Cp.freg (x : Cp) (d : Bool) (i : Nat) : Nat :=
  let v := NMap.get 0 x.f i
  if d then v.toNat else if field v 63 32 = 2 ^ 32 - 1 then field v 31 0 else canonNan Fmt.f32

/-- The state of the floating-point unit is dirty. -/
def CpCsrs.dirty (c : CpCsrs) : CpCsrs := { c with mstatus := c.mstatus ||| 0x6000#64 }
/-- A write to register f`i`; a single-precision value has its upper half all ones. -/
def Cp.setFreg (x : Cp) (d : Bool) (i v : Nat) : Cp :=
  { x with
    f := NMap.set 0 x.f i (if d then BitVec.ofNat 64 v else BitVec.ofNat 64 (v % 2 ^ 32) ||| 0xFFFFFFFF00000000#64)
    csrs := x.csrs.dirty }
/-- Exceptions of floating point accrue in `fcsr`. -/
def Cp.raise (x : Cp) (flags : Nat) : Cp :=
  if flags = 0 then x else { x with csrs := { x.csrs.dirty with fcsr := x.csrs.fcsr ||| BitVec.ofNat 8 flags } }

/-- An instruction of `len` bytes has completed: the pc moves on, and `minstret` counts it unless that is inhibited. -/
def Cp.retired (x : Cp) (len : Nat) : Cp :=
  { x with pc := x.pc + BitVec.ofNat 64 len
           csrs := if x.csrs.mcountinhibit.getLsbD 2 then x.csrs else { x.csrs with minstret := x.csrs.minstret + 1 } }
/-- The same of an instruction that sets the pc; its bit 0 is 0. -/
def Cp.jumped (x : Cp) (target : Word) : Cp := { x.retired 0 with pc := target &&& ~~~1#64 }

/-- An exception of command processor `p`. -/
def State.cpTrap (s : State) (p : Nat) (cause tval : Word) : State := s.updCp p (fun x => x.exception cause tval)

/-! ## CSR instructions -/

/-- The custom CSRs that can only be written (22 R443). -/
def cpWriteOnly (num : Nat) : Bool := [0x7C7, 0x7CB, 0x7D0].contains num

/-- Whether command processor `p` may reach a CSR in its mode, and write it where it does: one of its floating point not while FS is
Off. -/
def State.cpMay (s : State) (p num : Nat) (write : Bool) : Bool :=
  let x := s.cp p
  ((s.cpCsr p num).isSome || cpWriteOnly num) && !(x.smode && csrOfMachine num) && !(write && decide (num / 2 ^ 10 % 4 = 3)) &&
    !(within 1 3 num && decide (field x.csrs.mstatus 14 13 = 0)) &&
    !(x.smode && within 0xC00 0xC1F num && !x.csrs.mcounteren.getLsbD (num % 32)) &&
    !(x.smode && decide (num = 0x180) && x.csrs.mstatus.getLsbD 20)

/-- The state an outcome leaves, or the given one where it leaves none. -/
def stateOf (s : State) (o : Outcome) : State :=
  match o with
  | .next t => t
  | _ => s

/-- A write to any CSR of a command processor, those with steps of their own among them (22 R443, R448, R453, R455; 01 R51). -/
def State.cpWrite (s : State) (p num : Nat) (v : Word) : State :=
  match num with
  | 0x7C7 => stateOf s (match field (s.cp p).cwsel 63 62 with
    | 0 => execPreemptContext p v s
    | 1 => execPreemptCore p v s
    | 2 => execPreemptLaunch p v s
    | _ => .next s)
  | 0x7CB => stateOf s (execHeartbeat p s)
  | 0x7CE => s.writeKdstate v
  | 0x7D0 => s.answerFault (field v 23 16) (field v 47 32) (field v 15 0) (v.getLsbD 63)
  | _ => s.cpWriteCsr p num v

/-- CSRRW, CSRRS, CSRRC and their immediate forms: `src` is a register, or the value. -/
def State.cpCsrInstr (s : State) (p : Nat) (op : CsrOp) (rd num src : Nat) (imm : Bool) : State :=
  let x := s.cp p
  let write := decide (op = .rw) || decide (src ≠ 0)
  if !s.cpMay p num write then s.cpIllegal p
  else
    let old := (s.cpCsr p num).getD 0
    let v : Word := if imm then BitVec.ofNat 64 (src % 32) else x.reg src
    let new := match op with
      | .rw => v
      | .rs => old ||| v
      | .rc => old &&& ~~~v
    let s1 := s.updCp p (fun y => (y.setReg rd old).retired 4)
    if write then s1.cpWrite p num new else s1

/-! ## Returns from a trap -/

/-- MRET: the pc from `mepc`, the mode from MPP, the interrupt enable from MPIE; MPP becomes supervisor, the lower mode there is. -/
def Cp.mret (x : Cp) : Cp :=
  let c := x.csrs
  let low := decide (field c.mstatus 12 11 ≠ 3)
  { x with
    pc := c.mepc
    smode := low
    csrs := { c with mstatus := (c.mstatus &&& ~~~(0x1888#64 ||| bitIf low 17)) ||| bitIf (c.mstatus.getLsbD 7) 3 ||| 0x880#64 } }

/-- SRET: the pc from `sepc`, the interrupt enable from SPIE; without a user mode it stays in, or goes to, supervisor mode. -/
def Cp.sret (x : Cp) : Cp :=
  let c := x.csrs
  { x with
    pc := c.sepc
    smode := true
    csrs := { c with mstatus := (c.mstatus &&& ~~~0x20022#64) ||| bitIf (c.mstatus.getLsbD 5) 1 ||| bitIf true 5 } }

/-! ## Interrupts (22 R453) -/

/-- The interrupts pending: a save-complete notice not yet taken is a machine external interrupt. -/
def Cp.pending (x : Cp) : Word := x.csrs.mip ||| bitIf (!x.irqs.isEmpty) 11

/-- The interrupt that is taken next, none where no enabled one is pending: those of machine mode first, then those delegated. -/
def Cp.interruptDue (x : Cp) : Option Nat :=
  let c := x.csrs
  let ready := [11, 3, 7, 9, 1, 5].filter (fun i => (x.pending &&& c.mie).getLsbD i)
  let machine := if x.smode || c.mstatus.getLsbD 3 then ready.filter (fun i => !c.mideleg.getLsbD i) else []
  let supervisor := if x.smode && c.mstatus.getLsbD 1 then ready.filter (fun i => c.mideleg.getLsbD i) else []
  (machine ++ supervisor).head?

/-- Interrupt `i` is taken. A save-complete notice's cause is 0x1000 above the core field it names (DESIGN CHOICE, log entry 69: 22
R453 says only that the cause names the core). A vectored base gives each cause its own entry. -/
def Cp.interrupt (x : Cp) (i : Nat) : Cp :=
  let code := if i = 11 then 0x1000 + x.irqs.headD 0 else i
  let cause : Word := BitVec.ofNat 64 code ||| bitIf true 63
  let enter := fun (y : Cp) (base : Word) => { y with
    pc := if base.getLsbD 0 then y.pc + BitVec.ofNat 64 (4 * code) else y.pc
    irqs := if i = 11 then x.irqs.tail else x.irqs }
  if x.csrs.mideleg.getLsbD i then enter (x.supervisorTrap cause 0) x.csrs.stvec else enter (x.machineTrap cause 0) x.csrs.mtvec

/-! ## Memory, through Sv48 and the physical memory protection -/

/-- The kinds of access of the firmware. -/
inductive CpAcc where
  | load | store | fetch
  deriving DecidableEq, Repr

/-- Configuration and address of protection entry `i`. -/
def CpCsrs.pmpCfg (c : CpCsrs) (i : Nat) : Nat := pmpByte (NMap.get 0 c.pmpcfg (i / 8 * 2)) (i % 8)
def CpCsrs.pmpAddr (c : CpCsrs) (i : Nat) : Nat := (NMap.get 0 c.pmpaddr i).toNat

/-- How many of the low `fuel` bits are ones before the first zero. -/
def trailingOnes (n : Nat) : Nat → Nat
  | 0 => 0
  | k + 1 => if n % 2 = 1 then 1 + trailingOnes (n / 2) k else 0

/-- The addresses of a protection entry, from the first to before the second; none where it is off. -/
def CpCsrs.pmpRange (c : CpCsrs) (i : Nat) : Nat × Nat :=
  let a := c.pmpAddr i
  match c.pmpCfg i / 8 % 4 with
  | 0 => (0, 0)
  | 1 => (if i = 0 then 0 else 4 * c.pmpAddr (i - 1), 4 * a)
  | 2 => (4 * a, 4 * a + 4)
  | _ =>
    let k := trailingOnes a 54
    (4 * (a - (2 ^ k - 1)), 4 * (a - (2 ^ k - 1)) + 2 ^ (k + 3))

/-- Whether the protection lets an access be made: by the first entry with a byte of it, which must have them all. Machine mode is
bound by locked entries alone; supervisor mode needs an entry. -/
def CpCsrs.pmpLets (c : CpCsrs) (sup : Bool) (pa n : Nat) (a : CpAcc) : Bool :=
  match (List.range 64).find? (fun i => decide ((c.pmpRange i).1 < pa + n) && decide (pa < (c.pmpRange i).2)) with
  | none => !sup
  | some i =>
    let cfg := c.pmpCfg i
    decide ((c.pmpRange i).1 ≤ pa) && decide (pa + n ≤ (c.pmpRange i).2) && ((!sup && cfg / 128 % 2 = 0) || (match a with
      | .load => cfg % 2 = 1
      | .store => cfg / 2 % 2 = 1
      | .fetch => cfg / 4 % 2 = 1))

/-- Whether a leaf entry of a page table lets supervisor mode make an access. -/
def leafLets (c : CpCsrs) (pte : Word) (a : CpAcc) : Bool :=
  pte.getLsbD 6 && (match a with
    | .load => (!pte.getLsbD 4 || c.mstatus.getLsbD 18) && (pte.getLsbD 1 || (c.mstatus.getLsbD 19 && pte.getLsbD 3))
    | .store => (!pte.getLsbD 4 || c.mstatus.getLsbD 18) && pte.getLsbD 2 && pte.getLsbD 7
    | .fetch => !pte.getLsbD 4 && pte.getLsbD 3)

/-- What becomes of an address: a physical one, a page fault, an access fault, or a wait for the flip of a page that the access is
new to (06 R179, R180). -/
inductive CpReach where
  | at (pa : Nat)
  | pageFault
  | accessFault
  | held
  deriving DecidableEq, Repr

/-- An access to physical memory: outside the memory of 01 R21, or where the protection forbids it, it is an access fault. -/
def State.cpPhysical (s : State) (c : CpCsrs) (sup : Bool) (pa n : Nat) (a : CpAcc) : CpReach :=
  if decide (2 ^ 48 ≤ pa) || isReservedPa pa || !c.pmpLets sup pa n a then .accessFault
  else if s.heldAt pa n then .held
  else .at pa

/-- The walk of Sv48 for an access from the table at `table` on some levels; its own reads are supervisor mode's. -/
def State.sv48 (s : State) (c : CpCsrs) (va n : Nat) (a : CpAcc) (table : Nat) : Nat → CpReach
  | 0 => .pageFault
  | level + 1 =>
    match s.cpPhysical c true (table * 4096 + va / 2 ^ (12 + 9 * level) % 512 * 8) 8 .load with
    | .at ea =>
      let pte := s.readWord ea
      let ppn := field pte 53 10
      if !pte.getLsbD 0 || (!pte.getLsbD 1 && pte.getLsbD 2) || decide (pte.toNat / 2 ^ 54 ≠ 0) then .pageFault
      else if pte.getLsbD 1 || pte.getLsbD 3 then
        if ppn % 2 ^ (9 * level) ≠ 0 || !leafLets c pte a then .pageFault
        else s.cpPhysical c true (ppn * 4096 + va % 2 ^ (12 + 9 * level)) n a
      else if decide (field pte 7 6 ≠ 0) || pte.getLsbD 4 then .pageFault
      else s.sv48 c va n a ppn level
    | r => r

/-- Where an access goes: in machine mode, or with Bare, to the address itself (22 R443); MPRV gives loads and stores the mode in
MPP. -/
def State.cpAddress (s : State) (x : Cp) (va : Word) (n : Nat) (a : CpAcc) : CpReach :=
  let c := x.csrs
  let sup := x.smode || (decide (a ≠ .fetch) && c.mstatus.getLsbD 17 && decide (field c.mstatus 12 11 = 1))
  if !sup || field c.satp 63 60 ≠ 9 then s.cpPhysical c sup va.toNat n a
  else if (va.setWidth 48).signExtend 64 ≠ va then .pageFault
  else s.sv48 c (va.toNat % 2 ^ 48) n a (field c.satp 43 0) 4

/-- The cause of the access fault of a kind of access. -/
def CpAcc.cause : CpAcc → Nat
  | .load => 5 | .store => 7 | .fetch => 1

/-- An access of the firmware at an address: a misaligned one, one without a translation and one that physical memory does not take
raise their exceptions; one that is held changes nothing yet; `go` is what it does at the physical address. -/
def State.cpAccess (s : State) (p : Nat) (va : Word) (n : Nat) (a : CpAcc) (go : Nat → State) : State :=
  if va.toNat % max 1 n ≠ 0 then s.cpTrap p (BitVec.ofNat 64 (a.cause - 1)) va
  else match s.cpAddress (s.cp p) va n a with
    | .pageFault => s.cpTrap p (BitVec.ofNat 64 (if a = .fetch then 12 else a.cause + 8)) va
    | .accessFault => s.cpTrap p (BitVec.ofNat 64 a.cause) va
    | .held => s
    | .at pa => go pa

/-- A value read, extended to 64 bits. -/
def cpExtend (bytes : Nat) (signed : Bool) (v : Nat) : Word :=
  if signed then BitVec.ofInt 64 (signedOf (8 * bytes) v) else BitVec.ofNat 64 v

/-- A read of `n` bytes by command processor `p`. -/
def State.cpLoad (s : State) (p : Nat) (va : Word) (n : Nat) (done : Cp → Nat → Cp) : State :=
  s.cpAccess p va n .load (fun pa => s.updCp p (fun y => done y (s.read pa n)))
/-- A write of `n` bytes. -/
def State.cpStore (s : State) (p : Nat) (va : Word) (n v : Nat) (done : Cp → Cp) : State :=
  s.cpAccess p va n .store (fun pa => (s.writePhys (physBytes pa n v)).updCp p done)

/-- What an AMO of `n` bytes writes, the value read given. -/
def rvAmoResult (op : RvAmo) (n old : Nat) (v : Word) : Nat :=
  (rvAmo (w := 8 * n) op (BitVec.ofNat (8 * n) old) (v.setWidth (8 * n))).toNat

/-- Whether the reservation of a load-reserved stands for `n` bytes at an address: nothing of them has been written since. -/
def State.reservedFor (s : State) (x : Cp) (pa n : Nat) : Bool :=
  match x.reserved with
  | some (a, m, at0) => decide (a = pa) && decide (m = n) &&
    !(s.changed.take (s.changed.length - at0)).any (fun loc => within pa (pa + n - 1) loc)
  | none => false

/-! ## One step -/

/-- An instruction of floating point, which needs FS not Off and, where it rounds, a rounding mode that there is: `go` has the mode. -/
def State.cpFloat (s : State) (p : Nat) (rm : Nat) (go : Nat → State) : State :=
  let c := (s.cp p).csrs
  let m := if rm = 7 then c.fcsr.toNat / 2 ^ 5 else rm
  if field c.mstatus 14 13 = 0 || decide (4 < m) then s.cpIllegal p else go m

/-- What a decoded instruction of `len` bytes of command processor `p` does. -/
def State.cpRun (s : State) (p len : Nat) (scFails : Bool) (i : Rv) : State :=
  let x := s.cp p
  let upd := fun (g : Cp → Cp) => s.updCp p (fun y => (g y).retired len)
  let flt := fun (d : Bool) (rd rm : Nat) (r : Nat → Flagged) =>
    s.cpFloat p rm (fun m => upd (fun y => (y.setFreg d rd (r m).1).raise (r m).2))
  let toX := fun (rd rm : Nat) (r : Nat → Word × Nat) => s.cpFloat p rm (fun m => upd (fun y => (y.setReg rd (r m).1).raise (r m).2))
  match i with
  | .lui rd v => upd (·.setReg rd v)
  | .auipc rd v => upd (·.setReg rd (x.pc + v))
  | .jal rd off => s.updCp p (fun y => (y.setReg rd (x.pc + BitVec.ofNat 64 len)).jumped (x.pc + off))
  | .jalr rd rs off => s.updCp p (fun y => (y.setReg rd (x.pc + BitVec.ofNat 64 len)).jumped (x.reg rs + off))
  | .branch fn a b off => if rvTaken fn (x.reg a) (x.reg b) then s.updCp p (·.jumped (x.pc + off)) else upd id
  | .load rd rs off size signed =>
    s.cpLoad p (x.reg rs + off) (2 ^ size) (fun y v => (y.setReg rd (cpExtend (2 ^ size) signed v)).retired len)
  | .store rs src off size => s.cpStore p (x.reg rs + off) (2 ^ size) (x.reg src).toNat (·.retired len)
  | .alu op word rd a b => upd (·.setReg rd (rvAlu op word (x.reg a) (match b with
      | .reg r => x.reg r
      | .imm v => v)))
  | .fence => upd id
  | .lr d rd rs =>
    let n := if d then 8 else 4
    s.cpAccess p (x.reg rs) n .load (fun pa => upd (fun y =>
      { y.setReg rd (cpExtend n true (s.read pa n)) with reserved := some (pa, n, s.changed.length) }))
  | .sc d rd rs src =>
    let n := if d then 8 else 4
    s.cpAccess p (x.reg rs) n .store (fun pa =>
      let ok := s.reservedFor x pa n && !scFails
      let s1 := if ok then s.writePhys (physBytes pa n (x.reg src).toNat) else s
      s1.updCp p (fun y => { (y.setReg rd (if ok then 0 else 1)).retired len with reserved := none }))
  | .amo op d rd rs src =>
    let n := if d then 8 else 4
    s.cpAccess p (x.reg rs) n .store (fun pa =>
      (s.writePhys (physBytes pa n (rvAmoResult op n (s.read pa n) (x.reg src)))).updCp p
        (fun y => (y.setReg rd (cpExtend n true (s.read pa n))).retired len))
  | .csr op rd num src imm => s.cpCsrInstr p op rd num src imm
  | .ecall => s.cpTrap p (if x.smode then 9 else 11) 0
  | .ebreak => s.cpTrap p 3 x.pc
  | .mret => if x.smode then s.cpIllegal p else s.updCp p Cp.mret
  | .sret => if x.smode && x.csrs.mstatus.getLsbD 22 then s.cpIllegal p else s.updCp p Cp.sret
  | .wfi => if x.smode && x.csrs.mstatus.getLsbD 21 then s.cpIllegal p else upd id
  | .sfence => if x.smode && x.csrs.mstatus.getLsbD 20 then s.cpIllegal p else upd id
  | .fload d rd rs off =>
    let n := if d then 8 else 4
    s.cpFloat p 0 (fun _ => s.cpLoad p (x.reg rs + off) n (fun y v => (y.setFreg d rd v).retired len))
  | .fstore d rs src off =>
    s.cpFloat p 0 (fun _ => s.cpStore p (x.reg rs + off) (if d then 8 else 4) (NMap.get 0 x.f src).toNat (·.retired len))
  | .fma d np na rm rd a b c => flt d rd rm (fun m => rvFma (rvFmt d) np na m (x.freg d a) (x.freg d b) (x.freg d c))
  | .farith op d rm rd a b => flt d rd rm (fun m => rvFp (rvFmt d) op m (x.freg d a) (x.freg d b))
  | .fsgn d fn rd a b => flt d rd 0 (fun _ => (rvSign (rvFmt d) fn (x.freg d a) (x.freg d b), 0))
  | .fminmax d max rd a b => flt d rd 0 (fun _ => rvMinMax (rvFmt d) max (x.freg d a) (x.freg d b))
  | .fcmp d fn rd a b => toX rd 0 (fun _ =>
      let r := rvCompare (rvFmt d) fn (x.freg d a) (x.freg d b)
      (BitVec.ofNat 64 r.1, r.2))
  | .fclass d rd a => toX rd 0 (fun _ => (BitVec.ofNat 64 (rvClass (rvFmt d) (x.freg d a)), 0))
  | .fcvtToInt d fn rm rd a => toX rd rm (fun m => rvCvtToInt (rvFmt d) fn m (x.freg d a))
  | .fcvtFromInt d fn rm rd a => flt d rd rm (fun m => rvCvtFromInt (rvFmt d) fn m (x.reg a))
  | .fcvtFmt d rm rd a => flt d rd rm (fun m => rvCvtFmt d m (x.freg (!d) a))
  | .fmvToX d rd a => toX rd 0 (fun _ => (cpExtend (if d then 8 else 4) true (field (NMap.get 0 x.f a) (if d then 63 else 31) 0), 0))
  | .fmvFromX d rd a => flt d rd 0 (fun _ => ((x.reg a).toNat, 0))

/-- The instruction is fetched, each half of a 32-bit one at its own address, and executed; an illegal one raises its exception. -/
def State.cpExecute (s : State) (p : Nat) (a : CpAct) : State :=
  let w := a.word.toNat
  let pc := (s.cp p).pc
  let run := match rvDecode w with
    | some i => s.cpRun p (rvLength w) a.scFails i
    | none => s.cpIllegal p
  s.cpAccess p pc 2 .fetch (fun _ => if rvLength w = 4 then s.cpAccess p (pc + 2) 2 .fetch (fun _ => run) else run)

/-- A step of command processor `p` while it runs: an interrupt that is due, else an instruction. -/
def State.firmware (s : State) (p : Nat) (a : CpAct) : State :=
  if decide (4 ≤ p) || !(s.cp p).running then s
  else match (s.cp p).interruptDue with
    | some i => s.updCp p (·.interrupt i)
    | none => s.cpExecute p a

end Sys2Proof.Machine
end

