-- ==== Sys2Proof/Machine/Resume.lean ====
section
/-! DEFINITION. The turn of a thread: a wait that is over, the second half of an instruction, the barrel slot, the
breakpoint, the fetch (07 R186 to R188, R194, R196; 01 R36; 18 R424, R430). -/

namespace Sys2Proof.Machine

/-! ## Waits (07 R188) -/

/-- Whether a wait is over that no step of its own ends. -/
def State.waitOver (s : State) (t : Nat) (w : Wait) : Bool :=
  let x := s.thread t
  let k := coreOf t
  let cl := clusterOf k
  match w with
  | .reply => false
  | .taint mask => decide (mask &&& x.busyTags = 0)
  | .tag age => !x.tags.any (fun p => p.2.busy && decide (p.2.age = age))
  | .tile e => (s.tile k e).usable 1
  | .tileMat e => (s.tile k e).usable 1
  | .tileIdle e => ((s.tile k e).state = .ready || (s.tile k e).state = .empty) && decide ((s.tile k e).op = .none)
  | .tileSettled e => (s.tile k e).quiet
  | .tileFree => tileEntries.any (fun e => !(s.tile k e).live)
  | .settled => x.storesSettled
  | .loads => x.loadsSettled
  | .fence mask scope => s.fenceHolds t mask scope.toNat
  | .drained => x.drained
  | .tlb _ _ _ => false
  | .missSlot => (s.core k).freeMiss.isSome
  | .fetch _ _ => false
  | .refill _ _ _ => false
  | .latency _ => false
  | .budget => decide (x.ebBudget ≠ 0)
  | .align => false
  | .acc one => match ((s.core k).acc one).owner with
    | none => true
    | some c => decide (c = ctxOf t)
  | .matrix => false
  | .window ways => !ways.any (s.wayBusy cl)
  | .block c blk => !s.atBlock t c blk
  | .bank b => !(s.core k).gated && (decide (32 ≤ b) || (s.core k).spAwake.getLsbD b)
  | .gate j => !(s.core j).gated
  | .engineQueue g => decide (s.queued g < 16)
  | .ownFifo => (s.headReq (.thread t) (.core k)).isNone
  | .push => false
  | .channel _ _ => false
  | .channelRecord c chan => ((s.cluster c).channel x.launch chan).isSome
  | .completion off => decide (field (s.readWord (locSpm k off)) 63 60 ≠ 0)
  | .inbox => false
  | .tlbi => false
  | .writeback => false
  | .twin g => !((s.cluster cl).mmacs.any (fun a => decide (a.launch = x.launch) && decide (a.group.toNat = g) && decide (coreOf a.t = k)))
  | .preempt => false

/-! ## Second halves -/

/-- A SPAWN reads its record once Stores settled holds, and pushes it where the read completes at once (14 R371). -/
def State.goSpawn (s : State) (t : Nat) (p : Place) : State :=
  if !(s.thread t).storesSettled then s.stop t (.waiting .settled)
  else match s.spawnRead t p with
    | .error (.wait w) => s.stop t (.waiting w)
    | .error _ => s
    | .ok s1 => match (s1.thread t).stage with
      | some (.spawnRead rec) => s1.spawnPush t rec
      | _ => s1

/-- The second half of an instruction goes on. Barriers and meets wait for Drained and are taken by their own steps. -/
def State.goStage (s : State) (t : Nat) (st : Stage) : State :=
  let whenDrained := fun (go : State) => if (s.thread t).drained then go else s.stop t (.waiting .drained)
  match st with
  | .barrier _ => s.stop t (.waiting .drained)
  | .meet _ _ _ _ => s.stop t (.waiting .drained)
  | .finish results => whenDrained (s.finishThread t results)
  | .halt => whenDrained (s.haltThread t)
  | .spawn p => s.goSpawn t p
  | .spawnRead rec => s.spawnPush t rec
  | .copy _ _ _ => s.wake t

/-- A thread that waits for a pool slot tries again: its released children first, then its own record or what the
instruction still has to do (16 R411). -/
def State.retryPush (s : State) (t : Nat) : State :=
  let s1 := s.placeChildren t (s.thread t).releasing
  if (s1.thread t).releasing ≠ [] then s1
  else match (s1.thread t).stage with
    | some st => s1.goStage t st
    | none => s1.wake t

/-! ## Fetch (07 R194, R196; 01 R36) -/

/-- The bytes of a block from offset `off`, at most four, none past its end (07 R194). -/
def Block.bytes (b : Block) (off : Nat) : List Byte :=
  (List.range (min 4 (64 - off))).map (fun i => b.bits.extractLsb' (8 * (off + i)) 8)

/-- The held block that covers `pc`. -/
def Core.blockAt (c : Core) (asid : Nat) (pc : Word) : Option Block :=
  c.blocks.find? (fun b => decide (b.asid = asid) && decide (b.va = pc.toNat / 64 * 64))

/-- The bytes at a thread's PC, or none where its core does not hold the block. The TSC fetches from its own store. -/
def State.fetch (s : State) (t : Nat) : Option (List Byte) :=
  let pc := (s.thread t).pc
  let off := pc.toNat % 64
  if isTsc t then
    some ((List.range (min 4 (64 - off))).map (fun i => s.byte (locIstore (clusterOf (coreOf t)) (pc.toNat + i))))
  else ((s.core (coreOf t)).blockAt (s.thread t).asid pc).map (fun b => b.bytes off)

/-- A thread waits for a block: its request joins the one that is outstanding, whichever core made it (07 R196). -/
def State.missBlock (s : State) (t : Nat) : State :=
  let asid := (s.thread t).asid
  let va := (s.thread t).pc.toNat / 64 * 64
  let same := fun (f : Fetch) => decide (f.asid = asid) && decide (f.va = va)
  let join := fun (fs : List Fetch) =>
    if fs.any same then fs.map (fun f => if same f then { f with waiters := f.waiters ++ [t] } else f)
    else fs ++ [{ asid := asid, va := va, waiters := [t], fn := (s.thread t).fn, launch := (s.thread t).launch }]
  let s1 := s.updCluster (clusterOf (coreOf t)) (fun c => { c with fetches := join c.fetches })
  s1.stop t (.waiting (.fetch asid va))

/-- Whether a thread at a commit point or a dispatch has a save request to honour before it issues (18 R430). -/
def State.savePending (s : State) (t : Nat) : Bool :=
  (s.thread t).boundary && s.preempts.any (fun r => decide (r.t = t) && !r.gone && decide (r.launch = (s.thread t).launch))

/-- What a thread's turn comes to: an instruction to run, or a step that is over. -/
inductive Turn where
  | run (i : Instr)
  | over (o : Outcome)

/-- The turn of a ready thread in its barrel slot (18 R424): a save request, the breakpoint, the fetch, the decoding. -/
noncomputable def State.issueTurn (s : State) : Turn :=
  let t := s.cur
  if s.savePending t then .over (.next (s.stop t (.waiting .preempt)))
  else if s.breakpoints.contains s.me.pc then .over (settle s (.error (.trap { cause := causeDebug })))
  else if !codeAddress t s.me.pc then .over (settle s (localFault s.me.pc))
  else match s.fetch t with
    | none => .over (.next (s.missBlock t))
    | some bs => match decode bs with
      | .ok (i, _) => .run i
      | .error _ => .over (settle s illegal)

/-- The issuing thread's core has issued in this cycle, and the thread's next instruction issues 8 cycles later at the earliest (07
R188; log entry 100). -/
def State.claim (s : State) : State := (s.tie (.issue (coreOf s.cur)) 0).updMe (fun x => { x with notBefore := s.cycle + 8 })

/-- The turn of the issuing thread: a wait that is over ends; a ready thread issues in the cycles of its slot, its core once a
cycle (07 R187). -/
noncomputable def State.turn (s : State) : Turn :=
  let t := s.cur
  match s.me.run with
  | .waiting w =>
    if w = .push then .over (.next (s.retryPush t))
    else if s.waitOver t w then
      match s.me.stage with
      | some st => .over (.next (s.goStage t st))
      | none => .over (.next (s.wake t))
    else .over (.next s)
  | .ready =>
    if (s.core (coreOf t)).slotOf t ≠ some (s.cycle % 8) || s.tieTaken (.issue (coreOf t)) || decide (s.cycle < s.me.notBefore) then
      .over (.next s)
    else
      let c := s.claim
      match s.me.stage with
      | some (.copy w cls tile) => .over (settle c (c.copyGo w cls tile))
      | some st => .over (.next (c.goStage t st))
      | none => c.issueTurn
  | _ => .over (.next s)

/-- The cycle of the next step: the environment says how many pass, else one does (log entry 1). -/
def State.nextCycle (s : State) : Nat := s.cycle + s.pace.headD 1

/-- Cycles pass before a step. In a new cycle nothing has been done yet of what a cycle orders. Then goes on what waits for no step of
its own: the parts of records that can be written, and the launches and save blocks they complete; CXL.io requests; hearth updates
that are 32 cycles old; shootdowns. -/
def State.tick (s : State) : State :=
  let s1 : State := { s with cycle := s.nextCycle, pace := s.pace.tail, taken := if s.nextCycle = s.cycle then s.taken else [] }
  s1.runLater.runClosed.finishBlocks.ioServeAll.hearthOverdue.shootAll

end Sys2Proof.Machine
end

