-- ==== Sys2Proof/Machine/Dispatch.lean ====
section
/-! DEFINITION. One arm for each row of the opcode table: the meaning it calls. -/

namespace Sys2Proof.Machine

/-- The step of an instruction, or of a row that is a step of the machine. -/
def exec (i : Instr) (s : State) : Host.Outcome State Fault Refusal :=
  match i with
  | .add z m n b a d => Sys2Proof.Machine.execAdd z m n b a d s
  | .sub z m n b a d => Sys2Proof.Machine.execSub z m n b a d s
  | .and z m n b a d => Sys2Proof.Machine.execAnd z m n b a d s
  | .or z m n b a d => Sys2Proof.Machine.execOr z m n b a d s
  | .xor z m n b a d => Sys2Proof.Machine.execXor z m n b a d s
  | .andn z m n b a d => Sys2Proof.Machine.execAndn z m n b a d s
  | .sll z m n b a d => Sys2Proof.Machine.execSll z m n b a d s
  | .srl z m n b a d => Sys2Proof.Machine.execSrl z m n b a d s
  | .sra z m n b a d => Sys2Proof.Machine.execSra z m n b a d s
  | .ror z m n b a d => Sys2Proof.Machine.execRor z m n b a d s
  | .min z m n b a d => Sys2Proof.Machine.execMin z m n b a d s
  | .max z m n b a d => Sys2Proof.Machine.execMax z m n b a d s
  | .minu z m n b a d => Sys2Proof.Machine.execMinu z m n b a d s
  | .maxu z m n b a d => Sys2Proof.Machine.execMaxu z m n b a d s
  | .slt z m n b a d => Sys2Proof.Machine.execSlt z m n b a d s
  | .sltu z m n b a d => Sys2Proof.Machine.execSltu z m n b a d s
  | .seq z m n b a d => Sys2Proof.Machine.execSeq z m n b a d s
  | .sne z m n b a d => Sys2Proof.Machine.execSne z m n b a d s
  | .cmovz m n b a d => Sys2Proof.Machine.execCmovz m n b a d s
  | .cmovnz m n b a d => Sys2Proof.Machine.execCmovnz m n b a d s
  | .clz z n a d => Sys2Proof.Machine.execClz z n a d s
  | .ctz z n a d => Sys2Proof.Machine.execCtz z n a d s
  | .popc z n a d => Sys2Proof.Machine.execPopc z n a d s
  | .mul z m n b a d => Sys2Proof.Machine.execMul z m n b a d s
  | .mulh z m n b a d => Sys2Proof.Machine.execMulh z m n b a d s
  | .mulhu z m n b a d => Sys2Proof.Machine.execMulhu z m n b a d s
  | .mulhsu z m n b a d => Sys2Proof.Machine.execMulhsu z m n b a d s
  | .div z m n b a d => Sys2Proof.Machine.execDiv z m n b a d s
  | .divu z m n b a d => Sys2Proof.Machine.execDivu z m n b a d s
  | .rem z m n b a d => Sys2Proof.Machine.execRem z m n b a d s
  | .remu z m n b a d => Sys2Proof.Machine.execRemu z m n b a d s
  | .addi im n a d => Sys2Proof.Machine.execAddi im n a d s
  | .andi im n a d => Sys2Proof.Machine.execAndi im n a d s
  | .ori im n a d => Sys2Proof.Machine.execOri im n a d s
  | .xori im n a d => Sys2Proof.Machine.execXori im n a d s
  | .slli z c n a d => Sys2Proof.Machine.execSlli z c n a d s
  | .srli z c n a d => Sys2Proof.Machine.execSrli z c n a d s
  | .srai z c n a d => Sys2Proof.Machine.execSrai z c n a d s
  | .rori z c n a d => Sys2Proof.Machine.execRori z c n a d s
  | .seqi im n a d => Sys2Proof.Machine.execSeqi im n a d s
  | .snei im n a d => Sys2Proof.Machine.execSnei im n a d s
  | .slti im n a d => Sys2Proof.Machine.execSlti im n a d s
  | .sltiu im n a d => Sys2Proof.Machine.execSltiu im n a d s
  | .lui im d => Sys2Proof.Machine.execLui im d s
  | .leapc im d => Sys2Proof.Machine.execLeapc im d s
  | .bfxu l p n a d => Sys2Proof.Machine.execBfxu l p n a d s
  | .bfx l p n a d => Sys2Proof.Machine.execBfx l p n a d s
  | .bfi l p n a d => Sys2Proof.Machine.execBfi l p n a d s
  | .fadd m n b a d => Sys2Proof.Machine.execFadd m n b a d s
  | .fsub m n b a d => Sys2Proof.Machine.execFsub m n b a d s
  | .fmul m n b a d => Sys2Proof.Machine.execFmul m n b a d s
  | .fma m n b a d => Sys2Proof.Machine.execFma m n b a d s
  | .fdiv m n b a d => Sys2Proof.Machine.execFdiv m n b a d s
  | .fcmp m n b a d => Sys2Proof.Machine.execFcmp m n b a d s
  | .fcvtif n a d => Sys2Proof.Machine.execFcvtif n a d s
  | .fcvtfi n a d => Sys2Proof.Machine.execFcvtfi n a d s
  | .beq im b a => Sys2Proof.Machine.execBeq im b a s
  | .bne im b a => Sys2Proof.Machine.execBne im b a s
  | .blt im b a => Sys2Proof.Machine.execBlt im b a s
  | .bge im b a => Sys2Proof.Machine.execBge im b a s
  | .bltu im b a => Sys2Proof.Machine.execBltu im b a s
  | .bgeu im b a => Sys2Proof.Machine.execBgeu im b a s
  | .j im => Sys2Proof.Machine.execJ im s
  | .call im l => Sys2Proof.Machine.execCall im l s
  | .jr im n a => Sys2Proof.Machine.execJr im n a s
  | .callr im n a d => Sys2Proof.Machine.execCallr im n a d s
  | .lb o n b d => Sys2Proof.Machine.execLb o n b d s
  | .lh o n b d => Sys2Proof.Machine.execLh o n b d s
  | .lw o n b d => Sys2Proof.Machine.execLw o n b d s
  | .ld o n b d => Sys2Proof.Machine.execLd o n b d s
  | .lbu o n b d => Sys2Proof.Machine.execLbu o n b d s
  | .lhu o n b d => Sys2Proof.Machine.execLhu o n b d s
  | .lwu o n b d => Sys2Proof.Machine.execLwu o n b d s
  | .sb o m n b d => Sys2Proof.Machine.execSb o m n b d s
  | .sh o m n b d => Sys2Proof.Machine.execSh o m n b d s
  | .sw o m n b d => Sys2Proof.Machine.execSw o m n b d s
  | .sd o m n b d => Sys2Proof.Machine.execSd o m n b d s
  | .ldm o c n b d => Sys2Proof.Machine.execLdm o c n b d s
  | .stm o c n b d => Sys2Proof.Machine.execStm o c n b d s
  | .aadd z m n b a d => Sys2Proof.Machine.execAadd z m n b a d s
  | .afadd z m n b a d => Sys2Proof.Machine.execAfadd z m n b a d s
  | .amin z m n b a d => Sys2Proof.Machine.execAmin z m n b a d s
  | .amax z m n b a d => Sys2Proof.Machine.execAmax z m n b a d s
  | .aminu z m n b a d => Sys2Proof.Machine.execAminu z m n b a d s
  | .amaxu z m n b a d => Sys2Proof.Machine.execAmaxu z m n b a d s
  | .aand z m n b a d => Sys2Proof.Machine.execAand z m n b a d s
  | .aor z m n b a d => Sys2Proof.Machine.execAor z m n b a d s
  | .axor z m n b a d => Sys2Proof.Machine.execAxor z m n b a d s
  | .aswap z m n b a d => Sys2Proof.Machine.execAswap z m n b a d s
  | .acas z m n b a d => Sys2Proof.Machine.execAcas z m n b a d s
  | .fence sc k => Sys2Proof.Machine.execFence sc k s
  | .tclr v d => Sys2Proof.Machine.execTclr v d s
  | .tjoin w v n a d => Sys2Proof.Machine.execTjoin w v n a d s
  | .twait w n a => Sys2Proof.Machine.execTwait w n a s
  | .bar n a => Sys2Proof.Machine.execBar n a s
  | .baradd z m n b a d => Sys2Proof.Machine.execBaradd z m n b a d s
  | .barfadd m n b a d => Sys2Proof.Machine.execBarfadd m n b a d s
  | .chsend m n b a => Sys2Proof.Machine.execChsend m n b a s
  | .chrecv n a d => Sys2Proof.Machine.execChrecv n a d s
  | .amld z n a d => Sys2Proof.Machine.execAmld z n a d s
  | .amst z m n b a => Sys2Proof.Machine.execAmst z m n b a s
  | .amopAadd z m n b a d => Sys2Proof.Machine.execAmopAadd z m n b a d s
  | .amopAfadd z m n b a d => Sys2Proof.Machine.execAmopAfadd z m n b a d s
  | .amopAmin z m n b a d => Sys2Proof.Machine.execAmopAmin z m n b a d s
  | .amopAmax z m n b a d => Sys2Proof.Machine.execAmopAmax z m n b a d s
  | .amopAminu z m n b a d => Sys2Proof.Machine.execAmopAminu z m n b a d s
  | .amopAmaxu z m n b a d => Sys2Proof.Machine.execAmopAmaxu z m n b a d s
  | .amopAand z m n b a d => Sys2Proof.Machine.execAmopAand z m n b a d s
  | .amopAor z m n b a d => Sys2Proof.Machine.execAmopAor z m n b a d s
  | .amopAxor z m n b a d => Sys2Proof.Machine.execAmopAxor z m n b a d s
  | .amopAswap z m n b a d => Sys2Proof.Machine.execAmopAswap z m n b a d s
  | .amopAcas z m n b a d => Sys2Proof.Machine.execAmopAcas z m n b a d s
  | .fork p => Sys2Proof.Machine.execFork p s
  | .meet w p => Sys2Proof.Machine.execMeet w p s
  | .meetC w q p => Sys2Proof.Machine.execMeetC w q p s
  | .done => Sys2Proof.Machine.execDone s
  | .align => Sys2Proof.Machine.execAlign s
  | .yield => Sys2Proof.Machine.execYield s
  | .spawn p => Sys2Proof.Machine.execSpawn p s
  | .waitw => Sys2Proof.Machine.execWaitw s
  | .taskend => Sys2Proof.Machine.execTaskend s
  | .commit => Sys2Proof.Machine.execCommit s
  | .hrq q p => Sys2Proof.Machine.execHrq q p s
  | .hrqSw q p => Sys2Proof.Machine.execHrqSw q p s
  | .tdef b a d => Sys2Proof.Machine.execTdef b a d s
  | .trel d => Sys2Proof.Machine.execTrel d s
  | .tstat a d => Sys2Proof.Machine.execTstat a d s
  | .twaitr d => Sys2Proof.Machine.execTwaitr d s
  | .tfill a d => Sys2Proof.Machine.execTfill a d s
  | .tcons d => Sys2Proof.Machine.execTcons d s
  | .mma z c e b a => Sys2Proof.Machine.execMma z c e b a s
  | .mmac z c e b a d => Sys2Proof.Machine.execMmac z c e b a d s
  | .mzero c e => Sys2Proof.Machine.execMzero c e s
  | .mstore c e a => Sys2Proof.Machine.execMstore c e a s
  | .mmask c e a => Sys2Proof.Machine.execMmask c e a s
  | .mscale c e b a => Sys2Proof.Machine.execMscale c e b a s
  | .cpy e a => Sys2Proof.Machine.execCpy e a s
  | .cpyw e a => Sys2Proof.Machine.execCpyw e a s
  | .cpyq e a d => Sys2Proof.Machine.execCpyq e a d s
  | .cpyc e a => Sys2Proof.Machine.execCpyc e a s
  | .bstake c d => Sys2Proof.Machine.execBstake c d s
  | .bspeek c d => Sys2Proof.Machine.execBspeek c d s
  | .bsemit c n a => Sys2Proof.Machine.execBsemit c n a s
  | .bsskip c => Sys2Proof.Machine.execBsskip c s
  | .bsalign c => Sys2Proof.Machine.execBsalign c s
  | .csrr c d => Sys2Proof.Machine.execCsrr c d s
  | .csrw c n a d => Sys2Proof.Machine.execCsrw c n a d s
  | .csrs c n a d => Sys2Proof.Machine.execCsrs c n a d s
  | .csrc c n a d => Sys2Proof.Machine.execCsrc c n a d s
  | .trap b => Sys2Proof.Machine.execTrap b s
  | .eret => Sys2Proof.Machine.execEret s
  | .halt => Sys2Proof.Machine.execHalt s
  | .dbg b => Sys2Proof.Machine.execDbg b s
  | .tlbw m n b a => Sys2Proof.Machine.execTlbw m n b a s
  | .tlbi t sc n a d => Sys2Proof.Machine.execTlbi t sc n a d s
  | .cwb n a => Sys2Proof.Machine.execCwb n a s
  | .cinv n a => Sys2Proof.Machine.execCinv n a s
  | .fmt sc r d b a => Sys2Proof.Machine.execFmt sc r d b a s
  | .vmov sc k b d => Sys2Proof.Machine.execVmov sc k b d s
  | .vadd n sc k b a d => Sys2Proof.Machine.execVadd n sc k b a d s
  | .vsub n sc k b a d => Sys2Proof.Machine.execVsub n sc k b a d s
  | .vmul n sc k b a d => Sys2Proof.Machine.execVmul n sc k b a d s
  | .vand n sc k b a d => Sys2Proof.Machine.execVand n sc k b a d s
  | .vor n sc k b a d => Sys2Proof.Machine.execVor n sc k b a d s
  | .vxor n sc k b a d => Sys2Proof.Machine.execVxor n sc k b a d s
  | .vshl n sc k b a d => Sys2Proof.Machine.execVshl n sc k b a d s
  | .vshr n sc k b a d => Sys2Proof.Machine.execVshr n sc k b a d s
  | .vmin n sc k b a d => Sys2Proof.Machine.execVmin n sc k b a d s
  | .vmax n sc k b a d => Sys2Proof.Machine.execVmax n sc k b a d s
  | .vsra n sc k b a d => Sys2Proof.Machine.execVsra n sc k b a d s
  | .vminu n sc k b a d => Sys2Proof.Machine.execVminu n sc k b a d s
  | .vmaxu n sc k b a d => Sys2Proof.Machine.execVmaxu n sc k b a d s
  | .vmulhu n sc k b a d => Sys2Proof.Machine.execVmulhu n sc k b a d s
  | .vmadd n sc k b a d => Sys2Proof.Machine.execVmadd n sc k b a d s
  | .vmovI im k d => Sys2Proof.Machine.execVmovI im k d s
  | .vaddI n im k a d => Sys2Proof.Machine.execVaddI n im k a d s
  | .vsubI n im k a d => Sys2Proof.Machine.execVsubI n im k a d s
  | .vmulI n im k a d => Sys2Proof.Machine.execVmulI n im k a d s
  | .vandI n im k a d => Sys2Proof.Machine.execVandI n im k a d s
  | .vorI n im k a d => Sys2Proof.Machine.execVorI n im k a d s
  | .vxorI n im k a d => Sys2Proof.Machine.execVxorI n im k a d s
  | .vshlI n k im a d => Sys2Proof.Machine.execVshlI n k im a d s
  | .vshrI n k im a d => Sys2Proof.Machine.execVshrI n k im a d s
  | .vminI n im k a d => Sys2Proof.Machine.execVminI n im k a d s
  | .vmaxI n im k a d => Sys2Proof.Machine.execVmaxI n im k a d s
  | .vsraI n k im a d => Sys2Proof.Machine.execVsraI n k im a d s
  | .vminuI n im k a d => Sys2Proof.Machine.execVminuI n im k a d s
  | .vmaxuI n im k a d => Sys2Proof.Machine.execVmaxuI n im k a d s
  | .vfadd n sc k b a d => Sys2Proof.Machine.execVfadd n sc k b a d s
  | .vfsub n sc k b a d => Sys2Proof.Machine.execVfsub n sc k b a d s
  | .vfmul n sc k b a d => Sys2Proof.Machine.execVfmul n sc k b a d s
  | .vfmin n sc k b a d => Sys2Proof.Machine.execVfmin n sc k b a d s
  | .vfmax n sc k b a d => Sys2Proof.Machine.execVfmax n sc k b a d s
  | .vfma n sc k b a d => Sys2Proof.Machine.execVfma n sc k b a d s
  | .vfdiv n sc k b a d => Sys2Proof.Machine.execVfdiv n sc k b a d s
  | .vfsqrt n k a d => Sys2Proof.Machine.execVfsqrt n k a d s
  | .vfabs n k a d => Sys2Proof.Machine.execVfabs n k a d s
  | .vfneg n k a d => Sys2Proof.Machine.execVfneg n k a d s
  | .vceq n sc k b a d => Sys2Proof.Machine.execVceq n sc k b a d s
  | .vcne n sc k b a d => Sys2Proof.Machine.execVcne n sc k b a d s
  | .vclt n sc k b a d => Sys2Proof.Machine.execVclt n sc k b a d s
  | .vcle n sc k b a d => Sys2Proof.Machine.execVcle n sc k b a d s
  | .vcltu n sc k b a d => Sys2Proof.Machine.execVcltu n sc k b a d s
  | .vcleu n sc k b a d => Sys2Proof.Machine.execVcleu n sc k b a d s
  | .vfceq n sc k b a d => Sys2Proof.Machine.execVfceq n sc k b a d s
  | .vfclt n sc k b a d => Sys2Proof.Machine.execVfclt n sc k b a d s
  | .vfcle n sc k b a d => Sys2Proof.Machine.execVfcle n sc k b a d s
  | .vcvt n k a d => Sys2Proof.Machine.execVcvt n k a d s
  | .vcvtif n k a d => Sys2Proof.Machine.execVcvtif n k a d s
  | .vcvtuf n k a d => Sys2Proof.Machine.execVcvtuf n k a d s
  | .vcvtfi n k a d => Sys2Proof.Machine.execVcvtfi n k a d s
  | .vcvtfu n k a d => Sys2Proof.Machine.execVcvtfu n k a d s
  | .vperm n sc k b a d => Sys2Proof.Machine.execVperm n sc k b a d s
  | .vslideup n sc k b a d => Sys2Proof.Machine.execVslideup n sc k b a d s
  | .vslidedn n sc k b a d => Sys2Proof.Machine.execVslidedn n sc k b a d s
  | .vziplo n sc k b a d => Sys2Proof.Machine.execVziplo n sc k b a d s
  | .vziphi n sc k b a d => Sys2Proof.Machine.execVziphi n sc k b a d s
  | .vcompress n k a d => Sys2Proof.Machine.execVcompress n k a d s
  | .vexpand n k a d => Sys2Proof.Machine.execVexpand n k a d s
  | .vextr n b a d => Sys2Proof.Machine.execVextr n b a d s
  | .vradd n k a d => Sys2Proof.Machine.execVradd n k a d s
  | .vrmin n k a d => Sys2Proof.Machine.execVrmin n k a d s
  | .vrmax n k a d => Sys2Proof.Machine.execVrmax n k a d s
  | .vrand n k a d => Sys2Proof.Machine.execVrand n k a d s
  | .vror n k a d => Sys2Proof.Machine.execVror n k a d s
  | .vrxor n k a d => Sys2Proof.Machine.execVrxor n k a d s
  | .vrfadd n k a d => Sys2Proof.Machine.execVrfadd n k a d s
  | .vrfmax n k a d => Sys2Proof.Machine.execVrfmax n k a d s
  | .kand k b a d => Sys2Proof.Machine.execKand k b a d s
  | .kor k b a d => Sys2Proof.Machine.execKor k b a d s
  | .kxor k b a d => Sys2Proof.Machine.execKxor k b a d s
  | .kandn k b a d => Sys2Proof.Machine.execKandn k b a d s
  | .knot k a d => Sys2Proof.Machine.execKnot k a d s
  | .kmov k b d => Sys2Proof.Machine.execKmov k b d s
  | .kread k a d => Sys2Proof.Machine.execKread k a d s
  | .kpopc k a d => Sys2Proof.Machine.execKpopc k a d s
  | .kffs k a d => Sys2Proof.Machine.execKffs k a d s
  | .vqnt n a d => Sys2Proof.Machine.execVqnt n a d s
  | .vdqnt n a d => Sys2Proof.Machine.execVdqnt n a d s
  | .vdot n b a d => Sys2Proof.Machine.execVdot n b a d s
  | .vhist n k a d => Sys2Proof.Machine.execVhist n k a d s
  | .vld e k a d => Sys2Proof.Machine.execVld e k a d s
  | .vlds e k t a d => Sys2Proof.Machine.execVlds e k t a d s
  | .vldbc e k a d => Sys2Proof.Machine.execVldbc e k a d s
  | .vldb a d => Sys2Proof.Machine.execVldb a d s
  | .vst e k a d => Sys2Proof.Machine.execVst e k a d s
  | .vsts e k t a d => Sys2Proof.Machine.execVsts e k t a d s
  | .vgather e k x a d => Sys2Proof.Machine.execVgather e k x a d s
  | .vscatter e k x a d => Sys2Proof.Machine.execVscatter e k x a d s
  | .nop => Sys2Proof.Machine.execNop s
  | .vmov16 m b d => Sys2Proof.Machine.execVmov16 m b d s
  | .vadd16 m b d => Sys2Proof.Machine.execVadd16 m b d s
  | .vsub16 m b d => Sys2Proof.Machine.execVsub16 m b d s
  | .vmul16 m b d => Sys2Proof.Machine.execVmul16 m b d s
  | .vand16 m b d => Sys2Proof.Machine.execVand16 m b d s
  | .vor16 m b d => Sys2Proof.Machine.execVor16 m b d s
  | .vxor16 m b d => Sys2Proof.Machine.execVxor16 m b d s
  | .vshl16 m b d => Sys2Proof.Machine.execVshl16 m b d s
  | .vshr16 m b d => Sys2Proof.Machine.execVshr16 m b d s
  | .vmin16 m b d => Sys2Proof.Machine.execVmin16 m b d s
  | .vmax16 m b d => Sys2Proof.Machine.execVmax16 m b d s
  | .vfadd16 m b d => Sys2Proof.Machine.execVfadd16 m b d s
  | .vfsub16 m b d => Sys2Proof.Machine.execVfsub16 m b d s
  | .vfmul16 m b d => Sys2Proof.Machine.execVfmul16 m b d s
  | .vfmin16 m b d => Sys2Proof.Machine.execVfmin16 m b d s
  | .vfmax16 m b d => Sys2Proof.Machine.execVfmax16 m b d s
  | .longLatencyResult t => Sys2Proof.Machine.execLongLatencyResult t s
  | .barrierArrival t => Sys2Proof.Machine.execBarrierArrival t s
  | .activeMessage src k => Sys2Proof.Machine.execActiveMessage src k s
  | .meetRegistration t => Sys2Proof.Machine.execMeetRegistration t s
  | .meetDeadline weld unit e => Sys2Proof.Machine.execMeetDeadline weld unit e s
  | .quiescenceRelease launch => Sys2Proof.Machine.execQuiescenceRelease launch s
  | .alignTimeout cl => Sys2Proof.Machine.execAlignTimeout cl s
  | .forwardedRecordArrival cl => Sys2Proof.Machine.execForwardedRecordArrival cl s
  | .taskDispatch k => Sys2Proof.Machine.execTaskDispatch k s
  | .taskStartFreeContext k => Sys2Proof.Machine.execTaskStartFreeContext k s
  | .taskSteal k => Sys2Proof.Machine.execTaskSteal k s
  | .tileOperandsConsumed k e => Sys2Proof.Machine.execTileOperandsConsumed k e s
  | .mmaStep k => Sys2Proof.Machine.execMmaStep k s
  | .mstoreFillStep k => Sys2Proof.Machine.execMstoreFillStep k s
  | .accumulatorClear k one => Sys2Proof.Machine.execAccumulatorClear k one s
  | .engineCommandStart g => Sys2Proof.Machine.execEngineCommandStart g s
  | .engineChunkStart g => Sys2Proof.Machine.execEngineChunkStart g s
  | .engineFinalStatus g cmd => Sys2Proof.Machine.execEngineFinalStatus g cmd s
  | .engineReply g h => Sys2Proof.Machine.execEngineReply g h s
  | .engineAck g h => Sys2Proof.Machine.execEngineAck g h s
  | .engineSettle g h => Sys2Proof.Machine.execEngineSettle g h s
  | .registerWrite r v => Sys2Proof.Machine.execRegisterWrite r v s
  | .mcWrite t v => Sys2Proof.Machine.execMcWrite t v s
  | .lgrantWrite t v => Sys2Proof.Machine.execLgrantWrite t v s
  | .srseedWrite t v => Sys2Proof.Machine.execSrseedWrite t v s
  | .xfringWrite t v => Sys2Proof.Machine.execXfringWrite t v s
  | .xfheadWrite t v => Sys2Proof.Machine.execXfheadWrite t v s
  | .xfclaimRead t d => Sys2Proof.Machine.execXfclaimRead t d s
  | .transformWake k => Sys2Proof.Machine.execTransformWake k s
  | .clpartWrite cl v => Sys2Proof.Machine.execClpartWrite cl v s
  | .clpartLeavingLine cl => Sys2Proof.Machine.execClpartLeavingLine cl s
  | .clpartShrinkComplete cl => Sys2Proof.Machine.execClpartShrinkComplete cl s
  | .hclrGo cl v => Sys2Proof.Machine.execHclrGo cl v s
  | .hclrComplete cl => Sys2Proof.Machine.execHclrComplete cl s
  | .hearthUpdate cl => Sys2Proof.Machine.execHearthUpdate cl s
  | .hearthSummaryBroadcast cl => Sys2Proof.Machine.execHearthSummaryBroadcast cl s
  | .hearthSummaryApply dst src => Sys2Proof.Machine.execHearthSummaryApply dst src s
  | .tlbiCompletion cl => Sys2Proof.Machine.execTlbiCompletion cl s
  | .cwbWritebackDone t => Sys2Proof.Machine.execCwbWritebackDone t s
  | .registerRefill t => Sys2Proof.Machine.execRegisterRefill t s
  | .performLoad src h => Sys2Proof.Machine.execPerformLoad src h s
  | .performStore src h => Sys2Proof.Machine.execPerformStore src h s
  | .performAtomic src h => Sys2Proof.Machine.execPerformAtomic src h s
  | .recall line => Sys2Proof.Machine.execRecall line s
  | .l1Eviction k line => Sys2Proof.Machine.execL1Eviction k line s
  | .processReply k h => Sys2Proof.Machine.execProcessReply k h s
  | .processAck k h => Sys2Proof.Machine.execProcessAck k h s
  | .processAtomicReply k h => Sys2Proof.Machine.execProcessAtomicReply k h s
  | .processInv k h => Sys2Proof.Machine.execProcessInv k h s
  | .processSettle k h => Sys2Proof.Machine.execProcessSettle k h s
  | .bankDrowsy k b => Sys2Proof.Machine.execBankDrowsy k b s
  | .bankWake k b => Sys2Proof.Machine.execBankWake k b s
  | .coreGate k => Sys2Proof.Machine.execCoreGate k s
  | .coreWake k => Sys2Proof.Machine.execCoreWake k s
  | .expanderExpandComplete cl blk ue => Sys2Proof.Machine.execExpanderExpandComplete cl blk ue s
  | .expanderCompressComplete cl blk => Sys2Proof.Machine.execExpanderCompressComplete cl blk s
  | .tscMessageArrival cl => Sys2Proof.Machine.execTscMessageArrival cl s
  | .tlbWriteback k => Sys2Proof.Machine.execTlbWriteback k s
  | .tscMsgRead cl => Sys2Proof.Machine.execTscMsgRead cl s
  | .tinboxPop cl => Sys2Proof.Machine.execTinboxPop cl s
  | .tinboxDefer cl => Sys2Proof.Machine.execTinboxDefer cl s
  | .tfpost cl v => Sys2Proof.Machine.execTfpost cl v s
  | .tfattach cl v => Sys2Proof.Machine.execTfattach cl v s
  | .faultAnswerRetry cl asid seq => Sys2Proof.Machine.execFaultAnswerRetry cl asid seq s
  | .faultAnswerKill cl asid seq => Sys2Proof.Machine.execFaultAnswerKill cl asid seq s
  | .faultAnswerTimeout cl seq => Sys2Proof.Machine.execFaultAnswerTimeout cl seq s
  | .fetchBlockDelivery cl asid va => Sys2Proof.Machine.execFetchBlockDelivery cl asid va s
  | .ebudgetRefill => Sys2Proof.Machine.execEbudgetRefill s
  | .channelDeadlockScan cl => Sys2Proof.Machine.execChannelDeadlockScan cl s
  | .qtailWrite fn q v => Sys2Proof.Machine.execQtailWrite fn q v s
  | .qcfgWrite fn q v => Sys2Proof.Machine.execQcfgWrite fn q v s
  | .nopEntry fn q => Sys2Proof.Machine.execNopEntry fn q s
  | .launchEntry fn q => Sys2Proof.Machine.execLaunchEntry fn q s
  | .grun fn q => Sys2Proof.Machine.execGrun fn q s
  | .gpatch fn q => Sys2Proof.Machine.execGpatch fn q s
  | .cancelEntry fn q => Sys2Proof.Machine.execCancelEntry fn q s
  | .gfree fn q => Sys2Proof.Machine.execGfree fn q s
  | .reservedEntry fn q => Sys2Proof.Machine.execReservedEntry fn q s
  | .graphNodeAccept fn slot bank => Sys2Proof.Machine.execGraphNodeAccept fn slot bank s
  | .cancelArrival launch k => Sys2Proof.Machine.execCancelArrival launch k s
  | .allocatorPass => Sys2Proof.Machine.execAllocatorPass s
  | .launchStart launch => Sys2Proof.Machine.execLaunchStart launch s
  | .usageAccounting => Sys2Proof.Machine.execUsageAccounting s
  | .preemptContext cp v => Sys2Proof.Machine.execPreemptContext cp v s
  | .preemptCore cp v => Sys2Proof.Machine.execPreemptCore cp v s
  | .preemptLaunch cp v => Sys2Proof.Machine.execPreemptLaunch cp v s
  | .preemptionSave t => Sys2Proof.Machine.execPreemptionSave t s
  | .preemptionLimitExpiry t => Sys2Proof.Machine.execPreemptionLimitExpiry t s
  | .contextRestore addr k c => Sys2Proof.Machine.execContextRestore addr k c s
  | .contextResume t => Sys2Proof.Machine.execContextResume t s
  | .biasFlipToHost page => Sys2Proof.Machine.execBiasFlipToHost page s
  | .biasFlipToDevice page => Sys2Proof.Machine.execBiasFlipToDevice page s
  | .biasFlipComplete page => Sys2Proof.Machine.execBiasFlipComplete page s
  | .cxlMemRead pa n => Sys2Proof.Machine.execCxlMemRead pa n s
  | .cxlMemWrite pa n v => Sys2Proof.Machine.execCxlMemWrite pa n v s
  | .cxlIoRequest write h off n v => Sys2Proof.Machine.execCxlIoRequest write h off n v s
  | .tscStoreLoad cl img => Sys2Proof.Machine.execTscStoreLoad cl img s
  | .heartbeat cp => Sys2Proof.Machine.execHeartbeat cp s
  | .heartbeatTimeout cp => Sys2Proof.Machine.execHeartbeatTimeout cp s
  | .progressTimeout launch => Sys2Proof.Machine.execProgressTimeout launch s
  | .escalationTimeout launch => Sys2Proof.Machine.execEscalationTimeout launch s
  | .mailboxUpdate => Sys2Proof.Machine.execMailboxUpdate s
  | .liveReplacementRestart cp => Sys2Proof.Machine.execLiveReplacementRestart cp s
  | .mailboxQuench => Sys2Proof.Machine.execMailboxQuench s
  | .mailboxLoadimg => Sys2Proof.Machine.execMailboxLoadimg s
  | .mailboxReserved => Sys2Proof.Machine.execMailboxReserved s
  | .coldBoot => Sys2Proof.Machine.execColdBoot s
  | .packageReset => Sys2Proof.Machine.execPackageReset s
  | .ioDieWatchdogExpiry => Sys2Proof.Machine.execIoDieWatchdogExpiry s
  | .droopStretch cl => Sys2Proof.Machine.execDroopStretch cl s
  | .powerAlarmAssert => Sys2Proof.Machine.execPowerAlarmAssert s
  | .powerAlarmDeassert => Sys2Proof.Machine.execPowerAlarmDeassert s
  | .narrowClear => Sys2Proof.Machine.execNarrowClear s
  | .kdstateWrite v => Sys2Proof.Machine.execKdstateWrite v s
  | .getVersion => Sys2Proof.Machine.execGetVersion s
  | .getCapabilities => Sys2Proof.Machine.execGetCapabilities s
  | .negotiateAlgorithms => Sys2Proof.Machine.execNegotiateAlgorithms s
  | .getDigests => Sys2Proof.Machine.execGetDigests s
  | .getCertificate slot => Sys2Proof.Machine.execGetCertificate slot s
  | .challenge nonce => Sys2Proof.Machine.execChallenge nonce s
  | .getMeasurements index => Sys2Proof.Machine.execGetMeasurements index s
  | .debugRegisterRead t f r => Sys2Proof.Machine.execDebugRegisterRead t f r s
  | .debugRegisterWrite t f r v => Sys2Proof.Machine.execDebugRegisterWrite t f r v s
  | .debugAccumulatorRead k one im j => Sys2Proof.Machine.execDebugAccumulatorRead k one im j s
  | .dispenserTraceRead cl e w => Sys2Proof.Machine.execDispenserTraceRead cl e w s
  | .debuggerResume t => Sys2Proof.Machine.execDebuggerResume t s
  | .haltedContextFree t => Sys2Proof.Machine.execHaltedContextFree t s
  | .hostCacheSnoop line => Sys2Proof.Machine.execHostCacheSnoop line s
  | .mmaskLastByteRead k => Sys2Proof.Machine.execMmaskLastByteRead k s

end Sys2Proof.Machine
end

