-- ==== Sys2Proof/Machine/Step.lean ====
section
/-! DEFINITION. One step of the machine, and the placing of an instruction where the next step fetches. -/

namespace Sys2Proof.Machine

/-- The turn of the issuing thread, run to its end. -/
noncomputable def threadStep (s : State) : Host.Outcome State Fault Refusal :=
  match s.turn with
  | .run i => exec i s.claim
  | .over o => o

/-- Whether a row of the opcode table may be chosen by the environment: a step of the machine, no encoded instruction. -/
def Instr.isEvent (i : Instr) : Bool := !i.encoded

/-- What goes on without a valid image (22 R445): the physical function's mailbox, by which one comes, and what concerns the
package, its power alarm among it (22 R456). -/
def State.mailboxOnly (s : State) (i : Instr) : Bool :=
  match i with
  | .coldBoot => true
  | .packageReset => true
  | .ioDieWatchdogExpiry => true
  | .mailboxUpdate => true
  | .mailboxQuench => true
  | .mailboxLoadimg => true
  | .mailboxReserved => true
  | .liveReplacementRestart _ => s.service.update.isSome
  | .powerAlarmAssert => true
  | .powerAlarmDeassert => true
  | .narrowClear => true
  | .registerWrite (.bar 0 off) _ => [0x0100, 0x0108, 0x0110].contains off
  | _ => false

/-- One step: cycles pass; then the move the environment has chosen, or the turn of the thread that issued last. With no
power only a cold boot goes on (18 R436), and without a valid image little more (22 R445). -/
noncomputable def step (s : State) : Host.Outcome State Fault Refusal :=
  let s1 := s.tick
  match s1.agenda with
  | .event i :: rest =>
    if s1.service.down && decide (i ≠ .coldBoot) then .fault .packageDown
    else if Instr.isEvent i && (s1.service.booted || s1.mailboxOnly i) then exec i { s1 with agenda := rest }
    else .next { s1 with agenda := rest }
  | .turn t :: rest =>
    if s1.service.down then .fault .packageDown
    else if s1.service.booted then threadStep { s1 with agenda := rest, cur := t }
    else .next { s1 with agenda := rest }
  | .firmware p a :: rest =>
    if s1.service.down then .fault .packageDown
    else if s1.service.booted then .next (State.firmware { s1 with agenda := rest } p a)
    else .next { s1 with agenda := rest }
  | [] => if s1.service.down then .fault .packageDown else if s1.service.booted then threadStep s1 else .next s1

/-- The instruction's bytes at offset `off` of a block. -/
def fetchBlock (off nbits w : Nat) : BitVec 512 := BitVec.ofNat 512 (w % 2 ^ nbits * 256 ^ off)

/-- `s` with an instruction where the next step fetches: the thread `cur` ready in the barrel slot of the next cycle,
nothing pending, its core holding the block (log entry 4). -/
def State.withFetchWord (s : State) (nbits w : Nat) : State :=
  let t := s.cur
  let k := coreOf t
  let slot := s.nextCycle % 8
  let pc : Word := if s.me.pc.toNat % 64 ≤ 60 && codeAddress t s.me.pc then s.me.pc else 0
  let off := pc.toNat % 64
  let s1 := s.updThread t (fun x => { x with run := .ready, stage := none, boundary := false, pc := pc, notBefore := 0 })
  let b : Block := ⟨s.me.asid, pc.toNat / 64 * 64, fetchBlock off nbits w⟩
  let s2 := s1.updCore k (fun c => { c with
    readyQ := c.readyQ.filter (fun u => u ≠ t)
    barrel := NMap.set none (c.barrel.filter (fun p => match p.2 with
      | some q => decide (q.t ≠ t)
      | none => false)) slot (some ⟨t, 0⟩)
    blocks := b :: c.blocks.filter (fun x => !(decide (x.asid = b.asid) && decide (x.va = b.va))) })
  let s3 : State := { s2 with
    agenda := []
    taken := []
    breakpoints := s.breakpoints.filter (fun a => a ≠ pc)
    service := { s2.service with down := false, booted := true } }
  if isTsc t then s3.write (locIstore (clusterOf k) pc.toNat) 4 (w % 2 ^ nbits) else s3

end Sys2Proof.Machine
end

