-- ==== Sys2Proof/Machine/HxasText.lean ====
section
/-! DEFINITION. The assembly language hxas: its characters, tokens and expressions (08 R209 to R211, R225 to R227, R241). -/

namespace Sys2Proof.Machine.Hxas

/-- Text as the characters of its bytes. -/
abbrev Text := List Char

/-- The codes of the diagnostics (08 R241). -/
inductive Code where
  | e1 | e2 | e3 | e4 | e5 | e6 | e7 | e8 | e9 | e10 | e11 | e12 | e13 | e14 | e15 | e16 | w1
  deriving DecidableEq, Repr

/-! ## Characters and lines (08 R209) -/

def isDigit (c : Char) : Bool := decide (48 ≤ c.toNat) && decide (c.toNat ≤ 57)
def isUpper (c : Char) : Bool := decide (65 ≤ c.toNat) && decide (c.toNat ≤ 90)
def isLower (c : Char) : Bool := decide (97 ≤ c.toNat) && decide (c.toNat ≤ 122)
def lowerChar (c : Char) : Char := if isUpper c then Char.ofNat (c.toNat + 32) else c
/-- A spelling with its case ignored (08 R211). -/
def lower (s : Text) : Text := s.map lowerChar
def isIdentStart (c : Char) : Bool := isUpper c || isLower c || decide (c = '_')
def isIdentChar (c : Char) : Bool := isIdentStart c || isDigit c || decide (c = '.')
def isBlank (c : Char) : Bool := decide (c = ' ') || decide (c.toNat = 9)
def isPrintable (c : Char) : Bool := decide (32 ≤ c.toNat) && decide (c.toNat ≤ 126)
/-- A character that R209 excludes everywhere: a control character that is no blank. -/
def isControl (c : Char) : Bool := decide (c.toNat < 32) && decide (c.toNat ≠ 9)
/-- A character that a string may hold (08 R209, R210): bytes above 0x7E are excluded only outside strings and comments. -/
def inString (c : Char) : Bool := decide (32 ≤ c.toNat) && decide (c.toNat ≠ 34)
/-- The value of a digit in a base up to 16. -/
def digitOf (base : Nat) (c : Char) : Option Nat :=
  let v := if isDigit c then c.toNat - 48 else if isLower (lowerChar c) then (lowerChar c).toNat - 87 else 99
  if v < base then some v else none

/-- The lines of a source: each ends at LF, and a CR directly before it is no part of the line. -/
def linesOfText : Text → Text → List Text
  | [], cur => if cur = [] then [] else [cur.reverse]
  | c :: cs, cur =>
    if c.toNat = 10 then
      (match cur with
        | r :: rest => if r.toNat = 13 then rest else cur
        | [] => []).reverse :: linesOfText cs []
    else linesOfText cs (c :: cur)

/-! ## Tokens (08 R210) -/

inductive Tok where
  | ident (s : Text)
  | directive (s : Text)                -- without its leading dot
  | int (n : Nat)
  | real (num den : Nat)                -- the exact value num / den
  | nan
  | inf
  | chr (n : Nat)
  | str (s : Text)
  | punct (s : Text)
  deriving DecidableEq, Repr

/-- Digits of a base with `_` between any two of them: their value, how many there are, and the rest. `last` says that a digit
has just been read. -/
def digits (base : Nat) : Text → Nat → Nat → Nat × Nat × Text
  | [], v, n => (v, n, [])
  | c :: cs, v, n =>
    match digitOf base c with
    | some d => digits base cs (v * base + d) (n + 1)
    | none =>
      match cs with
      | d :: _ => if decide (c = '_') && decide (0 < n) && (digitOf base d).isSome then digits base cs v n else (v, n, c :: cs)
      | [] => (v, n, c :: cs)

/-- A number that starts with a decimal digit: an integer in base 10, 16 or 2, or a real. The prefixes `0x` and `0b` are written so
(08 R210): R211 does not list them among what ignores case. DESIGN CHOICE: a real begins with a digit and may end with its point (log
entry 63). -/
def number (cs : Text) : Option (Tok × Text) :=
  let inBase := fun (base : Nat) (r : Text) =>
    let (v, n, rest) := digits base r 0 0
    if n = 0 then none else some (Tok.int v, rest)
  match cs with
  | '0' :: x :: r =>
    if x = 'x' then inBase 16 r
    else if x = 'b' then inBase 2 r
    else decimal cs
  | _ => decimal cs
where
  /-- A decimal number: digits, a fraction, an exponent. -/
  decimal (cs : Text) : Option (Tok × Text) :=
    let (v, n, r) := digits 10 cs 0 0
    if n = 0 then none
    else
      let frac := match r with
        | '.' :: f => some (digits 10 f 0 0)
        | _ => none
      let (num, k, r1) := match frac with
        | some (fv, fn, fr) => (v * 10 ^ fn + fv, fn, fr)
        | none => (v, 0, r)
      let exponent := match r1 with
        | e :: s =>
          if lowerChar e = 'e' then
            let (neg, ds) := match s with
              | '-' :: t => (true, t)
              | '+' :: t => (false, t)
              | t => (false, t)
            let (ev, en, er) := digits 10 ds 0 0
            if en = 0 then none else some (neg, ev, er)
          else none
        | [] => none
      match exponent with
      | some (true, ev, er) => some (.real num (10 ^ (k + ev)), er)
      | some (false, ev, er) => some (.real (num * 10 ^ ev) (10 ^ k), er)
      | none => if frac.isSome then some (.real num (10 ^ k), r1) else some (.int v, r)

/-- Whether a character that may continue an identifier stands first. -/
def glued : Text → Bool
  | c :: _ => isIdentChar c
  | [] => false

def twoCharPunct : List Text :=
  [[':', ':'], ['<', '<'], ['>', '>'], ['<', '='], ['>', '='], ['=', '='], ['!', '='], ['&', '&'], ['|', '|']]
def oneCharPunct : Text := [',', ':', '[', ']', '(', ')', '=', '!', '-', '~', '*', '/', '%', '+', '<', '>', '&', '^', '|']

/-- The tokens of a line, without its comment; `fuel` is its length. DEDUCED (log entry 63): the words "outside a comment or a
string" of R209 belong to the bytes above 0x7E, so a control character in a comment is error E1. DESIGN CHOICE (log entry 63): what
starts a token and completes none (a string without its end, `12abc`, a bad character literal) is error E1; the spec names no code. -/
def tokens : Nat → Text → Except Code (List Tok)
  | 0, _ => .ok []
  | _, [] => .ok []
  | fuel + 1, c :: cs =>
    if isBlank c then tokens fuel cs
    else if c = ';' then (if cs.any isControl then .error .e1 else .ok [])
    else if isIdentStart c then
      let s := (c :: cs).takeWhile isIdentChar
      let rest := (c :: cs).dropWhile isIdentChar
      let t := if s = ['n', 'a', 'n'] then Tok.nan else if s = ['i', 'n', 'f'] then Tok.inf else .ident s
      (tokens fuel rest).map (t :: ·)
    else if isDigit c then
      match number (c :: cs) with
      | some (t, rest) => if glued rest then .error .e1 else (tokens fuel rest).map (t :: ·)
      | none => .error .e1
    else if c = '.' then
      match cs with
      | d :: _ =>
        if isIdentStart d then (tokens fuel (cs.dropWhile isIdentChar)).map (.directive (cs.takeWhile isIdentChar) :: ·)
        else (tokens fuel cs).map (.punct ['.'] :: ·)
      | [] => .ok [.punct ['.']]
    else if c.toNat = 39 then
      match cs with
      | x :: q :: rest =>
        if isPrintable x && decide (x.toNat ≠ 39) && decide (x.toNat ≠ 92) && decide (q.toNat = 39) then
          (tokens fuel rest).map (.chr x.toNat :: ·)
        else .error .e1
      | _ => .error .e1
    else if c.toNat = 34 then
      let s := cs.takeWhile inString
      match cs.dropWhile inString with
      | q :: rest => if q.toNat = 34 then (tokens fuel rest).map (.str s :: ·) else .error .e1
      | [] => .error .e1
    else
      match cs with
      | d :: rest =>
        if twoCharPunct.contains [c, d] then (tokens fuel rest).map (.punct [c, d] :: ·)
        else if oneCharPunct.contains c then (tokens fuel cs).map (.punct [c] :: ·)
        else .error .e1
      | [] => if oneCharPunct.contains c then .ok [.punct [c]] else .error .e1

/-- The tokens of a line of at most 1,024 characters (08 R209). -/
def lineTokens (s : Text) : Except Code (List Tok) := if 1024 < s.length then .error .e1 else tokens (s.length + 1) s

/-! ## Register names (08 R211) -/

inductive RegKind where
  | scalar | vector | mask | tile | acc
  deriving DecidableEq, Repr

/-- A decimal number below 100 without a leading zero. -/
def smallNumber : Text → Option Nat
  | [a] => digitOf 10 a
  | [a, b] => match digitOf 10 a, digitOf 10 b with
    | some x, some y => if x = 0 then none else some (10 * x + y)
    | _, _ => none
  | _ => none

/-- The register that an identifier names. -/
def regOf (s : Text) : Option (RegKind × Nat) :=
  match lower s with
  | ['z', 'e', 'r', 'o'] => some (.scalar, 0)
  | ['s', 'p'] => some (.scalar, 30)
  | ['l', 'r'] => some (.scalar, 31)
  | c :: n => match smallNumber n with
    | some i =>
      if c = 's' && decide (i < 32) then some (.scalar, i)
      else if c = 'v' && decide (i < 32) then some (.vector, i)
      else if c = 'k' && decide (i < 8) then some (.mask, i)
      else if c = 't' && decide (i < 16) then some (.tile, i)
      else if c = 'a' && decide (i < 2) then some (.acc, i)
      else none
    | none => none
  | [] => none

/-! ## Expressions (08 R225, R227) -/

inductive UnOp where
  | neg | compl | not
  deriving DecidableEq, Repr

inductive BinOp where
  | mul | div | rem | add | sub | shl | shr | lt | le | gt | ge | eq | ne | and | xor | or | land | lor
  deriving DecidableEq, Repr

inductive Fn where
  | lo | hi | blk | space
  deriving DecidableEq, Repr

inductive Expr where
  | num (w : Word)
  | sym (s : Text)
  | dot
  | un (op : UnOp) (e : Expr)
  | bin (op : BinOp) (a b : Expr)
  | call (f : Fn) (e : Expr)
  | coord (x y : Expr)
  deriving DecidableEq, Repr

/-- The precedence of an operator; 2 binds most tightly. -/
def binOp (p : Text) : Option (Nat × BinOp) :=
  match p with
  | ['*'] => some (2, .mul) | ['/'] => some (2, .div) | ['%'] => some (2, .rem)
  | ['+'] => some (3, .add) | ['-'] => some (3, .sub)
  | ['<', '<'] => some (4, .shl) | ['>', '>'] => some (4, .shr)
  | ['<'] => some (5, .lt) | ['<', '='] => some (5, .le) | ['>'] => some (5, .gt) | ['>', '='] => some (5, .ge)
  | ['=', '='] => some (6, .eq) | ['!', '='] => some (6, .ne)
  | ['&'] => some (7, .and) | ['^'] => some (8, .xor) | ['|'] => some (9, .or)
  | ['&', '&'] => some (10, .land) | ['|', '|'] => some (11, .lor)
  | _ => none

def fnOf (s : Text) : Option Fn :=
  match lower s with
  | ['l', 'o'] => some .lo
  | ['h', 'i'] => some .hi
  | ['b', 'l', 'k'] => some .blk
  | ['s', 'p', 'a', 'c', 'e'] => some .space
  | _ => none

mutual
/-- An operand of an expression: a value, a parenthesised expression, a function or a unary operator over one. -/
def parsePrimary : Nat → List Tok → Except Code (Expr × List Tok)
  | 0, _ => .error .e3
  | fuel + 1, .int n :: r => if n < 2 ^ 64 then .ok (.num (BitVec.ofNat 64 n), r) else .error .e4
  | fuel + 1, .chr n :: r => .ok (.num (BitVec.ofNat 64 n), r)
  | fuel + 1, .punct p :: r =>
    match p with
    | ['-'] => (parsePrimary fuel r).map (fun x => (.un .neg x.1, x.2))
    | ['~'] => (parsePrimary fuel r).map (fun x => (.un .compl x.1, x.2))
    | ['!'] => (parsePrimary fuel r).map (fun x => (.un .not x.1, x.2))
    | ['.'] => .ok (.dot, r)
    | ['('] => do
      let (e, r1) ← parseExpr fuel 11 r
      match r1 with
      | .punct [')'] :: r2 => .ok (e, r2)
      | _ => .error .e3
    | _ => .error .e3
  | fuel + 1, .ident s :: .punct ['('] :: r =>
    match fnOf s with
    | some f => do
      let (e, r1) ← parseExpr fuel 11 r
      match r1 with
      | .punct [')'] :: r2 => .ok (.call f e, r2)
      | _ => .error .e3
    | none =>
      if lower s = ['c', 'o', 'o', 'r', 'd'] then do
        let (x, r1) ← parseExpr fuel 11 r
        match r1 with
        | .punct [','] :: r2 =>
          let (y, r3) ← parseExpr fuel 11 r2
          match r3 with
          | .punct [')'] :: r4 => .ok (.coord x y, r4)
          | _ => .error .e3
        | _ => .error .e3
      else .error .e3
  | fuel + 1, .ident s :: r => if (regOf s).isSome then .error .e3 else .ok (.sym s, r)
  | _ + 1, _ => .error .e3

/-- An expression of operators of precedence `p` and tighter. -/
def parseExpr : Nat → Nat → List Tok → Except Code (Expr × List Tok)
  | 0, _, _ => .error .e3
  | fuel + 1, p, ts =>
    if p ≤ 1 then parsePrimary fuel ts
    else do
      let (a, r) ← parseExpr fuel (p - 1) ts
      parseRest fuel p a r

/-- The further operands of operators of precedence `p`, grouped from left to right. -/
def parseRest : Nat → Nat → Expr → List Tok → Except Code (Expr × List Tok)
  | 0, _, _, _ => .error .e3
  | fuel + 1, p, a, .punct op :: r =>
    match binOp op with
    | some (q, o) =>
      if q = p then do
        let (b, r1) ← parseExpr fuel (p - 1) r
        parseRest fuel p (.bin o a b) r1
      else .ok (a, .punct op :: r)
    | none => .ok (a, .punct op :: r)
  | _ + 1, _, a, r => .ok (a, r)
end

/-- A whole list of tokens as one expression. -/
def exprOf (ts : List Tok) : Except Code Expr := do
  let (e, r) ← parseExpr (20 * ts.length + 20) 11 ts
  if r = [] then .ok e else .error .e3

def ofBool (b : Bool) : Word := if b then 1 else 0

/-- The value of an operator (08 R225). -/
def evalBin (op : BinOp) (a b : Word) : Except Code Word :=
  match op with
  | .mul => .ok (a * b)
  | .div => if b = 0 then .error .e15 else .ok (BitVec.ofInt 64 (Int.tdiv a.toInt b.toInt))
  | .rem => if b = 0 then .error .e15 else .ok (BitVec.ofInt 64 (Int.tmod a.toInt b.toInt))
  | .add => .ok (a + b)
  | .sub => .ok (a - b)
  | .shl => if 63 < b.toNat then .error .e15 else .ok (a <<< b.toNat)
  | .shr => if 63 < b.toNat then .error .e15 else .ok (a >>> b.toNat)
  | .lt => .ok (ofBool (decide (a.toNat < b.toNat)))
  | .le => .ok (ofBool (decide (a.toNat ≤ b.toNat)))
  | .gt => .ok (ofBool (decide (b.toNat < a.toNat)))
  | .ge => .ok (ofBool (decide (b.toNat ≤ a.toNat)))
  | .eq => .ok (ofBool (decide (a = b)))
  | .ne => .ok (ofBool (decide (a ≠ b)))
  | .and => .ok (a &&& b)
  | .xor => .ok (a ^^^ b)
  | .or => .ok (a ||| b)
  | .land => .ok (ofBool (decide (a ≠ 0) && decide (b ≠ 0)))
  | .lor => .ok (ofBool (decide (a ≠ 0) || decide (b ≠ 0)))

/-- The low part of a value: bits 13 to 0, sign-extended (08 R227). -/
def loOf (e : Word) : Word := (e.extractLsb' 0 14).signExtend 64
/-- The high part of a value (08 R227). -/
def hiOf (e : Word) : Word := ((e - loOf e) >>> 14) &&& 0xFFFFF#64

/-- The value of an expression: `look` gives the value of a symbol, `here` is the address of the statement (08 R226). -/
def eval (look : Text → Except Code Word) (here : Word) : Expr → Except Code Word
  | .num w => .ok w
  | .sym s => look s
  | .dot => .ok here
  | .un op e => do
    let x ← eval look here e
    match op with
    | .neg => .ok (-x)
    | .compl => .ok (~~~x)
    | .not => .ok (ofBool (decide (x = 0)))
  | .bin op a b => do
    let x ← eval look here a
    let y ← eval look here b
    evalBin op x y
  | .call f e => do
    let x ← eval look here e
    match f with
    | .lo => .ok (loOf x)
    | .hi => .ok (hiOf x)
    | .blk => .ok (x >>> 6)
    | .space => .ok (x >>> 60)
  | .coord a b => do
    let x ← eval look here a
    let y ← eval look here b
    if 47 < x.toNat || 55 < y.toNat then .error .e4 else .ok (y * 64 + x)

/-! ## Symbols (08 R226, R231) -/

/-- What a symbol stands for: an address, or an expression with the address of its statement. -/
inductive SymDef where
  | addr (w : Word)
  | equ (e : Expr) (here : Word)
  deriving DecidableEq, Repr

abbrev Symbols := List (Text × SymDef)

def Symbols.find (t : Symbols) (s : Text) : Option SymDef := (List.find? (fun p => decide (p.1 = s)) t).map (·.2)

/-- A symbol's value; one that is not defined, or whose definition depends on itself, is error E5. `fuel` bounds the chain of
definitions. -/
def Symbols.value (t : Symbols) : Nat → Text → Except Code Word
  | 0, _ => .error .e5
  | fuel + 1, s =>
    match t.find s with
    | none => .error .e5
    | some (.addr w) => .ok w
    | some (.equ e here) => eval (Symbols.value t fuel) here e

def Symbols.look (t : Symbols) (s : Text) : Except Code Word := t.value (t.length + 1) s

/-! ## Literals with exact values (08 R229) -/

/-- The exact value of a real or integer literal with an optional sign. -/
def literal (ts : List Tok) : Except Code Ex :=
  let go := fun (neg : Bool) (t : Tok) => match t with
    | .int n => .ok (Ex.fin neg n 0 false)
    | .real n d => if n = 0 then .ok (Ex.fin neg 0 0 false) else .ok (if neg then (Ex.fin false n 0 false).div (.fin true d 0 false)
        else (Ex.fin false n 0 false).div (.fin false d 0 false))
    | .nan => .ok Ex.nan
    | .inf => .ok (Ex.inf neg)
    | _ => .error .e3
  match ts with
  | [.punct ['-'], t] => go true t
  | [t] => go false t
  | _ => .error .e3

/-- The element suffixes (08 R213) and the format codes they name (03 R85). -/
def formatOf (s : Text) : Option Nat :=
  match lower s with
  | ['f', '3', '2'] => some 0
  | ['b', 'f', '1', '6'] => some 1
  | ['f', '1', '6'] => some 2
  | ['e', '4', 'm', '3'] => some 3
  | ['e', '5', 'm', '2'] => some 4
  | ['e', '2', 'm', '1'] => some 5
  | ['k', 'd', '8'] => some 6
  | ['k', 'd', '4'] => some 7
  | ['m', 'x', '8'] => some 8
  | ['m', 'x', '4'] => some 9
  | _ => none

/-- The rounding-mode names (03 R94). -/
def roundingOf (s : Text) : Option Nat :=
  match lower s with
  | ['r', 'n', 'e'] => some 0
  | ['r', 't', 'z'] => some 1
  | ['r', 'd', 'n'] => some 2
  | ['r', 'u', 'p'] => some 3
  | ['s', 'r'] => some 4
  | _ => none

/-- `n` little-endian bytes of a value. -/
def leBytes : Nat → Nat → List Nat
  | 0, _ => []
  | n + 1, v => v % 256 :: leBytes n (v / 256)

end Sys2Proof.Machine.Hxas
end

