-- ==== Sys2Proof/Machine/HxasForms.lean ====
section
/-! DEFINITION. The instructions of hxas: their suffixes, their operands and the instructions they stand for (08 R213 to R217,
R223; 10 R292; the assembly forms of 10 to 14). -/

namespace Sys2Proof.Machine.Hxas

/-! ## Operands (08 R214) -/

inductive Arg where
  | reg (k : RegKind) (n : Nat) (bang : Bool)
  | mem (base : Nat) (bang : Bool) (off : Option Expr)
  | val (e : Expr)
  | dash
  deriving DecidableEq, Repr

/-- Tokens split at the commas outside brackets and parentheses. -/
def splitCommas : List Tok → Nat → List Tok → List (List Tok)
  | [], _, cur => [cur.reverse]
  | .punct p :: r, n, cur =>
    if p = [','] && n = 0 then cur.reverse :: splitCommas r 0 []
    else if p = ['['] || p = ['('] then splitCommas r (n + 1) (.punct p :: cur)
    else if p = [']'] || p = [')'] then splitCommas r (n - 1) (.punct p :: cur)
    else splitCommas r n (.punct p :: cur)
  | t :: r, n, cur => splitCommas r n (t :: cur)

/-- The operands of a statement. -/
def operandsOf (ts : List Tok) : List (List Tok) := if ts = [] then [] else splitCommas ts 0 []

def argOf (ts : List Tok) : Except Code Arg :=
  let inner := fun (r : List Tok) => if r.getLast? = some (.punct [']']) then some r.dropLast else none
  match ts with
  | [.punct ['-']] => .ok .dash
  | [.ident s] => match regOf s with
    | some (k, n) => .ok (.reg k n false)
    | none => (exprOf ts).map .val
  | [.ident s, .punct ['!']] => match regOf s with
    | some (k, n) => .ok (.reg k n true)
    | none => .error .e3
  | .punct ['['] :: .ident s :: r =>
    match regOf s, inner r with
    | some (.scalar, n), some off =>
      let (bang, off1) := match off with
        | .punct ['!'] :: t => (true, t)
        | t => (false, t)
      match off1 with
      | [] => .ok (.mem n bang none)
      | .punct ['+'] :: t => (exprOf t).map (fun e => .mem n bang (some e))
      | .punct ['-'] :: _ => (exprOf off1).map (fun e => .mem n bang (some e))
      | _ => .error .e3
    | _, _ => .error .e3
  | _ => (exprOf ts).map .val

/-! ## What an operand place takes -/

inductive Pat where
  | reg (k : RegKind) (last : Bool)     -- a register; `last`: its field has a last-use bit
  | source                              -- the second source of a lane operation: a vector, or a scalar that sets S
  | base (last : Bool)                  -- a base register in brackets, no offset
  | mem (width : Nat) (last : Bool)     -- a base register with an offset scaled by the width (08 R215)
  | imm (lo hi : Int)                   -- a value in a range
  | target (bits : Nat)                 -- a fetch block, as a displacement (08 R223)
  | name (ws : List (Text × Nat))       -- one of some words
  | format                              -- a format name, or `-` (09 R266)
  | csr                                 -- a CSR by its name or number (08 R211)
  deriving DecidableEq, Repr

/-- What the operands gave: registers and their last-use marks in order, values in order, the mask, whether the second source is
scalar, the size code and the energy class. -/
structure Got where
  regs : List Nat := []
  lasts : List Bool := []
  vals : List Int := []
  mask : Nat := 0
  s : Bool := false
  size : Nat := 0
  energy : Nat := 3
  deriving DecidableEq, Repr

def Got.r (g : Got) (n i : Nat) : BitVec n := BitVec.ofNat n (g.regs.getD i 0)
def Got.l (g : Got) (i : Nat) : Bool := g.lasts.getD i false
def Got.v (g : Got) (n i : Nat) : BitVec n := BitVec.ofInt n (g.vals.getD i 0)
def Got.k (g : Got) : BitVec 3 := BitVec.ofNat 3 g.mask
def Got.z (g : Got) (n : Nat) : BitVec n := BitVec.ofNat n g.size
def Got.zd (g : Got) : Bool := decide (g.size = 3)
def Got.e (g : Got) : BitVec 2 := BitVec.ofNat 2 g.energy
/-- A register number that may not be 32 or more can still be too large for a narrower field. -/
def Got.fits (g : Got) (i hi : Nat) : Bool := decide (g.regs.getD i 0 ≤ hi)

/-- CSR names and their numbers (14 R380). -/
def csrNames : List (Text × Nat) :=
  [("status".toList, 0x000), ("tid".toList, 0x001), ("mc".toList, 0x002), ("coord".toList, 0x003), ("lrect".toList, 0x004),
   ("asid".toList, 0x005), ("srseed".toList, 0x006), ("fmtpend".toList, 0x007), ("tagstat".toList, 0x008),
   ("regpc".toList, 0x009), ("lgrant".toList, 0x00A), ("ebudget".toList, 0x00B), ("mprog".toList, 0x00C),
   ("cycle".toList, 0x00D), ("fadr".toList, 0x00E), ("fcause".toList, 0x00F), ("bsrd".toList, 0x010), ("bswr".toList, 0x011),
   ("bsacc".toList, 0x012), ("tvec".toList, 0x020), ("epc".toList, 0x021), ("estatus".toList, 0x022), ("ecause".toList, 0x023),
   ("escratch".toList, 0x024), ("mseq".toList, 0x100), ("xfring".toList, 0x101), ("xfhead".toList, 0x102),
   ("xfclaim".toList, 0x103), ("spdrowsy".toList, 0x104), ("stealdly".toList, 0x105), ("clpart".toList, 0x200),
   ("hclr".toList, 0x201), ("twtgt".toList, 0x300), ("tmsg0".toList, 0x301), ("tmsg1".toList, 0x302), ("tmsg2".toList, 0x303),
   ("tinbox".toList, 0x304), ("tfpost".toList, 0x305), ("tfattach".toList, 0x306)]

def wordIn (ws : List (Text × Nat)) (s : Text) : Option Nat := (ws.find? (fun p => decide (p.1 = lower s))).map (·.2)

/-- What a place's values depend on: the symbols, and the address of the instruction. -/
structure Ctx where
  look : Text → Except Code Word
  here : Word

/-- A value in a range, read as a signed 64-bit number; else error E4. -/
def Ctx.int (c : Ctx) (e : Expr) (lo hi : Int) : Except Code Int := do
  let x ← eval c.look c.here e
  if lo ≤ x.toInt && decide (x.toInt ≤ hi) then .ok x.toInt else .error .e4

/-- A displacement to a fetch block (08 R223). DESIGN CHOICE: out of its range it is error E8 for LEAPC's imm20 too (10 R280; log entry
63). -/
def Ctx.disp (c : Ctx) (e : Expr) (bits : Nat) : Except Code Int := do
  let t ← eval c.look c.here e
  let d : Int := (t.toNat / 64 : Nat) - (c.here.toNat / 64 : Nat)
  if t.toNat % 64 ≠ 0 then .error .e7
  else if -(2 ^ (bits - 1) : Nat) ≤ d && decide (d < (2 ^ (bits - 1) : Nat)) then .ok d else .error .e8

/-- Whether an operand has the kind a place takes. One word stands where a keyword does; an unknown keyword is error E2 (08 R241). -/
def Pat.accepts : Pat → Arg → Bool
  | .reg k _, .reg k' _ _ => decide (k = k')
  | .source, .reg k _ _ => decide (k = .vector) || decide (k = .scalar)
  | .base _, .mem _ _ e => e.isNone
  | .mem _ _, .mem _ _ _ => true
  | .imm _ _, .val _ => true
  | .target _, .val _ => true
  | .name _, .val (.sym _) => true
  | .format, .dash => true
  | .format, .val (.sym _) => true
  | .csr, .val _ => true
  | _, _ => false

/-- A last-use mark: error E9 where the field has no bit; on `s0` it is encoded as 0 (08 R214). DESIGN CHOICE (log entry 63): on an
`s0` whose field has no bit, of which R214 says both, it is error E9. -/
def mark (last bang zero : Bool) : Except Code Bool := if bang && !last then .error .e9 else .ok (bang && !zero)

/-- An operand in its place. -/
def Pat.take (c : Ctx) (g : Got) : Pat → Arg → Except Code Got
  | .reg k last, .reg _ n bang => do
    let b ← mark last bang (decide (k = .scalar) && decide (n = 0))
    .ok { g with regs := g.regs ++ [n], lasts := g.lasts ++ [b] }
  | .source, .reg k n bang => do
    let b ← mark false bang false
    .ok { g with regs := g.regs ++ [n], lasts := g.lasts ++ [b], s := decide (k = .scalar) }
  | .base last, .mem n bang _ => do
    let b ← mark last bang (decide (n = 0))
    .ok { g with regs := g.regs ++ [n], lasts := g.lasts ++ [b] }
  | .mem w last, .mem n bang e => do
    let b ← mark last bang (decide (n = 0))
    let off ← eval c.look c.here (e.getD (.num 0))
    if off.toInt % w ≠ 0 then .error .e10
    else if -512 ≤ off.toInt / w && decide (off.toInt / w ≤ 511) then
      .ok { g with regs := g.regs ++ [n], lasts := g.lasts ++ [b], vals := g.vals ++ [off.toInt / w] }
    else .error .e4
  | .imm lo hi, .val e => do
    let x ← c.int e lo hi
    .ok { g with vals := g.vals ++ [x] }
  | .target bits, .val e => do
    let d ← c.disp e bits
    .ok { g with vals := g.vals ++ [d] }
  | .name ws, .val (.sym s) =>
    match wordIn ws s with
    | some n => .ok { g with vals := g.vals ++ [(n : Int)] }
    | none => .error .e2
  | .format, .dash => .ok { g with vals := g.vals ++ [0] }
  | .format, .val (.sym s) =>
    match formatOf s with
    | some f => if f = 5 then .error .e16 else .ok { g with vals := g.vals ++ [(f : Int)] }
    | none => .error .e2
  | .csr, .val e =>
    match e with
    | .sym s => match wordIn csrNames s with
      | some n => .ok { g with vals := g.vals ++ [(n : Int)] }
      | none => do
        let x ← c.int e 0 0xFFF
        .ok { g with vals := g.vals ++ [x] }
    | _ => do
      let x ← c.int e 0 0xFFF
      .ok { g with vals := g.vals ++ [x] }
  | _, _ => .error .e3

def takeAll (c : Ctx) : List Pat → List Arg → Got → Except Code Got
  | [], _, g => .ok g
  | p :: ps, a :: as, g => do
    let g1 ← p.take c g a
    takeAll c ps as g1
  | _ :: _, [], _ => .error .e3

/-! ## The forms of a mnemonic -/

/-- Which element suffixes a mnemonic accepts (08 R213; 09 R248): none, `.w` or `.d` with `.d` the default, `.d` alone, `.w` alone, the three of
the VM majors, those of AMLD, those of AMST. -/
inductive Suffix where
  | plain | wd | dOnly | w | lanes | load | store
  deriving DecidableEq, Repr

/-- A form: its operand places, whether a mask may follow, how many instructions it stands for, and those instructions. -/
structure Form where
  pats : List Pat
  masked : Bool := false
  count : Nat := 1
  build : Got → List Instr

/-- A mnemonic, with its variant suffixes: its element suffixes, its forms, and the operation code of its 16-bit form. -/
structure Mnemonic where
  name : Text
  suffix : Suffix := .plain
  forms : List Form
  short : Option (Bool → BitVec 5 → BitVec 5 → Instr) := none

def sD : Pat := .reg .scalar false
def sL : Pat := .reg .scalar true
def vD : Pat := .reg .vector false
def vL : Pat := .reg .vector true
def kD : Pat := .reg .mask false
def tH : Pat := .reg .tile false
def aC : Pat := .reg .acc false

/-- A form of one instruction. -/
def one (pats : List Pat) (build : Got → Instr) : Form := { pats := pats, build := fun g => [build g] }
/-- A form of one instruction that a mask may follow. -/
def oneK (pats : List Pat) (build : Got → Instr) : Form := { pats := pats, masked := true, build := fun g => [build g] }
def mn (name : Text) (forms : List Form) (suffix : Suffix := .plain) : Mnemonic := { name := name, suffix := suffix, forms := forms }

/-- `feq` and the like: the predicate in d, then FCMP; d equal to a or b is error E3 (10 R292). -/
def compareForm (p : BitVec 14) : Form :=
  { pats := [sD, sL, sL], count := 2,
    build := fun g =>
      if decide (g.r 5 0 = g.r 5 1) || decide (g.r 5 0 = g.r 5 2) then []
      else [.addi p false 0 (g.r 5 0), .fcmp (g.l 2) (g.l 1) (g.r 5 2) (g.r 5 1) (g.r 5 0)] }

/-- Register operations (10 R276). -/
noncomputable def intRRForms : List Mnemonic :=
  [mn "add".toList [one [sD, sL, sL] (fun g => .add g.zd (g.l 2) (g.l 1) (g.r 5 2) (g.r 5 1) (g.r 5 0))] .wd,
   mn "sub".toList [one [sD, sL, sL] (fun g => .sub g.zd (g.l 2) (g.l 1) (g.r 5 2) (g.r 5 1) (g.r 5 0))] .wd,
   mn "and".toList [one [sD, sL, sL] (fun g => .and g.zd (g.l 2) (g.l 1) (g.r 5 2) (g.r 5 1) (g.r 5 0))] .wd,
   mn "or".toList [one [sD, sL, sL] (fun g => .or g.zd (g.l 2) (g.l 1) (g.r 5 2) (g.r 5 1) (g.r 5 0))] .wd,
   mn "xor".toList [one [sD, sL, sL] (fun g => .xor g.zd (g.l 2) (g.l 1) (g.r 5 2) (g.r 5 1) (g.r 5 0))] .wd,
   mn "andn".toList [one [sD, sL, sL] (fun g => .andn g.zd (g.l 2) (g.l 1) (g.r 5 2) (g.r 5 1) (g.r 5 0))] .wd,
   mn "sll".toList [one [sD, sL, sL] (fun g => .sll g.zd (g.l 2) (g.l 1) (g.r 5 2) (g.r 5 1) (g.r 5 0))] .wd,
   mn "srl".toList [one [sD, sL, sL] (fun g => .srl g.zd (g.l 2) (g.l 1) (g.r 5 2) (g.r 5 1) (g.r 5 0))] .wd,
   mn "sra".toList [one [sD, sL, sL] (fun g => .sra g.zd (g.l 2) (g.l 1) (g.r 5 2) (g.r 5 1) (g.r 5 0))] .wd,
   mn "ror".toList [one [sD, sL, sL] (fun g => .ror g.zd (g.l 2) (g.l 1) (g.r 5 2) (g.r 5 1) (g.r 5 0))] .wd,
   mn "min".toList [one [sD, sL, sL] (fun g => .min g.zd (g.l 2) (g.l 1) (g.r 5 2) (g.r 5 1) (g.r 5 0))] .wd,
   mn "max".toList [one [sD, sL, sL] (fun g => .max g.zd (g.l 2) (g.l 1) (g.r 5 2) (g.r 5 1) (g.r 5 0))] .wd,
   mn "minu".toList [one [sD, sL, sL] (fun g => .minu g.zd (g.l 2) (g.l 1) (g.r 5 2) (g.r 5 1) (g.r 5 0))] .wd,
   mn "maxu".toList [one [sD, sL, sL] (fun g => .maxu g.zd (g.l 2) (g.l 1) (g.r 5 2) (g.r 5 1) (g.r 5 0))] .wd,
   mn "slt".toList [one [sD, sL, sL] (fun g => .slt g.zd (g.l 2) (g.l 1) (g.r 5 2) (g.r 5 1) (g.r 5 0))] .wd,
   mn "sltu".toList [one [sD, sL, sL] (fun g => .sltu g.zd (g.l 2) (g.l 1) (g.r 5 2) (g.r 5 1) (g.r 5 0))] .wd,
   mn "seq".toList [one [sD, sL, sL] (fun g => .seq g.zd (g.l 2) (g.l 1) (g.r 5 2) (g.r 5 1) (g.r 5 0))] .wd,
   mn "sne".toList [one [sD, sL, sL] (fun g => .sne g.zd (g.l 2) (g.l 1) (g.r 5 2) (g.r 5 1) (g.r 5 0))] .wd]

/-- Conditional moves, counts, multiply and divide (10 R276, R282). -/
noncomputable def mulDivForms : List Mnemonic :=
  [mn "cmovz".toList [one [sD, sL, sL] (fun g => .cmovz (g.l 2) (g.l 1) (g.r 5 2) (g.r 5 1) (g.r 5 0))] .dOnly,
   mn "cmovnz".toList [one [sD, sL, sL] (fun g => .cmovnz (g.l 2) (g.l 1) (g.r 5 2) (g.r 5 1) (g.r 5 0))] .dOnly,
   mn "clz".toList [one [sD, sL] (fun g => .clz g.zd (g.l 1) (g.r 5 1) (g.r 5 0))] .wd,
   mn "ctz".toList [one [sD, sL] (fun g => .ctz g.zd (g.l 1) (g.r 5 1) (g.r 5 0))] .wd,
   mn "popc".toList [one [sD, sL] (fun g => .popc g.zd (g.l 1) (g.r 5 1) (g.r 5 0))] .wd,
   mn "mul".toList [one [sD, sL, sL] (fun g => .mul g.zd (g.l 2) (g.l 1) (g.r 5 2) (g.r 5 1) (g.r 5 0))] .wd,
   mn "mulh".toList [one [sD, sL, sL] (fun g => .mulh g.zd (g.l 2) (g.l 1) (g.r 5 2) (g.r 5 1) (g.r 5 0))] .wd,
   mn "mulhu".toList [one [sD, sL, sL] (fun g => .mulhu g.zd (g.l 2) (g.l 1) (g.r 5 2) (g.r 5 1) (g.r 5 0))] .wd,
   mn "mulhsu".toList [one [sD, sL, sL] (fun g => .mulhsu g.zd (g.l 2) (g.l 1) (g.r 5 2) (g.r 5 1) (g.r 5 0))] .wd,
   mn "div".toList [one [sD, sL, sL] (fun g => .div g.zd (g.l 2) (g.l 1) (g.r 5 2) (g.r 5 1) (g.r 5 0))] .wd,
   mn "divu".toList [one [sD, sL, sL] (fun g => .divu g.zd (g.l 2) (g.l 1) (g.r 5 2) (g.r 5 1) (g.r 5 0))] .wd,
   mn "rem".toList [one [sD, sL, sL] (fun g => .rem g.zd (g.l 2) (g.l 1) (g.r 5 2) (g.r 5 1) (g.r 5 0))] .wd,
   mn "remu".toList [one [sD, sL, sL] (fun g => .remu g.zd (g.l 2) (g.l 1) (g.r 5 2) (g.r 5 1) (g.r 5 0))] .wd]

/-- Immediates and bit fields (10 R277 to R281). -/
noncomputable def immediatesForms : List Mnemonic :=
  [mn "addi".toList [one [sD, sL, .imm (-8192) 8191] (fun g => .addi (g.v 14 0) (g.l 1) (g.r 5 1) (g.r 5 0))],
   mn "andi".toList [one [sD, sL, .imm (-8192) 8191] (fun g => .andi (g.v 14 0) (g.l 1) (g.r 5 1) (g.r 5 0))],
   mn "ori".toList [one [sD, sL, .imm (-8192) 8191] (fun g => .ori (g.v 14 0) (g.l 1) (g.r 5 1) (g.r 5 0))],
   mn "xori".toList [one [sD, sL, .imm (-8192) 8191] (fun g => .xori (g.v 14 0) (g.l 1) (g.r 5 1) (g.r 5 0))],
   mn "slli".toList [one [sD, sL, .imm 0 63] (fun g => .slli g.zd (g.v 6 0) (g.l 1) (g.r 5 1) (g.r 5 0))] .wd,
   mn "srli".toList [one [sD, sL, .imm 0 63] (fun g => .srli g.zd (g.v 6 0) (g.l 1) (g.r 5 1) (g.r 5 0))] .wd,
   mn "srai".toList [one [sD, sL, .imm 0 63] (fun g => .srai g.zd (g.v 6 0) (g.l 1) (g.r 5 1) (g.r 5 0))] .wd,
   mn "rori".toList [one [sD, sL, .imm 0 63] (fun g => .rori g.zd (g.v 6 0) (g.l 1) (g.r 5 1) (g.r 5 0))] .wd,
   mn "seqi".toList [one [sD, sL, .imm (-2048) 2047] (fun g => .seqi (g.v 12 0) (g.l 1) (g.r 5 1) (g.r 5 0))],
   mn "snei".toList [one [sD, sL, .imm (-2048) 2047] (fun g => .snei (g.v 12 0) (g.l 1) (g.r 5 1) (g.r 5 0))],
   mn "slti".toList [one [sD, sL, .imm (-2048) 2047] (fun g => .slti (g.v 12 0) (g.l 1) (g.r 5 1) (g.r 5 0))],
   mn "sltiu".toList [one [sD, sL, .imm (-2048) 2047] (fun g => .sltiu (g.v 12 0) (g.l 1) (g.r 5 1) (g.r 5 0))],
   mn "lui".toList [one [sD, .imm (-524288) 1048575] (fun g => .lui (g.v 20 0) (g.r 5 0))],
   mn "leapc".toList [one [sD, .target 20] (fun g => .leapc (g.v 20 0) (g.r 5 0))],
   mn "bfxu".toList [one [sD, sL, .imm 0 63, .imm 1 64] (fun g => .bfxu (g.v 6 1 - 1) (g.v 6 0) (g.l 1) (g.r 5 1) (g.r 5 0))],
   mn "bfx".toList [one [sD, sL, .imm 0 63, .imm 1 64] (fun g => .bfx (g.v 6 1 - 1) (g.v 6 0) (g.l 1) (g.r 5 1) (g.r 5 0))],
   mn "bfi".toList [one [sD, sL, .imm 0 63, .imm 1 64] (fun g => .bfi (g.v 6 1 - 1) (g.v 6 0) (g.l 1) (g.r 5 1) (g.r 5 0))]]

/-- Scalar floating point (10 R283). -/
noncomputable def scalarFpForms : List Mnemonic :=
  [mn "fadd".toList [one [sD, sL, sL] (fun g => .fadd (g.l 2) (g.l 1) (g.r 5 2) (g.r 5 1) (g.r 5 0))] .w,
   mn "fsub".toList [one [sD, sL, sL] (fun g => .fsub (g.l 2) (g.l 1) (g.r 5 2) (g.r 5 1) (g.r 5 0))] .w,
   mn "fmul".toList [one [sD, sL, sL] (fun g => .fmul (g.l 2) (g.l 1) (g.r 5 2) (g.r 5 1) (g.r 5 0))] .w,
   mn "fma".toList [one [sD, sL, sL] (fun g => .fma (g.l 2) (g.l 1) (g.r 5 2) (g.r 5 1) (g.r 5 0))] .w,
   mn "fdiv".toList [one [sD, sL, sL] (fun g => .fdiv (g.l 2) (g.l 1) (g.r 5 2) (g.r 5 1) (g.r 5 0))] .w,
   mn "fcmp".toList [one [sD, sL, sL] (fun g => .fcmp (g.l 2) (g.l 1) (g.r 5 2) (g.r 5 1) (g.r 5 0))] .w,
   mn "fcvtif".toList [one [sD, sL] (fun g => .fcvtif (g.l 1) (g.r 5 1) (g.r 5 0))] .w,
   mn "fcvtfi".toList [one [sD, sL] (fun g => .fcvtfi (g.l 1) (g.r 5 1) (g.r 5 0))] .w]

/-- Control transfer (10 R287 to R289, R292; 09 R251). -/
noncomputable def controlForms : List Mnemonic :=
  [mn "beq".toList [one [sD, sD, .target 12] (fun g => .beq (g.v 12 0) (g.r 5 1) (g.r 5 0))],
   mn "bne".toList [one [sD, sD, .target 12] (fun g => .bne (g.v 12 0) (g.r 5 1) (g.r 5 0))],
   mn "blt".toList [one [sD, sD, .target 12] (fun g => .blt (g.v 12 0) (g.r 5 1) (g.r 5 0))],
   mn "bge".toList [one [sD, sD, .target 12] (fun g => .bge (g.v 12 0) (g.r 5 1) (g.r 5 0))],
   mn "bltu".toList [one [sD, sD, .target 12] (fun g => .bltu (g.v 12 0) (g.r 5 1) (g.r 5 0))],
   mn "bgeu".toList [one [sD, sD, .target 12] (fun g => .bgeu (g.v 12 0) (g.r 5 1) (g.r 5 0))],
   mn "bgt".toList [one [sD, sD, .target 12] (fun g => .blt (g.v 12 0) (g.r 5 0) (g.r 5 1))],
   mn "ble".toList [one [sD, sD, .target 12] (fun g => .bge (g.v 12 0) (g.r 5 0) (g.r 5 1))],
   mn "bgtu".toList [one [sD, sD, .target 12] (fun g => .bltu (g.v 12 0) (g.r 5 0) (g.r 5 1))],
   mn "bleu".toList [one [sD, sD, .target 12] (fun g => .bgeu (g.v 12 0) (g.r 5 0) (g.r 5 1))],
   mn "beqz".toList [one [sD, .target 12] (fun g => .beq (g.v 12 0) 0 (g.r 5 0))],
   mn "bnez".toList [one [sD, .target 12] (fun g => .bne (g.v 12 0) 0 (g.r 5 0))],
   mn "j".toList [one [.target 20] (fun g => .j (g.v 20 0))],
   mn "call".toList [one [.target 20] (fun g => .call (g.v 20 0) 31), one [sD, .target 20] (fun g => .call (g.v 20 0) (g.r 5 0))],
   mn "jr".toList [one [sL] (fun g => .jr 0 (g.l 0) (g.r 5 0)), one [sL, .imm (-8192) 8191] (fun g => .jr (g.v 14 0) (g.l 0) (g.r 5 0))],
   mn "callr".toList [one [sL] (fun g => .callr 0 (g.l 0) (g.r 5 0) 31), one [sD, sL, .imm (-8192) 8191] (fun g => .callr (g.v 14 0) (g.l 1) (g.r 5 1) (g.r 5 0))],
   mn "ret".toList [one [] (fun _ => .jr 0 false 31)]]

/-- Forms without encodings of their own (10 R292). -/
noncomputable def writtenForms : List Mnemonic :=
  [mn "mov".toList [one [sD, sL] (fun g => .addi 0 (g.l 1) (g.r 5 1) (g.r 5 0))],
   mn "not".toList [one [sD, sL] (fun g => .xori (-1) (g.l 1) (g.r 5 1) (g.r 5 0))],
   mn "neg".toList [one [sD, sL] (fun g => .sub true (g.l 1) false (g.r 5 1) 0 (g.r 5 0))],
   mn "feq".toList [compareForm 0],
   mn "flt".toList [compareForm 1],
   mn "fle".toList [compareForm 2],
   mn "fun".toList [compareForm 3]]

/-- Loads and stores (12 R316, R319). -/
noncomputable def memoryForms : List Mnemonic :=
  [mn "lb".toList [one [sD, .mem 1 true] (fun g => .lb (g.v 10 0) (g.l 1) (g.r 5 1) (g.r 5 0))],
   mn "lh".toList [one [sD, .mem 2 true] (fun g => .lh (g.v 10 0) (g.l 1) (g.r 5 1) (g.r 5 0))],
   mn "lw".toList [one [sD, .mem 4 true] (fun g => .lw (g.v 10 0) (g.l 1) (g.r 5 1) (g.r 5 0))],
   mn "ld".toList [one [sD, .mem 8 true] (fun g => .ld (g.v 10 0) (g.l 1) (g.r 5 1) (g.r 5 0))],
   mn "lbu".toList [one [sD, .mem 1 true] (fun g => .lbu (g.v 10 0) (g.l 1) (g.r 5 1) (g.r 5 0))],
   mn "lhu".toList [one [sD, .mem 2 true] (fun g => .lhu (g.v 10 0) (g.l 1) (g.r 5 1) (g.r 5 0))],
   mn "lwu".toList [one [sD, .mem 4 true] (fun g => .lwu (g.v 10 0) (g.l 1) (g.r 5 1) (g.r 5 0))],
   mn "sb".toList [one [sL, .mem 1 true] (fun g => .sb (g.v 10 0) (g.l 0) (g.l 1) (g.r 5 1) (g.r 5 0))],
   mn "sh".toList [one [sL, .mem 2 true] (fun g => .sh (g.v 10 0) (g.l 0) (g.l 1) (g.r 5 1) (g.r 5 0))],
   mn "sw".toList [one [sL, .mem 4 true] (fun g => .sw (g.v 10 0) (g.l 0) (g.l 1) (g.r 5 1) (g.r 5 0))],
   mn "sd".toList [one [sL, .mem 8 true] (fun g => .sd (g.v 10 0) (g.l 0) (g.l 1) (g.r 5 1) (g.r 5 0))],
   mn "ldm".toList [one [sD, .imm 1 8, .mem 8 true] (fun g => .ldm (g.v 10 1) (g.v 3 0 - 1) (g.l 1) (g.r 5 1) (g.r 5 0))],
   mn "stm".toList [one [sD, .imm 1 8, .mem 8 true] (fun g => .stm (g.v 10 1) (g.v 3 0 - 1) (g.l 1) (g.r 5 1) (g.r 5 0))]]

/-- Atomics and active messages (12 R321, R334 to R336). -/
noncomputable def atomicsForms : List Mnemonic :=
  [mn "aadd".toList [one [sD, .base true, sL] (fun g => .aadd g.zd (g.l 2) (g.l 1) (g.r 5 2) (g.r 5 1) (g.r 5 0))] .wd,
   mn "afadd".toList [one [sD, .base true, sL] (fun g => .afadd g.zd (g.l 2) (g.l 1) (g.r 5 2) (g.r 5 1) (g.r 5 0))] .wd,
   mn "amin".toList [one [sD, .base true, sL] (fun g => .amin g.zd (g.l 2) (g.l 1) (g.r 5 2) (g.r 5 1) (g.r 5 0))] .wd,
   mn "amax".toList [one [sD, .base true, sL] (fun g => .amax g.zd (g.l 2) (g.l 1) (g.r 5 2) (g.r 5 1) (g.r 5 0))] .wd,
   mn "aminu".toList [one [sD, .base true, sL] (fun g => .aminu g.zd (g.l 2) (g.l 1) (g.r 5 2) (g.r 5 1) (g.r 5 0))] .wd,
   mn "amaxu".toList [one [sD, .base true, sL] (fun g => .amaxu g.zd (g.l 2) (g.l 1) (g.r 5 2) (g.r 5 1) (g.r 5 0))] .wd,
   mn "aand".toList [one [sD, .base true, sL] (fun g => .aand g.zd (g.l 2) (g.l 1) (g.r 5 2) (g.r 5 1) (g.r 5 0))] .wd,
   mn "aor".toList [one [sD, .base true, sL] (fun g => .aor g.zd (g.l 2) (g.l 1) (g.r 5 2) (g.r 5 1) (g.r 5 0))] .wd,
   mn "axor".toList [one [sD, .base true, sL] (fun g => .axor g.zd (g.l 2) (g.l 1) (g.r 5 2) (g.r 5 1) (g.r 5 0))] .wd,
   mn "aswap".toList [one [sD, .base true, sL] (fun g => .aswap g.zd (g.l 2) (g.l 1) (g.r 5 2) (g.r 5 1) (g.r 5 0))] .wd,
   mn "acas".toList [one [sD, .base true, sL] (fun g => .acas g.zd (g.l 2) (g.l 1) (g.r 5 2) (g.r 5 1) (g.r 5 0))] .wd,
   mn "amop.aadd".toList [one [sD, .base true, sL] (fun g => .amopAadd g.zd (g.l 2) (g.l 1) (g.r 5 2) (g.r 5 1) (g.r 5 0))] .wd,
   mn "amop.afadd".toList [one [sD, .base true, sL] (fun g => .amopAfadd g.zd (g.l 2) (g.l 1) (g.r 5 2) (g.r 5 1) (g.r 5 0))] .wd,
   mn "amop.amin".toList [one [sD, .base true, sL] (fun g => .amopAmin g.zd (g.l 2) (g.l 1) (g.r 5 2) (g.r 5 1) (g.r 5 0))] .wd,
   mn "amop.amax".toList [one [sD, .base true, sL] (fun g => .amopAmax g.zd (g.l 2) (g.l 1) (g.r 5 2) (g.r 5 1) (g.r 5 0))] .wd,
   mn "amop.aminu".toList [one [sD, .base true, sL] (fun g => .amopAminu g.zd (g.l 2) (g.l 1) (g.r 5 2) (g.r 5 1) (g.r 5 0))] .wd,
   mn "amop.amaxu".toList [one [sD, .base true, sL] (fun g => .amopAmaxu g.zd (g.l 2) (g.l 1) (g.r 5 2) (g.r 5 1) (g.r 5 0))] .wd,
   mn "amop.aand".toList [one [sD, .base true, sL] (fun g => .amopAand g.zd (g.l 2) (g.l 1) (g.r 5 2) (g.r 5 1) (g.r 5 0))] .wd,
   mn "amop.aor".toList [one [sD, .base true, sL] (fun g => .amopAor g.zd (g.l 2) (g.l 1) (g.r 5 2) (g.r 5 1) (g.r 5 0))] .wd,
   mn "amop.axor".toList [one [sD, .base true, sL] (fun g => .amopAxor g.zd (g.l 2) (g.l 1) (g.r 5 2) (g.r 5 1) (g.r 5 0))] .wd,
   mn "amop.aswap".toList [one [sD, .base true, sL] (fun g => .amopAswap g.zd (g.l 2) (g.l 1) (g.r 5 2) (g.r 5 1) (g.r 5 0))] .wd,
   mn "amop.acas".toList [one [sD, .base true, sL] (fun g => .amopAcas g.zd (g.l 2) (g.l 1) (g.r 5 2) (g.r 5 1) (g.r 5 0))] .wd,
   mn "amld".toList [one [sD, .base true] (fun g => .amld (g.z 3) (g.l 1) (g.r 5 1) (g.r 5 0))] .load,
   mn "amst".toList [one [.base true, sL] (fun g => .amst (g.z 2) (g.l 1) (g.l 0) (g.r 5 1) (g.r 5 0))] .store]

/-- Taint, barriers, channels (12 R325, R326, R331, R332). -/
noncomputable def syncForms : List Mnemonic :=
  [mn "tclr".toList [one [sD] (fun g => .tclr false (g.r 5 0)), one [vD] (fun g => .tclr true (g.r 5 0))],
   mn "tjoin".toList [one [sD, sL] (fun g => .tjoin false false (g.l 1) (g.r 5 1) (g.r 5 0)), one [sD, vL] (fun g => .tjoin true false (g.l 1) (g.r 5 1) (g.r 5 0)), one [vD, sL] (fun g => .tjoin false true (g.l 1) (g.r 5 1) (g.r 5 0)), one [vD, vL] (fun g => .tjoin true true (g.l 1) (g.r 5 1) (g.r 5 0))],
   mn "twait".toList [one [sL] (fun g => .twait false (g.l 0) (g.r 5 0)), one [vL] (fun g => .twait true (g.l 0) (g.r 5 0))],
   mn "bar".toList [one [sL] (fun g => .bar (g.l 0) (g.r 5 0))],
   mn "baradd".toList [one [sD, sL, sL] (fun g => .baradd g.zd (g.l 2) (g.l 1) (g.r 5 2) (g.r 5 1) (g.r 5 0))] .wd,
   mn "barfadd".toList [one [sD, sL, sL] (fun g => .barfadd (g.l 2) (g.l 1) (g.r 5 2) (g.r 5 1) (g.r 5 0))] .w,
   mn "chsend".toList [one [sL, sL] (fun g => .chsend (g.l 1) (g.l 0) (g.r 5 1) (g.r 5 0))],
   mn "chrecv".toList [one [sD, sL] (fun g => .chrecv (g.l 1) (g.r 5 1) (g.r 5 0))]]

/-- Threads, tasks, bit streams, CSRs, system, FMT (14; 09 R266). -/
noncomputable def threadsForms : List Mnemonic :=
  [mn "fork".toList [one [sD] (fun g => .fork (g.r 5 0))],
   mn "meet".toList [one [sD, .imm 0 4095] (fun g => .meet (g.v 12 0) (g.r 5 0))],
   mn "meet.c".toList [one [sD, sD, .imm 0 4095] (fun g => .meetC (g.v 12 0) (g.r 5 1) (g.r 5 0))],
   mn "done".toList [one [] (fun _ => .done)],
   mn "align".toList [one [] (fun _ => .align)],
   mn "yield".toList [one [] (fun _ => .yield)],
   mn "waitw".toList [one [] (fun _ => .waitw)],
   mn "taskend".toList [one [] (fun _ => .taskend)],
   mn "commit".toList [one [] (fun _ => .commit)],
   mn "eret".toList [one [] (fun _ => .eret)],
   mn "halt".toList [one [] (fun _ => .halt)],
   mn "spawn".toList [one [sD] (fun g => .spawn (g.r 5 0))],
   mn "hrq".toList [one [sD, sD] (fun g => .hrq (g.r 5 1) (g.r 5 0))],
   mn "hrq.sw".toList [one [sD, sD] (fun g => .hrqSw (g.r 5 1) (g.r 5 0))],
   mn "bstake".toList [one [sD, .imm 1 64] (fun g => .bstake (g.v 7 0) (g.r 5 0))],
   mn "bspeek".toList [one [sD, .imm 1 64] (fun g => .bspeek (g.v 7 0) (g.r 5 0))],
   mn "bsemit".toList [one [sL, .imm 1 64] (fun g => .bsemit (g.v 7 0) (g.l 0) (g.r 5 0))],
   mn "bsskip".toList [one [.imm 1 64] (fun g => .bsskip (g.v 7 0))],
   mn "bsalign".toList [one [.imm 1 64] (fun g => .bsalign (g.v 7 0))],
   mn "csrr".toList [one [sD, .csr] (fun g => .csrr (g.v 12 0) (g.r 5 0))],
   mn "csrw".toList [one [sD, .csr, sL] (fun g => .csrw (g.v 12 0) (g.l 1) (g.r 5 1) (g.r 5 0)), one [.csr, sL] (fun g => .csrw (g.v 12 0) (g.l 0) (g.r 5 0) 0)],
   mn "csrs".toList [one [sD, .csr, sL] (fun g => .csrs (g.v 12 0) (g.l 1) (g.r 5 1) (g.r 5 0))],
   mn "csrc".toList [one [sD, .csr, sL] (fun g => .csrc (g.v 12 0) (g.l 1) (g.r 5 1) (g.r 5 0))],
   mn "trap".toList [one [.imm 0 31] (fun g => .trap (g.v 5 0))],
   mn "dbg".toList [one [.imm 0 31] (fun g => .dbg (g.v 5 0))],
   mn "tlbw".toList [one [sL, sL] (fun g => .tlbw (g.l 1) (g.l 0) (g.r 5 1) (g.r 5 0))],
   mn "tlbi".toList [one [sL, .name [("page".toList, 0), ("asid".toList, 1), ("all".toList, 2)]] (fun g => .tlbi false (g.v 2 0) (g.l 0) (g.r 5 0) 0), one [sL, .name [("page".toList, 0), ("asid".toList, 1), ("all".toList, 2)], .imm 0 15] (fun g => .tlbi true (g.v 2 0) (g.l 0) (g.r 5 0) (g.v 5 1))],
   mn "cwb".toList [one [sL] (fun g => .cwb (g.l 0) (g.r 5 0))],
   mn "cinv".toList [one [sL] (fun g => .cinv (g.l 0) (g.r 5 0))],
   mn "fmt".toList [one [.format, .format, .format, .name [("rne".toList, 0), ("rtz".toList, 1), ("rdn".toList, 2), ("rup".toList, 3), ("sr".toList, 4)], .imm 0 1]
      (fun g => .fmt (decide (g.vals.getD 4 0 = 1)) (g.v 3 3) (g.v 5 2) (g.v 5 1) (g.v 5 0))]]

/-- Tiles, matrix, copy (13). -/
noncomputable def tilesForms : List Mnemonic :=
  [mn "tdef".toList [one [tH, sD, sD] (fun g => .tdef (g.r 5 2) (g.r 5 1) (g.r 5 0))],
   mn "trel".toList [one [tH] (fun g => .trel (g.r 5 0))],
   mn "twaitr".toList [one [tH] (fun g => .twaitr (g.r 5 0))],
   mn "tcons".toList [one [tH] (fun g => .tcons (g.r 5 0))],
   mn "tstat".toList [one [sD, tH] (fun g => .tstat (g.r 5 1) (g.r 5 0))],
   mn "tfill".toList [one [tH, sD] (fun g => .tfill (g.r 5 1) (g.r 5 0))],
   mn "mma".toList [one [aC, tH, tH] (fun g => .mma false (decide (g.regs.getD 0 0 = 1)) g.e (g.r 5 2) (g.r 5 1))],
   mn "mma.z".toList [one [aC, tH, tH] (fun g => .mma true (decide (g.regs.getD 0 0 = 1)) g.e (g.r 5 2) (g.r 5 1))],
   mn "mmac".toList [one [aC, sD, tH, tH] (fun g => .mmac false (decide (g.regs.getD 0 0 = 1)) g.e (g.r 5 3) (g.r 5 2) (g.r 5 1))],
   mn "mmac.z".toList [one [aC, sD, tH, tH] (fun g => .mmac true (decide (g.regs.getD 0 0 = 1)) g.e (g.r 5 3) (g.r 5 2) (g.r 5 1))],
   mn "mzero".toList [one [aC] (fun g => .mzero (decide (g.regs.getD 0 0 = 1)) g.e)],
   mn "mstore".toList [one [aC, tH] (fun g => .mstore (decide (g.regs.getD 0 0 = 1)) g.e (g.r 5 1))],
   mn "mmask".toList [one [aC, tH] (fun g => .mmask (decide (g.regs.getD 0 0 = 1)) g.e (g.r 5 1))],
   mn "mscale".toList [one [aC, sD, sD] (fun g => .mscale (decide (g.regs.getD 0 0 = 1)) g.e (g.r 5 2) (g.r 5 1))],
   mn "cpy".toList [one [sD] (fun g => .cpy g.e (g.r 5 0))],
   mn "cpyw".toList [one [sD] (fun g => .cpyw g.e (g.r 5 0))],
   mn "cpyc".toList [one [sD] (fun g => .cpyc g.e (g.r 5 0))],
   mn "cpyq".toList [one [sD, sD] (fun g => .cpyq g.e (g.r 5 1) (g.r 5 0))]]

/-- Integer lane operations (11 R296, R297). -/
noncomputable def lanesForms : List Mnemonic :=
  [{ name := "vmov".toList, forms := [oneK [vD, .source] (fun g => .vmov g.s g.k (g.r 5 1) (g.r 5 0)), oneK [vD, .imm (-32) 31] (fun g => .vmovI (g.v 6 0) g.k (g.r 5 0))], short := some Instr.vmov16 },
   { name := "vadd".toList, forms := [oneK [vD, vL, .source] (fun g => .vadd (g.l 1) g.s g.k (g.r 5 2) (g.r 5 1) (g.r 5 0)), oneK [vD, vL, .imm (-32) 31] (fun g => .vaddI (g.l 1) (g.v 6 0) g.k (g.r 5 1) (g.r 5 0))], short := some Instr.vadd16 },
   { name := "vsub".toList, forms := [oneK [vD, vL, .source] (fun g => .vsub (g.l 1) g.s g.k (g.r 5 2) (g.r 5 1) (g.r 5 0)), oneK [vD, vL, .imm (-32) 31] (fun g => .vsubI (g.l 1) (g.v 6 0) g.k (g.r 5 1) (g.r 5 0))], short := some Instr.vsub16 },
   { name := "vmul".toList, forms := [oneK [vD, vL, .source] (fun g => .vmul (g.l 1) g.s g.k (g.r 5 2) (g.r 5 1) (g.r 5 0)), oneK [vD, vL, .imm (-32) 31] (fun g => .vmulI (g.l 1) (g.v 6 0) g.k (g.r 5 1) (g.r 5 0))], short := some Instr.vmul16 },
   { name := "vand".toList, forms := [oneK [vD, vL, .source] (fun g => .vand (g.l 1) g.s g.k (g.r 5 2) (g.r 5 1) (g.r 5 0)), oneK [vD, vL, .imm (-32) 31] (fun g => .vandI (g.l 1) (g.v 6 0) g.k (g.r 5 1) (g.r 5 0))], short := some Instr.vand16 },
   { name := "vor".toList, forms := [oneK [vD, vL, .source] (fun g => .vor (g.l 1) g.s g.k (g.r 5 2) (g.r 5 1) (g.r 5 0)), oneK [vD, vL, .imm (-32) 31] (fun g => .vorI (g.l 1) (g.v 6 0) g.k (g.r 5 1) (g.r 5 0))], short := some Instr.vor16 },
   { name := "vxor".toList, forms := [oneK [vD, vL, .source] (fun g => .vxor (g.l 1) g.s g.k (g.r 5 2) (g.r 5 1) (g.r 5 0)), oneK [vD, vL, .imm (-32) 31] (fun g => .vxorI (g.l 1) (g.v 6 0) g.k (g.r 5 1) (g.r 5 0))], short := some Instr.vxor16 },
   { name := "vshl".toList, forms := [oneK [vD, vL, .source] (fun g => .vshl (g.l 1) g.s g.k (g.r 5 2) (g.r 5 1) (g.r 5 0)), oneK [vD, vL, .imm 0 31] (fun g => .vshlI (g.l 1) g.k (g.v 5 0) (g.r 5 1) (g.r 5 0))], short := some Instr.vshl16 },
   { name := "vshr".toList, forms := [oneK [vD, vL, .source] (fun g => .vshr (g.l 1) g.s g.k (g.r 5 2) (g.r 5 1) (g.r 5 0)), oneK [vD, vL, .imm 0 31] (fun g => .vshrI (g.l 1) g.k (g.v 5 0) (g.r 5 1) (g.r 5 0))], short := some Instr.vshr16 },
   { name := "vmin".toList, forms := [oneK [vD, vL, .source] (fun g => .vmin (g.l 1) g.s g.k (g.r 5 2) (g.r 5 1) (g.r 5 0)), oneK [vD, vL, .imm (-32) 31] (fun g => .vminI (g.l 1) (g.v 6 0) g.k (g.r 5 1) (g.r 5 0))], short := some Instr.vmin16 },
   { name := "vmax".toList, forms := [oneK [vD, vL, .source] (fun g => .vmax (g.l 1) g.s g.k (g.r 5 2) (g.r 5 1) (g.r 5 0)), oneK [vD, vL, .imm (-32) 31] (fun g => .vmaxI (g.l 1) (g.v 6 0) g.k (g.r 5 1) (g.r 5 0))], short := some Instr.vmax16 },
   mn "vsra".toList [oneK [vD, vL, .source] (fun g => .vsra (g.l 1) g.s g.k (g.r 5 2) (g.r 5 1) (g.r 5 0)), oneK [vD, vL, .imm 0 31] (fun g => .vsraI (g.l 1) g.k (g.v 5 0) (g.r 5 1) (g.r 5 0))],
   mn "vminu".toList [oneK [vD, vL, .source] (fun g => .vminu (g.l 1) g.s g.k (g.r 5 2) (g.r 5 1) (g.r 5 0)), oneK [vD, vL, .imm (-32) 31] (fun g => .vminuI (g.l 1) (g.v 6 0) g.k (g.r 5 1) (g.r 5 0))],
   mn "vmaxu".toList [oneK [vD, vL, .source] (fun g => .vmaxu (g.l 1) g.s g.k (g.r 5 2) (g.r 5 1) (g.r 5 0)), oneK [vD, vL, .imm (-32) 31] (fun g => .vmaxuI (g.l 1) (g.v 6 0) g.k (g.r 5 1) (g.r 5 0))],
   mn "vmulhu".toList [oneK [vD, vL, .source] (fun g => .vmulhu (g.l 1) g.s g.k (g.r 5 2) (g.r 5 1) (g.r 5 0))],
   mn "vmadd".toList [oneK [vD, vL, .source] (fun g => .vmadd (g.l 1) g.s g.k (g.r 5 2) (g.r 5 1) (g.r 5 0))]]

/-- Floating-point lanes, compares, conversions, permutes, reductions (11 R298 to R306). -/
noncomputable def laneFpForms : List Mnemonic :=
  [{ name := "vfadd".toList, forms := [oneK [vD, vL, .source] (fun g => .vfadd (g.l 1) g.s g.k (g.r 5 2) (g.r 5 1) (g.r 5 0))], short := some Instr.vfadd16 },
   { name := "vfsub".toList, forms := [oneK [vD, vL, .source] (fun g => .vfsub (g.l 1) g.s g.k (g.r 5 2) (g.r 5 1) (g.r 5 0))], short := some Instr.vfsub16 },
   { name := "vfmul".toList, forms := [oneK [vD, vL, .source] (fun g => .vfmul (g.l 1) g.s g.k (g.r 5 2) (g.r 5 1) (g.r 5 0))], short := some Instr.vfmul16 },
   { name := "vfmin".toList, forms := [oneK [vD, vL, .source] (fun g => .vfmin (g.l 1) g.s g.k (g.r 5 2) (g.r 5 1) (g.r 5 0))], short := some Instr.vfmin16 },
   { name := "vfmax".toList, forms := [oneK [vD, vL, .source] (fun g => .vfmax (g.l 1) g.s g.k (g.r 5 2) (g.r 5 1) (g.r 5 0))], short := some Instr.vfmax16 },
   mn "vfma".toList [oneK [vD, vL, .source] (fun g => .vfma (g.l 1) g.s g.k (g.r 5 2) (g.r 5 1) (g.r 5 0))],
   mn "vfdiv".toList [oneK [vD, vL, .source] (fun g => .vfdiv (g.l 1) g.s g.k (g.r 5 2) (g.r 5 1) (g.r 5 0))],
   mn "vfsqrt".toList [oneK [vD, vL] (fun g => .vfsqrt (g.l 1) g.k (g.r 5 1) (g.r 5 0))],
   mn "vfabs".toList [oneK [vD, vL] (fun g => .vfabs (g.l 1) g.k (g.r 5 1) (g.r 5 0))],
   mn "vfneg".toList [oneK [vD, vL] (fun g => .vfneg (g.l 1) g.k (g.r 5 1) (g.r 5 0))],
   mn "vcvt".toList [oneK [vD, vL] (fun g => .vcvt (g.l 1) g.k (g.r 5 1) (g.r 5 0))],
   mn "vcvtif".toList [oneK [vD, vL] (fun g => .vcvtif (g.l 1) g.k (g.r 5 1) (g.r 5 0))],
   mn "vcvtuf".toList [oneK [vD, vL] (fun g => .vcvtuf (g.l 1) g.k (g.r 5 1) (g.r 5 0))],
   mn "vcvtfi".toList [oneK [vD, vL] (fun g => .vcvtfi (g.l 1) g.k (g.r 5 1) (g.r 5 0))],
   mn "vcvtfu".toList [oneK [vD, vL] (fun g => .vcvtfu (g.l 1) g.k (g.r 5 1) (g.r 5 0))],
   mn "vcompress".toList [oneK [vD, vL] (fun g => .vcompress (g.l 1) g.k (g.r 5 1) (g.r 5 0))],
   mn "vexpand".toList [oneK [vD, vL] (fun g => .vexpand (g.l 1) g.k (g.r 5 1) (g.r 5 0))],
   mn "vhist".toList [oneK [vD, vL] (fun g => .vhist (g.l 1) g.k (g.r 5 1) (g.r 5 0))],
   mn "vceq".toList [oneK [kD, vL, .source] (fun g => .vceq (g.l 1) g.s g.k (g.r 5 2) (g.r 5 1) (g.r 3 0))],
   mn "vcne".toList [oneK [kD, vL, .source] (fun g => .vcne (g.l 1) g.s g.k (g.r 5 2) (g.r 5 1) (g.r 3 0))],
   mn "vclt".toList [oneK [kD, vL, .source] (fun g => .vclt (g.l 1) g.s g.k (g.r 5 2) (g.r 5 1) (g.r 3 0))],
   mn "vcle".toList [oneK [kD, vL, .source] (fun g => .vcle (g.l 1) g.s g.k (g.r 5 2) (g.r 5 1) (g.r 3 0))],
   mn "vcltu".toList [oneK [kD, vL, .source] (fun g => .vcltu (g.l 1) g.s g.k (g.r 5 2) (g.r 5 1) (g.r 3 0))],
   mn "vcleu".toList [oneK [kD, vL, .source] (fun g => .vcleu (g.l 1) g.s g.k (g.r 5 2) (g.r 5 1) (g.r 3 0))],
   mn "vfceq".toList [oneK [kD, vL, .source] (fun g => .vfceq (g.l 1) g.s g.k (g.r 5 2) (g.r 5 1) (g.r 3 0))],
   mn "vfclt".toList [oneK [kD, vL, .source] (fun g => .vfclt (g.l 1) g.s g.k (g.r 5 2) (g.r 5 1) (g.r 3 0))],
   mn "vfcle".toList [oneK [kD, vL, .source] (fun g => .vfcle (g.l 1) g.s g.k (g.r 5 2) (g.r 5 1) (g.r 3 0))],
   mn "vperm".toList [oneK [vD, vL, .source] (fun g => .vperm (g.l 1) g.s g.k (g.r 5 2) (g.r 5 1) (g.r 5 0))],
   mn "vslideup".toList [oneK [vD, vL, .source] (fun g => .vslideup (g.l 1) g.s g.k (g.r 5 2) (g.r 5 1) (g.r 5 0))],
   mn "vslidedn".toList [oneK [vD, vL, .source] (fun g => .vslidedn (g.l 1) g.s g.k (g.r 5 2) (g.r 5 1) (g.r 5 0))],
   mn "vziplo".toList [oneK [vD, vL, .source] (fun g => .vziplo (g.l 1) g.s g.k (g.r 5 2) (g.r 5 1) (g.r 5 0))],
   mn "vziphi".toList [oneK [vD, vL, .source] (fun g => .vziphi (g.l 1) g.s g.k (g.r 5 2) (g.r 5 1) (g.r 5 0))],
   mn "vextr".toList [one [sD, vL, sD] (fun g => .vextr (g.l 1) (g.r 5 2) (g.r 5 1) (g.r 5 0))],
   mn "vradd".toList [oneK [sD, vL] (fun g => .vradd (g.l 1) g.k (g.r 5 1) (g.r 5 0))],
   mn "vrmin".toList [oneK [sD, vL] (fun g => .vrmin (g.l 1) g.k (g.r 5 1) (g.r 5 0))],
   mn "vrmax".toList [oneK [sD, vL] (fun g => .vrmax (g.l 1) g.k (g.r 5 1) (g.r 5 0))],
   mn "vrand".toList [oneK [sD, vL] (fun g => .vrand (g.l 1) g.k (g.r 5 1) (g.r 5 0))],
   mn "vror".toList [oneK [sD, vL] (fun g => .vror (g.l 1) g.k (g.r 5 1) (g.r 5 0))],
   mn "vrxor".toList [oneK [sD, vL] (fun g => .vrxor (g.l 1) g.k (g.r 5 1) (g.r 5 0))],
   mn "vrfadd".toList [oneK [sD, vL] (fun g => .vrfadd (g.l 1) g.k (g.r 5 1) (g.r 5 0))],
   mn "vrfmax".toList [oneK [sD, vL] (fun g => .vrfmax (g.l 1) g.k (g.r 5 1) (g.r 5 0))]]

/-- Masks, narrow formats, vector memory (11 R301, R307 to R315). -/
noncomputable def masksAndMemoryForms : List Mnemonic :=
  [mn "kand".toList [oneK [kD, kD, kD] (fun g => .kand g.k (g.r 3 2) (g.r 3 1) (g.r 3 0))],
   mn "kor".toList [oneK [kD, kD, kD] (fun g => .kor g.k (g.r 3 2) (g.r 3 1) (g.r 3 0))],
   mn "kxor".toList [oneK [kD, kD, kD] (fun g => .kxor g.k (g.r 3 2) (g.r 3 1) (g.r 3 0))],
   mn "kandn".toList [oneK [kD, kD, kD] (fun g => .kandn g.k (g.r 3 2) (g.r 3 1) (g.r 3 0))],
   mn "knot".toList [oneK [kD, kD] (fun g => .knot g.k (g.r 3 1) (g.r 3 0))],
   mn "kmov".toList [oneK [kD, sD] (fun g => .kmov g.k (g.r 5 1) (g.r 3 0))],
   mn "kread".toList [oneK [sD, kD] (fun g => .kread g.k (g.r 3 1) (g.r 5 0))],
   mn "kpopc".toList [oneK [sD, kD] (fun g => .kpopc g.k (g.r 3 1) (g.r 5 0))],
   mn "kffs".toList [oneK [sD, kD] (fun g => .kffs g.k (g.r 3 1) (g.r 5 0))],
   mn "vqnt".toList [one [vD, vL] (fun g => .vqnt (g.l 1) (g.r 5 1) (g.r 5 0))],
   mn "vdqnt".toList [one [vD, vL] (fun g => .vdqnt (g.l 1) (g.r 5 1) (g.r 5 0))],
   mn "vdot".toList [one [vD, vL, vD] (fun g => .vdot (g.l 1) (g.r 5 2) (g.r 5 1) (g.r 5 0))],
   mn "vld".toList [oneK [vD, .base false] (fun g => .vld (g.z 2) g.k (g.r 5 1) (g.r 5 0))] .lanes,
   mn "vldbc".toList [oneK [vD, .base false] (fun g => .vldbc (g.z 2) g.k (g.r 5 1) (g.r 5 0))] .lanes,
   mn "vst".toList [oneK [vD, .base false] (fun g => .vst (g.z 2) g.k (g.r 5 1) (g.r 5 0))] .lanes,
   mn "vlds".toList [oneK [vD, .base false, sD] (fun g => .vlds (g.z 2) g.k (g.r 5 2) (g.r 5 1) (g.r 5 0))] .lanes,
   mn "vsts".toList [oneK [vD, .base false, sD] (fun g => .vsts (g.z 2) g.k (g.r 5 2) (g.r 5 1) (g.r 5 0))] .lanes,
   mn "vgather".toList [oneK [vD, .base false, vD] (fun g => .vgather (g.z 2) g.k (g.r 5 2) (g.r 5 1) (g.r 5 0))] .lanes,
   mn "vscatter".toList [oneK [vD, .base false, vD] (fun g => .vscatter (g.z 2) g.k (g.r 5 2) (g.r 5 1) (g.r 5 0))] .lanes,
   mn "vldb".toList [one [vD, .base false] (fun g => .vldb (g.r 5 1) (g.r 5 0))]]

noncomputable def mnemonics : List Mnemonic :=
  intRRForms ++ mulDivForms ++ immediatesForms ++ scalarFpForms ++ controlForms ++ writtenForms ++ memoryForms ++ atomicsForms ++ syncForms ++ threadsForms ++ tilesForms ++ lanesForms ++ laneFpForms ++ masksAndMemoryForms

/-- The FENCE mask keywords and scopes (12 R324). -/
def fenceMasks : List (Text × Nat) := [("ll".toList, 1), ("ls".toList, 2), ("sl".toList, 4), ("ss".toList, 8)]
def fenceScopes : List (Text × Nat) := [("core".toList, 0), ("cluster".toList, 1), ("device".toList, 2), ("system".toList, 3)]

/-- The mnemonics that hxas reads without a form of the table: none of them takes an element suffix. -/
def bareMnemonics : List Text := ["nop".toList, "li".toList, "fence".toList]

/-- A spelling that names a mnemonic (08 R211): with its variant suffix, or without it (`amop`). -/
noncomputable def isMnemonic (s : Text) : Bool :=
  let n := lower s
  bareMnemonics.contains n ||
    mnemonics.any (fun m => decide (m.name = n) || decide (m.name.takeWhile (fun c => decide (c ≠ '.')) = n))

/-! ## Statements -/

/-- A piece of an instruction statement: its length, and its bytes once the symbols are known. -/
structure Part where
  len : Nat
  gen : Ctx → Except Code (List Nat)

/-- An instruction statement: its pieces, whether a last-use mark on `s0` warns, whether it is a FMT, and whether the block is
padded after it (08 R222, R224). -/
structure Stmt where
  parts : List Part
  warn : Bool := false
  isFmt : Bool := false
  padAfter : Bool := false

/-- The bytes of legal instructions; a field whose value the encoding reserves is error E4. -/
def bytesOf (is : List Instr) : Except Code (List Nat) :=
  if is = [] then .error .e3
  else if is.all Instr.wf then .ok (is.flatMap (fun i => (encode i).map (·.toNat))) else .error .e4

/-- The n-th instruction of a form, on its own. DESIGN CHOICE: a fault of the form is reported for each of its instructions (log entry
63). -/
def partOf (len : Nat) (f : Ctx → Except Code (List Instr)) (i : Nat) : Part :=
  { len := len, gen := fun c => do
      let is ← f c
      if is = [] then .error .e3 else bytesOf ((is.drop i).take 1) }

/-- Text split at its dots. -/
def splitDots : Text → Text → List Text
  | [], cur => [cur.reverse]
  | c :: cs, cur => if c = '.' then cur.reverse :: splitDots cs [] else splitDots cs (c :: cur)

/-- The size code of a suffix (09 R248). -/
def sizeOf (s : Text) : Option Nat :=
  match s with
  | ['b'] => some 0 | ['h'] => some 1 | ['w'] => some 2 | ['d'] => some 3
  | ['b', 'u'] => some 4 | ['h', 'u'] => some 5 | ['w', 'u'] => some 6
  | _ => none

/-- An element suffix of the table of 08 R213. -/
def isElement (p : Text) : Bool := (sizeOf p).isSome || (formatOf p).isSome

/-- The size code that a mnemonic's suffixes give: an unknown one is error E2, one that is not accepted error E16. -/
def Suffix.read (x : Suffix) (ps : List Text) : Except Code Nat :=
  match ps with
  | [] => match x with
    | .plain => .ok 0
    | .wd | .dOnly => .ok 3
    | .w => .ok 2
    | .lanes | .load | .store => .error .e2
  | [p] => match sizeOf p with
    | some n =>
      let ok := match x with
        | .plain => false
        | .wd => decide (n = 2) || decide (n = 3)
        | .dOnly => decide (n = 3)
        | .w => decide (n = 2)
        | .lanes => decide (n ≤ 2)
        | .load => true
        | .store => decide (n ≤ 3)
      if ok then .ok n else .error .e16
    | none => if isElement p then .error .e16 else .error .e2
  | ps => if ps.all isElement then .error .e16 else .error .e2

/-- A mnemonic by its parts: the longest spelling that the table has, with what follows it. -/
noncomputable def findMnemonic (ps : List Text) : Option (Mnemonic × List Text) :=
  let named := fun (n : Text) => mnemonics.find? (fun m => decide (m.name = n))
  match ps with
  | a :: b :: r => match named (a ++ ['.'] ++ b) with
    | some m => some (m, r)
    | none => (named a).map (fun m => (m, b :: r))
  | [a] => (named a).map (fun m => (m, []))
  | [] => none

/-- The form that the operands fit, with the mask that follows them. -/
def pickForm (fs : List Form) (args : List Arg) : Option (Form × Nat × Bool) :=
  let fits := fun (f : Form) (as : List Arg) => decide (f.pats.length = as.length) && (f.pats.zip as).all (fun p => p.1.accepts p.2)
  match fs.find? (fun f => fits f args) with
  | some f => some (f, 0, false)
  | none =>
    match args.getLast? with
    | some (.reg .mask k bang) =>
      (fs.find? (fun f => f.masked && fits f args.dropLast)).map (fun f => (f, k, bang))
    | _ => none

/-- The operands before the mask, which may be written out as `k0` (08 R214). -/
def beforeMask (args : List Arg) : List Arg :=
  match args.getLast? with
  | some (.reg .mask _ _) => args.dropLast
  | _ => args

/-- Whether the 16-bit form is taken (08 R216; that of `vmov v0, v0` is NOP, 09 R244), and then the second source with its mark, and the destination. -/
def shortForm (m : Mnemonic) (long : Bool) (k : Nat) (args : List Arg) : Option (Bool × Nat × Nat) :=
  if long || decide (k ≠ 0) || m.short.isNone then none
  else match beforeMask args with
    | [.reg .vector d false, .reg .vector b bang] => if m.name = "vmov".toList then some (bang, b, d) else none
    | [.reg .vector d false, .reg .vector a false, .reg .vector b bang] => if a = d then some (bang, b, d) else none
    | _ => none

/-- A `!` on `s0` (08 R214, warning W1). -/
def marksZero : Arg → Bool
  | .reg .scalar 0 true => true
  | .mem 0 true _ => true
  | _ => false

/-- FENCE: mask keywords, each at most once, then a scope (12 R324); an unknown keyword is error E2 (08 R241). -/
noncomputable def fenceStmt (ops : List (List Tok)) : Except Code Stmt :=
  let words := ops.map (fun ts => match ts with
    | [.ident s] => some s
    | _ => none)
  let unknown := fun (o : Option Text) => match o with
    | some s => (wordIn fenceMasks s).isNone && (wordIn fenceScopes s).isNone
    | none => false
  if words.any unknown then .error .e2
  else match words.reverse with
  | some sc :: ms =>
    let vals := ms.map (fun o => o.bind (wordIn fenceMasks))
    match wordIn fenceScopes sc with
    | some n =>
      if vals.all Option.isSome && decide vals.Nodup then
        let mask := (vals.map (·.getD 0)).foldl (· + ·) 0
        .ok { parts := [{ len := 4, gen := fun _ => bytesOf [.fence (BitVec.ofNat 2 n) (BitVec.ofNat 4 mask)] }] }
      else .error .e3
    | none => .error .e3
  | _ => .error .e3

/-- `li` (10 R292): the instructions for a value that is known, or none where the two-instruction form is used for a value that is
not. -/
noncomputable def liStmt (now : Ctx) (d : BitVec 5) (e : Expr) : Except Code Stmt :=
  let two := fun (add : Int) (c : Ctx) => do
    let x ← eval c.look c.here e
    let y := x + BitVec.ofInt 64 add
    if -(2 ^ 33 : Nat) ≤ y.toInt && decide (y.toInt < (2 ^ 33 - 8192 : Nat)) then
      .ok [Instr.lui ((hiOf y).setWidth 20) d, Instr.addi ((loOf y).setWidth 14) false d d]
    else .error .e4
  let pair := fun (add : Int) => [partOf 4 (two add) 0, partOf 4 (two add) 1]
  match eval now.look now.here e with
  | .error .e5 => .ok { parts := pair 0 }
  | .error c => .error c
  | .ok x =>
    if -8192 ≤ x.toInt && decide (x.toInt ≤ 8191) then
      .ok { parts := [{ len := 4, gen := fun _ => bytesOf [.addi (x.setWidth 14) false 0 d] }] }
    else if -(2 ^ 33 : Nat) ≤ x.toInt && decide (x.toInt < (2 ^ 33 - 8192 : Nat)) then .ok { parts := pair 0 }
    else if decide ((2 ^ 33 - 8192 : Nat) ≤ x.toInt) && decide (x.toInt < (2 ^ 33 : Nat)) then
      let up : Part := { len := 4, gen := fun _ => bytesOf [.addi 4096 false d d] }
      .ok { parts := pair (-8192) ++ [up, up] }
    else .error .e4

/-- An instruction statement: a mnemonic with its suffixes, and operands. `now` values what is defined so far, `energy` is the class
in force (08 R233). -/
noncomputable def instrStmt (now : Ctx) (energy : Ctx → Nat) (name : Text) (ops : List (List Tok)) : Except Code Stmt :=
  let all := splitDots (lower name) []
  let long := decide (all.getLast? = some "long".toList)
  let ps := if long then all.dropLast else all
  if ps = ["nop".toList] then
    (if ops ≠ [] then .error .e3
     else if long then .ok { parts := [{ len := 4, gen := fun _ => bytesOf [.addi 0 false 0 0] }] }
     else .ok { parts := [{ len := 2, gen := fun _ => bytesOf [.nop] }] })
  else if bareMnemonics.contains (ps.headD []) && decide (1 < ps.length) then
    (Suffix.plain.read ps.tail).bind (fun _ => .error .e2)
  else if ps = ["fence".toList] then fenceStmt ops
  else if ps = ["li".toList] then
    match ops with
    | [d, e] => do
      let x ← argOf d
      let v ← exprOf e
      match x with
      | .reg .scalar n bang => if bang then .error .e9 else liStmt now (BitVec.ofNat 5 n) v
      | _ => .error .e3
    | _ => .error .e3
  else
    match findMnemonic ps with
    | none => .error .e2
    | some (m, rest) => do
      let size ← m.suffix.read rest
      let args ← ops.mapM argOf
      match pickForm m.forms args with
      | none => .error .e3
      | some (f, k, bang) =>
        if bang then .error .e9
        else
          let warn := args.any marksZero
          match m.short, shortForm m long k args with
          | some op, some (b, src, dst) =>
            let i := op b (BitVec.ofNat 5 src) (BitVec.ofNat 5 dst)
            .ok { parts := [{ len := 2, gen := fun _ => bytesOf [if i = .vmov16 false 0 0 then .nop else i] }] }
          | _, _ =>
            let is := fun (c : Ctx) => do
              let g ← takeAll c f.pats args { mask := k, size := size, energy := energy c }
              .ok (f.build g)
            let early ← takeAll { look := fun _ => .ok 0, here := 0 } (f.pats.filter (fun p => match p with
              | .reg _ _ | .source | .base _ | .format | .name _ => true
              | _ => false)) ((f.pats.zip args).filterMap (fun p => match p.1 with
              | .reg _ _ | .source | .base _ | .format | .name _ => some p.2
              | _ => none)) {}
            let n := m.name
            .ok { parts := (List.range f.count).map (partOf 4 is), warn := warn && decide (early.mask = 0),
                  isFmt := decide (n = "fmt".toList),
                  padAfter := decide (n = "call".toList) || decide (n = "callr".toList) || decide (n = "fork".toList) }

end Sys2Proof.Machine.Hxas
end

