-- ==== Sys2Proof/Machine/HxasImage.lean ====
section
/-! DEFINITION. Sources assembled into an image: sections, padding, directives, declarations, diagnostics, the image file and what a
driver makes of it (08 R212, R218 to R224, R226, R228 to R241; 13 R358 to R360; 16 R392, R406; 17 R420). -/

namespace Sys2Proof.Machine.Hxas

/-! ## What assembling keeps -/

/-- A diagnostic: file, line and code (08 R241). -/
structure Diag where
  file : Text
  line : Nat
  code : Code
  deriving DecidableEq, Repr

/-- Errors, each with the line it is found on. -/
abbrev Fails := List (Nat × Code)

/-- An error placed on a line. -/
def onLine {α : Type} (n : Nat) (e : Except Code α) : Except Fails α :=
  match e with
  | .ok a => .ok a
  | .error c => .error [(n, c)]

/-- The errors of a value. -/
def failsOf {α : Type} (e : Except Fails α) : Fails :=
  match e with
  | .ok _ => []
  | .error fs => fs

/-- An error on a line where a condition holds. -/
def failIf (c : Bool) (n : Nat) (e : Code) : Except Fails Unit := if c then .error [(n, e)] else .ok ()

/-- Bytes that a statement emits: their length, the address of its first byte, and their values once the symbols are known. -/
structure Item where
  file : Text
  line : Nat
  here : Word
  len : Nat
  gen : Ctx → Except Fails (List Nat)

/-- A section: `.text` 0, `.data` 1, `.scratch` 2, `.cluster` 3, `.stack` 4 with its stack number (08 R218). -/
structure Sec where
  kind : Nat
  stack : Nat := 0
  deriving DecidableEq, Repr

/-- A contiguous run of bytes of a section (08 R239). -/
structure Run where
  sec : Sec
  origin : Nat
  items : List Item := []

/-- A section's location counter, and whether its last run goes on there. -/
structure SecState where
  sec : Sec
  counter : Nat
  running : Bool := false

inductive BlockKind where
  | task | desc | launch
  deriving DecidableEq, Repr

/-- An open block (08 R238): its lines so far. -/
structure Block where
  kind : BlockKind
  name : Text
  here : Nat
  entries : List (Text × Nat × List Tok) := [] -- keyword, line, value
  opened : Nat := 0                     -- the line that opened it

/-- A launch of the launch table: its name, where it was declared and what `.` is there (08 R226), and its words, given what `lgrant`
is where the block does not say. -/
structure Decl where
  name : Text
  file : Text
  line : Nat
  here : Word
  words : Word → Ctx → Except Fails (List Word)

structure Asm where
  secs : List SecState := [{ sec := ⟨0, 0⟩, counter := 0x100000000 }]
  cur : Sec := ⟨0, 0⟩
  runs : List Run := []
  syms : Symbols := []
  energy : Option (Expr × Word) := none
  afterFmt : Bool := false
  block : Option Block := none
  checks : List Item := []              -- statements that emit nothing and are checked at the end
  decls : List Decl := []
  diags : List Diag := []               -- newest first
  hints : Symbols := []                 -- what an earlier pass defined, for `.stack s` with a later s (08 R226)
  adrift : Nat := 0                     -- the `.stack s` of this pass whose s has no value yet

def Asm.say (a : Asm) (file : Text) (line : Nat) (c : Code) : Asm := { a with diags := ⟨file, line, c⟩ :: a.diags }

/-- The section's counter. -/
def Asm.counter (a : Asm) : Nat := ((a.secs.find? (fun x => decide (x.sec = a.cur))).map (·.counter)).getD 0

/-- What is defined so far (08 R226). -/
def Asm.ctx (a : Asm) : Ctx := { look := a.syms.look, here := BitVec.ofNat 64 a.counter }

/-- The first address of a section's window and its size (01 R10). -/
def Sec.window (s : Sec) : Nat × Nat :=
  if s.kind ≤ 1 then (0, 2 ^ 52)
  else if s.kind = 2 then (8 * 2 ^ 60, 2 ^ 18)
  else if s.kind = 3 then (10 * 2 ^ 60, 2 ^ 24)
  else (11 * 2 ^ 60 + s.stack * 2 ^ 56, 2 ^ 26)

/-- The default origin (08 R218). -/
def Sec.origin (s : Sec) : Nat := if s.kind = 0 then 0x100000000 else if s.kind = 1 then 0x200000000 else s.window.1

/-- The last run of the list that belongs to a section, extended. -/
def extendRun (s : Sec) (it : Item) : List Run → List Run
  | [] => []
  | r :: rs =>
    if decide (r.sec = s) && !rs.any (fun x => decide (x.sec = s)) then { r with items := r.items ++ [it] } :: rs
    else r :: extendRun s it rs

/-- Bytes emitted at the counter of the current section; a counter that passes the end of its window is error E11 (08 R219). -/
def Asm.emit (a : Asm) (it : Item) : Asm :=
  if it.len = 0 then a
  else
    let at0 := a.counter
    let going := ((a.secs.find? (fun x => decide (x.sec = a.cur))).map (·.running)).getD false
    let runs := if going then extendRun a.cur it a.runs else a.runs ++ [{ sec := a.cur, origin := at0, items := [it] }]
    let secs := a.secs.map (fun x => if x.sec = a.cur then { x with counter := at0 + it.len, running := true } else x)
    let (lo, n) := a.cur.window
    let b := { a with runs := runs, secs := secs }
    if lo + n < at0 + it.len then b.say it.file it.line .e11 else b

/-- Zero bytes, which in `.text` are NOPs (08 R220), up to a multiple of `n`. -/
def Asm.padTo (a : Asm) (file : Text) (line n : Nat) : Asm :=
  let k := (n - a.counter % n) % n
  a.emit { file := file, line := line, here := BitVec.ofNat 64 a.counter, len := k, gen := fun _ => .ok (List.replicate k 0) }

/-! ## Symbols (08 R211, R226, R231)

The operand s of `.stack s` may be a symbol that is defined later (R226 excludes only origins, `.align`, `.blk` and `.tile`), and the
section of what follows depends on it. So a source in which one has no value yet is assembled again, with the symbols of the pass
before; what such a pass cannot know, it gives no value. -/

/-- Whether `.` stands in an expression. -/
def Expr.usesDot : Expr → Bool
  | .num _ => false
  | .sym _ => false
  | .dot => true
  | .un _ e => e.usesDot
  | .bin _ a b => a.usesDot || b.usesDot
  | .call _ e => e.usesDot
  | .coord x y => x.usesDot || y.usesDot

/-- A definition that depends on itself: a symbol without a value (08 R226). -/
def valueless (s : Text) : SymDef := .equ (.sym s) 0

/-- A definition as this pass knows it: an address in a stack section has no value once a `.stack` of the pass had none. -/
def Asm.settled (a : Asm) (s : Text) (d : SymDef) : SymDef :=
  if a.adrift = 0 || decide (a.cur.kind < 4) then d
  else match d with
    | .addr _ => valueless s
    | .equ e h => if e.usesDot then valueless s else .equ e h

/-- A definition of a symbol. -/
noncomputable def Asm.define (a : Asm) (file : Text) (line : Nat) (s : Text) (d : SymDef) : Asm :=
  if (regOf s).isSome || isMnemonic s || (a.syms.find s).isSome then a.say file line .e6
  else { a with syms := a.syms ++ [(s, a.settled s d)] }

/-! ## Sections (08 R218, R219) -/

/-- The section that a directive names, with the operands left. -/
def Asm.enter (a : Asm) (file : Text) (line : Nat) (s : Sec) (origin : Option (List Tok)) : Asm :=
  let known := a.secs.any (fun x => decide (x.sec = s))
  let goto := fun (o : Nat) => { a with
    cur := s
    secs := (a.secs.filter (fun x => decide (x.sec ≠ s))) ++ [{ sec := s, counter := o }] }
  match origin with
  | none => if known then { a with cur := s } else goto s.origin
  | some ts =>
    match (exprOf ts).bind (eval a.ctx.look a.ctx.here) with
    | .error c => a.say file line c
    | .ok w =>
      let (lo, n) := s.window
      if w.toNat < lo || decide (lo + n ≤ w.toNat) || (decide (s.kind = 0) && decide (w.toNat % 64 ≠ 0)) then a.say file line .e11
      else goto w.toNat

/-! ## Data (08 R228 to R230) -/

/-- A value that fits `n` bytes, signed or unsigned. -/
def fitBytes (n : Nat) (w : Word) : Except Code (List Nat) :=
  if n = 8 || (decide (-(2 ^ (8 * n - 1) : Nat) ≤ w.toInt) && decide (w.toInt < (2 ^ (8 * n) : Nat))) then
    .ok (leBytes n (w.toNat % 2 ^ (8 * n)))
  else .error .e4

/-- The code of an exact literal in a scalar format (08 R229). -/
def encodeLiteral (f : Nat) (x : Ex) : Nat := (convert (fmtOf f) x 0 false 1).1

/-- The bytes of a data directive's operands. -/
def dataBytes (n : Nat) (fmt : Option Nat) (ops : List (List Tok)) (c : Ctx) : Except Code (List Nat) := do
  let bs ← ops.mapM (fun ts => match fmt with
    | some f => (literal ts).map (fun x => leBytes n (encodeLiteral f x))
    | none => do
      let e ← exprOf ts
      let w ← eval c.look c.here e
      fitBytes n w)
  .ok bs.flatten

/-! ## Blocks -/

/-- An entry of a block. -/
def Block.get (b : Block) (k : Text) : Option (List Tok) := (b.entries.find? (fun p => decide (p.1 = k))).map (·.2.2)
/-- The line of an entry, or of the block's opening where it has none. -/
def Block.at_ (b : Block) (k : Text) : Nat := ((b.entries.find? (fun p => decide (p.1 = k))).map (·.2.1)).getD b.opened

/-- The value of an expression entry in a range, or a default. -/
def Block.num (b : Block) (c : Ctx) (k : Text) (lo hi dflt : Int) : Except Fails Int :=
  match b.get k with
  | none => .ok dflt
  | some ts => onLine (b.at_ k) (do
    let e ← exprOf ts
    c.int e lo hi)

/-- Any 64-bit value of an entry, or a default. -/
def Block.word (b : Block) (c : Ctx) (k : Text) (dflt : Word) : Except Fails Word :=
  match b.get k with
  | none => .ok dflt
  | some ts => onLine (b.at_ k) (do
    let e ← exprOf ts
    eval c.look c.here e)

/-- A transfer target (08 R223). -/
def Block.target (b : Block) (c : Ctx) (k : Text) : Except Fails Word := do
  let w ← b.word c k 0
  if w.toNat % 64 ≠ 0 then .error [(b.at_ k, .e7)] else .ok w

/-- The entries of a parenthesised list. -/
def listOf (ts : List Tok) : Except Code (List (List Tok)) :=
  match ts with
  | .punct ['('] :: r => if r.getLast? = some (.punct [')']) then .ok (operandsOf r.dropLast) else .error .e3
  | _ => .error .e3

/-- The elements of a list entry, each with its value or its error, or none where the block does not have it. -/
def Block.items (b : Block) (c : Ctx) (k : Text) : Except Fails (Option (List (Except Code Word))) :=
  match b.get k with
  | none => .ok none
  | some ts => onLine (b.at_ k) ((listOf ts).map (fun xs => some (xs.map (fun t => do
    let e ← exprOf t
    eval c.look c.here e))))

/-- The values of a list entry, or none where the block does not have it. -/
def Block.list (b : Block) (c : Ctx) (k : Text) : Except Fails (Option (List Word)) := do
  match ← b.items c k with
  | none => .ok none
  | some xs => onLine (b.at_ k) ((xs.mapM id).map some)

/-- The elements of a list entry as far as they have values; none where there is no such list. -/
def Block.partly (b : Block) (c : Ctx) (k : String) : Option (List (Option Nat)) :=
  match b.items c k.toList with
  | .ok (some xs) => some (xs.map (fun e => e.toOption.map (·.toNat)))
  | _ => none

/-- Up to six arguments, the rest 0 (08 R235, R237). DESIGN CHOICE: a longer list, and one of more than four tiles, is error E3 (log
entry 63). -/
def Block.args (b : Block) (c : Ctx) : Except Fails (List Word) := do
  let ws ← b.list c "args".toList
  let xs := ws.getD []
  if 6 < xs.length then .error [(b.at_ "args".toList, .e3)] else .ok (xs ++ List.replicate (6 - xs.length) 0)

/-- The keywords a block knows and those it requires (08 R235 to R237). -/
def BlockKind.keywords : BlockKind → List Text × List Text
  | .task => (["entry".toList, "prio".toList, "mc".toList, "args".toList, "tiles".toList], ["entry".toList])
  | .desc =>
    (["src".toList, "dst".toList, "rank".toList, "ext".toList, "sstr".toList, "dstr".toList, "xpose".toList, "sfmt".toList,
      "dfmt".toList, "rnd".toList, "sat".toList, "scale".toList, "valid".toList, "fill".toList, "pk".toList, "eng".toList,
      "cobj".toList],
     ["src".toList, "dst".toList, "rank".toList, "ext".toList, "sfmt".toList, "dfmt".toList, "cobj".toList])
  | .launch =>
    (["entry".toList, "origin".toList, "width".toList, "height".toList, "threads".toList, "xform".toList, "prio".toList,
      "clear".toList, "args".toList, "te".toList, "refill".toList, "seed".toList, "lgrant".toList, "any".toList, "ax".toList,
      "ay".toList],
     ["entry".toList, "origin".toList, "width".toList, "height".toList, "threads".toList])

/-- The read tiles of a task: entries `addr : len` (08 R235). -/
def tileEntry (c : Ctx) (ts : List Tok) : Except Code (Word × Word) := do
  let l := ts.takeWhile (fun t => decide (t ≠ .punct [':']))
  let r := ts.dropWhile (fun t => decide (t ≠ .punct [':']))
  match r with
  | _ :: r1 =>
    let ea ← exprOf l
    let el ← exprOf r1
    let a ← eval c.look c.here ea
    let n ← c.int el 1 (2 ^ 32 - 1)
    if 2 ^ 60 ≤ a.toNat then .error .e4 else .ok (a, BitVec.ofInt 64 n)
  | [] => .error .e3

/-- The read tiles of a task, at most four (08 R235). -/
def Block.tiles (b : Block) (c : Ctx) : Except Fails (List (Word × Word)) :=
  match b.get "tiles".toList with
  | none => .ok []
  | some ts => onLine (b.at_ "tiles".toList) (do
    let xs ← listOf ts
    if 4 < xs.length then .error .e3 else xs.mapM (tileEntry c))

/-- The words of a task record (16 R406; 08 R235). -/
def Block.taskWords (b : Block) (c : Ctx) : Except Fails (List Word) :=
  let entry := b.target c "entry".toList
  let prio := b.num c "prio".toList 0 7 0
  let mc := b.num c "mc".toList 1 (2 ^ 32 - 1) 1
  let args := b.args c
  let tiles := b.tiles c
  let fs := failsOf entry ++ failsOf prio ++ failsOf mc ++ failsOf args ++ failsOf tiles
  match fs, entry, prio, mc, args, tiles with
  | [], .ok entry, .ok prio, .ok mc, .ok args, .ok ts =>
    let t := fun (i : Nat) => ts.getD i (0, 0)
    .ok ([entry, BitVec.ofInt 64 mc] ++ args ++
      [(t 0).1, (t 0).2 + BitVec.ofInt 64 (prio * 2 ^ 32), (t 1).1, (t 1).2, (t 2).1, (t 2).2, (t 3).1, (t 3).2])
  | fs, _, _, _, _, _ => .error fs

/-- A format entry (08 R213, R236); 0 where there is none, which is an error of the block. -/
def Block.format (b : Block) (k : Text) : Except Fails Nat :=
  onLine (b.at_ k) (match b.get k with
    | none => .ok 0
    | some [.directive s] => match formatOf s with
      | some 5 => .error .e16
      | some f => .ok f
      | none => .error (if isElement (lower s) then .e16 else .e2)
    | some _ => .error .e3)

/-- Bytes of an element of a scalar format, or of a block. -/
def unitSize (f : Nat) : Nat := if fmtBlock f then blockBytes f else fmtBytes f

/-- The strides of a dense array (08 R236): dimension 0's is its element size, each further one the size of what lies below. -/
def denseStrides (f : Nat) (ext : List Nat) : List Nat :=
  let row := if fmtBlock f then ext.headD 0 / blockElems f * blockBytes f else ext.headD 0 * fmtBytes f
  unitSize f :: (List.range (ext.length - 1)).map (fun i => row * (((ext.drop 1).take i).foldl (· * ·) 1))

/-- A stride's 20-bit code (13 R359); `e` counts the exponents still to try. -/
def strideCode (s : Nat) : Nat → Except Code Nat
  | 0 => .error .e4
  | n + 1 =>
    let e := 15 - n
    if s % 2 ^ e = 0 && decide (s / 2 ^ e < 65536) then .ok (s / 2 ^ e * 16 + e) else strideCode s n

/-- The scale code: a power of two from 2^-127 to 2^127 (13 R359). -/
def scaleCode (x : Ex) : Except Code Nat :=
  match (List.range 255).find? (fun (k : Nat) => x.eq (.fin false 1 ((k : Int) - 127) false)) with
  | some k => .ok k
  | none => .error .e4

/-- The fill field (13 R360). -/
def fillCode (f : Nat) (x : Ex) : Except Code Nat :=
  if fmtBlock f then (if x.isFinite then .ok (qElem f x 127 0 1).1 else .error .e4)
  else
    let v := encodeLiteral f x
    if f = 0 then (if v % 2 ^ 16 = 0 then .ok (v / 2 ^ 16) else .error .e4) else .ok v

/-- Fields of a list, each of `w` bits, the first lowest. -/
def packFields (w : Nat) : List Nat → Nat
  | [] => 0
  | x :: xs => x + 2 ^ w * packFields w xs

/-- A rounding-mode entry. -/
def Block.rounding (b : Block) : Except Fails Nat :=
  onLine (b.at_ "rnd".toList) (match b.get "rnd".toList with
    | none => .ok 0
    | some [.ident s] => match roundingOf s with
      | some r => .ok r
      | none => .error .e2
    | some _ => .error .e3)

/-- An entry that is a literal, through what makes its code. -/
def Block.code (b : Block) (k : Text) (dflt : Nat) (f : Ex → Except Code Nat) : Except Fails Nat :=
  match b.get k with
  | none => .ok dflt
  | some ts => onLine (b.at_ k) (do
    let x ← literal ts
    f x)

/-- The entries of a copy descriptor, read: what the doublewords are made of. -/
structure DescEntries where
  src : Word
  dst : Word
  rank : Nat
  pk : Nat
  sf : Nat
  df : Nat
  ext : List Nat
  val : List Nat
  sstr : List Nat
  dstr : List Nat
  xa : Nat
  xb : Nat
  rnd : Nat
  sat : Nat
  scl : Nat
  fill : Nat
  eng : Nat
  cobj : Word

/-- The checks that relate the entries, each on the line of its entry: list lengths, `valid` against `ext`, `xpose` and the strides
of dimension 0 (08 R236; 17 R420), and the ranges of the fields (13 R358, R359). A check is made where the entries it needs are
there and `known`, and of a list where those of its elements are known, so that a fault of one hides none of another (08 R241). -/
def Block.descChecks (b : Block) (c : Ctx) (known : String → Bool) (d : DescEntries) : Fails :=
  let there := fun (k : String) => (b.get k.toList).isSome && known k
  let on := fun (k : String) (needs : List String) (c : Bool) (e : Code) =>
    failsOf (failIf (c && needs.all (fun x => if x = "pk" then known x else there x)) (b.at_ k.toList) e)
  let unit := if d.pk = 0 then 1 else 512
  let items := fun (k : String) => (b.partly c k).getD []
  let long := fun (k : String) => match b.partly c k with
    | some l => decide (l.length ≠ d.rank)
    | none => false
  let some_ := fun (l : List (Option Nat)) (p : Nat → Bool) => l.any (fun x => (x.map p).getD false)
  let pairs := fun (p : Nat → Nat → Bool) (l : List (Option Nat × Option Nat)) => l.any (fun x => match x with
    | (some a, some b) => p a b
    | _ => false)
  let bad := fun (l : List (Option Nat)) => some_ l (fun x => decide (x % unit ≠ 0) || decide (x / unit = 0) || decide (4096 < x / unit))
  let val := items "valid"
  let ext := items "ext"
  let xp := items "xpose"
  let wide := !xp.isEmpty && (decide (xp.length ≠ 2) || some_ xp (fun x => decide (5 < x)))
  let unitOf := fun (k : String) (u : Nat) => some_ ((items k).take 1) (fun x => decide (x ≠ u))
  on "ext" ["rank"] (long "ext") .e13 ++ on "valid" ["rank"] (long "valid") .e13 ++ on "sstr" ["rank"] (long "sstr") .e13 ++
  on "dstr" ["rank"] (long "dstr") .e13 ++
  on "xpose" [] wide .e13 ++
  on "xpose" ["rank"] (!wide && some_ xp (fun x => decide (d.rank ≤ x))) .e13 ++
  on "valid" [] (pairs (fun v e => decide (e < v)) (val.zip ext)) .e13 ++
  on "sstr" ["sfmt"] (unitOf "sstr" (unitSize d.sf)) .e13 ++
  on "dstr" ["dfmt"] (unitOf "dstr" (unitSize d.df)) .e13 ++
  on "ext" ["pk"] (bad ext) .e4 ++
  on "valid" ["pk"] (!ext.isEmpty && !bad ext && (bad val || pairs (fun v e => decide (v < e)) ((val.zip ext).drop 3))) .e4 ++
  on "cobj" [] (there "cobj" && (decide (d.cobj.toNat / 2 ^ 18 ≠ 2 ^ 45) || decide (d.cobj.toNat % 16 ≠ 0))) .e4

/-- The eight doublewords (13 R358), once the strides have their codes. -/
def DescEntries.words (x : DescEntries) (ss ds : List Nat) : List Word :=
  let unit := if x.pk = 0 then 1 else 512
  let e := fun (i : Nat) => x.ext.getD i unit / unit - 1
  let v := fun (i : Nat) => x.val.getD i unit / unit - 1
  let s := fun (i : Nat) => ss.getD (i - 1) 0
  let d := fun (i : Nat) => ds.getD (i - 1) 0
  [x.src, x.dst] ++ ([
    packFields 12 [e 0, e 1, e 2, e 3, e 4] + x.rank * 2 ^ 60,
    e 5 + packFields 12 [v 0, v 1, v 2] * 2 ^ 12 + x.sf * 2 ^ 48 + x.df * 2 ^ 53 + x.rnd * 2 ^ 58 + x.sat * 2 ^ 61 + x.pk * 2 ^ 62,
    packFields 20 [s 1, s 2, s 3] + x.xa * 2 ^ 60,
    packFields 20 [s 4, s 5, d 1] + x.xb * 2 ^ 60,
    packFields 20 [d 2, d 3, d 4],
    d 5 + x.fill * 2 ^ 20 + x.scl * 2 ^ 36 + x.eng * 2 ^ 44 + x.cobj.toNat % 2 ^ 18 / 16 * 2 ^ 50]).map (BitVec.ofNat 64)

/-- A value, or another where it has errors. -/
def orElse {α : Type} (e : Except Fails α) (dflt : α) : α :=
  match e with
  | .ok a => a
  | .error _ => dflt

/-- The words of a copy descriptor (13 R358 to R360; 08 R236; 17 R420). -/
def Block.descWords (b : Block) (c : Ctx) : Except Fails (List Word) :=
  let src := b.word c "src".toList 0
  let dst := b.word c "dst".toList 0
  let rank := b.num c "rank".toList 1 6 1
  let pk := b.num c "pk".toList 0 2 0
  let sf := b.format "sfmt".toList
  let df := b.format "dfmt".toList
  let ext := b.list c "ext".toList
  let val := b.list c "valid".toList
  let sstr := b.list c "sstr".toList
  let dstr := b.list c "dstr".toList
  let xp := b.list c "xpose".toList
  let rnd := b.rounding
  let sat := b.num c "sat".toList 0 1 0
  let scl := b.code "scale".toList 127 scaleCode
  let fill := match df with
    | .ok f => b.code "fill".toList 0 (fillCode f)
    | .error _ => .ok 0
  let eng := b.num c "eng".toList 0 48 0
  let cobj := b.word c "cobj".toList 0
  let read : List (String × Fails) := [("src", failsOf src), ("dst", failsOf dst), ("rank", failsOf rank), ("pk", failsOf pk),
    ("sfmt", failsOf sf), ("dfmt", failsOf df), ("ext", failsOf ext), ("valid", failsOf val), ("sstr", failsOf sstr),
    ("dstr", failsOf dstr), ("xpose", failsOf xp), ("rnd", failsOf rnd), ("sat", failsOf sat), ("scale", failsOf scl),
    ("fill", failsOf fill), ("eng", failsOf eng), ("cobj", failsOf cobj)]
  let known := fun (k : String) => read.all (fun p => decide (p.1 ≠ k) || decide (p.2 = []))
  let n := (orElse rank 1).toNat
  let f := orElse sf 0
  let g := orElse df 0
  let nats := fun (l : List Word) => l.map (·.toNat)
  let ex := nats ((orElse ext none).getD [])
  let xs := nats ((orElse xp none).getD [0, 0])
  let xa := xs.getD 0 0
  let xb := xs.getD 1 0
  let dext := (List.range n).map (fun i => ex.getD (if i = xa then xb else if i = xb then xa else i) 1)
  let d : DescEntries := {
    src := orElse src 0, dst := orElse dst 0, rank := n, pk := (orElse pk 0).toNat, sf := f, df := g, ext := ex
    val := ((orElse val none).map nats).getD ex
    sstr := ((orElse sstr none).map nats).getD (denseStrides f ex)
    dstr := ((orElse dstr none).map nats).getD (denseStrides g dext)
    xa := xa, xb := if xs.length = 2 then xb else 6
    rnd := orElse rnd 0, sat := (orElse sat 0).toNat, scl := orElse scl 0, fill := orElse fill 0, eng := (orElse eng 0).toNat
    cobj := orElse cobj 0 }
  let ss := onLine (b.at_ "sstr".toList) ((d.sstr.drop 1).mapM (fun s => strideCode s 16))
  let ds := onLine (b.at_ "dstr".toList) ((d.dstr.drop 1).mapM (fun s => strideCode s 16))
  match read.flatMap (·.2) ++ b.descChecks c known d, ss, ds with
  | [], .ok ss, .ok ds => .ok (d.words ss ds)
  | fs, ss, ds => .error (fs ++ failsOf ss ++ failsOf ds)

/-- The words of a launch record (08 R237, R239; 16 R392). `grant` is `lgrant` where the block gives none. DW14 is filled with the
offset of the name when the image is written. -/
def Block.launchWords (b : Block) (grant : Word) (c : Ctx) : Except Fails (List Word) :=
  let entry := b.target c "entry".toList
  let org := b.word c "origin".toList 0
  let w := b.num c "width".toList 1 48 1
  let h := b.num c "height".toList 1 56 1
  let inside := match org, w, h with
    | .ok o, .ok w, .ok h =>
      let x := o.toNat % 64
      let y := o.toNat / 64
      let off := decide (47 < x) || decide (55 < y)
      failsOf (failIf off (b.at_ "origin".toList) .e4) ++
        failsOf (failIf (!off && decide (48 < x + w.toNat)) (b.at_ "width".toList) .e4) ++
        failsOf (failIf (!off && decide (56 < y + h.toNat)) (b.at_ "height".toList) .e4)
    | _, _, _ => []
  let nthr := b.num c "threads".toList 1 14 1
  let xform := b.target c "xform".toList
  let prio := b.num c "prio".toList 0 7 0
  let clear := b.num c "clear".toList 0 1 0
  let args := b.args c
  let te := b.num c "te".toList 0 1 0
  let refill := b.num c "refill".toList 0 (2 ^ 24 - 1) 0
  let seed := b.num c "seed".toList 0 (2 ^ 32 - 1) 0
  let lgrant := b.word c "lgrant".toList grant
  let any_ := b.num c "any".toList 0 1 0
  let ax := b.num c "ax".toList 0 5 0
  let ay := b.num c "ay".toList 0 5 0
  let fs := failsOf entry ++ failsOf org ++ failsOf w ++ failsOf h ++ inside ++ failsOf nthr ++ failsOf xform ++ failsOf prio ++
    failsOf clear ++ failsOf args ++ failsOf te ++ failsOf refill ++ failsOf seed ++ failsOf lgrant ++ failsOf any_ ++ failsOf ax ++
    failsOf ay
  if fs ≠ [] then .error fs
  else do
    let dw0 := 2 ^ 60 + (← clear).toNat * 2 ^ 58 + (← any_).toNat * 2 ^ 57 + (← te).toNat * 2 ^ 56 + (← prio).toNat * 2 ^ 53 +
      (← nthr).toNat * 2 ^ 49 + (← ax).toNat * 2 ^ 46 + (← ay).toNat * 2 ^ 43 + (← org).toNat * 2 ^ 31 + ((← w).toNat - 1) * 2 ^ 25 +
      ((← h).toNat - 1) * 2 ^ 19
    let dw4 := (← refill).toNat * 2 ^ 40 + (← seed).toNat
    .ok ([BitVec.ofNat 64 dw0, ← entry, ← xform, ← lgrant, BitVec.ofNat 64 dw4, 0, 0, 0] ++ (← args) ++ [0, 0])

def wordBytes (ws : List Word) : List Nat := ws.flatMap (fun w => leBytes 8 w.toNat)

/-- A block is closed by `.done` (08 R238). A missing keyword is an error, and the entries there are checked all the same (08 R241). -/
def Asm.closeBlock (a : Asm) (file : Text) (line : Nat) (b : Block) : Asm :=
  let a0 := { a with block := none }
  let a1 := if b.kind.keywords.2.any (fun k => (b.get k).isNone) then a0.say file line .e13 else a0
  let here := BitVec.ofNat 64 b.here
  match b.kind with
  | .task => a1.emit { file := file, line := line, here := here, len := 128, gen := fun c => (b.taskWords c).map wordBytes }
  | .desc => a1.emit { file := file, line := line, here := here, len := 64, gen := fun c => (b.descWords c).map wordBytes }
  | .launch => { a1 with decls := a1.decls ++ [{ name := b.name, file := file, line := line, here := here, words := b.launchWords }] }

/-- A line inside a block, after its label (08 R238). -/
def Asm.blockEntry (a : Asm) (file : Text) (line : Nat) (b : Block) (ts : List Tok) : Asm :=
  match ts with
  | [] => a
  | [.directive s] => if lower s = "done".toList then a.closeBlock file line b else a.say file line .e13
  | .ident k :: .punct ['='] :: v =>
    let key := lower k
    if !b.kind.keywords.1.contains key || (b.get key).isSome then a.say file line .e13
    else { a with block := some { b with entries := b.entries ++ [(key, line, v)] } }
  | _ => a.say file line .e13

/-- A line inside a block; a label there is error E13 (08 R212). -/
def Asm.blockLine (a : Asm) (file : Text) (line : Nat) (b : Block) (ts : List Tok) : Asm :=
  match ts with
  | .ident _ :: .punct [':'] :: r => (a.say file line .e13).blockEntry file line b r
  | .ident _ :: .punct [':', ':'] :: r => (a.say file line .e13).blockEntry file line b r
  | ts => a.blockEntry file line b ts

/-- A block is opened: the counter is aligned and its name defined. -/
noncomputable def Asm.openBlock (a : Asm) (file : Text) (line : Nat) (kind : BlockKind) (ops : List (List Tok)) : Asm :=
  match ops with
  | [[.ident n]] =>
    let a1 := match kind with
      | .task => a.padTo file line 128
      | .desc => a.padTo file line 64
      | .launch => a
    let a2 := if kind = .launch then a1 else a1.define file line n (.addr (BitVec.ofNat 64 a1.counter))
    { a2 with block := some { kind := kind, name := n, here := a2.counter, opened := line } }
  | _ => a.say file line .e3

/-! ## Directives -/

/-- What a section accepts (08 R218, R228, R230, R234 to R236). DEDUCED (log entry 63): `.text`, whose row lists `.half`, `.word` and
`.dword`, accepts their format forms (R229) too. -/
def accepts (s : Sec) (d : Text) : Bool :=
  if d = "byte".toList then decide (s.kind ≠ 0)
  else if d = "tile".toList || d = "desc".toList then decide (s.kind = 2)
  else if d = "task".toList then decide (s.kind ≠ 0)
  else true

/-- The width of a data directive. -/
def dataWidth (d : Text) : Option Nat :=
  if d = "byte".toList then some 1 else if d = "half".toList then some 2 else if d = "word".toList then some 4
  else if d = "dword".toList then some 8 else none

/-- The format suffix of a data directive (08 R229). -/
def dataFormat (width : Nat) (ps : List Text) : Except Code (Option Nat) :=
  match ps with
  | [] => .ok none
  | [p] => match formatOf p with
    | some f => if fmtScalar f && decide (fmtBytes f = width) then .ok (some f) else .error .e16
    | none => .error (if isElement p then .e16 else .e2)
  | ps => .error (if ps.all isElement then .e16 else .e2)

/-- A value that must be known at once (08 R226). -/
def Asm.now (a : Asm) (ts : List Tok) : Except Code Word := do
  let e ← exprOf ts
  eval a.ctx.look a.ctx.here e

/-- The stack number of `.stack s`: a symbol defined so far, or one that an earlier pass defined (08 R226). -/
def Asm.stackNumber (a : Asm) (ts : List Tok) : Except Code Word :=
  match a.now ts with
  | .error .e5 => do
    let e ← exprOf ts
    eval (a.syms ++ a.hints).look a.ctx.here e
  | r => r

/-- `.stack s`: an s that has no value, or in the end another than the one taken, is error E5. -/
def Asm.enterStack (a : Asm) (file : Text) (line : Nat) (n : List Tok) (origin : Option (List Tok)) : Asm :=
  let here := a.ctx.here
  match a.stackNumber n with
  | .ok w =>
    let same := fun (c : Ctx) => onLine line (do
      let e ← exprOf n
      let v ← eval c.look here e
      if v = w then .ok [] else .error .e5)
    if 11 < w.toNat then a.say file line .e4
    else { a.enter file line ⟨4, w.toNat⟩ origin with
      checks := a.checks ++ [{ file := file, line := line, here := here, len := 0, gen := same }] }
  | .error .e5 => { (({ a with adrift := a.adrift + 1 }).say file line .e5).enter file line ⟨5, a.adrift⟩ none with adrift := a.adrift + 1 }
  | .error c => a.say file line c

/-- Up to one origin operand. -/
def originOf (ops : List (List Tok)) : Option (Option (List Tok)) :=
  match ops with
  | [] => some none
  | [ts] => some (some ts)
  | _ => none

/-- A directive that opens no file (08 R218, R228 to R237). DESIGN CHOICE: the bytes that `.tile` reserves are zeros (log entry
63). -/
noncomputable def Asm.directive (a : Asm) (file : Text) (line : Nat) (name : Text) (ops : List (List Tok)) : Asm :=
  let parts := splitDots (lower name) []
  let d := parts.headD []
  let no := fun (c : Code) => a.say file line c
  let here := BitVec.ofNat 64 a.counter
  let section_ := fun (k : Nat) => match originOf ops with
    | some o => a.enter file line ⟨k, 0⟩ o
    | none => no .e3
  match dataWidth d with
  | some n =>
    match dataFormat n parts.tail with
    | .error c => no c
    | .ok f =>
      if !accepts a.cur d then no .e11
      else if a.counter % n ≠ 0 then no .e10
      else if ops = [] then no .e3
      else a.emit { file := file, line := line, here := here, len := n * ops.length, gen := fun c => onLine line (dataBytes n f ops c) }
  | none =>
    if parts.tail ≠ [] then no .e2
    else if d = "text".toList then section_ 0
    else if d = "data".toList then section_ 1
    else if d = "scratch".toList then section_ 2
    else if d = "cluster".toList then section_ 3
    else if d = "stack".toList then
      match ops with
      | n :: rest =>
        match originOf rest with
        | some o => a.enterStack file line n o
        | none => no .e3
      | [] => no .e3
    else if d = "blk".toList then
      let value := fun (c : Ctx) => match ops with
        | [_, v] => do
          let e ← exprOf v
          eval c.look c.here e
        | _ => .ok 0
      match ops.length = 1 || ops.length = 2, (ops.head?).map a.now with
      | true, some (.ok w) =>
        if 2 ^ 24 < w.toNat then no .e4
        else if a.cur.kind = 0 && decide (w.toNat % 2 ≠ 0) then no .e11
        else
          let inText := decide (a.cur.kind = 0)
          let gen := fun (c : Ctx) => onLine line (do
            let x ← value c
            if inText && decide (x ≠ 0) then .error .e11
            else do
              let b ← fitBytes 1 x
              .ok (List.replicate w.toNat (b.headD 0)))
          { a.emit { file := file, line := line, here := here, len := w.toNat, gen := gen } with
            checks := a.checks ++ [{ file := file, line := line, here := here, len := 0,
                                     gen := fun c => if w = 0 then gen c else .ok [] }] }
      | true, some (.error c) => no c
      | _, _ => no .e3
    else if d = "align".toList then
      match ops with
      | [n] => match a.now n with
        | .ok w => if (List.range 12).any (fun i => decide (w.toNat = 2 ^ (i + 1))) then a.padTo file line w.toNat else no .e4
        | .error c => no c
      | _ => no .e3
    else if d = "equ".toList then
      match ops with
      | [[.ident n], e] => match exprOf e with
        | .ok x =>
          { a.define file line n (.equ x here) with
            checks := a.checks ++ [{ file := file, line := line, here := here, len := 0,
                                     gen := fun c => onLine line ((eval c.look here x).map (fun _ => [])) }] }
        | .error c => no c
      | _ => no .e3
    else if d = "energy".toList then
      match ops with
      | [e] => match exprOf e with
        | .ok x =>
          { a with
            energy := some (x, here)
            checks := a.checks ++ [{ file := file, line := line, here := here, len := 0,
                                     gen := fun c => onLine line (({ c with here := here }.int x 0 3).map (fun _ => [])) }] }
        | .error c => no c
      | _ => no .e3
    else if d = "tile".toList then
      if !accepts a.cur d then no .e11
      else match ops with
        | [[.ident n], r, k, [.directive f]] =>
          let a1 := a.padTo file line 64
          match a1.now r, a1.now k, formatOf f with
          | .ok rows, .ok cols, some fc =>
            let size := if fmtBlock fc then rows.toNat * (cols.toNat / blockElems fc) * blockBytes fc
              else rows.toNat * cols.toNat * fmtBytes fc
            if fc = 5 then no .e16
            else if rows = 0 || decide (4096 < rows.toNat) || decide (cols = 0) || decide (4096 < cols.toNat) ||
                (fmtBlock fc && decide (cols.toNat % blockElems fc ≠ 0)) then no .e4
            else
              let at0 := BitVec.ofNat 64 a1.counter
              let a2 := (a1.define file line n (.addr at0)).define file line (n ++ ".bytes".toList) (.addr (BitVec.ofNat 64 size))
              a2.emit { file := file, line := line, here := at0, len := size, gen := fun _ => .ok (List.replicate size 0) }
          | .error c, _, _ => no c
          | _, .error c, _ => no c
          | _, _, none => no (if isElement (lower f) then .e16 else .e2)
        | _ => no .e3
    else if d = "task".toList then (if accepts a.cur d then a.openBlock file line .task ops else no .e11)
    else if d = "desc".toList then (if accepts a.cur d then a.openBlock file line .desc ops else no .e11)
    else if d = "launch".toList then a.openBlock file line .launch ops
    else if d = "done".toList then no .e13
    else no .e2

/-! ## Instructions in `.text` (08 R220 to R224) -/

/-- The pieces of a statement, each 32-bit one kept inside a fetch block (08 R221). -/
def Asm.emitParts (a : Asm) (file : Text) (line : Nat) (here : Word) : List Part → Asm
  | [] => a
  | p :: ps =>
    let a1 := if p.len = 4 && decide (a.counter % 64 = 62) then a.padTo file line 64 else a
    (a1.emit { file := file, line := line, here := here, len := p.len, gen := fun c => onLine line (p.gen c) }).emitParts file line here ps

/-- An instruction statement. -/
noncomputable def Asm.instruction (a : Asm) (file : Text) (line : Nat) (labelled : Bool) (name : Text) (ops : List (List Tok)) : Asm :=
  let energy := fun (c : Ctx) => match a.energy with
    | none => 3
    | some (e, here) => match eval c.look here e with
      | .ok w => if w.toNat ≤ 3 then w.toNat else 3
      | .error _ => 3
  let done := { a with afterFmt := false }
  if a.cur.kind ≠ 0 then done.say file line .e11
  else
    let first := if a.counter % 64 = 62 then a.counter + 2 else a.counter
    match instrStmt { look := a.syms.look, here := BitVec.ofNat 64 first } energy name ops with
    | .error c => done.say file line c
    | .ok s =>
      let wide := decide ((s.parts.headD ⟨2, fun _ => .ok []⟩).len = 4)
      let pads := wide && decide (a.counter % 64 = 62)
      let at0 := if pads then a.counter + 2 else a.counter
      let a0 := if a.afterFmt && (labelled || pads || decide (1 < s.parts.length)) then done.say file line .e12 else done
      let a1 := a0.emitParts file line (BitVec.ofNat 64 at0) s.parts
      let a2 := if s.padAfter then a1.padTo file line 64 else a1
      let a3 := if s.warn then a2.say file line .w1 else a2
      { a3 with afterFmt := s.isFmt }

/-! ## Lines and files (08 R212, R232) -/

/-- A label at the start of a line (08 R212, R220): whether it has two colons. DEDUCED (log entry 63): blanks may stand before the
colon, since R210 ignores them between tokens, though R212 says "followed directly". -/
def labelOf (ts : List Tok) : Option (Text × Bool × List Tok) :=
  match ts with
  | .ident s :: .punct [':'] :: r => some (s, false, r)
  | .ident s :: .punct [':', ':'] :: r => some (s, true, r)
  | _ => none

/-- One line. `inc` assembles an included file. -/
noncomputable def Asm.line (inc : Text → Asm → Asm) (a : Asm) (file : Text) (n : Nat) (text : Text) : Asm :=
  match lineTokens text with
  | .error c => a.say file n c
  | .ok ts =>
    match a.block with
    | some b => a.blockLine file n b ts
    | none =>
      let (a1, labelled, rest) := match labelOf ts with
        | some (s, two, r) =>
          let p := if two then a.padTo file n 64 else a
          let moved := decide (p.counter ≠ a.counter)
          let q := p.define file n s (.addr (BitVec.ofNat 64 p.counter))
          let q1 := if a.afterFmt && (moved || decide (r = [])) then { q.say file n .e12 with afterFmt := false } else q
          (q1, true, r)
        | none => (a, false, ts)
      match rest with
      | [] => a1
      | .directive d :: ops =>
        let a2 := if a1.afterFmt then { a1.say file n .e12 with afterFmt := false } else a1
        if lower d = "include".toList then
          match ops with
          | [.str p] => inc p a2
          | _ => a2.say file n .e3
        else a2.directive file n d (operandsOf ops)
      | .ident s :: ops => a1.instruction file n labelled s (operandsOf ops)
      | _ => a1.say file n .e3

noncomputable def Asm.lines (inc : Nat → Text → Asm → Asm) (file : Text) : List Text → Nat → Asm → Asm
  | [], _, a => a
  | l :: ls, n, a => Asm.lines inc file ls (n + 1) (a.line (inc n) file n l)

/-- The files there are. -/
abbrev Files := List (Text × Text)

/-- The directory of a path, with its slash. -/
def dirOf (p : Text) : Text := (p.reverse.dropWhile (fun c => decide (c ≠ '/'))).reverse

/-- Where an included path is found: beside the including file, then in the directories of `-I` (08 R232). -/
def findFile (fs : Files) (dirs : List Text) (within path : Text) : Option (Text × Text) :=
  let try_ := fun (p : Text) => fs.find? (fun f => decide (f.1 = p))
  if path.head? = some '/' then try_ path
  else (try_ (dirOf within ++ path)).or (dirs.findSome? (fun d => try_ (d ++ ['/'] ++ path)))

/-- A file and what it includes; `fuel` bounds the depth, `open_` are the files being assembled (08 R232, R238). -/
noncomputable def asmFile (fs : Files) (dirs : List Text) : Nat → List Text → Text × Text → Asm → Asm
  | 0, _, _, a => a
  | fuel + 1, open_, (name, text), a =>
    let inc := fun (n : Nat) (p : Text) (a : Asm) =>
      match findFile fs dirs name p with
      | some f => if fuel = 0 || (name :: open_).contains f.1 then a.say name n .e14 else asmFile fs dirs fuel (name :: open_) f a
      | none => a.say name n .e14
    let ls := linesOfText text []
    let b := Asm.lines inc name ls 1 a
    match b.block with
    | some _ => { b.say name ls.length .e13 with block := none }
    | none => b

/-! ## The image (08 R239) -/

/-- A run with its bytes. -/
structure Segment where
  sec : Sec
  origin : Nat
  bytes : List Nat
  deriving DecidableEq, Repr

/-- The contents of the sections and the launches declared. -/
structure Image where
  segments : List Segment
  launches : List (Text × List Word)
  deriving DecidableEq, Repr

/-- The bytes of a statement, or its diagnostic. -/
def Item.finish (look : Text → Except Code Word) (it : Item) : Except Fails (List Nat) := it.gen { look := look, here := it.here }

/-- `lgrant` where a launch gives none: CMEM for a `.cluster` section, and 64 MiB of each stack that has a section (08 R237). -/
def defaultGrant (rs : List Run) : Word :=
  let given := (List.range 12).filter (fun s => rs.any (fun r => decide (r.sec = ⟨4, s⟩)))
  let cmem := rs.any (fun r => decide (r.sec.kind = 3))
  BitVec.ofNat 64 ((given.map (fun s => 2 ^ (52 + s))).foldl (· + ·) 0 + (if given = [] then 0 else 64 * 2 ^ 39) +
    (if cmem then 2 ^ 38 else 0))

/-- The diagnostics of a value. -/
def diagsOf {α : Type} (file : Text) (e : Except Fails α) : List Diag := (failsOf e).map (fun f => ⟨file, f.1, f.2⟩)

/-- Passes over a source as long as each gives a value to a `.stack s` that had none (08 R226); `fuel` counts those without one. -/
noncomputable def passes (fs : Files) (dirs : List Text) (main : Text × Text) : Nat → Asm → Asm
  | 0, a => a
  | fuel + 1, a =>
    if a.adrift = 0 then a
    else
      let b := asmFile fs dirs 17 [] main { hints := a.syms }
      if b.adrift < a.adrift then passes fs dirs main fuel b else b

/-- What assembling a source gives: its diagnostics, and the image where none of them is an error (08 R241). `main` is the source,
`dirs` are the directories of `-I`. -/
noncomputable def assemble (fs : Files) (dirs : List Text) (main : Text × Text) : List Diag × Option Image :=
  let a0 := asmFile fs dirs 17 [] main {}
  let a := passes fs dirs main a0.adrift a0
  let look := a.syms.look
  let grant := defaultGrant a.runs
  let ctx := fun (d : Decl) => ({ look := look, here := d.here } : Ctx)
  let late := (a.runs.flatMap (·.items) ++ a.checks).flatMap (fun it => diagsOf it.file (it.finish look)) ++
    a.decls.flatMap (fun d => diagsOf d.file (d.words grant (ctx d)))
  let diags := a.diags.reverse ++ late
  let ok := fun (e : Except Fails (List Nat)) => match e with
    | .ok bs => bs
    | .error _ => []
  if diags.any (fun d => decide (d.code ≠ .w1)) then (diags, none)
  else (diags, some {
    segments := a.runs.map (fun r => { sec := r.sec, origin := r.origin, bytes := r.items.flatMap (fun it => ok (it.finish look)) })
    launches := a.decls.map (fun d => (d.name, match d.words grant (ctx d) with
      | .ok ws => ws
      | .error _ => [])) })

/-- The exit status (08 R241). -/
noncomputable def exitStatus (fs : Files) (dirs : List Text) (main : Text × Text) : Nat :=
  if (assemble fs dirs main).2.isSome then 0 else 1

/-- Bytes up to a multiple of 8. -/
def pad8 (bs : List Nat) : List Nat := bs ++ List.replicate ((8 - bs.length % 8) % 8) 0

/-- Where each of several padded pieces starts. -/
def offsets : Nat → List (List Nat) → List Nat
  | _, [] => []
  | n, p :: ps => n :: offsets (n + (pad8 p).length) ps

/-- The string table: each launch's name with a zero byte, and where each starts. -/
def stringTable : List Text → Nat → List Nat × List Nat
  | [], _ => ([], [])
  | n :: ns, o =>
    let bs := n.map Char.toNat ++ [0]
    let (rest, os) := stringTable ns (o + bs.length)
    (bs ++ rest, o :: os)

/-- The image file (08 R239). The order of its tables is the model's choice (log entry 62). -/
def Image.file (im : Image) : List Nat :=
  let ns := im.segments.length
  let nl := im.launches.length
  let secAt := 64
  let launchAt := secAt + 32 * ns
  let strAt := launchAt + 128 * nl
  let (strs, names) := stringTable (im.launches.map (·.1)) 0
  let dataAt := strAt + (pad8 strs).length
  let offs := offsets dataAt (im.segments.map (·.bytes))
  let words := fun (ws : List Nat) => ws.flatMap (leBytes 8)
  words [0x4B485849 + 2 ^ 32, ns + nl * 2 ^ 16, secAt, launchAt, strAt, strs.length, 0, 0] ++
  (List.range ns).flatMap (fun i =>
    let s := im.segments.getD i ⟨⟨0, 0⟩, 0, []⟩
    words [s.origin, s.bytes.length, offs.getD i 0, s.sec.kind + (if s.sec.kind = 4 then s.sec.stack * 2 ^ 8 else 0)]) ++
  (List.range nl).flatMap (fun i => words (((im.launches.getD i ([], [])).2.map (·.toNat)).set 14 (names.getD i 0))) ++
  pad8 strs ++ im.segments.flatMap (fun s => pad8 s.bytes)

/-! ## What a driver makes of an image (08 R240) -/

/-- The runs mapped at their origins, with whether they are code; the others staged, with where each is staged. -/
def Image.mapped (im : Image) : List (Bool × Segment) :=
  (im.segments.filter (fun s => decide (s.sec.kind ≤ 1))).map (fun s => (decide (s.sec.kind = 0), s))
def Image.staged (im : Image) : List Segment := im.segments.filter (fun s => decide (2 ≤ s.sec.kind))

/-- The LIMG table: DST, SRC and LEN of each staged run, `src` where each is staged, and its end (16 R400). -/
def Image.limg (im : Image) (src : Nat → Word) : List Word :=
  (List.range im.staged.length).flatMap (fun i =>
    let s := im.staged.getD i ⟨⟨0, 0⟩, 0, []⟩
    [BitVec.ofNat 64 s.origin, src i, BitVec.ofNat 64 s.bytes.length]) ++ (if im.staged.length < 64 then [0, 0, 0] else [])

/-- The queue entry of a launch of the image: the record with what the driver writes (08 R240). -/
def Image.entry (im : Image) (i asid : Nat) (limg cpl rring tag : Word) : List Word :=
  let ws := (im.launches.getD i ([], [])).2
  ((((ws.set 0 (ws.getD 0 0 + BitVec.ofNat 64 (asid % 2 ^ 16))).set 5 limg).set 6 cpl).set 7 rring).set 14 tag

end Sys2Proof.Machine.Hxas
end

