-- ==== Sys2Proof/Safety.lean ====
section
/-! DEFINITION. What the claims call a safe run: no step faults and no step is refused; and the terms in which the claims
say when an instruction may issue, what it writes and what it leaves alone. -/

namespace Sys2Proof.Machine

/-- A step that leads to a next state. -/
def goesOn (s : State) : Prop := ∃ t, step s = .next t

/-- An event of the opcode table that an agent outside the machine brings about: the host, the firmware of a command processor or of
a TSC, a debugger, the power supply. -/
def fromOutside (i : Instr) : Bool :=
  match i with
  | .registerWrite _ _ | .mcWrite _ _ | .lgrantWrite _ _ | .srseedWrite _ _ | .xfringWrite _ _ | .xfheadWrite _ _ | .xfclaimRead _ _ => true
  | .clpartWrite _ _ | .hclrGo _ _ | .tinboxPop _ | .tinboxDefer _ | .tfpost _ _ | .tfattach _ _ => true
  | .faultAnswerRetry _ _ _ | .faultAnswerKill _ _ _ | .qtailWrite _ _ _ | .qcfgWrite _ _ _ => true
  | .preemptContext _ _ | .preemptCore _ _ | .preemptLaunch _ _ | .contextRestore _ _ _ | .contextResume _ | .haltedContextFree _ => true
  | .biasFlipToHost _ | .biasFlipToDevice _ | .cxlMemRead _ _ | .cxlMemWrite _ _ _ | .cxlIoRequest _ _ _ _ _ | .hostCacheSnoop _ => true
  | .tscStoreLoad _ _ | .heartbeat _ | .kdstateWrite _ | .coldBoot | .packageReset | .ioDieWatchdogExpiry => true
  | .powerAlarmAssert | .powerAlarmDeassert | .droopStretch _ | .coreGate _ => true
  | .getVersion | .getCapabilities | .negotiateAlgorithms | .getDigests | .getCertificate _ | .challenge _ | .getMeasurements _ => true
  | .debugRegisterRead _ _ _ | .debugRegisterWrite _ _ _ _ | .debugAccumulatorRead _ _ _ _ | .dispenserTraceRead _ _ _ => true
  | .debuggerResume _ => true
  | _ => false

/-- A move that the machine makes by itself: the issue step of a thread, or an event of its own. -/
def Move.own : Move → Bool
  | .event i => !i.encoded && !fromOutside i
  | .turn _ => true
  | .firmware _ _ => false

/-- The precondition of a move (05 R134): an event would change the state; a thread is ready and has a barrel slot, whose cycle
comes round, or its wait is over. -/
def Move.holds (m : Move) (s : State) : Prop :=
  match m with
  | .event i => exec i s ≠ .next s
  | .turn t => match (s.thread t).run with
    | .ready => ((s.core (coreOf t)).slotOf t).isSome = true
    | .waiting w => s.waitOver t w = true
    | _ => False
  | .firmware _ _ => False

/-- A move is taken in the step from `s`: its event, or a turn in which the thread does something. -/
def Move.taken (m : Move) (s : State) : Prop :=
  match m with
  | .turn t =>
    let u : State := { ({ s with agenda := [m] } : State).tick with agenda := [], cur := t }
    threadStep u ≠ .next u
  | _ => True

/-- A run of the machine under a schedule: every step is given its move (05 R134). -/
def runsBy (run : Nat → State) (moves : Nat → Move) : Prop :=
  ∀ n, step { run n with agenda := [moves n] } = .next (run (n + 1))

/-- A schedule in which every step of the machine whose precondition holds continuously is eventually taken (05 R134). -/
def fairRun (run : Nat → State) (moves : Nat → Move) : Prop :=
  runsBy run moves ∧
    ∀ m, Move.own m = true → ∀ n, (∀ j, n ≤ j → Move.holds m (run j)) → ∃ j, n ≤ j ∧ moves j = m ∧ Move.taken m (run j)

/-- `n` steps, each with a next state. -/
def runsTo (s : State) : Nat → State → Prop
  | 0, t => t = s
  | n + 1, t => ∃ u, step s = .next u ∧ runsTo u n t

/-- An instruction may take its issue step: the issuing thread may run it (14 R366), a pending prefix, if there is one, suits
it (09 R266) and the mode is then `m`, and every source register is in the physical file (07 R193). -/
def State.canIssue (s : State) (p : Place14) (u : Use) (m : Mode) (os : List Opnd) : Prop :=
  s.enterInstr p u = .ok m ∧ spilledOf s.me os = none

/-- Scalar register `r` is a source marked last-use; s0 ignores the mark (07 R190). -/
def lastS (os : List Opnd) (r : Nat) : Bool :=
  os.any (fun o => match o with
    | .s x l => l && decide (x ≠ 0) && decide (x.toNat = r)
    | _ => false)

/-- Vector register `r` is a source marked last-use (07 R190). -/
def lastV (os : List Opnd) (r : Nat) : Bool :=
  os.any (fun o => match o with
    | .v x l => l && decide (x.toNat = r)
    | _ => false)

/-- A register's value and taint: all but how it is mapped. -/
def SReg.held (r : SReg) : SReg := { val := r.val, taint := r.taint }
def VReg.held (r : VReg) : VReg := { val := r.val, taint := r.taint }

/-- A checkpoint, and a pending child, with the values and taints of their registers. -/
def Ckpt.held (c : Ckpt) : Ckpt :=
  { c with s := c.s.map (fun p => (p.1, p.2.held)), v := c.v.map (fun p => (p.1, p.2.held)) }
def Child.held (c : Child) : Child :=
  { c with s := c.s.map (fun p => (p.1, p.2.held)), v := c.v.map (fun p => (p.1, p.2.held)) }

/-- A thread without its scalar and vector registers, and without how the registers that its checkpoint and its children hold are
mapped, which a spill of another thread's instruction changes (07 R192). -/
def Thread.bare (x : Thread) : Thread :=
  { x with s := [], v := [], limbo := [], limboV := [], ckpt := x.ckpt.held, children := x.children.map Child.held,
           releasing := x.releasing.map Child.held }

/-- A thread without what every instruction on registers may change: the registers, the lists of physical registers that
return at the next commit point, those its instruction uses, the pc, the prefix, the marks of its last issue, the run state and the
stochastic-rounding state. -/
def Thread.plain (x : Thread) : Thread :=
  { x.bare with k := [], pc := 0, pfx := false, boundary := false, run := .free, srseed := 1, inUse := [] }

/-- A core without its rotation and its register identities. -/
def Core.plain (c : Core) : Core := { c with nextId := 1, barrel := [], readyQ := [], joinedAt := 0, joined := [] }

/-- All of the device but its threads and its cores: memory, clusters, requests, engines, launches, functions. -/
def State.outside (s : State) : State := { s with threads := [], cores := [] }

/-- Two states of a thread agree in every value and every taint, and in all else but how its registers are mapped. -/
structure SameThread (x y : Thread) : Prop where
  sval : ∀ r, y.sval r = x.sval r
  staint : ∀ r, y.staint r = x.staint r
  vval : ∀ r, y.vval r = x.vval r
  vtaint : ∀ r, y.vtaint r = x.vtaint r
  rest : y.bare = x.bare

/-- The frame of an instruction that works on registers alone: `t` differs from `s` in no scalar register of the issuing
thread outside `dS` and the sources marked last-use, in no vector register outside `dV` and those sources, in no mask
register outside `dK`; the thread's run state is `run` and its stochastic-rounding state `seed`; nothing else of the thread
differs but the pc and the prefix; no value of any other thread; nothing of any core but its rotation and its register
identities; and nothing else at all: memory, clusters, requests, launches, functions. -/
structure RegFrame (s t : State) (os : List Opnd) (dS dV dK : Nat → Bool) (run : RunState) (seed : BitVec 32) : Prop where
  scalars : ∀ r, dS r = false → lastS os r = false → t.me.sval r = s.me.sval r ∧ t.me.staint r = s.me.staint r
  vectors : ∀ r, dV r = false → lastV os r = false → t.me.vval r = s.me.vval r ∧ t.me.vtaint r = s.me.vtaint r
  masks : ∀ r, dK r = false → t.me.kval r = s.me.kval r ∧ t.me.ktaint r = s.me.ktaint r
  own : t.me.plain = s.me.plain
  run : t.me.run = run
  seed : t.me.srseed = seed
  others : ∀ u, u ≠ s.cur → SameThread (s.thread u) (t.thread u)
  cores : ∀ k, (t.core k).plain = (s.core k).plain
  rest : t.outside = s.outside

def noReg : Nat → Bool := fun _ => false
def onlyReg (d : Nat) : Nat → Bool := fun r => decide (r = d)

/-- The instruction has issued: the prefix is spent and the pc moved on by its length (09 R243, R268). -/
structure Issued (s t : State) (len : Nat) : Prop where
  pc : t.me.pc = s.me.pc + BitVec.ofNat 64 len
  pfx : t.me.pfx = false

/-- An instruction from registers to scalar register `d`: the value `v` is written, with the union of the sources' taint
(06 R155); a write to s0 is discarded with its taint (06 R157). -/
structure WroteS (s t : State) (os : List Opnd) (d : BitVec 5) (v : Word) (run : RunState) (seed : BitVec 32) : Prop where
  frame : RegFrame s t os (onlyReg d.toNat) noReg noReg run seed
  issued : Issued s t 4
  val : t.me.sval d.toNat = if d = 0 then 0 else v
  taint : t.me.staint d.toNat = if d = 0 then 0 else taintOf s.me os

/-- An instruction from registers to vector register `d`: lane `j` becomes `f j`. -/
structure WroteV (s t : State) (os : List Opnd) (d : BitVec 5) (f : Nat → BitVec 32) (len : Nat) (run : RunState)
    (seed : BitVec 32) : Prop where
  frame : RegFrame s t os noReg (onlyReg d.toNat) noReg run seed
  issued : Issued s t len
  val : ∀ j, j < 16 → lane (t.me.vval d.toNat) j = f j
  taint : t.me.vtaint d.toNat = taintOf s.me os

/-- An instruction from registers to mask register `d`: bit `j` becomes `f j`; k0 stays all ones (06 R157). -/
structure WroteK (s t : State) (os : List Opnd) (d : BitVec 3) (f : Nat → Bool) : Prop where
  frame : RegFrame s t os noReg noReg (onlyReg d.toNat) s.me.run s.me.srseed
  issued : Issued s t 4
  val : ∀ j, j < 16 → (t.me.kval d.toNat).getLsbD j = if d = 0 then true else f j
  taint : t.me.ktaint d.toNat = if d = 0 then 0 else taintOf s.me os

/-- What a region abort makes of a thread (18 R428; 14 R379; 05 R148): the registers of its checkpoint, their taint cut to the busy tags,
and the CSRs of R379; nothing of the region is left. -/
structure Aborted (x y : Thread) : Prop where
  scalars : ∀ r, y.sval r = ({ x with s := x.ckpt.s } : Thread).sval r ∧
    y.staint r = ({ x with s := x.ckpt.s } : Thread).staint r &&& x.busyTags
  vectors : ∀ r, y.vval r = ({ x with v := x.ckpt.v } : Thread).vval r ∧
    y.vtaint r = ({ x with v := x.ckpt.v } : Thread).vtaint r &&& x.busyTags
  masks : y.k = restoreK x.busyTags x.ckpt.k
  csrs : y.mc = x.ckpt.mc ∧ y.srseed = x.ckpt.srseed ∧ y.bsrd = x.ckpt.bsrd ∧ y.bswr = x.ckpt.bswr ∧ y.bsacc = x.ckpt.bsacc ∧
    y.fmtpend = x.ckpt.fmtpend ∧ y.pfx = x.ckpt.pfx
  region : y.pc = x.regpc ∧ y.rsb = [] ∧ y.children = [] ∧ y.tcons = []

/-- An instruction, or a step of the machine, answers a next state of which `P` holds. -/
def Completes (i : Instr) (s : State) (P : State → Prop) : Prop := ∃ t, exec i s = .next t ∧ P t

/-- Bits [31:0] of a register. -/
def lo32 (x : Word) : BitVec 32 := x.setWidth 32
/-- A 32-bit result, sign-extended (10 R273). -/
def sx32 (x : BitVec 32) : Word := x.signExtend 64
/-- A `.d` result, or a `.w` result computed on the low halves and sign-extended (10 R273). -/
def szd (z : Bool) (d : Word) (w : BitVec 32) : Word := if z then d else sx32 w
/-- A compare result of either size: 1 or 0, zero-extended (10 R273). -/
def szc (z : Bool) (d w : Bool) : Word := if (if z then d else w) then 1 else 0

/-- The scalar result of an instruction that stays in rotation and rounds nothing. -/
def GivesS (i : Instr) (s : State) (os : List Opnd) (d : BitVec 5) (v : Word) : Prop :=
  Completes i s (fun t => WroteS s t os d v s.me.run s.me.srseed)
/-- The scalar result of an instruction that leaves rotation for `n` cycles (07 R188). -/
def GivesSLate (i : Instr) (s : State) (os : List Opnd) (d : BitVec 5) (v : Word) (n : Nat) : Prop :=
  Completes i s (fun t => WroteS s t os d v (.waiting (.latency (s.cycle + n))) s.me.srseed)
/-- The lanes an instruction writes under mask `k`: `f j` where lane `j` is active, the destination's own elsewhere. -/
def underMask (s : State) (k : BitVec 3) (d : BitVec 5) (f : Nat → BitVec 32) (j : Nat) : BitVec 32 :=
  if (s.me.kval k.toNat).getLsbD j then f j else lane (s.me.vval d.toNat) j
/-- The vector result of an instruction that stays in rotation and rounds nothing. -/
def GivesV (i : Instr) (s : State) (os : List Opnd) (d : BitVec 5) (len : Nat) (f : Nat → BitVec 32) : Prop :=
  Completes i s (fun t => WroteV s t os d f len s.me.run s.me.srseed)
/-- The mask result of an instruction under mask `k`. -/
def GivesK (i : Instr) (s : State) (os : List Opnd) (k d : BitVec 3) (f : Nat → Bool) : Prop :=
  Completes i s (fun t => WroteK s t os d (fun j =>
    if (s.me.kval k.toNat).getLsbD j then f j else (s.me.kval d.toNat).getLsbD j))

/-- The sources of a lane operation: its own, the mask, and the destination where inactive lanes keep it or the operation
reads it (11 R293). -/
def laneSources (srcs : List Opnd) (k : BitVec 3) (d : BitVec 5) (readsD : Bool) : List Opnd :=
  srcs ++ [.k k] ++ (if k ≠ 0 || readsD then [.v d false] else [])

/-- Lane `j` of the second operand: of a vector register, or the low half of a scalar register in every lane (09 R263). -/
def second (s : State) (sc : Bool) (b : BitVec 5) (j : Nat) : BitVec 32 :=
  if sc then lo32 (s.x b) else lane (s.vx b) j

/-- A floating-point lane operation with the rounding mode `f`: active lanes take `g j`, in ascending order, each with the
stochastic-rounding state its predecessor left (11 R298, 03 R96). -/
def roundsLanes (i : Instr) (s : State) (os : List Opnd) (k : BitVec 3) (d : BitVec 5) (len : Nat) (run : RunState)
    (g : Nat → BitVec 32 → Coded) : Prop :=
  ∃ seeds : Nat → BitVec 32, seeds 0 = s.me.srseed ∧
    (∀ j, j < 16 → seeds (j + 1) = if (s.me.kval k.toNat).getLsbD j then (g j (seeds j)).2 else seeds j) ∧
    Completes i s (fun t => WroteV s t os d (underMask s k d (fun j => BitVec.ofNat 32 (g j (seeds j)).1)) len run (seeds 16))

/-- Every access of a load is known at once: `vs` gives its value, from the region store buffer or an L1 copy (05 R140). -/
def State.known (s : State) (zs : List (Access × Place)) (vs : Nat → Nat) : Prop :=
  ∀ z ∈ zs, s.way s.cur z false = .now (vs z.1.index) ∨ s.way s.cur z false = .unsettled (vs z.1.index)

/-- No access of a load reads an unsettled copy or comes from a home. -/
def State.settledWays (s : State) (zs : List (Access × Place)) : Bool :=
  zs.all (fun z => match s.way s.cur z false with
    | .now _ => true
    | _ => false)

/-- A load of which some accesses come from their homes: with a free tag, a LOAD for each of those enters the FIFO, in the
order of the accesses, all under that tag; the tag waits for that many replies; the thread leaves rotation; memory stays. -/
def AsksHomes (i : Instr) (s : State) (zs : List (Access × Place)) : Prop :=
  ∀ g, (∃ z ∈ zs, s.way s.cur z false = .home) → s.me.freeTag = some g →
    let asked := zs.filter (fun z => decide (s.way s.cur z false = .home))
    Completes i s (fun t => t.mem = s.mem ∧ Issued s t 4 ∧ t.me.run = .waiting .reply ∧
      t.fifo = s.fifo ++ asked.map (fun z =>
        { src := .thread s.cur, place := z.2, kind := .load z.1.width, tag := some g, part := z.1.index }) ∧
      (NMap.get {} t.me.tags g).busy = true ∧ (NMap.get {} t.me.tags g).replies = asked.length)

/-- A load whose accesses all come from their homes (05 R140, R144, R145): with a free tag, a LOAD for each enters the FIFO in
order under that tag, the thread leaves rotation till the replies have come, and the result is then `fin`'s; memory stays, and
of the next state `P` holds. -/
def AsksAll (i : Instr) (s : State) (zs : List (Access × Place)) (fin : Finish) (P : State → Prop) : Prop :=
  ∀ g, zs ≠ [] → (∀ z ∈ zs, s.way s.cur z false = .home) → s.me.freeTag = some g →
    Completes i s (fun t => P t ∧ t.mem = s.mem ∧ Issued s t 4 ∧ t.me.run = .waiting .reply ∧
      t.fifo = s.fifo ++ zs.map (fun z => ⟨.thread s.cur, z.2, .load z.1.width, some g, z.1.index, false, []⟩) ∧
      NMap.get {} t.me.tags g = ⟨true, s.me.nextAge, zs.length, [], (zs.map (fun z => (z.2.home, lineOf z.2.loc))).dedup⟩ ∧
      t.me.inflight = some ⟨some g, fin, zs.map (fun z => ⟨z.1.index, z.2, z.1.width, true, none⟩)⟩)

end Sys2Proof.Machine
end

