-- ==== Sys2Proof/Certificates/Slice0/Obligations.lean ====
section
/-! DEFINITION. The statements for the provers, from the rules of the spec. -/

open Sys2Proof Sys2Proof.Machine

/-! ## Scalar instructions (10) -/

/-- 10 R276, R273: INT.RR. Sums, logical values, shifts, minima and maxima; the compares, the conditional moves and the counts. A
count is the number of zero bits above the highest one bit, below the lowest one bit, or the number of one bits, of the
operand's n bits. -/
def Obligations.ScalarAluResult : Prop :=
  (∀ (s : State) (z m n : Bool) (b a d : BitVec 5), s.canIssue .any .plain {} (rrOps m n b a) →
     let x := s.x a; let y := s.x b
     let R := fun (i : Instr) (v : Word) => GivesS i s (rrOps m n b a) d v
     let sh := if z then y.toNat % 64 else y.toNat % 32
     R (.add z m n b a d) (szd z (x + y) (lo32 x + lo32 y)) ∧
     R (.sub z m n b a d) (szd z (x - y) (lo32 x - lo32 y)) ∧
     R (.and z m n b a d) (szd z (x &&& y) (lo32 x &&& lo32 y)) ∧
     R (.or z m n b a d) (szd z (x ||| y) (lo32 x ||| lo32 y)) ∧
     R (.xor z m n b a d) (szd z (x ^^^ y) (lo32 x ^^^ lo32 y)) ∧
     R (.andn z m n b a d) (szd z (x &&& ~~~y) (lo32 x &&& ~~~lo32 y)) ∧
     R (.sll z m n b a d) (szd z (x <<< sh) (lo32 x <<< sh)) ∧
     R (.srl z m n b a d) (szd z (x >>> sh) (lo32 x >>> sh)) ∧
     R (.sra z m n b a d) (szd z (x.sshiftRight sh) ((lo32 x).sshiftRight sh)) ∧
     R (.ror z m n b a d) (szd z (x.rotateRight sh) ((lo32 x).rotateRight sh)) ∧
     R (.min z m n b a d) (szd z (if x.toInt < y.toInt then x else y) (if (lo32 x).toInt < (lo32 y).toInt then lo32 x else lo32 y)) ∧
     R (.max z m n b a d) (szd z (if y.toInt < x.toInt then x else y) (if (lo32 y).toInt < (lo32 x).toInt then lo32 x else lo32 y)) ∧
     R (.minu z m n b a d) (szd z (if x.toNat < y.toNat then x else y) (if (lo32 x).toNat < (lo32 y).toNat then lo32 x else lo32 y)) ∧
     R (.maxu z m n b a d) (szd z (if y.toNat < x.toNat then x else y) (if (lo32 y).toNat < (lo32 x).toNat then lo32 x else lo32 y))) ∧
  (∀ (s : State) (z m n : Bool) (b a d : BitVec 5),
     let x := s.x a; let y := s.x b; let w := if z then 64 else 32
     let os := rrOps m n b a
     (s.canIssue .any .plain {} os →
       GivesS (.slt z m n b a d) s os d (szc z (x.toInt < y.toInt) ((lo32 x).toInt < (lo32 y).toInt)) ∧
       GivesS (.sltu z m n b a d) s os d (szc z (x.toNat < y.toNat) ((lo32 x).toNat < (lo32 y).toNat)) ∧
       GivesS (.seq z m n b a d) s os d (szc z (x = y) (lo32 x = lo32 y)) ∧
       GivesS (.sne z m n b a d) s os d (szc z (x ≠ y) (lo32 x ≠ lo32 y))) ∧
     (s.canIssue .any .plain {} (os ++ [.s d false]) →
       GivesS (.cmovz m n b a d) s (os ++ [.s d false]) d (if y = 0 then x else s.x d) ∧
       GivesS (.cmovnz m n b a d) s (os ++ [.s d false]) d (if y ≠ 0 then x else s.x d)) ∧
     (s.canIssue .any .plain {} [.s a n] →
       (∃ c, c ≤ w ∧ (∀ i, i < c → x.getLsbD (w - 1 - i) = false) ∧ (c < w → x.getLsbD (w - 1 - c) = true) ∧
         GivesS (.clz z n a d) s [.s a n] d (BitVec.ofNat 64 c)) ∧
       (∃ c, c ≤ w ∧ (∀ i, i < c → x.getLsbD i = false) ∧ (c < w → x.getLsbD c = true) ∧
         GivesS (.ctz z n a d) s [.s a n] d (BitVec.ofNat 64 c)) ∧
       GivesS (.popc z n a d) s [.s a n] d (BitVec.ofNat 64 ((List.range w).countP (fun i => x.getLsbD i)))))

/-- 10 R277 to R281: the immediate operations, shifts and compares; the upper immediate and the address of a fetch block; the bit
fields. A bit of a field of `len = l + 1` bits at `p` is bit `p + i` of the source. -/
def Obligations.ScalarImmediateResult : Prop :=
  (∀ (s : State) (n : Bool) (a d : BitVec 5), s.canIssue .any .plain {} [.s a n] →
     let x := s.x a
     let R := fun (i : Instr) (v : Word) => GivesS i s [.s a n] d v
     (∀ i : BitVec 14,
       R (.addi i n a d) (x + i.signExtend 64) ∧ R (.andi i n a d) (x &&& i.signExtend 64) ∧
       R (.ori i n a d) (x ||| i.signExtend 64) ∧ R (.xori i n a d) (x ^^^ i.signExtend 64)) ∧
     (∀ (z : Bool) (c : BitVec 6), (z = true ∨ c.toNat < 32) →
       R (.slli z c n a d) (szd z (x <<< c.toNat) (lo32 x <<< c.toNat)) ∧
       R (.srli z c n a d) (szd z (x >>> c.toNat) (lo32 x >>> c.toNat)) ∧
       R (.srai z c n a d) (szd z (x.sshiftRight c.toNat) ((lo32 x).sshiftRight c.toNat)) ∧
       R (.rori z c n a d) (szd z (x.rotateRight c.toNat) ((lo32 x).rotateRight c.toNat))) ∧
     (∀ i : BitVec 12,
       R (.seqi i n a d) (if x = i.signExtend 64 then 1 else 0) ∧ R (.snei i n a d) (if x ≠ i.signExtend 64 then 1 else 0) ∧
       R (.slti i n a d) (if x.toInt < (i.signExtend 64).toInt then 1 else 0) ∧
       R (.sltiu i n a d) (if x.toNat < (i.signExtend 64).toNat then 1 else 0))) ∧
  (∀ (s : State) (d : BitVec 5),
     (∀ i : BitVec 20, s.canIssue .any .plain {} [] →
       GivesS (.lui i d) s [] d (i.signExtend 64 * 2 ^ 14) ∧
       GivesS (.leapc i d) s [] d ((s.me.pc &&& ~~~63#64) + i.signExtend 64 * 64)) ∧
     (∀ (l p : BitVec 6) (n : Bool) (a : BitVec 5), p.toNat + l.toNat + 1 ≤ 64 →
       (s.canIssue .any .plain {} [.s a n] →
         (∃ v : Word, GivesS (.bfxu l p n a d) s [.s a n] d v ∧
           ∀ i, i < 64 → v.getLsbD i = if i ≤ l.toNat then (s.x a).getLsbD (p.toNat + i) else false) ∧
         (∃ v : Word, GivesS (.bfx l p n a d) s [.s a n] d v ∧
           ∀ i, i < 64 → v.getLsbD i = (s.x a).getLsbD (p.toNat + min i l.toNat))) ∧
       (s.canIssue .any .plain {} [.s a n, .s d false] →
         (∃ v : Word, GivesS (.bfi l p n a d) s [.s a n, .s d false] d v ∧
           ∀ i, i < 64 → v.getLsbD i =
             if p.toNat ≤ i ∧ i ≤ p.toNat + l.toNat then (s.x a).getLsbD (i - p.toNat) else (s.x d).getLsbD i))))

/-- 10 R282, R274: products and quotients; a division leaves rotation for 16 cycles, or 28 for `.d`. -/
def Obligations.MultiplyDivideResult : Prop :=
  ∀ (s : State) (z m n : Bool) (b a d : BitVec 5), s.canIssue .any .plain {} (rrOps m n b a) →
    let x := s.x a; let y := s.x b; let p := lo32 x; let q := lo32 y
    let R := fun (i : Instr) (v : Word) => GivesS i s (rrOps m n b a) d v
    let D := fun (i : Instr) (v : Word) => GivesSLate i s (rrOps m n b a) d v (if z then 28 else 16)
    R (.mul z m n b a d) (szd z (x * y) (p * q)) ∧
    R (.mulh z m n b a d) (szd z (BitVec.ofInt 64 (x.toInt * y.toInt / 2 ^ 64)) (BitVec.ofInt 32 (p.toInt * q.toInt / 2 ^ 32))) ∧
    R (.mulhu z m n b a d) (szd z (BitVec.ofNat 64 (x.toNat * y.toNat / 2 ^ 64)) (BitVec.ofNat 32 (p.toNat * q.toNat / 2 ^ 32))) ∧
    R (.mulhsu z m n b a d) (szd z (BitVec.ofInt 64 (x.toInt * y.toNat / 2 ^ 64)) (BitVec.ofInt 32 (p.toInt * q.toNat / 2 ^ 32))) ∧
    D (.div z m n b a d) (szd z
      (if y = 0 then -1 else if x = 2 ^ 63 ∧ y = -1 then x else BitVec.ofInt 64 (x.toInt.tdiv y.toInt))
      (if q = 0 then -1 else if p = 2 ^ 31 ∧ q = -1 then p else BitVec.ofInt 32 (p.toInt.tdiv q.toInt))) ∧
    D (.divu z m n b a d) (szd z (if y = 0 then -1 else BitVec.ofNat 64 (x.toNat / y.toNat))
      (if q = 0 then -1 else BitVec.ofNat 32 (p.toNat / q.toNat))) ∧
    D (.rem z m n b a d) (szd z
      (if y = 0 then x else if x = 2 ^ 63 ∧ y = -1 then 0 else BitVec.ofInt 64 (x.toInt.tmod y.toInt))
      (if q = 0 then p else if p = 2 ^ 31 ∧ q = -1 then 0 else BitVec.ofInt 32 (p.toInt.tmod q.toInt))) ∧
    D (.remu z m n b a d) (szd z (if y = 0 then x else BitVec.ofNat 64 (x.toNat % y.toNat))
      (if q = 0 then p else BitVec.ofNat 32 (p.toNat % q.toNat)))

/-- 10 R283 to R286: the operations of scalar floating point on the low halves of their sources, the result zero-extended;
a stochastic rounding moves the thread's `srseed` on; FDIV leaves rotation for 20 cycles (10 R274). -/
def Obligations.ScalarFloatResult : Prop :=
  ∀ (s : State) (f : Mode) (m n : Bool) (b a d : BitVec 5),
    let A := f32 (s.x a).toNat; let B := f32 (s.x b).toNat; let D := f32 (s.x d).toNat
    let os := rrOps m n b a
    let rdn := decide (f.rnd = 2)
    let late : RunState := .waiting (.latency (s.cycle + 20))
    let R := fun (i : Instr) (os : List Opnd) (run : RunState) (r : Coded) =>
      Completes i s (fun t => WroteS s t os d (BitVec.ofNat 64 r.1) run r.2)
    (s.canIssue .any .fp f os →
      R (.fadd m n b a d) os s.me.run (fpResult (A.add rdn B) f.rnd f.sat s.me.srseed) ∧
      R (.fsub m n b a d) os s.me.run (fpResult (A.add rdn B.neg) f.rnd f.sat s.me.srseed) ∧
      R (.fmul m n b a d) os s.me.run (fpResult (A.mul B) f.rnd f.sat s.me.srseed) ∧
      R (.fdiv m n b a d) os late (fpResult (A.div B) f.rnd f.sat s.me.srseed)) ∧
    (s.canIssue .any .fp f (os ++ [.s d false]) →
      R (.fma m n b a d) (os ++ [.s d false]) s.me.run (fpResult (D.add rdn (A.mul B)) f.rnd f.sat s.me.srseed) ∧
      GivesS (.fcmp m n b a d) s (os ++ [.s d false]) d
        (if (match (s.x d).toNat % 4 with
          | 0 => A.eq B
          | 1 => A.lt B
          | 2 => A.eq B || A.lt B
          | _ => A.isNan || B.isNan) then 1 else 0)) ∧
    (s.canIssue .any .fp f [.s a n] →
      R (.fcvtif n a d) [.s a n] s.me.run (fpResult (.ofInt (s.x a).toInt) f.rnd f.sat s.me.srseed) ∧
      Completes (.fcvtfi n a d) s (fun t => WroteS s t [.s a n] d (cvtToI64 (flushSrc 0 ((s.x a).toNat % 2 ^ 32)) f.rnd s.me.srseed).1
        s.me.run (cvtToI64 (flushSrc 0 ((s.x a).toNat % 2 ^ 32)) f.rnd s.me.srseed).2))

/-! ## Control transfer (10 R287 to R290) -/

/-- 10 R287 to R290; 01 R36, R37: branches, jumps and calls. A branch whose condition holds goes to the start of its fetch block plus 64 times the
displacement; otherwise it only moves on. A call writes the address of the next fetch block, with empty taint, to its link
register; a JR or CALLR target is formed from the source as it stood before. A taken transfer to an address outside space 0x0
raises a local address fault, and otherwise one to an address that is no multiple of 64 an alignment trap: `fadr` holds the
target, the pc stays at the instruction and no link is written. A TSC, whose code lies in its instruction store alone, stops at a taken
transfer that fails these checks or leaves the store, and its cluster takes level 3 with a notice. -/
def Obligations.ControlTransferResult : Prop :=
  (∀ (s : State) (i : BitVec 12) (b a : BitVec 5),
     let os : List Opnd := [.s a false, .s b false]
     let x := s.x a; let y := s.x b
     let T : Word := (s.me.pc &&& ~~~63#64) + i.signExtend 64 * 64
     let B := fun (instr : Instr) (taken : Prop) =>
       (taken → T.toNat < 2 ^ 52 → (isTsc s.cur = true → T.toNat < 2 ^ 17) → Completes instr s (fun t => RegFrame s t os noReg noReg noReg s.me.run s.me.srseed ∧
         t.me.pc = T ∧ t.me.pfx = false)) ∧
       (¬ taken → Completes instr s (fun t => RegFrame s t os noReg noReg noReg s.me.run s.me.srseed ∧ Issued s t 4))
     s.canIssue .any .plain {} os →
     B (.beq i b a) (x = y) ∧ B (.bne i b a) (x ≠ y) ∧ B (.blt i b a) (x.toInt < y.toInt) ∧ B (.bge i b a) (y.toInt ≤ x.toInt) ∧
     B (.bltu i b a) (x.toNat < y.toNat) ∧ B (.bgeu i b a) (y.toNat ≤ x.toNat)) ∧
  (∀ (s : State),
     let next : Word := (s.me.pc &&& ~~~63#64) + 64
     let G := fun (instr : Instr) (os : List Opnd) (T : Word) (link : BitVec 5) =>
       T.toNat < 2 ^ 52 → (isTsc s.cur = true → T.toNat < 2 ^ 17) → T.toNat % 64 = 0 →
         Completes instr s (fun t => RegFrame s t os (onlyReg link.toNat) noReg noReg s.me.run s.me.srseed ∧
           t.me.pc = T ∧ t.me.pfx = false ∧
           (link ≠ 0 → t.me.sval link.toNat = next ∧ t.me.staint link.toNat = 0))
     (s.canIssue .any .plain {} [] → ∀ (i : BitVec 20) (l : BitVec 5),
       let T : Word := (s.me.pc &&& ~~~63#64) + i.signExtend 64 * 64
       G (.j i) [] T 0 ∧ G (.call i l) [] T l) ∧
     (∀ (i : BitVec 14) (n : Bool) (a d : BitVec 5), s.canIssue .any .plain {} [.s a n] →
       let T : Word := s.x a + i.signExtend 64 * 64
       G (.jr i n a) [.s a n] T 0 ∧ G (.callr i n a d) [.s a n] T d)) ∧
  (∀ (s : State), isTsc s.cur = false → s.me.tvec ≠ 0 →
     let F := fun (instr : Instr) (T : Word) (cause : Nat) =>
       Completes instr s (fun t => t.me.pc = s.me.tvec ∧ t.me.epc = s.me.pc &&& ~~~1#64 ∧
         t.me.ecause = BitVec.ofNat 13 cause ∧ t.me.fadr = T ∧ t.me.s = s.me.s ∧ t.mem = s.mem)
     (∀ (i : BitVec 12) (b a : BitVec 5), s.canIssue .any .plain {} [.s a false, .s b false] →
       let T : Word := (s.me.pc &&& ~~~63#64) + i.signExtend 64 * 64
       let x := s.x a; let y := s.x b
       2 ^ 52 ≤ T.toNat →
         (x = y → F (.beq i b a) T 3) ∧ (x ≠ y → F (.bne i b a) T 3) ∧ (x.toInt < y.toInt → F (.blt i b a) T 3) ∧
         (y.toInt ≤ x.toInt → F (.bge i b a) T 3) ∧ (x.toNat < y.toNat → F (.bltu i b a) T 3) ∧
         (y.toNat ≤ x.toNat → F (.bgeu i b a) T 3)) ∧
     (∀ i : BitVec 20, s.canIssue .any .plain {} [] →
       let T : Word := (s.me.pc &&& ~~~63#64) + i.signExtend 64 * 64
       2 ^ 52 ≤ T.toNat → F (.j i) T 3 ∧ ∀ l : BitVec 5, F (.call i l) T 3) ∧
     (∀ (i : BitVec 14) (n : Bool) (a d : BitVec 5), s.canIssue .any .plain {} [.s a n] →
       let T : Word := s.x a + i.signExtend 64 * 64
       (2 ^ 52 ≤ T.toNat → F (.jr i n a) T 3 ∧ F (.callr i n a d) T 3) ∧
       (T.toNat < 2 ^ 52 → T.toNat % 64 ≠ 0 → F (.jr i n a) T 2 ∧ F (.callr i n a d) T 2))) ∧
  (∀ (s : State), isTsc s.cur = true →
     let cl := clusterOf (coreOf s.cur)
     let S := fun (instr : Instr) => ∃ reason fn n, exec instr s = .next ((s.stopTsc cl s.me.pc).quenchCluster cl reason fn n)
     (∀ (i : BitVec 12) (b a : BitVec 5), s.canIssue .any .plain {} [.s a false, .s b false] →
       let T : Word := (s.me.pc &&& ~~~63#64) + i.signExtend 64 * 64
       let x := s.x a; let y := s.x b
       2 ^ 17 ≤ T.toNat →
         (x = y → S (.beq i b a)) ∧ (x ≠ y → S (.bne i b a)) ∧ (x.toInt < y.toInt → S (.blt i b a)) ∧
         (y.toInt ≤ x.toInt → S (.bge i b a)) ∧ (x.toNat < y.toNat → S (.bltu i b a)) ∧ (y.toNat ≤ x.toNat → S (.bgeu i b a))) ∧
     (∀ i : BitVec 20, s.canIssue .any .plain {} [] →
       let T : Word := (s.me.pc &&& ~~~63#64) + i.signExtend 64 * 64
       2 ^ 17 ≤ T.toNat → S (.j i) ∧ ∀ l : BitVec 5, S (.call i l)) ∧
     (∀ (i : BitVec 14) (n : Bool) (a d : BitVec 5), s.canIssue .any .plain {} [.s a n] →
       let T : Word := s.x a + i.signExtend 64 * 64
       (2 ^ 17 ≤ T.toNat ∨ T.toNat % 64 ≠ 0) → S (.jr i n a) ∧ S (.callr i n a d)))

/-! ## Lane operations (11) -/

/-- 11 R293, R296, R297: VINT and VINT.I. Lane `j` of the result is formed from lanes `j` of the sources where the mask is 1; the
destination keeps its own lane elsewhere. The immediate, the same in every lane, is sign-extended from 6 bits; a shift's is 5
bits, unsigned. -/
def Obligations.LaneIntegerResult : Prop :=
  (∀ (s : State) (n sc : Bool) (k : BitVec 3) (b a d : BitVec 5),
     let x := fun j => lane (s.vx a) j
     let y := second s sc b
     let y0 : Opnd := if sc then .s b false else .v b false
     let R := fun (i : Instr) (f : Nat → BitVec 32) => GivesV i s (laneSources [.v a n, y0] k d false) d 4 (underMask s k d f)
     (s.canIssue .core .plain {} (laneSources [y0] k d false) →
       GivesV (.vmov sc k b d) s (laneSources [y0] k d false) d 4 (underMask s k d y)) ∧
     (s.canIssue .core .plain {} (laneSources [.v a n, y0] k d false) →
       R (.vadd n sc k b a d) (fun j => x j + y j) ∧ R (.vsub n sc k b a d) (fun j => x j - y j) ∧
       R (.vmul n sc k b a d) (fun j => x j * y j) ∧ R (.vand n sc k b a d) (fun j => x j &&& y j) ∧
       R (.vor n sc k b a d) (fun j => x j ||| y j) ∧ R (.vxor n sc k b a d) (fun j => x j ^^^ y j) ∧
       R (.vshl n sc k b a d) (fun j => x j <<< ((y j).toNat % 32)) ∧
       R (.vshr n sc k b a d) (fun j => x j >>> ((y j).toNat % 32)) ∧
       R (.vsra n sc k b a d) (fun j => (x j).sshiftRight ((y j).toNat % 32)) ∧
       R (.vmin n sc k b a d) (fun j => if (x j).toInt < (y j).toInt then x j else y j) ∧
       R (.vmax n sc k b a d) (fun j => if (y j).toInt < (x j).toInt then x j else y j) ∧
       R (.vminu n sc k b a d) (fun j => if (x j).toNat < (y j).toNat then x j else y j) ∧
       R (.vmaxu n sc k b a d) (fun j => if (y j).toNat < (x j).toNat then x j else y j) ∧
       R (.vmulhu n sc k b a d) (fun j => BitVec.ofNat 32 ((x j).toNat * (y j).toNat / 2 ^ 32))) ∧
     (s.canIssue .core .plain {} (laneSources [.v a n, y0] k d true) →
       GivesV (.vmadd n sc k b a d) s (laneSources [.v a n, y0] k d true) d 4
         (underMask s k d (fun j => lane (s.vx d) j + x j * y j)))) ∧
  (∀ (s : State) (n : Bool) (k : BitVec 3) (a d : BitVec 5),
     let x := fun j => lane (s.vx a) j
     let R := fun (i : Instr) (f : Nat → BitVec 32) => GivesV i s (laneSources [.v a n] k d false) d 4 (underMask s k d f)
     (∀ i : BitVec 6, s.canIssue .core .plain {} (laneSources [] k d false) →
       GivesV (.vmovI i k d) s (laneSources [] k d false) d 4 (underMask s k d (fun _ => i.signExtend 32))) ∧
     (s.canIssue .core .plain {} (laneSources [.v a n] k d false) →
       (∀ i : BitVec 6, let y : BitVec 32 := i.signExtend 32
         R (.vaddI n i k a d) (fun j => x j + y) ∧ R (.vsubI n i k a d) (fun j => x j - y) ∧
         R (.vmulI n i k a d) (fun j => x j * y) ∧ R (.vandI n i k a d) (fun j => x j &&& y) ∧
         R (.vorI n i k a d) (fun j => x j ||| y) ∧ R (.vxorI n i k a d) (fun j => x j ^^^ y) ∧
         R (.vminI n i k a d) (fun j => if (x j).toInt < y.toInt then x j else y) ∧
         R (.vmaxI n i k a d) (fun j => if y.toInt < (x j).toInt then x j else y) ∧
         R (.vminuI n i k a d) (fun j => if (x j).toNat < y.toNat then x j else y) ∧
         R (.vmaxuI n i k a d) (fun j => if y.toNat < (x j).toNat then x j else y)) ∧
       (∀ i : BitVec 5,
         R (.vshlI n k i a d) (fun j => x j <<< i.toNat) ∧ R (.vshrI n k i a d) (fun j => x j >>> i.toNat) ∧
         R (.vsraI n k i a d) (fun j => (x j).sshiftRight i.toNat))))

/-- 09 R243, R244: the 16-bit forms. The destination is also the first source, every lane is active, and the pc moves by 2; NOP moves
the pc alone. -/
def Obligations.HalfwordResult : Prop :=
  (∀ (s : State) (m : Bool) (b d : BitVec 5),
     let x := fun j => lane (s.vx d) j
     let y := fun j => lane (s.vx b) j
     let os := laneSources [.v d false, .v b m] 0 d false
     let R := fun (i : Instr) (f : Nat → BitVec 32) => GivesV i s os d 2 f
     (s.canIssue .any .plain {} [] → Completes .nop s (fun t => RegFrame s t [] noReg noReg noReg s.me.run s.me.srseed ∧ Issued s t 2)) ∧
     (s.canIssue .core .plain {} (laneSources [.v b m] 0 d false) →
       GivesV (.vmov16 m b d) s (laneSources [.v b m] 0 d false) d 2 y) ∧
     (s.canIssue .core .plain {} os →
       R (.vadd16 m b d) (fun j => x j + y j) ∧ R (.vsub16 m b d) (fun j => x j - y j) ∧
       R (.vmul16 m b d) (fun j => x j * y j) ∧ R (.vand16 m b d) (fun j => x j &&& y j) ∧
       R (.vor16 m b d) (fun j => x j ||| y j) ∧ R (.vxor16 m b d) (fun j => x j ^^^ y j) ∧
       R (.vshl16 m b d) (fun j => x j <<< ((y j).toNat % 32)) ∧ R (.vshr16 m b d) (fun j => x j >>> ((y j).toNat % 32)) ∧
       R (.vmin16 m b d) (fun j => if (x j).toInt < (y j).toInt then x j else y j) ∧
       R (.vmax16 m b d) (fun j => if (y j).toInt < (x j).toInt then x j else y j))) ∧
  (∀ (s : State) (f : Mode) (m : Bool) (b d : BitVec 5),
     let A := fun j => f32 (lane (s.vx d) j).toNat
     let B := fun j => f32 (lane (s.vx b) j).toNat
     let os := laneSources [.v d false, .v b m] 0 d false
     let rdn := decide (f.rnd = 2)
     let fp := fun (e : Nat → Ex) (j : Nat) (q : BitVec 32) => fpResult (e j) f.rnd f.sat q
     s.canIssue .core .fp f os →
       roundsLanes (.vfadd16 m b d) s os 0 d 2 s.me.run (fp (fun j => (A j).add rdn (B j))) ∧
       roundsLanes (.vfsub16 m b d) s os 0 d 2 s.me.run (fp (fun j => (A j).add rdn (B j).neg)) ∧
       roundsLanes (.vfmul16 m b d) s os 0 d 2 s.me.run (fp (fun j => (A j).mul (B j))) ∧
       roundsLanes (.vfmin16 m b d) s os 0 d 2 s.me.run (fun j q => (fminCode (lane (s.vx d) j) (lane (s.vx b) j), q)) ∧
       roundsLanes (.vfmax16 m b d) s os 0 d 2 s.me.run (fun j q => (fmaxCode (lane (s.vx d) j) (lane (s.vx b) j), q)))

/-- 11 R298, R299, R295: floating-point lanes. VFMIN and VFMAX give the canonical NaN where a source is a NaN and order -0
below +0; VFABS and VFNEG give it too and otherwise change the sign bit alone; VFDIV and VFSQRT leave rotation for 20
cycles.
11 R302, R303: lane conversions. VCVT takes its formats and its rounding from its prefix; VCVTIF and VCVTUF round to
nearest even; VCVTFI and VCVTFU saturate. -/
def Obligations.LaneFloatResult : Prop :=
  (∀ (s : State) (f : Mode) (n sc : Bool) (k : BitVec 3) (b a d : BitVec 5),
     let A := fun j => f32 (lane (s.vx a) j).toNat
     let B := fun j => f32 (second s sc b j).toNat
     let D := fun j => f32 (lane (s.vx d) j).toNat
     let y0 : Opnd := if sc then .s b false else .v b false
     let os := laneSources [.v a n, y0] k d false
     let rdn := decide (f.rnd = 2)
     let late : RunState := .waiting (.latency (s.cycle + 20))
     let fp := fun (e : Nat → Ex) (j : Nat) (q : BitVec 32) => fpResult (e j) f.rnd f.sat q
     let pick := fun (less : Bool) (j : Nat) (q : BitVec 32) =>
       let x := (lane (s.vx a) j).toNat; let y := (second s sc b j).toNat
       (if (A j).isNan || (B j).isNan then 0x7FC00000
        else if (A j).lt (B j) then (if less then x else y)
        else if (B j).lt (A j) then (if less then y else x)
        else if (A j).isNeg = less then x else y, q)
     (s.canIssue .core .fp f os →
       roundsLanes (.vfadd n sc k b a d) s os k d 4 s.me.run (fp (fun j => (A j).add rdn (B j))) ∧
       roundsLanes (.vfsub n sc k b a d) s os k d 4 s.me.run (fp (fun j => (A j).add rdn (B j).neg)) ∧
       roundsLanes (.vfmul n sc k b a d) s os k d 4 s.me.run (fp (fun j => (A j).mul (B j))) ∧
       roundsLanes (.vfdiv n sc k b a d) s os k d 4 late (fp (fun j => (A j).div (B j))) ∧
       roundsLanes (.vfmin n sc k b a d) s os k d 4 s.me.run (pick true) ∧
       roundsLanes (.vfmax n sc k b a d) s os k d 4 s.me.run (pick false)) ∧
     (s.canIssue .core .fp f (laneSources [.v a n, y0] k d true) →
       roundsLanes (.vfma n sc k b a d) s (laneSources [.v a n, y0] k d true) k d 4 s.me.run
         (fp (fun j => (D j).add rdn ((A j).mul (B j))))) ∧
     (s.canIssue .core .fp f (laneSources [.v a n] k d false) →
       let os := laneSources [.v a n] k d false
       roundsLanes (.vfsqrt n k a d) s os k d 4 late (fp (fun j => (A j).sqrt)) ∧
       roundsLanes (.vfabs n k a d) s os k d 4 s.me.run (fun j q =>
         (if (A j).isNan then 0x7FC00000 else (lane (s.vx a) j).toNat % 2 ^ 31, q)) ∧
       roundsLanes (.vfneg n k a d) s os k d 4 s.me.run (fun j q =>
         (if (A j).isNan then 0x7FC00000 else (lane (s.vx a) j ^^^ 0x80000000#32).toNat, q)))) ∧
  (∀ (s : State) (n : Bool) (k : BitVec 3) (a d : BitVec 5),
     let x := fun j => lane (s.vx a) j
     let os := laneSources [.v a n] k d false
     let R := fun (i : Instr) (f : Nat → BitVec 32) => GivesV i s os d 4 (underMask s k d f)
     (∀ f : Mode, s.canIssue .core .vcvt f os →
       roundsLanes (.vcvt n k a d) s os k d 4 s.me.run (fun j q =>
         convert (fmtOf f.fd) (flushSrc f.fa ((x j).toNat % 2 ^ (8 * fmtBytes f.fa))) f.rnd f.sat q)) ∧
     (s.canIssue .core .plain {} os →
       R (.vcvtif n k a d) (fun j => BitVec.ofNat 32 (fpResult (.ofInt (x j).toInt) 0 false 0).1) ∧
       R (.vcvtuf n k a d) (fun j => BitVec.ofNat 32 (fpResult (.ofInt (x j).toNat) 0 false 0).1) ∧
       R (.vcvtfi n k a d) (fun j => cvtToI32 (flushSrc 0 (x j).toNat)) ∧
       R (.vcvtfu n k a d) (fun j => cvtToU32 (flushSrc 0 (x j).toNat))))

/-- 11 R300: compares write a bit of a mask per lane; a NaN makes every floating-point compare false.
11 R301: operations on masks, under a mask; and the scalar readings of a mask ANDed with the mask `k`: its bits, how
many are 1, and the lowest that is 1, or 16 where none is. -/
def Obligations.CompareAndMaskResult : Prop :=
  (∀ (s : State) (n sc : Bool) (k : BitVec 3) (b a : BitVec 5) (d : BitVec 3),
     let x := fun j => lane (s.vx a) j
     let y := second s sc b
     let A := fun j => f32 (x j).toNat
     let B := fun j => f32 (y j).toNat
     let os := maskOps [.v a n, if sc then .s b false else .v b false] k d
     let R := fun (i : Instr) (f : Nat → Bool) => GivesK i s os k d f
     s.canIssue .core .plain {} os →
       R (.vceq n sc k b a d) (fun j => x j = y j) ∧ R (.vcne n sc k b a d) (fun j => x j ≠ y j) ∧
       R (.vclt n sc k b a d) (fun j => (x j).toInt < (y j).toInt) ∧ R (.vcle n sc k b a d) (fun j => (x j).toInt ≤ (y j).toInt) ∧
       R (.vcltu n sc k b a d) (fun j => (x j).toNat < (y j).toNat) ∧
       R (.vcleu n sc k b a d) (fun j => (x j).toNat ≤ (y j).toNat) ∧
       R (.vfceq n sc k b a d) (fun j => (A j).eq (B j)) ∧ R (.vfclt n sc k b a d) (fun j => (A j).lt (B j)) ∧
       R (.vfcle n sc k b a d) (fun j => (A j).eq (B j) || (A j).lt (B j))) ∧
  (∀ (s : State) (k b a : BitVec 3) (r q : BitVec 5) (d : BitVec 3),
     let bit := fun (e : BitVec 3) (j : Nat) => (s.me.kval e.toNat).getLsbD j
     let m := s.me.kval a.toNat &&& s.me.kval k.toNat
     let two := maskOps [.k a, .k b] k d
     (s.canIssue .core .plain {} two →
       GivesK (.kand k b a d) s two k d (fun j => bit a j && bit b j) ∧ GivesK (.kor k b a d) s two k d (fun j => bit a j || bit b j) ∧
       GivesK (.kxor k b a d) s two k d (fun j => bit a j != bit b j) ∧
       GivesK (.kandn k b a d) s two k d (fun j => bit a j && !bit b j)) ∧
     (s.canIssue .core .plain {} (maskOps [.k a] k d) → GivesK (.knot k a d) s (maskOps [.k a] k d) k d (fun j => !bit a j)) ∧
     (s.canIssue .core .plain {} (maskOps [.s r false] k d) →
       GivesK (.kmov k r d) s (maskOps [.s r false] k d) k d (fun j => (s.x r).getLsbD j)) ∧
     (s.canIssue .core .plain {} [.k a, .k k] →
       GivesS (.kread k a q) s [.k a, .k k] q (m.setWidth 64) ∧
       GivesS (.kpopc k a q) s [.k a, .k k] q (BitVec.ofNat 64 ((List.range 16).countP (fun i => m.getLsbD i))) ∧
       (∃ c, c ≤ 16 ∧ (∀ i, i < c → m.getLsbD i = false) ∧ (c < 16 → m.getLsbD c = true) ∧
         GivesS (.kffs k a q) s [.k a, .k k] q (BitVec.ofNat 64 c))))

/-- 11 R304: permutes. VPERM reads any lane, a slide moves lanes by an amount modulo 32 and fills with zeros, a zip alternates
halves, VCOMPRESS and VEXPAND pack and spread the lanes the mask selects and write all 16 lanes, VEXTR reads one lane.
11 R305, R306: reductions over the active lanes, in ascending order, written to a scalar register; and the histogram,
which adds to bin `i` of the destination how many active lanes hold `i` in their low 4 bits. -/
def Obligations.PermuteResult : Prop :=
  (∀ (s : State) (n sc : Bool) (k : BitVec 3) (b a d : BitVec 5),
     let x := fun j => lane (s.vx a) j
     let y := second s sc b
     let y0 : Opnd := if sc then .s b false else .v b false
     let os := laneSources [.v a n, y0] k d false
     let R := fun (i : Instr) (f : Nat → BitVec 32) => GivesV i s os d 4 (underMask s k d f)
     let sel := (List.range 16).filter (fun j => (s.me.kval k.toNat).getLsbD j)
     let by_ := (y 0).toNat % 32
     (s.canIssue .core .plain {} os →
       R (.vperm n sc k b a d) (fun j => x ((y j).toNat % 16)) ∧
       R (.vslideup n sc k b a d) (fun j => if by_ ≤ j then x (j - by_) else 0) ∧
       R (.vslidedn n sc k b a d) (fun j => if j + by_ < 16 then x (j + by_) else 0) ∧
       R (.vziplo n sc k b a d) (fun j => if j % 2 = 0 then x (j / 2) else y (j / 2)) ∧
       R (.vziphi n sc k b a d) (fun j => if j % 2 = 0 then x (8 + j / 2) else y (8 + j / 2))) ∧
     (s.canIssue .core .plain {} [.v a n, .k k] →
       GivesV (.vcompress n k a d) s [.v a n, .k k] d 4 (fun j => ((sel[j]?).map x).getD 0) ∧
       GivesV (.vexpand n k a d) s [.v a n, .k k] d 4 (fun j =>
         if (s.me.kval k.toNat).getLsbD j then x ((List.range j).countP (fun i => (s.me.kval k.toNat).getLsbD i)) else 0)) ∧
     (s.canIssue .core .plain {} [.v a n, .s b false] →
       GivesS (.vextr n b a d) s [.v a n, .s b false] d ((x ((s.x b).toNat % 16)).setWidth 64))) ∧
  (∀ (s : State) (n : Bool) (k : BitVec 3) (a d : BitVec 5),
     let xs := ((List.range 16).filter (fun j => (s.me.kval k.toNat).getLsbD j)).map (fun j => lane (s.vx a) j)
     let R := fun (i : Instr) (v : Word) => GivesS i s [.v a n, .k k] d v
     (s.canIssue .core .plain {} [.v a n, .k k] →
       R (.vradd n k a d) (sx32 (xs.foldl (fun p q => p + q) 0)) ∧
       R (.vrmin n k a d) (sx32 (xs.foldl (fun p q => if p.toInt < q.toInt then p else q) 0x7FFFFFFF)) ∧
       R (.vrmax n k a d) (sx32 (xs.foldl (fun p q => if q.toInt < p.toInt then p else q) 0x80000000)) ∧
       R (.vrand n k a d) (sx32 (xs.foldl (fun p q => p &&& q) 0xFFFFFFFF)) ∧
       R (.vror n k a d) (sx32 (xs.foldl (fun p q => p ||| q) 0)) ∧
       R (.vrxor n k a d) (sx32 (xs.foldl (fun p q => p ^^^ q) 0)) ∧
       R (.vrfadd n k a d) (BitVec.ofNat 64 (fpResult (exSum (xs.map (fun x => f32 x.toNat))) 0 false 0).1) ∧
       R (.vrfmax n k a d) ((xs.foldl (fun p q => BitVec.ofNat 32 (fmaxCode p q)) 0xFF800000).setWidth 64)) ∧
     (s.canIssue .core .plain {} [.v a n, .k k, .v d false] →
       GivesV (.vhist n k a d) s [.v a n, .k k, .v d false] d 4 (fun i =>
         lane (s.vx d) i + BitVec.ofNat 32 (xs.countP (fun x => decide (x.toNat % 16 = i))))))

/-! ## Memory accesses of a thread (12; 05 R138 to R145) -/

/-- 12 R316, R317; 05 R138, R140, R141: a scalar load whose address checks, translation and taint wait have passed, at
address base + offset x size. Its bytes come from the region store buffer or a settled L1 copy (the register is written at
once, with empty taint), from an unsettled copy (written at once, the line's tag in its taint), or from its home (a LOAD
enters the FIFO under a free tag and the thread leaves rotation). No byte of memory changes.
12 R336: AMLD always asks the home, and takes no byte of the region store buffer. -/
def Obligations.ScalarLoadResult : Prop :=
  (∀ (s : State) (o : BitVec 10) (n : Bool) (b d : BitVec 5) (p : Place),
     let os : List Opnd := [.s b n]
     let L := fun (i : Instr) (bytes : Nat) (ext : Word → Word) =>
       let x : Access := { index := 0, addr := s.x b + o.signExtend 64 * BitVec.ofNat 64 bytes, width := bytes }
       s.access .read os os [x] = .ok [(x, p)] →
       (∀ v, s.way s.cur (x, p) false = .now v →
         Completes i s (fun t => RegFrame s t os (onlyReg d.toNat) noReg noReg s.me.run s.me.srseed ∧ Issued s t 4 ∧
           t.me.sval d.toNat = (if d = 0 then 0 else ext (BitVec.ofNat 64 v)) ∧ t.me.staint d.toNat = 0)) ∧
       (∀ v g, s.way s.cur (x, p) false = .unsettled v → s.me.freeTag = some g →
         Completes i s (fun t => t.mem = s.mem ∧ t.fifo = s.fifo ∧ Issued s t 4 ∧ t.me.run = s.me.run ∧
           t.me.sval d.toNat = (if d = 0 then 0 else ext (BitVec.ofNat 64 v)) ∧
           t.me.staint d.toNat = (if d = 0 then 0 else tagBit g) ∧
           NMap.get {} t.me.tags g = ⟨true, s.me.nextAge, 0, [(p.home, lineOf p.loc)], []⟩)) ∧
       (∀ g, s.way s.cur (x, p) false = .home → s.me.freeTag = some g →
         Completes i s (fun t => t.mem = s.mem ∧ Issued s t 4 ∧ t.me.run = .waiting .reply ∧
           t.fifo = s.fifo ++ [{ src := .thread s.cur, place := p, kind := .load bytes, tag := some g }] ∧
           NMap.get {} t.me.tags g = ⟨true, s.me.nextAge, 1, [], [(p.home, lineOf p.loc)]⟩))
     s.enterInstr .any .plain = .ok {} →
     L (.lb o n b d) 1 (fun v => (v.setWidth 8).signExtend 64) ∧ L (.lh o n b d) 2 (fun v => (v.setWidth 16).signExtend 64) ∧
     L (.lw o n b d) 4 (fun v => (v.setWidth 32).signExtend 64) ∧ L (.ld o n b d) 8 (fun v => v) ∧
     L (.lbu o n b d) 1 (fun v => v) ∧ L (.lhu o n b d) 2 (fun v => v) ∧ L (.lwu o n b d) 4 (fun v => v)) ∧
  (∀ (s : State) (z : BitVec 3) (n : Bool) (a d : BitVec 5) (p : Place) (g : Nat),
     let w := 2 ^ (z.toNat % 4)
     let x : Access := { index := 0, addr := s.x a, width := w }
     s.enterInstr .core .plain = .ok {} → (s.x a).toNat / 2 ^ 60 ≠ 12 → s.access .read [.s a n] [.s a n] [x] = .ok [(x, p)] →
     s.me.freeTag = some g →
       Completes (.amld z n a d) s (fun t => t.mem = s.mem ∧ Issued s t 4 ∧ t.me.run = .waiting .reply ∧
         t.fifo = s.fifo ++ [{ src := .thread s.cur, place := p, kind := .load w, tag := some g }] ∧
         t.me.inflight = some ⟨some g, .scalar d.toNat w (decide (z.toNat < 3)), [⟨0, p, w, false, none⟩]⟩))

/-- 12 R316; 05 R142: a scalar store of the low bytes of `d` at base + offset x size. In space 0x0 it goes to the region store
buffer: into the slot of its line, or a new slot while fewer than 32 are in use. In another space it goes to its home's FIFO
and counts as outstanding. No byte of memory changes yet.
05 R142, R144, R147: the stores of one instruction. Whatever is stored, memory keeps every byte. Where the accesses `zs`
need no overflow drain: those outside space 0x0 (and all of an AMST's) append one STORE each to the FIFO, in the order of the
accesses, with the mask and the bytes of their own value, and count as outstanding; those in space 0x0 put their bytes into the slot
of their line, a later access over an earlier one. -/
def Obligations.ScalarStoreResult : Prop :=
  (∀ (s : State) (o : BitVec 10) (m n : Bool) (b d : BitVec 5) (p : Place),
     let os : List Opnd := [.s b n, .s d m]
     let S := fun (i : Instr) (bytes : Nat) =>
       let a : Word := s.x b + o.signExtend 64 * BitVec.ofNat 64 bytes
       let x : Access := { index := 0, addr := a, width := bytes }
       let mask := byteMask (p.loc % 128) bytes
       let data := placeData (p.loc % 128) ((s.x d).toNat % 256 ^ bytes)
       s.access .write os os [x] = .ok [(x, p)] →
       (a.toNat < 2 ^ 60 → (s.me.slotFor (lineOf p.loc)).isSome →
         Completes i s (fun t => t.mem = s.mem ∧ t.fifo = s.fifo ∧ Issued s t 4 ∧ t.me.rsb = s.me.rsb.map (fun c =>
           if c.line = lineOf p.loc then { c with mask := c.mask ||| mask, data := overlayLine mask data c.data, also := c.joined p } else c))) ∧
       (a.toNat < 2 ^ 60 → s.me.slotFor (lineOf p.loc) = none → s.me.rsb.length < 32 →
         Completes i s (fun t => t.mem = s.mem ∧ t.fifo = s.fifo ∧ Issued s t 4 ∧
           t.me.rsb = s.me.rsb ++ [⟨lineOf p.loc, p, mask, data, []⟩])) ∧
       (a.toNat < 2 ^ 60 → s.me.slotFor (lineOf p.loc) = none → 32 ≤ s.me.rsb.length →
         Completes i s (fun t => t.mem = s.mem ∧ t.fifo = s.fifo ++ drainReqs s.cur s.me.rsb ∧ Issued s t 4 ∧
           t.me.rsb = [⟨lineOf p.loc, p, mask, data, []⟩] ∧ t.me.pin = true ∧
           t.me.storeCount = s.me.storeCount + s.me.rsb.length)) ∧
       (2 ^ 60 ≤ a.toNat →
         Completes i s (fun t => t.mem = s.mem ∧ Issued s t 4 ∧ t.me.rsb = s.me.rsb ∧
           t.fifo = s.fifo ++ [{ src := .thread s.cur, place := p, kind := .store mask data }] ∧
           t.me.storeCount = s.me.storeCount + 1))
     s.enterInstr .any .plain = .ok {} →
     S (.sb o m n b d) 1 ∧ S (.sh o m n b d) 2 ∧ S (.sw o m n b d) 4 ∧ S (.sd o m n b d) 8) ∧
  (∀ (s : State) (t : Nat) (z : Access × Place) (direct : Bool) (v : Nat),
     (s.storeOne t z direct v).mem = s.mem ∧
     (∀ os zs, (s.issueStore os zs direct (fun _ => v)).mem = s.mem) ∧
     (z.1.addr.toNat < 2 ^ 60 → direct = false → ∃ c ∈ ((s.storeOne t z direct v).thread t).rsb, c.line = lineOf z.2.loc ∧
       (∀ i, i < z.1.width → z.2.loc % 128 + z.1.width ≤ 128 → c.mask.getLsbD (z.2.loc % 128 + i) = true)) ∧
     (∀ (os : List Opnd) (zs : List (Access × Place)) (val : Nat → Nat), s.me.rsb.length + zs.length ≤ 32 →
       let u := s.issueStore os zs direct val
       let out := zs.filter (fun y => direct || decide (2 ^ 60 ≤ y.1.addr.toNat))
       u.fifo = s.fifo ++ out.map (fun y => ⟨.thread s.cur, y.2, .store (byteMask (y.2.loc % 128) y.1.width)
         (placeData (y.2.loc % 128) (val y.1.index % 256 ^ y.1.width)), none, 0, false, []⟩) ∧
       u.me.storeCount = s.me.storeCount + out.length ∧ Issued s u 4 ∧
       (∀ (first later : List (Access × Place)) (y : Access × Place), zs = first ++ y :: later → direct = false →
         y.1.addr.toNat < 2 ^ 60 → y.2.loc % 128 + y.1.width ≤ 128 →
         (∀ q ∈ later, q.1.addr.toNat < 2 ^ 60 → lineOf q.2.loc ≠ lineOf y.2.loc ∨ q.2.loc + q.1.width ≤ y.2.loc ∨
           y.2.loc + y.1.width ≤ q.2.loc) →
         ∃ c, u.me.slotFor (lineOf y.2.loc) = some c ∧ (∀ i, i < y.1.width → c.mask.getLsbD (y.2.loc % 128 + i) = true) ∧
           lineField c.data (y.2.loc % 128) y.1.width = val y.1.index % 256 ^ y.1.width)))

/-- 12 R319, R320: LDM and STM access `c + 1` consecutive doublewords. Where the checks pass: STM is that many stores in
ascending order; an LDM whose words are all known at once writes that many consecutive registers, under the taint of one tag
where a line is not settled; one of whose words some come from their homes asks for those under one tag. -/
def Obligations.MultipleResult : Prop :=
  ∀ (s : State) (o : BitVec 10) (c : BitVec 3) (n : Bool) (b d : BitVec 5) (zs : List (Access × Place)),
    let a : Word := s.x b + o.signExtend 64 * 8
    let xs : List Access := (List.range (c.toNat + 1)).map (fun i => { index := i, addr := a + BitVec.ofNat 64 (8 * i), width := 8 })
    s.enterInstr .any .plain = .ok {} → d.toNat + c.toNat ≤ 31 →
    (let os : List Opnd := .s b n :: (List.range (c.toNat + 1)).map (fun i => .s (BitVec.ofNat 5 (d.toNat + i)) false)
     s.access .write os os xs = .ok zs →
       Completes (.stm o c n b d) s (fun t =>
         t = s.issueStore os zs false (fun i => (s.me.sval (d.toNat + i)).toNat) ∧ t.mem = s.mem)) ∧
    (s.access .read [.s b n] [.s b n] xs = .ok zs →
      (∀ (vs : Nat → Nat) (g : Nat), s.known zs vs → (s.settledWays zs = true ∨ s.me.freeTag = some g) →
        Completes (.ldm o c n b d) s (fun t => t.mem = s.mem ∧ t.fifo = s.fifo ∧ Issued s t 4 ∧ t.me.run = s.me.run ∧
          ∀ i, i ≤ c.toNat → d.toNat + i ≠ 0 → t.me.sval (d.toNat + i) = BitVec.ofNat 64 (vs i) ∧
            t.me.staint (d.toNat + i) = if s.settledWays zs then 0 else tagBit g)) ∧
      AsksHomes (.ldm o c n b d) s zs)

/-- 11 R307, R308, R309, R315: vector loads. The lanes that the mask selects are accessed in ascending order. Where every one
of them is known at once the selected lanes take their bytes, zero-extended, and the others stay; where some come from
their homes, a LOAD for each of those enters the FIFO under one tag and the thread leaves rotation; with no lane selected
only the pc moves. VLDBC makes one access for all lanes outside the lane slices; VLDB reads the bytes of a chunk of its format. -/
def Obligations.VectorLoadResult : Prop :=
  ∀ (s : State) (e : BitVec 2) (k : BitVec 3) (x a d : BitVec 5) (zs : List (Access × Place)),
    let w := 2 ^ e.toNat
    let lanes := fun (addr : Nat → Word) => (List.range 16).filterMap (fun j =>
      if (s.me.kval k.toNat).getLsbD j then some ({ index := j, addr := addr j, width := w, lane := some j } : Access) else none)
    let L := fun (i : Instr) (ops : List Opnd) (xs : List Access) (one : Bool) =>
      let os := laneSources ops k d false
      s.access .read os (ops ++ [.k k]) xs = .ok zs →
      (s.me.kval k.toNat = 0 →
        Completes i s (fun t => RegFrame s t os noReg noReg noReg s.me.run s.me.srseed ∧ Issued s t 4)) ∧
      (s.me.kval k.toNat ≠ 0 → ∀ (vs : Nat → Nat) (g : Nat), s.known zs vs → (s.settledWays zs = true ∨ s.me.freeTag = some g) →
        Completes i s (fun t => t.mem = s.mem ∧ t.fifo = s.fifo ∧ Issued s t 4 ∧ t.me.run = s.me.run ∧
          (∀ j, j < 16 → lane (t.me.vval d.toNat) j = underMask s k d (fun j => BitVec.ofNat 32 (vs (if one then 0 else j))) j) ∧
          t.me.vtaint d.toNat = (if s.settledWays zs then 0 else tagBit g) ||| (if k = 0 then 0 else s.me.vtaint d.toNat) ∧
          (∀ r, r ≠ d.toNat → t.me.vval r = s.me.vval r) ∧ (∀ r, t.me.sval r = s.me.sval r))) ∧
      (s.me.kval k.toNat ≠ 0 → AsksHomes i s zs)
    (s.enterInstr .core .plain = .ok {} →
      L (.vld e k a d) [.s a false] (lanes (fun j => s.x a + BitVec.ofNat 64 (j * w))) false ∧
      L (.vlds e k x a d) [.s a false, .s x false] (lanes (fun j => s.x a + BitVec.ofNat 64 j * s.x x)) false ∧
      L (.vgather e k x a d) [.s a false, .v x false]
        (lanes (fun j => s.x a + (lane (s.vx x) j).signExtend 64 * BitVec.ofNat 64 w)) false ∧
      ((s.x a).toNat / 2 ^ 60 = 12 → L (.vldbc e k a d) [.s a false] (lanes (fun _ => s.x a)) false) ∧
      ((s.x a).toNat / 2 ^ 60 ≠ 12 → L (.vldbc e k a d) [.s a false]
        (if s.me.kval k.toNat = 0 then [] else [{ index := 0, addr := s.x a, width := w }]) true)) ∧
    (∀ f : Mode, s.enterInstr .core .vldb = .ok f → d.toNat + groupRegs (chunkBytes f.fa) ≤ 32 → (s.x a).toNat / 2 ^ 60 ≠ 12 →
      s.access .read [.s a false] [.s a false] ((List.range (chunkBytes f.fa)).map (fun i =>
        { index := i, addr := s.x a + BitVec.ofNat 64 (i * 1), width := 1 })) = .ok zs →
      (∀ (vs : Nat → Nat) (g : Nat), s.known zs vs → (s.settledWays zs = true ∨ s.me.freeTag = some g) →
        Completes (.vldb a d) s (fun t => t.mem = s.mem ∧ t.fifo = s.fifo ∧ Issued s t 4 ∧
          ∀ i, i < chunkBytes f.fa → (∀ j, vs j < 256) →
            (t.me.vval (d.toNat + i / 64)).toNat / 256 ^ (i % 64) % 256 = vs i)) ∧
      AsksHomes (.vldb a d) s zs)

/-- 11 R307, R295; 05 R142, R144: vector stores and AMST. The selected lanes are stored in ascending order, each the low bytes of
its lane, as ScalarStoreResult says of `issueStore`; the thread leaves its barrel slot; AMST stores one value, past the region store buffer (12 R336). No byte of memory changes yet. -/
def Obligations.VectorStoreResult : Prop :=
  ∀ (s : State) (e : BitVec 2) (k : BitVec 3) (x a d : BitVec 5) (zs : List (Access × Place)),
    let w := 2 ^ e.toNat
    let lanes := fun (addr : Nat → Word) => (List.range 16).filterMap (fun j =>
      if (s.me.kval k.toNat).getLsbD j then some ({ index := j, addr := addr j, width := w, lane := some j } : Access) else none)
    let S := fun (i : Instr) (ops : List Opnd) (xs : List Access) =>
      let os := ops ++ [.k k, .v d false]
      s.access .write os os xs = .ok zs →
        Completes i s (fun t => t = (s.issueStore os zs false (fun j => (lane (s.vx d) j).toNat)).requeue s.cur ∧ t.mem = s.mem ∧ Issued s t 4)
    s.enterInstr .core .plain = .ok {} →
    S (.vst e k a d) [.s a false] (lanes (fun j => s.x a + BitVec.ofNat 64 (j * w))) ∧
    S (.vsts e k x a d) [.s a false, .s x false] (lanes (fun j => s.x a + BitVec.ofNat 64 j * s.x x)) ∧
    S (.vscatter e k x a d) [.s a false, .v x false]
      (lanes (fun j => s.x a + (lane (s.vx x) j).signExtend 64 * BitVec.ofNat 64 w)) ∧
    (∀ (z : BitVec 2) (m n : Bool) (b : BitVec 5) (p : Place),
      let y : Access := { index := 0, addr := s.x a, width := 2 ^ z.toNat }
      (s.x a).toNat / 2 ^ 60 ≠ 12 → s.access .write (rrOps m n b a) (rrOps m n b a) [y] = .ok [(y, p)] →
        Completes (.amst z m n b a) s (fun t => t.mem = s.mem ∧ Issued s t 4 ∧ t.me.rsb = s.me.rsb ∧
          t.me.storeCount = s.me.storeCount + 1 ∧
          t.fifo = s.fifo ++ [⟨.thread s.cur, p, .store (byteMask (p.loc % 128) (2 ^ z.toNat))
            (placeData (p.loc % 128) ((s.x b).toNat % 256 ^ (2 ^ z.toNat))), none, 0, false, []⟩]))

/-- 12 R321, R336; 05 R143, R146: atomics. Where the address checks pass, the operation is not one that an `mc` above 1
forbids, the thread bears no cancel mark, no operand is tainted, the address is translated and a tag is free, the issue step
is a commit point and then an ATOMIC under that tag; a posted AMOP (`d` = 0) takes none and stays in rotation.
05 R143, R146: the issue step of an atomic, for a thread with no pending children and no TCONS holds. Its buffered stores
enter the FIFOs in slot order and its ATOMIC after them; a region begins past it; one tag waits for one reply, and the store
count takes the atomic; no byte of memory changes. -/
def Obligations.AtomicResult : Prop :=
  (∀ (s : State) (z m n : Bool) (b a d : BitVec 5) (p : Place) (p? : Option Place) (g : Nat),
     let x : Access := { index := 0, addr := s.x a, width := if z then 8 else 4 }
     let A := fun (i : Instr) (op : AtomOp) (amop : Bool) (os : List Opnd) =>
       s.readyOne .rmw os os x p? = .ok p →
       let kind := ReqKind.atomic op z (s.x b) (s.x d) s.me.mc
       (((amop = false) ∨ d ≠ 0) → s.me.freeTag = some g → exec i s = .next (s.issueAtomic os p kind x.width d z g)) ∧
       (amop = true → d = 0 → exec i s = .next (s.issuePosted os p kind))
     let os := rrOps m n b a
     s.enterInstr .core .plain = .ok {} → s.checkOne x = .ok p? → s.me.cancel = false →
     (A (.aadd z m n b a d) .aadd false os ∧ A (.afadd z m n b a d) .afadd false os ∧ A (.amin z m n b a d) .amin false os ∧
      A (.amax z m n b a d) .amax false os ∧ A (.aminu z m n b a d) .aminu false os ∧ A (.amaxu z m n b a d) .amaxu false os ∧
      A (.aand z m n b a d) .aand false os ∧ A (.aor z m n b a d) .aor false os ∧ A (.axor z m n b a d) .axor false os ∧
      (s.me.mc ≤ 1 → A (.aswap z m n b a d) .aswap false os ∧ A (.acas z m n b a d) .acas false (os ++ [.s d false]))) ∧
     ((s.x a).toNat / 2 ^ 60 ≠ 12 →
      A (.amopAadd z m n b a d) .aadd true os ∧ A (.amopAfadd z m n b a d) .afadd true os ∧ A (.amopAmin z m n b a d) .amin true os ∧
      A (.amopAmax z m n b a d) .amax true os ∧ A (.amopAminu z m n b a d) .aminu true os ∧ A (.amopAmaxu z m n b a d) .amaxu true os ∧
      A (.amopAand z m n b a d) .aand true os ∧ A (.amopAor z m n b a d) .aor true os ∧ A (.amopAxor z m n b a d) .axor true os ∧
      (s.me.mc ≤ 1 → A (.amopAswap z m n b a d) .aswap true os ∧ A (.amopAcas z m n b a d) .acas true (os ++ [.s d false])))) ∧
  (∀ (s : State) (os : List Opnd) (p : Place) (kind : ReqKind) (bytes : Nat) (d : BitVec 5) (dbl : Bool) (g : Nat),
     s.me.children = [] → s.me.tcons = [] →
     let t := s.issueAtomic os p kind bytes d dbl g
     let u := s.issuePosted os p kind
     t.fifo = s.fifo ++ drainReqs s.cur s.me.rsb ++ [{ src := .thread s.cur, place := p, kind := kind, tag := some g }] ∧
     t.me.rsb = [] ∧ t.me.storeCount = s.me.storeCount + s.me.rsb.length + 1 ∧ t.me.run = .waiting .reply ∧
     t.me.pc = s.me.pc + 4 ∧ t.me.regpc = (s.me.pc + 4) &&& ~~~1#64 ∧ t.me.pin = s.me.hflag ∧ t.mem = s.mem ∧
     NMap.get {} t.me.tags g = ⟨true, s.me.nextAge, 1, [], [(p.home, lineOf p.loc)]⟩ ∧
     t.me.inflight = some ⟨some g, .atomic d.toNat true dbl, [⟨0, p, bytes, false, none⟩]⟩ ∧
     u.fifo = s.fifo ++ drainReqs s.cur s.me.rsb ++ [{ src := .thread s.cur, place := p, kind := kind, posted := true }] ∧
     u.me.storeCount = s.me.storeCount + s.me.rsb.length + 1 ∧ u.me.pc = s.me.pc + 4 ∧ u.mem = s.mem ∧
     (s.me.releasing = [] → s.waitsForWay p = false → u.me.run = s.me.run))

/-- 06 R159, R161, R163; 12 R324, R325; 09 R267: FENCE, TCLR, TJOIN, TWAIT and FMT. A FENCE of stores at device scope or wider
first drains the buffered stores; its pc moves on where its condition holds, and else it waits. TCLR empties a taint set and keeps the value;
TJOIN keeps the value of `d` and gives it the union of both taints; TWAIT moves on once the taint is empty; FMT leaves its
fields pending for the next instruction. -/
def Obligations.FenceAndTaintResult : Prop :=
  ∀ (s : State), s.enterInstr .core .plain = .ok {} →
    (∀ (sc : BitVec 2) (k : BitVec 4),
      let drains := (k &&& 12#4) ≠ 0 ∧ 2 ≤ sc.toNat ∧ s.me.rsb ≠ []
      (¬ drains → s.fenceHolds s.cur k sc.toNat = true →
        Completes (.fence sc k) s (fun t => RegFrame s t [] noReg noReg noReg s.me.run s.me.srseed ∧ Issued s t 4)) ∧
      (drains → (s.overflowDrain s.cur).fenceHolds s.cur k sc.toNat = true →
        Completes (.fence sc k) s (fun t => t.fifo = s.fifo ++ drainReqs s.cur s.me.rsb ∧ t.me.rsb = [] ∧ t.me.pin = true ∧
          t.me.s = s.me.s ∧ t.mem = s.mem ∧ Issued s t 4)) ∧
      (¬ drains → s.fenceHolds s.cur k sc.toNat = false → Completes (.fence sc k) s (fun t => t.me.run = .waiting (.fence k sc) ∧
        t.me.pc = s.me.pc ∧ t.me.s = s.me.s ∧ t.fifo = s.fifo ∧ t.mem = s.mem)) ∧
      (drains → (s.overflowDrain s.cur).fenceHolds s.cur k sc.toNat = false → Completes (.fence sc k) s (fun t =>
        t.me.run = .waiting (.fence k sc) ∧ t.me.pc = s.me.pc ∧ t.fifo = s.fifo ++ drainReqs s.cur s.me.rsb ∧ t.me.rsb = [] ∧
        t.me.s = s.me.s ∧ t.mem = s.mem))) ∧
    (∀ (d : BitVec 5),
      Completes (.tclr false d) s (fun t => t.me.sval d.toNat = s.me.sval d.toNat ∧ t.me.staint d.toNat = 0 ∧
        (∀ r, r ≠ d.toNat → t.me.sval r = s.me.sval r ∧ t.me.staint r = s.me.staint r) ∧ t.me.v = s.me.v ∧ t.mem = s.mem ∧ Issued s t 4) ∧
      Completes (.tclr true d) s (fun t => t.me.vval d.toNat = s.me.vval d.toNat ∧ t.me.vtaint d.toNat = 0 ∧
        (∀ r, r ≠ d.toNat → t.me.vval r = s.me.vval r ∧ t.me.vtaint r = s.me.vtaint r) ∧ t.me.s = s.me.s ∧ t.mem = s.mem ∧ Issued s t 4)) ∧
    (∀ (w n : Bool) (a d : BitVec 5),
      let src : Opnd := if w then .v a n else .s a n
      (spilledOf s.me [src, .s d false] = none → GivesS (.tjoin w false n a d) s [src, .s d false] d (s.x d)) ∧
      (spilledOf s.me [src, .v d false] = none →
        GivesV (.tjoin w true n a d) s [src, .v d false] d 4 (fun j => lane (s.vx d) j)) ∧
      (spilledOf s.me [src] = none → taintOf s.me [src] = 0 →
        Completes (.twait w n a) s (fun t => RegFrame s t [src] noReg noReg noReg s.me.run s.me.srseed ∧ Issued s t 4))) ∧
    (∀ (sat : Bool) (r : BitVec 3) (d b a : BitVec 5),
      Completes (.fmt sat r d b a) s (fun t => t.me.pc = s.me.pc + 4 ∧ t.me.pfx = true ∧
        Mode.ofPrefix t.me.fmtpend = ⟨a.toNat, b.toNat, d.toNat, r.toNat, sat⟩ ∧ t.me.s = s.me.s ∧ t.me.v = s.me.v ∧ t.mem = s.mem))

/-- 12 R326 to R332; 06 R169: barriers and channels. A barrier's issue step is a commit point after which the thread waits to
be Drained, with its arrival pending; a CHSEND, once its stores are settled, puts its word into the channel's FIFO or hands
it to the first waiting receiver; a CHRECV takes the oldest word. Of two that meet one record in a cycle the lower core, then the
lower context, comes first; a thread that comes too late for that tries again, the state as it was (log entry 85, DESIGN CHOICE).
12 R326, R327: a Drained thread at a barrier registers its arrival with `mc` as it stands and parks while a member has not
arrived; with the last member's arrival every arrived thread goes on past its instruction, with the barrier's result in the
destination of an arrival that has one. -/
def Obligations.BarrierAndChannelResult : Prop :=
  (∀ (s : State) (n m z : Bool) (a b d : BitVec 5), s.enterInstr .core .plain = .ok {} →
     (groupLegal s.me.rect (coreOf s.cur) (s.x a) = true → s.me.cancel = false →
       let arr := fun (kind : Nat) (dbl : Bool) (v : Word) (d : Nat) (unmap : List (BitVec 5)) =>
         ({ launch := s.me.launch, group := s.x a, t := s.cur, kind := kind, dbl := dbl, d := d, val := v, mc := s.me.mc,
            unmap := unmap } : Arrival)
       let W := fun (i : Instr) (os : List Opnd) (x : Arrival) =>
         exec i s = .next (((s.reads os).beginCommit (.barrier x)).awaitDrained s.cur)
       (spilledOf s.me [.s a n] = none → W (.bar n a) [.s a n] (arr 0 false (s.x 0) 0 (if n then [a] else []))) ∧
       (spilledOf s.me [.s a n, .s b m] = none →
         W (.baradd z m n b a d) [.s a n, .s b m] (arr 1 z (s.x b) d.toNat ((if n then [a] else []) ++ (if m then [b] else []))) ∧
         W (.barfadd m n b a d) [.s a n, .s b m] (arr 2 false (s.x b) d.toNat ((if n then [a] else []) ++ (if m then [b] else []))))) ∧
     (channelLegal s.me.rect (s.x a) = true →
       let cl := channelCluster (s.x a)
       let chan := (s.x a).toNat % 64
       let late := fun (sending : Bool) => s.tieOk (.chan cl s.me.launch chan sending) s.cur = false
       ∀ i, (s.cluster cl).channel s.me.launch chan = some i →
         (late true → s.me.rsb = [] → s.me.storeCount = 0 → spilledOf s.me (rrOps m n b a) = none → taintOf s.me (rrOps m n b a) = 0 →
           exec (.chsend m n b a) s = .next s) ∧
         (late false → spilledOf s.me [.s a n] = none → taintOf s.me [.s a n] = 0 → exec (.chrecv n a d) s = .next s) ∧
         ((∀ sending, ¬ late sending) →
         let r := (s.cluster cl).record i s.me.launch chan
         (s.me.rsb = [] → s.me.storeCount = 0 → r.fifo.length < 8 → spilledOf s.me (rrOps m n b a) = none → taintOf s.me (rrOps m n b a) = 0 →
           (r.recvs = [] → Completes (.chsend m n b a) s (fun t => Issued s t 4 ∧ t.mem = s.mem ∧
             (NMap.get {} (t.cluster cl).chans i).fifo = r.fifo ++ [s.x b] ∧
             (NMap.get {} (t.cluster cl).chans i).last = some s.cur)) ∧
           (∀ w ws, r.recvs = w :: ws → w.t ≠ s.cur →
             Completes (.chsend m n b a) s (fun t => Issued s t 4 ∧ (t.thread w.t).sval w.d = if w.d = 0 then 0 else s.x b))) ∧
         (∀ v vs, r.fifo = v :: vs → r.sends = [] → spilledOf s.me [.s a n] = none → taintOf s.me [.s a n] = 0 →
           Completes (.chrecv n a d) s (fun t => Issued s t 4 ∧ t.mem = s.mem ∧ t.me.sval d.toNat = (if d = 0 then 0 else v) ∧
             (NMap.get {} (t.cluster cl).chans i).fifo = vs)) ∧
         (∀ v vs w ws, r.fifo = v :: vs → r.sends = w :: ws → r.recvs = [] → w.t ≠ s.cur → spilledOf s.me [.s a n] = none →
           taintOf s.me [.s a n] = 0 →
           Completes (.chrecv n a d) s (fun t => Issued s t 4 ∧ t.mem = s.mem ∧ t.me.sval d.toNat = (if d = 0 then 0 else v) ∧
             (NMap.get {} (t.cluster cl).chans i).fifo = vs ++ [w.word] ∧ (NMap.get {} (t.cluster cl).chans i).sends = ws ∧
             (t.thread w.t).pc = (s.thread w.t).pc + 4))))) ∧
  (∀ (s : State) (u : Nat) (a : Arrival), (s.thread u).stage = some (.barrier a) → (s.thread u).run = .waiting .drained →
     (s.thread u).drained = true → a.t = u →
     let cl := groupHome a.group
     (s.cluster cl).withdrawn = [] →
     let mine := (s.cluster cl).arrivals.filter (fun b => b.launch = a.launch && b.group = a.group)
     let as := mine ++ [{ a with mc := (s.thread u).mc }]
     (∀ v, v ∈ s.members a.launch a.group → v ≠ u → v ∉ mine.map (·.t) →
       Completes (.barrierArrival u) s (fun t => (t.thread u).run = .parked .barrier ∧ (t.thread u).pc = (s.thread u).pc ∧ t.mem = s.mem ∧
         (t.cluster cl).arrivals = (s.cluster cl).arrivals ++ [{ a with mc := (s.thread u).mc }])) ∧
     (s.savedMember a.launch a.group = false → (∀ v ∈ s.members a.launch a.group, v = u ∨ v ∈ mine.map (·.t)) →
       (as.map (·.t)).Nodup → (∀ b ∈ as, b.unmap = [] ∧ (s.thread b.t).releasing = [] ∧ (s.thread b.t).run ≠ .waiting .preempt) →
       Completes (.barrierArrival u) s (fun t => t.mem = s.mem ∧
         (t.cluster cl).arrivals = (s.cluster cl).arrivals.filter (fun b => !(b.launch = a.launch && b.group = a.group)) ∧
         ∀ b ∈ as, (t.thread b.t).run = .ready ∧ (t.thread b.t).pc = (s.thread b.t).pc + 4 ∧
           (b.kind ≠ 0 → (t.thread b.t).sval b.d = if b.d = 0 then 0 else barrierResult as b))))

/-! ## Narrow groups (11), threads, meets and tasks (07, 14, 16) -/

/-- 11 R311 to R314: VQNT encodes the 96 elements of a chunk as blocks, VDQNT decodes them and rounds, VDOT adds a chunk's dot
product to lane 0. A group is written whole, zero past its bytes, with the union of the sources' taint. The sign of a zero sum of
products is log entry 66 (DEDUCED). -/
def Obligations.NarrowResult : Prop :=
  ∀ (s : State) (n : Bool) (a b d : BitVec 5) (f : Mode),
    let na := groupRegs (chunkBytes f.fa)
    let nd := groupRegs (chunkBytes f.fd)
    let os := groupOps a na n
    let xs := (List.range 96).map (fun j => elemOf f.fa (s.groupBytes a (chunkBytes f.fa)) j)
    let G := fun (i : Instr) (bs : List Nat) (seed : BitVec 32) (late : Nat) =>
      Completes i s (fun t => Issued s t 4 ∧
        RegFrame s t os noReg (fun r => decide (d.toNat ≤ r ∧ r < d.toNat + nd)) noReg (.waiting (.latency (s.cycle + late))) seed ∧
        ∀ q, q < nd → t.me.vval (d.toNat + q) = BitVec.ofNat 512 (bytesToNat ((bs.drop (64 * q)).take 64)) ∧
          t.me.vtaint (d.toNat + q) = taintOf s.me os)
    (a.toNat + na ≤ 32 → d.toNat + nd ≤ 32 → spilledOf s.me os = none →
      (s.enterInstr .core .vqnt = .ok f →
        let r := quantBlocks f.fd f.rnd (runsOf (blockElems f.fd) (96 / blockElems f.fd) xs) s.me.srseed
        G (.vqnt n a d) r.1 r.2 32) ∧
      (s.enterInstr .core .vdqnt = .ok f →
        let r := convertAll (fmtOf f.fd) f.rnd f.sat xs s.me.srseed
        G (.vdqnt n a d) (r.1.flatMap (codeBytes (fmtBytes f.fd))) r.2 12)) ∧
    (let ma := groupRegs (dotBytes f.fa)
     let mb := groupRegs (dotBytes f.fb)
     let os := groupOps a ma n ++ groupOps b mb false ++ [.v d false]
     s.enterInstr .core .dot = .ok f → a.toNat + ma ≤ 32 → b.toNat + mb ≤ 32 → spilledOf s.me os = none →
       let len := chunkLen f.fa
       let r := chunkDot (lane (s.vx d) 0).toNat ((List.range len).map (fun j => elemOf f.fa (s.groupBytes a (dotBytes f.fa)) j))
         ((List.range len).map (fun j => elemOf f.fb (s.groupBytes b (dotBytes f.fb)) j))
       Completes (.vdot n b a d) s (fun t => WroteV s t os d (fun j => if j = 0 then BitVec.ofNat 32 r else lane (s.vx d) j) 4
         (.waiting (.latency (s.cycle + 12))) s.me.srseed))

/-- 05 R146, 18 R427, R428: the issue step of a commit point, for a thread with no pending children and no TCONS holds. Each
slot of its region store buffer becomes a STORE in slot order, and the buffer is empty; a region begins at `pc`, pinned
exactly in a trap handler, with a checkpoint of the registers and CSRs as they stand; memory and every other thread keep what
they have. -/
def Obligations.CommitPointEffect : Prop :=
  ∀ (s : State) (pc : Word), s.me.children = [] → s.me.tcons = [] →
    let t := s.commitPoint s.cur pc
    t.fifo = s.fifo ++ drainReqs s.cur s.me.rsb ∧ t.me.rsb = [] ∧ t.me.storeCount = s.me.storeCount + s.me.rsb.length ∧
    t.me.regpc = pc &&& ~~~1#64 ∧ t.me.pin = s.me.hflag ∧
    t.me.ckpt = ⟨s.me.s, s.me.v, s.me.k, s.me.mc, s.me.srseed, s.me.bsrd, s.me.bswr, s.me.bsacc, s.me.fmtpend, s.me.pfx⟩ ∧
    t.me.s = s.me.s ∧ t.me.v = s.me.v ∧ t.me.k = s.me.k ∧ t.me.pc = s.me.pc ∧ t.me.run = s.me.run ∧ t.mem = s.mem ∧
    (∀ u, u ≠ s.cur → t.thread u = s.thread u) ∧
    (∀ l ∈ t.launches, l.num = s.me.launch → l.progress = s.cycle ∧ l.level = 0)

/-- 14 R367, R368, R369, R373, R374; 07 R198: FORK, MEET, MEET.C, DONE, TASKEND and COMMIT. FORK adds a pending child that
starts at the next block with the parent's registers, their taint empty, and 1 in `s[p]`, where the parent keeps 0; each tile handle it takes
counts once more. MEET, MEET.C, DONE and TASKEND, once the registers they read (a MEET's live state, a task's results) are in the physical file
(R193), drain and wait to be Drained, the pc still at the instruction; COMMIT is a
commit point and nothing more.
07 R198, R199; 14 R367: a commit point releases the pending child of a thread into the lowest-numbered free context of its
core: it starts at the block after the FORK with the registers it took, of the parent's launch.
14 R369, R373, R401; 13 R337, R346: the second half of DONE and TASKEND. The thread waits until it is Drained; then its task, if it has one,
is reported: the count, and where the launch has a result ring an entry with the results, the core and context, and the number last.
Its handles are unbound, its accumulators given up, its context is free; nothing else of a thread changes. The launch goes on while a
thread of it is left; it ends with its record in the step in which the last has ended and no record and no command of it remains. -/
def Obligations.ThreadControlResult : Prop :=
  (∀ (s : State) (p q : BitVec 5) (w : BitVec 12),
     (s.enterInstr .userContext .plain = .ok {} → s.me.children.length < 8 → s.me.loadsSettled = true →
       let k := coreOf s.cur
       let c := s.me.child p.toNat (s.core k).nextId s.cycle
       let x : Thread := { s.me with s := c.s, v := c.v, k := c.k }
       Completes (.fork p) s (fun t => Issued s t 4 ∧ t.mem = s.mem ∧
         t.me.children.map Child.held = (s.me.children ++ [c]).map Child.held ∧ c.pc = nextBlock s.me.pc ∧
         (∀ r, r ≠ p.toNat → t.me.sval r = s.me.sval r ∧ x.sval r = s.me.sval r) ∧ t.me.sval p.toNat = 0 ∧
         x.sval p.toNat = (if p = 0 then 0 else 1) ∧ (∀ r, t.me.vval r = s.me.vval r ∧ x.vval r = s.me.vval r) ∧
         (∀ r, x.staint r = 0 ∧ x.vtaint r = 0 ∧ x.ktaint r = 0) ∧ c.k = restoreK 0 s.me.k ∧ c.mc = s.me.mc ∧
         c.srseed = s.me.srseed ∧ c.handles = s.me.handles ∧ c.sv = s.me.sv ∧ c.prio = s.me.prio ∧
         ∀ e, (t.tile k e).refs = (s.tile k e).refs + (s.me.handles.filter (fun h => decide (h.2 = some e))).length)) ∧
     (s.enterInstr .userContext .plain = .ok {} → s.me.cancel = false →
       let wait := fun (os : List Opnd) (st : Stage) => ((s.reads os).beginCommit st).awaitDrained s.cur
       let one := meetRegs s.me false p 0
       let two := meetRegs s.me true p q
       ((s.x p).toNat < 2 ^ 46 → spilledOf s.me one = none → exec (.meet w p) s = .next (wait one (.meet false p.toNat 0 w.toNat))) ∧
       ((s.x p).toNat < 2 ^ 46 → groupLegal s.me.rect (coreOf s.cur) (s.x q) = true → field (s.x q) 14 12 ≤ 2 → field (s.x q) 17 15 ≤ 2 →
         spilledOf s.me two = none → exec (.meetC w q p) s = .next (wait two (.meet true p.toNat q.toNat w.toNat))) ∧
       ((s.me.task = true → spilledOf s.me ((List.range 6).map (fun i => .s (BitVec.ofNat 5 (i + 1)) false)) = none) →
         exec .taskend s = .next ((s.beginEnd ((List.range 6).map (fun i => s.me.sval (i + 1)))).tie (.tasks (coreOf s.cur)) 0))) ∧
     (s.enterInstr .core .plain = .ok {} → s.me.cancel = false →
       exec .done s = .next (s.beginEnd [0, 0, 0, 0, 0, 0]) ∧
       (s.me.children = [] → s.me.releasing = [] → s.me.tcons = [] →
         Completes .commit s (fun t => Issued s t 4 ∧ t.me.regpc = (s.me.pc + 4) &&& ~~~1#64 ∧ t.me.pin = s.me.hflag ∧
           t.fifo = s.fifo ++ drainReqs s.cur s.me.rsb ∧ t.me.rsb = [] ∧ t.me.s = s.me.s ∧ t.me.v = s.me.v ∧ t.me.k = s.me.k ∧
           t.me.run = s.me.run ∧ t.mem = s.mem))) ∧
     (s.me.children = [] → s.me.releasing = [] → s.me.tcons = [] → ∀ (st : Stage) (rs : List Word),
       let A := fun (t : State) (st : Stage) => t.fifo = s.fifo ++ drainReqs s.cur s.me.rsb ∧ t.me.rsb = [] ∧ t.me.pc = s.me.pc ∧
         t.me.run = .waiting .drained ∧ t.me.stage = some st ∧ t.me.s = s.me.s ∧ t.me.v = s.me.v ∧ t.me.k = s.me.k ∧ t.mem = s.mem
       A ((s.beginCommit st).awaitDrained s.cur) st ∧ A (s.beginEnd rs) (.finish rs))) ∧
  (∀ (s : State) (c : Child) (pc : Word) (u : Nat), s.me.children = [c] → s.me.tcons = [] → s.me.run ≠ .free →
     s.freeCtx (coreOf s.cur) = some u →
     let t := s.commitPoint s.cur pc
     u ≠ s.cur ∧ coreOf u = coreOf s.cur ∧ ctxOf u < 14 ∧ (∀ v, coreOf v = coreOf s.cur → v < u → (s.thread v).run ≠ .free) ∧
     t.me.children = [] ∧ t.me.releasing = [] ∧
     (let x := t.thread u
      x.run = .ready ∧ x.pc = c.pc ∧ x.s = c.s ∧ x.v = c.v ∧ x.k = c.k ∧ x.mc = c.mc ∧ x.srseed = c.srseed ∧ x.handles = c.handles ∧
      x.sv = c.sv ∧ x.tvec = c.tvec ∧ x.launch = s.me.launch ∧ x.fn = s.me.fn ∧ x.rsb = [] ∧ x.task = false ∧
      x.regpc = c.pc &&& ~~~1#64)) ∧
  (∀ (s : State) (u : Nat) (rs : List Word),
     let x := s.thread u
     let k := coreOf u
     (∀ st, u = s.cur → x.run = .waiting .drained → x.stage = some st →
       s.turn = .over (.next (if x.drained = true then s.goStage u st else s))) ∧
     (x.drained = true → s.goStage u (.finish rs) = ((if x.task = true then s.report u rs else s).endThread u)) ∧
     (∀ l, s.launch x.launch = some l →
       let seq := l.tasks % 2 ^ 32
       let slot := (l.dw 7).toNat / 64 * 64 + 64 * (seq % 2 ^ ((l.dw 7).toNat % 64))
       let who : Word := BitVec.ofNat 64 (x.launch % 2 ^ 16 * 2 ^ 48 + coreField k * 16 + ctxOf u)
       let counted := s.updLaunch l.num (fun m => { m with tasks := m.tasks + 1 })
       (l.dw 7 = 0 → s.report u rs = counted) ∧
       (∀ bs b7, l.dw 7 ≠ 0 → counted.cpBytes l.asid slot 56 (wordsToNat (rs ++ [who])) = some bs →
         counted.cpBytes l.asid (slot + 56) 8 seq = some b7 →
         s.report u rs = counted.defer [⟨.results l.num, [], .bytes bs⟩, ⟨.results l.num, [], .bytes b7⟩])) ∧
     (isTsc u = false → x.children = [] → x.releasing = [] → x.tcons = [] → (∀ j ∈ (s.core k).jobs, j.t ≠ u) →
       (∀ a ∈ (s.cluster (clusterOf k)).mmacs, a.t ≠ u) → (∀ c ∈ s.clusters, ∀ a ∈ c.2.arrivals ++ s.withdrawnNow c.1, a.launch ≠ x.launch) →
       let t := s.endThread u
       let left := (s.updThread u Thread.emptied).threadsOf x.launch
       (t.thread u).run = .free ∧ (t.thread u).handles = [] ∧ (t.thread u).task = false ∧ (t.thread u).rsb = [] ∧
       (∀ v, v ≠ u → t.thread v = s.thread v) ∧ (∀ one, ((t.core k).acc one).owner ≠ some (ctxOf u)) ∧
       (left ≠ [] → t.mem = s.mem ∧ t.fifo = s.fifo ∧ t.launches = s.launches ∧
         ∀ e, let n := (x.handles.filter (fun h => h.2 = some e)).length
           n < (s.tile k e).refs ∨ n = 0 → t.tile k e = { s.tile k e with refs := (s.tile k e).refs - n }) ∧
       (∀ l, left = [] → s.launch x.launch = some l → l.phase = .live → (∀ c ∈ s.saved, c.launch ≠ x.launch) → s.recordsOf x.launch = 0 →
         s.commandsOf x.launch = 0 → t.launch x.launch = none ∧ ∃ w : State, w.mem = s.mem ∧ w.launches = s.launches ∧
           (w.thread u).run = .free ∧ t = w.endLaunch x.launch (if l.stat ≠ 0 then l.stat else if l.cancelled = true then 3 else 1))))

/-- 14 R371, R372, R375; 04 R122; 02 R84: SPAWN, WAITW and HRQ. SPAWN's issue step is a commit point after which it waits for
its stores to settle; a transform thread passes WAITW while its ring holds an entry, its accumulators kept (log 103, DESIGN CHOICE), and else gives up its accumulators (13 R346) and parks on the ring;
any other thread reports its task, gives up its accumulators and parks for a record; HRQ writes the four words of the pair's entry of the hearth table, or of the entry
named, or zeros.
07 R197, 14 R370: ALIGN and YIELD. YIELD changes nothing but the rotation. An ALIGN whose cluster holds no align record
opens one and waits, or goes on at once where its launch has one core there; one that names the record's pc and launch
joins it, and the last core's arrival releases every waiter past its ALIGN; another record's ALIGN passes. -/
def Obligations.TaskAndAlignResult : Prop :=
  (∀ (s : State) (p q : BitVec 5) (pl : Place) (p? : Option Place),
     (s.enterInstr .userContext .plain = .ok {} → s.me.cancel = false →
       (s.x p).toNat / 2 ^ 60 ∈ [0, 8, 10] →
       let x : Access := { index := 0, addr := s.x p, width := 128 }
       s.checkOne x = .ok p? → s.readyOne .read [.s p false] [.s p false] x p? = .ok pl →
         exec (.spawn p) s = .next (((s.reads [.s p false]).beginCommit (.spawn pl)).stop s.cur (.waiting (if s.me.children = [] then .settled else .push)))) ∧
     (s.enterInstr .core .plain = .ok {} → s.me.cancel = false →
       (ctxOf s.cur = 15 → (s.core (coreOf s.cur)).claim ≠ (s.core (coreOf s.cur)).head →
         Completes .waitw s (fun t => RegFrame s t [] noReg noReg noReg s.me.run s.me.srseed ∧ Issued s t 4)) ∧
       (ctxOf s.cur = 15 → (s.core (coreOf s.cur)).claim = (s.core (coreOf s.cur)).head →
         exec .waitw s = .next (((s.giveUpAccs s.cur).stop s.cur (.parked .ring)).checkBarriers s.me.launch)) ∧
       (ctxOf s.cur ≠ 15 → (s.me.task = true → spilledOf s.me resultRegs = none) →
         let u := if s.me.task then (s.reads resultRegs).report s.cur ((List.range 6).map (fun i => s.me.sval (i + 1))) else s
         exec .waitw s = .next ((((u.updMe (fun x => { x with task := false })).giveUpAccs s.cur).stop s.cur
           (.parked (.waitw s.cycle))).checkBarriers s.me.launch) ∧
         (s.me.task = false → (∀ c ∈ s.clusters, ∀ a ∈ c.2.arrivals ++ s.withdrawnNow c.1, a.launch ≠ s.me.launch) →
           Completes .waitw s (fun t => t.me.run = .parked (.waitw s.cycle) ∧ t.me.task = false ∧ t.me.s = s.me.s ∧ t.me.v = s.me.v ∧
             t.me.pc = s.me.pc ∧ t.mem = s.mem ∧ t.launches = s.launches)))) ∧
     (1 ≤ p.toNat → p.toNat ≤ 28 → spilledOf s.me [.s q false] = none →
       let table := (s.cluster (clusterOf (coreOf s.cur))).hearth
       let H := fun (i : Instr) (h : Hearth) => Completes i s (fun t => Issued s t 4 ∧
         RegFrame s t [.s q false] (fun r => decide (p.toNat ≤ r ∧ r < p.toNat + 4)) noReg noReg (.waiting (.latency (s.cycle + 24))) s.me.srseed ∧
         ∀ i, i < 4 → t.me.sval (p.toNat + i) = (hearthWords h).getD i 0 ∧ t.me.staint (p.toNat + i) = 0)
       (s.enterInstr .core .plain = .ok {} →
         H (.hrq q p) (((hearthFind table s.me.asid (field (s.x q) 51 16)).map (·.2)).getD {})) ∧
       (s.enterInstr .supervisorUserContext .plain = .ok {} → H (.hrqSw q p) (NMap.get {} table (field (s.x q) 10 0))))) ∧
  (∀ (s : State), s.enterInstr .core .plain = .ok {} →
     let k := coreOf s.cur
     let cl := clusterOf k
     let all := (clusterCores cl).filter (fun j => decide ((s.core j).owner = some s.me.launch))
     Completes .yield s (fun t => RegFrame s t [] noReg noReg noReg s.me.run s.me.srseed ∧ Issued s t 4) ∧
     ((s.cluster cl).align = none →
       (1 < all.length → Completes .align s (fun t => t.me.run = .waiting .align ∧ t.me.pc = s.me.pc ∧ t.mem = s.mem ∧
         (t.cluster cl).align = some ⟨s.me.pc, s.me.launch, [k], s.cycle, [s.cur]⟩)) ∧
       (all.length ≤ 1 → s.me.releasing = [] → Completes .align s (fun t => t.me.run = .ready ∧ t.me.pc = s.me.pc + 4 ∧ t.mem = s.mem ∧
         (t.cluster cl).align = none))) ∧
     (∀ r, (s.cluster cl).align = some r → s.cycle < r.start + 512 →
       (r.pc ≠ s.me.pc ∨ r.launch ≠ s.me.launch →
         Completes .align s (fun t => RegFrame s t [] noReg noReg noReg s.me.run s.me.srseed ∧ Issued s t 4)) ∧
       (r.pc = s.me.pc → r.launch = s.me.launch →
         (r.cores.length + 1 < all.length → k ∉ r.cores → Completes .align s (fun t => t.me.run = .waiting .align ∧ t.me.pc = s.me.pc ∧
           (t.cluster cl).align = some ⟨r.pc, r.launch, k :: r.cores, r.start, r.waiters ++ [s.cur]⟩)) ∧
         (all.length ≤ r.cores.length + 1 → k ∉ r.cores → s.cur ∉ r.waiters → r.waiters.Nodup → s.me.releasing = [] →
           Completes .align s (fun t => t.me.run = .ready ∧ t.me.pc = s.me.pc + 4 ∧ (t.cluster cl).align = none ∧
             ∀ u ∈ r.waiters, (t.thread u).pc = (s.thread u).pc + 4)))))

/-! ## The steps of the ordering machine (05) -/

/-- 05 R149, R150, R133; 12 R321; 06 R177; 01 R37: the perform step of the request at the head of a FIFO, where its page is not held
by a bias flip, its home is ready and may answer, and it is no active message. A LOAD reads its bytes and the line, and memory stays;
a STORE writes exactly the bytes of its mask; an ATOMIC writes NEW where the operation writes. The request leaves the FIFO, its
answer joins the receive queue after any invalidations, and no copy of a written line but the writer's own stays a sharer. Where
the slice need not move a line, the invalidations are one to each other core that holds the line (the directory's sharers, which have
the L1 copies), each counted as outstanding, and the answer's flag says whether none is outstanding. A load of a TSC that meets an
uncorrectable error, and any access of it that CXL.cache does not reach, answers 0, writes nothing and sets a bit of `tinbox`.
05 R151, R133: a recall sends an invalidation to every sharer of a line and leaves it none, once fewer than 128 messages of the
home to each are unprocessed (log 81, DEDUCED: what a home owes beyond that it holds back until it may send); an eviction drops a core's
copy and nothing else. Neither changes a byte of memory.
12 R334, 07 R187: an active message, a request of another core's thread to a core's stores. Its handler, context 14, joins the
rotation of the core; in the cycle of its barrel slot, where the core has not issued, it performs the first message of a FIFO with
the effects of the perform step; an atomic takes an issue for its access and one for its update. Which free slot it takes is log 82
(DEDUCED). -/
def Obligations.PerformResult : Prop :=
  (∀ (s : State) (src : Src) (h : Home) (r : Req), s.headReq src h = some r → s.flipHolds r = false → s.homeReady r.place = true →
     s.mayAnswer r = true → (∀ k, h = .core k → isMessage src k = false) →
     let p := r.place
     let line := lineOf p.loc
     let others := fun (t : State) (n : Nat) => ∀ a, a < p.loc ∨ p.loc + n ≤ a → t.byte a = s.byte a
     let answered := fun (t : State) (k : Bool → MsgKind) => t.fifo = s.fifo.erase r ∧
       ∃ (invs : List Msg) (flag : Bool), (∀ m ∈ invs, m.kind = .inv) ∧ t.rq = s.rq ++ invs ++ [⟨rcvOf src, p.home, line, k flag⟩]
     let quiet := ∀ j, p.home = .slice j → ∃ l, s.slice line = some l ∧ l.leaving = false
     let holders := (s.dir line).sharers.filter (fun d => decide (srcCore src ≠ some d))
     let exactly := fun (t : State) (cs : List Nat) (k : Bool → MsgKind) =>
       t.rq = s.rq ++ cs.map (fun d => ⟨.core d, p.home, line, .inv⟩) ++ [⟨rcvOf src, p.home, line, k (decide ((t.dir line).invs = []))⟩] ∧
       ∀ d, NMap.get 0 (t.dir line).invs d = NMap.get 0 (s.dir line).invs d + cs.count d
     let ownOnly := fun (t : State) => ∀ c ∈ (t.dir line).sharers, srcCore src = some c
     (s.tscFails r = none →
      (∀ n, r.kind = .load n →
       let k := MsgKind.reply src r.tag r.part p n (BitVec.ofNat 64 (s.read p.loc (min n 8))) (s.lineData line)
       Completes (.performLoad src h) s (fun t => t.mem = s.mem ∧ answered t k ∧
         (quiet → p.cacheable = false ∨ (s.dir line).sharers ≠ [] ∨ (∀ j, p.home ≠ .slice j) → exactly t [] k) ∧
         (∀ u, src = .thread u → p.cacheable = true → coreOf u ∈ (t.dir line).sharers))) ∧
      (∀ mask data, r.kind = .store mask data →
       Completes (.performStore src h) s (fun t => answered t (fun f => .ack src mask data f) ∧ ownOnly t ∧
         (quiet → exactly t holders (fun f => .ack src mask data f)) ∧
         (∀ i, i < 128 → t.byte (128 * line + i) = if mask.getLsbD i then data.extractLsb' (8 * i) 8 else s.byte (128 * line + i)) ∧
         (∀ a, a / 128 ≠ line → t.byte a = s.byte a))) ∧
      (∀ op dbl y e mc, r.kind = .atomic op dbl y e mc →
       let n := if dbl then 8 else 4
       let old := s.read p.loc n
       match atomicNew op dbl old (y.toNat % 2 ^ (8 * n)) (e.toNat % 2 ^ (8 * n)) mc with
       | none => Completes (.performAtomic src h) s (fun t => t.mem = s.mem ∧
           answered t (fun f => .atomicReply src r.tag r.part (atomicExt op dbl old) 0 0 f r.posted) ∧
           (quiet → exactly t [] (fun f => .atomicReply src r.tag r.part (atomicExt op dbl old) 0 0 f r.posted)))
       | some new => p.loc % 128 + n ≤ 128 →
           let k := fun (f : Bool) => MsgKind.atomicReply src r.tag r.part (atomicExt op dbl old) (byteMask (p.loc % 128) n)
             (placeData (p.loc % 128) new) f r.posted
           Completes (.performAtomic src h) s (fun t => ownOnly t ∧ t.read p.loc n = new % 256 ^ n ∧ others t n ∧ answered t k ∧
             (quiet → exactly t holders k)))) ∧
     (∀ host u, s.tscFails r = some host → src = .thread u →
       let cl := clusterOf (coreOf u)
       let told := fun (t : State) => t.mem = s.mem ∧ t.fifo = s.fifo.erase r ∧
         (t.cluster cl).hostErr = (host || (s.cluster cl).hostErr) ∧ (t.cluster cl).ue = (!host || (s.cluster cl).ue)
       (∀ n, r.kind = .load n → Completes (.performLoad src h) s (fun t => told t ∧
         t.rq = s.rq ++ [⟨rcvOf src, p.home, line, .reply src r.tag r.part p n 0 0 true⟩])) ∧
       (∀ mask data, r.kind = .store mask data → Completes (.performStore src h) s (fun t => told t ∧
         t.rq = s.rq ++ [⟨rcvOf src, p.home, line, .ack src 0 0 true⟩])))) ∧
  (∀ (s : State) (k line : Nat),
     let may := (s.dir line).sharers.all (fun d => s.mayEnter (s.homeOfPa (128 * line)) (.core d))
     (may = false → exec (.recall line) s = .next s) ∧
     (may = true → Completes (.recall line) s (fun t => (t.dir line).sharers = [] ∧ t.mem = s.mem ∧ t.fifo = s.fifo ∧
       t.rq = s.rq ++ (s.dir line).sharers.map (fun d => ⟨.core d, s.homeOfPa (128 * line), line, .inv⟩) ∧
       ∀ d, NMap.get 0 (t.dir line).invs d = NMap.get 0 (s.dir line).invs d + (s.dir line).sharers.count d)) ∧
     Completes (.l1Eviction k line) s (fun t => t.l1 k line = none ∧ (∀ l, l ≠ line → t.l1 k l = s.l1 k l) ∧
       (∀ j, j ≠ k → t.core j = s.core j) ∧ t.mem = s.mem ∧ t.fifo = s.fifo ∧ t.rq = s.rq ∧ t.threads = s.threads ∧ t.dirs = s.dirs)) ∧
  (∀ (s : State) (u k : Nat) (r : Req), coreOf u ≠ k → s.headReq (.thread u) (.core k) = some r → s.mayAnswer r = true →
     s.homeReady r.place = true →
     let line := lineOf r.place.loc
     let slot := (s.core k).slotOf (16 * k + 14)
     let holders := (s.dir line).sharers.filter (fun d => decide (d ≠ coreOf u))
     let sent := fun (t : State) (cs : List Nat) (m : Bool → MsgKind) => t.fifo = s.fifo.erase r ∧ ∃ flag,
       t.rq = s.rq ++ cs.map (fun d => ⟨.core d, .core k, line, .inv⟩) ++ [⟨.core (coreOf u), .core k, line, m flag⟩]
     (slot = none → exec (.activeMessage (.thread u) k) s = .next (s.updCore k (fun c => c.enter (16 * k + 14) s.cycle))) ∧
     (slot = some (s.cycle % 8) → (s.thread (16 * k + 14)).notBefore ≤ s.cycle → s.tieTaken (.issue k) = false → s.flipHolds r = false → s.tscFails r = none →
       (∀ n, r.kind = .load n → Completes (.activeMessage (.thread u) k) s (fun t => t.mem = s.mem ∧
         sent t [] (fun f => .reply (.thread u) r.tag r.part r.place n (BitVec.ofNat 64 (s.read r.place.loc (min n 8))) (s.lineData line) f))) ∧
       (∀ mask data, r.kind = .store mask data → Completes (.activeMessage (.thread u) k) s (fun t =>
         sent t holders (fun f => .ack (.thread u) mask data f) ∧
         (∀ i, i < 128 → t.byte (128 * line + i) = if mask.getLsbD i then data.extractLsb' (8 * i) 8 else s.byte (128 * line + i)) ∧
         (∀ a, a / 128 ≠ line → t.byte a = s.byte a))) ∧
       (∀ op dbl y e mc, r.kind = .atomic op dbl y e mc →
         let n := if dbl then 8 else 4
         let old := s.read r.place.loc n
         (r ∉ (s.core k).handling → Completes (.activeMessage (.thread u) k) s (fun t => t.mem = s.mem ∧ t.fifo = s.fifo ∧
           t.rq = s.rq ∧ (t.core k).handling = (s.core k).handling ++ [r] ∧ t.tieTaken (.issue k) = true)) ∧
         (r ∈ (s.core k).handling →
           match atomicNew op dbl old (y.toNat % 2 ^ (8 * n)) (e.toNat % 2 ^ (8 * n)) mc with
           | none => Completes (.activeMessage (.thread u) k) s (fun t => t.mem = s.mem ∧ (t.core k).handling = (s.core k).handling.erase r ∧
               sent t [] (fun f => .atomicReply (.thread u) r.tag r.part (atomicExt op dbl old) 0 0 f r.posted))
           | some new => r.place.loc % 128 + n ≤ 128 →
               Completes (.activeMessage (.thread u) k) s (fun t => t.read r.place.loc n = new % 256 ^ n ∧ (t.core k).handling = (s.core k).handling.erase r ∧
                 sent t holders (fun f => .atomicReply (.thread u) r.tag r.part (atomicExt op dbl old) (byteMask (r.place.loc % 128) n)
                   (placeData (r.place.loc % 128) new) f r.posted))))))

/-- 05 R149: a perform step performs the request at the head of its FIFO and no other, exactly one, so the requests of one FIFO perform
in the order they were appended; one whose page is being flipped or whose home is not ready stays. The head of any FIFO may perform,
whatever stands in the others, once its home may answer (R133); an active message waits for its handler (12 R334). -/
def Obligations.PerformInOrder : Prop :=
  ∀ (s : State) (src : Src) (h : Home),
    let steps : List Instr := [.performLoad src h, .performStore src h, .performAtomic src h]
    (∀ i ∈ steps, ∀ t, exec i s = .next t →
      t.fifo = s.fifo ∨ ∃ r, s.headReq src h = some r ∧ t.fifo = s.fifo.erase r ∧ s.flipHolds r = false ∧ s.homeReady r.place = true) ∧
    (∀ r, s.headReq src h = some r → r.kind ≠ .writeback → s.flipHolds r = false → s.homeReady r.place = true →
      s.mayAnswer r = true → (∀ k, h = .core k → isMessage src k = false) →
      ∃ i ∈ steps, Completes i s (fun t => t.fifo = s.fifo.erase r))

/-- 05 R152, R135, R145; 12 R316, R336: receive steps of a core. A REPLY fills the core's copy where its line is cacheable and,
as the only one a scalar load waits for, writes the register, returns the thread to rotation and retires the tag where the line
is settled. An ACK counts its store as settled, or leaves it to await the line; an atomic's REPLY has the effects of both.
05 R150, R152: an INV drops the core's copy and takes one from the invalidations outstanding; where that settles the line,
every receiver that waits for it is sent a SETTLE. A SETTLE makes the core's copy settled and takes the line from what the
core's threads await. Memory stays. -/
def Obligations.ReceiveResult : Prop :=
  (∀ (s : State) (k u g d n : Nat) (h : Home) (m : Msg) (flag sg ov : Bool) (p : Place) (old : Word) (mask : BitVec 128)
       (data : BitVec 1024), s.headMsg (.core k) h = some m →
     let x := s.thread u
     let c := NMap.get none (s.core k).l1 m.line
     let one := fun (fin : Finish) (o : Bool) => g < 8 ∧ x.inflight = some ⟨some g, fin, [⟨0, p, n, o, none⟩]⟩ ∧ x.run = .waiting .reply ∧
       x.releasing = [] ∧ (NMap.get {} x.tags g).replies = 1 ∧ (NMap.get {} x.tags g).waits = [] ∧ (NMap.get {} x.tags g).busy = true
     let back := fun (t : State) (v : Word) => (t.thread u).run = .ready ∧ (t.thread u).inflight = none ∧
       (t.thread u).sval d = (if d = 0 then 0 else v) ∧ (t.thread u).staint d = (if d = 0 ∨ flag then 0 else tagBit g) ∧
       (NMap.get {} (t.thread u).tags g).busy = !flag
     let stored := fun (t : State) => (t.thread u).storeCount = (if flag then x.storeCount - 1 else x.storeCount) ∧
       (t.thread u).awaiting = (if flag then x.awaiting else x.awaiting ++ [(h, m.line)]) ∧
       NMap.get none (t.core k).l1 m.line = c.map (fun c => ⟨overlayLine mask data c.data, flag⟩)
     (m.kind = .reply (.thread u) (some g) 0 p n old data flag → one (.scalar d n sg) ov →
       Completes (.processReply k h) s (fun t => t.mem = s.mem ∧ t.rq = s.rq.erase m ∧
         back t (extendLoad n sg (if ov then BitVec.ofNat 64 (x.overlay p.loc n old.toNat) else old)) ∧
         (p.cacheable = true → isTscCore k = false → NMap.get none (t.core k).l1 m.line = some ⟨data, flag⟩))) ∧
     (m.kind = .ack (.thread u) mask data flag →
       Completes (.processAck k h) s (fun t => t.mem = s.mem ∧ t.rq = s.rq.erase m ∧ stored t ∧ (t.thread u).s = x.s ∧
         (t.thread u).run = x.run)) ∧
     (m.kind = .atomicReply (.thread u) none 0 old mask data flag true →
       Completes (.processAck k h) s (fun t => t.mem = s.mem ∧ t.rq = s.rq.erase m ∧ stored t ∧ (t.thread u).s = x.s ∧
         (t.thread u).run = x.run)) ∧
     (m.kind = .atomicReply (.thread u) (some g) 0 old mask data flag false → one (.atomic d true sg) false →
       Completes (.processAtomicReply k h) s (fun t => t.mem = s.mem ∧ t.rq = s.rq.erase m ∧ back t old ∧ stored t))) ∧
  (∀ (s : State) (k : Nat) (h : Home) (m : Msg), s.headMsg (.core k) h = some m →
     (m.kind = .inv →
       let left := NMap.set 0 (s.dir m.line).invs k (NMap.get 0 (s.dir m.line).invs k - 1)
       Completes (.processInv k h) s (fun t => t.mem = s.mem ∧ t.l1 k m.line = none ∧ (t.dir m.line).invs = left ∧
         (left = [] → (t.dir m.line).waiters = [] ∧
           t.rq = s.rq.erase m ++ (s.dir m.line).waiters.map (fun r => ⟨r, h, m.line, .settle⟩)) ∧
         (left ≠ [] → (t.dir m.line).waiters = (s.dir m.line).waiters ∧ t.rq = s.rq.erase m))) ∧
     (m.kind = .settle →
       Completes (.processSettle k h) s (fun t => t.mem = s.mem ∧ t.rq = s.rq.erase m ∧
         (∀ c, s.l1 k m.line = some c → t.l1 k m.line = some ⟨c.data, true⟩) ∧
         ∀ u, coreOf u = k → (h, m.line) ∉ (t.thread u).awaiting ∧
           (t.thread u).storeCount = (s.thread u).storeCount - (s.thread u).awaiting.count (h, m.line))))

/-! ## Events of threads, meets, barriers and the bellows (04, 07, 12, 14, 16) -/

/-- 07 R188, R193; 04 R122; 14 R384; 18 R425, R426: what returns a thread to rotation. A fixed latency that is over and a transform
ring that holds an entry do so with the thread as it stood; a refill first maps its register with the value it had and its taint
cut to the busy tags; a resume sends a halted thread past the instruction it halted at, and so, as the model reads R425 (log entry
33, DEDUCED), one that a trap with `tvec` 0 stopped; a debugger's resume to `epc`. -/
def Obligations.ThreadReturns : Prop :=
  ∀ (s : State) (u : Nat), (s.thread u).releasing = [] →
    let x := s.thread u
    let R := fun (i : Instr) (y : Thread) => Completes i s (fun t => t.thread u = { y with run := .ready } ∧ t.mem = s.mem ∧
      t.fifo = s.fifo ∧ t.clusters = s.clusters ∧ (∀ v, v ≠ u → t.thread v = s.thread v))
    (∀ till, x.run = .waiting (.latency till) → till ≤ s.cycle → R (.longLatencyResult u) x) ∧
    (∀ k, u = 16 * k + 15 → x.run = .parked .ring → (s.core k).claim ≠ (s.core k).head → R (.transformWake k) x) ∧
    (isTsc u = false → x.run = .halted ∨ x.run = .trapStopped → R (.contextResume u) { x with pc := x.pc + 4 }) ∧
    (x.run = .debugStopped →
      R (.debuggerResume u) { x with pc := x.epc, sv := x.estatus.getLsbD 0, pfx := x.estatus.getLsbD 8, boundary := false }) ∧
    (∀ vec r reads, x.run = .waiting (.refill vec r reads) →
      Completes (.registerRefill u) s (fun t => (t.thread u).run = .ready ∧ t.mem = s.mem ∧
        (vec = false → (NMap.get {} (t.thread u).s r).map = .physical ∧ (NMap.get {} (t.thread u).s r).val = (NMap.get {} x.s r).val ∧
          (NMap.get {} (t.thread u).s r).taint = (NMap.get {} x.s r).taint &&& x.busyTags) ∧
        (vec = true → (NMap.get {} (t.thread u).v r).map = .physical ∧ (NMap.get {} (t.thread u).v r).val = (NMap.get {} x.v r).val ∧
          (NMap.get {} (t.thread u).v r).taint = (NMap.get {} x.v r).taint &&& x.busyTags)))

/-- 07 R201, R202, R203, R197; 12 R333: meets, align records and the deadlock scan. An arrival is taken where none of a higher core
or context has been in its cycle; entries whose deadline has come are released first; an arrival that equals a held entry whose
count has room ends there, its `mc` added; where the sum would not fit, the holder is released with the count it has and both go on;
the first waits as holder with its deadline, in the lowest-numbered free entry (log entry 99, DESIGN CHOICE), or goes on with W = 0
or a full table. A deadline, a quiescent launch (one with a saved context is not: log 102, DESIGN CHOICE) and a timeout
release what is held. Of a cycle of threads that wait for one another, and did so at the last scan, the lowest traps. -/
def Obligations.MeetEventResult : Prop :=
  ∀ (s : State) (u e cl n : Nat) (weld : Bool),
    let x := s.thread u
    let unit := if weld then clusterOf (coreOf u) else coreOf u
    let table := s.meets weld unit
    (∀ p q w, x.stage = some (.meet weld p q w) → x.run = .waiting .drained → x.drained = true → s.tieOk (.meet weld unit) u = true →
      spilledOf x (meetRegs x weld (BitVec.ofNat 5 p) (BitVec.ofNat 5 q)) = none →
      let a := x.arrival weld p q
      let s1 := s.tie (.meet weld unit) u
      (∀ j m, table = [(j, m)] → m.valid = true → m.deadline ≤ s.cycle →
        exec (.meetRegistration u) s = .next ((s1.releaseHolder weld unit j).registerMeet u weld p q w)) ∧
      ((∀ m ∈ table, m.2.valid = true → s.cycle < m.2.deadline) →
       (∀ m, table.find? (fun m => m.2.same a) = some (e, m) → m.count + x.mc ≤ 2 ^ 32 - 1 →
        exec (.meetRegistration u) s = .next ((s1.setMeet weld unit e { m with count := m.count + x.mc }).endThread u)) ∧
       (∀ m, table.find? (fun m => m.2.same a) = some (e, m) → NMap.get {} table e = m → 2 ^ 32 - 1 < m.count + x.mc → m.holder ≠ u →
        x.releasing = [] → (s.thread m.holder).releasing = [] →
        Completes (.meetRegistration u) s (fun t => NMap.get {} (t.meets weld unit) e = {} ∧ (t.thread u).run = .ready ∧
          (t.thread u).pc = x.pc + 4 ∧ (t.thread u).mc = x.mc ∧ (t.thread m.holder).run = .ready ∧
          (t.thread m.holder).pc = (s.thread m.holder).pc + 4 ∧ (t.thread m.holder).mc = m.count ∧ t.mem = s.mem)) ∧
      (table.find? (fun m => m.2.same a) = none →
        (w = 0 ∨ (∀ i, i < (if weld then 256 else 32) → (NMap.get {} table i).valid = true) → x.releasing = [] →
          Completes (.meetRegistration u) s (fun t => (t.thread u).run = .ready ∧ (t.thread u).pc = x.pc + 4 ∧ (t.thread u).mc = x.mc ∧
            (t.thread u).stage = none ∧ t.mem = s.mem)) ∧
        (w ≠ 0 → e < (if weld then 256 else 32) → (NMap.get {} table e).valid = false → (∀ i, i < e → (NMap.get {} table i).valid = true) →
          Completes (.meetRegistration u) s (fun t => (t.thread u).run = .parked (.holder weld unit e) ∧ (t.thread u).pc = x.pc ∧
            t.mem = s.mem ∧ NMap.get {} (t.meets weld unit) e = { a with holder := u, count := x.mc, deadline := s.cycle + 16 * w }))))) ∧
    (let m := NMap.get {} (s.meets weld n) e
     m.valid = true → m.deadline ≤ s.cycle → (s.thread m.holder).releasing = [] →
      Completes (.meetDeadline weld n e) s (fun t => NMap.get {} (t.meets weld n) e = {} ∧ (t.thread m.holder).run = .ready ∧
        (t.thread m.holder).pc = (s.thread m.holder).pc + 4 ∧ (t.thread m.holder).mc = m.count ∧ t.mem = s.mem)) ∧
    (∀ j, s.quiescent n = true → s.heldMeets n = [(weld, j, e)] → (∀ c ∈ s.clusters, c.2.align = none) →
      exec (.quiescenceRelease n) s = .next (s.releaseHolder weld j e)) ∧
    (∀ a, (s.cluster cl).align = some a → a.start + 512 ≤ s.cycle → a.waiters.Nodup →
      Completes (.alignTimeout cl) s (fun t => (t.cluster cl).align = none ∧ t.mem = s.mem ∧
        ∀ v ∈ a.waiters, (t.thread v).pc = (s.thread v).pc + 4 ∧ ((s.thread v).releasing = [] → (t.thread v).run = .ready))) ∧
    ((s.cycle - s.dieReset) % 4096 = 0 → s.tieTaken (.scan cl) = false →
      let c := s.cluster cl
      let ws := c.recvWaits
      (∀ loop : List Nat, loop.Nodup → (∀ v ∈ loop, ∃ w ∈ c.scan, w ∈ ws ∧ w.1 = v) →
        (∀ i, i < loop.length → c.edge ws (loop.getD i 0) = some (loop.getD ((i + 1) % loop.length) 0)) →
        ∀ v ∈ loop, c.deadlocked ws v = decide (∀ w ∈ loop, v ≤ w)) ∧
      (∀ i w, c.chans.flatMap (fun p => (p.2.recvs.filter (fun v => c.deadlocked ws v.t)).map (fun v => (p.1, v))) = [(i, w)] →
        (s.thread w.t).tvec ≠ 0 →
        Completes (.channelDeadlockScan cl) s (fun t => (t.thread w.t).ecause = 6 ∧ (t.thread w.t).fadr = w.word ∧
          (t.thread w.t).pc = (s.thread w.t).tvec ∧ (∀ v, v ≠ w.t → t.thread v = s.thread v) ∧ t.mem = s.mem ∧
          (t.cluster cl).scan = ws)) ∧
      ((∀ p ∈ c.chans, ∀ w ∈ p.2.recvs, c.deadlocked c.recvWaits w.t = false) →
        Completes (.channelDeadlockScan cl) s (fun t => (t.cluster cl).scan = c.recvWaits ∧ t.threads = s.threads ∧ t.mem = s.mem)) ∧
      (∀ i w, c.chans = [(i, { live := true, recvs := [w], last := some w.t, sent := n })] → c.scan = [(w.t, i, n)] →
        (s.thread w.t).tvec ≠ 0 →
        Completes (.channelDeadlockScan cl) s (fun t => (t.thread w.t).ecause = 6 ∧ (t.thread w.t).fadr = w.word ∧
          (t.thread w.t).pc = (s.thread w.t).tvec ∧ (t.cluster cl).chans = [])))

/-- 16 R407, R411: the dispenser gives a record to an eligible core of the highest score, of those to one with the fewest
records in its deque, of those to the lowest; a record that names no read tile stays with the core that pushed it. It enters the
deque, or the pool where the deque holds 64, or waits where the pool holds 512.
16 R410 to R414; 14 R372: the bellows' steps. A dispatch gives the record to the waiting thread, a start to a free context;
either begins at the entry with the six arguments, the record's `mc` and priority, its task current; a steal moves a record to
the thief's deque, where the victim's own dispatch does not take it in the cycle (log entry 75, DESIGN CHOICE). A record that has
moved in a cycle moves no more in it (16 R415). -/
def Obligations.BellowsResult : Prop :=
  (∀ (s : State) (cl k : Nat) (r : Record), (∀ j, (s.core j).deque.length ≤ 64) →
     let p := s.placing cl k r
     (Record.tiles r = [] → p.core = k) ∧
     (Record.tiles r ≠ [] → s.eligible cl r ≠ [] → p.core ∈ s.eligible cl r ∧
       ∀ j ∈ s.eligible cl r, s.score r j ≤ s.score r p.core ∧
         (s.score r j = s.score r p.core → (s.core p.core).deque.length ≤ (s.core j).deque.length ∧
           ((s.core p.core).deque.length = (s.core j).deque.length → p.core ≤ j))) ∧
     (∀ t, s.intoDeque k r = some t →
       (s.core k).deque.length < 64 ∧ (t.core k).deque = (s.core k).deque ++ [⟨r, s.cycle⟩] ∨
       (s.core k).deque.length = 64 ∧ (t.cluster (clusterOf k)).pool = (s.cluster (clusterOf k)).pool ++ [(k, r)]) ∧
     (s.intoDeque k r = none ↔ (s.core k).deque.length = 64 ∧ 512 ≤ (s.cluster (clusterOf k)).pool.length)) ∧
  (∀ (s : State) (cl k u since : Nat) (q : Queued),
     let r := q.task
     let begun := fun (t : State) => let y := t.thread u
       y.run = .ready ∧ y.pc = Record.entry r ∧ y.mc = Record.mc r ∧ y.task = true ∧ y.prio = Record.prio r ∧
       y.regpc = Record.entry r &&& ~~~1#64 ∧ (t.core k).deque = (s.core k).deque.erase q ∧ t.mem = s.mem ∧
       (Record.fk r = false → ∀ i, i < 6 → y.sval (i + 1) = r.getD (i + 2) 0 ∧ y.staint (i + 1) = 0) ∧
       (Record.fk r = true → y.sval (Record.fd r) = if Record.fd r = 0 then 0 else 1)
     (r.length = 16 → s.dispatchable k = some q → (∀ p ∈ (s.cluster (clusterOf k)).pool, p.1 ≠ k) →
       (∀ c ∈ s.clusters, ∀ a ∈ c.2.arrivals ++ s.withdrawnNow c.1, a.launch ≠ (s.thread u).launch) →
       (s.firstWaiter k = some (since, u) → (s.thread u).releasing = [] → Completes (.taskDispatch k) s begun) ∧
       (∀ l, s.firstWaiter k = none → s.freeCtx k = some u → s.ownerLaunch k = some l →
         Completes (.taskStartFreeContext k) s (fun t => begun t ∧ (t.thread u).launch = l.num ∧ (t.thread u).sv = l.sv ∧ (t.thread u).rsb = []))) ∧
     (∀ v, s.ringNext k = some v → v ≠ k → s.stealable k v = some q → s.ownDispatch v ≠ some q → (∀ p ∈ (s.cluster (clusterOf v)).pool, p.1 ≠ v) →
       s.firstWaiter k = some (since, u) → (s.core k).deque = [] → (∀ p ∈ (s.cluster (clusterOf k)).pool, p.1 ≠ k) →
       (∀ n, (s.core k).lastSteal = some n → n + 64 ≤ s.cycle) →
       Completes (.taskSteal k) s (fun t => (t.core k).deque = [⟨r, s.cycle⟩] ∧ (t.core v).deque = (s.core v).deque.erase q ∧
         (t.core k).lastSteal = some s.cycle ∧ t.mem = s.mem ∧ t.threads = s.threads)) ∧
     (∀ t rs, (s.cluster cl).forwarded = q :: rs → q.since ≠ s.cycle → s.push cl (coreAt cl 0) r true = some t →
       exec (.forwardedRecordArrival cl) s = .next (t.updCluster cl (fun c => { c with forwarded := rs }))))

/-- 02 R78 to R83; 16 R409: the hearth tables. The oldest update of a cluster changes the count of its pair's entry within 0
and its cap, frees an entry whose counts are all 0, and allocates a way of the pair's set for a positive one that has no entry; one
of an ASID that is being removed is discarded; none reaches the table in a cycle in which the bellows has read it. HCLR leaves no entry of its ASID; summaries are
sent every 4,096 cycles and apply whole. -/
def Obligations.HearthResult : Prop :=
  ∀ (s : State) (cl src : Nat),
    let c := s.cluster cl
    (s.tieTaken (.bellows cl) = true → exec (.hearthUpdate cl) s = .next s) ∧
    (∀ u us, c.updates = u :: us → s.tieTaken (.bellows cl) = false →
      (c.hclrBusy = some u.asid → Completes (.hearthUpdate cl) s (fun t => (t.cluster cl).updates = us ∧ (t.cluster cl).hearth = c.hearth)) ∧
      (c.hclrBusy ≠ some u.asid →
        (∀ i h, hearthFind c.hearth u.asid u.gran = some (i, h) →
          let h' := h.change u.core u.delta
          Completes (.hearthUpdate cl) s (fun t => (t.cluster cl).updates = us ∧
            NMap.get {} (t.cluster cl).hearth i = (if (h'.cores.map (·.2)).sum + h'.slice = 0 then {} else h') ∧
            (∀ j, u.core = some j → NMap.get 0 h'.cores j = min 256 (((NMap.get 0 h.cores j : Nat) : Int) + u.delta).toNat) ∧
            (u.core = none → h'.slice = min 512 ((h.slice : Int) + u.delta).toNat))) ∧
        (hearthFind c.hearth u.asid u.gran = none → 0 < u.delta →
          Completes (.hearthUpdate cl) s (fun t => (t.cluster cl).updates = us ∧
            ∃ i, i / 8 = u.gran % 256 ^^^ u.asid % 256 ∧ (NMap.get {} (t.cluster cl).hearth i).valid = true ∧
              (NMap.get {} (t.cluster cl).hearth i).asid = u.asid ∧ (NMap.get {} (t.cluster cl).hearth i).gran = u.gran)) ∧
        (hearthFind c.hearth u.asid u.gran = none → u.delta ≤ 0 →
          Completes (.hearthUpdate cl) s (fun t => (t.cluster cl).updates = us ∧ (t.cluster cl).hearth = c.hearth)))) ∧
    (∀ a, c.hclrBusy = some a → Completes (.hclrComplete cl) s (fun t => (t.cluster cl).hclrBusy = none ∧
      (t.cluster cl).hearth = c.hearth.filter (fun p => decide (p.2.asid ≠ a)) ∧ t.mem = s.mem)) ∧
    (∀ v, v.getLsbD 0 = true → c.hclrBusy = none → Completes (.hclrGo cl v) s (fun t => (t.cluster cl).hclrBusy = some (field v 63 48) ∧
      (t.cluster cl).hclrAsid = field v 63 48 ∧ (t.cluster cl).hearth = c.hearth)) ∧
    ((s.cycle - s.dieReset) % 4096 = 0 → s.tieTaken (.summary cl) = false → cl < 168 →
      Completes (.hearthSummaryBroadcast cl) s (fun t => ∀ d, d < 168 → d ≠ cl → ∀ i, i < 256 →
        NMap.get 0 (NMap.get [] (t.cluster d).sumInbox cl) i = summaryValue c.hearth i)) ∧
    (∀ p ∈ c.sumInbox, p.1 = src → Completes (.hearthSummaryApply cl src) s (fun t =>
      NMap.get [] (t.cluster cl).summaries src = NMap.get [] c.sumInbox src ∧ (t.cluster cl).hearth = c.hearth ∧ t.mem = s.mem))

/-! ## Tiles and the matrix sequencer (02, 13) -/

/-- 13 R339 to R342, R344; 02 R74 to R77: the tile instructions. TDEF binds a handle to an equal entry of the launch, which counts
once more, or to a free one; TREL unbinds it, and the last release of a ready tile with no consumer frees the entry; TSTAT reads
the state; TWAITR goes on where no operation is pending; TCONS counts a consumer. The operands-consumed event starts a pending
operation of a ready tile that has no consumer left.
02 R76, R77, R79: the operands-consumed event. -/
def Obligations.TileResult : Prop :=
  (∀ (s : State) (a b d : BitVec 5) (e : Nat), s.enterInstr .core .plain = .ok {} →
     let k := coreOf s.cur
     let x := s.tile k e
     let still := fun (t : State) => Issued s t 4 ∧ t.mem = s.mem ∧ t.fifo = s.fifo ∧ (∀ r, t.me.sval r = s.me.sval r) ∧
       t.me.run = s.me.run ∧ t.me.rsb = s.me.rsb
     (∀ old, s.me.handle d.toNat = none → shapeLegal (s.x b) = true → s.tileInWindow k (s.x a) (s.x b) = true →
       s.me.granted k (s.x a) = true → (s.x a).toNat % 64 = 0 → spilledOf s.me [.s a false, .s b false] = none →
       s.tileFor k s.me.launch (s.x a) (s.x b) = some (e, old) →
         e < 64 ∧ Completes (.tdef b a d) s (fun t => still t ∧ t.me.handle d.toNat = some e ∧
           t.tile k e = if old then { x with refs := x.refs + 1 }
             else { live := true, launch := s.me.launch, addr := s.x a, shape := s.x b, refs := 1 })) ∧
     (s.me.handle d.toNat = some e → x.op = .none → x.relWait = false →
       (1 < x.refs → Completes (.trel d) s (fun t => still t ∧ t.me.handle d.toNat = none ∧ t.tile k e = { x with refs := x.refs - 1 })) ∧
       (x.refs = 1 → x.state = .ready → x.count = 0 →
         Completes (.trel d) s (fun t => still t ∧ t.me.handle d.toNat = none ∧ t.tile k e = {})) ∧
       (x.refs = 1 → x.state = .ready → x.count ≠ 0 →
         Completes (.trel d) s (fun t => still t ∧ t.me.handle d.toNat = none ∧ t.tile k e = { x with refs := 0, op := .release })) ∧
       (x.refs = 1 → x.state = .empty → x.filler = none →
         Completes (.trel d) s (fun t => still t ∧ t.me.handle d.toNat = none ∧ t.tile k e = {}))) ∧
     GivesS (.tstat a d) s [] d (match s.me.handle a.toNat with
       | some i => (s.tile k i).word i
       | none => 0) ∧
     (s.me.handle d.toNat = some e → ((x.state = .ready ∧ x.op = .none) ∨ x.state = .empty) →
       Completes (.twaitr d) s (fun t => RegFrame s t [] noReg noReg noReg s.me.run s.me.srseed ∧ Issued s t 4)) ∧
     (s.me.handle d.toNat = some e → x.state = .ready → x.op = .none → x.count < 63 →
       Completes (.tcons d) s (fun t => still t ∧ t.me.tcons = e :: s.me.tcons ∧ t.tile k e = { x with count := x.count + 1 }))) ∧
  (∀ (s : State) (k e : Nat),
     let x := s.tile k e
     let cl := clusterOf k
     let E := fun (P : State → Prop) => Completes (.tileOperandsConsumed k e) s (fun t => t.mem = s.mem ∧ P t)
     let less := fun (t : State) => (t.cluster cl).updates = (s.cluster cl).updates ++
       x.contribs.map (fun p => ⟨p.1, p.2.1, some (localOf k), -(p.2.2 : Int), s.cycle⟩)
     (x.state ≠ .ready ∨ x.count ≠ 0 ∨ x.op = .none → exec (.tileOperandsConsumed k e) s = .next s) ∧
     (x.state = .ready → x.count = 0 →
       (x.op = .release → x.refs = 0 → E (fun t => t.tile k e = {} ∧ less t)) ∧
       (x.op = .release → x.refs ≠ 0 → E (fun t => (t.tile k e).state = .empty ∧ (t.tile k e).op = .none ∧ (t.tile k e).refs = x.refs ∧ less t)) ∧
       (x.op = .refill → E (fun t => (t.tile k e).state = .filling ∧ (t.tile k e).op = .none ∧ (t.tile k e).contribs = [] ∧ less t)) ∧
       (x.op = .drain → E (fun t => (t.tile k e).state = .draining ∧ (t.tile k e).op = .none ∧ (t.tile k e).contribs = [] ∧ less t))))

/-- 13 R346, R348, R350 to R357: the matrix instructions issue. An MMA takes the accumulator, counts both tiles, zeroes the
elements with `.z`, pays its energy and waits for its steps; an MMAC arrives and parks till its group is there; MZERO clears the
elements; MMASK and MSTORE wait for the sequencer; MSCALE asks for its 64 row scales and 128 column scales, the row address
and words checked before the column ones (01 R17), takes the accumulator before its loads perform (log 60, DEDUCED), and rounds
each element times its two scales once. -/
def Obligations.MatrixIssueResult : Prop :=
  ∀ (s : State) (z c : Bool) (e : BitVec 2) (a b d : BitVec 5) (f : Mode) (i j : Nat),
    let k := coreOf s.cur
    let cl := clusterOf k
    let x := s.tile k i
    let y := s.tile k j
    let w := 2 ^ e.toNat
    let free := ((s.core k).acc c).owner = none ∨ ((s.core k).acc c).owner = some (ctxOf s.cur)
    let acc0 := if ((s.core k).acc c).clearing then ((s.core k).acc c).cleared else (s.core k).acc c
    let owned := fun (t : State) => ((t.core k).acc c).owner = some (ctxOf s.cur)
    let paid := fun (t : State) (n : Nat) => t.me.ebBudget.toNat = s.me.ebBudget.toNat - n
    let rich := s.me.ebBudget ≠ 0
    let inSize := fun (x : Tile) => field x.addr 63 60 = 10 → x.addr.toNat % 2 ^ 24 + shapeSize x.shape ≤ (s.cluster cl).spw * 2 ^ 20
    (s.enterInstr .core .mma = .ok f → s.me.handle a.toNat = some i → s.me.handle b.toNat = some j → i ≠ j → s.me.mprogV = false →
      shapeFmt x.shape = f.fa → shapeFmt y.shape = f.fb → shapeRows x.shape ≤ 64 → shapeRows y.shape ≤ 128 →
      shapeCols x.shape = shapeCols y.shape → free → rich → inSize x → inSize y →
      x.state = .ready → x.op = .none → x.count < 63 → y.state = .ready → y.op = .none → y.count < 63 →
        Completes (.mma z c e b a) s (fun t => t.me.run = .waiting .matrix ∧ t.me.pc = s.me.pc ∧ owned t ∧ t.mem = s.mem ∧
          t.tile k i = { x with count := x.count + 1 } ∧ t.tile k j = { y with count := y.count + 1 } ∧
          ((t.core k).acc c).elems = (if z then [] else acc0.elems) ∧ ((t.core k).acc c).mask = acc0.mask ∧
          paid t (w * productSteps f.fa (shapeCols x.shape)) ∧
          (t.core k).jobs = (s.core k).jobs ++ [⟨s.cur, c, .mma i j f.fa f.fb (shapeRows x.shape) (shapeRows y.shape)
            (shapeCols x.shape) z, 0, s.me.pfx, {}⟩])) ∧
    (let g := s.x d
     s.enterInstr .core .mma = .ok f → groupLegal s.me.rect k g = true → field g 14 12 = 1 → field g 17 15 = 0 →
      coreX k = field g 5 0 → coreY k = field g 11 6 → s.me.handle a.toNat = some i → s.me.handle b.toNat = some j → i ≠ j →
      shapeFmt x.shape = f.fa → shapeFmt y.shape = f.fb → shapeRows x.shape ≤ 64 → shapeRows y.shape ≤ 128 →
      shapeCols x.shape = shapeCols y.shape → free → rich → inSize x → inSize y → x.state = .ready → x.op = .none → x.count < 62 →
      y.state = .ready → y.op = .none → y.count < 63 → spilledOf s.me [.s d false] = none → s.me.staint d.toNat = 0 →
      (∀ m ∈ (s.cluster cl).mmacs, m.launch ≠ s.me.launch) →
        Completes (.mmac z c e b a d) s (fun t => t.me.run = .parked .mmac ∧ t.me.pc = s.me.pc ∧ owned t ∧ t.mem = s.mem ∧
          t.tile k i = { x with count := x.count + 2 } ∧ t.tile k j = { y with count := y.count + 1 } ∧
          (t.cluster cl).mmacs = (s.cluster cl).mmacs ++ [⟨s.me.launch, g, s.cur, c, z, f.fa, f.fb, some i, some j, e.toNat,
            false, false⟩])) ∧
    (s.enterInstr .core .plain = .ok {} → free → rich →
      Completes (.mzero c e) s (fun t => Issued s t 4 ∧ t.me.run = .waiting (.latency (s.cycle + 32)) ∧ owned t ∧ t.mem = s.mem ∧
        ((t.core k).acc c).elems = [] ∧ ((t.core k).acc c).mask = acc0.mask ∧ paid t w ∧ t.me.s = s.me.s)) ∧
    (s.enterInstr .core .plain = .ok {} → s.me.handle a.toNat = some i → shapeSize x.shape = 1024 → free → rich → inSize x →
      x.state = .ready → x.op = .none → x.count < 63 →
        Completes (.mmask c e a) s (fun t => Issued s t 4 ∧ t.me.run = .waiting .matrix ∧ owned t ∧ t.mem = s.mem ∧ paid t w ∧
          t.tile k i = { x with count := x.count + 1 } ∧
          (t.core k).jobs = (s.core k).jobs ++ [{ t := s.cur, one := c, kind := .mmask i 1024 }])) ∧
    (∀ (rs cs : List (Access × Option Place)) (zs : List (Access × Place)),
      s.enterInstr .core .plain = .ok {} → s.scaleCheck (s.x a) (rowScales (s.x a)) = .ok rs →
      s.scaleCheck (s.x b) (columnScales (s.x b)) = .ok cs →
      s.ready .read [.s a false, .s b false] [.s a false, .s b false] (rs ++ cs) = .ok zs → free → rich →
        field (s.x a) 63 60 = 8 ∧ field (s.x b) 63 60 = 8 ∧ (s.x a).toNat % 64 = 0 ∧ (s.x b).toNat % 64 = 0 ∧
        zs.map (·.1) = (List.range 64).map (fun i => { index := i, addr := s.x a + BitVec.ofNat 64 (4 * i), width := 4 }) ++
          (List.range 128).map (fun j => { index := 64 + j, addr := s.x b + BitVec.ofNat 64 (4 * j), width := 4 }) ∧
        AsksAll (.mscale c e b a) s zs (.mscale c) (fun t => owned t ∧ paid t w ∧ (t.core k).acc c = { acc0 with owner := some (ctxOf s.cur) })) ∧
    (∀ (ps : List Piece) (g : Option Nat), let t := s.finishAccess s.cur (.mscale c) ps g
      let u := (s.core k).acc c
      ((t.core k).acc c).mask = u.mask ∧ ((t.core k).acc c).owner = u.owner ∧ t.mem = s.mem ∧ t.threads = s.threads ∧
      ∀ r q, r < 64 → q < 128 → ((t.core k).acc c).elem (128 * r + q) = BitVec.ofNat 32
        (fpResult (((f32 (u.elem (128 * r + q)).toNat).mul (f32 (pieceVal ps r).toNat)).mul (f32 (pieceVal ps (64 + q)).toNat)) 0 false 0).1) ∧
    (s.enterInstr .core .mstore = .ok f → s.me.handle a.toNat = some i → shapeFmt x.shape = f.fd → shapeRows x.shape ≤ 64 →
      shapeCols x.shape ≤ 128 → free → rich → inSize x → x.state = .empty → x.op = .none →
        Completes (.mstore c e a) s (fun t => Issued s t 4 ∧ t.me.run = .waiting .matrix ∧ owned t ∧ t.mem = s.mem ∧ paid t w ∧
          t.tile k i = { x with state := .filling, filler := some (.mstore s.cur), bad := false } ∧
          (t.core k).jobs = (s.core k).jobs ++ [⟨s.cur, c, .mstore i f.fd f.rnd f.sat (shapeRows x.shape)
            (shapeCols x.shape), 0, s.me.pfx, {}⟩]))

/-- 13 R346, R348, R349, R353, R355: the sequencer's steps. A step of an MMA replaces each kept element of its product by the dot
product of a K-chunk added to it; the last one gives −∞ to those the mask leaves out, gives up both counts and lets the thread go
on; an MMASK's last byte sets the mask plane, from the bytes the tile holds at that event; an MSTORE's last step stores its rows, makes
the tile ready and lets the thread go on; a given-up accumulator is cleared. The model's choices: a step
reads its chunk's bytes, and an MMASK all of its bytes, in the event that completes it (log 21, DESIGN CHOICE); a step waits until its
reads, or writes, can perform (02 R56; 04 R112 to R114; log 74, DESIGN CHOICE); the sign of a dot product that is zero is as log 66
(DEDUCED) reads it. -/
def Obligations.MatrixStepResult : Prop :=
  ∀ (s : State) (k : Nat) (one : Bool),
    let acc := fun (t : State) => (t.core k).acc one
    (∀ (j : Job) (ta tb fa fb m n cols : Nat) (z : Bool), s.nextJob k = some j → j.one = one → j.kind = .mma ta tb fa fb m n cols z →
      s.readsReady k j = true →
      let x := s.tile k ta
      let y := s.tile k tb
      let len := chunkLen fa
      shapeRows x.shape = m → shapeRows y.shape = n → shapeCols x.shape = cols → m ≤ 64 → n ≤ 128 → j.steps * len < cols →
      let val := fun (p q : Nat) => BitVec.ofNat 32 (chunkDot ((acc s).elem (128 * p + q)).toNat (s.tileChunk k x p j.steps len)
        (s.tileChunk k y q j.steps len))
      (j.steps + 1 < productSteps fa cols →
        Completes (.mmaStep k) s (fun t => t.mem = s.mem ∧ t.threads = s.threads ∧
          (t.core k).jobs = (s.core k).jobs.map (fun i => if i = j then { j with steps := j.steps + 1 } else i) ∧
          ∀ p q, p < 64 → q < 128 → (acc t).elem (128 * p + q) =
            if p < m ∧ q < n ∧ (acc s).kept p q = true then val p q else (acc s).elem (128 * p + q))) ∧
      (productSteps fa cols ≤ j.steps + 1 → (s.thread j.t).releasing = [] → x.op = .none → y.op = .none → ta ≠ tb →
        Completes (.mmaStep k) s (fun t => t.mem = s.mem ∧ (t.thread j.t).run = .ready ∧ (t.thread j.t).pc = (s.thread j.t).pc + 4 ∧
          (t.core k).jobs = (s.core k).jobs.erase j ∧ t.tile k ta = { x with count := x.count - 1 } ∧
          t.tile k tb = { y with count := y.count - 1 } ∧
          ∀ p q, p < 64 → q < 128 → (acc t).elem (128 * p + q) =
            if p < m ∧ q < n then (if (acc s).kept p q then val p q else 0xFF800000) else (acc s).elem (128 * p + q)))) ∧
    (∀ (j : Job) (e n : Nat), (s.core k).jobs = [j] → j.kind = .mmask e n → j.one = one → (s.thread j.t).releasing = [] →
      (s.tile k e).op = .none → s.rangesReady k [(tileLoc k (s.tile k e).addr, n)] = true →
        Completes (.mmaskLastByteRead k) s (fun t => t.mem = s.mem ∧ (t.thread j.t).run = .ready ∧
          (t.core k).jobs = [] ∧ (acc t).elems = (acc s).elems ∧ t.tile k e = { s.tile k e with count := (s.tile k e).count - 1 } ∧
          ∀ p, p < 64 → (acc t).row p = BitVec.ofNat 128 (bytesToNat
            ((List.range 16).map (fun q => (s.readBytes (tileLoc k (s.tile k e).addr) n).getD (16 * p + q) 0))))) ∧
    (∀ (j : Job) (e fd rnd rows cols : Nat) (sat : Bool), s.nextJob k = some j → j.one = one → j.kind = .mstore e fd rnd sat rows cols →
      shapeFmt (s.tile k e).shape = fd → shapeCols (s.tile k e).shape = cols →
      32 * j.steps < rows → rows ≤ 32 * j.steps + 32 → (s.thread j.t).releasing = [] → (s.tile k e).relWait = false →
      field (s.tile k e).addr 63 60 = 8 → s.rangesReady k (storeRanges k (s.tile k e) j.steps) = true →
      let r := (acc s).rowsBytes cols fd rnd sat (32 * j.steps) (rows - 32 * j.steps) (s.thread j.t).srseed
      let loc := tileLoc k (s.tile k e).addr + 32 * j.steps * rowSize fd cols
      Completes (.mstoreFillStep k) s (fun t => (t.thread j.t).run = .ready ∧ (t.thread j.t).srseed = r.2 ∧ (t.tile k e).state = .ready ∧
        (t.tile k e).filler = none ∧ (t.core k).jobs = (s.core k).jobs.erase j ∧
        (∀ i, i < r.1.length → (t.byte (loc + i)).toNat = r.1.getD i 0 % 256) ∧
        (∀ a, a < loc ∨ loc + r.1.length ≤ a → t.byte a = s.byte a))) ∧
    ((acc s).clearing = true → Completes (.accumulatorClear k one) s (fun t => (acc t).elems = [] ∧ (acc t).mask = [] ∧
      (acc t).clearing = false ∧ t.mem = s.mem ∧ t.threads = s.threads))

/-! ## Copies, engines and bit streams (06, 13, 14) -/

/-- 13 R343, R361, R362, R364, R365; 06 R171: CPY, TFILL, CPYW, CPYQ and CPYC. With its descriptor read and legal, its stores
settled, room in the engine's queue and energy, a CPY writes the first two words of its completion object, adds its command at
the tail of its engine, pays and goes on, and no other byte of memory changes; a TFILL of an empty tile makes it filling too.
CPYW goes on where word 0 holds a final status, and waits at its own pc where it holds none; CPYQ loads word 0; CPYC marks the commands of a completion object. -/
def Obligations.CopyResult : Prop :=
  ∀ (s : State) (e : BitVec 2) (a d : BitVec 5) (w : List Word) (i : Nat), s.enterInstr .core .plain = .ok {} →
    let k := coreOf s.cur
    let D := Desc.ofWords w
    let g := D.engine k
    let obj := locSpm k (16 * D.cobj)
    let cmd : Cmd := { id := s.nextCmd, desc := w, t := s.cur, core := k, cluster := clusterOf k, asid := s.me.asid, sv := s.me.sv,
                       launch := s.me.launch, srs := s.me.srseed, nextSrs := s.me.srseed }
    let can := s.readDesc a = .ok w ∧ s.checkDesc D = .ok () ∧ s.me.ebBudget ≠ 0 ∧ s.me.rsb = [] ∧ s.me.storeCount = 0 ∧
      s.spmAwake k (16 * D.cobj) = true
    let off := (s.x a).toNat % 2 ^ 18
    let started := fun (t : State) (c : Cmd) (cls : Nat) => Issued s t 4 ∧ (t.engine g).cmds = (s.engine g).cmds ++ [{ c with since := t.changed.length }] ∧
      t.readWord obj = cplWord0 0 g 0 ∧ t.readWord (obj + 8) = cplWord1 s.me.srseed 0 ∧
      (∀ x, x < obj ∨ obj + 16 ≤ x → t.byte x = s.byte x) ∧ (∀ r, t.me.sval r = s.me.sval r) ∧ t.me.run = s.me.run ∧
      t.me.ebBudget.toNat = s.me.ebBudget.toNat - cls * D.chunks
    (can → s.queued g < 16 → Completes (.cpy e a) s (fun t => started t cmd (2 ^ e.toNat))) ∧
    (let x := s.tile k i
     can → s.queued g < 16 → s.me.handle d.toNat = some i → x.state = .empty → x.op = .none → D.fillKind x = some .fill →
      (field x.addr 63 60 = 10 → x.addr.toNat % 2 ^ 24 + shapeSize x.shape ≤ (s.cluster (clusterOf k)).spw * 2 ^ 20) →
      Completes (.tfill a d) s (fun t => started t { cmd with fill := some i } 4 ∧
        t.tile k i = { x with state := .filling, filler := some (.engine s.nextCmd), bad := false })) ∧
    (∀ ys, s.cobjAddr (s.x a) false = .ok ys → spilledOf s.me [.s a false] = none → s.me.staint a.toNat = 0 →
      let same := fun (t : State) => t.mem = s.mem ∧ t.fifo = s.fifo ∧ t.engines = s.engines ∧ (∀ r, t.me.sval r = s.me.sval r ∧
        t.me.staint r = s.me.staint r) ∧ (∀ r, t.me.vval r = s.me.vval r) ∧ t.me.rsb = s.me.rsb
      (s.spmAwake k off = true → field (s.readWord (locSpm k off)) 63 60 ≠ 0 →
        Completes (.cpyw e a) s (fun t => same t ∧ Issued s t 4 ∧ t.me.run = s.me.run)) ∧
      (s.spmAwake k off = true → field (s.readWord (locSpm k off)) 63 60 = 0 →
        Completes (.cpyw e a) s (fun t => same t ∧ t.me.pc = s.me.pc ∧ t.me.run = .waiting (.completion off))) ∧
      Completes (.cpyc e a) s (fun t => Issued s t 4 ∧ t.mem = s.mem ∧ t.fifo = s.fifo ∧ (∀ r, t.me.sval r = s.me.sval r) ∧
        t.engines = s.engines.map (fun p => (p.1, { cmds := p.2.cmds.map (fun c =>
          if c.core = k ∧ 16 * (Desc.ofWords c.desc).cobj = off ∧ c.cancelled = false
            then { c with cancelled := true, cancelAt := s.cycle + 1 } else c) })))) ∧
    (∀ x q zs, s.cobjAddr (s.x a) true = .ok [(x, q)] →
      s.ready .read [.s a false] [.s a false] [({ x with width := 8 }, q)] = .ok zs →
        AsksAll (.cpyq e a d) s zs (.scalar d.toNat 8 false) (fun t => ∀ r, t.me.sval r = s.me.sval r))

/-- 06 R173, R174; 13 R362 to R364; 02 R67; 17 R422: the steps of a copy engine. The next queued command starts once every write
of those before it has performed; a cancelled command or one beyond the cluster memory's size takes its status at a chunk's
start, the former from the cycle after its CPYC on (13 R365); otherwise STOREs of the progress record enter the FIFO to the core, in
the pieces the environment picks (06 R164), and the chunk's first reads go out. A chunk whose packed group in cluster memory turns out
to reach beyond the size ends as one not started (log entry 98, DESIGN CHOICE). Replies fill the bytes of the chunk's lines that they
carry, acknowledgements and settles count its writes. With every write settled, chunks that a change of their source has made
undefined (04 R127) are written with free values (log entry 24); with none left the final status
performs at the completion object's home, a piece in each of the engine's own events, that of STAT the last (log entry 25, DESIGN
CHOICE), and with it the command is gone. -/
def Obligations.EngineResult : Prop :=
  ∀ (s : State) (g id : Nat) (h : Home) (c : Cmd),
    let cmds := (s.engine g).cmds
    let D := Desc.ofWords c.desc
    let obj := locSpm c.core (16 * D.cobj)
    let became := fun (t : State) (i : Nat) (f : Cmd → Cmd) => (t.engine g).cmds = cmds.map (fun x => if x.id = i then f x else x)
    (cmds.find? (fun c => c.entered && !c.running) = some c →
      (∀ x ∈ cmds, x.running = true → x.over = true ∧ ∀ r ∈ s.fifo, r.src ≠ .engine g x.id) →
        Completes (.engineCommandStart g) s (fun t => t.mem = s.mem ∧ became t c.id (fun x => { x with running := true }))) ∧
    (cmds.find? Cmd.mayStart = none → exec (.engineChunkStart g) s = .next s) ∧
    (∀ (n : Nat) (go : State → State),
      (c.groupBeyond n = false → s.startLate g c n go = go s) ∧
      (c.groupBeyond n = true → let t := s.startLate g c n go
        t.mem = s.mem ∧ t.fifo = s.fifo ∧ became t c.id (fun x => { x with stat := 3, phase := .idle }))) ∧
    (let v := wordsToNat [cplWord0 0 g c.chunk, cplWord1 c.srs c.poff]
     let piece := fun (o n : Nat) => (⟨.engine g c.id, { loc := obj + o, home := .core c.core },
       .store (byteMask ((obj + o) % 128) n) (placeData ((obj + o) % 128) (v / 256 ^ o % 256 ^ n)), none, 0, false, []⟩ : Req)
     let t := s.progressRecord g c
     t.mem = s.mem ∧ (∀ r ∈ s.fifo, r ∈ t.fifo) ∧ (∀ r ∈ t.fifo, r ∈ s.fifo ∨ ∃ o n, o + n ≤ 16 ∧ r = piece o n) ∧
     (s.picks = [] → t.fifo = s.fifo ++ [piece 0 16] ∧ became t c.id (fun x => { x with unsettled := x.unsettled + 1 }))) ∧
    (cmds.find? Cmd.mayStart = some c →
      (c.cancelled = true → c.cancelAt = s.cycle + 1 → exec (.engineChunkStart g) s = .next s) ∧
      (c.cancelled = true → c.cancelAt ≠ s.cycle + 1 →
        Completes (.engineChunkStart g) s (fun t => t.mem = s.mem ∧ became t c.id (fun x => { x with stat := 5 }))) ∧
      (c.cancelled = false → s.beyondSize c = true →
        Completes (.engineChunkStart g) s (fun t => t.mem = s.mem ∧ became t c.id (fun x => { x with stat := 3, phase := .idle }))) ∧
      (c.cancelled = false → s.beyondSize c = false →
        exec (.engineChunkStart g) s = .next ((((s.progressRecord g c).updCmd g c.id (fun x => { x.startChunk with
          size := (s.cluster c.cluster).spw * 2 ^ 20 })).cmdGo g c.id).maybeReads g c.id))) ∧
    (∀ m, s.headMsg (.engine g) h = some m →
      (∀ tag part p n v line flag, m.kind = .reply (.engine g id) tag part p n v line flag →
        exec (.engineReply g h) s = .next (((s.dropMsg m).updCmd g id (fun c => { c with
          got := NMap.set none c.got part (some (overlayLine (byteMask (p.loc % 128) n) line ((NMap.get none c.got part).getD 0))),
          places := NMap.set 0 c.places part (p.loc / 128 * 128), reading := c.reading - 1 })).maybeReads g id)) ∧
      (∀ mask data flag, m.kind = .ack (.engine g id) mask data flag →
        Completes (.engineAck g h) s (fun t => t.mem = s.mem ∧ t.rq = s.rq.erase m ∧ became t id (fun c =>
          if flag then { c with unsettled := c.unsettled - 1 } else { c with awaiting := c.awaiting ++ [(h, m.line)] }))) ∧
      (m.kind = .settle → Completes (.engineSettle g h) s (fun t => t.mem = s.mem ∧ t.rq = s.rq.erase m ∧
        (t.engine g).cmds = cmds.map (fun c => { c with awaiting := c.awaiting.filter (fun p => p ≠ (h, m.line)),
                                                        unsettled := c.unsettled - c.awaiting.count (h, m.line) })))) ∧
    (s.cmd g id = some c → c.running = true → c.over = true → c.unsettled = 0 → (∀ r ∈ s.fifo, r.src ≠ .engine g id) →
      s.threadsOf c.launch ≠ [] → s.coreAwake c.core obj = true →
      (s.undone c ≠ [] → Completes (.engineFinalStatus g id) s (fun t => t = s.rewrite g c ∧ t.mem = s.mem)) ∧
      (s.undone c = [] →
        let stat := if c.stat ≠ 0 then c.stat else if c.cancelled = true ∧ c.cancelAt ≠ s.cycle + 1 then 5 else 1
        let ws := cplWord0 stat g c.chunk :: (if D.pk = 1 ∧ stat = 1 then [cplWord1 c.srs c.poff] else [])
        let f := (s.finalOf g c).1
        let wrote := fun (t : State) (p : Nat × Nat × Nat) =>
          (∀ i, i < p.2.1 → (t.byte (obj + p.1 + i)).toNat = p.2.2 / 256 ^ i % 256) ∧
          ∀ x, x < obj + p.1 ∨ obj + p.1 + p.2.1 ≤ x → t.byte x = s.byte x
        (c.final = none → f.1 = stat ∧ (s.picks = [] → f.2 = [(0, 8 * ws.length, wordsToNat ws)]) ∧
          (∀ p ∈ f.2.dropLast, 7 < p.1 ∨ p.1 + p.2.1 ≤ 7) ∧ ∀ p ∈ f.2, p.1 + p.2.1 ≤ 8 * ws.length ∧ p.2.2 = wordsToNat ws / 256 ^ p.1 % 256 ^ p.2.1) ∧
        (∀ p q ps, f.2 = p :: q :: ps → p.1 + p.2.1 ≤ 16 → Completes (.engineFinalStatus g id) s (fun t =>
          wrote t p ∧ became t id (fun x => { x with final := some (f.1, q :: ps) }))) ∧
        (∀ p, f.2 = [p] → p.1 + p.2.1 ≤ 16 → Completes (.engineFinalStatus g id) s (fun t =>
          wrote t p ∧ (t.engine g).cmds = cmds.filter (fun x => x.id ≠ id) ∧
          (∀ e, c.fill = some e → (s.tile c.core e).state = .filling → (s.tile c.core e).relWait = false →
            (t.tile c.core e).state = if f.1 = 1 then .ready else .empty)))))

/-- 14 R376, R377; 04 R118: the bit-stream instructions of the transform thread. BSTAKE and BSPEEK give the `n` bits at the input
cursor, which BSTAKE, like BSSKIP, moves past them; BSEMIT appends bits to the output, and the bytes that this completes are
stored at OFF, OFF + 1, …, one STORE for each line (`lo`, then `hi`); BSALIGN moves both cursors to the next multiple of `n` bits,
the output's with zeros, which it stores as BSEMIT does; a cursor of another space it leaves. A store to a way of cluster memory that is
not usable yet issues, and its thread then waits out of rotation (02 R65; log entry 58, DESIGN CHOICE). -/
def Obligations.BitStreamResult : Prop :=
  ∀ (s : State) (c : BitVec 7) (m : Bool) (a d : BitVec 5), s.enterInstr .transform .plain = .ok {} →
    let n := c.toNat
    let rd := s.me.bsrd
    let wr := s.me.bswr
    let bit := field rd 26 24
    let out := field wr 26 24
    (cursorSpace rd = true → ∀ zs, s.access .read [] [] (cursorAccesses rd ((bit + n + 7) / 8)) = .ok zs →
      AsksAll (.bstake c d) s zs (.bits d.toNat bit n) (fun t => t.me.bsrd = cursorAt rd (cursorPos rd + n) ∧ t.me.bswr = wr ∧
        ∀ r, t.me.sval r = s.me.sval r) ∧
      AsksAll (.bspeek c d) s zs (.bits d.toNat bit n) (fun t => t.me.bsrd = rd ∧ t.me.bswr = wr ∧ ∀ r, t.me.sval r = s.me.sval r)) ∧
    (∀ (u g k : Nat) (ps : List Piece), let t := s.finishAccess u (.bits d.toNat bit n) ps (some g)
      (t.thread u).sval d.toNat = (if d = 0 then 0 else
        BitVec.ofNat 64 (bytesToNat ((List.range ps.length).map (fun i => (pieceVal ps i).toNat)) / 2 ^ bit % 2 ^ n)) ∧
      (t.thread u).staint d.toNat = (if d = 0 then 0 else tagBit g) ∧ t.mem = s.mem ∧
      (k ≠ d.toNat → (t.thread u).sval k = (s.thread u).sval k)) ∧
    Completes (.bsskip c) s (fun t => Issued s t 4 ∧ t.mem = s.mem ∧ t.me.bsrd = cursorAt rd (cursorPos rd + n) ∧ t.me.s = s.me.s) ∧
    (let places := fun (os : List Opnd) (k : Nat) => s.access .write os os (cursorAccesses wr ((out + k) / 8))
     let oneLine := fun (zs : List (Access × Place)) => ∀ y ∈ zs, ∀ z ∈ zs, lineOf y.2.loc = lineOf z.2.loc
     let emitted := fun (t : State) (v k : Nat) (lo hi : List (Access × Place)) =>
       let all := s.me.bsacc.toNat % 2 ^ out + v % 2 ^ k * 2 ^ out
       let store := fun (zs : List (Access × Place)) => zs.head?.toList.map (fun z => (⟨.thread s.cur, z.2,
         .store (byteMask (z.2.loc % 128) zs.length) (placeData (z.2.loc % 128) (bytesToNat (zs.map (fun y => all / 256 ^ y.1.index % 256)))),
         none, 0, false, []⟩ : Req))
       Issued s t 4 ∧ t.mem = s.mem ∧ t.fifo = s.fifo ++ store lo ++ store hi ∧
       t.me.storeCount = s.me.storeCount + (store lo ++ store hi).length ∧ t.me.bswr = cursorAt wr (cursorPos wr + k) ∧
       t.me.bsacc = BitVec.ofNat 7 (all / 256 ^ ((out + k) / 8)) ∧
       t.me.run = if s.busyWays (lo ++ hi) = [] then s.me.run else .waiting (.window (s.busyWays (lo ++ hi)))
     let rd' := if cursorSpace rd then cursorAt rd (cursorPos rd + padTo (cursorPos rd) n) else rd
     let p := padTo (cursorPos wr) n
     (∀ (os : List Opnd) (k : Nat) (zs : List (Access × Place)), cursorSpace wr = true → places os k = .ok zs →
       zs.map (·.1) = cursorAccesses wr ((out + k) / 8) ∧ ∀ z ∈ zs, z.2.loc = z.1.index +
         (if field wr 63 60 = 8 then locSpm (coreOf s.cur) (field wr 23 0) else locCluster (clusterOf (coreOf s.cur)) (field wr 23 0))) ∧
     (∀ lo hi : List (Access × Place), cursorSpace wr = true → oneLine lo → oneLine hi →
       (∀ y ∈ lo, ∀ z ∈ hi, lineOf y.2.loc ≠ lineOf z.2.loc) →
       (places [.s a m] n = .ok (lo ++ hi) → Completes (.bsemit c m a) s (fun t => emitted t (s.x a).toNat n lo hi ∧ t.me.bsrd = rd)) ∧
       (places [] p = .ok (lo ++ hi) → Completes (.bsalign c) s (fun t => emitted t 0 p lo hi ∧ t.me.bsrd = rd' ∧
         ∀ r, t.me.sval r = s.me.sval r))) ∧
     (cursorSpace wr = false → Completes (.bsalign c) s (fun t => Issued s t 4 ∧ t.mem = s.mem ∧ t.fifo = s.fifo ∧ t.me.bsrd = rd' ∧
       t.me.bswr = wr ∧ t.me.bsacc = s.me.bsacc ∧ t.me.storeCount = s.me.storeCount ∧ t.me.run = s.me.run ∧
       ∀ r, t.me.sval r = s.me.sval r)))

/-! ## CSRs, traps and system instructions (14, 18) -/

/-- 14 R378, R380; 06 R157: the CSR instructions. Each reads the old value into `s[d]` with empty taint; CSRW writes `s[a]`, CSRS
and CSRC its bits set or cleared, and with a = 0 nothing. A CSR that the state may not read, or that is written and may not be
written, raises an illegal-instruction trap. A read of `xfclaim` claims an entry of the ring (04 R121); one of `tmsg0` waits while the
inbox of the TSC is empty (01 R39).
01 R20; 02 R63; 03 R95; 04 R119, R120; 07 R206; 14 R381: what a write to a CSR with a rule of its own does, and what it
rejects; and the same writes as steps of a context. Writes to CLPART that arrive in one cycle are made in the order of 02 R63: the
command processor, the TSC, the cores in ascending order; one that comes after a later one of its cycle waits, or through
the window is not made (log 85, DESIGN CHOICE). -/
def Obligations.CsrResult : Prop :=
  (∀ (s : State) (c : BitVec 12) (n : Bool) (a d : BitVec 5), s.enterInstr .any .plain = .ok {} →
     let num := c.toNat
     let st := s.csrState s.cur
     let old := s.csrValue s.cur num
     let W := fun (i : Instr) (v : Word) => ∀ t, s.csrWrite s.cur num v = .ok t →
       exec i s = .next (((t.consume s.cur [.s a n]).setS s.cur d.toNat old 0).retire 4)
     (csrReadable st num = true → num ≠ 0x301 → num ≠ 0x103 →
       GivesS (.csrr c d) s [] d old ∧
       (a = 0 → spilledOf s.me [.s a n] = none → Completes (.csrs c n a d) s (fun t => Issued s t 4 ∧
         t.me.sval d.toNat = (if d = 0 then 0 else old) ∧ t.mem = s.mem ∧ t.clusters = s.clusters ∧
         Completes (.csrc c n a d) s (fun u => u = t))) ∧
       (csrWritable st (ctxOf s.cur) num = true → spilledOf s.me [.s a n] = none →
         W (.csrw c n a d) (s.x a) ∧
         (a ≠ 0 → W (.csrs c n a d) (old ||| s.x a) ∧ W (.csrc c n a d) (old &&& ~~~s.x a)))) ∧
     (csrReadable st num = false → csrWritable st (ctxOf s.cur) num = false →
       ∀ i ∈ [.csrr c d, .csrw c n a d, .csrs c n a d, .csrc c n a d], exec i s = settle s illegal) ∧
     (csrReadable st num = true → csrWritable st (ctxOf s.cur) num = false →
       exec (.csrw c n a d) s = settle s illegal ∧
       (a ≠ 0 → exec (.csrs c n a d) s = settle s illegal ∧ exec (.csrc c n a d) s = settle s illegal)) ∧
     (num = 0x103 → csrReadable st num = true →
       let k := s.core (coreOf s.cur)
       Completes (.csrr c d) s (fun t => Issued s t 4 ∧
         if k.xfLog ≠ 0 ∧ (k.claim - k.head).toNat < 2 ^ k.xfLog then
           (t.core (coreOf s.cur)).claim = k.claim + 1 ∧ t.me.sval d.toNat = (if d = 0 then 0 else k.claim.setWidth 64)
         else (t.core (coreOf s.cur)).claim = k.claim ∧ t.me.sval d.toNat = (if d = 0 then 0 else -1))) ∧
     (num = 0x301 → csrReadable st num = true →
       let cl := clusterOf (coreOf s.cur)
       ((s.cluster cl).inbox = [] → Completes (.csrr c d) s (fun t => t.me.run = .waiting .inbox ∧ t.me.pc = s.me.pc ∧ t.mem = s.mem)) ∧
       (∀ h hs, (s.cluster cl).inbox = h :: hs → Completes (.csrr c d) s (fun t => Issued s t 4 ∧ t.mem = s.mem ∧
         t.me.sval d.toNat = (if d = 0 then 0 else h.w0) ∧ (t.cluster cl).inbox = h :: hs ∧ (t.cluster cl).working = true)))) ∧
  (∀ (s : State) (u : Nat) (v : Word),
     let x := s.thread u
     let k := coreOf u
     let low := v.toNat % 2 ^ 32
     (s.csrWrite u 0x002 v = if v = 0 ∨ 2 ^ 32 ≤ v.toNat ∨ (x.sv = false ∧ x.mc < v.toNat) then illegal
       else .ok (s.setThread u { x with mc := v.toNat })) ∧
     (s.csrWrite u 0x006 v = .ok (s.setThread u { x with srseed := if low = 0 then 1 else BitVec.ofNat 32 low })) ∧
     (s.csrWrite u 0x00A v = if v.toNat % 2 ^ 38 ≠ 0 ∨ 64 < v.toNat / 2 ^ 46 % 64 + v.toNat / 2 ^ 39 % 128 then illegal
       else .ok (s.setThread u { x with lgrant := ⟨v.extractLsb' 52 12, v.extractLsb' 46 6, v.extractLsb' 39 7, v.getLsbD 38⟩ })) ∧
     (s.csrWrite u 0x020 v = .ok (s.setThread u { x with tvec := v &&& ~~~0x3F#64 })) ∧
     (s.csrWrite u 0x021 v = .ok (s.setThread u { x with epc := v &&& ~~~1#64 })) ∧
     (s.csrWrite u 0x022 v = .ok (s.setThread u { x with estatus := v })) ∧
     (s.csrWrite u 0x024 v = .ok (s.setThread u { x with escratch := v })) ∧
     (let lg := v.toNat / 2 ^ 36 % 16
      let base := v.toNat / 2 ^ 6 % 4096
      s.csrWrite u 0x101 v = if 12 < lg ∨ 0x40000 < base * 64 + 2 ^ lg * 64 then illegal
        else .ok (s.setCore k { s.core k with xfLog := lg, xfBase := base, claim := 0, head := 0 })) ∧
     (let c := s.core k
      let new : BitVec 16 := v.setWidth 16
      s.csrWrite u 0x102 v = if (new - c.head).toNat ≤ (c.claim - c.head).toNat then .ok (s.setCore k { c with head := new }) else illegal) ∧
     (x.run = .ready → isTsc u = false →
       let E := fun (i : Instr) (n : Nat) => csrWritable (s.csrState u) (ctxOf u) n = true → ∀ t, s.csrWrite u n v = .ok t → exec i s = .next t
       E (.mcWrite u v) 0x002 ∧ E (.srseedWrite u v) 0x006 ∧ E (.lgrantWrite u v) 0x00A ∧ E (.xfringWrite u v) 0x101 ∧
       E (.xfheadWrite u v) 0x102 ∧
       (∀ d : BitVec 5, let c := s.core k
         Completes (.xfclaimRead u d) s (fun t => t.mem = s.mem ∧
           if c.xfLog ≠ 0 ∧ (c.claim - c.head).toNat < 2 ^ c.xfLog then
             (t.core k).claim = c.claim + 1 ∧ (t.thread u).sval d.toNat = (if d = 0 then 0 else c.claim.setWidth 64)
           else (t.core k).claim = c.claim ∧ (t.thread u).sval d.toNat = (if d = 0 then 0 else -1)))) ∧
     (∀ r q, q < r → ∀ cl, (s.tie (.clpart cl) r).tieOk (.clpart cl) q = false) ∧
     (s.csrWrite u 0x200 v = if clpartBad v then illegal
       else if s.tieOk (.clpart (clusterOf k)) (if isTsc u then 1 else 2 + localOf k) then
         .ok ((s.writeClpart (clusterOf k) v).tie (.clpart (clusterOf k)) (if isTsc u then 1 else 2 + localOf k))
       else .error (.goto s)) ∧
     (∀ cl, clpartBad v = true ∨ s.tieOk (.clpart cl) 0 = false → exec (.clpartWrite cl v) s = .next s) ∧
     (∀ cl, clpartBad v = false → s.tieOk (.clpart cl) 0 = true →
       exec (.clpartWrite cl v) s = .next ((s.writeClpart cl v).tie (.clpart cl) 0) ∧
       ((s.cluster cl).busy = true → (s.writeClpart cl v).slices = s.slices ∧ ((s.writeClpart cl v).cluster cl).refused = true ∧
         ((s.writeClpart cl v).cluster cl).spw = (s.cluster cl).spw) ∧
       ((s.cluster cl).busy = false → let t := s.writeClpart cl v
         (t.cluster cl).spw = v.toNat % 32 ∧ t.mem = s.mem ∧ ((t.cluster cl).busy = true ↔ v.toNat % 32 ≠ (s.cluster cl).spw) ∧
         ((s.cluster cl).spw < v.toNat % 32 → (t.cluster cl).drain = true))))

/-- Trap entry writes `epc`, `estatus` and `ecause`, sets SV, PIN and the handler flag, clears PFX and goes to `tvec`; with `tvec` 0
the context stops in place. It changes no register, tag, RSB slot, tile or `mc`, and no other thread. -/
def Obligations.TrapEntryResult : Prop :=
  ∀ (s : State) (u : Nat) (q : TrapReq),
    let x := s.thread u
    let t := s.trapEntry u q
    let y := t.thread u
    y.epc = (if q.past then x.pc + 4 else x.pc) &&& ~~~1#64 ∧ y.estatus = x.status ∧
    y.ecause = BitVec.ofNat 13 (q.code % 32 * 256 + q.cause % 32) ∧ y.fadr = q.fadr.getD x.fadr ∧
    y.sv = true ∧ y.pfx = false ∧ y.pin = true ∧ y.hflag = true ∧
    y.s = x.s ∧ y.v = x.v ∧ y.k = x.k ∧ y.tags = x.tags ∧ y.rsb = x.rsb ∧ y.mc = x.mc ∧ y.tcons = x.tcons ∧ y.handles = x.handles ∧
    y.children = x.children ∧ y.tvec = x.tvec ∧ y.escratch = x.escratch ∧
    (x.tvec ≠ 0 → y.pc = x.tvec ∧ (x.releasing = [] → y.run = .ready) ∧ t.mem = s.mem) ∧
    (x.tvec = 0 → y.pc = x.pc ∧ y.run = .trapStopped ∧ ∃ v : State, v.mem = s.mem ∧ v.funcs = s.funcs ∧
      t = v.notice 0x02 1 x.fn x.launch (y.ecause.zeroExtend 64) y.epc y.fadr) ∧
    (∀ k, (t.core k).tiles = (s.core k).tiles) ∧ t.fifo = s.fifo ∧ (∀ v, v ≠ u → t.thread v = s.thread v)

/-- 14 R366, R382 to R384, R387; 18 R423, R426: TRAP, DBG, ERET, HALT, CWB and CINV. TRAP and DBG take their trap; ERET returns to
`epc` with SV and PFX as saved and clears the handler flag, and faults with `epc` where that is no address; HALT is a commit
point after which the context waits to be Drained; CWB and CINV do nothing at an address that no L1 may cache, and otherwise queue
a write-back, or drop the core's copy. The pc of a CWB moves on at its issue, before its write-back is done (log 42, DEDUCED).
14 R384; 22 R452: the second half of HALT. Once the context is Drained it halts, out of rotation, its registers as they stand, and a
notice of KIND 0x03 names its context, its core and its pc. -/
def Obligations.SystemResult : Prop :=
  (∀ (s : State) (b a : BitVec 5) (n : Bool), isTsc s.cur = false →
     (s.enterInstr .core .plain = .ok {} →
       exec (.trap b) s = .next (s.trapEntry s.cur { cause := 9, code := b.toNat, past := true }) ∧
       (s.debugger = false → exec (.dbg b) s = .next (s.trapEntry s.cur { cause := 8, code := b.toNat, past := true })) ∧
       (s.debugger = true → Completes (.dbg b) s (fun t => t.me.run = .debugStopped ∧ t.me.epc = (s.me.pc + 4) &&& ~~~1#64 ∧
         t.me.estatus = s.me.status ∧ t.me.s = s.me.s ∧ t.me.sv = s.me.sv ∧ t.mem = s.mem)) ∧
       (s.lineOperand n a = .ok none →
         Completes (.cwb n a) s (fun t => RegFrame s t [.s a n] noReg noReg noReg s.me.run s.me.srseed ∧ Issued s t 4) ∧
         Completes (.cinv n a) s (fun t => RegFrame s t [.s a n] noReg noReg noReg s.me.run s.me.srseed ∧ Issued s t 4)) ∧
       (∀ p, s.lineOperand n a = .ok (some p) →
         Completes (.cwb n a) s (fun t => Issued s t 4 ∧ t.me.run = .waiting .writeback ∧ t.mem = s.mem ∧
           t.fifo = s.fifo ++ [⟨.thread s.cur, { p with loc := p.loc / 128 * 128 }, .writeback, none, 0, false, []⟩]) ∧
         Completes (.cinv n a) s (fun t => Issued s t 4 ∧ t.me.run = s.me.run ∧ t.mem = s.mem ∧ t.fifo = s.fifo ∧
           t.l1 (coreOf s.cur) (p.loc / 128) = none ∧
           (∀ k l, (k, l) ≠ (coreOf s.cur, p.loc / 128) → t.l1 k l = s.l1 k l)))) ∧
     (s.enterInstr .supervisor .plain = .ok {} →
       (s.me.epc.toNat < 2 ^ 52 → Completes .eret s (fun t => t.me.pc = s.me.epc ∧ t.me.sv = s.me.estatus.getLsbD 0 ∧
         t.me.pfx = s.me.estatus.getLsbD 8 ∧ t.me.hflag = false ∧ t.me.pin = s.me.pin ∧ t.me.s = s.me.s ∧ t.me.v = s.me.v ∧
         t.me.k = s.me.k ∧ t.me.rsb = s.me.rsb ∧ t.me.epc = s.me.epc ∧ t.me.estatus = s.me.estatus ∧ t.me.run = s.me.run ∧
         (∀ u, u ≠ s.cur → t.thread u = s.thread u) ∧ t.outside = s.outside)) ∧
       (2 ^ 52 ≤ s.me.epc.toNat → exec .eret s = .next (s.trapEntry s.cur { cause := 3, fadr := some s.me.epc })) ∧
       (s.me.cancel = false → exec .halt s = .next ((s.beginCommit .halt).awaitDrained s.cur))) ∧
     (∀ (r : Req), s.fifo.find? (fun r => r.src = .thread s.cur && r.kind = .writeback) = some r → s.headReq (.thread s.cur) r.place.home = some r →
       s.flipHolds r = false → s.me.run = .waiting .writeback → s.me.releasing = [] →
       (∀ q ∈ s.fifo.erase r, q.src = .thread s.cur → q.kind ≠ .writeback) →
       Completes (.cwbWritebackDone s.cur) s (fun t => t.me.run = .ready ∧ t.fifo = s.fifo.erase r ∧ t.mem = s.mem ∧
         ∀ l, s.slice (lineOf r.place.loc) = some l → (t.slice (lineOf r.place.loc)).map (·.dirty) = some false))) ∧
  (∀ (s : State) (u : Nat),
     let x := s.thread u
     (u = s.cur → x.run = .waiting .drained → x.stage = some .halt → s.turn = .over (.next (if x.drained = true then s.goStage u .halt else s))) ∧
     (x.drained = true → ∃ v : State, s.goStage u .halt = v.notice 0x03 0 x.fn x.launch
         (BitVec.ofNat 64 (ctxOf u * 2 ^ 12 + coreField (coreOf u))) x.pc 0 ∧
       v.thread u = { x with stage := none, run := .halted } ∧ (∀ w, w ≠ u → v.thread w = s.thread w) ∧ v.mem = s.mem ∧ v.fifo = s.fifo ∧
       v.launches = s.launches ∧ v.clusters = s.clusters ∧ v.core (coreOf u) = (s.core (coreOf u)).leave u))

/-- 14 R366; 09 R266, R269; 18 R424: what comes before an instruction's own checks. An instruction of a family that the issuing
thread may not run traps, whatever its operands; so does one before which a prefix is pending that its family does not take, and
one whose family needs a prefix where none is pending. -/
def Obligations.PlacementTraps : Prop :=
  ∀ (s : State) (i : Instr) (w : BitVec 12) (p q a b d : BitVec 5) (e : BitVec 2) (c : BitVec 7) (m n : Bool),
    let bad := exec i s = settle s illegal
    (i ∈ [.fork p, .meet w p, .meetC w q p, .spawn p, .taskend] → s.may .userContext = false ∨ s.me.pfx = true → bad) ∧
    (i ∈ [.done, .align, .yield, .commit, .hrq q p, .waitw, .trap p, .dbg p, .cwb n a, .cinv n a] →
      s.may .core = false ∨ s.me.pfx = true → bad) ∧
    (i ∈ [.eret, .halt] → s.may .supervisor = false ∨ s.me.pfx = true → bad) ∧
    (i = .hrqSw q p → s.may .supervisorUserContext = false ∨ s.me.pfx = true → bad) ∧
    (i ∈ [.bstake c d, .bspeek c d, .bsskip c, .bsemit c n a, .bsalign c] → s.may .transform = false ∨ s.me.pfx = true → bad) ∧
    (i ∈ [.tlbw m n b a, .tlbi m e n a d] → s.may .tsc = false ∨ s.me.pfx = true → bad) ∧
    (i ∈ [.add m m n b a d, .lb (w.setWidth 10) n b d] → s.may .any = false ∨ s.me.pfx = true → bad) ∧
    (i ∈ [.vqnt n a d, .vdqnt n a d, .vdot n b a d] → s.may .core = false ∨ s.me.pfx = false → bad) ∧
    (s.may .core = true ↔ isTsc s.cur = false ∧ ctxOf s.cur ≠ 14) ∧
    (s.may .userContext = true ↔ isTsc s.cur = false ∧ ctxOf s.cur < 14) ∧
    (s.may .supervisor = true ↔ isTsc s.cur = false ∧ ctxOf s.cur ≠ 14 ∧ s.me.sv = true) ∧
    (s.may .transform = true ↔ isTsc s.cur = false ∧ ctxOf s.cur = 15) ∧
    (s.may .tsc = true ↔ isTsc s.cur = true)

/-! ## Translation and fetch (01, 07, 14) -/

/-- 14 R385, R386; 01 R27, R30, R41, R42: TLBW and TLBI. A TLBW with an illegal entry traps; a legal one goes to the core, the
engine cache or the cluster cache that `twtgt` names. After a TLBI no removed entry is left in the caches and TLBs it covers,
and the TSC waits: for every request, region store buffer slot and SPAWN of the covered cores that was translated through an entry of
the scope; it goes on once none of these accesses is still to perform. The entries go at its issue (log 26, DESIGN CHOICE), those on
their way to a core among them, whose waiting threads retry (01 R35).
01 R30, R35, R38, R39; 07 R196: entries and messages on their way. A core's TLB takes the entry, and a thread whose access it
covers retries, the entry in the first unlocked slot from the pointer on (log 78, DESIGN CHOICE); of the messages on their way, in the order of their sending (log 105, DESIGN CHOICE), one that the cluster cache cannot serve enters the inbox; POP removes its head, DEFER moves it; a shootdown
sends its request to each of the 168 TSCs and is complete with the last acknowledgement (01 R43); a fetch block reaches the cores of
the threads that wait for it and may run it. Its bytes are those of memory at the delivery, or those that the cluster's instruction
cache has kept since memory held them (log 38, DESIGN CHOICE). -/
def Obligations.TranslationResult : Prop :=
  (∀ (s : State) (m n t : Bool) (b a d : BitVec 5) (sc : BitVec 2), s.enterInstr .tsc .plain = .ok {} → isTsc s.cur = true →
     let cl := clusterOf (coreOf s.cur)
     let e : Tlb := ⟨s.x a, s.x b⟩
     let w := (s.cluster cl).twtgt
     let scope := sc.toNat
     (e.legal = true → spilledOf s.me (rrOps m n b a) = none →
       (w.getLsbD 5 = false → w.getLsbD 4 = true → Completes (.tlbw m n b a) s (fun t => Issued s t 4 ∧ t.mem = s.mem ∧
         (t.cluster cl).writebacks = (s.cluster cl).writebacks ++ [(coreAt cl (w.toNat % 16), e)])) ∧
       (w.getLsbD 5 = false → w.getLsbD 4 = false → (s.cluster cl).ctc = [] →
         Completes (.tlbw m n b a) s (fun t => Issued s t 4 ∧ t.mem = s.mem ∧ NMap.get {} (t.cluster cl).ctc 0 = e)) ∧
       (w.getLsbD 5 = true → w.toNat / 64 ≤ 47 → Completes (.tlbw m n b a) s (fun t =>
         ∃ u, Issued s u 4 ∧ t = u.etcWrite (w.toNat / 64 / 4) e))) ∧
     (e.legal = false → exec (.tlbw m n b a) s = settle s illegal) ∧
     (spilledOf s.me [.s a n] = none →
       let ks := if t then [coreAt cl d.toNat] else clusterCores cl
       Completes (.tlbi t sc n a d) s (fun u => u.me.run = .waiting .tlbi ∧ u.me.pc = s.me.pc ∧ u.mem = s.mem ∧
         (∀ k ∈ ks, ∀ p ∈ (u.core k).tlb, p.2.removed scope (s.x a) = false) ∧
         (t = false → ∀ p ∈ (u.cluster cl).ctc, p.2.removed scope (s.x a) = false) ∧
         (∀ p ∈ (u.cluster cl).writebacks, p.1 ∈ ks → p.2.removed scope (s.x a) = false) ∧
         ∃ w, (u.cluster cl).tlbi = some w ∧
           (∀ r ∈ s.fifo, ∀ v, r.src = .thread v → coreOf v ∈ ks → ∀ p ∈ r.places, inScope scope (s.x a) p = true → (r.src, p) ∈ w.held) ∧
           (∀ k ∈ ks, ∀ v ∈ coreThreads k, ∀ p, (p ∈ (s.thread v).rsb.flatMap Slot.places ∨ (s.thread v).spawnPlace = some p) →
             inScope scope (s.x a) p = true → (.thread v, p) ∈ w.held) ∧
           (∀ p ∈ (s.cluster cl).writebacks, p.1 ∈ ks → p.2.removed scope (s.x a) = true → ∀ j x v acc, coreOf j = p.1 → j ≠ s.cur →
             (s.thread j).run = .waiting (.tlb x v acc) → p.2.covers x (v.toNat / 2 ^ 19) = true → (s.thread j).releasing = [] →
             (u.thread j).run = .ready))) ∧
     (∀ x, (s.cluster cl).tlbi = some x → (∃ h ∈ x.held, (∃ r ∈ s.fifo, r.src = h.1 ∧ h.2 ∈ r.places) ∨
         ∃ v, h.1 = .thread v ∧ (h.2 ∈ (s.thread v).rsb.flatMap Slot.places ∨ (s.thread v).spawnPlace = some h.2)) →
       exec (.tlbiCompletion cl) s = .next s) ∧
     (∀ x, (s.cluster cl).tlbi = some x → s.cur = tscThread cl → s.me.releasing = [] →
       (∀ h ∈ x.held, let gone := fun (p : Place) => lineOf p.loc ≠ lineOf h.2.loc ∨ p.pair ≠ h.2.pair
         (∀ r ∈ s.fifo, r.src = h.1 → ∀ p ∈ r.places, gone p) ∧
         ∀ u, h.1 = .thread u → ∀ p, (p ∈ (s.thread u).rsb.flatMap Slot.places ∨ (s.thread u).spawnPlace = some p) → gone p) →
       Completes (.tlbiCompletion cl) s (fun u => u.me.run = .ready ∧ u.me.pc = s.me.pc + 4 ∧ (u.cluster cl).tlbi = none ∧ u.mem = s.mem))) ∧
  (∀ (s : State) (cl k asid va : Nat) (e : Tlb),
     let c := s.cluster cl
     (clusterOf k = cl → c.writebacks = [(k, e)] → sameEntry (s.core k).tlb e = none →
       let i := nextUnlocked (s.core k).tlb 64 (s.core k).tlbPtr 64
       Completes (.tlbWriteback k) s (fun t => (t.cluster cl).writebacks = [] ∧ t.mem = s.mem ∧
         (NMap.get {} (t.core k).tlb i = e ∨ NMap.get {} (t.core k).tlb i = e.unlocked) ∧
         (∀ j a v acc, coreOf j = k → (s.thread j).run = .waiting (.tlb a v acc) → e.covers a (v.toNat / 2 ^ 19) = true →
           (s.thread j).releasing = [] → (t.thread j).run = .ready))) ∧
     (∀ m ms, c.mesh = m :: ms → c.inbox.length < 64 → (m.kind = 4 ∨ tlbLookup c.ctc m.asid m.page = none) →
       Completes (.tscMessageArrival cl) s (fun t => (t.cluster cl).mesh = ms ∧ (t.cluster cl).inbox = c.inbox ++ [m] ∧ t.mem = s.mem)) ∧
     (∀ m ms, c.inbox = m :: ms →
       ((s.thread (tscThread cl)).run = .waiting .inbox → (s.thread (tscThread cl)).releasing = [] →
         Completes (.tscMsgRead cl) s (fun t => (t.thread (tscThread cl)).run = .ready ∧ t.clusters = s.clusters ∧ t.mem = s.mem)) ∧
       Completes (.tinboxPop cl) s (fun t => (t.cluster cl).inbox = ms ∧ (t.cluster cl).deferred = c.deferred ∧ t.mem = s.mem ∧
         (m.kind = 4 → (t.cp m.cp).acks = (s.cp m.cp).acks + 1 ∧
           ((t.cp m.cp).shooting = true ↔ (s.cp m.cp).shooting = true ∧ (s.cp m.cp).acks + 1 < 168)) ∧ (m.kind ≠ 4 → t.cps = s.cps)) ∧
       Completes (.tinboxDefer cl) s (fun t => (t.cluster cl).inbox = ms ∧ (t.cluster cl).deferred = c.deferred ++ [m] ∧ t.mem = s.mem)) ∧
     (∀ p scope te0 rest, (s.cp p).shoots = (scope, te0) :: rest → (s.cp p).shooting = false → (s.cp p).running = true →
       let t := s.shoot p
       (t.cp p).shooting = true ∧ (t.cp p).acks = 0 ∧ (t.cp p).shoots = rest ∧ t.mem = s.mem ∧
         ∀ j, j < 168 → (t.cluster j).mesh = (s.cluster j).mesh ++ [shootMsg p scope te0]) ∧
     (∀ f u, c.fetches = [f] → f.asid = asid → f.va = va → f.waiters = [u] → (s.thread u).releasing = [] →
       tlbLookup c.ctc asid (va / 2 ^ 19) = some e → e.fails va (s.thread u).sv .exec = none →
       Completes (.fetchBlockDelivery cl asid va) s (fun t => (t.thread u).run = .ready ∧ (t.cluster cl).fetches = [] ∧ t.mem = s.mem ∧
         ∃ b, ⟨asid, va, b⟩ ∈ (t.core (coreOf u)).blocks ∧ (b = BitVec.ofNat 512 (s.read (e.pa va) 64) ∨ (e.pa va, b) ∈ c.icache) ∧
           ((∀ p ∈ c.icache, p.1 ≠ e.pa va) → b = BitVec.ofNat 512 (s.read (e.pa va) 64)))) ∧
     (∀ f, c.fetches = [f] → f.asid = asid → f.va = va → f.waiters ≠ [] → f.asked = false → tlbLookup c.ctc asid (va / 2 ^ 19) = none →
       Completes (.fetchBlockDelivery cl asid va) s (fun t => (t.cluster cl).mesh = c.mesh ++ [fetchMsg f] ∧
         (t.cluster cl).fetches = [{ f with asked := true }] ∧ t.mem = s.mem ∧ t.threads = s.threads)))

/-- 01 R39, R48, R49, R51: fault records. A posted fault takes the head message, and a thread of an unpinned region aborts its
region, which restores the registers and CSRs of its checkpoint (18 R428; 14 R379), and parks on the record, with 64 records pending too, its record then to be posted when one frees (log 28, DEDUCED); a pinned thread that waits
for a fetched block posts a record of its own and traps (log 87, DESIGN CHOICE). A RETRY returns a parked thread to rotation at
`regpc`, a KILL traps it there; an answer that matches no record changes nothing; an answer overdue is told once. An answer is a machine-mode CSR write of a command
processor (22 R443), which from supervisor mode raises the illegal-instruction exception (log 69, PRESUMED). -/
def Obligations.FaultResult : Prop :=
  ∀ (s : State) (cl u : Nat) (v : Word) (m : TscMsg) (ms : List TscMsg),
    let c := s.cluster cl
    let machine := (s.cp s.chosenCp.1).smode = false
    (c.inbox = [] → field v 35 32 ∈ [1, 2, 3, 4, 5, 6] →
      Completes (.tfpost cl v) s (fun t => (t.cluster cl).tfail = true ∧ t.threads = s.threads ∧ t.mem = s.mem) ∧
      Completes (.tfattach cl v) s (fun t => (t.cluster cl).rej = true ∧ t.threads = s.threads ∧ t.mem = s.mem)) ∧
    (c.inbox = m :: ms → field v 35 32 ∈ [1, 2, 3, 4, 5, 6] → c.faults = [] → m.kind = 1 → m.pin = false → m.thread = u →
      m.core = coreOf u → (s.thread u).pin = false → (s.thread u).run = .waiting (.tlb m.asid m.w1 m.acc) →
      (∀ w, coreOf w = coreOf u → w ≠ u → (s.thread w).owed = none ∧ ∀ a x y, (s.thread w).run ≠ .waiting (.tlb a x y)) →
      (s.thread u).children = [] → (s.thread u).tcons = [] →
      Completes (.tfpost cl v) s (fun t => (t.thread u).run = .parked .fault ∧ Aborted (s.thread u) (t.thread u) ∧ (t.cluster cl).inbox = ms ∧ (t.cluster cl).tfail = false ∧
        ∃ f, (t.cluster cl).faults = [f] ∧ f.asid = m.asid ∧ f.va = m.w1 ∧ f.waiters = [.thread u m.w1] ∧
          (t.thread u).faultSeq = some f.seq)) ∧
    (c.inbox = m :: ms → field v 35 32 ∈ [1, 2, 3, 4, 5, 6] → 64 ≤ c.faults.length → m.kind = 1 → m.pin = false → m.thread = u →
      m.core = coreOf u → (s.thread u).pin = false → (s.thread u).run = .waiting (.tlb m.asid m.w1 m.acc) →
      (∀ w, coreOf w = coreOf u → w ≠ u → (s.thread w).owed = none ∧ ∀ a x y, (s.thread w).run ≠ .waiting (.tlb a x y)) →
      (s.thread u).children = [] → (s.thread u).tcons = [] →
      Completes (.tfpost cl v) s (fun t => (t.thread u).run = .parked .fault ∧ Aborted (s.thread u) (t.thread u) ∧ (t.thread u).owed = some (m.w1, m.acc) ∧ (t.cluster cl).inbox = m :: ms ∧ (t.cluster cl).tfail = true ∧
        (t.cluster cl).faults = c.faults)) ∧
    (∀ f, c.inbox = m :: ms → field v 35 32 ∈ [1, 2, 3, 4, 5, 6] → c.faults = [] → m.kind = 2 → c.msgFetch m = some f →
      f.waiters = [u] → (s.thread u).pin = true → (s.thread u).tvec ≠ 0 →
      Completes (.tfpost cl v) s (fun t => (t.thread u).pc = (s.thread u).tvec ∧ (t.thread u).ecause = 5 ∧
        (t.thread u).fadr = m.w1 ∧ (t.thread u).epc = (s.thread u).pc &&& ~~~1#64 ∧ (t.cluster cl).inbox = ms ∧
        ∃ g, (t.cluster cl).faults = [g] ∧ g.pin = true ∧ g.waiters = [] ∧ g.asid = m.asid ∧ g.va = m.w1)) ∧
    (∀ f o, machine → c.faults = [f] → c.owed = [o] → f.waiters = [] →
      Completes (.faultAnswerRetry cl f.asid f.seq) s (fun t => (t.cluster cl).owed = [] ∧ ∃ g, (t.cluster cl).faults = [g] ∧
        g.pin = o.pin ∧ g.asid = o.asid ∧ g.va = o.words.getD 1 0 ∧ g.posted = s.cycle)) ∧
    (∀ f, c.faults = [f] → c.deferred = [] → c.owed = [] →
      (machine → f.waiters = [.thread u f.va] →
        ((s.thread u).releasing = [] → Completes (.faultAnswerRetry cl f.asid f.seq) s (fun t => (t.cluster cl).faults = [] ∧ t.mem = s.mem ∧
          (t.thread u).run = .ready ∧ (t.thread u).pc = (s.thread u).pc ∧ (t.thread u).faultSeq = none ∧ (t.thread u).s = (s.thread u).s)) ∧
        ((s.thread u).tvec ≠ 0 → Completes (.faultAnswerKill cl f.asid f.seq) s (fun t => (t.cluster cl).faults = [] ∧ t.mem = s.mem ∧
          (t.thread u).pc = (s.thread u).tvec ∧ (t.thread u).ecause = 5 ∧ (t.thread u).fadr = f.va ∧
          (t.thread u).fcause = BitVec.ofNat 6 (field f.w0 37 32) ∧ (t.thread u).epc = (s.thread u).pc &&& ~~~1#64))) ∧
      (f.late = false → f.posted + (s.cp (s.server f.fn)).ans * 4096 ≤ s.cycle →
        Completes (.faultAnswerTimeout cl f.seq) s (fun t => (t.cluster cl).faults = [{ f with late := true }] ∧ t.threads = s.threads)) ∧
      (∀ asid seq, machine → (asid, seq) ≠ (f.asid, f.seq) →
        exec (.faultAnswerRetry cl asid seq) s = .next s.chosenCp.2 ∧ exec (.faultAnswerKill cl asid seq) s = .next s.chosenCp.2)) ∧
    (¬ machine → ∀ asid seq, exec (.faultAnswerRetry cl asid seq) s = .next (s.chosenCp.2.cpIllegal s.chosenCp.1) ∧
      exec (.faultAnswerKill cl asid seq) s = .next (s.chosenCp.2.cpIllegal s.chosenCp.1)) ∧
    (∀ f, c.inbox = m :: ms → c.faults = [f] → f.seq = v.toNat % 2 ^ 16 → f.pin = false → m.pin = false → m.kind = 2 → f.asid = m.asid →
      f.va.toNat / 2 ^ 19 = m.page → field f.w0 37 36 = m.acc → c.msgFetch m = none →
      Completes (.tfattach cl v) s (fun t => (t.cluster cl).inbox = ms ∧ t.mem = s.mem ∧ t.threads = s.threads ∧ (t.cluster cl).rej = c.rej))

/-! ## Memory levels, budgets and power (02, 04, 13, 22) -/

/-- 02 R56, R57, R65 to R68; 04 R111, R113 to R115: a bank falls drowsy and wakes, a core is gated and wakes; a block is expanded
or compressed; a CLPART transition goes on. None of these changes a byte of memory, but for an uncorrectable error, whose block
becomes zeros with a notice, and for the surrendered ways of a shrink, which read as zero. An access that finds its bank drowsy or
its core gated leaves that it waits, and wakes it so; the thread of one that waits at the expander, or at a bank of its own core, leaves rotation. The notice names the launch of the cluster's lowest core that has one, and its
asid (log 44, DEDUCED); a core wakes with its banks drowsy, and a bank that wakes counts as touched (log 43). -/
def Obligations.ResidencyResult : Prop :=
  ∀ (s : State) (k b cl blk : Nat),
    let c := s.core k
    let x := s.cluster cl
    (b < 32 → c.spIdle ≠ 0 → c.spAwake.getLsbD b = true → max (NMap.get 0 c.touched b) s.dieReset + c.spIdle.toNat * 64 ≤ s.cycle →
      Completes (.bankDrowsy k b) s (fun t => t.mem = s.mem ∧ t.threads = s.threads ∧ { t.core k with spAwake := c.spAwake } = c ∧
        ∀ j, (t.core k).spAwake.getLsbD j = (c.spAwake.getLsbD j && decide (j ≠ b)))) ∧
    (c.wanted.contains b = true → b < 32 → c.gated = false → c.spAwake.getLsbD b = false →
      Completes (.bankWake k b) s (fun t => t.mem = s.mem ∧ t.threads = s.threads ∧ (t.core k).wanted = c.wanted.filter (fun i => i ≠ b) ∧
        ∀ j, (t.core k).spAwake.getLsbD j = (c.spAwake.getLsbD j || decide (j = b)))) ∧
    (∀ (src : Src) (h : Home) (r : Req), s.headReq src h = some r → r.place.home = .core k → s.flipHolds r = false →
      s.mayAnswer r = true → s.coreAwake k r.place.loc = false →
      let t := s.performHead src h (fun _ => true)
      let bank := if c.gated then 32 else (bankOf k r.place.loc).getD 32
      t.mem = s.mem ∧ t.fifo = s.fifo ∧ t.rq = s.rq ∧ (t.core k).wanted.contains bank = true ∧
        (∀ u, src ≠ .thread u ∨ coreOf u ≠ k → t.thread u = s.thread u) ∧
        ∀ u, src = .thread u → coreOf u = k → (s.thread u).run = .ready → (t.thread u).run = .waiting (.bank bank)) ∧
    (∀ (u : Nat) (h : Home) (r : Req), s.headReq (.thread u) h = some r → r.src = .thread u → r.place.home = .expander cl →
      s.flipHolds r = false → s.mayAnswer r = true → s.homeReady r.place = false → (s.thread u).run = .ready →
      let t := s.performHead (.thread u) h (fun _ => true)
      t.mem = s.mem ∧ t.fifo = s.fifo ∧ (t.thread u).run = .waiting (.block cl (blockOf cl r.place.loc)) ∧
        ∀ v, v ≠ u → t.thread v = s.thread v) ∧
    ((∀ t ∈ coreThreads k, (s.thread t).run = .free) → isTscCore k = false →
      Completes (.coreGate k) s (fun t => t.mem = s.mem ∧ t.threads = s.threads ∧ t.core k = { c with gated := true, spAwake := 0 })) ∧
    (c.gated = true → (c.wanted ≠ [] ∨ c.owner.isSome = true) →
      Completes (.coreWake k) s (fun t => t.mem = s.mem ∧ t.threads = s.threads ∧
        t.core k = { c with gated := false, wanted := c.wanted.filter (fun i => i ≠ 32) })) ∧
    (s.expState cl blk = some .expanding →
      Completes (.expanderExpandComplete cl blk false) s (fun t => t.mem = s.mem ∧ t.expState cl blk = some .clean ∧
        (t.cluster cl).metas = x.metas) ∧
      Completes (.expanderExpandComplete cl blk true) s (fun t => ∃ (u : State) (fn num asid : Nat),
        t = u.notice 0x04 1 fn num (BitVec.ofNat 64 cl) (BitVec.ofNat 64 (512 * blk)) (BitVec.ofNat 64 asid) ∧
        (∀ l, s.clusterLaunch cl = some l → fn = l.fn ∧ num = l.num ∧ asid = l.asid) ∧
        u.expState cl blk = some .clean ∧ NMap.get 0 (u.cluster cl).metas blk = 0 ∧
        ∀ a, u.byte a = if locCluster cl (512 * blk) ≤ a ∧ a < locCluster cl (512 * blk) + 512 then 0 else s.byte a)) ∧
    (s.expState cl blk = some .compressing →
      Completes (.expanderCompressComplete cl blk) s (fun t => t.mem = s.mem ∧ t.expState cl blk = none ∧
        NMap.get 0 (t.cluster cl).metas blk = BitVec.ofNat 8 (encodeBlock (s.readBytes (locCluster cl (512 * blk)) 512)).1)) ∧
    (x.drain = true →
      (s.leavingLines cl = [] → Completes (.clpartLeavingLine cl) s (fun t => t.mem = s.mem ∧
        t.cluster cl = { x with drain := false, busy := false, dleft := 0 })) ∧
      (∀ l, l ∈ s.leavingLines cl → (∀ m ∈ s.leavingLines cl, m = l ∨ leavingLt l m = true) →
        Completes (.clpartLeavingLine cl) s (fun t => t.mem = s.mem ∧ t.slice l.2.2 = none ∧
          ∀ n, n ≠ l.2.2 → t.slice n = s.slice n))) ∧
    (x.busy = true → x.drain = false → s.oldAccess cl = false →
      let lo := locCluster cl (x.spw * 2 ^ 20)
      Completes (.clpartShrinkComplete cl) s (fun t => (t.cluster cl).busy = false ∧ (t.cluster cl).spw = x.spw ∧
        (∀ e ∈ (t.cluster cl).expander, e.blk < 2048 * x.spw) ∧
        ∀ a, t.byte a = if lo ≤ a ∧ a < lo + (x.oldSpw - x.spw) * 2 ^ 20 then 0 else s.byte a))

/-- 13 R357; 22 R443, R455, R456: every 4,096 cycles each context's BUDGET rises by REFILL, up to min(2^32 - 1, 64 x REFILL); a
budget above that cap stays (log entry 45). A stretched cycle changes nothing. ALARM sets NARROW in every state but normal, where
it posts a notice; NARROW clears 2^20 cycles after ALARM fell, or when STATE becomes normal. Leaving recovery ends the quench levels
in progress (22 R449). A write of STATE from supervisor mode raises the command
processor's illegal-instruction exception (log 69, PRESUMED). -/
def Obligations.BudgetAndPower : Prop :=
  ∀ (s : State) (cl : Nat) (v : Word),
    let x := s.service
    (s.tieTaken .refill = true → exec .ebudgetRefill s = .next s) ∧
    (s.coreCycle % 4096 = 0 → s.tieTaken .refill = false → Completes .ebudgetRefill s (fun t => t.mem = s.mem ∧ t.cores = s.cores ∧ t.clusters = s.clusters ∧
      ∀ u, { t.thread u with ebBudget := (s.thread u).ebBudget } = s.thread u ∧ (isTsc u = false →
        let r := (s.thread u).ebRefill.toNat
        let old := (s.thread u).ebBudget.toNat
        (t.thread u).ebBudget.toNat = max old (min (min (2 ^ 32 - 1) (64 * r)) (old + r))))) ∧
    exec (.droopStretch cl) s = .next s ∧
    (x.alarm = false → x.state ≠ 0 → Completes .powerAlarmAssert s (fun t => t.mem = s.mem ∧
      t.service = { x with alarm := true, fell := none, narrow := true })) ∧
    (x.alarm = false → x.state = 0 → Completes .powerAlarmAssert s (fun t => ∃ u : State,
      u.service = { x with alarm := true, fell := none } ∧ u.mem = s.mem ∧ t = u.notice 0x05 0 0 0 u.service.kdstate 0 0)) ∧
    (x.alarm = true → Completes .powerAlarmDeassert s (fun t => t.mem = s.mem ∧
      t.service = { x with alarm := false, fell := some s.cycle })) ∧
    (∀ c, x.fell = some c → c + 2 ^ 20 ≤ s.cycle → x.alarm = false → Completes .narrowClear s (fun t => t.mem = s.mem ∧
      t.service = { x with narrow := false, fell := none })) ∧
    (let by_ := s.chosenCp
     ((s.cp by_.1).smode = true → exec (.kdstateWrite v) s = .next (by_.2.cpIllegal by_.1)) ∧
     ((s.cp by_.1).smode = false → Completes (.kdstateWrite v) s (fun t => t.mem = s.mem ∧ t.threads = s.threads ∧
      t.service = { x with state := v.toNat % 4, quench := (if v.toNat % 4 = 3 then x.quench else 0),
                           narrow := if v.toNat % 4 = 0 then false else x.narrow || x.alarm } ∧
      (t.cluster cl).quench = if v.toNat % 4 = 3 then (s.cluster cl).quench else 0)))

/-! ## Queues, graphs and launches (16, 22) -/

/-- 22 R442; 16 R389 to R393: the doorbell, the queue's configuration, and the entries that complete or start at acceptance.
TAIL beyond the ring's size sets ERR; enabling a queue skips what stands in the ring. HEAD moves past an accepted entry; a NOP
completes with STAT 0x1, a reserved OP with STAT 0x2 and REASON 0x1, a LAUNCH that breaks a rule with STAT 0x2 and its REASON, and
any other LAUNCH joins those that wait for the allocator. REASON is that of the first row of the table that a LAUNCH breaks, the rows
in the table's order (log 47, DEDUCED). A completion record's words 1 to 3 are written first and word 0 once their lines have settled
(16 R394), the addresses translated when the record begins and word 0 in the first step in which it may go (log 86, DESIGN CHOICE), and
a page whose bias is being flipped holds a part up (06 R179); one that cannot be written gives a notice of KIND 0x0A (16 R393). -/
def Obligations.QueueResult : Prop :=
  ∀ (s : State) (fn q : Nat) (v : Word), queueExists fn q = true →
    let x := s.queue fn q
    let lg := v.toNat / 2 ^ 32 % 16
    Completes (.qtailWrite fn q v) s (fun t => t.mem = s.mem ∧ t.queue fn q = { x with
      tail := v.setWidth 16
      err := x.err || (x.en && decide (2 ^ x.log2n < ((v.setWidth 16 : BitVec 16) - x.head).toNat)) }) ∧
    (x.en = true → Completes (.qcfgWrite fn q v) s (fun t => (t.queue fn q).en = v.getLsbD 63 ∧
      (t.queue fn q).err = (x.err && v.getLsbD 63) ∧ (t.queue fn q).log2n = x.log2n ∧ (t.queue fn q).asid = x.asid ∧
      (t.queue fn q).head = x.head ∧ t.mem = s.mem)) ∧
    (x.en = false → (∀ p ∈ (s.func fn).queues, ∀ a ∈ p.2.open_, a.op ≠ 4) →
      Completes (.qcfgWrite fn q v) s (fun t => (t.queue fn q).en = v.getLsbD 63 ∧ t.mem = s.mem ∧
        (t.queue fn q).asid = v.toNat % 2 ^ 16 ∧ (t.queue fn q).log2n = (if 4 ≤ lg ∧ lg ≤ 12 then lg else 4) ∧
        (t.queue fn q).head = if v.getLsbD 63 then x.tail else x.head)) ∧
    (∀ (e : List Word) (node : Bool),
      let d := fun (i : Nat) => (e.getD i 0).toNat
      let asid := d 0 % 2 ^ 16
      let bad := fun (pc : Nat) => pc % 64 ≠ 0 ∨ 2 ^ 52 ≤ pc
      let row1 := d 0 / 2 ^ 16 % 8 ≠ 0 ∨ d 4 / 2 ^ 32 % 2 ^ 8 ≠ 0 ∨ (node = false ∧ d 15 ≠ 0) ∨
        (node = true ∧ ∃ j, j < 8 ∧ (e.getD 15 0).getLsbD (8 * j + 6) = true)
      let row2 := d 0 / 2 ^ 49 % 16 = 0 ∨ 14 < d 0 / 2 ^ 49 % 16 ∨ 48 < d 0 / 2 ^ 31 % 64 + d 0 / 2 ^ 25 % 64 + 1 ∨
        56 < d 0 / 2 ^ 37 % 64 + d 0 / 2 ^ 19 % 64 + 1
      let row3 := asid = 0xFFFF ∨ (asid = 0 ∧ fn ≠ 0) ∨
        (asid ≠ 0 ∧ ¬ ((s.func fn).asid0 ≤ asid ∧ asid < (s.func fn).asid0 + (s.func fn).asidN))
      let row4 := bad (d 1) ∨ (d 2 ≠ 0 ∧ bad (d 2))
      let row5 := d 3 % 2 ^ 38 ≠ 0 ∨ 64 < d 3 / 2 ^ 46 % 64 + d 3 / 2 ^ 39 % 128 ∨ 20 < d 7 % 64
      (row1 → s.launchReason fn e node = some 1) ∧ (¬ row1 → row2 → s.launchReason fn e node = some 2) ∧
      (¬ row1 → ¬ row2 → row3 → s.launchReason fn e node = some 3) ∧
      (¬ row1 → ¬ row2 → ¬ row3 → row4 → s.launchReason fn e node = some 4) ∧
      (¬ row1 → ¬ row2 → ¬ row3 → ¬ row4 → row5 → s.launchReason fn e node = some 5) ∧
      (¬ row1 → ¬ row2 → ¬ row3 → ¬ row4 → ¬ row5 → s.launchReason fn e node = none)) ∧
    (∀ (n op asid : Nat) (cpl tag : Word) (stat reason tasks nrun nabort : Nat),
      let t := s.writeCpl fn n op asid cpl tag stat reason tasks nrun nabort
      let b0 := s.cpBytes asid cpl.toNat 8 (BitVec.ofNat 64 (stat * 2 ^ 60 + reason * 2 ^ 56)).toNat
      let bs := s.cpBytes asid (cpl.toNat + 8) 24 (wordsToNat [tag, BitVec.ofNat 64 tasks, BitVec.ofNat 64 (nrun * 2 ^ 32 + nabort)])
      (cpl = 0 → t = s) ∧
      (cpl ≠ 0 → b0 = none ∨ bs = none → t = s.notice 0x0A 0 fn n cpl tag (BitVec.ofNat 64 op)) ∧
      (∀ first later, cpl ≠ 0 → b0 = some first → bs = some later → s.later = [] → s.flipping later = true → t.mem = s.mem) ∧
      (∀ first later, cpl ≠ 0 → b0 = some first → bs = some later → s.later = [] → s.flipping later = false → s.flipping first = false →
        let u := s.writePhys later
        if later.all (fun b => u.settledAt (lineOf b.1)) then t.mem = (u.writePhys first).mem
        else t.mem = u.mem ∧ ∃ w c, t.later = [w, ⟨c, [], .bytes first⟩] ∧ w.chain = c ∧ w.act = .nothing ∧
          (∀ b ∈ later, lineOf b.1 ∈ w.after) ∧
          ∀ v : State, v.later = t.later → (∀ l ∈ w.after, v.settledAt l = true) → v.flipping first = false →
            v.runLater.mem = (v.writePhys first).mem)) ∧
    ∀ e, s.nextEntry fn q = some e →
      let done := fun (t : State) (asid stat reason : Nat) => ∃ u : State,
        t = u.writeCpl fn 0 (Entry.op e) asid (Entry.cpl e) (Entry.tag e) stat reason 0 0 0 ∧ u.mem = s.mem ∧
        u.launches = s.launches ∧ (u.queue fn q).head = x.head + 1 ∧ (u.queue fn q).open_ = x.open_
      let asid := (e.getD 0 0).toNat % 2 ^ 16
      (Entry.op e = 0 → Completes (.nopEntry fn q) s (fun t => done t x.asid 1 0)) ∧
      (6 ≤ Entry.op e → Completes (.reservedEntry fn q) s (fun t => done t x.asid 2 1)) ∧
      (Entry.op e = 1 → s.cancelledInRing fn q = false →
        (∀ r, s.launchReason fn e false = some r → Completes (.launchEntry fn q) s (fun t => done t (s.refusalAsid fn asid x.asid) 2 r)) ∧
        (s.launchReason fn e false = none → Completes (.launchEntry fn q) s (fun t => t.mem = s.mem ∧ t.cores = s.cores ∧
          t.threads = s.threads ∧ (t.queue fn q).head = x.head + 1 ∧
          (t.queue fn q).open_ = x.open_ ++ [{ seqno := x.seqno, op := 1, tag := Entry.tag e, cpl := Entry.cpl e, asid := asid }] ∧
          ∃ l : Launch, t.launches = s.launches ++ [l] ∧ l.entry = e ∧ l.fn = fn ∧ l.origin = .queue fn q ∧ l.seqno = x.seqno ∧
            l.phase = .accepted ∧ l.accepted = s.cycle ∧ l.sv = decide (asid = 0))))

/-- 16 R402 to R405: GRUN binds its slot and copies the staging bank into run bank 0 of an idle slot; GPATCH writes staging
registers and completes; GFREE unbinds an idle slot and zeroes its banks, and waits for a replay; a reserved bit set gives REASON
0x1, another graph's address or registers beyond 64 give REASON 0x6. A node of a replay is accepted as a LAUNCH with its
parameters in place of the doublewords SUBST names, as the bank holds them when it is accepted (log 48, DEDUCED). -/
def Obligations.GraphResult : Prop :=
  ∀ (s : State) (fn q : Nat) (e : List Word), s.nextEntry fn q = some e →
    let x := s.queue fn q
    let d0 := e.getD 0 0
    let i := d0.toNat / 2 ^ 48 % 16
    let g := s.gslot fn i
    let addr := (e.getD 1 0).toNat
    let idx := d0.toNat / 2 ^ 42 % 64
    let cnt := d0.toNat / 2 ^ 39 % 8
    let bad := decide (d0.toNat / 2 ^ 52 % 128 ≠ 0) || decide (d0.toNat % 2 ^ 39 ≠ 0)
    let done := fun (t : State) (stat reason : Nat) => ∃ u : State,
      t = u.writeCpl fn 0 (Entry.op e) x.asid (Entry.cpl e) (Entry.tag e) stat reason 0 0 0 ∧ u.mem = s.mem ∧
      (u.queue fn q).head = x.head + 1 ∧ (stat = 2 → u.gslot fn i = g) ∧
      (stat = 1 → (∀ j, j < cnt → NMap.get 0 (u.gslot fn i).staging (idx + j) = e.getD (8 + j) 0) ∧
        (∀ j, j < idx ∨ idx + cnt ≤ j → NMap.get 0 (u.gslot fn i).staging j = NMap.get 0 g.staging j) ∧
        (u.gslot fn i).run0 = g.run0 ∧ (u.gslot fn i).run1 = g.run1)
    (Entry.op e = 2 → s.cancelledInRing fn q = false →
      (bad = true → Completes (.grun fn q) s (fun t => done t 2 1)) ∧
      (bad = false → s.freeing fn i = false →
        (∀ a, g.bound = some a → a ≠ addr → Completes (.grun fn q) s (fun t => done t 2 6)) ∧
        (∀ re n, (∀ a, g.bound = some a → a = addr) → s.graphHeader x.asid addr = some (re, n) → g.run0 = none →
          (g.run1 = none ∨ re = true) →
          Completes (.grun fn q) s (fun t => t.mem = s.mem ∧ (t.queue fn q).head = x.head + 1 ∧ (t.gslot fn i).bound = some addr ∧
            (t.gslot fn i).staging = g.staging ∧
            (t.gslot fn i).run0 = some { regs := g.staging, count := n, q := q, seqno := x.seqno, asid := x.asid })) ∧
        (∀ n r, g.bound = some addr → s.graphHeader x.asid addr = some (false, n) → g.run0 = some r → exec (.grun fn q) s = .next s))) ∧
    (Entry.op e = 3 →
      (bad = true → Completes (.gpatch fn q) s (fun t => done t 2 1)) ∧
      (bad = false → 64 < idx + cnt → Completes (.gpatch fn q) s (fun t => done t 2 6)) ∧
      (bad = false → 1 ≤ cnt → cnt ≤ 6 → idx + cnt ≤ 64 → Completes (.gpatch fn q) s (fun t => done t 1 0))) ∧
    (Entry.op e = 5 → d0.toNat / 2 ^ 52 % 128 = 0 → d0.toNat % 2 ^ 48 = 0 →
      (∀ j ∈ [1, 2, 3, 4, 5, 7, 8, 9, 10, 11, 12, 13, 15], e.getD j 0 = 0) →
      (g.run0 = none → g.run1 = none → Completes (.gfree fn q) s (fun t => t.gslot fn i = {} ∧ (t.queue fn q).head = x.head + 1)) ∧
      (g.run0 ≠ none ∨ g.run1 ≠ none → Completes (.gfree fn q) s (fun t => t.gslot fn i = g ∧ t.mem = s.mem ∧
        ∃ a : Accepted, (t.queue fn q).open_ = x.open_ ++ [a] ∧ a.op = 5 ∧ a.slot = i))) ∧
    ∀ b r va n, (s.gslot fn b).bank 0 = some r → (s.gslot fn b).bound = some va → r.cancelled = false → r.node < r.count →
      s.served (fn + b) = true → s.cpRead r.asid (va + 64 + 128 * r.node) 128 = some n →
      let e0 := natToWords 16 n
      Entry.op e0 = 1 → ((e0.getD 0 0).getLsbD 59 = false ∨ r.running = []) → s.launchReason fn (substNode r.regs e0) true = none →
      Completes (.graphNodeAccept fn b 0) s (fun t => t.mem = s.mem ∧ t.cores = s.cores ∧
        (t.gslot fn b).bank 0 = some { r with node := r.node + 1, running := r.running ++ [r.node] } ∧
        ∃ l : Launch, t.launches = s.launches ++ [l] ∧ l.entry = substNode r.regs e0 ∧ l.fn = fn ∧ l.origin = .node fn b 0 ∧
          l.phase = .accepted ∧
          ∀ j, j < 8 → l.entry.getD (6 + j) 0 =
            (let w := (e0.getD 15 0).toNat / 2 ^ (8 * j) % 256
             if 128 ≤ w then NMap.get 0 r.regs (w % 64) else e0.getD (6 + j) 0))

/-- 16 R395 to R400, R416, R417: a CANCEL without targets completes at once, and a live target is marked; when the cancel reaches
a core, its records leave the deque and its threads end or are marked; the allocator places a launch that fits on its free
rectangle; usage grows with the cores that belong to live launches; a placed launch starts its contexts with their arguments, once
what its image writes to cluster memory has performed at the expanders (04 R112), or ends with STAT 0x4 where its image cannot be
loaded. A pass and an accounting happen once in their cycle. A cancel reaches a core in one
step (log 49, DEDUCED), and none in a cycle in which a TASKEND has been taken there (16 R418; log 85, DESIGN CHOICE); usage counts
placed launches as live, and is rounded down (log 50, DEDUCED). -/
def Obligations.LaunchResult : Prop :=
  ∀ (s : State) (fn q : Nat),
    (∀ e, s.nextEntry fn q = some e → Entry.op e = 4 → (e.getD 0 0).toNat % 2 ^ 59 = 0 →
      (∀ j ∈ [1, 2, 3, 4, 5, 7, 9, 10, 11, 12, 13, 15], e.getD j 0 = 0) →
      ((s.func fn).queues = [(q, s.queue fn q)] → (s.queue fn q).open_ = [] → (s.queue fn q).tail = (s.queue fn q).head + 1 →
        Completes (.cancelEntry fn q) s (fun t => ∃ u : State, u.mem = s.mem ∧ (u.queue fn q).head = (s.queue fn q).head + 1 ∧
          t = u.writeCpl fn 0 4 (s.queue fn q).asid (Entry.cpl e) (Entry.tag e) 1 0 0 0 0)) ∧
      (∀ p a n l, a ∈ (s.queue fn p).open_ → a.op = 1 → a.tag = e.getD 8 0 → s.launchOf fn p a.seqno = some n → s.launch n = some l →
        l.phase = .live → Completes (.cancelEntry fn q) s (fun t => ∃ m, t.launch n = some m ∧ m.cancelled = true ∧ m.phase = .live))) ∧
    (∀ n k, s.tieTaken (.tasks k) = true → exec (.cancelArrival n k) s = .next s) ∧
    (∀ k l, s.launch l.num = some l → l.cancelled = true → l.phase = .live → l.rect.has k = true → k ∉ l.reached →
      s.tieTaken (.tasks k) = false →
      (∀ u ∈ coreThreads k, (s.thread u).launch = l.num → (s.thread u).run ≠ .free → (s.thread u).endsAtOnce = false) →
      Completes (.cancelArrival l.num k) s (fun t => (∀ j ∈ (t.core k).deque, Record.launch j.task ≠ l.num) ∧
        (∀ j ∈ (s.core k).deque, Record.launch j.task ≠ l.num → j ∈ (t.core k).deque) ∧
        ∀ u ∈ coreThreads k, (s.thread u).launch = l.num → (s.thread u).run ≠ .free → (t.thread u).cancel = true ∧
          (t.thread u).run = (s.thread u).run)) ∧
    (∀ k l u n, s.launch l.num = some l → l.cancelled = true → l.phase = .live → l.rect.has k = true → k ∉ l.reached →
      s.tieTaken (.tasks k) = false →
      u ∈ coreThreads k → (s.thread u).launch = l.num → (s.thread u).run = .parked (.waitw n) →
      (∀ j ∈ coreThreads k, j ≠ u → (s.thread j).run = .free) →
      Completes (.cancelArrival l.num k) s (fun t => (t.thread u).run = .free ∧ (t.thread u).rsb = [])) ∧
    (s.tieTaken .allocator = true → exec .allocatorPass s = .next s) ∧
    (s.cycle % 64 = 0 → s.tieTaken .allocator = false → ∀ l, s.launches.filter (fun m => decide (m.phase = .accepted)) = [l] → s.launch l.num = some l →
      (∀ r, s.fits l = some r → Completes .allocatorPass s (fun t => t.mem = s.mem ∧ t.threads = s.threads ∧
        (∀ k ∈ r.cores, (t.core k).owner = some l.num) ∧ (∀ k, k ∉ r.cores → (t.core k).owner = (s.core k).owner) ∧
        ∃ m, t.launch l.num = some m ∧ m = { l with phase := .placed, rect := r })) ∧
      (s.fits l = none → Completes .allocatorPass s (fun t => t.mem = s.mem ∧ t.cores = s.cores ∧
        ∃ m, t.launch l.num = some m ∧ m.phase = .accepted))) ∧
    (s.tieTaken .usage = true → exec .usageAccounting s = .next s) ∧
    (s.cycle % 4096 = 0 → s.tieTaken .usage = false → Completes .usageAccounting s (fun t => t.mem = s.mem ∧ t.launches = s.launches ∧ ∀ f,
      (t.func f).usage = (s.func f).usage + ((s.launches.filter (fun l => (decide (l.phase = .placed) || decide (l.phase = .live)) &&
        decide (l.fn = f))).map (fun l => (l.rect.cores.filter (fun k => (s.core k).owner = some l.num)).length)).sum * 4096 / max 1 (s.func f).weight)) ∧
    (∀ l, s.launch l.num = some l → l.phase = .placed → (∀ k ∈ l.rect.cores, (s.core k).gated = false) →
      (∀ ps, l.loading = some ps → exec (.launchStart l.num) s = .next (s.goLoad l ps)) ∧
      ((l.dw 0).getLsbD 58 = false → l.loading = none →
      (l.dw 5 = 0 → Completes (.launchStart l.num) s (fun t => t.mem = s.mem ∧
        (∃ m, t.launch l.num = some m ∧ m.phase = .live ∧ m.progress = s.cycle) ∧
        ∀ k ∈ l.rect.cores, ∀ c, (c < l.nthr ∧ c < 15 ∨ c = 15 ∧ l.dw 2 ≠ 0) →
          let x := t.thread (16 * k + c)
          x.run = .ready ∧ x.pc = (if c = 15 then l.dw 2 else l.dw 1) ∧ x.launch = l.num ∧ x.fn = l.fn ∧ x.asid = l.asid ∧ x.mc = 1 ∧
          x.sv = l.sv ∧ x.tvec = 0 ∧ x.hflag = false ∧ x.rect = l.rect ∧
          (∀ j, 1 ≤ j → j ≤ 6 → x.sval j = l.dw (7 + j) ∧ x.staint j = 0))) ∧
      (∀ u ps, l.dw 5 ≠ 0 → s.loadImage l (l.dw 5).toNat 64 = some (u, ps) → exec (.launchStart l.num) s = .next (u.goLoad l ps)) ∧
      (l.dw 5 ≠ 0 → s.loadImage l (l.dw 5).toNat 64 = none → exec (.launchStart l.num) s = .next (s.endLaunch l.num 4)))) ∧
    (∀ (l : Launch), s.launch l.num = some l →
      (let t := s.goLoad l []
       t.mem = s.mem ∧ ∃ m, t.launch l.num = some m ∧ m.phase = .live ∧ m.loading = none) ∧
      (∀ p, let t := s.goLoad l [p]
       (s.blockReady p.cl (p.off / 512) = true → t.mem = (s.write (locCluster p.cl p.off) p.bytes p.val).mem ∧
         ∃ m, t.launch l.num = some m ∧ m.phase = .live) ∧
       (s.blockReady p.cl (p.off / 512) = false → t.mem = s.mem ∧ t.threads = s.threads ∧
         ∃ m, t.launch l.num = some m ∧ m = { l with loading := some [p] })))

/-! ## Pre-emption (18, 22) -/

/-- 22 R453; 18 R430 to R434; 18 R425: `kpre` with KIND 0, 1 or 2 asks for a context, a core or a launch, and the block of a
core without a thread is finished at once; a thread at a pre-emption point stops there; a Drained one with quiet tiles is saved, its image
at its slot, its context freed, and with its launch's last context the core's records; no byte outside the block changes. The
save-complete notice reaches the command processor as a machine interrupt whose cause, 0x1000 and the core field (log 69, DESIGN CHOICE),
names the core. A thread that reaches no
point within the limit is aborted to `regpc` with the registers of its checkpoint, or goes on with a notice where its region is pinned;
an atomic that has issued is not aborted. No thread is saved in the cycle in which it stops (log 85, DESIGN CHOICE), nor while the bias of a page of its block is
being flipped (06 R179). A thread that waits in ALIGN releases the others that wait there (07 R197). A restore gives a context its image back; a
stopped thread's context is freed on demand. Whether a context runs a task, and its priority, are kept beside the image (log 57,
DESIGN CHOICE).
18 R433, R434: a restore to the core and context the image was saved from, of an image without handles, accumulators, records
and fault. The context becomes ready at the saved PC; every scalar register, the status and the CSRs take their saved values,
with empty taint. The saved records join the core's deque, or its pool where that is full, those of a block once (log 89, DEDUCED). -/
def Obligations.PreemptionResult : Prop :=
  (∀ (s : State) (p k c : Nat) (v : Word) (l : Launch),
     let x := s.thread (16 * k + c)
     let a := v.toNat / 2 ^ 12 * 2 ^ 12
     let kind := (s.cp p).cwsel.toNat / 2 ^ 62
     let asked := fun (u : State) (j block : Nat) (cs : List Nat) => cs.map (fun c => (⟨16 * j + c, l.num, block, u.cycle, p, false, false,
       decide ((u.thread (16 * j + c)).run = .free), false⟩ : Preempt))
     let begun := fun (u : State) (j block : Nat) (cs : List Nat) =>
       State.finishBlock { u with preempts := u.preempts ++ asked u j block cs } block
     (ofCoreField (v.toNat % 2 ^ 12) = some k → (s.core k).owner = some l.num → s.launch l.num = some l → (s.cp p).smode = false →
       (kind = 0 → (s.cp p).cwsel.toNat / 2 ^ 56 % 16 = c → c ≠ 14 → a + 0x12B000 ≤ 0x00C000000000 →
         exec (.preemptContext p v) s = .next (begun s k a [c])) ∧
       (kind = 1 → a + 0x12B000 ≤ 0x00C000000000 → exec (.preemptCore p v) s = .next (begun s k a savable)) ∧
       (kind = 2 → a + l.rect.w * l.rect.h * 0x12B000 ≤ 0x00C000000000 →
         exec (.preemptLaunch p v) s = .next (l.rect.cores.foldl (fun u j =>
           begun u j (a + ((coreY j - l.rect.y0) * l.rect.w + (coreX j - l.rect.x0)) * 0x12B000) savable) s))) ∧
     (∀ (j block : Nat) (cs : List Nat), (∃ c ∈ cs, (s.thread (16 * j + c)).run ≠ .free) →
       begun s j block cs = { s with preempts := s.preempts ++ asked s j block cs }) ∧
     (∀ (j block : Nat) (cs : List Nat), cs ≠ [] → (∀ c ∈ cs, c < 16 ∧ (s.thread (16 * j + c)).run = .free) →
       (∀ q ∈ s.preempts, q.block ≠ block) → s.later = [] → s.regionFlipping block 0x12B000 = false → s.threadsOf l.num ≠ [] →
       block % 4096 = 0 → block + 0x12B000 ≤ 0x00C000000000 →
       let t := begun s j block cs
       t.preempts = s.preempts ∧ t.threads = s.threads ∧ t.launches = s.launches ∧ t.readWord block = BitVec.ofNat 64 (l.num * 2 ^ 48) ∧
         t.readWord (block + 8) = BitVec.ofNat 64 (coreField j) ∧
         ∀ b, b < block ∨ block + 0x1000 ≤ b → t.byte b = s.byte b) ∧
     (∀ r, c < 16 → s.preempts = [r] → r.t = 16 * k + c → r.gone = false → r.launch = x.launch → x.stage = none → x.releasing = [] →
       (x.run = .ready → x.boundary = true → Completes (.preemptionSave (16 * k + c)) s (fun t =>
         (t.thread (16 * k + c)).run = .waiting .preempt ∧ (t.thread (16 * k + c)).pc = x.pc ∧ t.mem = s.mem)) ∧
       (x.run = .waiting .align → x.children = [] → x.tcons = [] → Completes (.preemptionSave (16 * k + c)) s (fun t =>
         (t.thread (16 * k + c)).run = .waiting .preempt ∧ (t.thread (16 * k + c)).pc = x.pc ∧ (t.thread (16 * k + c)).rsb = [] ∧
         t.fifo = s.fifo ++ drainReqs (16 * k + c) x.rsb ∧ ∀ al, (s.cluster (clusterOf k)).align = some al →
           (t.cluster (clusterOf k)).align = none ∧ ∀ u ∈ al.waiters, u ≠ 16 * k + c → (s.thread u).releasing = [] → al.waiters.Nodup →
             (t.thread u).run = .ready ∧ (t.thread u).pc = (s.thread u).pc + 4)) ∧
       (x.run = .waiting .preempt → s.tieTaken (.stopped (16 * k + c)) = true ∨ s.regionFlipping r.block 0x12B000 = true →
         exec (.preemptionSave (16 * k + c)) s = .next s) ∧
       (x.run = .waiting .preempt → s.tieTaken (.stopped (16 * k + c)) = false → s.regionFlipping r.block 0x12B000 = false → x.drained = true → s.tilesQuiet (16 * k + c) = true → isTsc (16 * k + c) = false →
         let a := r.block + 0x1000 + c * 0x11800
         let mine := (s.core k).deque.map (·.task) ++ ((s.cluster (clusterOf k)).pool.filter (fun q => q.1 = k)).map (·.2)
         let last := (s.core k).owner = some x.launch ∧ ∀ u ∈ coreThreads k, u ≠ 16 * k + c → (s.thread u).run = .free ∨ (s.thread u).launch ≠ x.launch
         Completes (.preemptionSave (16 * k + c)) s (fun t => (t.thread (16 * k + c)).run = .free ∧
           (∃ w ∈ t.saved, w.t = 16 * k + c ∧ w.launch = x.launch ∧ w.task = x.task ∧ w.prio = x.prio ∧ w.block = r.block ∧
             w.waitw = x.atWaitw) ∧
           t.preempts = [] ∧
           (r.block % 4096 = 0 → r.block + 0x12B000 ≤ 0x00C000000000 → s.later = [] →
             let w := fun (off : Nat) => t.readWord (a + off)
             (∀ i, i < 32 → w (8 * i) = x.sval i ∧ ∀ j, j < 8 → w (0x100 + 64 * i + 8 * j) = (x.vval i).extractLsb' (64 * j) 64) ∧
             (∀ i, i < 8 → (w (0x900 + i / 4 * 8)).extractLsb' (16 * (i % 4)) 16 = x.kval i) ∧
             w 0x910 = x.pc ∧ w 0x918 = x.regpc ∧ w 0x920 = x.status ∧ w 0x928 = BitVec.ofNat 64 x.mc ∧ w 0x930 = x.srseed.setWidth 64 ∧
             w 0x938 = x.fmtpend.setWidth 64 ∧ w 0x940 = x.bsrd ∧ w 0x948 = x.bswr ∧ w 0x950 = x.bsacc.setWidth 64 ∧ w 0x958 = x.mprog ∧
             w 0x960 = x.tvec ∧ w 0x968 = x.epc ∧ w 0x970 = x.estatus ∧ w 0x978 = x.ecause.setWidth 64 ∧ w 0x980 = x.escratch ∧
             w 0x988 = x.fadr ∧ w 0x990 = x.fcause.setWidth 64 ∧ w 0x998 = x.ebudget ∧ w 0x9A0 = x.lgrant.word ∧
             (∀ j, j < 16 → (x.handle j = none → w (0xA00 + 16 * j) = 0 ∧ w (0xA08 + 16 * j) = 0) ∧
               ∀ e, x.handle j = some e → let y := s.tile k e
                 w (0xA00 + 16 * j) = y.addr ∧ w (0xA08 + 16 * j) = BitVec.ofNat 64 (2 ^ 63 + y.state.code * 2 ^ 61 + field y.shape 28 0)) ∧
             (w 0xB00 = BitVec.ofNat 64 ((x.faultSeq.getD 0) % 2 ^ 16 * 2 ^ 16 + (if x.hflag then 16 else 0) + (if x.cancel then 8 else 0) +
               (if x.faultSeq.isSome then 4 else 0) + (if (s.core k).acc1.owner = some c then 2 else 0) +
               (if (s.core k).acc0.owner = some c then 1 else 0))) ∧
             (∀ o, 0x9A8 ≤ o → o < 0xA00 ∨ 0xB08 ≤ o → o < 0x1000 → t.byte (a + o) = 0) ∧
             (∀ one, let y := (s.core k).acc one
               y.owner = some c → (∀ n, n < 8192 → t.read (a + (if one then 0x9000 else 0x1000) + 4 * n) 4 = (y.elem n).toNat) ∧
                 ∀ i, i < 64 → t.read (a + (if one then 0x11400 else 0x11000) + 16 * i) 16 = (y.row i).toNat) ∧
             t.readWord (r.block + 8) = BitVec.ofNat 64 (coreField k) ∧
             (last → t.readWord r.block = BitVec.ofNat 64 (x.launch * 2 ^ 48 + 2 ^ (16 + c) + mine.length) ∧ (t.core k).owner = none ∧
               (t.core k).deque = [] ∧ (∀ q ∈ (t.cluster (clusterOf k)).pool, q.1 ≠ k) ∧
               ∀ i j, i < mine.length → j < 16 → t.readWord (r.block + 0x119000 + 128 * i + 8 * j) = (mine.getD i []).getD j 0) ∧
             (¬ last → t.readWord r.block = BitVec.ofNat 64 (x.launch * 2 ^ 48 + 2 ^ (16 + c)) ∧ (t.core k).owner = (s.core k).owner) ∧
             (∀ b, b < r.block ∨ r.block + 0x119000 + 128 * mine.length ≤ b → t.byte b = s.byte b) ∧
             ((∀ q ∈ s.dirs, lineOf r.block ≤ q.1 → q.1 < lineOf (r.block + 0x12B000) → q.2.sharers = [] ∧ q.2.invs = []) →
               (t.cp r.cp).irqs = (s.cp r.cp).irqs ++ [coreField k])))) ∧
       (s.cycle < r.since + (s.cp r.cp).prelim → exec (.preemptionLimitExpiry (16 * k + c)) s = .next s) ∧
       (x.inAtomic = true → r.quench = false → exec (.preemptionLimitExpiry (16 * k + c)) s = .next s) ∧
       (r.since + (s.cp r.cp).prelim ≤ s.cycle → r.quench = false → x.run = .ready → x.boundary = false →
         (s.core k).jobs = [] → (∀ a ∈ (s.cluster (clusterOf k)).mmacs, a.t ≠ 16 * k + c) →
         (x.pin = false → Completes (.preemptionLimitExpiry (16 * k + c)) s (fun t =>
           (t.thread (16 * k + c)).run = .waiting .preempt ∧ Aborted x (t.thread (16 * k + c)) ∧ t.fifo = s.fifo ∧ t.mem = s.mem)) ∧
         (x.pin = true → r.noticed = false → Completes (.preemptionLimitExpiry (16 * k + c)) s (fun t => ∃ u : State,
           u.threads = s.threads ∧ u.mem = s.mem ∧ u.preempts = [{ r with noticed := true }] ∧
           t = u.notice 0x01 1 x.fn x.launch (BitVec.ofNat 64 (clusterOf k)) 3 0)))) ∧
     (∀ (core : Nat) (rest : List Nat) (act : CpAct), p < 4 → core < 4096 →
       let q := s.cp p
       let base := q.csrs.mtvec &&& ~~~3#64
       q.running = true → q.irqs = core :: rest → q.csrs.mie.getLsbD 11 = true → q.csrs.mideleg.getLsbD 11 = false →
       q.smode = true ∨ q.csrs.mstatus.getLsbD 3 = true →
       let t := s.firmware p act
       t.mem = s.mem ∧ t.threads = s.threads ∧ (t.cp p).irqs = rest ∧ (t.cp p).smode = false ∧
         (t.cp p).csrs.mcause = 2 ^ 63 + 0x1000 + BitVec.ofNat 64 core ∧ (t.cp p).csrs.mepc = q.pc &&& ~~~1#64 ∧
         (t.cp p).csrs.mstatus.getLsbD 3 = false ∧
         (t.cp p).pc = if q.csrs.mtvec.getLsbD 0 then base + 4 * (0x1000 + BitVec.ofNat 64 core) else base) ∧
     (∀ r, s.preempts = [r] → r.launch ≠ x.launch → exec (.preemptionLimitExpiry (16 * k + c)) s = .next s) ∧
     (c < 16 → isTsc (16 * k + c) = false → (x.run = .halted ∨ x.run = .trapStopped) →
       Completes (.haltedContextFree (16 * k + c)) s (fun t => (t.thread (16 * k + c)).run = .free ∧ (t.thread (16 * k + c)).rsb = []))) ∧
  (∀ (s : State) (addr k c : Nat) (l : Launch),
     let a := addr + 0x1000 + c * 0x11800
     let w := fun (off : Nat) => s.readWord (a + off)
     let dw0 := s.readWord addr
     c < 16 → c ≠ 14 → k < 2688 → addr % 4096 = 0 → addr + 0x12B000 ≤ 0x00C000000000 → dw0.getLsbD (16 + c) = true →
     (s.readWord (addr + 8)).toNat % 2 ^ 12 = 64 * coreY k + coreX k → (s.thread (16 * k + c)).run = .free →
     s.launch (dw0.toNat / 2 ^ 48) = some l → l.phase = .live → (s.core k).owner = some l.num →
     s.heldAt addr 0x12B000 = false → (∀ j, j < 16 → w (0xA08 + 16 * j) = 0) → w 0xB00 = 0 → s.recordRoom k (dw0.toNat % 2 ^ 16) = true →
     Completes (.contextRestore addr k c) s (fun t =>
       let x := t.thread (16 * k + c)
       t.mem = s.mem ∧ x.run = .ready ∧ x.pc = w 0x910 ∧ x.regpc = (w 0x918 &&& ~~~1#64) ∧ x.launch = l.num ∧ x.fn = l.fn ∧
       (∀ r, 1 ≤ r → r ≤ 31 → x.sval r = w (8 * r) ∧ x.staint r = 0) ∧
       (∀ r, r < 32 → x.vtaint r = 0 ∧ ∀ j, j < 8 → (x.vval r).extractLsb' (64 * j) 64 = w (0x100 + 64 * r + 8 * j)) ∧
       (∀ r, 1 ≤ r → r < 8 → x.kval r = (w (0x900 + r / 4 * 8)).extractLsb' (16 * (r % 4)) 16) ∧
       x.sv = (w 0x920).getLsbD 0 ∧ x.pfx = (w 0x920).getLsbD 8 ∧ x.pin = (w 0x920).getLsbD 10 ∧ x.mc = (w 0x928).toNat ∧
       (let rs := if addr ∈ s.pushed then [] else (List.range (dw0.toNat % 2 ^ 16)).map (fun i => s.readWords (addr + 0x119000 + 128 * i) 16)
        let room := 64 - (s.core k).deque.length
        (t.core k).deque = (s.core k).deque ++ (rs.take room).map (fun r => ⟨r, s.cycle⟩) ∧
        (t.cluster (clusterOf k)).pool = (s.cluster (clusterOf k)).pool ++ (rs.drop room).map (fun r => (k, r))) ∧
       x.hflag = false ∧ x.rsb = [] ∧ x.tvec = (w 0x960 &&& ~~~0x3F#64) ∧ x.escratch = w 0x980))

/-! ## The host, the debug port and the registers (06, 01, 02, 20, 21, 22) -/

/-- 06 R177 to R182: a flip begins once per page and waits for none; a complete one changes the page's bias and sends what waits for
it to its new home; no byte of memory changes. A host request to a device-bias page flips it first; a host read gives the bytes
there, a host write changes those bytes and no others and completes once its line is settled; a CXL.io request of 1 to 64 bytes of one
block joins those of its quadrant's service core, and when its turn comes performs at its home, waits while its page's bias is
flipped, and makes its home ready for it; a request to a host-bias line performs at the I/O die. The model's choices: a host write
performs and, its line settled, is answered in one step (log 54, DEDUCED); a complete flip moves the requests that wait for it (log 37,
DEDUCED); a snoop puts its INVs into the queues at once (log 81, DEDUCED); CXL.io (log 80, DESIGN CHOICE). -/
def Obligations.HostAccessResult : Prop :=
  ∀ (s : State) (page line pa n : Nat) (v : BitVec 512),
    let free := s.flips.any (fun f => decide (f.page = page)) = false
    let pg := pa / 2 ^ 19
    let byteOf := fun (i : Nat) => BitVec.ofNat 8 (v.toNat / 256 ^ i)
    let new := fun (w : Bool) (h : Home) (off : Nat) => (⟨h, off, n, if w then some v else none⟩ : IoReq)
    (free → page * 2 ^ 19 < 0x00C000000000 →
      (page ∉ s.hostBias → Completes (.biasFlipToHost page) s (fun t => t.mem = s.mem ∧ t.hostBias = s.hostBias ∧
        ∃ f, t.flips = s.flips ++ [f] ∧ f.page = page ∧ f.toHost = true)) ∧
      (page ∈ s.hostBias → Completes (.biasFlipToDevice page) s (fun t => t.mem = s.mem ∧ t.hostBias = s.hostBias ∧
        ∃ f, t.flips = s.flips ++ [f] ∧ f.page = page ∧ f.toHost = false))) ∧
    (s.flips.any (fun f => decide (f.page = page)) = true →
      exec (.biasFlipToHost page) s = .next s ∧ exec (.biasFlipToDevice page) s = .next s) ∧
    (∀ f, s.flips = [f] → f.page = page → f.before = [] → (∀ p ∈ s.dirs, p.1 / 4096 = page → p.2.sharers = [] ∧ p.2.invs = []) →
      (∀ p ∈ s.slices, p.1 / 4096 = page → p.2 = none) →
      Completes (.biasFlipComplete page) s (fun t => t.mem = s.mem ∧ t.flips = [] ∧ (page ∈ t.hostBias ↔ f.toHost = true) ∧
        (∀ q, q ≠ page → (q ∈ t.hostBias ↔ q ∈ s.hostBias)) ∧
        (∀ u p, (t.thread u).stage = some (.spawn p) → p.loc < 2 ^ 47 → p.loc / 2 ^ 19 = page → p.home = t.homeOfPa p.loc) ∧
        ∀ r ∈ t.fifo, r.place.loc < 2 ^ 47 → r.place.loc / 2 ^ 19 = page → r.place.home = t.homeOfPa r.place.loc)) ∧
    (s.homeOfPa (128 * line) = .io → Completes (.hostCacheSnoop line) s (fun t => t.mem = s.mem ∧ (t.dir line).sharers = [] ∧
      t.rq = s.rq ++ (s.dir line).sharers.map (fun d => ⟨.core d, .io, line, .inv⟩))) ∧
    (0 < n → pa % 64 + n ≤ 64 → pa < 0x00C000000000 → s.flips.any (fun f => decide (f.page = pg)) = false →
      (pg ∉ s.hostBias → (pa, n, v.toNat) ∉ s.hostWrites →
        Completes (.cxlMemRead pa n) s (fun t => t.mem = s.mem ∧ t.host = s.host ∧ t.flips.any (fun f => decide (f.page = pg)) = true) ∧
        Completes (.cxlMemWrite pa n v) s (fun t => t.mem = s.mem ∧ t.host = s.host ∧ t.flips.any (fun f => decide (f.page = pg)) = true)) ∧
      (pg ∈ s.hostBias →
        exec (.cxlMemRead pa n) s = .next { s with host := .readData pa (BitVec.ofNat 512 (s.read pa n)) :: s.host } ∧
        ((pa, n, v.toNat) ∉ s.hostWrites → Completes (.cxlMemWrite pa n v) s (fun t =>
          (∀ i, i < n → t.byte (pa + i) = byteOf i) ∧ (∀ a, a < pa ∨ pa + n ≤ a → t.byte a = s.byte a) ∧
          ((s.dir (pa / 128)).sharers = [] → (s.dir (pa / 128)).invs = [] → t.host = .writeDone pa :: s.host))))) ∧
    ((pa, n, v.toNat) ∈ s.hostWrites → (s.dir (pa / 128)).invs = [] → Completes (.cxlMemWrite pa n v) s (fun t => t.mem = s.mem ∧
      t.host = .writeDone pa :: s.host)) ∧
    (∀ w h off p r rs p0, s.ioPlace h off = some p → 0 < n → p.loc % 64 + n ≤ 64 → NMap.get [] s.ioq (quadrant h) ++ [new w h off] = r :: rs →
      s.ioPlace r.home r.off = some p0 →
      (s.ioFree (quadrant h) = false ∨ s.waitsForWay p0 = true ∨ (p0.loc < 2 ^ 47 ∧ ∃ f ∈ s.flips, f.page = p0.loc / 2 ^ 19)) →
      Completes (.cxlIoRequest w h off n v) s (fun t => t.mem = s.mem ∧ t.host = s.host ∧ t.ioLast = s.ioLast ∧
        NMap.get [] t.ioq (quadrant h) = r :: rs)) ∧
    (∀ cl off, off < 0x00C000000000 → homeSlice off = cl → off / 2 ^ 19 ∈ s.hostBias →
      ∃ p, s.ioPlace (.slice cl) off = some p ∧ p.loc = off ∧ p.home = .io) ∧
    (∀ h off p, s.ioPlace h off = some p → 0 < n → p.loc % 64 + n ≤ 64 → s.waitsForWay p = false → s.homeReady p = false →
      s.ioFree (quadrant h) = true → NMap.get [] s.ioq (quadrant h) = [] → (∀ f ∈ s.flips, 2 ^ 47 ≤ p.loc ∨ f.page ≠ p.loc / 2 ^ 19) → ∀ w,
      exec (.cxlIoRequest w h off n v) s =
        .next (State.homePrepare { s with ioq := NMap.set [] s.ioq (quadrant h) [new w h off] } p .expanding)) ∧
    (∀ h off p, s.ioPlace h off = some p → 0 < n → p.loc % 64 + n ≤ 64 → s.waitsForWay p = false → s.homeReady p = true →
      s.ioFree (quadrant h) = true → NMap.get [] s.ioq (quadrant h) = [] → (∀ f ∈ s.flips, 2 ^ 47 ≤ p.loc ∨ f.page ≠ p.loc / 2 ^ 19) →
      Completes (.cxlIoRequest false h off n v) s (fun t => t.mem = s.mem ∧
        t.host = .ioRead (BitVec.ofNat 512 (s.read p.loc n)) :: s.host ∧ NMap.get [] t.ioq (quadrant h) = []) ∧
      Completes (.cxlIoRequest true h off n v) s (fun t => (∀ i, i < n → t.byte (p.loc + i) = byteOf i) ∧
        (∀ a, a < p.loc ∨ p.loc + n ≤ a → t.byte a = s.byte a) ∧ NMap.get none t.ioLast (quadrant h) = some (p.loc / 128)))

/-- 01 R36; 22 R442, R443, R451, R452, R454; 02 R72, R73; 20 R439; 21 R440: a TSC's store is loaded, at start-up, after a quench that
touched its cluster, or in a live replacement once the TSC works on no message, and the TSC starts at 0, what its store buffer
held being dropped (log 97, DESIGN CHOICE); registers take what is
written to them, with the ranges their rules give, and read with reserved bits 0, a mailbox of a virtual function reading 0; an
access to a machine-mode CSR from supervisor mode raises the exception of log 69 (PRESUMED), taken to the mode `medeleg` gives; a spilled register stands in its core's
spill backing; the debug port reads a register, an accumulator element or a trace
word and changes nothing else, and writes a register with its taint kept (log entry 55: bit 32 of an accumulator read is the mask
bit).
00 R1; 22 R443: a command processor runs RV64GC, whose encodings and effects are RISC-V's (log 69, PRESUMED); the environment names the
bits at the pc. In machine mode, with no interrupt due and no protection entry: a call takes the exception of cause 11; ADD, and ADDI in
its compressed form, write their sum and move the pc by 4 and by 2; LD reads, and SD writes, 8 bytes of device memory. -/
def Obligations.PortResult : Prop :=
  (∀ (s : State) (cl t p fn : Nat) (v : Word) (x : BitVec 512),
     (∀ img, (s.cluster cl).istore = true → (s.cluster cl).reload = false → (s.service.update = none ∨ (s.cluster cl).working = true) →
       exec (.tscStoreLoad cl img) s = .next s) ∧
     (∀ img, cl < 168 → ((s.cluster cl).istore = false ∨ (s.cluster cl).reload = true ∨
         (s.service.update ≠ none ∧ (s.cluster cl).working = false)) → img.length ≤ 2 ^ 17 →
       Completes (.tscStoreLoad cl img) s (fun u => (∀ i, i < 2 ^ 17 → u.byte (locIstore cl i) = img.getD i 0) ∧
         (u.cluster cl).istore = true ∧ (u.cluster cl).reload = false ∧ (u.thread (tscThread cl)).run = .ready ∧ (u.thread (tscThread cl)).pc = 0 ∧
         (∀ r, (u.thread (tscThread cl)).sval r = 0) ∧
         ∀ a, a < locIstore cl 0 ∨ locIstore cl (2 ^ 17) ≤ a → u.byte a = s.byte a)) ∧
     (isTsc t = false → Completes (.registerWrite (.csr t 0x00B) v) s (fun u => u.mem = s.mem ∧
       u.thread t = { s.thread t with ebTe := v.getLsbD 63, ebRefill := v.extractLsb' 32 24, ebBudget := v.setWidth 32 })) ∧
     (p < 4 → (s.cp p).smode = false → Completes (.registerWrite (.cp p 0x7C0) v) s (fun u => u.mem = s.mem ∧
         (u.cp p).sel = if v.toNat % 128 ≤ 64 then v.toNat % 128 else 0) ∧
       Completes (.registerWrite (.cp p 0x7C2) v) s (fun u => u.mem = s.mem ∧ (u.func (s.cp p).sel).weight = max 1 (v.toNat % 256)) ∧
       Completes (.registerWrite (.cp p 0x7CC) v) s (fun u => u.mem = s.mem ∧ (u.cp p).prog = v.toNat % 2 ^ 32)) ∧
     (∀ num, p < 4 → (s.cp p).smode = true → num / 2 ^ 8 % 4 = 3 →
       let y := (s.cp p).csrs
       Completes (.registerWrite (.cp p num) v) s (fun u => u.mem = s.mem ∧ u.funcs = s.funcs ∧ u.clusters = s.clusters ∧ ∃ w,
         (y.medeleg.getLsbD 2 = false → u.cp p = { s.cp p with pc := y.mtvec &&& ~~~3#64, smode := false, csrs := { y with
           mepc := (s.cp p).pc &&& ~~~1#64, mcause := 2, mtval := w,
           mstatus := (y.mstatus &&& ~~~0x1888#64) ||| (if y.mstatus.getLsbD 3 then 2 ^ 7 else 0) ||| 2 ^ 11 } }) ∧
         (y.medeleg.getLsbD 2 = true → u.cp p = { s.cp p with pc := y.stvec &&& ~~~3#64, csrs := { y with
           sepc := (s.cp p).pc &&& ~~~1#64, scause := 2, stval := w,
           mstatus := (y.mstatus &&& ~~~0x122#64) ||| (if y.mstatus.getLsbD 1 then 2 ^ 5 else 0) ||| 2 ^ 8 } }))) ∧
     (∀ q, q < 16 →
       let y := s.queue fn q
       s.barValue fn (0x1000 + 0x20 * q) = BitVec.ofNat 64 y.qbase ∧
       s.barValue fn (0x1008 + 0x20 * q) = BitVec.ofNat 64 ((if y.en then 2 ^ 63 else 0) + (if y.err then 2 ^ 62 else 0) +
         y.log2n * 2 ^ 32 + y.asid) ∧
       s.barValue fn (0x1010 + 0x20 * q) = y.tail.setWidth 64 ∧ s.barValue fn (0x1018 + 0x20 * q) = y.head.setWidth 64) ∧
     (s.barValue 0 0x0118 = BitVec.ofNat 64 ((if s.service.mbBusy then 2 ^ 63 else 0) + s.service.mbResult) ∧
       s.barValue 0 0x0008 = (if s.service.resetReq then 1 else 0) ∧ s.barValue fn 0x0210 = (s.func fn).nrTail.setWidth 64 ∧
       (fn ≠ 0 → ∀ off ∈ [0x0008, 0x0100, 0x0108, 0x0110, 0x0118], s.barValue fn off = 0)) ∧
     (∀ k c r b, c < 16 → r < 32 → b < 8 → r ≠ 0 → (NMap.get {} (s.thread (16 * k + c)).s r).map = .spilled →
       s.backing k (0x1000 * c + 8 * r + b) = ((s.thread (16 * k + c)).sval r).extractLsb' (8 * b) 8) ∧
     (cl < 168 → Completes (.registerWrite (.window cl 0x002) v) s (fun u => u.mem = s.mem ∧
       u.cluster cl = { s.cluster cl with bfwdEn := v.getLsbD 31, bfwdMargin := v.setWidth 16 })) ∧
     (fn ≤ 64 → Completes (.registerWrite (.bar fn 0x0208) v) s (fun u => u.mem = s.mem ∧ (u.func fn).nrHead = v.setWidth 16) ∧
       ∀ q, q < 16 → (s.queue fn q).en = false → Completes (.registerWrite (.bar fn (0x1000 + 0x20 * q)) v) s (fun u => u.mem = s.mem ∧
         (u.queue fn q).qbase = v.toNat / 2 ^ 12 % 2 ^ 36 * 2 ^ 12)) ∧
     (∀ r, exec (.debugRegisterRead t .scalar r) s = .next (s.debugOut (((s.thread t).sval r).setWidth 512)) ∧
       exec (.debugRegisterRead t .vector r) s = .next (s.debugOut ((s.thread t).vval r)) ∧
       exec (.debugRegisterRead t .mask r) s = .next (s.debugOut (((s.thread t).kval r).setWidth 512)) ∧
       exec (.debugRegisterRead t .scalarTaint r) s = .next (s.debugOut (((s.thread t).staint r).setWidth 512)) ∧
       exec (.debugRegisterRead t .vectorTaint r) s = .next (s.debugOut (((s.thread t).vtaint r).setWidth 512)) ∧
       (1 ≤ r → r < 32 → (NMap.get {} (s.thread t).s r).map ≠ .unmapped → Completes (.debugRegisterWrite t .scalar r x) s (fun u =>
         (u.thread t).sval r = x.setWidth 64 ∧ (u.thread t).staint r = (s.thread t).staint r ∧ u.mem = s.mem ∧
         (NMap.get {} (u.thread t).s r).map = (NMap.get {} (s.thread t).s r).map ∧
         ∀ q, q ≠ r → (u.thread t).sval q = (s.thread t).sval q)) ∧
       (r < 32 → (NMap.get {} (s.thread t).v r).map ≠ .unmapped → Completes (.debugRegisterWrite t .vector r x) s (fun u =>
         (u.thread t).vval r = x ∧ (u.thread t).vtaint r = (s.thread t).vtaint r ∧ u.mem = s.mem))) ∧
     (∀ k one i j, i < 64 → j < 128 →
       let a := (s.core k).acc one
       (a.owner ≠ none → exec (.debugAccumulatorRead k one i j) s =
         .next (s.debugOut (BitVec.ofNat 512 ((a.elem (128 * i + j)).toNat + (if a.kept i j then 2 ^ 32 else 0))))) ∧
       (a.owner = none → exec (.debugAccumulatorRead k one i j) s = .next (s.debugOut (BitVec.ofNat 512 (2 ^ 32))))) ∧
     (∀ e, cl < 168 → e < 16 →
       let w := (s.cluster cl).trace.getD e (0, 0)
       exec (.dispenserTraceRead cl e 0) s = .next (s.debugOut (w.1.setWidth 512)) ∧
       exec (.dispenserTraceRead cl e 1) s = .next (s.debugOut (w.2.setWidth 512)))) ∧
  (∀ (s : State) (p : Nat) (sc : Bool), p < 4 →
     let q := s.cp p
     q.running = true → q.interruptDue = none → q.smode = false → q.csrs.mstatus.getLsbD 17 = false → q.csrs.pmpcfg = [] → s.flips = [] →
     q.pc.toNat % 2 = 0 → q.pc.toNat + 4 ≤ 0x00C000000000 →
     let run := fun (w : BitVec 32) => s.firmware p ⟨w, sc⟩
     let wrote := fun (t : State) (d : Nat) (v : Word) (n : Word) => t.mem = s.mem ∧ t.threads = s.threads ∧ (t.cp p).pc = q.pc + n ∧
       (t.cp p).reg d = v ∧ ∀ r, r ≠ d → (t.cp p).reg r = q.reg r
     ((run 0x00000073).mem = s.mem ∧ ((run 0x00000073).cp p).csrs.mcause = 11 ∧ ((run 0x00000073).cp p).csrs.mepc = q.pc ∧
       ((run 0x00000073).cp p).pc = q.csrs.mtvec &&& ~~~3#64) ∧
     wrote (run 0x00C58533) 10 (q.reg 11 + q.reg 12) 4 ∧ wrote (run 0x00000505) 10 (q.reg 10 + 1) 2 ∧
     (∀ a, (q.reg 11).toNat = a → a % 8 = 0 → a + 8 ≤ 0x00C000000000 → wrote (run 0x0005B503) 10 (s.readWord a) 4) ∧
     (∀ a, (q.reg 10).toNat = a → a % 8 = 0 → a + 8 ≤ 0x00C000000000 →
       let t := run 0x00B53023
       t.readWord a = q.reg 11 ∧ (∀ b, b < a ∨ a + 8 ≤ b → t.byte b = s.byte b) ∧ (t.cp p).pc = q.pc + 4 ∧
         ∀ r, (t.cp p).reg r = q.reg r))

/-! ## Watchdog, mailbox, boot and attestation (22; 18 R436) -/

/-- 22 R446, R448, R449, R451; 18 R436: `khbeat` restarts the timer; a silent command processor is restarted with a notice; a launch
without progress takes level 1, then one level more at a time: level 2 pre-empts its contexts into `kwdsave`, or, where there is no
area, ends them; level 3 takes each of its clusters; an update restarts the command processors 3, 2, 1, 0 and then
stores the image; the mailbox answers each command with its RESULT, a QUENCH of no such target, or of a device at a level below 4, with 4; a level at or below the one in progress is absorbed, and of two
that one cycle brings the higher goes first (22 R449), so that one after a lower one waits (log 85, DESIGN CHOICE); level 4 ends every
thread, clears the core dies and leaves the device in recovery state, what slices hold lost before the records of the launches are
written. RESULT 4 for a level of 0 or above 4, and the end of the UPDATE command when its image has been checked, are log 51
(DEDUCED); a restart takes two steps (log 56, DESIGN CHOICE) and leaves the
custom CSRs and the untaken notices as they stand (log 104, DESIGN CHOICE).
18 R436: what levels 2 and 3 do. A context that level 2 ends is free, its task counted as aborted; the launch goes on while a thread of
it is left, and with none left, and no record and no command, ends with STAT 0x5. Level 3 on a cluster ends every thread and launch of
its cores, each with STAT 0x5, clears their scratchpads and lane slices, the cluster's memory and its tables, keeps the cores' TLBs and fetch
blocks, writes the dirty lines of its slice back, leaves the device in recovery state and gives a notice. -/
def Obligations.WatchdogResult : Prop :=
  (∀ (s : State) (p : Nat) (l : Launch),
     let x := s.service
     let cmd := x.mbNow
     let q := s.cp p
     let level := x.mbArg0.toNat % 8
     let reset := fun (t : State) (reason : Word) (fn launch : Nat) => ∃ u : State, t = u.notice 0x01 4 fn launch 0xFF reason 0 ∧ u.threads = [] ∧
       u.cores = [] ∧ u.clusters = [] ∧ u.fifo = [] ∧ u.dirs = [] ∧ u.engines = [] ∧ u.service.state = 3 ∧
       (∀ a, 2 ^ 48 ≤ a → a < 2 ^ 48 + 2 ^ 33 → u.byte a = 0) ∧
       (s.launches = [] → u.slices = [] ∧ ((∀ y ∈ s.slices, ∀ z, y.2 = some z → z.dirty = false) → ∀ a, a < 2 ^ 48 → u.byte a = s.byte a))
     (p < 4 → q.smode = false → Completes (.heartbeat p) s (fun t => t.cp p = { q with beat := s.cycle } ∧ t.mem = s.mem ∧ t.launches = s.launches)) ∧
     (p < 4 → q.running = true → q.beat + 2 ^ 24 ≤ s.cycle → (∀ c ∈ s.clusters, c.2.faults = []) →
       Completes (.heartbeatTimeout p) s (fun t => ∃ u : State, t = u.notice 0x06 0 0 0 (BitVec.ofNat 64 p) 0 0 ∧ u.mem = s.mem ∧
         u.cp p = { q with running := false, restart := true } ∧ u.launches = s.launches ∧ u.threads = s.threads)) ∧
     (p < 4 → (∀ c ∈ s.clusters, c.2.faults = []) →
       let back : Cp := { q with x := [], f := [], pc := 0, smode := false, csrs := {}, reserved := none, running := true, restart := false,
                                 beat := s.cycle }
       (q.restart = true → Completes (.liveReplacementRestart p) s (fun t => t.cp p = back ∧ t.mem = s.mem ∧ t.launches = s.launches)) ∧
       (q.restart = false → x.update = some (3 - p) →
         (q.running = true → Completes (.liveReplacementRestart p) s (fun t => t.cp p = { q with running := false } ∧ t.mem = s.mem ∧
           t.launches = s.launches ∧ t.service = x)) ∧
         (q.running = false → 0 < p → Completes (.liveReplacementRestart p) s (fun t => t.cp p = back ∧ t.mem = s.mem ∧
           t.service = { x with update := some (4 - p) })) ∧
         (q.running = false → p = 0 → Completes (.liveReplacementRestart p) s (fun t => ∃ u : State, u.mem = s.mem ∧
           u.service = { x with store := x.newImage, running := x.newImage, update := none, newImage := [], booted := true,
                                fused := if imageValid x.newImage x.fused && decide (imageNum x.newImage 16 1 % 2 = 1) then
                                  imageNum x.newImage 8 4 else x.fused } ∧
           t = u.notice 0x07 0 0 0 0 (BitVec.ofNat 64 (imageNum x.newImage 8 4)) 0)))) ∧
     (∀ lo hi, lo < hi → hi ≤ 4 → (s.quenching lo).quenchOk hi = false) ∧
     (s.launch l.num = some l → l.phase = .live →
       (l.level = 0 → l.progress + (s.cp l.cp).prog * 4096 ≤ s.cycle → Completes (.progressTimeout l.num) s (fun t => ∃ u : State,
         u.threads = s.threads ∧ u.mem = s.mem ∧ (∃ m, u.launch l.num = some m ∧ m.level = 1) ∧
         t = u.notice 0x01 1 l.fn l.num 0xFF 0 0)) ∧
       (s.quenchOk (l.level + 1) = false → exec (.escalationTimeout l.num) s = .next s) ∧
       (let n := ((s.quenching 2).updLaunch l.num (fun m => { m with level := max m.level 2 })).notice 0x01 2 l.fn l.num 0xFF 0 0
        let area := (s.cp l.cp).wdsave
        l.level = 1 → 2 ≤ (s.cp l.cp).maxLvl → s.quenchOk 2 = true → l.progress + (s.cp l.cp).prog * 4096 + (s.cp l.cp).esc * 4096 ≤ s.cycle →
         (area = 0 ∨ 0x00C000000000 < area + 2688 * 0x12B000 → exec (.escalationTimeout l.num) s = .next (n.endContexts l.num
           ((l.rect.cores.flatMap coreThreads).filter (fun u => decide ((s.thread u).run ≠ .free) && decide ((s.thread u).launch = l.num))))) ∧
         (area ≠ 0 → area + 2688 * 0x12B000 ≤ 0x00C000000000 → s.preempts = [] →
           (∀ k ∈ l.rect.cores, ∃ c ∈ savable, (s.thread (16 * k + c)).run ≠ .free) →
           exec (.escalationTimeout l.num) s = .next { n with preempts := l.rect.cores.flatMap (fun k => savable.map (fun c =>
             ⟨16 * k + c, l.num, area + k * 0x12B000, s.cycle, l.cp, false, true, decide ((s.thread (16 * k + c)).run = .free), false⟩)) })) ∧
       (l.level = 2 → 3 ≤ (s.cp l.cp).maxLvl → s.quenchOk 3 = true → l.progress + (s.cp l.cp).prog * 4096 + 2 * (s.cp l.cp).esc * 4096 ≤ s.cycle →
         exec (.escalationTimeout l.num) s = .next (l.rect.clusters.foldl (fun u cl => u.quenchCluster cl 0 l.fn l.num)
           ((s.quenching 3).updLaunch l.num (fun m => { m with level := max m.level 3 })))) ∧
       (l.level = 3 → (s.cp l.cp).maxLvl = 4 → s.quenchOk 4 = true → l.progress + (s.cp l.cp).prog * 4096 + 3 * (s.cp l.cp).esc * 4096 ≤ s.cycle →
         Completes (.escalationTimeout l.num) s (fun t => reset t 0 l.fn l.num))) ∧
     (x.mbBusy = true →
       (let failed := fun (t : State) (r : Nat) => ∃ u w : State, u.service = { x with mbBusy := false, mbResult := r } ∧ u.mem = s.mem ∧
           w = u.notice 0x07 0 0 0 (BitVec.ofNat 64 r) (BitVec.ofNat 64 (imageNum x.running 8 4)) 0 ∧
           t = w.notice 0x09 0 0 0 (BitVec.ofNat 64 r) 0 0
        cmd = 1 →
         (x.update ≠ none → Completes .mailboxUpdate s (fun t => failed t 2)) ∧
         (x.update = none → s.fetchImage = none → Completes .mailboxUpdate s (fun t => failed t 3)) ∧
         (x.update = none → ∀ img, s.fetchImage = some img → Completes .mailboxUpdate s (fun t =>
           if imageValid img x.fused = true then t.mem = s.mem ∧ t.cps = s.cps ∧
             t.service = { x with update := some 0, newImage := img, mbBusy := false, mbResult := 0 }
           else failed t 1))) ∧
       (cmd = 2 → x.mbArg0.toNat ≥ 64 ∨ x.mbArg0.getLsbD 3 = true ∨
           (1 ≤ level ∧ level ≤ 4 ∧ s.quenchOk level = true ∧
             (x.mbArg0.toNat / 16 = 0 ∧ s.launch x.mbArg1.toNat = none ∧ s.tieTaken (.ended x.mbArg1.toNat) = false ∨
              x.mbArg0.toNat / 16 = 1 ∧ 168 ≤ x.mbArg1.toNat ∨ x.mbArg0.toNat / 16 = 2 ∧ (level ≠ 4 ∨ x.mbArg1 ≠ 0) ∨
              x.mbArg0.toNat / 16 = 3)) →
         exec .mailboxQuench s = .next { s with service := { x with mbBusy := false, mbResult := 4 } }) ∧
       (cmd = 2 → x.mbArg0.toNat < 64 → x.mbArg0.getLsbD 3 = false →
         (level = 0 ∨ 4 < level → Completes .mailboxQuench s (fun t => t.service = { x with mbBusy := false, mbResult := 4 } ∧
           t.mem = s.mem ∧ t.threads = s.threads ∧ t.launches = s.launches)) ∧
         (let absorbed := Completes .mailboxQuench s (fun t => t.service = { x with mbBusy := false, mbResult := 0 } ∧
             t.mem = s.mem ∧ t.threads = s.threads ∧ t.launches = s.launches ∧ t.taken = s.taken)
          1 ≤ level → level ≤ 4 →
           (s.quenchOk level = false → exec .mailboxQuench s = .next s) ∧
           (s.quenchOk level = true →
             (x.mbArg0.toNat / 16 = 0 → s.launch x.mbArg1.toNat = some l → level ≤ max l.level x.quench → absorbed) ∧
             (x.mbArg0.toNat / 16 = 1 → x.mbArg1.toNat < 168 → level ≤ s.clusterLevel x.mbArg1.toNat → absorbed) ∧
             (x.mbArg0.toNat / 16 = 2 → x.mbArg1 = 0 → level = 4 → 4 ≤ x.quench → absorbed))) ∧
         (level = 1 → x.mbArg0.toNat / 16 = 0 → s.launch x.mbArg1.toNat = some l → l.level = 0 → x.quench = 0 → s.quenchOk 1 = true →
           Completes .mailboxQuench s (fun t => ∃ u : State,
           u.service = { x with mbBusy := false, mbResult := 0 } ∧ u.threads = s.threads ∧ u.mem = s.mem ∧
           t = u.notice 0x01 1 l.fn l.num 0xFF 2 0)) ∧
         (level = 4 → x.mbArg0.toNat / 16 = 2 → x.mbArg1 = 0 → x.quench < 4 → s.quenchOk 4 = true → Completes .mailboxQuench s (fun t => reset t 2 0 0))) ∧
       (cmd = 3 →
         (x.state ≠ 3 → Completes .mailboxLoadimg s (fun t => ∃ u : State, u.service = { x with mbBusy := false, mbResult := 5 } ∧
           u.mem = s.mem ∧ t = u.notice 0x07 0 0 0 5 (BitVec.ofNat 64 (imageNum x.running 8 4)) 0)) ∧
         (x.state = 3 → x.update = none → ∀ img, s.fetchImage = some img → Completes .mailboxLoadimg s (fun t => ∃ u : State, u.mem = s.mem ∧
           if imageValid img x.fused = true then
             u.service = { x with store := img, running := img, state := 1, booted := true, quench := 0, mbBusy := false, mbResult := 0 } ∧
             (∀ j, j < 4 → (u.cp j).running = true) ∧ t = u.notice 0x07 0 0 0 0 (BitVec.ofNat 64 (imageNum img 8 4)) 0
           else u.service = { x with mbBusy := false, mbResult := 1 } ∧
             t = u.notice 0x07 0 0 0 1 (BitVec.ofNat 64 (imageNum x.running 8 4)) 0))) ∧
       (cmd = 0 ∨ 3 < cmd → Completes .mailboxReserved s (fun t => t.service = { x with mbBusy := false, mbResult := 6 } ∧ t.mem = s.mem ∧
         t.threads = s.threads ∧ t.launches = s.launches)))) ∧
  (∀ (s : State),
     let idle := (∀ c ∈ s.cores, c.2.jobs = []) ∧ (∀ c ∈ s.clusters, c.2.mmacs = [] ∧ c.2.arrivals = [] ∧ s.withdrawnNow c.1 = [])
     (∀ (u : Nat) (m : Launch), s.launch (s.thread u).launch = some m → m.phase = .live → isTsc u = false → (s.thread u).run ≠ .free → idle →
       let n := (s.thread u).launch
       let left := (s.updThread u Thread.emptied).threadsOf n
       let t := s.endContexts n [u]
       (t.thread u).run = .free ∧ (∀ v, v ≠ u → t.thread v = s.thread v) ∧
       (left ≠ [] → t.mem = s.mem ∧ t.launch n = some { m with nabort := m.nabort + (if (s.thread u).task then 1 else 0) }) ∧
       (left = [] → (∀ c ∈ s.saved, c.launch ≠ n) → s.recordsOf n = 0 → s.commandsOf n = 0 →
         t.launch n = none ∧ ∃ w : State, w.mem = s.mem ∧ t = w.endLaunch n 5)) ∧
     (∀ (n : Nat) (m : Launch), s.launch n = some m → ∃ w : State, s.quenchLaunch n = (w.endLaunch n 5).tie (.ended n) 0 ∧ w.mem = s.mem ∧
       (s.quenchLaunch n).launch n = none ∧ ∃ l, w.launch n = some l ∧ l.origin = m.origin ∧ l.seqno = m.seqno ∧ l.tasks = m.tasks) ∧
     (∀ (cl reason fn n : Nat), cl < 168 → ∃ u : State,
       s.quenchCluster cl reason fn n = u.notice 0x01 3 fn n (BitVec.ofNat 64 cl) (BitVec.ofNat 64 reason) 0 ∧ u.service.state = 3 ∧
       (let d := u.cluster cl
        3 ≤ d.quench ∧ d.reload = true ∧ d.pool = [] ∧ d.forwarded = [] ∧ d.hearth = [] ∧ d.weld = [] ∧ d.expander = [] ∧ d.metas = [] ∧
        d.chans = [] ∧ d.arrivals = [] ∧ d.trace = [] ∧ d.align = none ∧ d.ctc = []) ∧
       (∀ k ∈ clusterCores cl,
         let e := u.core k
         e.deque = [] ∧ e.tiles = [] ∧ e.meets = [] ∧ e.jobs = [] ∧ e.acc0 = {} ∧ e.acc1 = {} ∧ e.tlb = (s.core k).tlb ∧
         e.blocks = (s.core k).blocks ∧
         (∀ j, (s.core k).owner = some j → s.launch j ≠ none → u.launch j = none ∧ e.owner = none ∧
           (idle → ∀ v, isTsc v = false → (s.thread v).launch = j → (u.thread v).run = .free)) ∧
         (∀ o, o < 2 ^ 18 → u.byte (locSpm k o) = 0) ∧ ∀ i o, i < 16 → o < 2 ^ 12 → u.byte (locLane k i o) = 0) ∧
       (∀ o, o < 2 ^ 24 → u.byte (locCluster cl o) = 0) ∧
       (∀ y ∈ u.slices, homeSlice (128 * y.1) = cl → ∀ z, y.2 = some z → z.dirty = false) ∧
       ((∀ k ∈ clusterCores cl, (s.core k).owner = none) → ∀ a, a < 2 ^ 48 → u.byte a = s.byte a)))

/-- 22 R444, R445, R447, R450: which image is valid; a reset of the package takes everything until a cold boot; a valid image store
starts the device, any other leaves it in recovery state; the I/O die's watchdog sets RESETREQ. What a cold boot keeps is log 53
(DEDUCED), the zero of what it does not keep log 3. SPDM requests are answered while a command processor runs; the response codes and the layout of the answers are
the family's (log entry 52, PRESUMED): version 1.2; the algorithms ECDSA P-384 and SHA-384; the SHA-384 digest of the certificate chain; the
chain; a challenge signed with ECDSA P-384, over the bytes that log 52 names (DESIGN CHOICE); and the measurement blocks: the digest of the
ROM, D of the running image, its signatures and the fused SVN. During an update the answer is the ERROR of code 3, Busy. An image is signed where both its signatures verify over D,
as the standards of log 13 (PRESUMED) have it, under the keys whose hashes are fused; keys and hashes are the
implementation's. The 1,772 bytes of the LMS signature, the magic and the length as conditions, and block 4's
bytes are log 91 (PRESUMED). -/
def Obligations.BootResult : Prop :=
  ∀ (s : State) (slot nonce index : Nat),
    let x := s.service
    let answers := fun (i : Instr) (code : Nat) => Completes i s (fun t => t.mem = s.mem ∧ t.threads = s.threads ∧
      ∃ v, t.service = { x with spdm := some (code, v) })
    exec .packageReset s = .next { s with service := { x with down := true } } ∧
    exec .ioDieWatchdogExpiry s = .next { s with service := { x with resetReq := true } } ∧
    (x.down = true → Completes .coldBoot s (fun t => t.threads = [] ∧ t.cores = [] ∧ t.launches = [] ∧ t.service.down = false ∧
      t.service.booted = imageValid x.store x.fused ∧ t.service.state = (if imageValid x.store x.fused then 1 else 3) ∧ t.service.fused = x.fused ∧ t.service.store = x.store ∧
      (∀ p, p < 4 → (t.cp p).running = imageValid x.store x.fused) ∧
      ∀ a, t.byte a = if 2 ^ 47 ≤ a ∧ a < 2 ^ 48 then s.byte a else 0)) ∧
    ((∃ p, p < 4 ∧ (s.cp p).running = true) →
      (let tells := fun (i : Instr) (code : Nat) (bs : List Byte) => Completes i s (fun t => t.mem = s.mem ∧ t.threads = s.threads ∧
         t.service = { x with spdm := some (code, bs) })
       let le := fun (n v : Nat) => (List.range n).map (fun i => BitVec.ofNat 8 (v / 256 ^ i))
       let chain := fun (i : Nat) => Config.chainHead i ++ ecdsaPublic Config.deviceKey ++ Config.chainTail i
       let given := min (chain 0).length 0xFFFF
       let auth := sha384 (chain 0) ++ le 32 (Config.signNonce s.fresh) ++ [0, 0]
       (∃ time flags sizes : List Byte, time.length = 1 ∧ sizes.length = 8 ∧ (flags = [0x16, 0, 0, 0] ∨ flags = [0x0E, 0, 0, 0]) ∧
         tells .getCapabilities 0x61 ([0] ++ time ++ [0, 0] ++ flags ++ sizes)) ∧
       tells .getVersion 0x04 [0, 1, 0x00, 0x12] ∧
       (∃ free : List Byte, free.length = 6 ∧
         tells .negotiateAlgorithms 0x63 ([36, 0] ++ free ++ [0x80, 0, 0, 0, 0x02, 0, 0, 0] ++ List.replicate 16 0)) ∧
       tells .getDigests 0x01 (sha384 (chain 0)) ∧
       tells (.getCertificate 0) 0x02 (le 2 given ++ le 2 ((chain 0).length - given) ++ (chain 0).take given) ∧
       (slot ≠ 0 → tells (.getCertificate slot) 0x7F [1]) ∧
       tells (.challenge nonce) 0x03 (auth ++ ecdsaSign Config.deviceKey (Config.signSecret s.fresh) (sha384 (le 32 nonce ++ auth)))) ∧
      (x.update = none → answers (.getMeasurements index) 0x60 ∧
        (let block := fun (n : Nat) (bs : List Byte) => Completes (.getMeasurements n) s (fun t => t.mem = s.mem ∧
          t.service = { x with spdm := some (0x60, bs) })
         block 1 Config.romDigest ∧ block 2 (sha384 (x.running.take 0x100 ++ (x.running.drop 4096).take (imageNum x.running 12 4))) ∧
         block 3 ((x.running.drop 0x100).take 96 ++ (x.running.drop 0x200).take 1772) ∧
         block 4 [BitVec.ofNat 8 x.fused, BitVec.ofNat 8 (x.fused / 256), BitVec.ofNat 8 (x.fused / 256 ^ 2), BitVec.ofNat 8 (x.fused / 256 ^ 3)]))) ∧
    (∀ (img : List Byte) (f : Nat),
      let D := sha384 (img.take 0x100 ++ (img.drop 4096).take (imageNum img 12 4))
      imageValid img f = true ↔ imageNum img 0 4 = 0x4B544831 ∧ 4096 + imageNum img 12 4 ≤ img.length ∧
        4096 + imageNum img 12 4 ≤ 2 ^ 24 ∧
        sha384 (Config.ecdsaKey img) = Config.ecdsaFuse ∧ ecdsaP384 (Config.ecdsaKey img) D ((img.drop 0x100).take 96) = true ∧
        sha384 (Config.lmsKey img) = Config.lmsFuse ∧ lmsVerify (Config.lmsKey img) D ((img.drop 0x200).take 1772) = true ∧ f ≤ imageNum img 8 4) ∧
    (x.update ≠ none → Completes (.getMeasurements index) s (fun t => t.mem = s.mem ∧ t.service = { x with spdm := some (0x7F, [3]) }))

/-! ## The machine as a whole -/

/-- 07 R190, R206; 03 R95; 13 R357; 02 R56; 06 R177; 14 R380; 16 R403; 22 R443: what the spec gives for reset. No context holds a thread,
every register is unmapped and reads 0, `mc` is 1, `srseed` 1, the budget full; every bank is awake with IDLE 16, every page in
device bias, `stealdly` 2,048; graph slots are 0; the command processors' registers hold their reset values; and nothing is listed
in memory (log entry 3). -/
def Obligations.ResetValues : Prop :=
  let s := State.reset
  (∀ t r, (s.thread t).run = .free ∧ (s.thread t).sval r = 0 ∧ (s.thread t).staint r = 0 ∧ (s.thread t).vval r = 0 ∧
    (NMap.get {} (s.thread t).s r).map = .unmapped ∧ (s.thread t).mc = 1 ∧ (s.thread t).srseed = 1 ∧ (s.thread t).sv = false ∧
    (s.thread t).ebTe = false ∧ (s.thread t).ebRefill = 0xFFFFFF ∧ (s.thread t).ebBudget = 0xFFFFFFFF) ∧
  (∀ k, (s.core k).spAwake = 0xFFFFFFFF ∧ (s.core k).spIdle = 16 ∧ (s.core k).stealDly = 2048 ∧ (s.core k).acc0.owner = none ∧
    (s.core k).acc1.owner = none ∧ (s.core k).owner = none) ∧
  (∀ cl, (s.cluster cl).spw = 0 ∧ (s.cluster cl).busy = false ∧ (s.cluster cl).expander = [] ∧ (s.cluster cl).bfwdEn = false) ∧
  s.hostBias = [] ∧ (∀ fn i, s.gslot fn i = {}) ∧
  (∀ fn, (s.func fn).weight = 1 ∧ (s.func fn).cap = 2 ^ 40 - 1 ∧ (s.func fn).refill = 0xFFFFFF ∧ (s.func fn).asidN = 0) ∧
  (∀ p, (s.cp p).ans = 4096 ∧ (s.cp p).resv = 2 ^ 20 ∧ (s.cp p).prelim = 2 ^ 16 ∧ (s.cp p).prog = 2 ^ 12 ∧ (s.cp p).esc = 2 ^ 10 ∧
    (s.cp p).maxLvl = 4 ∧ (s.cp p).wdsave = 0) ∧
  s.service.kdstate = 1 ∧ s.memOk = true ∧ ∀ a, s.byte a = 0

/-- 00 R7; log entry 3: a step from memory in its canonical form (addresses rising, no entry equal to what an unlisted byte reads
as) leaves it in that form, whatever instruction or event it is. -/
def Obligations.MemoryStaysCanonical : Prop :=
  ∀ s t : State, s.memOk = true → step s = .next t → t.memOk = true

/-- 18 R436: nothing a program or the host does stops the machine. A step of a device with power answers a next state,
whatever the state and the move; without power every step but a cold boot faults, and no step is ever refused. -/
def Obligations.OnlyLostPowerStops : Prop :=
  ∀ s : State,
    (s.service.down = false → goesOn s) ∧
    (s.service.down = true → s.tick.agenda.head? ≠ some (.event .coldBoot) → step s = .fault .packageDown) ∧
    (s.service.down = true → s.tick.agenda.head? = some (.event .coldBoot) → goesOn s) ∧
    ∀ r, step s ≠ .refused r

/-- 07 R187, R196; 09 R243; 18 R424: when the bytes at the pc of the thread whose turn it is decode to an instruction, the step is
that instruction; a reserved encoding raises the illegal-instruction trap; an event of the environment is its row's meaning. A core
issues once a cycle, a thread at the earliest 8 cycles after its last issue (07 R187, R188; log 100). Without a valid image nothing but the mailbox and what concerns the package goes on (22 R445). -/
def Obligations.StepRunsDecoded : Prop :=
  ∀ s : State, s.service.down = false →
    let s1 := s.tick
    (s.service.booted = true →
    let ready := fun (u : State) => u.me.run = .ready ∧ u.me.stage = none ∧ (u.core (coreOf u.cur)).slotOf u.cur = some (u.cycle % 8) ∧
      u.me.notBefore ≤ u.cycle ∧ u.tieTaken (.issue (coreOf u.cur)) = false ∧ u.savePending u.cur = false ∧ u.me.pc ∉ u.breakpoints ∧ codeAddress u.cur u.me.pc = true
    let runs := fun (u : State) => ready u → ∀ bs, u.fetch u.cur = some bs →
      let v := (u.tie (.issue (coreOf u.cur)) 0).updMe (fun x => { x with notBefore := u.cycle + 8 })
      (∀ i rest, decode bs = .ok (i, rest) → step s = exec i v) ∧ (∀ e, decode bs = .error e → step s = settle v illegal)
    (s1.agenda = [] → runs s1) ∧
    (∀ t ms, s1.agenda = .turn t :: ms → runs { s1 with agenda := ms, cur := t }) ∧
    (∀ i ms, s1.agenda = .event i :: ms → i.encoded = false → step s = exec i { s1 with agenda := ms }) ∧
    (∀ p a ms, s1.agenda = .firmware p a :: ms → step s = .next (State.firmware { s1 with agenda := ms } p a))) ∧
    (s.service.booted = false →
      (s1.agenda = [] → step s = .next s1) ∧
      (∀ t ms, s1.agenda = .turn t :: ms → step s = .next { s1 with agenda := ms }) ∧
      (∀ p a ms, s1.agenda = .firmware p a :: ms → step s = .next { s1 with agenda := ms }) ∧
      (∀ i ms, s1.agenda = .event i :: ms → i.encoded = false →
        (s1.mailboxOnly i = true → step s = exec i { s1 with agenda := ms }) ∧
        (s1.mailboxOnly i = false → step s = .next { s1 with agenda := ms })))

/-! ## Encodings (09) -/

/-- 09 R242 to R266: decoding the encoding of a well-formed instruction gives it back, with the bytes that follow: for every
instruction of the table and every operand its encoding admits. -/
def Obligations.DecodeOfEncode : Prop :=
  ∀ (i : Instr) (rest : List Byte), i.wf = true → i.encoded = true → decode (encode i ++ rest) = .ok (i, rest)

/-- 09 R246: every field that an instruction does not use and every reserved value is refused: bytes that decode are the encoding
of a well-formed instruction, and of no other. -/
def Obligations.EncodeOfDecode : Prop :=
  ∀ (bs rest : List Byte) (i : Instr), decode bs = .ok (i, rest) → i.wf = true ∧ i.encoded = true ∧ encode i ++ rest = bs

/-- 09 R243 to R265, "Encodings worked"; 08, "A listing": words written out from the spec's encodings decode to the instructions they stand
for. -/
def Obligations.DecodeWords : Prop :=
  decode [0x62, 0x1C] = .ok (.vadd16 false 7 3, []) ∧
  decode [0x76, 0x9C] = .ok (.vfadd16 true 7 3, []) ∧
  decode [0x00, 0x00] = .ok (.nop, []) ∧
  decode [0x27, 0x92, 0x18, 0x64] = .ok (.aminu true false false 12 9 4, []) ∧
  decode [0x9B, 0x01, 0xD2, 0xFF] = .ok (.bne 0xFFD 0 3, []) ∧
  decode [0x53, 0xA2, 0x8C, 0x04] = .ok (.vgather 2 2 6 10 4, []) ∧
  decode [0xBF, 0x33, 0x00, 0x00] = .ok (.fmt false 0 0 3 7, []) ∧
  decode [0x35, 0x20, 0x0A, 0x38] = .ok (.mma false true 3 5 2, []) ∧
  decode [0x3F, 0x00, 0x0E, 0x01] = .ok (.fmt false 4 7 0 0, []) ∧
  decode [0x85, 0x00, 0x14, 0x00] = .ok (.addi 5 false 0 1, []) ∧
  decode [0x05, 0x11, 0x04, 0x00] = .ok (.addi 1 false 1 2, []) ∧
  decode [0x9D, 0x2F, 0x00, 0x00] = .ok (.call 2 31, [])

/-- 09 R243: every halfword with bit 0 clear is an instruction; 0x0000 is NOP, which moves the pc and nothing else; the 32-bit NOP
0x0000_0005 is an ADDI to s0, whose result and taint are discarded. -/
def Obligations.HalfwordSpace : Prop :=
  (∀ (h : BitVec 16) (rest : List Byte), h.getLsbD 0 = false →
    ∃ i, decode (h.extractLsb' 0 8 :: h.extractLsb' 8 8 :: rest) = .ok (i, rest)) ∧
  (∀ rest : List Byte, decode (0x00 :: 0x00 :: rest) = .ok (.nop, rest)) ∧
  (∀ rest : List Byte, decode (0x05 :: 0x00 :: 0x00 :: 0x00 :: rest) = .ok (.addi 0 false 0 0, rest)) ∧
  ∀ s : State,
    (s.canIssue .any .plain {} [] → Completes .nop s (fun t => Issued s t 2 ∧ t.me.s = s.me.s ∧ t.me.v = s.me.v ∧ t.me.k = s.me.k ∧
      RegFrame s t [] noReg noReg noReg s.me.run s.me.srseed)) ∧
    (s.canIssue .any .plain {} [.s 0 false] → Completes (.addi 0 false 0 0) s (fun t => Issued s t 4 ∧
      RegFrame s t [] noReg noReg noReg s.me.run s.me.srseed))

/-! ## The assembler (08) -/

/-- 08 R223, R227; 10 R292: what `lui d, hi(e)` and `addi d, d, lo(e)` add up to: e from -2^33 to 2^33 - 2^13, and e - 2^34 in the band
above it, up to 2^33, for which `li` adds 4,096 twice to the sum for e - 8,192. A displacement that is encoded leads the machine from
the instruction to the target, a multiple of 64; one is encoded for exactly the multiples of 64 in the range of the field; any other
target is error E7, and one out of range E8. -/
def Obligations.AssemblerValues : Prop :=
  let sum := fun (e : Word) => ((Hxas.hiOf e).setWidth 20).signExtend 64 * 2 ^ 14 + ((Hxas.loOf e).setWidth 14).signExtend 64
  (∀ e : Word, -(2 ^ 33) ≤ e.toInt → e.toInt < 2 ^ 33 - 2 ^ 13 → sum e = e) ∧
  (∀ e : Word, 2 ^ 33 - 2 ^ 13 ≤ e.toInt → e.toInt < 2 ^ 33 → sum e = e - 2 ^ 34 ∧ sum (e - 8192) + 4096 + 4096 = e) ∧
  ∀ (c : Hxas.Ctx) (t : Word) (bits : Nat), bits = 12 ∨ bits = 20 →
    let d : Int := (t.toNat / 64 : Nat) - (c.here.toNat / 64 : Nat)
    (∀ k, c.disp (.num t) bits = .ok k → target c.here (BitVec.ofInt bits k) = t ∧ t.toNat % 64 = 0) ∧
    (t.toNat % 64 ≠ 0 → c.disp (.num t) bits = .error .e7) ∧
    (t.toNat % 64 = 0 → -(2 ^ (bits - 1)) ≤ d → d < 2 ^ (bits - 1) → c.disp (.num t) bits = .ok d) ∧
    (t.toNat % 64 = 0 → (d < -(2 ^ (bits - 1)) ∨ 2 ^ (bits - 1) ≤ d) → c.disp (.num t) bits = .error .e8)
end

