-- ==== Sys2Proof/Laws/NMap.lean ====
section
/-! SUPPORT. Reading after writing a sparse table, and that a write keeps its canonical form. -/

namespace Sys2Proof

variable {α : Type}

theorem NMap.get_past (d : α) (m : NMap α) (k j : Nat) (h : k < j) : NMap.get d (NMap.past k m) j = NMap.get d m j := by
  induction m with
  | nil => rfl
  | cons p m ih =>
    obtain ⟨i, v⟩ := p
    simp only [NMap.past]
    split
    · rw [ih]; simp [NMap.get, show i ≠ j by omega, show ¬ j < i by omega]
    · rfl

theorem NMap.get_past_low (d : α) (m : NMap α) (k j : Nat) (h : j ≤ k) : NMap.get d (NMap.past k m) j = d := by
  induction m with
  | nil => rfl
  | cons p m ih =>
    obtain ⟨i, v⟩ := p
    simp only [NMap.past]
    split
    · exact ih
    · simp [NMap.get, show i ≠ j by omega, show j < i by omega]

theorem NMap.get_cons [DecidableEq α] (d : α) (k : Nat) (v : α) (m : NMap α) (h : NMap.get d m k = d) :
    NMap.get d (NMap.cons d k v m) k = v := by
  simp only [NMap.cons]
  split
  · next hv => rw [h, hv]
  · simp [NMap.get]

theorem NMap.get_cons_low [DecidableEq α] (d : α) (k j : Nat) (v : α) (m : NMap α) (h : j < k) (hm : NMap.get d m j = d) :
    NMap.get d (NMap.cons d k v m) j = d := by
  simp only [NMap.cons]
  split
  · exact hm
  · simp [NMap.get, show k ≠ j by omega, h]

theorem NMap.get_cons_high [DecidableEq α] (d : α) (k j : Nat) (v : α) (m : NMap α) (h : k < j) :
    NMap.get d (NMap.cons d k v m) j = NMap.get d m j := by
  simp only [NMap.cons]
  split
  · rfl
  · simp [NMap.get, show k ≠ j by omega, show ¬ j < k by omega]

/-- Reading the key that was written gives the value written. -/
@[simp] theorem NMap.get_set_same [DecidableEq α] (d : α) (m : NMap α) (k : Nat) (v : α) :
    NMap.get d (NMap.set d m k v) k = v := by
  induction m with
  | nil => exact NMap.get_cons d k v [] rfl
  | cons p m ih =>
    obtain ⟨i, w⟩ := p
    simp only [NMap.set]
    split
    · next h => simp [NMap.get, show i ≠ k by omega, show ¬ k < i by omega, ih]
    · exact NMap.get_cons d k v _ (NMap.get_past_low d _ k k (le_refl k))

/-- Reading any other key gives what it gave before. -/
theorem NMap.get_set_ne [DecidableEq α] (d : α) (m : NMap α) (k j : Nat) (v : α) (h : j ≠ k) :
    NMap.get d (NMap.set d m k v) j = NMap.get d m j := by
  induction m with
  | nil =>
    rcases Nat.lt_or_gt_of_ne h with h | h
    · exact NMap.get_cons_low d k j v [] h rfl
    · exact NMap.get_cons_high d k j v [] h
  | cons p m ih =>
    obtain ⟨i, w⟩ := p
    simp only [NMap.set]
    split
    · simp only [NMap.get, ih]
    · next hk =>
      rcases Nat.lt_or_gt_of_ne h with h | h
      · rw [NMap.get_cons_low d k j v _ h (NMap.get_past_low d _ k j (by omega))]
        simp [NMap.get, show i ≠ j by omega, show j < i by omega]
      · rw [NMap.get_cons_high d k j v _ h, NMap.get_past d _ k j h]

/-- Reading a table after a write. -/
theorem NMap.get_set [DecidableEq α] (d : α) (m : NMap α) (k j : Nat) (v : α) :
    NMap.get d (NMap.set d m k v) j = if j = k then v else NMap.get d m j := by
  split
  · next h => rw [h]; exact NMap.get_set_same d m k v
  · next h => exact NMap.get_set_ne d m k j v h

theorem NMap.okFrom_mono [DecidableEq α] (d : α) (m : NMap α) {a b : Nat} (h : b ≤ a) (ok : NMap.okFrom d a m = true) :
    NMap.okFrom d b m = true := by
  cases m with
  | nil => rfl
  | cons p m =>
    obtain ⟨i, v⟩ := p
    simp only [NMap.okFrom, Bool.and_eq_true, decide_eq_true_eq] at ok ⊢
    exact ⟨⟨by omega, ok.1.2⟩, ok.2⟩

theorem NMap.okFrom_past [DecidableEq α] (d : α) (m : NMap α) (a k : Nat) (ok : NMap.okFrom d a m = true) :
    NMap.okFrom d (k + 1) (NMap.past k m) = true := by
  induction m generalizing a with
  | nil => rfl
  | cons p m ih =>
    obtain ⟨i, v⟩ := p
    simp only [NMap.okFrom, Bool.and_eq_true, decide_eq_true_eq] at ok
    simp only [NMap.past]
    split
    · exact ih _ ok.2
    · simp only [NMap.okFrom, Bool.and_eq_true, decide_eq_true_eq]
      exact ⟨⟨by omega, ok.1.2⟩, ok.2⟩

theorem NMap.okFrom_set [DecidableEq α] (d : α) (m : NMap α) (a k : Nat) (v : α) (hk : a ≤ k)
    (ok : NMap.okFrom d a m = true) : NMap.okFrom d a (NMap.set d m k v) = true := by
  induction m generalizing a with
  | nil =>
    simp only [NMap.set, NMap.cons]
    split
    · rfl
    · next h => simp [NMap.okFrom, hk, h]
  | cons p m ih =>
    obtain ⟨i, w⟩ := p
    simp only [NMap.set]
    split
    · next h =>
      simp only [NMap.okFrom, Bool.and_eq_true, decide_eq_true_eq] at ok ⊢
      exact ⟨ok.1, ih _ (by omega) ok.2⟩
    · have hp := NMap.okFrom_past d ((i, w) :: m) a k ok
      simp only [NMap.cons]
      split
      · exact NMap.okFrom_mono d _ (by omega) hp
      · next hv => simp only [NMap.okFrom, Bool.and_eq_true, decide_eq_true_eq]; exact ⟨⟨hk, hv⟩, hp⟩

/-- A write keeps the canonical form. -/
theorem NMap.ok_set [DecidableEq α] (d : α) (m : NMap α) (k : Nat) (v : α) (ok : NMap.ok d m = true) :
    NMap.ok d (NMap.set d m k v) = true :=
  NMap.okFrom_set d m 0 k v (Nat.zero_le k) ok

theorem NMap.okFrom_filter [DecidableEq α] (d : α) (m : NMap α) (a : Nat) (f : Nat × α → Bool)
    (ok : NMap.okFrom d a m = true) : NMap.okFrom d a (m.filter f) = true := by
  induction m generalizing a with
  | nil => rfl
  | cons p m ih =>
    obtain ⟨i, v⟩ := p
    simp only [NMap.okFrom, Bool.and_eq_true, decide_eq_true_eq] at ok
    simp only [List.filter]
    split
    · simp only [NMap.okFrom, Bool.and_eq_true, decide_eq_true_eq]
      exact ⟨ok.1, ih _ ok.2⟩
    · exact NMap.okFrom_mono d _ (by omega) (ih _ ok.2)

/-- Dropping entries keeps the canonical form. -/
theorem NMap.ok_filter [DecidableEq α] (d : α) (m : NMap α) (f : Nat × α → Bool) (ok : NMap.ok d m = true) :
    NMap.ok d (m.filter f) = true :=
  NMap.okFrom_filter d m 0 f ok

end Sys2Proof
end

