-- ==== Sys2Proof/Laws/State.lean ====
section
/-! SUPPORT. The fields of the state after each named update, and the parts of the device read back after it. -/

namespace Sys2Proof.Machine

/-! ## setThread -/

@[simp] theorem State.setThread_agenda (s : State) (t : Nat) (x : Thread) : (s.setThread t x).agenda = s.agenda := rfl
@[simp] theorem State.setThread_pace (s : State) (t : Nat) (x : Thread) : (s.setThread t x).pace = s.pace := rfl
@[simp] theorem State.setThread_cur (s : State) (t : Nat) (x : Thread) : (s.setThread t x).cur = s.cur := rfl
@[simp] theorem State.setThread_cycle (s : State) (t : Nat) (x : Thread) : (s.setThread t x).cycle = s.cycle := rfl
@[simp] theorem State.setThread_dieReset (s : State) (t : Nat) (x : Thread) : (s.setThread t x).dieReset = s.dieReset := rfl
@[simp] theorem State.setThread_fresh (s : State) (t : Nat) (x : Thread) : (s.setThread t x).fresh = s.fresh := rfl
@[simp] theorem State.setThread_mem (s : State) (t : Nat) (x : Thread) : (s.setThread t x).mem = s.mem := rfl
@[simp] theorem State.setThread_cores (s : State) (t : Nat) (x : Thread) : (s.setThread t x).cores = s.cores := rfl
@[simp] theorem State.setThread_clusters (s : State) (t : Nat) (x : Thread) : (s.setThread t x).clusters = s.clusters := rfl
@[simp] theorem State.setThread_fifo (s : State) (t : Nat) (x : Thread) : (s.setThread t x).fifo = s.fifo := rfl
@[simp] theorem State.setThread_rq (s : State) (t : Nat) (x : Thread) : (s.setThread t x).rq = s.rq := rfl
@[simp] theorem State.setThread_dirs (s : State) (t : Nat) (x : Thread) : (s.setThread t x).dirs = s.dirs := rfl
@[simp] theorem State.setThread_slices (s : State) (t : Nat) (x : Thread) : (s.setThread t x).slices = s.slices := rfl
@[simp] theorem State.setThread_etcs (s : State) (t : Nat) (x : Thread) : (s.setThread t x).etcs = s.etcs := rfl
@[simp] theorem State.setThread_engines (s : State) (t : Nat) (x : Thread) : (s.setThread t x).engines = s.engines := rfl
@[simp] theorem State.setThread_nextCmd (s : State) (t : Nat) (x : Thread) : (s.setThread t x).nextCmd = s.nextCmd := rfl
@[simp] theorem State.setThread_changed (s : State) (t : Nat) (x : Thread) : (s.setThread t x).changed = s.changed := rfl
@[simp] theorem State.setThread_hostBias (s : State) (t : Nat) (x : Thread) : (s.setThread t x).hostBias = s.hostBias := rfl
@[simp] theorem State.setThread_flips (s : State) (t : Nat) (x : Thread) : (s.setThread t x).flips = s.flips := rfl
@[simp] theorem State.setThread_launches (s : State) (t : Nat) (x : Thread) : (s.setThread t x).launches = s.launches := rfl
@[simp] theorem State.setThread_nextLaunch (s : State) (t : Nat) (x : Thread) : (s.setThread t x).nextLaunch = s.nextLaunch := rfl
@[simp] theorem State.setThread_funcs (s : State) (t : Nat) (x : Thread) : (s.setThread t x).funcs = s.funcs := rfl
@[simp] theorem State.setThread_cps (s : State) (t : Nat) (x : Thread) : (s.setThread t x).cps = s.cps := rfl
@[simp] theorem State.setThread_preempts (s : State) (t : Nat) (x : Thread) : (s.setThread t x).preempts = s.preempts := rfl
@[simp] theorem State.setThread_saved (s : State) (t : Nat) (x : Thread) : (s.setThread t x).saved = s.saved := rfl
@[simp] theorem State.setThread_debugger (s : State) (t : Nat) (x : Thread) : (s.setThread t x).debugger = s.debugger := rfl
@[simp] theorem State.setThread_breakpoints (s : State) (t : Nat) (x : Thread) : (s.setThread t x).breakpoints = s.breakpoints := rfl
@[simp] theorem State.setThread_service (s : State) (t : Nat) (x : Thread) : (s.setThread t x).service = s.service := rfl
@[simp] theorem State.setThread_host (s : State) (t : Nat) (x : Thread) : (s.setThread t x).host = s.host := rfl
@[simp] theorem State.setThread_hostWrites (s : State) (t : Nat) (x : Thread) : (s.setThread t x).hostWrites = s.hostWrites := rfl
@[simp] theorem State.setThread_ioLast (s : State) (t : Nat) (x : Thread) : (s.setThread t x).ioLast = s.ioLast := rfl
@[simp] theorem State.setThread_maps (s : State) (t : Nat) (x : Thread) : (s.setThread t x).maps = s.maps := rfl
@[simp] theorem State.setThread_picks (s : State) (t : Nat) (x : Thread) : (s.setThread t x).picks = s.picks := rfl
@[simp] theorem State.setThread_badLines (s : State) (t : Nat) (x : Thread) : (s.setThread t x).badLines = s.badLines := rfl
@[simp] theorem State.setThread_lostLines (s : State) (t : Nat) (x : Thread) : (s.setThread t x).lostLines = s.lostLines := rfl
@[simp] theorem State.setThread_taken (s : State) (t : Nat) (x : Thread) : (s.setThread t x).taken = s.taken := rfl
@[simp] theorem State.setThread_pushed (s : State) (t : Nat) (x : Thread) : (s.setThread t x).pushed = s.pushed := rfl
@[simp] theorem State.setThread_later (s : State) (t : Nat) (x : Thread) : (s.setThread t x).later = s.later := rfl
@[simp] theorem State.setThread_closed (s : State) (t : Nat) (x : Thread) : (s.setThread t x).closed = s.closed := rfl
@[simp] theorem State.setThread_ioq (s : State) (t : Nat) (x : Thread) : (s.setThread t x).ioq = s.ioq := rfl

/-! ## updThread -/

@[simp] theorem State.updThread_agenda (s : State) (t : Nat) (f : Thread → Thread) : (s.updThread t f).agenda = s.agenda := rfl
@[simp] theorem State.updThread_pace (s : State) (t : Nat) (f : Thread → Thread) : (s.updThread t f).pace = s.pace := rfl
@[simp] theorem State.updThread_cur (s : State) (t : Nat) (f : Thread → Thread) : (s.updThread t f).cur = s.cur := rfl
@[simp] theorem State.updThread_cycle (s : State) (t : Nat) (f : Thread → Thread) : (s.updThread t f).cycle = s.cycle := rfl
@[simp] theorem State.updThread_dieReset (s : State) (t : Nat) (f : Thread → Thread) : (s.updThread t f).dieReset = s.dieReset := rfl
@[simp] theorem State.updThread_fresh (s : State) (t : Nat) (f : Thread → Thread) : (s.updThread t f).fresh = s.fresh := rfl
@[simp] theorem State.updThread_mem (s : State) (t : Nat) (f : Thread → Thread) : (s.updThread t f).mem = s.mem := rfl
@[simp] theorem State.updThread_cores (s : State) (t : Nat) (f : Thread → Thread) : (s.updThread t f).cores = s.cores := rfl
@[simp] theorem State.updThread_clusters (s : State) (t : Nat) (f : Thread → Thread) : (s.updThread t f).clusters = s.clusters := rfl
@[simp] theorem State.updThread_fifo (s : State) (t : Nat) (f : Thread → Thread) : (s.updThread t f).fifo = s.fifo := rfl
@[simp] theorem State.updThread_rq (s : State) (t : Nat) (f : Thread → Thread) : (s.updThread t f).rq = s.rq := rfl
@[simp] theorem State.updThread_dirs (s : State) (t : Nat) (f : Thread → Thread) : (s.updThread t f).dirs = s.dirs := rfl
@[simp] theorem State.updThread_slices (s : State) (t : Nat) (f : Thread → Thread) : (s.updThread t f).slices = s.slices := rfl
@[simp] theorem State.updThread_etcs (s : State) (t : Nat) (f : Thread → Thread) : (s.updThread t f).etcs = s.etcs := rfl
@[simp] theorem State.updThread_engines (s : State) (t : Nat) (f : Thread → Thread) : (s.updThread t f).engines = s.engines := rfl
@[simp] theorem State.updThread_nextCmd (s : State) (t : Nat) (f : Thread → Thread) : (s.updThread t f).nextCmd = s.nextCmd := rfl
@[simp] theorem State.updThread_changed (s : State) (t : Nat) (f : Thread → Thread) : (s.updThread t f).changed = s.changed := rfl
@[simp] theorem State.updThread_hostBias (s : State) (t : Nat) (f : Thread → Thread) : (s.updThread t f).hostBias = s.hostBias := rfl
@[simp] theorem State.updThread_flips (s : State) (t : Nat) (f : Thread → Thread) : (s.updThread t f).flips = s.flips := rfl
@[simp] theorem State.updThread_launches (s : State) (t : Nat) (f : Thread → Thread) : (s.updThread t f).launches = s.launches := rfl
@[simp] theorem State.updThread_nextLaunch (s : State) (t : Nat) (f : Thread → Thread) : (s.updThread t f).nextLaunch = s.nextLaunch := rfl
@[simp] theorem State.updThread_funcs (s : State) (t : Nat) (f : Thread → Thread) : (s.updThread t f).funcs = s.funcs := rfl
@[simp] theorem State.updThread_cps (s : State) (t : Nat) (f : Thread → Thread) : (s.updThread t f).cps = s.cps := rfl
@[simp] theorem State.updThread_preempts (s : State) (t : Nat) (f : Thread → Thread) : (s.updThread t f).preempts = s.preempts := rfl
@[simp] theorem State.updThread_saved (s : State) (t : Nat) (f : Thread → Thread) : (s.updThread t f).saved = s.saved := rfl
@[simp] theorem State.updThread_debugger (s : State) (t : Nat) (f : Thread → Thread) : (s.updThread t f).debugger = s.debugger := rfl
@[simp] theorem State.updThread_breakpoints (s : State) (t : Nat) (f : Thread → Thread) : (s.updThread t f).breakpoints = s.breakpoints := rfl
@[simp] theorem State.updThread_service (s : State) (t : Nat) (f : Thread → Thread) : (s.updThread t f).service = s.service := rfl
@[simp] theorem State.updThread_host (s : State) (t : Nat) (f : Thread → Thread) : (s.updThread t f).host = s.host := rfl
@[simp] theorem State.updThread_hostWrites (s : State) (t : Nat) (f : Thread → Thread) : (s.updThread t f).hostWrites = s.hostWrites := rfl
@[simp] theorem State.updThread_ioLast (s : State) (t : Nat) (f : Thread → Thread) : (s.updThread t f).ioLast = s.ioLast := rfl
@[simp] theorem State.updThread_maps (s : State) (t : Nat) (f : Thread → Thread) : (s.updThread t f).maps = s.maps := rfl
@[simp] theorem State.updThread_picks (s : State) (t : Nat) (f : Thread → Thread) : (s.updThread t f).picks = s.picks := rfl
@[simp] theorem State.updThread_badLines (s : State) (t : Nat) (f : Thread → Thread) : (s.updThread t f).badLines = s.badLines := rfl
@[simp] theorem State.updThread_lostLines (s : State) (t : Nat) (f : Thread → Thread) : (s.updThread t f).lostLines = s.lostLines := rfl
@[simp] theorem State.updThread_taken (s : State) (t : Nat) (f : Thread → Thread) : (s.updThread t f).taken = s.taken := rfl
@[simp] theorem State.updThread_pushed (s : State) (t : Nat) (f : Thread → Thread) : (s.updThread t f).pushed = s.pushed := rfl
@[simp] theorem State.updThread_later (s : State) (t : Nat) (f : Thread → Thread) : (s.updThread t f).later = s.later := rfl
@[simp] theorem State.updThread_closed (s : State) (t : Nat) (f : Thread → Thread) : (s.updThread t f).closed = s.closed := rfl
@[simp] theorem State.updThread_ioq (s : State) (t : Nat) (f : Thread → Thread) : (s.updThread t f).ioq = s.ioq := rfl

/-! ## updMe -/

@[simp] theorem State.updMe_agenda (s : State) (f : Thread → Thread) : (s.updMe f).agenda = s.agenda := rfl
@[simp] theorem State.updMe_pace (s : State) (f : Thread → Thread) : (s.updMe f).pace = s.pace := rfl
@[simp] theorem State.updMe_cur (s : State) (f : Thread → Thread) : (s.updMe f).cur = s.cur := rfl
@[simp] theorem State.updMe_cycle (s : State) (f : Thread → Thread) : (s.updMe f).cycle = s.cycle := rfl
@[simp] theorem State.updMe_dieReset (s : State) (f : Thread → Thread) : (s.updMe f).dieReset = s.dieReset := rfl
@[simp] theorem State.updMe_fresh (s : State) (f : Thread → Thread) : (s.updMe f).fresh = s.fresh := rfl
@[simp] theorem State.updMe_mem (s : State) (f : Thread → Thread) : (s.updMe f).mem = s.mem := rfl
@[simp] theorem State.updMe_cores (s : State) (f : Thread → Thread) : (s.updMe f).cores = s.cores := rfl
@[simp] theorem State.updMe_clusters (s : State) (f : Thread → Thread) : (s.updMe f).clusters = s.clusters := rfl
@[simp] theorem State.updMe_fifo (s : State) (f : Thread → Thread) : (s.updMe f).fifo = s.fifo := rfl
@[simp] theorem State.updMe_rq (s : State) (f : Thread → Thread) : (s.updMe f).rq = s.rq := rfl
@[simp] theorem State.updMe_dirs (s : State) (f : Thread → Thread) : (s.updMe f).dirs = s.dirs := rfl
@[simp] theorem State.updMe_slices (s : State) (f : Thread → Thread) : (s.updMe f).slices = s.slices := rfl
@[simp] theorem State.updMe_etcs (s : State) (f : Thread → Thread) : (s.updMe f).etcs = s.etcs := rfl
@[simp] theorem State.updMe_engines (s : State) (f : Thread → Thread) : (s.updMe f).engines = s.engines := rfl
@[simp] theorem State.updMe_nextCmd (s : State) (f : Thread → Thread) : (s.updMe f).nextCmd = s.nextCmd := rfl
@[simp] theorem State.updMe_changed (s : State) (f : Thread → Thread) : (s.updMe f).changed = s.changed := rfl
@[simp] theorem State.updMe_hostBias (s : State) (f : Thread → Thread) : (s.updMe f).hostBias = s.hostBias := rfl
@[simp] theorem State.updMe_flips (s : State) (f : Thread → Thread) : (s.updMe f).flips = s.flips := rfl
@[simp] theorem State.updMe_launches (s : State) (f : Thread → Thread) : (s.updMe f).launches = s.launches := rfl
@[simp] theorem State.updMe_nextLaunch (s : State) (f : Thread → Thread) : (s.updMe f).nextLaunch = s.nextLaunch := rfl
@[simp] theorem State.updMe_funcs (s : State) (f : Thread → Thread) : (s.updMe f).funcs = s.funcs := rfl
@[simp] theorem State.updMe_cps (s : State) (f : Thread → Thread) : (s.updMe f).cps = s.cps := rfl
@[simp] theorem State.updMe_preempts (s : State) (f : Thread → Thread) : (s.updMe f).preempts = s.preempts := rfl
@[simp] theorem State.updMe_saved (s : State) (f : Thread → Thread) : (s.updMe f).saved = s.saved := rfl
@[simp] theorem State.updMe_debugger (s : State) (f : Thread → Thread) : (s.updMe f).debugger = s.debugger := rfl
@[simp] theorem State.updMe_breakpoints (s : State) (f : Thread → Thread) : (s.updMe f).breakpoints = s.breakpoints := rfl
@[simp] theorem State.updMe_service (s : State) (f : Thread → Thread) : (s.updMe f).service = s.service := rfl
@[simp] theorem State.updMe_host (s : State) (f : Thread → Thread) : (s.updMe f).host = s.host := rfl
@[simp] theorem State.updMe_hostWrites (s : State) (f : Thread → Thread) : (s.updMe f).hostWrites = s.hostWrites := rfl
@[simp] theorem State.updMe_ioLast (s : State) (f : Thread → Thread) : (s.updMe f).ioLast = s.ioLast := rfl
@[simp] theorem State.updMe_maps (s : State) (f : Thread → Thread) : (s.updMe f).maps = s.maps := rfl
@[simp] theorem State.updMe_picks (s : State) (f : Thread → Thread) : (s.updMe f).picks = s.picks := rfl
@[simp] theorem State.updMe_badLines (s : State) (f : Thread → Thread) : (s.updMe f).badLines = s.badLines := rfl
@[simp] theorem State.updMe_lostLines (s : State) (f : Thread → Thread) : (s.updMe f).lostLines = s.lostLines := rfl
@[simp] theorem State.updMe_taken (s : State) (f : Thread → Thread) : (s.updMe f).taken = s.taken := rfl
@[simp] theorem State.updMe_pushed (s : State) (f : Thread → Thread) : (s.updMe f).pushed = s.pushed := rfl
@[simp] theorem State.updMe_later (s : State) (f : Thread → Thread) : (s.updMe f).later = s.later := rfl
@[simp] theorem State.updMe_closed (s : State) (f : Thread → Thread) : (s.updMe f).closed = s.closed := rfl
@[simp] theorem State.updMe_ioq (s : State) (f : Thread → Thread) : (s.updMe f).ioq = s.ioq := rfl

/-! ## setCore -/

@[simp] theorem State.setCore_agenda (s : State) (k : Nat) (x : Core) : (s.setCore k x).agenda = s.agenda := rfl
@[simp] theorem State.setCore_pace (s : State) (k : Nat) (x : Core) : (s.setCore k x).pace = s.pace := rfl
@[simp] theorem State.setCore_cur (s : State) (k : Nat) (x : Core) : (s.setCore k x).cur = s.cur := rfl
@[simp] theorem State.setCore_cycle (s : State) (k : Nat) (x : Core) : (s.setCore k x).cycle = s.cycle := rfl
@[simp] theorem State.setCore_dieReset (s : State) (k : Nat) (x : Core) : (s.setCore k x).dieReset = s.dieReset := rfl
@[simp] theorem State.setCore_fresh (s : State) (k : Nat) (x : Core) : (s.setCore k x).fresh = s.fresh := rfl
@[simp] theorem State.setCore_mem (s : State) (k : Nat) (x : Core) : (s.setCore k x).mem = s.mem := rfl
@[simp] theorem State.setCore_threads (s : State) (k : Nat) (x : Core) : (s.setCore k x).threads = s.threads := rfl
@[simp] theorem State.setCore_clusters (s : State) (k : Nat) (x : Core) : (s.setCore k x).clusters = s.clusters := rfl
@[simp] theorem State.setCore_fifo (s : State) (k : Nat) (x : Core) : (s.setCore k x).fifo = s.fifo := rfl
@[simp] theorem State.setCore_rq (s : State) (k : Nat) (x : Core) : (s.setCore k x).rq = s.rq := rfl
@[simp] theorem State.setCore_dirs (s : State) (k : Nat) (x : Core) : (s.setCore k x).dirs = s.dirs := rfl
@[simp] theorem State.setCore_slices (s : State) (k : Nat) (x : Core) : (s.setCore k x).slices = s.slices := rfl
@[simp] theorem State.setCore_etcs (s : State) (k : Nat) (x : Core) : (s.setCore k x).etcs = s.etcs := rfl
@[simp] theorem State.setCore_engines (s : State) (k : Nat) (x : Core) : (s.setCore k x).engines = s.engines := rfl
@[simp] theorem State.setCore_nextCmd (s : State) (k : Nat) (x : Core) : (s.setCore k x).nextCmd = s.nextCmd := rfl
@[simp] theorem State.setCore_changed (s : State) (k : Nat) (x : Core) : (s.setCore k x).changed = s.changed := rfl
@[simp] theorem State.setCore_hostBias (s : State) (k : Nat) (x : Core) : (s.setCore k x).hostBias = s.hostBias := rfl
@[simp] theorem State.setCore_flips (s : State) (k : Nat) (x : Core) : (s.setCore k x).flips = s.flips := rfl
@[simp] theorem State.setCore_launches (s : State) (k : Nat) (x : Core) : (s.setCore k x).launches = s.launches := rfl
@[simp] theorem State.setCore_nextLaunch (s : State) (k : Nat) (x : Core) : (s.setCore k x).nextLaunch = s.nextLaunch := rfl
@[simp] theorem State.setCore_funcs (s : State) (k : Nat) (x : Core) : (s.setCore k x).funcs = s.funcs := rfl
@[simp] theorem State.setCore_cps (s : State) (k : Nat) (x : Core) : (s.setCore k x).cps = s.cps := rfl
@[simp] theorem State.setCore_preempts (s : State) (k : Nat) (x : Core) : (s.setCore k x).preempts = s.preempts := rfl
@[simp] theorem State.setCore_saved (s : State) (k : Nat) (x : Core) : (s.setCore k x).saved = s.saved := rfl
@[simp] theorem State.setCore_debugger (s : State) (k : Nat) (x : Core) : (s.setCore k x).debugger = s.debugger := rfl
@[simp] theorem State.setCore_breakpoints (s : State) (k : Nat) (x : Core) : (s.setCore k x).breakpoints = s.breakpoints := rfl
@[simp] theorem State.setCore_service (s : State) (k : Nat) (x : Core) : (s.setCore k x).service = s.service := rfl
@[simp] theorem State.setCore_host (s : State) (k : Nat) (x : Core) : (s.setCore k x).host = s.host := rfl
@[simp] theorem State.setCore_hostWrites (s : State) (k : Nat) (x : Core) : (s.setCore k x).hostWrites = s.hostWrites := rfl
@[simp] theorem State.setCore_ioLast (s : State) (k : Nat) (x : Core) : (s.setCore k x).ioLast = s.ioLast := rfl
@[simp] theorem State.setCore_maps (s : State) (k : Nat) (x : Core) : (s.setCore k x).maps = s.maps := rfl
@[simp] theorem State.setCore_picks (s : State) (k : Nat) (x : Core) : (s.setCore k x).picks = s.picks := rfl
@[simp] theorem State.setCore_badLines (s : State) (k : Nat) (x : Core) : (s.setCore k x).badLines = s.badLines := rfl
@[simp] theorem State.setCore_lostLines (s : State) (k : Nat) (x : Core) : (s.setCore k x).lostLines = s.lostLines := rfl
@[simp] theorem State.setCore_taken (s : State) (k : Nat) (x : Core) : (s.setCore k x).taken = s.taken := rfl
@[simp] theorem State.setCore_pushed (s : State) (k : Nat) (x : Core) : (s.setCore k x).pushed = s.pushed := rfl
@[simp] theorem State.setCore_later (s : State) (k : Nat) (x : Core) : (s.setCore k x).later = s.later := rfl
@[simp] theorem State.setCore_closed (s : State) (k : Nat) (x : Core) : (s.setCore k x).closed = s.closed := rfl
@[simp] theorem State.setCore_ioq (s : State) (k : Nat) (x : Core) : (s.setCore k x).ioq = s.ioq := rfl

/-! ## updCore -/

@[simp] theorem State.updCore_agenda (s : State) (k : Nat) (f : Core → Core) : (s.updCore k f).agenda = s.agenda := rfl
@[simp] theorem State.updCore_pace (s : State) (k : Nat) (f : Core → Core) : (s.updCore k f).pace = s.pace := rfl
@[simp] theorem State.updCore_cur (s : State) (k : Nat) (f : Core → Core) : (s.updCore k f).cur = s.cur := rfl
@[simp] theorem State.updCore_cycle (s : State) (k : Nat) (f : Core → Core) : (s.updCore k f).cycle = s.cycle := rfl
@[simp] theorem State.updCore_dieReset (s : State) (k : Nat) (f : Core → Core) : (s.updCore k f).dieReset = s.dieReset := rfl
@[simp] theorem State.updCore_fresh (s : State) (k : Nat) (f : Core → Core) : (s.updCore k f).fresh = s.fresh := rfl
@[simp] theorem State.updCore_mem (s : State) (k : Nat) (f : Core → Core) : (s.updCore k f).mem = s.mem := rfl
@[simp] theorem State.updCore_threads (s : State) (k : Nat) (f : Core → Core) : (s.updCore k f).threads = s.threads := rfl
@[simp] theorem State.updCore_clusters (s : State) (k : Nat) (f : Core → Core) : (s.updCore k f).clusters = s.clusters := rfl
@[simp] theorem State.updCore_fifo (s : State) (k : Nat) (f : Core → Core) : (s.updCore k f).fifo = s.fifo := rfl
@[simp] theorem State.updCore_rq (s : State) (k : Nat) (f : Core → Core) : (s.updCore k f).rq = s.rq := rfl
@[simp] theorem State.updCore_dirs (s : State) (k : Nat) (f : Core → Core) : (s.updCore k f).dirs = s.dirs := rfl
@[simp] theorem State.updCore_slices (s : State) (k : Nat) (f : Core → Core) : (s.updCore k f).slices = s.slices := rfl
@[simp] theorem State.updCore_etcs (s : State) (k : Nat) (f : Core → Core) : (s.updCore k f).etcs = s.etcs := rfl
@[simp] theorem State.updCore_engines (s : State) (k : Nat) (f : Core → Core) : (s.updCore k f).engines = s.engines := rfl
@[simp] theorem State.updCore_nextCmd (s : State) (k : Nat) (f : Core → Core) : (s.updCore k f).nextCmd = s.nextCmd := rfl
@[simp] theorem State.updCore_changed (s : State) (k : Nat) (f : Core → Core) : (s.updCore k f).changed = s.changed := rfl
@[simp] theorem State.updCore_hostBias (s : State) (k : Nat) (f : Core → Core) : (s.updCore k f).hostBias = s.hostBias := rfl
@[simp] theorem State.updCore_flips (s : State) (k : Nat) (f : Core → Core) : (s.updCore k f).flips = s.flips := rfl
@[simp] theorem State.updCore_launches (s : State) (k : Nat) (f : Core → Core) : (s.updCore k f).launches = s.launches := rfl
@[simp] theorem State.updCore_nextLaunch (s : State) (k : Nat) (f : Core → Core) : (s.updCore k f).nextLaunch = s.nextLaunch := rfl
@[simp] theorem State.updCore_funcs (s : State) (k : Nat) (f : Core → Core) : (s.updCore k f).funcs = s.funcs := rfl
@[simp] theorem State.updCore_cps (s : State) (k : Nat) (f : Core → Core) : (s.updCore k f).cps = s.cps := rfl
@[simp] theorem State.updCore_preempts (s : State) (k : Nat) (f : Core → Core) : (s.updCore k f).preempts = s.preempts := rfl
@[simp] theorem State.updCore_saved (s : State) (k : Nat) (f : Core → Core) : (s.updCore k f).saved = s.saved := rfl
@[simp] theorem State.updCore_debugger (s : State) (k : Nat) (f : Core → Core) : (s.updCore k f).debugger = s.debugger := rfl
@[simp] theorem State.updCore_breakpoints (s : State) (k : Nat) (f : Core → Core) : (s.updCore k f).breakpoints = s.breakpoints := rfl
@[simp] theorem State.updCore_service (s : State) (k : Nat) (f : Core → Core) : (s.updCore k f).service = s.service := rfl
@[simp] theorem State.updCore_host (s : State) (k : Nat) (f : Core → Core) : (s.updCore k f).host = s.host := rfl
@[simp] theorem State.updCore_hostWrites (s : State) (k : Nat) (f : Core → Core) : (s.updCore k f).hostWrites = s.hostWrites := rfl
@[simp] theorem State.updCore_ioLast (s : State) (k : Nat) (f : Core → Core) : (s.updCore k f).ioLast = s.ioLast := rfl
@[simp] theorem State.updCore_maps (s : State) (k : Nat) (f : Core → Core) : (s.updCore k f).maps = s.maps := rfl
@[simp] theorem State.updCore_picks (s : State) (k : Nat) (f : Core → Core) : (s.updCore k f).picks = s.picks := rfl
@[simp] theorem State.updCore_badLines (s : State) (k : Nat) (f : Core → Core) : (s.updCore k f).badLines = s.badLines := rfl
@[simp] theorem State.updCore_lostLines (s : State) (k : Nat) (f : Core → Core) : (s.updCore k f).lostLines = s.lostLines := rfl
@[simp] theorem State.updCore_taken (s : State) (k : Nat) (f : Core → Core) : (s.updCore k f).taken = s.taken := rfl
@[simp] theorem State.updCore_pushed (s : State) (k : Nat) (f : Core → Core) : (s.updCore k f).pushed = s.pushed := rfl
@[simp] theorem State.updCore_later (s : State) (k : Nat) (f : Core → Core) : (s.updCore k f).later = s.later := rfl
@[simp] theorem State.updCore_closed (s : State) (k : Nat) (f : Core → Core) : (s.updCore k f).closed = s.closed := rfl
@[simp] theorem State.updCore_ioq (s : State) (k : Nat) (f : Core → Core) : (s.updCore k f).ioq = s.ioq := rfl

/-! ## setCluster -/

@[simp] theorem State.setCluster_agenda (s : State) (c : Nat) (x : Cluster) : (s.setCluster c x).agenda = s.agenda := rfl
@[simp] theorem State.setCluster_pace (s : State) (c : Nat) (x : Cluster) : (s.setCluster c x).pace = s.pace := rfl
@[simp] theorem State.setCluster_cur (s : State) (c : Nat) (x : Cluster) : (s.setCluster c x).cur = s.cur := rfl
@[simp] theorem State.setCluster_cycle (s : State) (c : Nat) (x : Cluster) : (s.setCluster c x).cycle = s.cycle := rfl
@[simp] theorem State.setCluster_dieReset (s : State) (c : Nat) (x : Cluster) : (s.setCluster c x).dieReset = s.dieReset := rfl
@[simp] theorem State.setCluster_fresh (s : State) (c : Nat) (x : Cluster) : (s.setCluster c x).fresh = s.fresh := rfl
@[simp] theorem State.setCluster_mem (s : State) (c : Nat) (x : Cluster) : (s.setCluster c x).mem = s.mem := rfl
@[simp] theorem State.setCluster_threads (s : State) (c : Nat) (x : Cluster) : (s.setCluster c x).threads = s.threads := rfl
@[simp] theorem State.setCluster_cores (s : State) (c : Nat) (x : Cluster) : (s.setCluster c x).cores = s.cores := rfl
@[simp] theorem State.setCluster_fifo (s : State) (c : Nat) (x : Cluster) : (s.setCluster c x).fifo = s.fifo := rfl
@[simp] theorem State.setCluster_rq (s : State) (c : Nat) (x : Cluster) : (s.setCluster c x).rq = s.rq := rfl
@[simp] theorem State.setCluster_dirs (s : State) (c : Nat) (x : Cluster) : (s.setCluster c x).dirs = s.dirs := rfl
@[simp] theorem State.setCluster_slices (s : State) (c : Nat) (x : Cluster) : (s.setCluster c x).slices = s.slices := rfl
@[simp] theorem State.setCluster_etcs (s : State) (c : Nat) (x : Cluster) : (s.setCluster c x).etcs = s.etcs := rfl
@[simp] theorem State.setCluster_engines (s : State) (c : Nat) (x : Cluster) : (s.setCluster c x).engines = s.engines := rfl
@[simp] theorem State.setCluster_nextCmd (s : State) (c : Nat) (x : Cluster) : (s.setCluster c x).nextCmd = s.nextCmd := rfl
@[simp] theorem State.setCluster_changed (s : State) (c : Nat) (x : Cluster) : (s.setCluster c x).changed = s.changed := rfl
@[simp] theorem State.setCluster_hostBias (s : State) (c : Nat) (x : Cluster) : (s.setCluster c x).hostBias = s.hostBias := rfl
@[simp] theorem State.setCluster_flips (s : State) (c : Nat) (x : Cluster) : (s.setCluster c x).flips = s.flips := rfl
@[simp] theorem State.setCluster_launches (s : State) (c : Nat) (x : Cluster) : (s.setCluster c x).launches = s.launches := rfl
@[simp] theorem State.setCluster_nextLaunch (s : State) (c : Nat) (x : Cluster) : (s.setCluster c x).nextLaunch = s.nextLaunch := rfl
@[simp] theorem State.setCluster_funcs (s : State) (c : Nat) (x : Cluster) : (s.setCluster c x).funcs = s.funcs := rfl
@[simp] theorem State.setCluster_cps (s : State) (c : Nat) (x : Cluster) : (s.setCluster c x).cps = s.cps := rfl
@[simp] theorem State.setCluster_preempts (s : State) (c : Nat) (x : Cluster) : (s.setCluster c x).preempts = s.preempts := rfl
@[simp] theorem State.setCluster_saved (s : State) (c : Nat) (x : Cluster) : (s.setCluster c x).saved = s.saved := rfl
@[simp] theorem State.setCluster_debugger (s : State) (c : Nat) (x : Cluster) : (s.setCluster c x).debugger = s.debugger := rfl
@[simp] theorem State.setCluster_breakpoints (s : State) (c : Nat) (x : Cluster) : (s.setCluster c x).breakpoints = s.breakpoints := rfl
@[simp] theorem State.setCluster_service (s : State) (c : Nat) (x : Cluster) : (s.setCluster c x).service = s.service := rfl
@[simp] theorem State.setCluster_host (s : State) (c : Nat) (x : Cluster) : (s.setCluster c x).host = s.host := rfl
@[simp] theorem State.setCluster_hostWrites (s : State) (c : Nat) (x : Cluster) : (s.setCluster c x).hostWrites = s.hostWrites := rfl
@[simp] theorem State.setCluster_ioLast (s : State) (c : Nat) (x : Cluster) : (s.setCluster c x).ioLast = s.ioLast := rfl
@[simp] theorem State.setCluster_maps (s : State) (c : Nat) (x : Cluster) : (s.setCluster c x).maps = s.maps := rfl
@[simp] theorem State.setCluster_picks (s : State) (c : Nat) (x : Cluster) : (s.setCluster c x).picks = s.picks := rfl
@[simp] theorem State.setCluster_badLines (s : State) (c : Nat) (x : Cluster) : (s.setCluster c x).badLines = s.badLines := rfl
@[simp] theorem State.setCluster_lostLines (s : State) (c : Nat) (x : Cluster) : (s.setCluster c x).lostLines = s.lostLines := rfl
@[simp] theorem State.setCluster_taken (s : State) (c : Nat) (x : Cluster) : (s.setCluster c x).taken = s.taken := rfl
@[simp] theorem State.setCluster_pushed (s : State) (c : Nat) (x : Cluster) : (s.setCluster c x).pushed = s.pushed := rfl
@[simp] theorem State.setCluster_later (s : State) (c : Nat) (x : Cluster) : (s.setCluster c x).later = s.later := rfl
@[simp] theorem State.setCluster_closed (s : State) (c : Nat) (x : Cluster) : (s.setCluster c x).closed = s.closed := rfl
@[simp] theorem State.setCluster_ioq (s : State) (c : Nat) (x : Cluster) : (s.setCluster c x).ioq = s.ioq := rfl

/-! ## updCluster -/

@[simp] theorem State.updCluster_agenda (s : State) (c : Nat) (f : Cluster → Cluster) : (s.updCluster c f).agenda = s.agenda := rfl
@[simp] theorem State.updCluster_pace (s : State) (c : Nat) (f : Cluster → Cluster) : (s.updCluster c f).pace = s.pace := rfl
@[simp] theorem State.updCluster_cur (s : State) (c : Nat) (f : Cluster → Cluster) : (s.updCluster c f).cur = s.cur := rfl
@[simp] theorem State.updCluster_cycle (s : State) (c : Nat) (f : Cluster → Cluster) : (s.updCluster c f).cycle = s.cycle := rfl
@[simp] theorem State.updCluster_dieReset (s : State) (c : Nat) (f : Cluster → Cluster) : (s.updCluster c f).dieReset = s.dieReset := rfl
@[simp] theorem State.updCluster_fresh (s : State) (c : Nat) (f : Cluster → Cluster) : (s.updCluster c f).fresh = s.fresh := rfl
@[simp] theorem State.updCluster_mem (s : State) (c : Nat) (f : Cluster → Cluster) : (s.updCluster c f).mem = s.mem := rfl
@[simp] theorem State.updCluster_threads (s : State) (c : Nat) (f : Cluster → Cluster) : (s.updCluster c f).threads = s.threads := rfl
@[simp] theorem State.updCluster_cores (s : State) (c : Nat) (f : Cluster → Cluster) : (s.updCluster c f).cores = s.cores := rfl
@[simp] theorem State.updCluster_fifo (s : State) (c : Nat) (f : Cluster → Cluster) : (s.updCluster c f).fifo = s.fifo := rfl
@[simp] theorem State.updCluster_rq (s : State) (c : Nat) (f : Cluster → Cluster) : (s.updCluster c f).rq = s.rq := rfl
@[simp] theorem State.updCluster_dirs (s : State) (c : Nat) (f : Cluster → Cluster) : (s.updCluster c f).dirs = s.dirs := rfl
@[simp] theorem State.updCluster_slices (s : State) (c : Nat) (f : Cluster → Cluster) : (s.updCluster c f).slices = s.slices := rfl
@[simp] theorem State.updCluster_etcs (s : State) (c : Nat) (f : Cluster → Cluster) : (s.updCluster c f).etcs = s.etcs := rfl
@[simp] theorem State.updCluster_engines (s : State) (c : Nat) (f : Cluster → Cluster) : (s.updCluster c f).engines = s.engines := rfl
@[simp] theorem State.updCluster_nextCmd (s : State) (c : Nat) (f : Cluster → Cluster) : (s.updCluster c f).nextCmd = s.nextCmd := rfl
@[simp] theorem State.updCluster_changed (s : State) (c : Nat) (f : Cluster → Cluster) : (s.updCluster c f).changed = s.changed := rfl
@[simp] theorem State.updCluster_hostBias (s : State) (c : Nat) (f : Cluster → Cluster) : (s.updCluster c f).hostBias = s.hostBias := rfl
@[simp] theorem State.updCluster_flips (s : State) (c : Nat) (f : Cluster → Cluster) : (s.updCluster c f).flips = s.flips := rfl
@[simp] theorem State.updCluster_launches (s : State) (c : Nat) (f : Cluster → Cluster) : (s.updCluster c f).launches = s.launches := rfl
@[simp] theorem State.updCluster_nextLaunch (s : State) (c : Nat) (f : Cluster → Cluster) : (s.updCluster c f).nextLaunch = s.nextLaunch := rfl
@[simp] theorem State.updCluster_funcs (s : State) (c : Nat) (f : Cluster → Cluster) : (s.updCluster c f).funcs = s.funcs := rfl
@[simp] theorem State.updCluster_cps (s : State) (c : Nat) (f : Cluster → Cluster) : (s.updCluster c f).cps = s.cps := rfl
@[simp] theorem State.updCluster_preempts (s : State) (c : Nat) (f : Cluster → Cluster) : (s.updCluster c f).preempts = s.preempts := rfl
@[simp] theorem State.updCluster_saved (s : State) (c : Nat) (f : Cluster → Cluster) : (s.updCluster c f).saved = s.saved := rfl
@[simp] theorem State.updCluster_debugger (s : State) (c : Nat) (f : Cluster → Cluster) : (s.updCluster c f).debugger = s.debugger := rfl
@[simp] theorem State.updCluster_breakpoints (s : State) (c : Nat) (f : Cluster → Cluster) : (s.updCluster c f).breakpoints = s.breakpoints := rfl
@[simp] theorem State.updCluster_service (s : State) (c : Nat) (f : Cluster → Cluster) : (s.updCluster c f).service = s.service := rfl
@[simp] theorem State.updCluster_host (s : State) (c : Nat) (f : Cluster → Cluster) : (s.updCluster c f).host = s.host := rfl
@[simp] theorem State.updCluster_hostWrites (s : State) (c : Nat) (f : Cluster → Cluster) : (s.updCluster c f).hostWrites = s.hostWrites := rfl
@[simp] theorem State.updCluster_ioLast (s : State) (c : Nat) (f : Cluster → Cluster) : (s.updCluster c f).ioLast = s.ioLast := rfl
@[simp] theorem State.updCluster_maps (s : State) (c : Nat) (f : Cluster → Cluster) : (s.updCluster c f).maps = s.maps := rfl
@[simp] theorem State.updCluster_picks (s : State) (c : Nat) (f : Cluster → Cluster) : (s.updCluster c f).picks = s.picks := rfl
@[simp] theorem State.updCluster_badLines (s : State) (c : Nat) (f : Cluster → Cluster) : (s.updCluster c f).badLines = s.badLines := rfl
@[simp] theorem State.updCluster_lostLines (s : State) (c : Nat) (f : Cluster → Cluster) : (s.updCluster c f).lostLines = s.lostLines := rfl
@[simp] theorem State.updCluster_taken (s : State) (c : Nat) (f : Cluster → Cluster) : (s.updCluster c f).taken = s.taken := rfl
@[simp] theorem State.updCluster_pushed (s : State) (c : Nat) (f : Cluster → Cluster) : (s.updCluster c f).pushed = s.pushed := rfl
@[simp] theorem State.updCluster_later (s : State) (c : Nat) (f : Cluster → Cluster) : (s.updCluster c f).later = s.later := rfl
@[simp] theorem State.updCluster_closed (s : State) (c : Nat) (f : Cluster → Cluster) : (s.updCluster c f).closed = s.closed := rfl
@[simp] theorem State.updCluster_ioq (s : State) (c : Nat) (f : Cluster → Cluster) : (s.updCluster c f).ioq = s.ioq := rfl

/-! ## updEngine -/

@[simp] theorem State.updEngine_agenda (s : State) (g : Nat) (f : Engine → Engine) : (s.updEngine g f).agenda = s.agenda := rfl
@[simp] theorem State.updEngine_pace (s : State) (g : Nat) (f : Engine → Engine) : (s.updEngine g f).pace = s.pace := rfl
@[simp] theorem State.updEngine_cur (s : State) (g : Nat) (f : Engine → Engine) : (s.updEngine g f).cur = s.cur := rfl
@[simp] theorem State.updEngine_cycle (s : State) (g : Nat) (f : Engine → Engine) : (s.updEngine g f).cycle = s.cycle := rfl
@[simp] theorem State.updEngine_dieReset (s : State) (g : Nat) (f : Engine → Engine) : (s.updEngine g f).dieReset = s.dieReset := rfl
@[simp] theorem State.updEngine_fresh (s : State) (g : Nat) (f : Engine → Engine) : (s.updEngine g f).fresh = s.fresh := rfl
@[simp] theorem State.updEngine_mem (s : State) (g : Nat) (f : Engine → Engine) : (s.updEngine g f).mem = s.mem := rfl
@[simp] theorem State.updEngine_threads (s : State) (g : Nat) (f : Engine → Engine) : (s.updEngine g f).threads = s.threads := rfl
@[simp] theorem State.updEngine_cores (s : State) (g : Nat) (f : Engine → Engine) : (s.updEngine g f).cores = s.cores := rfl
@[simp] theorem State.updEngine_clusters (s : State) (g : Nat) (f : Engine → Engine) : (s.updEngine g f).clusters = s.clusters := rfl
@[simp] theorem State.updEngine_fifo (s : State) (g : Nat) (f : Engine → Engine) : (s.updEngine g f).fifo = s.fifo := rfl
@[simp] theorem State.updEngine_rq (s : State) (g : Nat) (f : Engine → Engine) : (s.updEngine g f).rq = s.rq := rfl
@[simp] theorem State.updEngine_dirs (s : State) (g : Nat) (f : Engine → Engine) : (s.updEngine g f).dirs = s.dirs := rfl
@[simp] theorem State.updEngine_slices (s : State) (g : Nat) (f : Engine → Engine) : (s.updEngine g f).slices = s.slices := rfl
@[simp] theorem State.updEngine_etcs (s : State) (g : Nat) (f : Engine → Engine) : (s.updEngine g f).etcs = s.etcs := rfl
@[simp] theorem State.updEngine_nextCmd (s : State) (g : Nat) (f : Engine → Engine) : (s.updEngine g f).nextCmd = s.nextCmd := rfl
@[simp] theorem State.updEngine_changed (s : State) (g : Nat) (f : Engine → Engine) : (s.updEngine g f).changed = s.changed := rfl
@[simp] theorem State.updEngine_hostBias (s : State) (g : Nat) (f : Engine → Engine) : (s.updEngine g f).hostBias = s.hostBias := rfl
@[simp] theorem State.updEngine_flips (s : State) (g : Nat) (f : Engine → Engine) : (s.updEngine g f).flips = s.flips := rfl
@[simp] theorem State.updEngine_launches (s : State) (g : Nat) (f : Engine → Engine) : (s.updEngine g f).launches = s.launches := rfl
@[simp] theorem State.updEngine_nextLaunch (s : State) (g : Nat) (f : Engine → Engine) : (s.updEngine g f).nextLaunch = s.nextLaunch := rfl
@[simp] theorem State.updEngine_funcs (s : State) (g : Nat) (f : Engine → Engine) : (s.updEngine g f).funcs = s.funcs := rfl
@[simp] theorem State.updEngine_cps (s : State) (g : Nat) (f : Engine → Engine) : (s.updEngine g f).cps = s.cps := rfl
@[simp] theorem State.updEngine_preempts (s : State) (g : Nat) (f : Engine → Engine) : (s.updEngine g f).preempts = s.preempts := rfl
@[simp] theorem State.updEngine_saved (s : State) (g : Nat) (f : Engine → Engine) : (s.updEngine g f).saved = s.saved := rfl
@[simp] theorem State.updEngine_debugger (s : State) (g : Nat) (f : Engine → Engine) : (s.updEngine g f).debugger = s.debugger := rfl
@[simp] theorem State.updEngine_breakpoints (s : State) (g : Nat) (f : Engine → Engine) : (s.updEngine g f).breakpoints = s.breakpoints := rfl
@[simp] theorem State.updEngine_service (s : State) (g : Nat) (f : Engine → Engine) : (s.updEngine g f).service = s.service := rfl
@[simp] theorem State.updEngine_host (s : State) (g : Nat) (f : Engine → Engine) : (s.updEngine g f).host = s.host := rfl
@[simp] theorem State.updEngine_hostWrites (s : State) (g : Nat) (f : Engine → Engine) : (s.updEngine g f).hostWrites = s.hostWrites := rfl
@[simp] theorem State.updEngine_ioLast (s : State) (g : Nat) (f : Engine → Engine) : (s.updEngine g f).ioLast = s.ioLast := rfl
@[simp] theorem State.updEngine_maps (s : State) (g : Nat) (f : Engine → Engine) : (s.updEngine g f).maps = s.maps := rfl
@[simp] theorem State.updEngine_picks (s : State) (g : Nat) (f : Engine → Engine) : (s.updEngine g f).picks = s.picks := rfl
@[simp] theorem State.updEngine_badLines (s : State) (g : Nat) (f : Engine → Engine) : (s.updEngine g f).badLines = s.badLines := rfl
@[simp] theorem State.updEngine_lostLines (s : State) (g : Nat) (f : Engine → Engine) : (s.updEngine g f).lostLines = s.lostLines := rfl
@[simp] theorem State.updEngine_taken (s : State) (g : Nat) (f : Engine → Engine) : (s.updEngine g f).taken = s.taken := rfl
@[simp] theorem State.updEngine_pushed (s : State) (g : Nat) (f : Engine → Engine) : (s.updEngine g f).pushed = s.pushed := rfl
@[simp] theorem State.updEngine_later (s : State) (g : Nat) (f : Engine → Engine) : (s.updEngine g f).later = s.later := rfl
@[simp] theorem State.updEngine_closed (s : State) (g : Nat) (f : Engine → Engine) : (s.updEngine g f).closed = s.closed := rfl
@[simp] theorem State.updEngine_ioq (s : State) (g : Nat) (f : Engine → Engine) : (s.updEngine g f).ioq = s.ioq := rfl

/-! ## updFunc -/

@[simp] theorem State.updFunc_agenda (s : State) (n : Nat) (f : Func → Func) : (s.updFunc n f).agenda = s.agenda := rfl
@[simp] theorem State.updFunc_pace (s : State) (n : Nat) (f : Func → Func) : (s.updFunc n f).pace = s.pace := rfl
@[simp] theorem State.updFunc_cur (s : State) (n : Nat) (f : Func → Func) : (s.updFunc n f).cur = s.cur := rfl
@[simp] theorem State.updFunc_cycle (s : State) (n : Nat) (f : Func → Func) : (s.updFunc n f).cycle = s.cycle := rfl
@[simp] theorem State.updFunc_dieReset (s : State) (n : Nat) (f : Func → Func) : (s.updFunc n f).dieReset = s.dieReset := rfl
@[simp] theorem State.updFunc_fresh (s : State) (n : Nat) (f : Func → Func) : (s.updFunc n f).fresh = s.fresh := rfl
@[simp] theorem State.updFunc_mem (s : State) (n : Nat) (f : Func → Func) : (s.updFunc n f).mem = s.mem := rfl
@[simp] theorem State.updFunc_threads (s : State) (n : Nat) (f : Func → Func) : (s.updFunc n f).threads = s.threads := rfl
@[simp] theorem State.updFunc_cores (s : State) (n : Nat) (f : Func → Func) : (s.updFunc n f).cores = s.cores := rfl
@[simp] theorem State.updFunc_clusters (s : State) (n : Nat) (f : Func → Func) : (s.updFunc n f).clusters = s.clusters := rfl
@[simp] theorem State.updFunc_fifo (s : State) (n : Nat) (f : Func → Func) : (s.updFunc n f).fifo = s.fifo := rfl
@[simp] theorem State.updFunc_rq (s : State) (n : Nat) (f : Func → Func) : (s.updFunc n f).rq = s.rq := rfl
@[simp] theorem State.updFunc_dirs (s : State) (n : Nat) (f : Func → Func) : (s.updFunc n f).dirs = s.dirs := rfl
@[simp] theorem State.updFunc_slices (s : State) (n : Nat) (f : Func → Func) : (s.updFunc n f).slices = s.slices := rfl
@[simp] theorem State.updFunc_etcs (s : State) (n : Nat) (f : Func → Func) : (s.updFunc n f).etcs = s.etcs := rfl
@[simp] theorem State.updFunc_engines (s : State) (n : Nat) (f : Func → Func) : (s.updFunc n f).engines = s.engines := rfl
@[simp] theorem State.updFunc_nextCmd (s : State) (n : Nat) (f : Func → Func) : (s.updFunc n f).nextCmd = s.nextCmd := rfl
@[simp] theorem State.updFunc_changed (s : State) (n : Nat) (f : Func → Func) : (s.updFunc n f).changed = s.changed := rfl
@[simp] theorem State.updFunc_hostBias (s : State) (n : Nat) (f : Func → Func) : (s.updFunc n f).hostBias = s.hostBias := rfl
@[simp] theorem State.updFunc_flips (s : State) (n : Nat) (f : Func → Func) : (s.updFunc n f).flips = s.flips := rfl
@[simp] theorem State.updFunc_launches (s : State) (n : Nat) (f : Func → Func) : (s.updFunc n f).launches = s.launches := rfl
@[simp] theorem State.updFunc_nextLaunch (s : State) (n : Nat) (f : Func → Func) : (s.updFunc n f).nextLaunch = s.nextLaunch := rfl
@[simp] theorem State.updFunc_cps (s : State) (n : Nat) (f : Func → Func) : (s.updFunc n f).cps = s.cps := rfl
@[simp] theorem State.updFunc_preempts (s : State) (n : Nat) (f : Func → Func) : (s.updFunc n f).preempts = s.preempts := rfl
@[simp] theorem State.updFunc_saved (s : State) (n : Nat) (f : Func → Func) : (s.updFunc n f).saved = s.saved := rfl
@[simp] theorem State.updFunc_debugger (s : State) (n : Nat) (f : Func → Func) : (s.updFunc n f).debugger = s.debugger := rfl
@[simp] theorem State.updFunc_breakpoints (s : State) (n : Nat) (f : Func → Func) : (s.updFunc n f).breakpoints = s.breakpoints := rfl
@[simp] theorem State.updFunc_service (s : State) (n : Nat) (f : Func → Func) : (s.updFunc n f).service = s.service := rfl
@[simp] theorem State.updFunc_host (s : State) (n : Nat) (f : Func → Func) : (s.updFunc n f).host = s.host := rfl
@[simp] theorem State.updFunc_hostWrites (s : State) (n : Nat) (f : Func → Func) : (s.updFunc n f).hostWrites = s.hostWrites := rfl
@[simp] theorem State.updFunc_ioLast (s : State) (n : Nat) (f : Func → Func) : (s.updFunc n f).ioLast = s.ioLast := rfl
@[simp] theorem State.updFunc_maps (s : State) (n : Nat) (f : Func → Func) : (s.updFunc n f).maps = s.maps := rfl
@[simp] theorem State.updFunc_picks (s : State) (n : Nat) (f : Func → Func) : (s.updFunc n f).picks = s.picks := rfl
@[simp] theorem State.updFunc_badLines (s : State) (n : Nat) (f : Func → Func) : (s.updFunc n f).badLines = s.badLines := rfl
@[simp] theorem State.updFunc_lostLines (s : State) (n : Nat) (f : Func → Func) : (s.updFunc n f).lostLines = s.lostLines := rfl
@[simp] theorem State.updFunc_taken (s : State) (n : Nat) (f : Func → Func) : (s.updFunc n f).taken = s.taken := rfl
@[simp] theorem State.updFunc_pushed (s : State) (n : Nat) (f : Func → Func) : (s.updFunc n f).pushed = s.pushed := rfl
@[simp] theorem State.updFunc_later (s : State) (n : Nat) (f : Func → Func) : (s.updFunc n f).later = s.later := rfl
@[simp] theorem State.updFunc_closed (s : State) (n : Nat) (f : Func → Func) : (s.updFunc n f).closed = s.closed := rfl
@[simp] theorem State.updFunc_ioq (s : State) (n : Nat) (f : Func → Func) : (s.updFunc n f).ioq = s.ioq := rfl

/-! ## updCp -/

@[simp] theorem State.updCp_agenda (s : State) (p : Nat) (f : Cp → Cp) : (s.updCp p f).agenda = s.agenda := rfl
@[simp] theorem State.updCp_pace (s : State) (p : Nat) (f : Cp → Cp) : (s.updCp p f).pace = s.pace := rfl
@[simp] theorem State.updCp_cur (s : State) (p : Nat) (f : Cp → Cp) : (s.updCp p f).cur = s.cur := rfl
@[simp] theorem State.updCp_cycle (s : State) (p : Nat) (f : Cp → Cp) : (s.updCp p f).cycle = s.cycle := rfl
@[simp] theorem State.updCp_dieReset (s : State) (p : Nat) (f : Cp → Cp) : (s.updCp p f).dieReset = s.dieReset := rfl
@[simp] theorem State.updCp_fresh (s : State) (p : Nat) (f : Cp → Cp) : (s.updCp p f).fresh = s.fresh := rfl
@[simp] theorem State.updCp_mem (s : State) (p : Nat) (f : Cp → Cp) : (s.updCp p f).mem = s.mem := rfl
@[simp] theorem State.updCp_threads (s : State) (p : Nat) (f : Cp → Cp) : (s.updCp p f).threads = s.threads := rfl
@[simp] theorem State.updCp_cores (s : State) (p : Nat) (f : Cp → Cp) : (s.updCp p f).cores = s.cores := rfl
@[simp] theorem State.updCp_clusters (s : State) (p : Nat) (f : Cp → Cp) : (s.updCp p f).clusters = s.clusters := rfl
@[simp] theorem State.updCp_fifo (s : State) (p : Nat) (f : Cp → Cp) : (s.updCp p f).fifo = s.fifo := rfl
@[simp] theorem State.updCp_rq (s : State) (p : Nat) (f : Cp → Cp) : (s.updCp p f).rq = s.rq := rfl
@[simp] theorem State.updCp_dirs (s : State) (p : Nat) (f : Cp → Cp) : (s.updCp p f).dirs = s.dirs := rfl
@[simp] theorem State.updCp_slices (s : State) (p : Nat) (f : Cp → Cp) : (s.updCp p f).slices = s.slices := rfl
@[simp] theorem State.updCp_etcs (s : State) (p : Nat) (f : Cp → Cp) : (s.updCp p f).etcs = s.etcs := rfl
@[simp] theorem State.updCp_engines (s : State) (p : Nat) (f : Cp → Cp) : (s.updCp p f).engines = s.engines := rfl
@[simp] theorem State.updCp_nextCmd (s : State) (p : Nat) (f : Cp → Cp) : (s.updCp p f).nextCmd = s.nextCmd := rfl
@[simp] theorem State.updCp_changed (s : State) (p : Nat) (f : Cp → Cp) : (s.updCp p f).changed = s.changed := rfl
@[simp] theorem State.updCp_hostBias (s : State) (p : Nat) (f : Cp → Cp) : (s.updCp p f).hostBias = s.hostBias := rfl
@[simp] theorem State.updCp_flips (s : State) (p : Nat) (f : Cp → Cp) : (s.updCp p f).flips = s.flips := rfl
@[simp] theorem State.updCp_launches (s : State) (p : Nat) (f : Cp → Cp) : (s.updCp p f).launches = s.launches := rfl
@[simp] theorem State.updCp_nextLaunch (s : State) (p : Nat) (f : Cp → Cp) : (s.updCp p f).nextLaunch = s.nextLaunch := rfl
@[simp] theorem State.updCp_funcs (s : State) (p : Nat) (f : Cp → Cp) : (s.updCp p f).funcs = s.funcs := rfl
@[simp] theorem State.updCp_preempts (s : State) (p : Nat) (f : Cp → Cp) : (s.updCp p f).preempts = s.preempts := rfl
@[simp] theorem State.updCp_saved (s : State) (p : Nat) (f : Cp → Cp) : (s.updCp p f).saved = s.saved := rfl
@[simp] theorem State.updCp_debugger (s : State) (p : Nat) (f : Cp → Cp) : (s.updCp p f).debugger = s.debugger := rfl
@[simp] theorem State.updCp_breakpoints (s : State) (p : Nat) (f : Cp → Cp) : (s.updCp p f).breakpoints = s.breakpoints := rfl
@[simp] theorem State.updCp_service (s : State) (p : Nat) (f : Cp → Cp) : (s.updCp p f).service = s.service := rfl
@[simp] theorem State.updCp_host (s : State) (p : Nat) (f : Cp → Cp) : (s.updCp p f).host = s.host := rfl
@[simp] theorem State.updCp_hostWrites (s : State) (p : Nat) (f : Cp → Cp) : (s.updCp p f).hostWrites = s.hostWrites := rfl
@[simp] theorem State.updCp_ioLast (s : State) (p : Nat) (f : Cp → Cp) : (s.updCp p f).ioLast = s.ioLast := rfl
@[simp] theorem State.updCp_maps (s : State) (p : Nat) (f : Cp → Cp) : (s.updCp p f).maps = s.maps := rfl
@[simp] theorem State.updCp_picks (s : State) (p : Nat) (f : Cp → Cp) : (s.updCp p f).picks = s.picks := rfl
@[simp] theorem State.updCp_badLines (s : State) (p : Nat) (f : Cp → Cp) : (s.updCp p f).badLines = s.badLines := rfl
@[simp] theorem State.updCp_lostLines (s : State) (p : Nat) (f : Cp → Cp) : (s.updCp p f).lostLines = s.lostLines := rfl
@[simp] theorem State.updCp_taken (s : State) (p : Nat) (f : Cp → Cp) : (s.updCp p f).taken = s.taken := rfl
@[simp] theorem State.updCp_pushed (s : State) (p : Nat) (f : Cp → Cp) : (s.updCp p f).pushed = s.pushed := rfl
@[simp] theorem State.updCp_later (s : State) (p : Nat) (f : Cp → Cp) : (s.updCp p f).later = s.later := rfl
@[simp] theorem State.updCp_closed (s : State) (p : Nat) (f : Cp → Cp) : (s.updCp p f).closed = s.closed := rfl
@[simp] theorem State.updCp_ioq (s : State) (p : Nat) (f : Cp → Cp) : (s.updCp p f).ioq = s.ioq := rfl

/-! ## updDir -/

@[simp] theorem State.updDir_agenda (s : State) (l : Nat) (f : Dir → Dir) : (s.updDir l f).agenda = s.agenda := rfl
@[simp] theorem State.updDir_pace (s : State) (l : Nat) (f : Dir → Dir) : (s.updDir l f).pace = s.pace := rfl
@[simp] theorem State.updDir_cur (s : State) (l : Nat) (f : Dir → Dir) : (s.updDir l f).cur = s.cur := rfl
@[simp] theorem State.updDir_cycle (s : State) (l : Nat) (f : Dir → Dir) : (s.updDir l f).cycle = s.cycle := rfl
@[simp] theorem State.updDir_dieReset (s : State) (l : Nat) (f : Dir → Dir) : (s.updDir l f).dieReset = s.dieReset := rfl
@[simp] theorem State.updDir_fresh (s : State) (l : Nat) (f : Dir → Dir) : (s.updDir l f).fresh = s.fresh := rfl
@[simp] theorem State.updDir_mem (s : State) (l : Nat) (f : Dir → Dir) : (s.updDir l f).mem = s.mem := rfl
@[simp] theorem State.updDir_threads (s : State) (l : Nat) (f : Dir → Dir) : (s.updDir l f).threads = s.threads := rfl
@[simp] theorem State.updDir_cores (s : State) (l : Nat) (f : Dir → Dir) : (s.updDir l f).cores = s.cores := rfl
@[simp] theorem State.updDir_clusters (s : State) (l : Nat) (f : Dir → Dir) : (s.updDir l f).clusters = s.clusters := rfl
@[simp] theorem State.updDir_fifo (s : State) (l : Nat) (f : Dir → Dir) : (s.updDir l f).fifo = s.fifo := rfl
@[simp] theorem State.updDir_rq (s : State) (l : Nat) (f : Dir → Dir) : (s.updDir l f).rq = s.rq := rfl
@[simp] theorem State.updDir_slices (s : State) (l : Nat) (f : Dir → Dir) : (s.updDir l f).slices = s.slices := rfl
@[simp] theorem State.updDir_etcs (s : State) (l : Nat) (f : Dir → Dir) : (s.updDir l f).etcs = s.etcs := rfl
@[simp] theorem State.updDir_engines (s : State) (l : Nat) (f : Dir → Dir) : (s.updDir l f).engines = s.engines := rfl
@[simp] theorem State.updDir_nextCmd (s : State) (l : Nat) (f : Dir → Dir) : (s.updDir l f).nextCmd = s.nextCmd := rfl
@[simp] theorem State.updDir_changed (s : State) (l : Nat) (f : Dir → Dir) : (s.updDir l f).changed = s.changed := rfl
@[simp] theorem State.updDir_hostBias (s : State) (l : Nat) (f : Dir → Dir) : (s.updDir l f).hostBias = s.hostBias := rfl
@[simp] theorem State.updDir_flips (s : State) (l : Nat) (f : Dir → Dir) : (s.updDir l f).flips = s.flips := rfl
@[simp] theorem State.updDir_launches (s : State) (l : Nat) (f : Dir → Dir) : (s.updDir l f).launches = s.launches := rfl
@[simp] theorem State.updDir_nextLaunch (s : State) (l : Nat) (f : Dir → Dir) : (s.updDir l f).nextLaunch = s.nextLaunch := rfl
@[simp] theorem State.updDir_funcs (s : State) (l : Nat) (f : Dir → Dir) : (s.updDir l f).funcs = s.funcs := rfl
@[simp] theorem State.updDir_cps (s : State) (l : Nat) (f : Dir → Dir) : (s.updDir l f).cps = s.cps := rfl
@[simp] theorem State.updDir_preempts (s : State) (l : Nat) (f : Dir → Dir) : (s.updDir l f).preempts = s.preempts := rfl
@[simp] theorem State.updDir_saved (s : State) (l : Nat) (f : Dir → Dir) : (s.updDir l f).saved = s.saved := rfl
@[simp] theorem State.updDir_debugger (s : State) (l : Nat) (f : Dir → Dir) : (s.updDir l f).debugger = s.debugger := rfl
@[simp] theorem State.updDir_breakpoints (s : State) (l : Nat) (f : Dir → Dir) : (s.updDir l f).breakpoints = s.breakpoints := rfl
@[simp] theorem State.updDir_service (s : State) (l : Nat) (f : Dir → Dir) : (s.updDir l f).service = s.service := rfl
@[simp] theorem State.updDir_host (s : State) (l : Nat) (f : Dir → Dir) : (s.updDir l f).host = s.host := rfl
@[simp] theorem State.updDir_hostWrites (s : State) (l : Nat) (f : Dir → Dir) : (s.updDir l f).hostWrites = s.hostWrites := rfl
@[simp] theorem State.updDir_ioLast (s : State) (l : Nat) (f : Dir → Dir) : (s.updDir l f).ioLast = s.ioLast := rfl
@[simp] theorem State.updDir_maps (s : State) (l : Nat) (f : Dir → Dir) : (s.updDir l f).maps = s.maps := rfl
@[simp] theorem State.updDir_picks (s : State) (l : Nat) (f : Dir → Dir) : (s.updDir l f).picks = s.picks := rfl
@[simp] theorem State.updDir_badLines (s : State) (l : Nat) (f : Dir → Dir) : (s.updDir l f).badLines = s.badLines := rfl
@[simp] theorem State.updDir_lostLines (s : State) (l : Nat) (f : Dir → Dir) : (s.updDir l f).lostLines = s.lostLines := rfl
@[simp] theorem State.updDir_taken (s : State) (l : Nat) (f : Dir → Dir) : (s.updDir l f).taken = s.taken := rfl
@[simp] theorem State.updDir_pushed (s : State) (l : Nat) (f : Dir → Dir) : (s.updDir l f).pushed = s.pushed := rfl
@[simp] theorem State.updDir_later (s : State) (l : Nat) (f : Dir → Dir) : (s.updDir l f).later = s.later := rfl
@[simp] theorem State.updDir_closed (s : State) (l : Nat) (f : Dir → Dir) : (s.updDir l f).closed = s.closed := rfl
@[simp] theorem State.updDir_ioq (s : State) (l : Nat) (f : Dir → Dir) : (s.updDir l f).ioq = s.ioq := rfl

/-! ## setSlice -/

@[simp] theorem State.setSlice_agenda (s : State) (l : Nat) (x : Option SliceLine) : (s.setSlice l x).agenda = s.agenda := rfl
@[simp] theorem State.setSlice_pace (s : State) (l : Nat) (x : Option SliceLine) : (s.setSlice l x).pace = s.pace := rfl
@[simp] theorem State.setSlice_cur (s : State) (l : Nat) (x : Option SliceLine) : (s.setSlice l x).cur = s.cur := rfl
@[simp] theorem State.setSlice_cycle (s : State) (l : Nat) (x : Option SliceLine) : (s.setSlice l x).cycle = s.cycle := rfl
@[simp] theorem State.setSlice_dieReset (s : State) (l : Nat) (x : Option SliceLine) : (s.setSlice l x).dieReset = s.dieReset := rfl
@[simp] theorem State.setSlice_fresh (s : State) (l : Nat) (x : Option SliceLine) : (s.setSlice l x).fresh = s.fresh := rfl
@[simp] theorem State.setSlice_mem (s : State) (l : Nat) (x : Option SliceLine) : (s.setSlice l x).mem = s.mem := rfl
@[simp] theorem State.setSlice_threads (s : State) (l : Nat) (x : Option SliceLine) : (s.setSlice l x).threads = s.threads := rfl
@[simp] theorem State.setSlice_cores (s : State) (l : Nat) (x : Option SliceLine) : (s.setSlice l x).cores = s.cores := rfl
@[simp] theorem State.setSlice_clusters (s : State) (l : Nat) (x : Option SliceLine) : (s.setSlice l x).clusters = s.clusters := rfl
@[simp] theorem State.setSlice_fifo (s : State) (l : Nat) (x : Option SliceLine) : (s.setSlice l x).fifo = s.fifo := rfl
@[simp] theorem State.setSlice_rq (s : State) (l : Nat) (x : Option SliceLine) : (s.setSlice l x).rq = s.rq := rfl
@[simp] theorem State.setSlice_dirs (s : State) (l : Nat) (x : Option SliceLine) : (s.setSlice l x).dirs = s.dirs := rfl
@[simp] theorem State.setSlice_etcs (s : State) (l : Nat) (x : Option SliceLine) : (s.setSlice l x).etcs = s.etcs := rfl
@[simp] theorem State.setSlice_engines (s : State) (l : Nat) (x : Option SliceLine) : (s.setSlice l x).engines = s.engines := rfl
@[simp] theorem State.setSlice_nextCmd (s : State) (l : Nat) (x : Option SliceLine) : (s.setSlice l x).nextCmd = s.nextCmd := rfl
@[simp] theorem State.setSlice_changed (s : State) (l : Nat) (x : Option SliceLine) : (s.setSlice l x).changed = s.changed := rfl
@[simp] theorem State.setSlice_hostBias (s : State) (l : Nat) (x : Option SliceLine) : (s.setSlice l x).hostBias = s.hostBias := rfl
@[simp] theorem State.setSlice_flips (s : State) (l : Nat) (x : Option SliceLine) : (s.setSlice l x).flips = s.flips := rfl
@[simp] theorem State.setSlice_launches (s : State) (l : Nat) (x : Option SliceLine) : (s.setSlice l x).launches = s.launches := rfl
@[simp] theorem State.setSlice_nextLaunch (s : State) (l : Nat) (x : Option SliceLine) : (s.setSlice l x).nextLaunch = s.nextLaunch := rfl
@[simp] theorem State.setSlice_funcs (s : State) (l : Nat) (x : Option SliceLine) : (s.setSlice l x).funcs = s.funcs := rfl
@[simp] theorem State.setSlice_cps (s : State) (l : Nat) (x : Option SliceLine) : (s.setSlice l x).cps = s.cps := rfl
@[simp] theorem State.setSlice_preempts (s : State) (l : Nat) (x : Option SliceLine) : (s.setSlice l x).preempts = s.preempts := rfl
@[simp] theorem State.setSlice_saved (s : State) (l : Nat) (x : Option SliceLine) : (s.setSlice l x).saved = s.saved := rfl
@[simp] theorem State.setSlice_debugger (s : State) (l : Nat) (x : Option SliceLine) : (s.setSlice l x).debugger = s.debugger := rfl
@[simp] theorem State.setSlice_breakpoints (s : State) (l : Nat) (x : Option SliceLine) : (s.setSlice l x).breakpoints = s.breakpoints := rfl
@[simp] theorem State.setSlice_service (s : State) (l : Nat) (x : Option SliceLine) : (s.setSlice l x).service = s.service := rfl
@[simp] theorem State.setSlice_host (s : State) (l : Nat) (x : Option SliceLine) : (s.setSlice l x).host = s.host := rfl
@[simp] theorem State.setSlice_hostWrites (s : State) (l : Nat) (x : Option SliceLine) : (s.setSlice l x).hostWrites = s.hostWrites := rfl
@[simp] theorem State.setSlice_ioLast (s : State) (l : Nat) (x : Option SliceLine) : (s.setSlice l x).ioLast = s.ioLast := rfl
@[simp] theorem State.setSlice_maps (s : State) (l : Nat) (x : Option SliceLine) : (s.setSlice l x).maps = s.maps := rfl
@[simp] theorem State.setSlice_picks (s : State) (l : Nat) (x : Option SliceLine) : (s.setSlice l x).picks = s.picks := rfl
@[simp] theorem State.setSlice_badLines (s : State) (l : Nat) (x : Option SliceLine) : (s.setSlice l x).badLines = s.badLines := rfl
@[simp] theorem State.setSlice_lostLines (s : State) (l : Nat) (x : Option SliceLine) : (s.setSlice l x).lostLines = s.lostLines := rfl
@[simp] theorem State.setSlice_taken (s : State) (l : Nat) (x : Option SliceLine) : (s.setSlice l x).taken = s.taken := rfl
@[simp] theorem State.setSlice_pushed (s : State) (l : Nat) (x : Option SliceLine) : (s.setSlice l x).pushed = s.pushed := rfl
@[simp] theorem State.setSlice_later (s : State) (l : Nat) (x : Option SliceLine) : (s.setSlice l x).later = s.later := rfl
@[simp] theorem State.setSlice_closed (s : State) (l : Nat) (x : Option SliceLine) : (s.setSlice l x).closed = s.closed := rfl
@[simp] theorem State.setSlice_ioq (s : State) (l : Nat) (x : Option SliceLine) : (s.setSlice l x).ioq = s.ioq := rfl

/-! ## updLaunch -/

@[simp] theorem State.updLaunch_agenda (s : State) (n : Nat) (f : Launch → Launch) : (s.updLaunch n f).agenda = s.agenda := rfl
@[simp] theorem State.updLaunch_pace (s : State) (n : Nat) (f : Launch → Launch) : (s.updLaunch n f).pace = s.pace := rfl
@[simp] theorem State.updLaunch_cur (s : State) (n : Nat) (f : Launch → Launch) : (s.updLaunch n f).cur = s.cur := rfl
@[simp] theorem State.updLaunch_cycle (s : State) (n : Nat) (f : Launch → Launch) : (s.updLaunch n f).cycle = s.cycle := rfl
@[simp] theorem State.updLaunch_dieReset (s : State) (n : Nat) (f : Launch → Launch) : (s.updLaunch n f).dieReset = s.dieReset := rfl
@[simp] theorem State.updLaunch_fresh (s : State) (n : Nat) (f : Launch → Launch) : (s.updLaunch n f).fresh = s.fresh := rfl
@[simp] theorem State.updLaunch_mem (s : State) (n : Nat) (f : Launch → Launch) : (s.updLaunch n f).mem = s.mem := rfl
@[simp] theorem State.updLaunch_threads (s : State) (n : Nat) (f : Launch → Launch) : (s.updLaunch n f).threads = s.threads := rfl
@[simp] theorem State.updLaunch_cores (s : State) (n : Nat) (f : Launch → Launch) : (s.updLaunch n f).cores = s.cores := rfl
@[simp] theorem State.updLaunch_clusters (s : State) (n : Nat) (f : Launch → Launch) : (s.updLaunch n f).clusters = s.clusters := rfl
@[simp] theorem State.updLaunch_fifo (s : State) (n : Nat) (f : Launch → Launch) : (s.updLaunch n f).fifo = s.fifo := rfl
@[simp] theorem State.updLaunch_rq (s : State) (n : Nat) (f : Launch → Launch) : (s.updLaunch n f).rq = s.rq := rfl
@[simp] theorem State.updLaunch_dirs (s : State) (n : Nat) (f : Launch → Launch) : (s.updLaunch n f).dirs = s.dirs := rfl
@[simp] theorem State.updLaunch_slices (s : State) (n : Nat) (f : Launch → Launch) : (s.updLaunch n f).slices = s.slices := rfl
@[simp] theorem State.updLaunch_etcs (s : State) (n : Nat) (f : Launch → Launch) : (s.updLaunch n f).etcs = s.etcs := rfl
@[simp] theorem State.updLaunch_engines (s : State) (n : Nat) (f : Launch → Launch) : (s.updLaunch n f).engines = s.engines := rfl
@[simp] theorem State.updLaunch_nextCmd (s : State) (n : Nat) (f : Launch → Launch) : (s.updLaunch n f).nextCmd = s.nextCmd := rfl
@[simp] theorem State.updLaunch_changed (s : State) (n : Nat) (f : Launch → Launch) : (s.updLaunch n f).changed = s.changed := rfl
@[simp] theorem State.updLaunch_hostBias (s : State) (n : Nat) (f : Launch → Launch) : (s.updLaunch n f).hostBias = s.hostBias := rfl
@[simp] theorem State.updLaunch_flips (s : State) (n : Nat) (f : Launch → Launch) : (s.updLaunch n f).flips = s.flips := rfl
@[simp] theorem State.updLaunch_nextLaunch (s : State) (n : Nat) (f : Launch → Launch) : (s.updLaunch n f).nextLaunch = s.nextLaunch := rfl
@[simp] theorem State.updLaunch_funcs (s : State) (n : Nat) (f : Launch → Launch) : (s.updLaunch n f).funcs = s.funcs := rfl
@[simp] theorem State.updLaunch_cps (s : State) (n : Nat) (f : Launch → Launch) : (s.updLaunch n f).cps = s.cps := rfl
@[simp] theorem State.updLaunch_preempts (s : State) (n : Nat) (f : Launch → Launch) : (s.updLaunch n f).preempts = s.preempts := rfl
@[simp] theorem State.updLaunch_saved (s : State) (n : Nat) (f : Launch → Launch) : (s.updLaunch n f).saved = s.saved := rfl
@[simp] theorem State.updLaunch_debugger (s : State) (n : Nat) (f : Launch → Launch) : (s.updLaunch n f).debugger = s.debugger := rfl
@[simp] theorem State.updLaunch_breakpoints (s : State) (n : Nat) (f : Launch → Launch) : (s.updLaunch n f).breakpoints = s.breakpoints := rfl
@[simp] theorem State.updLaunch_service (s : State) (n : Nat) (f : Launch → Launch) : (s.updLaunch n f).service = s.service := rfl
@[simp] theorem State.updLaunch_host (s : State) (n : Nat) (f : Launch → Launch) : (s.updLaunch n f).host = s.host := rfl
@[simp] theorem State.updLaunch_hostWrites (s : State) (n : Nat) (f : Launch → Launch) : (s.updLaunch n f).hostWrites = s.hostWrites := rfl
@[simp] theorem State.updLaunch_ioLast (s : State) (n : Nat) (f : Launch → Launch) : (s.updLaunch n f).ioLast = s.ioLast := rfl
@[simp] theorem State.updLaunch_maps (s : State) (n : Nat) (f : Launch → Launch) : (s.updLaunch n f).maps = s.maps := rfl
@[simp] theorem State.updLaunch_picks (s : State) (n : Nat) (f : Launch → Launch) : (s.updLaunch n f).picks = s.picks := rfl
@[simp] theorem State.updLaunch_badLines (s : State) (n : Nat) (f : Launch → Launch) : (s.updLaunch n f).badLines = s.badLines := rfl
@[simp] theorem State.updLaunch_lostLines (s : State) (n : Nat) (f : Launch → Launch) : (s.updLaunch n f).lostLines = s.lostLines := rfl
@[simp] theorem State.updLaunch_taken (s : State) (n : Nat) (f : Launch → Launch) : (s.updLaunch n f).taken = s.taken := rfl
@[simp] theorem State.updLaunch_pushed (s : State) (n : Nat) (f : Launch → Launch) : (s.updLaunch n f).pushed = s.pushed := rfl
@[simp] theorem State.updLaunch_later (s : State) (n : Nat) (f : Launch → Launch) : (s.updLaunch n f).later = s.later := rfl
@[simp] theorem State.updLaunch_closed (s : State) (n : Nat) (f : Launch → Launch) : (s.updLaunch n f).closed = s.closed := rfl
@[simp] theorem State.updLaunch_ioq (s : State) (n : Nat) (f : Launch → Launch) : (s.updLaunch n f).ioq = s.ioq := rfl

/-! ## setByte -/

@[simp] theorem State.setByte_agenda (s : State) (l : Nat) (b : Byte) : (s.setByte l b).agenda = s.agenda := rfl
@[simp] theorem State.setByte_pace (s : State) (l : Nat) (b : Byte) : (s.setByte l b).pace = s.pace := rfl
@[simp] theorem State.setByte_cur (s : State) (l : Nat) (b : Byte) : (s.setByte l b).cur = s.cur := rfl
@[simp] theorem State.setByte_cycle (s : State) (l : Nat) (b : Byte) : (s.setByte l b).cycle = s.cycle := rfl
@[simp] theorem State.setByte_dieReset (s : State) (l : Nat) (b : Byte) : (s.setByte l b).dieReset = s.dieReset := rfl
@[simp] theorem State.setByte_fresh (s : State) (l : Nat) (b : Byte) : (s.setByte l b).fresh = s.fresh := rfl
@[simp] theorem State.setByte_threads (s : State) (l : Nat) (b : Byte) : (s.setByte l b).threads = s.threads := rfl
@[simp] theorem State.setByte_cores (s : State) (l : Nat) (b : Byte) : (s.setByte l b).cores = s.cores := rfl
@[simp] theorem State.setByte_clusters (s : State) (l : Nat) (b : Byte) : (s.setByte l b).clusters = s.clusters := rfl
@[simp] theorem State.setByte_fifo (s : State) (l : Nat) (b : Byte) : (s.setByte l b).fifo = s.fifo := rfl
@[simp] theorem State.setByte_rq (s : State) (l : Nat) (b : Byte) : (s.setByte l b).rq = s.rq := rfl
@[simp] theorem State.setByte_dirs (s : State) (l : Nat) (b : Byte) : (s.setByte l b).dirs = s.dirs := rfl
@[simp] theorem State.setByte_slices (s : State) (l : Nat) (b : Byte) : (s.setByte l b).slices = s.slices := rfl
@[simp] theorem State.setByte_etcs (s : State) (l : Nat) (b : Byte) : (s.setByte l b).etcs = s.etcs := rfl
@[simp] theorem State.setByte_engines (s : State) (l : Nat) (b : Byte) : (s.setByte l b).engines = s.engines := rfl
@[simp] theorem State.setByte_nextCmd (s : State) (l : Nat) (b : Byte) : (s.setByte l b).nextCmd = s.nextCmd := rfl
@[simp] theorem State.setByte_hostBias (s : State) (l : Nat) (b : Byte) : (s.setByte l b).hostBias = s.hostBias := rfl
@[simp] theorem State.setByte_flips (s : State) (l : Nat) (b : Byte) : (s.setByte l b).flips = s.flips := rfl
@[simp] theorem State.setByte_launches (s : State) (l : Nat) (b : Byte) : (s.setByte l b).launches = s.launches := rfl
@[simp] theorem State.setByte_nextLaunch (s : State) (l : Nat) (b : Byte) : (s.setByte l b).nextLaunch = s.nextLaunch := rfl
@[simp] theorem State.setByte_funcs (s : State) (l : Nat) (b : Byte) : (s.setByte l b).funcs = s.funcs := rfl
@[simp] theorem State.setByte_cps (s : State) (l : Nat) (b : Byte) : (s.setByte l b).cps = s.cps := rfl
@[simp] theorem State.setByte_preempts (s : State) (l : Nat) (b : Byte) : (s.setByte l b).preempts = s.preempts := rfl
@[simp] theorem State.setByte_saved (s : State) (l : Nat) (b : Byte) : (s.setByte l b).saved = s.saved := rfl
@[simp] theorem State.setByte_debugger (s : State) (l : Nat) (b : Byte) : (s.setByte l b).debugger = s.debugger := rfl
@[simp] theorem State.setByte_breakpoints (s : State) (l : Nat) (b : Byte) : (s.setByte l b).breakpoints = s.breakpoints := rfl
@[simp] theorem State.setByte_service (s : State) (l : Nat) (b : Byte) : (s.setByte l b).service = s.service := rfl
@[simp] theorem State.setByte_host (s : State) (l : Nat) (b : Byte) : (s.setByte l b).host = s.host := rfl
@[simp] theorem State.setByte_hostWrites (s : State) (l : Nat) (b : Byte) : (s.setByte l b).hostWrites = s.hostWrites := rfl
@[simp] theorem State.setByte_ioLast (s : State) (l : Nat) (b : Byte) : (s.setByte l b).ioLast = s.ioLast := rfl
@[simp] theorem State.setByte_maps (s : State) (l : Nat) (b : Byte) : (s.setByte l b).maps = s.maps := rfl
@[simp] theorem State.setByte_picks (s : State) (l : Nat) (b : Byte) : (s.setByte l b).picks = s.picks := rfl
@[simp] theorem State.setByte_badLines (s : State) (l : Nat) (b : Byte) : (s.setByte l b).badLines = s.badLines := rfl
@[simp] theorem State.setByte_lostLines (s : State) (l : Nat) (b : Byte) : (s.setByte l b).lostLines = s.lostLines := rfl
@[simp] theorem State.setByte_taken (s : State) (l : Nat) (b : Byte) : (s.setByte l b).taken = s.taken := rfl
@[simp] theorem State.setByte_pushed (s : State) (l : Nat) (b : Byte) : (s.setByte l b).pushed = s.pushed := rfl
@[simp] theorem State.setByte_later (s : State) (l : Nat) (b : Byte) : (s.setByte l b).later = s.later := rfl
@[simp] theorem State.setByte_closed (s : State) (l : Nat) (b : Byte) : (s.setByte l b).closed = s.closed := rfl
@[simp] theorem State.setByte_ioq (s : State) (l : Nat) (b : Byte) : (s.setByte l b).ioq = s.ioq := rfl

/-! ## write -/

@[simp] theorem State.write_agenda (s : State) (l n v : Nat) : (s.write l n v).agenda = s.agenda := rfl
@[simp] theorem State.write_pace (s : State) (l n v : Nat) : (s.write l n v).pace = s.pace := rfl
@[simp] theorem State.write_cur (s : State) (l n v : Nat) : (s.write l n v).cur = s.cur := rfl
@[simp] theorem State.write_cycle (s : State) (l n v : Nat) : (s.write l n v).cycle = s.cycle := rfl
@[simp] theorem State.write_dieReset (s : State) (l n v : Nat) : (s.write l n v).dieReset = s.dieReset := rfl
@[simp] theorem State.write_fresh (s : State) (l n v : Nat) : (s.write l n v).fresh = s.fresh := rfl
@[simp] theorem State.write_threads (s : State) (l n v : Nat) : (s.write l n v).threads = s.threads := rfl
@[simp] theorem State.write_cores (s : State) (l n v : Nat) : (s.write l n v).cores = s.cores := rfl
@[simp] theorem State.write_clusters (s : State) (l n v : Nat) : (s.write l n v).clusters = s.clusters := rfl
@[simp] theorem State.write_fifo (s : State) (l n v : Nat) : (s.write l n v).fifo = s.fifo := rfl
@[simp] theorem State.write_rq (s : State) (l n v : Nat) : (s.write l n v).rq = s.rq := rfl
@[simp] theorem State.write_dirs (s : State) (l n v : Nat) : (s.write l n v).dirs = s.dirs := rfl
@[simp] theorem State.write_slices (s : State) (l n v : Nat) : (s.write l n v).slices = s.slices := rfl
@[simp] theorem State.write_etcs (s : State) (l n v : Nat) : (s.write l n v).etcs = s.etcs := rfl
@[simp] theorem State.write_engines (s : State) (l n v : Nat) : (s.write l n v).engines = s.engines := rfl
@[simp] theorem State.write_nextCmd (s : State) (l n v : Nat) : (s.write l n v).nextCmd = s.nextCmd := rfl
@[simp] theorem State.write_hostBias (s : State) (l n v : Nat) : (s.write l n v).hostBias = s.hostBias := rfl
@[simp] theorem State.write_flips (s : State) (l n v : Nat) : (s.write l n v).flips = s.flips := rfl
@[simp] theorem State.write_launches (s : State) (l n v : Nat) : (s.write l n v).launches = s.launches := rfl
@[simp] theorem State.write_nextLaunch (s : State) (l n v : Nat) : (s.write l n v).nextLaunch = s.nextLaunch := rfl
@[simp] theorem State.write_funcs (s : State) (l n v : Nat) : (s.write l n v).funcs = s.funcs := rfl
@[simp] theorem State.write_cps (s : State) (l n v : Nat) : (s.write l n v).cps = s.cps := rfl
@[simp] theorem State.write_preempts (s : State) (l n v : Nat) : (s.write l n v).preempts = s.preempts := rfl
@[simp] theorem State.write_saved (s : State) (l n v : Nat) : (s.write l n v).saved = s.saved := rfl
@[simp] theorem State.write_debugger (s : State) (l n v : Nat) : (s.write l n v).debugger = s.debugger := rfl
@[simp] theorem State.write_breakpoints (s : State) (l n v : Nat) : (s.write l n v).breakpoints = s.breakpoints := rfl
@[simp] theorem State.write_service (s : State) (l n v : Nat) : (s.write l n v).service = s.service := rfl
@[simp] theorem State.write_host (s : State) (l n v : Nat) : (s.write l n v).host = s.host := rfl
@[simp] theorem State.write_hostWrites (s : State) (l n v : Nat) : (s.write l n v).hostWrites = s.hostWrites := rfl
@[simp] theorem State.write_ioLast (s : State) (l n v : Nat) : (s.write l n v).ioLast = s.ioLast := rfl
@[simp] theorem State.write_maps (s : State) (l n v : Nat) : (s.write l n v).maps = s.maps := rfl
@[simp] theorem State.write_picks (s : State) (l n v : Nat) : (s.write l n v).picks = s.picks := rfl
@[simp] theorem State.write_badLines (s : State) (l n v : Nat) : (s.write l n v).badLines = s.badLines := rfl
@[simp] theorem State.write_lostLines (s : State) (l n v : Nat) : (s.write l n v).lostLines = s.lostLines := rfl
@[simp] theorem State.write_taken (s : State) (l n v : Nat) : (s.write l n v).taken = s.taken := rfl
@[simp] theorem State.write_pushed (s : State) (l n v : Nat) : (s.write l n v).pushed = s.pushed := rfl
@[simp] theorem State.write_later (s : State) (l n v : Nat) : (s.write l n v).later = s.later := rfl
@[simp] theorem State.write_closed (s : State) (l n v : Nat) : (s.write l n v).closed = s.closed := rfl
@[simp] theorem State.write_ioq (s : State) (l n v : Nat) : (s.write l n v).ioq = s.ioq := rfl

/-! ## writeLine -/

@[simp] theorem State.writeLine_agenda (s : State) (l : Nat) (m : BitVec 128) (d : BitVec 1024) : (s.writeLine l m d).agenda = s.agenda := rfl
@[simp] theorem State.writeLine_pace (s : State) (l : Nat) (m : BitVec 128) (d : BitVec 1024) : (s.writeLine l m d).pace = s.pace := rfl
@[simp] theorem State.writeLine_cur (s : State) (l : Nat) (m : BitVec 128) (d : BitVec 1024) : (s.writeLine l m d).cur = s.cur := rfl
@[simp] theorem State.writeLine_cycle (s : State) (l : Nat) (m : BitVec 128) (d : BitVec 1024) : (s.writeLine l m d).cycle = s.cycle := rfl
@[simp] theorem State.writeLine_dieReset (s : State) (l : Nat) (m : BitVec 128) (d : BitVec 1024) : (s.writeLine l m d).dieReset = s.dieReset := rfl
@[simp] theorem State.writeLine_fresh (s : State) (l : Nat) (m : BitVec 128) (d : BitVec 1024) : (s.writeLine l m d).fresh = s.fresh := rfl
@[simp] theorem State.writeLine_threads (s : State) (l : Nat) (m : BitVec 128) (d : BitVec 1024) : (s.writeLine l m d).threads = s.threads := rfl
@[simp] theorem State.writeLine_cores (s : State) (l : Nat) (m : BitVec 128) (d : BitVec 1024) : (s.writeLine l m d).cores = s.cores := rfl
@[simp] theorem State.writeLine_clusters (s : State) (l : Nat) (m : BitVec 128) (d : BitVec 1024) : (s.writeLine l m d).clusters = s.clusters := rfl
@[simp] theorem State.writeLine_fifo (s : State) (l : Nat) (m : BitVec 128) (d : BitVec 1024) : (s.writeLine l m d).fifo = s.fifo := rfl
@[simp] theorem State.writeLine_rq (s : State) (l : Nat) (m : BitVec 128) (d : BitVec 1024) : (s.writeLine l m d).rq = s.rq := rfl
@[simp] theorem State.writeLine_dirs (s : State) (l : Nat) (m : BitVec 128) (d : BitVec 1024) : (s.writeLine l m d).dirs = s.dirs := rfl
@[simp] theorem State.writeLine_slices (s : State) (l : Nat) (m : BitVec 128) (d : BitVec 1024) : (s.writeLine l m d).slices = s.slices := rfl
@[simp] theorem State.writeLine_etcs (s : State) (l : Nat) (m : BitVec 128) (d : BitVec 1024) : (s.writeLine l m d).etcs = s.etcs := rfl
@[simp] theorem State.writeLine_engines (s : State) (l : Nat) (m : BitVec 128) (d : BitVec 1024) : (s.writeLine l m d).engines = s.engines := rfl
@[simp] theorem State.writeLine_nextCmd (s : State) (l : Nat) (m : BitVec 128) (d : BitVec 1024) : (s.writeLine l m d).nextCmd = s.nextCmd := rfl
@[simp] theorem State.writeLine_hostBias (s : State) (l : Nat) (m : BitVec 128) (d : BitVec 1024) : (s.writeLine l m d).hostBias = s.hostBias := rfl
@[simp] theorem State.writeLine_flips (s : State) (l : Nat) (m : BitVec 128) (d : BitVec 1024) : (s.writeLine l m d).flips = s.flips := rfl
@[simp] theorem State.writeLine_launches (s : State) (l : Nat) (m : BitVec 128) (d : BitVec 1024) : (s.writeLine l m d).launches = s.launches := rfl
@[simp] theorem State.writeLine_nextLaunch (s : State) (l : Nat) (m : BitVec 128) (d : BitVec 1024) : (s.writeLine l m d).nextLaunch = s.nextLaunch := rfl
@[simp] theorem State.writeLine_funcs (s : State) (l : Nat) (m : BitVec 128) (d : BitVec 1024) : (s.writeLine l m d).funcs = s.funcs := rfl
@[simp] theorem State.writeLine_cps (s : State) (l : Nat) (m : BitVec 128) (d : BitVec 1024) : (s.writeLine l m d).cps = s.cps := rfl
@[simp] theorem State.writeLine_preempts (s : State) (l : Nat) (m : BitVec 128) (d : BitVec 1024) : (s.writeLine l m d).preempts = s.preempts := rfl
@[simp] theorem State.writeLine_saved (s : State) (l : Nat) (m : BitVec 128) (d : BitVec 1024) : (s.writeLine l m d).saved = s.saved := rfl
@[simp] theorem State.writeLine_debugger (s : State) (l : Nat) (m : BitVec 128) (d : BitVec 1024) : (s.writeLine l m d).debugger = s.debugger := rfl
@[simp] theorem State.writeLine_breakpoints (s : State) (l : Nat) (m : BitVec 128) (d : BitVec 1024) : (s.writeLine l m d).breakpoints = s.breakpoints := rfl
@[simp] theorem State.writeLine_service (s : State) (l : Nat) (m : BitVec 128) (d : BitVec 1024) : (s.writeLine l m d).service = s.service := rfl
@[simp] theorem State.writeLine_host (s : State) (l : Nat) (m : BitVec 128) (d : BitVec 1024) : (s.writeLine l m d).host = s.host := rfl
@[simp] theorem State.writeLine_hostWrites (s : State) (l : Nat) (m : BitVec 128) (d : BitVec 1024) : (s.writeLine l m d).hostWrites = s.hostWrites := rfl
@[simp] theorem State.writeLine_ioLast (s : State) (l : Nat) (m : BitVec 128) (d : BitVec 1024) : (s.writeLine l m d).ioLast = s.ioLast := rfl
@[simp] theorem State.writeLine_maps (s : State) (l : Nat) (m : BitVec 128) (d : BitVec 1024) : (s.writeLine l m d).maps = s.maps := rfl
@[simp] theorem State.writeLine_picks (s : State) (l : Nat) (m : BitVec 128) (d : BitVec 1024) : (s.writeLine l m d).picks = s.picks := rfl
@[simp] theorem State.writeLine_badLines (s : State) (l : Nat) (m : BitVec 128) (d : BitVec 1024) : (s.writeLine l m d).badLines = s.badLines := rfl
@[simp] theorem State.writeLine_lostLines (s : State) (l : Nat) (m : BitVec 128) (d : BitVec 1024) : (s.writeLine l m d).lostLines = s.lostLines := rfl
@[simp] theorem State.writeLine_taken (s : State) (l : Nat) (m : BitVec 128) (d : BitVec 1024) : (s.writeLine l m d).taken = s.taken := rfl
@[simp] theorem State.writeLine_pushed (s : State) (l : Nat) (m : BitVec 128) (d : BitVec 1024) : (s.writeLine l m d).pushed = s.pushed := rfl
@[simp] theorem State.writeLine_later (s : State) (l : Nat) (m : BitVec 128) (d : BitVec 1024) : (s.writeLine l m d).later = s.later := rfl
@[simp] theorem State.writeLine_closed (s : State) (l : Nat) (m : BitVec 128) (d : BitVec 1024) : (s.writeLine l m d).closed = s.closed := rfl
@[simp] theorem State.writeLine_ioq (s : State) (l : Nat) (m : BitVec 128) (d : BitVec 1024) : (s.writeLine l m d).ioq = s.ioq := rfl

/-! ## clearRange -/

@[simp] theorem State.clearRange_agenda (s : State) (lo n : Nat) : (s.clearRange lo n).agenda = s.agenda := rfl
@[simp] theorem State.clearRange_pace (s : State) (lo n : Nat) : (s.clearRange lo n).pace = s.pace := rfl
@[simp] theorem State.clearRange_cur (s : State) (lo n : Nat) : (s.clearRange lo n).cur = s.cur := rfl
@[simp] theorem State.clearRange_cycle (s : State) (lo n : Nat) : (s.clearRange lo n).cycle = s.cycle := rfl
@[simp] theorem State.clearRange_dieReset (s : State) (lo n : Nat) : (s.clearRange lo n).dieReset = s.dieReset := rfl
@[simp] theorem State.clearRange_fresh (s : State) (lo n : Nat) : (s.clearRange lo n).fresh = s.fresh := rfl
@[simp] theorem State.clearRange_threads (s : State) (lo n : Nat) : (s.clearRange lo n).threads = s.threads := rfl
@[simp] theorem State.clearRange_cores (s : State) (lo n : Nat) : (s.clearRange lo n).cores = s.cores := rfl
@[simp] theorem State.clearRange_clusters (s : State) (lo n : Nat) : (s.clearRange lo n).clusters = s.clusters := rfl
@[simp] theorem State.clearRange_fifo (s : State) (lo n : Nat) : (s.clearRange lo n).fifo = s.fifo := rfl
@[simp] theorem State.clearRange_rq (s : State) (lo n : Nat) : (s.clearRange lo n).rq = s.rq := rfl
@[simp] theorem State.clearRange_dirs (s : State) (lo n : Nat) : (s.clearRange lo n).dirs = s.dirs := rfl
@[simp] theorem State.clearRange_slices (s : State) (lo n : Nat) : (s.clearRange lo n).slices = s.slices := rfl
@[simp] theorem State.clearRange_etcs (s : State) (lo n : Nat) : (s.clearRange lo n).etcs = s.etcs := rfl
@[simp] theorem State.clearRange_engines (s : State) (lo n : Nat) : (s.clearRange lo n).engines = s.engines := rfl
@[simp] theorem State.clearRange_nextCmd (s : State) (lo n : Nat) : (s.clearRange lo n).nextCmd = s.nextCmd := rfl
@[simp] theorem State.clearRange_hostBias (s : State) (lo n : Nat) : (s.clearRange lo n).hostBias = s.hostBias := rfl
@[simp] theorem State.clearRange_flips (s : State) (lo n : Nat) : (s.clearRange lo n).flips = s.flips := rfl
@[simp] theorem State.clearRange_launches (s : State) (lo n : Nat) : (s.clearRange lo n).launches = s.launches := rfl
@[simp] theorem State.clearRange_nextLaunch (s : State) (lo n : Nat) : (s.clearRange lo n).nextLaunch = s.nextLaunch := rfl
@[simp] theorem State.clearRange_funcs (s : State) (lo n : Nat) : (s.clearRange lo n).funcs = s.funcs := rfl
@[simp] theorem State.clearRange_cps (s : State) (lo n : Nat) : (s.clearRange lo n).cps = s.cps := rfl
@[simp] theorem State.clearRange_preempts (s : State) (lo n : Nat) : (s.clearRange lo n).preempts = s.preempts := rfl
@[simp] theorem State.clearRange_saved (s : State) (lo n : Nat) : (s.clearRange lo n).saved = s.saved := rfl
@[simp] theorem State.clearRange_debugger (s : State) (lo n : Nat) : (s.clearRange lo n).debugger = s.debugger := rfl
@[simp] theorem State.clearRange_breakpoints (s : State) (lo n : Nat) : (s.clearRange lo n).breakpoints = s.breakpoints := rfl
@[simp] theorem State.clearRange_service (s : State) (lo n : Nat) : (s.clearRange lo n).service = s.service := rfl
@[simp] theorem State.clearRange_host (s : State) (lo n : Nat) : (s.clearRange lo n).host = s.host := rfl
@[simp] theorem State.clearRange_hostWrites (s : State) (lo n : Nat) : (s.clearRange lo n).hostWrites = s.hostWrites := rfl
@[simp] theorem State.clearRange_ioLast (s : State) (lo n : Nat) : (s.clearRange lo n).ioLast = s.ioLast := rfl
@[simp] theorem State.clearRange_maps (s : State) (lo n : Nat) : (s.clearRange lo n).maps = s.maps := rfl
@[simp] theorem State.clearRange_picks (s : State) (lo n : Nat) : (s.clearRange lo n).picks = s.picks := rfl
@[simp] theorem State.clearRange_badLines (s : State) (lo n : Nat) : (s.clearRange lo n).badLines = s.badLines := rfl
@[simp] theorem State.clearRange_lostLines (s : State) (lo n : Nat) : (s.clearRange lo n).lostLines = s.lostLines := rfl
@[simp] theorem State.clearRange_taken (s : State) (lo n : Nat) : (s.clearRange lo n).taken = s.taken := rfl
@[simp] theorem State.clearRange_pushed (s : State) (lo n : Nat) : (s.clearRange lo n).pushed = s.pushed := rfl
@[simp] theorem State.clearRange_later (s : State) (lo n : Nat) : (s.clearRange lo n).later = s.later := rfl
@[simp] theorem State.clearRange_closed (s : State) (lo n : Nat) : (s.clearRange lo n).closed = s.closed := rfl
@[simp] theorem State.clearRange_ioq (s : State) (lo n : Nat) : (s.clearRange lo n).ioq = s.ioq := rfl

/-! ## tie -/

@[simp] theorem State.tie_agenda (s : State) (k : Tie) (n : Nat) : (s.tie k n).agenda = s.agenda := rfl
@[simp] theorem State.tie_pace (s : State) (k : Tie) (n : Nat) : (s.tie k n).pace = s.pace := rfl
@[simp] theorem State.tie_picks (s : State) (k : Tie) (n : Nat) : (s.tie k n).picks = s.picks := rfl
@[simp] theorem State.tie_badLines (s : State) (k : Tie) (n : Nat) : (s.tie k n).badLines = s.badLines := rfl
@[simp] theorem State.tie_lostLines (s : State) (k : Tie) (n : Nat) : (s.tie k n).lostLines = s.lostLines := rfl
@[simp] theorem State.tie_taken (s : State) (k : Tie) (n : Nat) : (s.tie k n).taken = (k, n) :: s.taken := rfl
@[simp] theorem State.tie_cur (s : State) (k : Tie) (n : Nat) : (s.tie k n).cur = s.cur := rfl
@[simp] theorem State.tie_cycle (s : State) (k : Tie) (n : Nat) : (s.tie k n).cycle = s.cycle := rfl
@[simp] theorem State.tie_dieReset (s : State) (k : Tie) (n : Nat) : (s.tie k n).dieReset = s.dieReset := rfl
@[simp] theorem State.tie_fresh (s : State) (k : Tie) (n : Nat) : (s.tie k n).fresh = s.fresh := rfl
@[simp] theorem State.tie_mem (s : State) (k : Tie) (n : Nat) : (s.tie k n).mem = s.mem := rfl
@[simp] theorem State.tie_threads (s : State) (k : Tie) (n : Nat) : (s.tie k n).threads = s.threads := rfl
@[simp] theorem State.tie_cores (s : State) (k : Tie) (n : Nat) : (s.tie k n).cores = s.cores := rfl
@[simp] theorem State.tie_clusters (s : State) (k : Tie) (n : Nat) : (s.tie k n).clusters = s.clusters := rfl
@[simp] theorem State.tie_fifo (s : State) (k : Tie) (n : Nat) : (s.tie k n).fifo = s.fifo := rfl
@[simp] theorem State.tie_rq (s : State) (k : Tie) (n : Nat) : (s.tie k n).rq = s.rq := rfl
@[simp] theorem State.tie_dirs (s : State) (k : Tie) (n : Nat) : (s.tie k n).dirs = s.dirs := rfl
@[simp] theorem State.tie_slices (s : State) (k : Tie) (n : Nat) : (s.tie k n).slices = s.slices := rfl
@[simp] theorem State.tie_etcs (s : State) (k : Tie) (n : Nat) : (s.tie k n).etcs = s.etcs := rfl
@[simp] theorem State.tie_engines (s : State) (k : Tie) (n : Nat) : (s.tie k n).engines = s.engines := rfl
@[simp] theorem State.tie_nextCmd (s : State) (k : Tie) (n : Nat) : (s.tie k n).nextCmd = s.nextCmd := rfl
@[simp] theorem State.tie_changed (s : State) (k : Tie) (n : Nat) : (s.tie k n).changed = s.changed := rfl
@[simp] theorem State.tie_hostBias (s : State) (k : Tie) (n : Nat) : (s.tie k n).hostBias = s.hostBias := rfl
@[simp] theorem State.tie_flips (s : State) (k : Tie) (n : Nat) : (s.tie k n).flips = s.flips := rfl
@[simp] theorem State.tie_launches (s : State) (k : Tie) (n : Nat) : (s.tie k n).launches = s.launches := rfl
@[simp] theorem State.tie_nextLaunch (s : State) (k : Tie) (n : Nat) : (s.tie k n).nextLaunch = s.nextLaunch := rfl
@[simp] theorem State.tie_funcs (s : State) (k : Tie) (n : Nat) : (s.tie k n).funcs = s.funcs := rfl
@[simp] theorem State.tie_cps (s : State) (k : Tie) (n : Nat) : (s.tie k n).cps = s.cps := rfl
@[simp] theorem State.tie_preempts (s : State) (k : Tie) (n : Nat) : (s.tie k n).preempts = s.preempts := rfl
@[simp] theorem State.tie_saved (s : State) (k : Tie) (n : Nat) : (s.tie k n).saved = s.saved := rfl
@[simp] theorem State.tie_pushed (s : State) (k : Tie) (n : Nat) : (s.tie k n).pushed = s.pushed := rfl
@[simp] theorem State.tie_later (s : State) (k : Tie) (n : Nat) : (s.tie k n).later = s.later := rfl
@[simp] theorem State.tie_closed (s : State) (k : Tie) (n : Nat) : (s.tie k n).closed = s.closed := rfl
@[simp] theorem State.tie_ioq (s : State) (k : Tie) (n : Nat) : (s.tie k n).ioq = s.ioq := rfl
@[simp] theorem State.tie_debugger (s : State) (k : Tie) (n : Nat) : (s.tie k n).debugger = s.debugger := rfl
@[simp] theorem State.tie_breakpoints (s : State) (k : Tie) (n : Nat) : (s.tie k n).breakpoints = s.breakpoints := rfl
@[simp] theorem State.tie_service (s : State) (k : Tie) (n : Nat) : (s.tie k n).service = s.service := rfl
@[simp] theorem State.tie_host (s : State) (k : Tie) (n : Nat) : (s.tie k n).host = s.host := rfl
@[simp] theorem State.tie_hostWrites (s : State) (k : Tie) (n : Nat) : (s.tie k n).hostWrites = s.hostWrites := rfl
@[simp] theorem State.tie_ioLast (s : State) (k : Tie) (n : Nat) : (s.tie k n).ioLast = s.ioLast := rfl
@[simp] theorem State.tie_maps (s : State) (k : Tie) (n : Nat) : (s.tie k n).maps = s.maps := rfl

/-! ## Parts of the device, read after a write -/

theorem State.thread_setThread (s : State) (t u : Nat) (x : Thread) :
    (s.setThread t x).thread u = if u = t then x else s.thread u := NMap.get_set _ _ _ _ _

theorem State.thread_updThread (s : State) (t u : Nat) (f : Thread → Thread) :
    (s.updThread t f).thread u = if u = t then f (s.thread t) else s.thread u := NMap.get_set _ _ _ _ _

@[simp] theorem State.thread_updThread_same (s : State) (t : Nat) (f : Thread → Thread) :
    (s.updThread t f).thread t = f (s.thread t) := NMap.get_set_same _ _ _ _

@[simp] theorem State.thread_setThread_same (s : State) (t : Nat) (x : Thread) :
    (s.setThread t x).thread t = x := NMap.get_set_same _ _ _ _

theorem State.thread_updThread_ne (s : State) (t u : Nat) (f : Thread → Thread) (h : u ≠ t) :
    (s.updThread t f).thread u = s.thread u := NMap.get_set_ne _ _ _ _ _ h

theorem State.thread_setThread_ne (s : State) (t u : Nat) (x : Thread) (h : u ≠ t) :
    (s.setThread t x).thread u = s.thread u := NMap.get_set_ne _ _ _ _ _ h

@[simp] theorem State.me_updMe (s : State) (f : Thread → Thread) : (s.updMe f).me = f s.me :=
  State.thread_updThread_same s s.cur f

theorem State.core_updCore (s : State) (k j : Nat) (f : Core → Core) :
    (s.updCore k f).core j = if j = k then f (s.core k) else s.core j := NMap.get_set _ _ _ _ _

@[simp] theorem State.core_updCore_same (s : State) (k : Nat) (f : Core → Core) :
    (s.updCore k f).core k = f (s.core k) := NMap.get_set_same _ _ _ _

theorem State.core_updCore_ne (s : State) (k j : Nat) (f : Core → Core) (h : j ≠ k) :
    (s.updCore k f).core j = s.core j := NMap.get_set_ne _ _ _ _ _ h

theorem State.cluster_updCluster (s : State) (k j : Nat) (f : Cluster → Cluster) :
    (s.updCluster k f).cluster j = if j = k then f (s.cluster k) else s.cluster j := NMap.get_set _ _ _ _ _

@[simp] theorem State.cluster_updCluster_same (s : State) (k : Nat) (f : Cluster → Cluster) :
    (s.updCluster k f).cluster k = f (s.cluster k) := NMap.get_set_same _ _ _ _

@[simp] theorem State.engine_updEngine_same (s : State) (g : Nat) (f : Engine → Engine) :
    (s.updEngine g f).engine g = f (s.engine g) := NMap.get_set_same _ _ _ _

@[simp] theorem State.func_updFunc_same (s : State) (n : Nat) (f : Func → Func) :
    (s.updFunc n f).func n = f (s.func n) := NMap.get_set_same _ _ _ _

@[simp] theorem State.cp_updCp_same (s : State) (p : Nat) (f : Cp → Cp) :
    (s.updCp p f).cp p = f (s.cp p) := NMap.get_set_same _ _ _ _

@[simp] theorem State.dir_updDir_same (s : State) (l : Nat) (f : Dir → Dir) :
    (s.updDir l f).dir l = f (s.dir l) := NMap.get_set_same _ _ _ _

@[simp] theorem State.slice_setSlice_same (s : State) (l : Nat) (x : Option SliceLine) :
    (s.setSlice l x).slice l = x := NMap.get_set_same _ _ _ _

@[simp] theorem State.byte_setByte_same (s : State) (l : Nat) (b : Byte) : (s.setByte l b).byte l = b :=
  NMap.get_set_same _ _ _ _

theorem State.byte_setByte_ne (s : State) (l a : Nat) (b : Byte) (h : a ≠ l) : (s.setByte l b).byte a = s.byte a :=
  NMap.get_set_ne _ _ _ _ _ h

@[simp] theorem State.thread_updCore (s : State) (k : Nat) (f : Core → Core) (t : Nat) :
    (s.updCore k f).thread t = s.thread t := rfl

@[simp] theorem State.thread_updCluster (s : State) (k : Nat) (f : Cluster → Cluster) (t : Nat) :
    (s.updCluster k f).thread t = s.thread t := rfl

@[simp] theorem State.core_updThread (s : State) (t : Nat) (f : Thread → Thread) (k : Nat) :
    (s.updThread t f).core k = s.core k := rfl

@[simp] theorem State.core_setThread (s : State) (t : Nat) (x : Thread) (k : Nat) :
    (s.setThread t x).core k = s.core k := rfl

@[simp] theorem State.cluster_updThread (s : State) (t : Nat) (f : Thread → Thread) (k : Nat) :
    (s.updThread t f).cluster k = s.cluster k := rfl

@[simp] theorem State.cluster_updCore (s : State) (k j : Nat) (f : Core → Core) :
    (s.updCore k f).cluster j = s.cluster j := rfl

end Sys2Proof.Machine
end

