-- ==== Sys2Proof/Laws/Cp.lean ====
section
/-! SUPPORT. The command processor of an event whose row names none, and its access of a machine-mode CSR (22 R443). -/

namespace Sys2Proof.Machine

theorem State.chosenCp_lt (s : State) : s.chosenCp.1 < 4 := Nat.mod_lt _ (by decide)
@[simp] theorem State.chosenCp_mem (s : State) : s.chosenCp.2.mem = s.mem := rfl
@[simp] theorem State.chosenCp_threads (s : State) : s.chosenCp.2.threads = s.threads := rfl
@[simp] theorem State.chosenCp_clusters (s : State) : s.chosenCp.2.clusters = s.clusters := rfl
@[simp] theorem State.chosenCp_cps (s : State) : s.chosenCp.2.cps = s.cps := rfl
@[simp] theorem State.chosenCp_service (s : State) : s.chosenCp.2.service = s.service := rfl
@[simp] theorem State.chosenCp_cycle (s : State) : s.chosenCp.2.cycle = s.cycle := rfl
@[simp] theorem State.chosenCp_cp (s : State) (p : Nat) : s.chosenCp.2.cp p = s.cp p := rfl

/-- In machine mode the access is made. -/
theorem State.asMachine_machine {s : State} {p : Nat} (h : (s.cp p).smode = false) (go : Host.Outcome State Fault Refusal) :
    s.asMachine p go = go := by simp [State.asMachine, h]
/-- In supervisor mode the command processor takes its exception. -/
theorem State.asMachine_supervisor {s : State} {p : Nat} (h : (s.cp p).smode = true) (go : Host.Outcome State Fault Refusal) :
    s.asMachine p go = .next (s.cpIllegal p) := by simp [State.asMachine, h]

@[simp] theorem State.cpIllegal_mem (s : State) (p : Nat) : (s.cpIllegal p).mem = s.mem := rfl
@[simp] theorem State.cpIllegal_threads (s : State) (p : Nat) : (s.cpIllegal p).threads = s.threads := rfl

end Sys2Proof.Machine
end

