-- ==== Sys2Proof/Laws/Firmware.lean ====
section
/-! SUPPORT. What a command processor's core does in a step (22 R443): its registers read back, and the ways in which an access and a
step can end. -/

namespace Sys2Proof.Machine

@[simp] theorem State.updCp_cp (s : State) (p : Nat) (f : Cp → Cp) : (s.updCp p f).cp p = f (s.cp p) := by
  simp [State.updCp, State.cp]

/-! ## Registers -/

/-- A register reads what was written last; x0 reads 0. -/
theorem Cp.reg_setReg (x : Cp) (i j : Nat) (v : Word) : (x.setReg i v).reg j = if j = i ∧ i ≠ 0 then v else x.reg j := by
  by_cases hi : i = 0
  · simp [Cp.setReg, hi]
  · by_cases hj : j = i
    · subst hj; simp [Cp.setReg, Cp.reg, hi]
    · simp only [hj, false_and, if_false]
      by_cases h0 : j = 0 <;> simp [Cp.setReg, Cp.reg, hi, hj, h0, NMap.get_set_ne]

@[simp] theorem Cp.setReg_pc (x : Cp) (i : Nat) (v : Word) : (x.setReg i v).pc = x.pc := by
  unfold Cp.setReg; split <;> rfl
@[simp] theorem Cp.setReg_csrs (x : Cp) (i : Nat) (v : Word) : (x.setReg i v).csrs = x.csrs := by
  unfold Cp.setReg; split <;> rfl
@[simp] theorem Cp.setReg_f (x : Cp) (i : Nat) (v : Word) : (x.setReg i v).f = x.f := by
  unfold Cp.setReg; split <;> rfl
@[simp] theorem Cp.retired_pc (x : Cp) (n : Nat) : (x.retired n).pc = x.pc + BitVec.ofNat 64 n := rfl
@[simp] theorem Cp.retired_reg (x : Cp) (n i : Nat) : (x.retired n).reg i = x.reg i := rfl
@[simp] theorem Cp.retired_smode (x : Cp) (n : Nat) : (x.retired n).smode = x.smode := rfl

/-! ## Accesses -/

/-- An access raises an exception, is held by a flip, or is made at a physical address. -/
theorem State.cpAccess_cases (s : State) (p : Nat) (va : Word) (n : Nat) (a : CpAcc) (go : Nat → State) :
    (∃ cause, s.cpAccess p va n a go = s.cpTrap p cause va) ∨ s.cpAccess p va n a go = s ∨
      ∃ pa, s.cpAddress (s.cp p) va n a = .at pa ∧ va.toNat % max 1 n = 0 ∧ s.cpAccess p va n a go = go pa := by
  unfold State.cpAccess
  split
  · exact .inl ⟨_, rfl⟩
  · rename_i h
    split
    · exact .inl ⟨_, rfl⟩
    · exact .inl ⟨_, rfl⟩
    · exact .inr (.inl rfl)
    · rename_i pa hp
      exact .inr (.inr ⟨pa, hp, not_not.mp h, rfl⟩)

/-- In machine mode without MPRV an access goes to the address itself. -/
theorem State.cpAddress_machine {s : State} {x : Cp} {va : Word} {n : Nat} {a : CpAcc} (hm : x.smode = false)
    (hv : x.csrs.mstatus.getLsbD 17 = false) : s.cpAddress x va n a = s.cpPhysical x.csrs false va.toNat n a := by
  simp only [State.cpAddress, hm, hv, Bool.and_false, Bool.false_and, Bool.or_false, Bool.not_false, Bool.true_or, if_true]

@[simp] theorem State.cpTrap_mem (s : State) (p : Nat) (cause tval : Word) : (s.cpTrap p cause tval).mem = s.mem := rfl
@[simp] theorem State.cpTrap_threads (s : State) (p : Nat) (cause tval : Word) : (s.cpTrap p cause tval).threads = s.threads := rfl

/-! ## A step -/

/-- A load changes no memory. -/
theorem State.cpLoad_mem (s : State) (p : Nat) (va : Word) (n : Nat) (done : Cp → Nat → Cp) : (s.cpLoad p va n done).mem = s.mem := by
  rcases s.cpAccess_cases p va n .load (fun pa => s.updCp p (fun y => done y (s.read pa n))) with ⟨c, h⟩ | h | ⟨pa, -, -, h⟩ <;>
    simp [State.cpLoad, h]

/-- A step takes the interrupt that is due, or executes. -/
theorem State.firmware_due {s : State} {p i : Nat} (hp : p < 4) (hr : (s.cp p).running = true) (h : (s.cp p).interruptDue = some i)
    (a : CpAct) : s.firmware p a = s.updCp p (·.interrupt i) := by
  simp [State.firmware, hr, h, Nat.not_le.mpr hp]
theorem State.firmware_none {s : State} {p : Nat} (hp : p < 4) (hr : (s.cp p).running = true) (h : (s.cp p).interruptDue = none)
    (a : CpAct) : s.firmware p a = s.cpExecute p a := by
  simp [State.firmware, hr, h, Nat.not_le.mpr hp]
/-- A command processor that does not run does nothing. -/
theorem State.firmware_stopped {s : State} {p : Nat} (h : (s.cp p).running = false) (a : CpAct) : s.firmware p a = s := by
  simp [State.firmware, h]

end Sys2Proof.Machine
end

