-- ==== Sys2Proof/Laws/Format.lean ====
section
/-! SUPPORT. The formats: the fields read from a word are those it was built from, and its bytes give the word back. -/

namespace Sys2Proof

theorem extract_hi {v w : Nat} (x : BitVec w) (y : BitVec v) (st n : Nat) (h : v ≤ st) :
    BitVec.extractLsb' st n (x ++ y) = x.extractLsb' (st - v) n := by
  ext i hi
  simp only [BitVec.getElem_extractLsb', BitVec.getLsbD_append, show ¬ (st + i < v) by omega, if_false]
  congr 1; omega

theorem extract_lo {v w : Nat} (x : BitVec w) (y : BitVec v) (st n : Nat) (h : st + n ≤ v) :
    BitVec.extractLsb' st n (x ++ y) = y.extractLsb' st n := by
  ext i hi
  simp only [BitVec.getElem_extractLsb', BitVec.getLsbD_append, show st + i < v by omega, if_true]

theorem bit_hi {v w : Nat} (x : BitVec w) (y : BitVec v) (i : Nat) (h : v ≤ i) :
    BitVec.getLsbD (x ++ y) i = x.getLsbD (i - v) := by
  simp only [BitVec.getLsbD_append, show ¬ (i < v) by omega, if_false]

theorem bit_lo {v w : Nat} (x : BitVec w) (y : BitVec v) (i : Nat) (h : i < v) :
    BitVec.getLsbD (x ++ y) i = y.getLsbD i := by
  simp only [BitVec.getLsbD_append, h, if_true]

theorem extract_all {w : Nat} (x : BitVec w) : BitVec.extractLsb' 0 w x = x := by simp

theorem ofBool_bit (b : Bool) : BitVec.getLsbD (BitVec.ofBool b) 0 = b := by cases b <;> rfl

theorem RR.ofWord_toWord (m : BitVec 6) (f : RR) : RR.ofWord (RR.toWord m f) = f := by
  cases f
  simp only [RR.toWord, RR.ofWord, RR.mk.injEq]
  refine ⟨?_, ?_, ?_, ?_, ?_, ?_, ?_⟩ <;>
    (repeat (first | rw [extract_hi (h := by decide)] | rw [bit_hi (h := by decide)])) <;>
    first
      | exact extract_all _
      | (rw [extract_lo (h := by decide)]; exact extract_all _)
      | (rw [bit_lo (h := by decide)]; exact ofBool_bit _)

theorem RR.major_toWord (m : BitVec 6) (f : RR) : BitVec.extractLsb' 1 6 (RR.toWord m f) = m := by
  rw [RR.toWord, extract_hi (h := by decide), extract_lo (h := by decide)]
  exact extract_all _

theorem RR.odd_toWord (m : BitVec 6) (f : RR) : BitVec.getLsbD (RR.toWord m f) 0 = true := by
  rw [RR.toWord, bit_lo (h := by decide)]; rfl

theorem RI.ofWord_toWord (m : BitVec 6) (f : RI) : RI.ofWord (RI.toWord m f) = f := by
  cases f
  simp only [RI.toWord, RI.ofWord, RI.mk.injEq]
  refine ⟨?_, ?_, ?_, ?_⟩ <;>
    (repeat (first | rw [extract_hi (h := by decide)] | rw [bit_hi (h := by decide)])) <;>
    first
      | exact extract_all _
      | (rw [extract_lo (h := by decide)]; exact extract_all _)
      | (rw [bit_lo (h := by decide)]; exact ofBool_bit _)

theorem RI.major_toWord (m : BitVec 6) (f : RI) : BitVec.extractLsb' 1 6 (RI.toWord m f) = m := by
  rw [RI.toWord, extract_hi (h := by decide), extract_lo (h := by decide)]
  exact extract_all _

theorem RI.odd_toWord (m : BitVec 6) (f : RI) : BitVec.getLsbD (RI.toWord m f) 0 = true := by
  rw [RI.toWord, bit_lo (h := by decide)]; rfl

theorem U.ofWord_toWord (m : BitVec 6) (f : U) : U.ofWord (U.toWord m f) = f := by
  cases f
  simp only [U.toWord, U.ofWord, U.mk.injEq]
  refine ⟨?_, ?_⟩ <;>
    (repeat (first | rw [extract_hi (h := by decide)] | rw [bit_hi (h := by decide)])) <;>
    first
      | exact extract_all _
      | (rw [extract_lo (h := by decide)]; exact extract_all _)
      | (rw [bit_lo (h := by decide)]; exact ofBool_bit _)

theorem U.major_toWord (m : BitVec 6) (f : U) : BitVec.extractLsb' 1 6 (U.toWord m f) = m := by
  rw [U.toWord, extract_hi (h := by decide), extract_lo (h := by decide)]
  exact extract_all _

theorem U.odd_toWord (m : BitVec 6) (f : U) : BitVec.getLsbD (U.toWord m f) 0 = true := by
  rw [U.toWord, bit_lo (h := by decide)]; rfl

theorem BF.ofWord_toWord (m : BitVec 6) (f : BF) : BF.ofWord (BF.toWord m f) = f := by
  cases f
  simp only [BF.toWord, BF.ofWord, BF.mk.injEq]
  refine ⟨?_, ?_, ?_, ?_, ?_, ?_, ?_⟩ <;>
    (repeat (first | rw [extract_hi (h := by decide)] | rw [bit_hi (h := by decide)])) <;>
    first
      | exact extract_all _
      | (rw [extract_lo (h := by decide)]; exact extract_all _)
      | (rw [bit_lo (h := by decide)]; exact ofBool_bit _)
      | exact ofBool_bit _

theorem BF.major_toWord (m : BitVec 6) (f : BF) : BitVec.extractLsb' 1 6 (BF.toWord m f) = m := by
  rw [BF.toWord, extract_hi (h := by decide), extract_lo (h := by decide)]
  exact extract_all _

theorem BF.odd_toWord (m : BitVec 6) (f : BF) : BitVec.getLsbD (BF.toWord m f) 0 = true := by
  rw [BF.toWord, bit_lo (h := by decide)]; rfl

theorem M.ofWord_toWord (m : BitVec 6) (f : M) : M.ofWord (M.toWord m f) = f := by
  cases f
  simp only [M.toWord, M.ofWord, M.mk.injEq]
  refine ⟨?_, ?_, ?_, ?_, ?_, ?_⟩ <;>
    (repeat (first | rw [extract_hi (h := by decide)] | rw [bit_hi (h := by decide)])) <;>
    first
      | exact extract_all _
      | (rw [extract_lo (h := by decide)]; exact extract_all _)
      | (rw [bit_lo (h := by decide)]; exact ofBool_bit _)

theorem M.major_toWord (m : BitVec 6) (f : M) : BitVec.extractLsb' 1 6 (M.toWord m f) = m := by
  rw [M.toWord, extract_hi (h := by decide), extract_lo (h := by decide)]
  exact extract_all _

theorem M.odd_toWord (m : BitVec 6) (f : M) : BitVec.getLsbD (M.toWord m f) 0 = true := by
  rw [M.toWord, bit_lo (h := by decide)]; rfl

theorem BR.ofWord_toWord (m : BitVec 6) (f : BR) : BR.ofWord (BR.toWord m f) = f := by
  cases f
  simp only [BR.toWord, BR.ofWord, BR.mk.injEq]
  refine ⟨?_, ?_, ?_, ?_⟩ <;>
    (repeat (first | rw [extract_hi (h := by decide)] | rw [bit_hi (h := by decide)])) <;>
    first
      | exact extract_all _
      | (rw [extract_lo (h := by decide)]; exact extract_all _)
      | (rw [bit_lo (h := by decide)]; exact ofBool_bit _)

theorem BR.major_toWord (m : BitVec 6) (f : BR) : BitVec.extractLsb' 1 6 (BR.toWord m f) = m := by
  rw [BR.toWord, extract_hi (h := by decide), extract_lo (h := by decide)]
  exact extract_all _

theorem BR.odd_toWord (m : BitVec 6) (f : BR) : BitVec.getLsbD (BR.toWord m f) 0 = true := by
  rw [BR.toWord, bit_lo (h := by decide)]; rfl

theorem J.ofWord_toWord (m : BitVec 6) (f : J) : J.ofWord (J.toWord m f) = f := by
  cases f
  simp only [J.toWord, J.ofWord, J.mk.injEq]
  refine ⟨?_, ?_⟩ <;>
    (repeat (first | rw [extract_hi (h := by decide)] | rw [bit_hi (h := by decide)])) <;>
    first
      | exact extract_all _
      | (rw [extract_lo (h := by decide)]; exact extract_all _)
      | (rw [bit_lo (h := by decide)]; exact ofBool_bit _)

theorem J.major_toWord (m : BitVec 6) (f : J) : BitVec.extractLsb' 1 6 (J.toWord m f) = m := by
  rw [J.toWord, extract_hi (h := by decide), extract_lo (h := by decide)]
  exact extract_all _

theorem J.odd_toWord (m : BitVec 6) (f : J) : BitVec.getLsbD (J.toWord m f) 0 = true := by
  rw [J.toWord, bit_lo (h := by decide)]; rfl

theorem VX.ofWord_toWord (m : BitVec 6) (f : VX) : VX.ofWord (VX.toWord m f) = f := by
  cases f
  simp only [VX.toWord, VX.ofWord, VX.mk.injEq]
  refine ⟨?_, ?_, ?_, ?_, ?_, ?_, ?_⟩ <;>
    (repeat (first | rw [extract_hi (h := by decide)] | rw [bit_hi (h := by decide)])) <;>
    first
      | exact extract_all _
      | (rw [extract_lo (h := by decide)]; exact extract_all _)
      | (rw [bit_lo (h := by decide)]; exact ofBool_bit _)

theorem VX.major_toWord (m : BitVec 6) (f : VX) : BitVec.extractLsb' 1 6 (VX.toWord m f) = m := by
  rw [VX.toWord, extract_hi (h := by decide), extract_lo (h := by decide)]
  exact extract_all _

theorem VX.odd_toWord (m : BitVec 6) (f : VX) : BitVec.getLsbD (VX.toWord m f) 0 = true := by
  rw [VX.toWord, bit_lo (h := by decide)]; rfl

theorem VM.ofWord_toWord (m : BitVec 6) (f : VM) : VM.ofWord (VM.toWord m f) = f := by
  cases f
  simp only [VM.toWord, VM.ofWord, VM.mk.injEq]
  refine ⟨?_, ?_, ?_, ?_, ?_, ?_, ?_⟩ <;>
    (repeat (first | rw [extract_hi (h := by decide)] | rw [bit_hi (h := by decide)])) <;>
    first
      | exact extract_all _
      | (rw [extract_lo (h := by decide)]; exact extract_all _)
      | (rw [bit_lo (h := by decide)]; exact ofBool_bit _)

theorem VM.major_toWord (m : BitVec 6) (f : VM) : BitVec.extractLsb' 1 6 (VM.toWord m f) = m := by
  rw [VM.toWord, extract_hi (h := by decide), extract_lo (h := by decide)]
  exact extract_all _

theorem VM.odd_toWord (m : BitVec 6) (f : VM) : BitVec.getLsbD (VM.toWord m f) 0 = true := by
  rw [VM.toWord, bit_lo (h := by decide)]; rfl

theorem X.ofWord_toWord (m : BitVec 6) (f : X) : X.ofWord (X.toWord m f) = f := by
  cases f
  simp only [X.toWord, X.ofWord, X.mk.injEq]
  refine ⟨?_, ?_, ?_, ?_, ?_, ?_⟩ <;>
    (repeat (first | rw [extract_hi (h := by decide)] | rw [bit_hi (h := by decide)])) <;>
    first
      | exact extract_all _
      | (rw [extract_lo (h := by decide)]; exact extract_all _)
      | (rw [bit_lo (h := by decide)]; exact ofBool_bit _)

theorem X.major_toWord (m : BitVec 6) (f : X) : BitVec.extractLsb' 1 6 (X.toWord m f) = m := by
  rw [X.toWord, extract_hi (h := by decide), extract_lo (h := by decide)]
  exact extract_all _

theorem X.odd_toWord (m : BitVec 6) (f : X) : BitVec.getLsbD (X.toWord m f) 0 = true := by
  rw [X.toWord, bit_lo (h := by decide)]; rfl

theorem P.ofWord_toWord (m : BitVec 6) (f : P) : P.ofWord (P.toWord m f) = f := by
  cases f
  simp only [P.toWord, P.ofWord, P.mk.injEq]
  refine ⟨?_, ?_, ?_, ?_, ?_, ?_⟩ <;>
    (repeat (first | rw [extract_hi (h := by decide)] | rw [bit_hi (h := by decide)])) <;>
    first
      | exact extract_all _
      | (rw [extract_lo (h := by decide)]; exact extract_all _)
      | (rw [bit_lo (h := by decide)]; exact ofBool_bit _)

theorem P.major_toWord (m : BitVec 6) (f : P) : BitVec.extractLsb' 1 6 (P.toWord m f) = m := by
  rw [P.toWord, extract_hi (h := by decide), extract_lo (h := by decide)]
  exact extract_all _

theorem P.odd_toWord (m : BitVec 6) (f : P) : BitVec.getLsbD (P.toWord m f) 0 = true := by
  rw [P.toWord, bit_lo (h := by decide)]; rfl

theorem TC.ofWord_toWord (m : BitVec 6) (f : TC) : TC.ofWord (TC.toWord m f) = f := by
  cases f
  simp only [TC.toWord, TC.ofWord, TC.mk.injEq]
  refine ⟨?_, ?_, ?_, ?_⟩ <;>
    (repeat (first | rw [extract_hi (h := by decide)] | rw [bit_hi (h := by decide)])) <;>
    first
      | exact extract_all _
      | (rw [extract_lo (h := by decide)]; exact extract_all _)
      | (rw [bit_lo (h := by decide)]; exact ofBool_bit _)

theorem TC.major_toWord (m : BitVec 6) (f : TC) : BitVec.extractLsb' 1 6 (TC.toWord m f) = m := by
  rw [TC.toWord, extract_hi (h := by decide), extract_lo (h := by decide)]
  exact extract_all _

theorem TC.odd_toWord (m : BitVec 6) (f : TC) : BitVec.getLsbD (TC.toWord m f) 0 = true := by
  rw [TC.toWord, bit_lo (h := by decide)]; rfl

theorem word_of_bytes (w : BitVec 32) :
    w.extractLsb' 24 8 ++ w.extractLsb' 16 8 ++ w.extractLsb' 8 8 ++ w.extractLsb' 0 8 = w := by
  ext i hi
  simp only [BitVec.getElem_append, BitVec.getElem_extractLsb']
  split
  · simp [BitVec.getLsbD_eq_getElem hi]
  · split
    · rw [show 8 + (i - 8) = i by omega]; simp [BitVec.getLsbD_eq_getElem hi]
    · split
      · rw [show 16 + (i - 8 - 8) = i by omega]; simp [BitVec.getLsbD_eq_getElem hi]
      · rw [show 24 + (i - 8 - 8 - 8) = i by omega]; simp [BitVec.getLsbD_eq_getElem hi]

theorem half_of_bytes (h : BitVec 16) : h.extractLsb' 8 8 ++ h.extractLsb' 0 8 = h := by
  ext i hi
  simp only [BitVec.getElem_append, BitVec.getElem_extractLsb']
  split
  · simp [BitVec.getLsbD_eq_getElem hi]
  · rw [show 8 + (i - 8) = i by omega]; simp [BitVec.getLsbD_eq_getElem hi]

theorem decode_word (w : BitVec 32) (rest : List Byte) (h : w.getLsbD 0 = true) :
    decode ((Code.word w).bytes ++ rest) = (decode32 w).map (fun i => (i, rest)) := by
  simp only [Code.bytes, List.cons_append, List.nil_append, decode]
  rw [if_pos (by simpa [BitVec.getLsbD_extractLsb'] using h), word_of_bytes]

theorem decode_half (h : BitVec 16) (rest : List Byte) (hb : h.getLsbD 0 = false) :
    decode ((Code.half h).bytes ++ rest) = .ok (decode16 h, rest) := by
  simp only [Code.bytes, List.cons_append, List.nil_append, decode]
  rw [if_neg (by simpa [BitVec.getLsbD_extractLsb'] using hb), half_of_bytes]

end Sys2Proof
end

