-- ==== Sys2Proof/Laws/Memory.lean ====
section
/-! SUPPORT. Memory: reading after writing, what a write leaves alone, and that every memory operation keeps the
canonical form. -/

namespace Sys2Proof.Machine

/-! ## Little-endian runs of bytes (00 R7) -/

theorem writeMem_other (mem : List Host.Cell) (loc n v a : Nat) (h : a < loc ∨ loc + n ≤ a) :
    NMap.get memDefault (writeMem mem loc n v) a = NMap.get memDefault mem a := by
  induction n generalizing mem loc v with
  | zero => rfl
  | succ n ih =>
    rw [writeMem, ih _ _ _ (by omega), NMap.get_set_ne _ _ _ _ _ (by omega)]

theorem writeMem_byte (mem : List Host.Cell) (loc n v i : Nat) (h : i < n) :
    NMap.get memDefault (writeMem mem loc n v) (loc + i) = BitVec.ofNat 8 (v / 256 ^ i) := by
  induction n generalizing mem loc v i with
  | zero => omega
  | succ n ih =>
    rw [writeMem]
    cases i with
    | zero => rw [writeMem_other _ _ _ _ _ (by omega), NMap.get_set]; simp
    | succ i =>
      rw [show loc + (i + 1) = loc + 1 + i by omega, ih _ _ _ _ (by omega), Nat.div_div_eq_div_mul]
      rw [show 256 ^ (i + 1) = 256 * 256 ^ i by rw [Nat.pow_succ, Nat.mul_comm]]

theorem writeMem_ok (mem : List Host.Cell) (loc n v : Nat) (h : NMap.ok memDefault mem = true) :
    NMap.ok memDefault (writeMem mem loc n v) = true := by
  induction n generalizing mem loc v with
  | zero => exact h
  | succ n ih => exact ih _ _ _ (NMap.ok_set _ _ _ _ h)

theorem readMem_congr (m m' : List Host.Cell) (loc n : Nat)
    (h : ∀ a, loc ≤ a → a < loc + n → NMap.get memDefault m a = NMap.get memDefault m' a) :
    readMem m loc n = readMem m' loc n := by
  induction n generalizing loc with
  | zero => rfl
  | succ n ih =>
    rw [readMem, readMem, h loc (by omega) (by omega), ih (loc + 1) (fun a h1 h2 => h a (by omega) (by omega))]

theorem readMem_writeMem (mem : List Host.Cell) (loc n v : Nat) :
    readMem (writeMem mem loc n v) loc n = v % 256 ^ n := by
  induction n generalizing mem loc v with
  | zero => simp [readMem, Nat.mod_one]
  | succ n ih =>
    rw [readMem, writeMem, ih, writeMem_other _ _ _ _ _ (by omega), NMap.get_set_same, BitVec.toNat_ofNat,
      show 256 ^ (n + 1) = 256 * 256 ^ n by rw [Nat.pow_succ, Nat.mul_comm], Nat.mod_mul]

/-- Reading the bytes just written gives them back. -/
theorem State.read_write (s : State) (loc n v : Nat) : (s.write loc n v).read loc n = v % 256 ^ n :=
  readMem_writeMem _ _ _ _

/-- A write leaves every other byte alone. -/
theorem State.byte_write_other (s : State) (loc n v a : Nat) (h : a < loc ∨ loc + n ≤ a) :
    (s.write loc n v).byte a = s.byte a := writeMem_other _ _ _ _ _ h

theorem State.byte_write (s : State) (loc n v i : Nat) (h : i < n) :
    (s.write loc n v).byte (loc + i) = BitVec.ofNat 8 (v / 256 ^ i) := writeMem_byte _ _ _ _ _ h

theorem State.write_memOk (s : State) (loc n v : Nat) (h : s.memOk = true) : (s.write loc n v).memOk = true :=
  writeMem_ok _ _ _ _ h

theorem State.setByte_memOk (s : State) (loc : Nat) (b : Byte) (h : s.memOk = true) : (s.setByte loc b).memOk = true :=
  NMap.ok_set _ _ _ _ h

theorem State.writeWord_memOk (s : State) (loc : Nat) (w : Word) (h : s.memOk = true) : (s.writeWord loc w).memOk = true :=
  s.write_memOk _ _ _ h

theorem State.readWord_writeWord (s : State) (loc : Nat) (w : Word) : (s.writeWord loc w).readWord loc = w := by
  rw [State.readWord, State.writeWord, State.read_write]
  apply BitVec.eq_of_toNat_eq
  simp only [BitVec.toNat_ofNat]
  have := w.isLt
  omega

theorem State.writeWords_memOk (ws : List Word) (s : State) (loc : Nat) (h : s.memOk = true) :
    (s.writeWords loc ws).memOk = true := by
  induction ws generalizing s loc with
  | nil => exact h
  | cons w ws ih => exact ih _ _ (s.writeWord_memOk _ _ h)

theorem State.writeWords_byte_other (ws : List Word) (s : State) (loc a : Nat) (h : a < loc ∨ loc + 8 * ws.length ≤ a) :
    (s.writeWords loc ws).byte a = s.byte a := by
  induction ws generalizing s loc with
  | nil => rfl
  | cons w ws ih =>
    simp only [List.length_cons] at h
    rw [State.writeWords, ih _ _ (by omega), State.writeWord, State.byte_write_other _ _ _ _ _ (by omega)]

/-! ## Masked lines -/

theorem writeMasked_ok (mem : List Host.Cell) (line : Nat) (mask : BitVec 128) (data : BitVec 1024) (n : Nat)
    (h : NMap.ok memDefault mem = true) : NMap.ok memDefault (writeMasked mem line mask data n) = true := by
  induction n with
  | zero => exact h
  | succ n ih =>
    simp only [writeMasked]
    split
    · exact NMap.ok_set _ _ _ _ ih
    · exact ih

theorem writeMasked_other (mem : List Host.Cell) (line : Nat) (mask : BitVec 128) (data : BitVec 1024) (n a : Nat)
    (h : ∀ i, i < n → mask.getLsbD i = true → a ≠ 128 * line + i) :
    NMap.get memDefault (writeMasked mem line mask data n) a = NMap.get memDefault mem a := by
  induction n with
  | zero => rfl
  | succ n ih =>
    simp only [writeMasked]
    split
    · next hm =>
      rw [NMap.get_set_ne _ _ _ _ _ (h n (by omega) hm), ih (fun i hi => h i (by omega))]
    · exact ih (fun i hi => h i (by omega))

theorem writeMasked_byte (mem : List Host.Cell) (line : Nat) (mask : BitVec 128) (data : BitVec 1024) (n i : Nat)
    (h : i < n) (hm : mask.getLsbD i = true) :
    NMap.get memDefault (writeMasked mem line mask data n) (128 * line + i) = data.extractLsb' (8 * i) 8 := by
  induction n with
  | zero => omega
  | succ n ih =>
    simp only [writeMasked]
    by_cases e : i = n
    · subst e; simp [hm]
    · split
      · rw [NMap.get_set_ne _ _ _ _ _ (by omega)]; exact ih (by omega)
      · exact ih (by omega)

theorem State.writeLine_memOk (s : State) (line : Nat) (mask : BitVec 128) (data : BitVec 1024) (h : s.memOk = true) :
    (s.writeLine line mask data).memOk = true := writeMasked_ok _ _ _ _ _ h

/-- Writing a line leaves alone every byte that is not one of its masked bytes. -/
theorem State.byte_writeLine_other (s : State) (line a : Nat) (mask : BitVec 128) (data : BitVec 1024)
    (h : ∀ i, i < 128 → mask.getLsbD i = true → a ≠ 128 * line + i) : (s.writeLine line mask data).byte a = s.byte a :=
  writeMasked_other _ _ _ _ _ _ h

theorem State.byte_writeLine (s : State) (line i : Nat) (mask : BitVec 128) (data : BitVec 1024) (h : i < 128)
    (hm : mask.getLsbD i = true) : (s.writeLine line mask data).byte (128 * line + i) = data.extractLsb' (8 * i) 8 :=
  writeMasked_byte _ _ _ _ _ _ h hm

theorem State.clearRange_memOk (s : State) (lo n : Nat) (h : s.memOk = true) : (s.clearRange lo n).memOk = true :=
  NMap.ok_filter _ _ _ h

/-- A state with the same memory has it in the same form. -/
theorem State.memOk_congr {s t : State} (e : t.mem = s.mem) (h : s.memOk = true) : t.memOk = true := by
  rw [State.memOk, e]; exact h

theorem State.reset_memOk : State.reset.memOk = true := rfl

end Sys2Proof.Machine
end

