-- ==== Sys2Proof/Laws/Registers.lean ====
section
/-! SUPPORT. What each operation on registers does and leaves alone (07 R189 to R193; 06 R155, R157). -/

set_option Elab.async false

namespace Sys2Proof.Machine

theorem SameThread.refl (x : Thread) : SameThread x x := ⟨fun _ => rfl, fun _ => rfl, fun _ => rfl, fun _ => rfl, rfl⟩

theorem SameThread.trans {x y z : Thread} (h : SameThread x y) (g : SameThread y z) : SameThread x z :=
  ⟨fun r => (g.sval r).trans (h.sval r), fun r => (g.staint r).trans (h.staint r), fun r => (g.vval r).trans (h.vval r),
    fun r => (g.vtaint r).trans (h.vtaint r), g.rest.trans h.rest⟩

/-! ## Spilling (07 R192) -/

/-- A table whose entries change keeps the rest of each entry, where the entry of no key keeps it too. -/
theorem NMap.get_map_congr {α β : Type} (d : α) (f : α → α) (g : α → β) (h : ∀ a, g (f a) = g a) (m : NMap α) (r : Nat) :
    g (NMap.get d (m.map (fun p => (p.1, f p.2))) r) = g (NMap.get d m r) := by
  induction m with
  | nil => rfl
  | cons p m ih =>
    simp only [List.map_cons, NMap.get]
    split
    · exact h _
    · split
      · rfl
      · exact ih

/-- One entry of a spilled table: only its mapping may change. -/
abbrev movedS (id : Nat) (o : SReg) : SReg := if o.map = .physical ∧ o.id = id then { o with map := .spilled } else o
abbrev movedV (id : Nat) (o : VReg) : VReg := if o.map = .physical ∧ o.id = id then { o with map := .spilled } else o
theorem movedS_val (id : Nat) (o : SReg) : (movedS id o).val = o.val := by simp only [movedS]; split <;> rfl
theorem movedS_taint (id : Nat) (o : SReg) : (movedS id o).taint = o.taint := by simp only [movedS]; split <;> rfl
theorem movedV_val (id : Nat) (o : VReg) : (movedV id o).val = o.val := by simp only [movedV]; split <;> rfl
theorem movedV_taint (id : Nat) (o : VReg) : (movedV id o).taint = o.taint := by simp only [movedV]; split <;> rfl

theorem held_spillIn (m : NMap SReg) (id : Nat) :
    (spillIn m id).map (fun p => (p.1, p.2.held)) = m.map (fun p => (p.1, p.2.held)) := by
  simp only [spillIn, List.map_map]
  refine List.map_congr_left (fun p _ => ?_)
  simp only [Function.comp_apply]
  split <;> rfl

theorem held_spillInV (m : NMap VReg) (id : Nat) :
    (spillInV m id).map (fun p => (p.1, p.2.held)) = m.map (fun p => (p.1, p.2.held)) := by
  simp only [spillInV, List.map_map]
  refine List.map_congr_left (fun p _ => ?_)
  simp only [Function.comp_apply]
  split <;> rfl

theorem Child.held_spillS (id : Nat) (c : Child) : (c.spillS id).held = c.held := by
  simp only [Child.held, Child.spillS, held_spillIn]
theorem Child.held_spillV (id : Nat) (c : Child) : (c.spillV id).held = c.held := by
  simp only [Child.held, Child.spillV, held_spillInV]

/-- Spilling changes no value and no taint. -/
theorem SameThread.spillS (id : Nat) (x : Thread) : SameThread x (x.spillS id) := by
  refine ⟨fun r => ?_, fun r => ?_, fun _ => rfl, fun _ => rfl, ?_⟩
  · simp only [Thread.sval]; split
    · rfl
    · exact NMap.get_map_congr {} (movedS id) SReg.val (movedS_val id) x.s r
  · simp only [Thread.staint]; split
    · rfl
    · exact NMap.get_map_congr {} (movedS id) SReg.taint (movedS_taint id) x.s r
  · simp only [Thread.bare, Thread.spillS, Ckpt.held, held_spillIn, List.map_map, Function.comp_def, Child.held_spillS]

theorem SameThread.spillV (id : Nat) (x : Thread) : SameThread x (x.spillV id) := by
  refine ⟨fun _ => rfl, fun _ => rfl, fun r => ?_, fun r => ?_, ?_⟩
  · exact NMap.get_map_congr {} (movedV id) VReg.val (movedV_val id) x.v r
  · exact NMap.get_map_congr {} (movedV id) VReg.taint (movedV_taint id) x.v r
  · simp only [Thread.bare, Thread.spillV, Ckpt.held, held_spillInV, List.map_map, Function.comp_def, Child.held_spillV]

theorem State.updThread_outside (s : State) (t : Nat) (f : Thread → Thread) : (s.updThread t f).outside = s.outside := rfl
theorem State.updCore_outside (s : State) (k : Nat) (f : Core → Core) : (s.updCore k f).outside = s.outside := rfl

theorem State.updThreads_outside (f : Thread → Thread) (ts : List Nat) (s : State) : (s.updThreads f ts).outside = s.outside := by
  induction ts generalizing s with
  | nil => rfl
  | cons t ts ih => exact ih _

theorem State.updThreads_core (f : Thread → Thread) (ts : List Nat) (s : State) (k : Nat) : (s.updThreads f ts).core k = s.core k := by
  induction ts generalizing s with
  | nil => rfl
  | cons t ts ih => exact ih _

/-- An update of threads that changes none of their values. -/
theorem State.updThreads_thread (f : Thread → Thread) (h : ∀ x, SameThread x (f x)) (ts : List Nat) (s : State) (u : Nat) :
    SameThread (s.thread u) ((s.updThreads f ts).thread u) := by
  induction ts generalizing s with
  | nil => exact SameThread.refl _
  | cons t ts ih =>
    refine SameThread.trans ?_ (ih _)
    rw [State.thread_updThread]
    split
    · next e => rw [e]; exact h _
    · exact SameThread.refl _

/-- `makeRoom` gives the state as it was, or with one physical register of the core spilled. -/
theorem State.makeRoom_cases (s : State) (t : Nat) (vec : Bool) :
    s.makeRoom t vec = s ∨ ∃ id, s.makeRoom t vec = s.spill (coreOf t) vec id := by
  cases vec
  · simp only [State.makeRoom, Bool.false_eq_true, if_false]
    split
    · exact .inl rfl
    · split
      · exact .inl rfl
      · exact .inr ⟨_, rfl⟩
  · simp only [State.makeRoom, if_true]
    split
    · exact .inl rfl
    · split
      · exact .inl rfl
      · exact .inr ⟨_, rfl⟩

/-- `makeRoom` changes no value and no taint of any thread. -/
theorem State.makeRoom_thread (s : State) (t : Nat) (vec : Bool) (u : Nat) :
    SameThread (s.thread u) ((s.makeRoom t vec).thread u) := by
  rcases s.makeRoom_cases t vec with h | ⟨id, h⟩ <;> rw [h]
  · exact SameThread.refl _
  · cases vec
    · exact State.updThreads_thread _ (SameThread.spillS id) _ _ _
    · exact State.updThreads_thread _ (SameThread.spillV id) _ _ _

theorem State.makeRoom_outside (s : State) (t : Nat) (vec : Bool) : (s.makeRoom t vec).outside = s.outside := by
  rcases s.makeRoom_cases t vec with h | ⟨id, h⟩ <;> rw [h]
  exact State.updThreads_outside _ _ _

theorem State.makeRoom_core (s : State) (t : Nat) (vec : Bool) (k : Nat) : (s.makeRoom t vec).core k = s.core k := by
  rcases s.makeRoom_cases t vec with h | ⟨id, h⟩ <;> rw [h]
  exact State.updThreads_core _ _ _ _

/-- What agrees outside threads and cores agrees in memory and in the issuing thread's number. -/
theorem State.cur_of_outside {s t : State} (h : t.outside = s.outside) : t.cur = s.cur := by
  show t.outside.cur = s.outside.cur; rw [h]
theorem State.mem_of_outside {s t : State} (h : t.outside = s.outside) : t.mem = s.mem := by
  show t.outside.mem = s.outside.mem; rw [h]

/-! ## Consuming sources -/

/-- A thread without its scalar and vector registers, the lists of physical registers and those its instruction uses. -/
def Thread.unread (x : Thread) : Thread := { x with s := [], v := [], limbo := [], limboV := [], inUse := [] }

/-- What consuming sources keeps of a thread. -/
structure ConsumeFrame (os : List Opnd) (x y : Thread) : Prop where
  scalars : ∀ r, lastS os r = false → y.sval r = x.sval r ∧ y.staint r = x.staint r
  vectors : ∀ r, lastV os r = false → y.vval r = x.vval r ∧ y.vtaint r = x.vtaint r
  rest : y.unread = x.unread

theorem Thread.consume_frame (now : Nat) (x : Thread) (o : Opnd) : ConsumeFrame [o] x (x.consume now o) := by
  cases o with
  | s r l =>
    simp only [Thread.consume]
    split
    · exact ⟨fun _ _ => ⟨rfl, rfl⟩, fun _ _ => ⟨rfl, rfl⟩, rfl⟩
    · next h0 =>
      split
      · next hl =>
        refine ⟨fun q hq => ?_, fun _ _ => ⟨rfl, rfl⟩, rfl⟩
        have : q ≠ r.toNat := by
          intro e; subst e
          have h1 : ¬ r = 0#5 := h0
          simp [lastS, hl, h1] at hq
        simp only [Thread.sval, Thread.staint, NMap.get_set_ne _ _ _ _ _ this, and_self]
      · split
        · exact ⟨fun _ _ => ⟨rfl, rfl⟩, fun _ _ => ⟨rfl, rfl⟩, rfl⟩
        · refine ⟨fun q _ => ?_, fun _ _ => ⟨rfl, rfl⟩, rfl⟩
          simp only [Thread.sval, Thread.staint, NMap.get_set]
          by_cases e : q = r.toNat
          · simp [e]
          · simp [e]
  | v r l =>
    simp only [Thread.consume]
    split
    · next hl =>
      refine ⟨fun _ _ => ⟨rfl, rfl⟩, fun q hq => ?_, rfl⟩
      have : q ≠ r.toNat := by
        intro e; subst e
        simp [lastV, hl] at hq
      simp only [Thread.vval, Thread.vtaint, NMap.get_set_ne _ _ _ _ _ this, and_self]
    · split
      · exact ⟨fun _ _ => ⟨rfl, rfl⟩, fun _ _ => ⟨rfl, rfl⟩, rfl⟩
      · refine ⟨fun _ _ => ⟨rfl, rfl⟩, fun q _ => ?_, rfl⟩
        simp only [Thread.vval, Thread.vtaint, NMap.get_set]
        constructor <;> (split <;> simp_all)
  | k r => exact ⟨fun _ _ => ⟨rfl, rfl⟩, fun _ _ => ⟨rfl, rfl⟩, rfl⟩

theorem Thread.consumeAll_frame (now : Nat) (os : List Opnd) (x : Thread) :
    ConsumeFrame os x (os.foldl (Thread.consume now) x) := by
  induction os generalizing x with
  | nil => exact ⟨fun _ _ => ⟨rfl, rfl⟩, fun _ _ => ⟨rfl, rfl⟩, rfl⟩
  | cons o os ih =>
    have h := x.consume_frame now o
    have g := ih (x.consume now o)
    have e1 : ∀ r, lastS (o :: os) r = false → lastS [o] r = false ∧ lastS os r = false := by
      intro r hr
      simp only [lastS, List.any_cons, List.any_nil, Bool.or_false, Bool.or_eq_false_iff] at hr ⊢
      exact hr
    have e2 : ∀ r, lastV (o :: os) r = false → lastV [o] r = false ∧ lastV os r = false := by
      intro r hr
      simp only [lastV, List.any_cons, List.any_nil, Bool.or_false, Bool.or_eq_false_iff] at hr ⊢
      exact hr
    refine ⟨fun r hr => ?_, fun r hr => ?_, ?_⟩
    · have a := h.scalars r (e1 r hr).1
      have b := g.scalars r (e1 r hr).2
      exact ⟨b.1.trans a.1, b.2.trans a.2⟩
    · have a := h.vectors r (e2 r hr).1
      have b := g.vectors r (e2 r hr).2
      exact ⟨b.1.trans a.1, b.2.trans a.2⟩
    · exact g.rest.trans h.rest

theorem ConsumeFrame.k {os : List Opnd} {x y : Thread} (h : ConsumeFrame os x y) : y.k = x.k := by
  show y.unread.k = x.unread.k; rw [h.rest]

theorem State.consume_me (s : State) (os : List Opnd) : ConsumeFrame os s.me (s.consume s.cur os).me := by
  have h : (s.consume s.cur os).me = { os.foldl (Thread.consume s.cycle) s.me with inUse := os.filterMap Opnd.reg } :=
    State.thread_updThread_same s s.cur _
  have g := Thread.consumeAll_frame s.cycle os s.me
  rw [h]; exact ⟨g.scalars, g.vectors, g.rest⟩

theorem State.consume_other (s : State) (os : List Opnd) (u : Nat) (h : u ≠ s.cur) :
    (s.consume s.cur os).thread u = s.thread u := State.thread_updThread_ne _ _ _ _ h

/-! ## Writing registers -/

/-- The thread that writes, once it has noted the register, and room is made. -/
theorem State.roomFor_thread (s : State) (t : Nat) (vec : Bool) (rs : List (Bool × Nat)) (u : Nat) :
    SameThread ((s.updThread t (Thread.uses rs)).thread u) (((s.updThread t (Thread.uses rs)).makeRoom t vec).thread u) :=
  State.makeRoom_thread _ t vec u

/-- A register write: the thread with its new register, the others as `makeRoom` leaves them. -/
theorem State.setS_thread (s : State) (t r : Nat) (v : Word) (g : BitVec 8) (hr : r ≠ 0) :
    ∃ x, SameThread ((s.thread t).uses [(false, r)]) x ∧ ∃ id limbo, (s.setS t r v g).thread t =
      { x with s := NMap.set {} x.s r ⟨v, g, .physical, id, s.cycle⟩, limbo := limbo } := by
  have h := s.roomFor_thread t false [(false, r)] t
  rw [State.thread_updThread_same] at h
  refine ⟨_, h, ?_⟩
  simp only [State.setS, if_neg hr, State.thread_updThread_same, State.thread_updCore]
  exact ⟨_, _, rfl⟩

theorem State.setS_other (s : State) (t r : Nat) (v : Word) (g : BitVec 8) (u : Nat) (hu : u ≠ t) :
    SameThread (s.thread u) ((s.setS t r v g).thread u) := by
  simp only [State.setS]
  split
  · exact SameThread.refl _
  · rw [State.thread_updThread_ne _ _ _ _ hu, State.thread_updCore]
    have h := s.roomFor_thread t false [(false, r)] u
    rwa [State.thread_updThread_ne _ _ _ _ hu] at h

theorem State.setS_outside (s : State) (t r : Nat) (v : Word) (g : BitVec 8) : (s.setS t r v g).outside = s.outside := by
  simp only [State.setS]
  split
  · rfl
  · rw [State.updThread_outside, State.updCore_outside, State.makeRoom_outside, State.updThread_outside]

theorem State.setS_core (s : State) (t r : Nat) (v : Word) (g : BitVec 8) (k : Nat) :
    ((s.setS t r v g).core k).plain = (s.core k).plain := by
  simp only [State.setS]
  split
  · rfl
  · rw [State.core_updThread, State.core_updCore]
    split
    · next h => subst h; rw [State.makeRoom_core]; rfl
    · rw [State.makeRoom_core]; rfl

theorem State.setV_thread (s : State) (t r : Nat) (v : BitVec 512) (g : BitVec 8) :
    ∃ x, SameThread ((s.thread t).uses [(true, r)]) x ∧ ∃ id limbo, (s.setV t r v g).thread t =
      { x with v := NMap.set {} x.v r ⟨v, g, .physical, id, s.cycle⟩, limboV := limbo } := by
  have h := s.roomFor_thread t true [(true, r)] t
  rw [State.thread_updThread_same] at h
  refine ⟨_, h, ?_⟩
  simp only [State.setV, State.thread_updThread_same, State.thread_updCore]
  exact ⟨_, _, rfl⟩

theorem State.setV_other (s : State) (t r : Nat) (v : BitVec 512) (g : BitVec 8) (u : Nat) (hu : u ≠ t) :
    SameThread (s.thread u) ((s.setV t r v g).thread u) := by
  simp only [State.setV]
  rw [State.thread_updThread_ne _ _ _ _ hu, State.thread_updCore]
  have h := s.roomFor_thread t true [(true, r)] u
  rwa [State.thread_updThread_ne _ _ _ _ hu] at h

theorem State.setV_outside (s : State) (t r : Nat) (v : BitVec 512) (g : BitVec 8) : (s.setV t r v g).outside = s.outside := by
  simp only [State.setV]
  rw [State.updThread_outside, State.updCore_outside, State.makeRoom_outside, State.updThread_outside]

theorem State.setV_core (s : State) (t r : Nat) (v : BitVec 512) (g : BitVec 8) (k : Nat) :
    ((s.setV t r v g).core k).plain = (s.core k).plain := by
  simp only [State.setV]
  rw [State.core_updThread, State.core_updCore]
  split
  · next h => subst h; rw [State.makeRoom_core]; rfl
  · rw [State.makeRoom_core]; rfl

/-! ## What a register write keeps of its thread -/

theorem Ckpt.held_held (c : Ckpt) : c.held.held = c.held := by
  simp only [Ckpt.held, List.map_map, Function.comp_def, SReg.held, VReg.held]
theorem Child.held_held (c : Child) : c.held.held = c.held := by
  simp only [Child.held, List.map_map, Function.comp_def, SReg.held, VReg.held]

theorem Thread.bare_plain (x : Thread) : x.bare.plain = x.plain := by
  simp only [Thread.plain, Thread.bare, Ckpt.held_held, List.map_map, Function.comp_def, Child.held_held]

theorem Thread.plain_of_bare {x y : Thread} (h : y.bare = x.bare) : y.plain = x.plain := by
  rw [← y.bare_plain, h, x.bare_plain]

theorem Thread.plain_of_unread {x y : Thread} (h : y.unread = x.unread) : y.plain = x.plain := by
  have e : y.unread.plain = x.unread.plain := by rw [h]
  exact e

/-- What a write of one kind of register leaves of a thread beside that kind: masks, what is plain, run state, rounding state, pc. -/
structure KeptRest (x y : Thread) : Prop where
  k : y.k = x.k
  plain : y.plain = x.plain
  run : y.run = x.run
  srseed : y.srseed = x.srseed
  pc : y.pc = x.pc

theorem KeptRest.of_bare {x y : Thread} (h : y.bare = x.bare) : KeptRest x y := by
  refine ⟨?_, Thread.plain_of_bare h, ?_, ?_, ?_⟩
  · show y.bare.k = x.bare.k; rw [h]
  · show y.bare.run = x.bare.run; rw [h]
  · show y.bare.srseed = x.bare.srseed; rw [h]
  · show y.bare.pc = x.bare.pc; rw [h]

theorem State.setS_keeps (s : State) (t r : Nat) (v : Word) (g : BitVec 8) :
    ((s.setS t r v g).thread t).vval = (s.thread t).vval ∧ ((s.setS t r v g).thread t).vtaint = (s.thread t).vtaint ∧
    KeptRest (s.thread t) ((s.setS t r v g).thread t) := by
  by_cases hr : r = 0
  · rw [State.setS, if_pos hr]; exact ⟨rfl, rfl, ⟨rfl, rfl, rfl, rfl, rfl⟩⟩
  · obtain ⟨x, hx, id, l, e⟩ := s.setS_thread t r v g hr
    have h := KeptRest.of_bare hx.rest
    rw [e]
    exact ⟨funext hx.vval, funext hx.vtaint, ⟨h.k, h.plain, h.run, h.srseed, h.pc⟩⟩

theorem State.setV_keeps (s : State) (t r : Nat) (v : BitVec 512) (g : BitVec 8) :
    ((s.setV t r v g).thread t).sval = (s.thread t).sval ∧ ((s.setV t r v g).thread t).staint = (s.thread t).staint ∧
    KeptRest (s.thread t) ((s.setV t r v g).thread t) := by
  obtain ⟨x, hx, id, l, e⟩ := s.setV_thread t r v g
  have h := KeptRest.of_bare hx.rest
  rw [e]
  exact ⟨funext hx.sval, funext hx.staint, ⟨h.k, h.plain, h.run, h.srseed, h.pc⟩⟩

theorem State.setS_mem (s : State) (t r : Nat) (v : Word) (g : BitVec 8) : (s.setS t r v g).mem = s.mem :=
  State.mem_of_outside (s.setS_outside t r v g)

theorem State.setV_mem (s : State) (t r : Nat) (v : BitVec 512) (g : BitVec 8) : (s.setV t r v g).mem = s.mem :=
  State.mem_of_outside (s.setV_outside t r v g)

theorem State.setK_mem (s : State) (t r : Nat) (v : BitVec 16) (g : BitVec 8) : (s.setK t r v g).mem = s.mem := by
  simp only [State.setK]; split <;> rfl

/-- Reading a scalar register that was written; s0 stays 0. -/
theorem State.sval_setS (s : State) (t r : Nat) (v : Word) (g : BitVec 8) :
    ((s.setS t r v g).thread t).sval r = if r = 0 then 0 else v := by
  by_cases hr : r = 0
  · simp [Thread.sval, hr]
  · obtain ⟨x, -, id, l, h⟩ := s.setS_thread t r v g hr
    rw [h]; simp [Thread.sval, hr]

theorem State.staint_setS (s : State) (t r : Nat) (v : Word) (g : BitVec 8) :
    ((s.setS t r v g).thread t).staint r = if r = 0 then 0 else g := by
  by_cases hr : r = 0
  · simp [Thread.staint, hr]
  · obtain ⟨x, -, id, l, h⟩ := s.setS_thread t r v g hr
    rw [h]; simp [Thread.staint, hr]

/-- Another scalar register keeps its value and its taint. -/
theorem State.sval_setS_ne (s : State) (t r q : Nat) (v : Word) (g : BitVec 8) (h : q ≠ r) :
    ((s.setS t r v g).thread t).sval q = (s.thread t).sval q ∧ ((s.setS t r v g).thread t).staint q = (s.thread t).staint q := by
  by_cases hr : r = 0
  · simp [State.setS, hr]
  · obtain ⟨x, hx, id, l, e⟩ := s.setS_thread t r v g hr
    have a := hx.sval q
    have b := hx.staint q
    rw [e]
    simp only [Thread.sval, Thread.staint, NMap.get_set_ne _ _ _ _ _ h] at a b ⊢
    exact ⟨a, b⟩

theorem State.vval_setV (s : State) (t r : Nat) (v : BitVec 512) (g : BitVec 8) :
    ((s.setV t r v g).thread t).vval r = v ∧ ((s.setV t r v g).thread t).vtaint r = g := by
  obtain ⟨x, -, id, l, h⟩ := s.setV_thread t r v g
  rw [h]; simp [Thread.vval, Thread.vtaint]

theorem State.vval_setV_ne (s : State) (t r q : Nat) (v : BitVec 512) (g : BitVec 8) (h : q ≠ r) :
    ((s.setV t r v g).thread t).vval q = (s.thread t).vval q ∧ ((s.setV t r v g).thread t).vtaint q = (s.thread t).vtaint q := by
  obtain ⟨x, hx, id, l, e⟩ := s.setV_thread t r v g
  have a := hx.vval q
  have b := hx.vtaint q
  rw [e]
  simp only [Thread.vval, Thread.vtaint, NMap.get_set_ne _ _ _ _ _ h] at a b ⊢
  exact ⟨a, b⟩

/-! ## Rotation -/

theorem Core.leave_plain (c : Core) (t : Nat) : (c.leave t).plain = c.plain := by
  simp only [Core.leave]
  split
  · rfl
  · split <;> rfl

theorem Core.enter_plain (c : Core) (t now : Nat) : (c.enter t now).plain = c.plain := by
  simp only [Core.enter]
  split
  · rfl
  · split
    · rfl
    · split
      · rfl
      · split <;> rfl

theorem Core.requeue_plain (c : Core) (t now : Nat) : (c.requeue t now).plain = c.plain :=
  (Core.enter_plain _ t now).trans (c.leave_plain t)

theorem Core.rotate_plain (c : Core) (t : Nat) : (c.rotate t).plain = c.plain := c.leave_plain t

theorem Core.issued_plain (c : Core) (t : Nat) : (c.issued t).plain = c.plain := by
  simp only [Core.issued]
  split
  · rfl
  · split
    · rfl
    · split
      · exact c.rotate_plain t
      · rfl

theorem State.me_retire (s : State) (len : Nat) :
    (s.retire len).me = { s.me with pfx := false, boundary := false, pc := s.me.pc + BitVec.ofNat 64 len } := by
  simp only [State.retire, State.me, State.updMe, State.thread_updCore, State.updCore_cur, State.updThread_cur,
    State.thread_updThread_same]

theorem State.me_retireTo (s : State) (a : Word) :
    (s.retireTo a).me = { s.me with pfx := false, boundary := false, pc := a } := by
  simp only [State.retireTo, State.me, State.updMe, State.thread_updCore, State.updCore_cur, State.updThread_cur,
    State.thread_updThread_same]

theorem State.retire_other (s : State) (len u : Nat) (h : u ≠ s.cur) : (s.retire len).thread u = s.thread u := by
  simp only [State.retire, State.updMe, State.thread_updCore, State.thread_updThread_ne _ _ _ _ h]

theorem State.retireTo_other (s : State) (a : Word) (u : Nat) (h : u ≠ s.cur) : (s.retireTo a).thread u = s.thread u := by
  simp only [State.retireTo, State.updMe, State.thread_updCore, State.thread_updThread_ne _ _ _ _ h]

theorem State.retire_outside (s : State) (len : Nat) : (s.retire len).outside = s.outside := rfl
theorem State.retireTo_outside (s : State) (a : Word) : (s.retireTo a).outside = s.outside := rfl

theorem State.retire_core (s : State) (len k : Nat) : ((s.retire len).core k).plain = (s.core k).plain := by
  simp only [State.retire, State.core_updCore]
  split
  · next h => subst h; exact Core.issued_plain _ _
  · rfl

theorem State.retireTo_core (s : State) (a : Word) (k : Nat) : ((s.retireTo a).core k).plain = (s.core k).plain := by
  simp only [State.retireTo, State.core_updCore]
  split
  · next h => subst h; exact Core.issued_plain _ _
  · rfl

theorem State.me_stop (s : State) (r : RunState) : (s.stop s.cur r).me = { s.me with run := r } := by
  simp only [State.stop, State.me, State.thread_updCore, State.updCore_cur, State.updThread_cur, State.thread_updThread_same]

theorem State.stop_other (s : State) (t u : Nat) (r : RunState) (h : u ≠ t) : (s.stop t r).thread u = s.thread u := by
  simp only [State.stop, State.thread_updCore, State.thread_updThread_ne _ _ _ _ h]

theorem State.stop_outside (s : State) (t : Nat) (r : RunState) : (s.stop t r).outside = s.outside := rfl

theorem State.stop_core (s : State) (t : Nat) (r : RunState) (k : Nat) : ((s.stop t r).core k).plain = (s.core k).plain := by
  simp only [State.stop, State.core_updCore]
  split
  · next h => subst h; exact Core.leave_plain _ _
  · rfl

end Sys2Proof.Machine
end

