-- ==== Sys2Proof/Laws/Issue.lean ====
section
/-! SUPPORT. How an instruction on registers ends: its result, its frame, and how the prelude of an instruction answers. -/

set_option Elab.async false

namespace Sys2Proof.Machine

/-! ## Before the issue step -/

theorem State.refilled_ok {s : State} {os : List Opnd} (h : spilledOf s.me os = none) : s.refilled os = .ok () := by
  simp only [State.refilled, h]

/-- The outcome of an instruction that may issue and whose body then answers `r`. -/
theorem settle_ok (s t : State) : settle s (.ok t) = .next t := rfl

theorem scalarOp_next (s : State) (os : List Opnd) (d : BitVec 5) (v : Word) (h : s.canIssue .any .plain {} os) :
    scalarOp s os d v = .next (s.putS os d v 4) := by
  simp only [scalarOp, h.1, State.refilled_ok h.2, bind, Except.bind, settle]

theorem scalarLongOp_next (s : State) (os : List Opnd) (d : BitVec 5) (v : Word) (n : Nat) (h : s.canIssue .any .plain {} os) :
    scalarLongOp s os d v n = .next ((s.putS os d v 4).longLatency n) := by
  simp only [scalarLongOp, h.1, State.refilled_ok h.2, bind, Except.bind, settle]

theorem scalarFp_ok (s : State) (os : List Opnd) (d : BitVec 5) (f : Mode → Coded) (m : Mode) (h : s.canIssue .any .fp m os) :
    scalarFp s os d f = .ok ((s.updMe (fun x => { x with srseed := (f m).2 })).putS os d (BitVec.ofNat 64 (f m).1) 4) := by
  simp only [scalarFp, h.1, State.refilled_ok h.2, bind, Except.bind]

theorem laneOp_next (s : State) (srcs : List Opnd) (k : BitVec 3) (d : BitVec 5) (readsD : Bool) (len : Nat)
    (f : Nat → BitVec 32) (h : s.canIssue .core .plain {} (laneOps srcs k d readsD)) :
    laneOp s srcs k d readsD len f = .next (s.putV (laneOps srcs k d readsD) d (maskedLanes (s.maskOf k) (s.vx d) f)
      (taintOf s.me (laneOps srcs k d readsD)) len) := by
  simp only [laneOp, h.1, State.refilled_ok h.2, bind, Except.bind, settle]

theorem vfpBody_ok (s : State) (u : Use) (srcs : List Opnd) (k : BitVec 3) (d : BitVec 5) (readsD : Bool) (len : Nat)
    (f : Mode → Nat → BitVec 32 → Coded) (m : Mode) (h : s.canIssue .core u m (laneOps srcs k d readsD)) :
    vfpBody s u srcs k d readsD len f = .ok ((s.updMe (fun x => { x with
        srseed := (roundedLanes (s.maskOf k) (s.vx d) (f m) (List.range 16) s.me.srseed).2 })).putV (laneOps srcs k d readsD) d
      (ofLanes (roundedLanes (s.maskOf k) (s.vx d) (f m) (List.range 16) s.me.srseed).1)
      (taintOf s.me (laneOps srcs k d readsD)) len) := by
  simp only [vfpBody, h.1, State.refilled_ok h.2, bind, Except.bind]

theorem maskOp_next (s : State) (srcs : List Opnd) (k d : BitVec 3) (f : Nat → Bool)
    (h : s.canIssue .core .plain {} (maskOps srcs k d)) :
    maskOp s srcs k d f = .next (s.putK (maskOps srcs k d) d (maskBits (s.maskOf k) (s.maskOf d) f) 4) := by
  simp only [maskOp, h.1, State.refilled_ok h.2, bind, Except.bind, settle]

theorem laneScalarOp_next (s : State) (os : List Opnd) (d : BitVec 5) (v : Word) (h : s.canIssue .core .plain {} os) :
    laneScalarOp s os d v = .next (s.putS os d v 4) := by
  simp only [laneScalarOp, h.1, State.refilled_ok h.2, bind, Except.bind, settle]

theorem allLanesOp_next (s : State) (os : List Opnd) (d : BitVec 5) (f : Nat → BitVec 32) (h : s.canIssue .core .plain {} os) :
    allLanesOp s os d f = .next (s.putV os d (ofLanes ((List.range 16).map f)) (taintOf s.me os) 4) := by
  simp only [allLanesOp, h.1, State.refilled_ok h.2, bind, Except.bind, settle]

/-! ## Lanes of a vector built lane by lane -/

theorem lane_foldr (ls : List (BitVec 32)) (j : Nat) (hj : j < 16) (i : Nat) (hi : i < 32) :
    (ofLanes ls).getLsbD (32 * j + i) = (ls.getD j 0).getLsbD i := by
  induction ls generalizing j with
  | nil => simp [ofLanes]
  | cons x ls ih =>
    rw [show ofLanes (x :: ls) = (ofLanes ls <<< 32) ||| x.zeroExtend 512 from rfl]
    simp only [BitVec.getLsbD_or, BitVec.getLsbD_shiftLeft, BitVec.getLsbD_setWidth]
    cases j with
    | zero =>
      simp [show i < 512 by omega, show i < 32 from hi]
    | succ j =>
      have h1 : 32 * (j + 1) + i - 32 = 32 * j + i := by omega
      have h2 : ¬ (32 * (j + 1) + i < 32) := by omega
      have h3 : 32 * (j + 1) + i < 512 := by omega
      have h4 : x.getLsbD (32 * (j + 1) + i) = false := BitVec.getLsbD_of_ge _ _ (by omega)
      simp only [h1, h2, h3, h4, decide_true, decide_false, Bool.not_false, Bool.true_and, Bool.and_false, Bool.or_false,
        ih j (by omega), List.getD_cons_succ]

/-- A lane of a vector built from its lanes. -/
theorem lane_ofLanes (ls : List (BitVec 32)) (j : Nat) (hj : j < 16) : lane (ofLanes ls) j = ls.getD j 0 := by
  ext i hi
  simp only [lane, BitVec.getElem_extractLsb', lane_foldr ls j hj i hi]
  exact BitVec.getLsbD_eq_getElem hi

theorem lane_map (f : Nat → BitVec 32) (j : Nat) (hj : j < 16) : lane (ofLanes ((List.range 16).map f)) j = f j := by
  rw [lane_ofLanes _ _ hj]
  simp [List.getD_eq_getElem?_getD, hj]

theorem lane_maskedLanes (mask : BitVec 16) (old : BitVec 512) (f : Nat → BitVec 32) (j : Nat) (hj : j < 16) :
    lane (maskedLanes mask old f) j = if active mask j then f j else lane old j := lane_map _ j hj

/-! ## Results -/

theorem Opnd.taint_congr {x y : Thread} (hs : y.s = x.s) (hv : y.v = x.v) (hk : y.k = x.k) (o : Opnd) : o.taint y = o.taint x := by
  cases o <;> simp only [Opnd.taint, Thread.staint, Thread.vtaint, Thread.ktaint, hs, hv, hk]

theorem taintOf_congr {x y : Thread} (hs : y.s = x.s) (hv : y.v = x.v) (hk : y.k = x.k) (os : List Opnd) :
    taintOf y os = taintOf x os := by
  simp only [taintOf, Opnd.taint_congr hs hv hk]

/-- The pieces of a thread that stay as they are when its sources are consumed and one register is written. -/
theorem State.consume_outside (s : State) (os : List Opnd) : (s.consume s.cur os).outside = s.outside := rfl

theorem State.consume_core (s : State) (t : Nat) (os : List Opnd) (k : Nat) : (s.consume t os).core k = s.core k := rfl

theorem kval_congr {x y : Thread} (h : y.k = x.k) (r : Nat) : y.kval r = x.kval r ∧ y.ktaint r = x.ktaint r := by
  simp only [Thread.kval, Thread.ktaint, h, and_self]

/-- A scalar result: what `putS` leaves. -/
theorem State.putS_wrote (s : State) (os : List Opnd) (d : BitVec 5) (v : Word) :
    WroteS s (s.putS os d v 4) os d v s.me.run s.me.srseed := by
  have hc := s.consume_me os
  set s1 := s.consume s.cur os with e1
  have ho1 : s1.outside = s.outside := s.consume_outside os
  have hcur1 : s1.cur = s.cur := rfl
  set s2 := s1.setS s.cur d.toNat v (taintOf s.me os) with e2
  have ho2 : s2.outside = s.outside := (State.setS_outside _ _ _ _ _).trans ho1
  have hcur2 : s2.cur = s.cur := State.cur_of_outside ho2
  have he : s.putS os d v 4 = s2.retire 4 := rfl
  have hme2 : s2.me = s2.thread s.cur := by rw [State.me, hcur2]
  have hs : ∀ r, r ≠ d.toNat → s2.me.sval r = s1.me.sval r ∧ s2.me.staint r = s1.me.staint r := by
    intro r hr; rw [hme2]; exact State.sval_setS_ne s1 s.cur d.toNat r v _ hr
  have hrest : s2.me.vval = s1.me.vval ∧ s2.me.vtaint = s1.me.vtaint ∧ KeptRest s1.me s2.me := by
    rw [hme2]; exact State.setS_keeps s1 s.cur d.toNat v _
  have hun : s1.me.unread = s.me.unread := hc.rest
  have hk1 : s1.me.k = s.me.k := hc.k
  have hme : (s2.retire 4).me = { s2.me with pfx := false, boundary := false, pc := s2.me.pc + BitVec.ofNat 64 4 } := s2.me_retire 4
  rw [he]
  refine ⟨⟨?_, ?_, ?_, ?_, ?_, ?_, ?_, ?_, ?_⟩, ⟨?_, ?_⟩, ?_, ?_⟩
  · intro r hd hl
    have h1 : r ≠ d.toNat := by simpa [onlyReg] using hd
    rw [hme]
    have a := hs r h1
    have b := hc.scalars r hl
    exact ⟨a.1.trans b.1, a.2.trans b.2⟩
  · intro r _ hl
    rw [hme]
    have b := hc.vectors r hl
    exact ⟨(congrFun hrest.1 r).trans b.1, (congrFun hrest.2.1 r).trans b.2⟩
  · intro r _
    rw [hme]
    exact kval_congr (hrest.2.2.k.trans hk1) r
  · rw [hme]
    exact hrest.2.2.plain.trans (Thread.plain_of_unread hun)
  · rw [hme]
    refine hrest.2.2.run.trans ?_
    show s1.me.unread.run = s.me.unread.run; rw [hun]
  · rw [hme]
    refine hrest.2.2.srseed.trans ?_
    show s1.me.unread.srseed = s.me.unread.srseed; rw [hun]
  · intro u hu
    rw [State.retire_other _ _ _ (by rw [hcur2]; exact hu)]
    have h1 : s1.thread u = s.thread u := s.consume_other os u hu
    rw [← h1]
    exact State.setS_other s1 s.cur d.toNat v _ u hu
  · intro k
    exact (State.retire_core _ _ _).trans ((State.setS_core s1 _ _ _ _ k).trans rfl)
  · exact ho2
  · rw [hme]
    show s2.me.pc + _ = _
    rw [hrest.2.2.pc]
    have : s1.me.pc = s.me.pc := by show s1.me.unread.pc = s.me.unread.pc; rw [hun]
    rw [this]
  · rw [hme]
  · rw [hme]
    show s2.me.sval d.toNat = _
    rw [hme2]
    have := State.sval_setS s1 s.cur d.toNat v (taintOf s.me os)
    rw [show s2.thread s.cur = (s1.setS s.cur d.toNat v (taintOf s.me os)).thread s.cur from rfl, this]
    by_cases h0 : d = 0
    · rw [h0]; rfl
    · have : d.toNat ≠ 0 := fun h => h0 (BitVec.eq_of_toNat_eq h)
      rw [if_neg this, if_neg h0]
  · rw [hme]
    show s2.me.staint d.toNat = _
    rw [hme2]
    have := State.staint_setS s1 s.cur d.toNat v (taintOf s.me os)
    rw [show s2.thread s.cur = (s1.setS s.cur d.toNat v (taintOf s.me os)).thread s.cur from rfl, this]
    by_cases h0 : d = 0
    · rw [h0]; rfl
    · have : d.toNat ≠ 0 := fun h => h0 (BitVec.eq_of_toNat_eq h)
      rw [if_neg this, if_neg h0]

/-- A vector result: what `putV` leaves. -/
theorem State.putV_wrote (s : State) (os : List Opnd) (d : BitVec 5) (v : BitVec 512) (len : Nat) :
    WroteV s (s.putV os d v (taintOf s.me os) len) os d (lane v) len s.me.run s.me.srseed := by
  have hc := s.consume_me os
  set s1 := s.consume s.cur os with e1
  have ho1 : s1.outside = s.outside := s.consume_outside os
  set s2 := s1.setV s.cur d.toNat v (taintOf s.me os) with e2
  have ho2 : s2.outside = s.outside := (State.setV_outside _ _ _ _ _).trans ho1
  have hcur2 : s2.cur = s.cur := State.cur_of_outside ho2
  have he : s.putV os d v (taintOf s.me os) len = s2.retire len := rfl
  have hme2 : s2.me = s2.thread s.cur := by rw [State.me, hcur2]
  have hv : ∀ r, r ≠ d.toNat → s2.me.vval r = s1.me.vval r ∧ s2.me.vtaint r = s1.me.vtaint r := by
    intro r hr; rw [hme2]; exact State.vval_setV_ne s1 s.cur d.toNat r v _ hr
  have hrest : s2.me.sval = s1.me.sval ∧ s2.me.staint = s1.me.staint ∧ KeptRest s1.me s2.me := by
    rw [hme2]; exact State.setV_keeps s1 s.cur d.toNat v _
  have hun : s1.me.unread = s.me.unread := hc.rest
  have hk1 : s1.me.k = s.me.k := hc.k
  have hme : (s2.retire len).me = { s2.me with pfx := false, boundary := false, pc := s2.me.pc + BitVec.ofNat 64 len } := s2.me_retire len
  have hval : (s2.thread s.cur).vval d.toNat = v ∧ (s2.thread s.cur).vtaint d.toNat = taintOf s.me os :=
    State.vval_setV s1 s.cur d.toNat v (taintOf s.me os)
  have hoth : ∀ u, u ≠ s.cur → SameThread (s1.thread u) (s2.thread u) :=
    fun u hu => State.setV_other s1 s.cur d.toNat v _ u hu
  have hoth1 : ∀ u, u ≠ s.cur → s1.thread u = s.thread u := fun u hu => s.consume_other os u hu
  have hcore : ∀ k, (s2.core k).plain = (s.core k).plain := fun k => State.setV_core s1 _ _ _ _ k
  rw [he]
  clear_value s2 s1
  refine ⟨⟨?_, ?_, ?_, ?_, ?_, ?_, ?_, ?_, ?_⟩, ⟨?_, ?_⟩, ?_, ?_⟩
  · intro r _ hl
    rw [hme]
    have b := hc.scalars r hl
    exact ⟨(congrFun hrest.1 r).trans b.1, (congrFun hrest.2.1 r).trans b.2⟩
  · intro r hd hl
    have h1 : r ≠ d.toNat := by simpa [onlyReg] using hd
    rw [hme]
    have a := hv r h1
    have b := hc.vectors r hl
    exact ⟨a.1.trans b.1, a.2.trans b.2⟩
  · intro r _
    rw [hme]
    exact kval_congr (hrest.2.2.k.trans hk1) r
  · rw [hme]
    exact hrest.2.2.plain.trans (Thread.plain_of_unread hun)
  · rw [hme]
    refine hrest.2.2.run.trans ?_
    show s1.me.unread.run = s.me.unread.run; rw [hun]
  · rw [hme]
    refine hrest.2.2.srseed.trans ?_
    show s1.me.unread.srseed = s.me.unread.srseed; rw [hun]
  · intro u hu
    rw [State.retire_other _ _ _ (by rw [hcur2]; exact hu)]
    rw [← hoth1 u hu]
    exact hoth u hu
  · intro k
    exact (State.retire_core _ _ _).trans (hcore k)
  · exact ho2
  · rw [hme]
    show s2.me.pc + _ = _
    rw [hrest.2.2.pc]
    have : s1.me.pc = s.me.pc := by show s1.me.unread.pc = s.me.unread.pc; rw [hun]
    rw [this]
  · rw [hme]
  · intro j _
    rw [hme]
    show lane (s2.me.vval d.toNat) j = _
    rw [hme2, hval.1]
  · rw [hme]
    show s2.me.vtaint d.toNat = _
    rw [hme2, hval.2]

theorem getLsbD_boolsToNat (bs : List Bool) (i : Nat) : (boolsToNat bs).testBit i = bs.getD i false := by
  induction bs generalizing i with
  | nil => simp [boolsToNat]
  | cons b bs ih =>
    simp only [boolsToNat]
    cases i with
    | zero => cases b <;> simp [Nat.testBit_zero] <;> omega
    | succ i =>
      rw [Nat.testBit_succ, List.getD_cons_succ, ← ih i]
      congr 1
      cases b <;> simp <;> omega

/-- A bit of a mask result. -/
theorem maskBits_bit (mask old : BitVec 16) (f : Nat → Bool) (j : Nat) (hj : j < 16) :
    (maskBits mask old f).getLsbD j = if active mask j then f j else old.getLsbD j := by
  simp only [maskBits, BitVec.getLsbD_ofNat, getLsbD_boolsToNat, hj, decide_true, Bool.true_and]
  simp [List.getD_eq_getElem?_getD, hj]

/-- A mask result: what `putK` leaves. -/
theorem State.putK_wrote (s : State) (os : List Opnd) (d : BitVec 3) (v : BitVec 16) :
    WroteK s (s.putK os d v 4) os d (fun j => v.getLsbD j) := by
  have hc := s.consume_me os
  set s1 := s.consume s.cur os with e1
  have ho1 : s1.outside = s.outside := s.consume_outside os
  have hun : s1.me.unread = s.me.unread := hc.rest
  have hk1 : s1.me.k = s.me.k := hc.k
  have hcur1 : s1.cur = s.cur := rfl
  set s2 := s1.setK s.cur d.toNat v (taintOf s.me os) with e2
  have he : s.putK os d v 4 = s2.retire 4 := rfl
  have hcases : (d.toNat = 0 ∧ s2 = s1) ∨ (d.toNat ≠ 0 ∧
      s2 = s1.updThread s.cur (fun x => { x with k := NMap.set {} x.k d.toNat ⟨v, taintOf s.me os⟩ })) := by
    by_cases h0 : d.toNat = 0
    · exact .inl ⟨h0, by rw [e2, State.setK, if_pos h0]⟩
    · exact .inr ⟨h0, by rw [e2, State.setK, if_neg h0]⟩
  have ho2 : s2.outside = s.outside := by
    rcases hcases with ⟨_, h⟩ | ⟨_, h⟩ <;> rw [h]
    · exact ho1
    · rw [State.updThread_outside, ho1]
  have hcur2 : s2.cur = s.cur := State.cur_of_outside ho2
  have hme1 : s1.thread s.cur = s1.me := rfl
  have hme2 : (d.toNat = 0 ∧ s2.me = s1.me) ∨ (d.toNat ≠ 0 ∧
      s2.me = { s1.me with k := NMap.set {} s1.me.k d.toNat ⟨v, taintOf s.me os⟩ }) := by
    rcases hcases with ⟨h0, h⟩ | ⟨h0, h⟩
    · exact .inl ⟨h0, by rw [h]⟩
    · refine .inr ⟨h0, ?_⟩
      rw [State.me, hcur2, h, State.thread_updThread_same, hme1]
  have hoth : ∀ u, u ≠ s.cur → s2.thread u = s.thread u := by
    intro u hu
    rw [← s.consume_other os u hu]
    rcases hcases with ⟨_, h⟩ | ⟨_, h⟩ <;> rw [h]
    rw [State.thread_updThread_ne _ _ _ _ hu]
  have hcore : ∀ k, s2.core k = s.core k := by
    intro k
    rcases hcases with ⟨_, h⟩ | ⟨_, h⟩ <;> rw [h] <;> rfl
  have hme : (s2.retire 4).me = { s2.me with pfx := false, boundary := false, pc := s2.me.pc + BitVec.ofNat 64 4 } := s2.me_retire 4
  rw [he]
  clear_value s2 s1
  have hsame : s2.me.sval = s1.me.sval ∧ s2.me.staint = s1.me.staint ∧ s2.me.vval = s1.me.vval ∧ s2.me.vtaint = s1.me.vtaint ∧
      s2.me.plain = s1.me.plain ∧ s2.me.run = s1.me.run ∧ s2.me.srseed = s1.me.srseed ∧ s2.me.pc = s1.me.pc := by
    rcases hme2 with ⟨_, h⟩ | ⟨_, h⟩ <;> rw [h] <;> exact ⟨rfl, rfl, rfl, rfl, rfl, rfl, rfl, rfl⟩
  refine ⟨⟨?_, ?_, ?_, ?_, ?_, ?_, ?_, ?_, ?_⟩, ⟨?_, ?_⟩, ?_, ?_⟩
  · intro r _ hl
    rw [hme]
    have b := hc.scalars r hl
    exact ⟨(congrFun hsame.1 r).trans b.1, (congrFun hsame.2.1 r).trans b.2⟩
  · intro r _ hl
    rw [hme]
    have b := hc.vectors r hl
    exact ⟨(congrFun hsame.2.2.1 r).trans b.1, (congrFun hsame.2.2.2.1 r).trans b.2⟩
  · intro r hd
    have h1 : r ≠ d.toNat := by simpa [onlyReg] using hd
    rw [hme]
    show s2.me.kval r = _ ∧ s2.me.ktaint r = _
    rcases hme2 with ⟨_, h⟩ | ⟨_, h⟩ <;> rw [h]
    · exact kval_congr hk1 r
    · simp only [Thread.kval, Thread.ktaint, NMap.get_set_ne _ _ _ _ _ h1, hk1, and_self]
  · rw [hme]
    exact hsame.2.2.2.2.1.trans (Thread.plain_of_unread hun)
  · rw [hme]
    refine hsame.2.2.2.2.2.1.trans ?_
    show s1.me.unread.run = s.me.unread.run; rw [hun]
  · rw [hme]
    refine hsame.2.2.2.2.2.2.1.trans ?_
    show s1.me.unread.srseed = s.me.unread.srseed; rw [hun]
  · intro u hu
    rw [State.retire_other _ _ _ (by rw [hcur2]; exact hu), hoth u hu]
    exact SameThread.refl _
  · intro k
    rw [State.retire_core, hcore k]
  · exact ho2
  · rw [hme]
    show s2.me.pc + _ = _
    rw [hsame.2.2.2.2.2.2.2]
    have : s1.me.pc = s.me.pc := by show s1.me.unread.pc = s.me.unread.pc; rw [hun]
    rw [this]
  · rw [hme]
  · intro j hj
    rw [hme]
    show (s2.me.kval d.toNat).getLsbD j = _
    by_cases h0 : d = 0
    · subst h0
      rw [if_pos rfl]
      simp only [Thread.kval]
      rw [if_pos (by rfl)]
      revert j; decide
    · have hd : d.toNat ≠ 0 := fun h => h0 (BitVec.eq_of_toNat_eq h)
      rcases hme2 with ⟨h, _⟩ | ⟨_, h⟩
      · exact absurd h hd
      · rw [h, if_neg h0]; simp [Thread.kval, hd]
  · rw [hme]
    show s2.me.ktaint d.toNat = _
    by_cases h0 : d = 0
    · subst h0; rfl
    · have hd : d.toNat ≠ 0 := fun h => h0 (BitVec.eq_of_toNat_eq h)
      rcases hme2 with ⟨h, _⟩ | ⟨_, h⟩
      · exact absurd h hd
      · rw [h, if_neg h0]; simp [Thread.ktaint, hd]

/-! ## With a new stochastic-rounding state, and out of rotation -/

/-- The state with the issuing thread's stochastic-rounding state replaced. -/
abbrev State.reseed (s : State) (q : BitVec 32) : State := s.updMe (fun x => { x with srseed := q })

theorem State.me_reseed (s : State) (q : BitVec 32) : (s.reseed q).me = { s.me with srseed := q } := State.me_updMe s _

theorem RegFrame.reseed {s t : State} {os : List Opnd} {dS dV dK : Nat → Bool} {run : RunState} {q z : BitVec 32}
    (h : RegFrame (s.reseed q) t os dS dV dK run z) : RegFrame s t os dS dV dK run z := by
  have e := s.me_reseed q
  refine ⟨fun r a b => ?_, fun r a b => ?_, fun r a => ?_, ?_, h.run, h.seed, fun u hu => ?_, h.cores, h.rest⟩
  · have := h.scalars r a b; rw [e] at this; exact this
  · have := h.vectors r a b; rw [e] at this; exact this
  · have := h.masks r a; rw [e] at this; exact this
  · have := h.own; rw [e] at this; exact this
  · have := h.others u hu
    rw [show (s.reseed q).thread u = s.thread u from State.thread_updThread_ne s s.cur u _ hu] at this
    exact this

theorem taintOf_reseed (s : State) (q : BitVec 32) (os : List Opnd) : taintOf (s.reseed q).me os = taintOf s.me os := by
  rw [State.me_reseed]; exact taintOf_congr rfl rfl rfl os

theorem WroteS.reseed {s t : State} {os : List Opnd} {d : BitVec 5} {v : Word} {run : RunState} {q z : BitVec 32}
    (h : WroteS (s.reseed q) t os d v run z) : WroteS s t os d v run z := by
  refine ⟨h.frame.reseed, ⟨?_, h.issued.pfx⟩, h.val, ?_⟩
  · have := h.issued.pc; rw [State.me_reseed] at this; exact this
  · rw [← taintOf_reseed s q]; exact h.taint

theorem WroteV.reseed {s t : State} {os : List Opnd} {d : BitVec 5} {f : Nat → BitVec 32} {len : Nat} {run : RunState}
    {q z : BitVec 32} (h : WroteV (s.reseed q) t os d f len run z) : WroteV s t os d f len run z := by
  refine ⟨h.frame.reseed, ⟨?_, h.issued.pfx⟩, h.val, ?_⟩
  · have := h.issued.pc; rw [State.me_reseed] at this; exact this
  · rw [← taintOf_reseed s q]; exact h.taint

/-- A scalar result with a new stochastic-rounding state. -/
theorem State.putS_reseed_wrote (s : State) (os : List Opnd) (d : BitVec 5) (v : Word) (q : BitVec 32) :
    WroteS s ((s.reseed q).putS os d v 4) os d v s.me.run q := by
  have h := ((s.reseed q).putS_wrote os d v).reseed
  rw [State.me_reseed] at h; exact h

/-- A vector result with a new stochastic-rounding state. -/
theorem State.putV_reseed_wrote (s : State) (os : List Opnd) (d : BitVec 5) (v : BitVec 512) (len : Nat) (q : BitVec 32) :
    WroteV s ((s.reseed q).putV os d v (taintOf s.me os) len) os d (lane v) len s.me.run q := by
  have h := ((s.reseed q).putV_wrote os d v len).reseed
  rw [taintOf_reseed] at h
  rw [State.me_reseed] at h; exact h

theorem State.longLatency_me (s : State) (n : Nat) :
    (s.longLatency n).me = { s.me with run := .waiting (.latency (s.cycle + n)) } := s.me_stop _

theorem RegFrame.later {s t : State} {os : List Opnd} {dS dV dK : Nat → Bool} {run : RunState} {z : BitVec 32} (n : Nat)
    (h : RegFrame s t os dS dV dK run z) :
    RegFrame s (t.longLatency n) os dS dV dK (.waiting (.latency (s.cycle + n))) z := by
  have e := t.longLatency_me n
  have hcy : t.cycle = s.cycle := by
    show t.outside.cycle = s.outside.cycle; rw [h.rest]
  have hcur : t.cur = s.cur := State.cur_of_outside h.rest
  refine ⟨fun r a b => ?_, fun r a b => ?_, fun r a => ?_, ?_, ?_, ?_, fun u hu => ?_, fun k => ?_, ?_⟩
  · rw [e]; exact h.scalars r a b
  · rw [e]; exact h.vectors r a b
  · rw [e]; exact h.masks r a
  · rw [e]; exact h.own
  · rw [e, ← hcy]
  · rw [e]; exact h.seed
  · rw [State.longLatency, State.stop_other _ _ _ _ (by rw [hcur]; exact hu)]; exact h.others u hu
  · rw [State.longLatency, State.stop_core]; exact h.cores k
  · exact h.rest

theorem WroteS.later {s t : State} {os : List Opnd} {d : BitVec 5} {v : Word} {run : RunState} {z : BitVec 32} (n : Nat)
    (h : WroteS s t os d v run z) : WroteS s (t.longLatency n) os d v (.waiting (.latency (s.cycle + n))) z := by
  have e := t.longLatency_me n
  refine ⟨h.frame.later n, ⟨?_, ?_⟩, ?_, ?_⟩ <;> rw [e]
  · exact h.issued.pc
  · exact h.issued.pfx
  · exact h.val
  · exact h.taint

theorem WroteV.later {s t : State} {os : List Opnd} {d : BitVec 5} {f : Nat → BitVec 32} {len : Nat} {run : RunState}
    {z : BitVec 32} (n : Nat) (h : WroteV s t os d f len run z) :
    WroteV s (t.longLatency n) os d f len (.waiting (.latency (s.cycle + n))) z := by
  have e := t.longLatency_me n
  refine ⟨h.frame.later n, ⟨?_, ?_⟩, ?_, ?_⟩ <;> rw [e]
  · exact h.issued.pc
  · exact h.issued.pfx
  · exact h.val
  · exact h.taint

theorem WroteV.congr {s t : State} {os : List Opnd} {d : BitVec 5} {f g : Nat → BitVec 32} {len : Nat} {run : RunState}
    {z : BitVec 32} (h : WroteV s t os d f len run z) (e : ∀ j, j < 16 → f j = g j) : WroteV s t os d g len run z :=
  ⟨h.frame, h.issued, fun j hj => (h.val j hj).trans (e j hj), h.taint⟩

theorem WroteK.congr {s t : State} {os : List Opnd} {d : BitVec 3} {f g : Nat → Bool} (h : WroteK s t os d f)
    (e : ∀ j, j < 16 → f j = g j) : WroteK s t os d g :=
  ⟨h.frame, h.issued, fun j hj => by rw [h.val j hj, e j hj], h.taint⟩

end Sys2Proof.Machine
end

