-- ==== Sys2Proof/Laws/PerInstr.lean ====
section
/-! SUPPORT. One lemma per constructor of Instr: an encoded well-formed instruction decodes to itself, whatever bytes follow. -/

set_option Elab.async false

namespace Sys2Proof.Laws

theorem decode32_01 (w : BitVec 32) (h : w.extractLsb' 1 6 = 1) : decode32 w = decodeIntRR (RR.ofWord w) := by
  unfold decode32; rw [h]; rfl

theorem decode32_02 (w : BitVec 32) (h : w.extractLsb' 1 6 = 2) : decode32 w = decodeAddi (RI.ofWord w) := by
  unfold decode32; rw [h]; rfl

theorem decode32_03 (w : BitVec 32) (h : w.extractLsb' 1 6 = 3) : decode32 w = decodeAndi (RI.ofWord w) := by
  unfold decode32; rw [h]; rfl

theorem decode32_04 (w : BitVec 32) (h : w.extractLsb' 1 6 = 4) : decode32 w = decodeOri (RI.ofWord w) := by
  unfold decode32; rw [h]; rfl

theorem decode32_05 (w : BitVec 32) (h : w.extractLsb' 1 6 = 5) : decode32 w = decodeXori (RI.ofWord w) := by
  unfold decode32; rw [h]; rfl

theorem decode32_06 (w : BitVec 32) (h : w.extractLsb' 1 6 = 6) : decode32 w = decodeShiftImm (RI.ofWord w) := by
  unfold decode32; rw [h]; rfl

theorem decode32_07 (w : BitVec 32) (h : w.extractLsb' 1 6 = 7) : decode32 w = decodeCmpImm (RI.ofWord w) := by
  unfold decode32; rw [h]; rfl

theorem decode32_08 (w : BitVec 32) (h : w.extractLsb' 1 6 = 8) : decode32 w = decodeLui (U.ofWord w) := by
  unfold decode32; rw [h]; rfl

theorem decode32_09 (w : BitVec 32) (h : w.extractLsb' 1 6 = 9) : decode32 w = decodeLeapc (U.ofWord w) := by
  unfold decode32; rw [h]; rfl

theorem decode32_0a (w : BitVec 32) (h : w.extractLsb' 1 6 = 10) : decode32 w = decodeBit (BF.ofWord w) := by
  unfold decode32; rw [h]; rfl

theorem decode32_0b (w : BitVec 32) (h : w.extractLsb' 1 6 = 11) : decode32 w = decodeMulDiv (RR.ofWord w) := by
  unfold decode32; rw [h]; rfl

theorem decode32_0c (w : BitVec 32) (h : w.extractLsb' 1 6 = 12) : decode32 w = decodeScalarFp (RR.ofWord w) := by
  unfold decode32; rw [h]; rfl

theorem decode32_0d (w : BitVec 32) (h : w.extractLsb' 1 6 = 13) : decode32 w = decodeBranch (BR.ofWord w) := by
  unfold decode32; rw [h]; rfl

theorem decode32_0e (w : BitVec 32) (h : w.extractLsb' 1 6 = 14) : decode32 w = decodeJump (J.ofWord w) := by
  unfold decode32; rw [h]; rfl

theorem decode32_0f (w : BitVec 32) (h : w.extractLsb' 1 6 = 15) : decode32 w = decodeJumpReg (RI.ofWord w) := by
  unfold decode32; rw [h]; rfl

theorem decode32_10 (w : BitVec 32) (h : w.extractLsb' 1 6 = 16) : decode32 w = decodeLoad (M.ofWord w) := by
  unfold decode32; rw [h]; rfl

theorem decode32_11 (w : BitVec 32) (h : w.extractLsb' 1 6 = 17) : decode32 w = decodeStore (M.ofWord w) := by
  unfold decode32; rw [h]; rfl

theorem decode32_12 (w : BitVec 32) (h : w.extractLsb' 1 6 = 18) : decode32 w = decodeMulti (M.ofWord w) := by
  unfold decode32; rw [h]; rfl

theorem decode32_13 (w : BitVec 32) (h : w.extractLsb' 1 6 = 19) : decode32 w = decodeAtomic (RR.ofWord w) := by
  unfold decode32; rw [h]; rfl

theorem decode32_14 (w : BitVec 32) (h : w.extractLsb' 1 6 = 20) : decode32 w = decodeFence (RR.ofWord w) := by
  unfold decode32; rw [h]; rfl

theorem decode32_15 (w : BitVec 32) (h : w.extractLsb' 1 6 = 21) : decode32 w = decodeBarrier (RR.ofWord w) := by
  unfold decode32; rw [h]; rfl

theorem decode32_16 (w : BitVec 32) (h : w.extractLsb' 1 6 = 22) : decode32 w = decodeMessage (RR.ofWord w) := by
  unfold decode32; rw [h]; rfl

theorem decode32_17 (w : BitVec 32) (h : w.extractLsb' 1 6 = 23) : decode32 w = decodeThread (TC.ofWord w) := by
  unfold decode32; rw [h]; rfl

theorem decode32_18 (w : BitVec 32) (h : w.extractLsb' 1 6 = 24) : decode32 w = decodeTask (TC.ofWord w) := by
  unfold decode32; rw [h]; rfl

theorem decode32_19 (w : BitVec 32) (h : w.extractLsb' 1 6 = 25) : decode32 w = decodeTile (RR.ofWord w) := by
  unfold decode32; rw [h]; rfl

theorem decode32_1a (w : BitVec 32) (h : w.extractLsb' 1 6 = 26) : decode32 w = decodeMatrix (X.ofWord w) := by
  unfold decode32; rw [h]; rfl

theorem decode32_1b (w : BitVec 32) (h : w.extractLsb' 1 6 = 27) : decode32 w = decodeCopy (X.ofWord w) := by
  unfold decode32; rw [h]; rfl

theorem decode32_1c (w : BitVec 32) (h : w.extractLsb' 1 6 = 28) : decode32 w = decodeStream (RI.ofWord w) := by
  unfold decode32; rw [h]; rfl

theorem decode32_1d (w : BitVec 32) (h : w.extractLsb' 1 6 = 29) : decode32 w = decodeCsr (RI.ofWord w) := by
  unfold decode32; rw [h]; rfl

theorem decode32_1e (w : BitVec 32) (h : w.extractLsb' 1 6 = 30) : decode32 w = decodeSystem (RR.ofWord w) := by
  unfold decode32; rw [h]; rfl

theorem decode32_1f (w : BitVec 32) (h : w.extractLsb' 1 6 = 31) : decode32 w = decodePrefix (P.ofWord w) := by
  unfold decode32; rw [h]; rfl

theorem decode32_20 (w : BitVec 32) (h : w.extractLsb' 1 6 = 32) : decode32 w = decodeVint (VX.ofWord w) := by
  unfold decode32; rw [h]; rfl

theorem decode32_21 (w : BitVec 32) (h : w.extractLsb' 1 6 = 33) : decode32 w = decodeVfp (VX.ofWord w) := by
  unfold decode32; rw [h]; rfl

theorem decode32_22 (w : BitVec 32) (h : w.extractLsb' 1 6 = 34) : decode32 w = decodeVcmp (VX.ofWord w) := by
  unfold decode32; rw [h]; rfl

theorem decode32_23 (w : BitVec 32) (h : w.extractLsb' 1 6 = 35) : decode32 w = decodeVcvt (VX.ofWord w) := by
  unfold decode32; rw [h]; rfl

theorem decode32_24 (w : BitVec 32) (h : w.extractLsb' 1 6 = 36) : decode32 w = decodeVperm (VX.ofWord w) := by
  unfold decode32; rw [h]; rfl

theorem decode32_25 (w : BitVec 32) (h : w.extractLsb' 1 6 = 37) : decode32 w = decodeVred (VX.ofWord w) := by
  unfold decode32; rw [h]; rfl

theorem decode32_26 (w : BitVec 32) (h : w.extractLsb' 1 6 = 38) : decode32 w = decodeVmask (VX.ofWord w) := by
  unfold decode32; rw [h]; rfl

theorem decode32_27 (w : BitVec 32) (h : w.extractLsb' 1 6 = 39) : decode32 w = decodeVload (VM.ofWord w) := by
  unfold decode32; rw [h]; rfl

theorem decode32_28 (w : BitVec 32) (h : w.extractLsb' 1 6 = 40) : decode32 w = decodeVstore (VM.ofWord w) := by
  unfold decode32; rw [h]; rfl

theorem decode32_29 (w : BitVec 32) (h : w.extractLsb' 1 6 = 41) : decode32 w = decodeVindex (VM.ofWord w) := by
  unfold decode32; rw [h]; rfl

theorem decode32_2a (w : BitVec 32) (h : w.extractLsb' 1 6 = 42) : decode32 w = decodeVnarrow (VX.ofWord w) := by
  unfold decode32; rw [h]; rfl

theorem decode32_2b (w : BitVec 32) (h : w.extractLsb' 1 6 = 43) : decode32 w = decodeVhist (VX.ofWord w) := by
  unfold decode32; rw [h]; rfl

theorem decode32_2c (w : BitVec 32) (h : w.extractLsb' 1 6 = 44) : decode32 w = decodeVintI (VX.ofWord w) := by
  unfold decode32; rw [h]; rfl

/-- The 32-bit instruction a format's word stands for, read back. -/
theorem word_round (w : BitVec 32) (i : Instr) (rest : List Byte) (h : w.getLsbD 0 = true) (e : decode32 w = .ok i) :
    decode ((Code.word w).bytes ++ rest) = .ok (i, rest) := by
  rw [decode_word w rest h, e]; rfl

theorem join6 (i : BitVec 6) : BitVec.ofBool (i.getLsbD 5) ++ i.extractLsb' 0 5 = i := by revert i; decide

theorem low3 (d : BitVec 3) : (BitVec.zeroExtend 5 d).extractLsb' 0 3 = d := by revert d; decide

theorem high3 (d : BitVec 3) : (BitVec.zeroExtend 5 d).extractLsb' 3 2 = 0 := by revert d; decide

/-- Decoding an encoded well-formed instruction gives it back, with the bytes that follow it. -/
def RoundTrip.Statement (i : Instr) : Prop :=
  i.wf = true → i.encoded = true → ∀ rest : List Byte, decode (encode i ++ rest) = .ok (i, rest)


theorem cut2 (k : BitVec 2) (i : BitVec 12) : BitVec.extractLsb' 12 2 (k ++ i) = k ∧ BitVec.extractLsb' 0 12 (k ++ i) = i := by
  refine ⟨?_, ?_⟩
  · rw [extract_hi (h := by decide)]; exact extract_all _
  · rw [extract_lo (h := by decide)]; exact extract_all _

theorem cutStream (k : BitVec 3) (c : BitVec 7) : BitVec.extractLsb' 11 3 (k ++ 0#4 ++ c) = k ∧
    BitVec.extractLsb' 7 4 (k ++ 0#4 ++ c) = 0#4 ∧ BitVec.extractLsb' 0 7 (k ++ 0#4 ++ c) = c := by
  refine ⟨?_, ?_, ?_⟩
  · rw [extract_hi (h := by decide), extract_hi (h := by decide)]; exact extract_all _
  · rw [extract_hi (h := by decide), extract_lo (h := by decide)]; exact extract_all _
  · rw [extract_lo (h := by decide)]; exact extract_all _

theorem cutShift (z : Bool) (k : BitVec 2) (c : BitVec 6) :
    BitVec.extractLsb' 6 2 (0#4 ++ 1#1 ++ BitVec.ofBool z ++ k ++ c) = k ∧
    BitVec.extractLsb' 10 4 (0#4 ++ 1#1 ++ BitVec.ofBool z ++ k ++ c) = 0#4 ∧
    BitVec.getLsbD (0#4 ++ 1#1 ++ BitVec.ofBool z ++ k ++ c) 9 = true ∧
    BitVec.getLsbD (0#4 ++ 1#1 ++ BitVec.ofBool z ++ k ++ c) 8 = z ∧
    BitVec.extractLsb' 0 6 (0#4 ++ 1#1 ++ BitVec.ofBool z ++ k ++ c) = c := by
  refine ⟨?_, ?_, ?_, ?_, ?_⟩
  · rw [extract_hi (h := by decide), extract_lo (h := by decide)]; exact extract_all _
  · rw [extract_hi (h := by decide), extract_hi (h := by decide), extract_hi (h := by decide),
      extract_hi (h := by decide)]; exact extract_all _
  · rw [bit_hi (h := by decide), bit_hi (h := by decide), bit_hi (h := by decide), bit_lo (h := by decide)]; rfl
  · rw [bit_hi (h := by decide), bit_hi (h := by decide), bit_lo (h := by decide)]; exact ofBool_bit _
  · rw [extract_lo (h := by decide)]; exact extract_all _

theorem zext3 (z : BitVec 2) : (BitVec.zeroExtend 3 z).getLsbD 2 = false ∧ (BitVec.zeroExtend 3 z).extractLsb' 0 2 = z := by
  revert z; decide

theorem zext5 (k : BitVec 4) : (BitVec.zeroExtend 5 k).getLsbD 4 = false ∧ (BitVec.zeroExtend 5 k).extractLsb' 0 4 = k := by
  revert k; decide

theorem bit3_bits (x y : Bool) : (bit3 x y).getLsbD 0 = x ∧ (bit3 x y).getLsbD 1 = y ∧ (bit3 x y).getLsbD 2 = false := by
  revert x y; decide

theorem bit3_high (x : Bool) : (bit3 x false).extractLsb' 1 2 = 0 := by revert x; decide

theorem cutHalf (m : Bool) (b d : BitVec 5) (op : BitVec 4) :
    (halfWord m b d op).getLsbD 0 = false ∧ (halfWord m b d op).extractLsb' 1 4 = op ∧
    (halfWord m b d op).getLsbD 15 = m ∧ (halfWord m b d op).extractLsb' 10 5 = b ∧ (halfWord m b d op).extractLsb' 5 5 = d := by
  simp only [halfWord]
  refine ⟨?_, ?_, ?_, ?_, ?_⟩
  · rw [bit_lo (h := by decide)]; rfl
  · rw [extract_hi (h := by decide), extract_lo (h := by decide)]; exact extract_all _
  · rw [bit_hi (h := by decide), bit_hi (h := by decide), bit_hi (h := by decide), bit_hi (h := by decide)]; exact ofBool_bit _
  · rw [extract_hi (h := by decide), extract_hi (h := by decide), extract_hi (h := by decide), extract_lo (h := by decide)]
    exact extract_all _
  · rw [extract_hi (h := by decide), extract_hi (h := by decide), extract_lo (h := by decide)]; exact extract_all _

theorem tlbiSize (t : Bool) (s : BitVec 2) : (BitVec.ofBool t ++ s).getLsbD 2 = t ∧ (BitVec.ofBool t ++ s).extractLsb' 0 2 = s := by
  revert t s; decide

theorem RoundTrip.add (z : Bool) (m : Bool) (n : Bool) (b : BitVec 5) (a : BitVec 5) (d : BitVec 5) : RoundTrip.Statement (.add z m n b a d) := by
  intro h _ rest
  refine word_round _ _ rest (RR.odd_toWord _ _) ?_
  rw [decode32_01 _ (RR.major_toWord _ _), RR.ofWord_toWord]
  cases z <;> rfl

theorem RoundTrip.sub (z : Bool) (m : Bool) (n : Bool) (b : BitVec 5) (a : BitVec 5) (d : BitVec 5) : RoundTrip.Statement (.sub z m n b a d) := by
  intro h _ rest
  refine word_round _ _ rest (RR.odd_toWord _ _) ?_
  rw [decode32_01 _ (RR.major_toWord _ _), RR.ofWord_toWord]
  cases z <;> rfl

theorem RoundTrip.and (z : Bool) (m : Bool) (n : Bool) (b : BitVec 5) (a : BitVec 5) (d : BitVec 5) : RoundTrip.Statement (.and z m n b a d) := by
  intro h _ rest
  refine word_round _ _ rest (RR.odd_toWord _ _) ?_
  rw [decode32_01 _ (RR.major_toWord _ _), RR.ofWord_toWord]
  cases z <;> rfl

theorem RoundTrip.or (z : Bool) (m : Bool) (n : Bool) (b : BitVec 5) (a : BitVec 5) (d : BitVec 5) : RoundTrip.Statement (.or z m n b a d) := by
  intro h _ rest
  refine word_round _ _ rest (RR.odd_toWord _ _) ?_
  rw [decode32_01 _ (RR.major_toWord _ _), RR.ofWord_toWord]
  cases z <;> rfl

theorem RoundTrip.xor (z : Bool) (m : Bool) (n : Bool) (b : BitVec 5) (a : BitVec 5) (d : BitVec 5) : RoundTrip.Statement (.xor z m n b a d) := by
  intro h _ rest
  refine word_round _ _ rest (RR.odd_toWord _ _) ?_
  rw [decode32_01 _ (RR.major_toWord _ _), RR.ofWord_toWord]
  cases z <;> rfl

theorem RoundTrip.andn (z : Bool) (m : Bool) (n : Bool) (b : BitVec 5) (a : BitVec 5) (d : BitVec 5) : RoundTrip.Statement (.andn z m n b a d) := by
  intro h _ rest
  refine word_round _ _ rest (RR.odd_toWord _ _) ?_
  rw [decode32_01 _ (RR.major_toWord _ _), RR.ofWord_toWord]
  cases z <;> rfl

theorem RoundTrip.sll (z : Bool) (m : Bool) (n : Bool) (b : BitVec 5) (a : BitVec 5) (d : BitVec 5) : RoundTrip.Statement (.sll z m n b a d) := by
  intro h _ rest
  refine word_round _ _ rest (RR.odd_toWord _ _) ?_
  rw [decode32_01 _ (RR.major_toWord _ _), RR.ofWord_toWord]
  cases z <;> rfl

theorem RoundTrip.srl (z : Bool) (m : Bool) (n : Bool) (b : BitVec 5) (a : BitVec 5) (d : BitVec 5) : RoundTrip.Statement (.srl z m n b a d) := by
  intro h _ rest
  refine word_round _ _ rest (RR.odd_toWord _ _) ?_
  rw [decode32_01 _ (RR.major_toWord _ _), RR.ofWord_toWord]
  cases z <;> rfl

theorem RoundTrip.sra (z : Bool) (m : Bool) (n : Bool) (b : BitVec 5) (a : BitVec 5) (d : BitVec 5) : RoundTrip.Statement (.sra z m n b a d) := by
  intro h _ rest
  refine word_round _ _ rest (RR.odd_toWord _ _) ?_
  rw [decode32_01 _ (RR.major_toWord _ _), RR.ofWord_toWord]
  cases z <;> rfl

theorem RoundTrip.ror (z : Bool) (m : Bool) (n : Bool) (b : BitVec 5) (a : BitVec 5) (d : BitVec 5) : RoundTrip.Statement (.ror z m n b a d) := by
  intro h _ rest
  refine word_round _ _ rest (RR.odd_toWord _ _) ?_
  rw [decode32_01 _ (RR.major_toWord _ _), RR.ofWord_toWord]
  cases z <;> rfl

theorem RoundTrip.min (z : Bool) (m : Bool) (n : Bool) (b : BitVec 5) (a : BitVec 5) (d : BitVec 5) : RoundTrip.Statement (.min z m n b a d) := by
  intro h _ rest
  refine word_round _ _ rest (RR.odd_toWord _ _) ?_
  rw [decode32_01 _ (RR.major_toWord _ _), RR.ofWord_toWord]
  cases z <;> rfl

theorem RoundTrip.max (z : Bool) (m : Bool) (n : Bool) (b : BitVec 5) (a : BitVec 5) (d : BitVec 5) : RoundTrip.Statement (.max z m n b a d) := by
  intro h _ rest
  refine word_round _ _ rest (RR.odd_toWord _ _) ?_
  rw [decode32_01 _ (RR.major_toWord _ _), RR.ofWord_toWord]
  cases z <;> rfl

theorem RoundTrip.minu (z : Bool) (m : Bool) (n : Bool) (b : BitVec 5) (a : BitVec 5) (d : BitVec 5) : RoundTrip.Statement (.minu z m n b a d) := by
  intro h _ rest
  refine word_round _ _ rest (RR.odd_toWord _ _) ?_
  rw [decode32_01 _ (RR.major_toWord _ _), RR.ofWord_toWord]
  cases z <;> rfl

theorem RoundTrip.maxu (z : Bool) (m : Bool) (n : Bool) (b : BitVec 5) (a : BitVec 5) (d : BitVec 5) : RoundTrip.Statement (.maxu z m n b a d) := by
  intro h _ rest
  refine word_round _ _ rest (RR.odd_toWord _ _) ?_
  rw [decode32_01 _ (RR.major_toWord _ _), RR.ofWord_toWord]
  cases z <;> rfl

theorem RoundTrip.slt (z : Bool) (m : Bool) (n : Bool) (b : BitVec 5) (a : BitVec 5) (d : BitVec 5) : RoundTrip.Statement (.slt z m n b a d) := by
  intro h _ rest
  refine word_round _ _ rest (RR.odd_toWord _ _) ?_
  rw [decode32_01 _ (RR.major_toWord _ _), RR.ofWord_toWord]
  cases z <;> rfl

theorem RoundTrip.sltu (z : Bool) (m : Bool) (n : Bool) (b : BitVec 5) (a : BitVec 5) (d : BitVec 5) : RoundTrip.Statement (.sltu z m n b a d) := by
  intro h _ rest
  refine word_round _ _ rest (RR.odd_toWord _ _) ?_
  rw [decode32_01 _ (RR.major_toWord _ _), RR.ofWord_toWord]
  cases z <;> rfl

theorem RoundTrip.seq (z : Bool) (m : Bool) (n : Bool) (b : BitVec 5) (a : BitVec 5) (d : BitVec 5) : RoundTrip.Statement (.seq z m n b a d) := by
  intro h _ rest
  refine word_round _ _ rest (RR.odd_toWord _ _) ?_
  rw [decode32_01 _ (RR.major_toWord _ _), RR.ofWord_toWord]
  cases z <;> rfl

theorem RoundTrip.sne (z : Bool) (m : Bool) (n : Bool) (b : BitVec 5) (a : BitVec 5) (d : BitVec 5) : RoundTrip.Statement (.sne z m n b a d) := by
  intro h _ rest
  refine word_round _ _ rest (RR.odd_toWord _ _) ?_
  rw [decode32_01 _ (RR.major_toWord _ _), RR.ofWord_toWord]
  cases z <;> rfl

theorem RoundTrip.cmovz (m : Bool) (n : Bool) (b : BitVec 5) (a : BitVec 5) (d : BitVec 5) : RoundTrip.Statement (.cmovz m n b a d) := by
  intro h _ rest
  refine word_round _ _ rest (RR.odd_toWord _ _) ?_
  rw [decode32_01 _ (RR.major_toWord _ _), RR.ofWord_toWord]
  first | rfl | exact if_pos (by simpa [Instr.wf] using h)

theorem RoundTrip.cmovnz (m : Bool) (n : Bool) (b : BitVec 5) (a : BitVec 5) (d : BitVec 5) : RoundTrip.Statement (.cmovnz m n b a d) := by
  intro h _ rest
  refine word_round _ _ rest (RR.odd_toWord _ _) ?_
  rw [decode32_01 _ (RR.major_toWord _ _), RR.ofWord_toWord]
  first | rfl | exact if_pos (by simpa [Instr.wf] using h)

theorem RoundTrip.clz (z : Bool) (n : Bool) (a : BitVec 5) (d : BitVec 5) : RoundTrip.Statement (.clz z n a d) := by
  intro h _ rest
  refine word_round _ _ rest (RR.odd_toWord _ _) ?_
  rw [decode32_01 _ (RR.major_toWord _ _), RR.ofWord_toWord]
  cases z <;> rfl

theorem RoundTrip.ctz (z : Bool) (n : Bool) (a : BitVec 5) (d : BitVec 5) : RoundTrip.Statement (.ctz z n a d) := by
  intro h _ rest
  refine word_round _ _ rest (RR.odd_toWord _ _) ?_
  rw [decode32_01 _ (RR.major_toWord _ _), RR.ofWord_toWord]
  cases z <;> rfl

theorem RoundTrip.popc (z : Bool) (n : Bool) (a : BitVec 5) (d : BitVec 5) : RoundTrip.Statement (.popc z n a d) := by
  intro h _ rest
  refine word_round _ _ rest (RR.odd_toWord _ _) ?_
  rw [decode32_01 _ (RR.major_toWord _ _), RR.ofWord_toWord]
  cases z <;> rfl

theorem RoundTrip.mul (z : Bool) (m : Bool) (n : Bool) (b : BitVec 5) (a : BitVec 5) (d : BitVec 5) : RoundTrip.Statement (.mul z m n b a d) := by
  intro h _ rest
  refine word_round _ _ rest (RR.odd_toWord _ _) ?_
  rw [decode32_0b _ (RR.major_toWord _ _), RR.ofWord_toWord]
  cases z <;> rfl

theorem RoundTrip.mulh (z : Bool) (m : Bool) (n : Bool) (b : BitVec 5) (a : BitVec 5) (d : BitVec 5) : RoundTrip.Statement (.mulh z m n b a d) := by
  intro h _ rest
  refine word_round _ _ rest (RR.odd_toWord _ _) ?_
  rw [decode32_0b _ (RR.major_toWord _ _), RR.ofWord_toWord]
  cases z <;> rfl

theorem RoundTrip.mulhu (z : Bool) (m : Bool) (n : Bool) (b : BitVec 5) (a : BitVec 5) (d : BitVec 5) : RoundTrip.Statement (.mulhu z m n b a d) := by
  intro h _ rest
  refine word_round _ _ rest (RR.odd_toWord _ _) ?_
  rw [decode32_0b _ (RR.major_toWord _ _), RR.ofWord_toWord]
  cases z <;> rfl

theorem RoundTrip.mulhsu (z : Bool) (m : Bool) (n : Bool) (b : BitVec 5) (a : BitVec 5) (d : BitVec 5) : RoundTrip.Statement (.mulhsu z m n b a d) := by
  intro h _ rest
  refine word_round _ _ rest (RR.odd_toWord _ _) ?_
  rw [decode32_0b _ (RR.major_toWord _ _), RR.ofWord_toWord]
  cases z <;> rfl

theorem RoundTrip.div (z : Bool) (m : Bool) (n : Bool) (b : BitVec 5) (a : BitVec 5) (d : BitVec 5) : RoundTrip.Statement (.div z m n b a d) := by
  intro h _ rest
  refine word_round _ _ rest (RR.odd_toWord _ _) ?_
  rw [decode32_0b _ (RR.major_toWord _ _), RR.ofWord_toWord]
  cases z <;> rfl

theorem RoundTrip.divu (z : Bool) (m : Bool) (n : Bool) (b : BitVec 5) (a : BitVec 5) (d : BitVec 5) : RoundTrip.Statement (.divu z m n b a d) := by
  intro h _ rest
  refine word_round _ _ rest (RR.odd_toWord _ _) ?_
  rw [decode32_0b _ (RR.major_toWord _ _), RR.ofWord_toWord]
  cases z <;> rfl

theorem RoundTrip.rem (z : Bool) (m : Bool) (n : Bool) (b : BitVec 5) (a : BitVec 5) (d : BitVec 5) : RoundTrip.Statement (.rem z m n b a d) := by
  intro h _ rest
  refine word_round _ _ rest (RR.odd_toWord _ _) ?_
  rw [decode32_0b _ (RR.major_toWord _ _), RR.ofWord_toWord]
  cases z <;> rfl

theorem RoundTrip.remu (z : Bool) (m : Bool) (n : Bool) (b : BitVec 5) (a : BitVec 5) (d : BitVec 5) : RoundTrip.Statement (.remu z m n b a d) := by
  intro h _ rest
  refine word_round _ _ rest (RR.odd_toWord _ _) ?_
  rw [decode32_0b _ (RR.major_toWord _ _), RR.ofWord_toWord]
  cases z <;> rfl

theorem RoundTrip.addi (i : BitVec 14) (n : Bool) (a : BitVec 5) (d : BitVec 5) : RoundTrip.Statement (.addi i n a d) := by
  intro h _ rest
  refine word_round _ _ rest (RI.odd_toWord _ _) ?_
  rw [decode32_02 _ (RI.major_toWord _ _), RI.ofWord_toWord]
  first | rfl | exact if_pos (by simpa [Instr.wf] using h)

theorem RoundTrip.andi (i : BitVec 14) (n : Bool) (a : BitVec 5) (d : BitVec 5) : RoundTrip.Statement (.andi i n a d) := by
  intro h _ rest
  refine word_round _ _ rest (RI.odd_toWord _ _) ?_
  rw [decode32_03 _ (RI.major_toWord _ _), RI.ofWord_toWord]
  first | rfl | exact if_pos (by simpa [Instr.wf] using h)

theorem RoundTrip.ori (i : BitVec 14) (n : Bool) (a : BitVec 5) (d : BitVec 5) : RoundTrip.Statement (.ori i n a d) := by
  intro h _ rest
  refine word_round _ _ rest (RI.odd_toWord _ _) ?_
  rw [decode32_04 _ (RI.major_toWord _ _), RI.ofWord_toWord]
  first | rfl | exact if_pos (by simpa [Instr.wf] using h)

theorem RoundTrip.xori (i : BitVec 14) (n : Bool) (a : BitVec 5) (d : BitVec 5) : RoundTrip.Statement (.xori i n a d) := by
  intro h _ rest
  refine word_round _ _ rest (RI.odd_toWord _ _) ?_
  rw [decode32_05 _ (RI.major_toWord _ _), RI.ofWord_toWord]
  first | rfl | exact if_pos (by simpa [Instr.wf] using h)

theorem RoundTrip.slli (z : Bool) (c : BitVec 6) (n : Bool) (a : BitVec 5) (d : BitVec 5) : RoundTrip.Statement (.slli z c n a d) := by
  intro h _ rest
  refine word_round _ _ rest (RI.odd_toWord _ _) ?_
  rw [decode32_06 _ (RI.major_toWord _ _), RI.ofWord_toWord]
  obtain ⟨e1, e2, e3, e4, e5⟩ := cutShift z 0#2 c
  simp only [decodeShiftImm, e1, e2, e3, e4, e5]
  exact if_pos (by simpa [Instr.wf] using h)

theorem RoundTrip.srli (z : Bool) (c : BitVec 6) (n : Bool) (a : BitVec 5) (d : BitVec 5) : RoundTrip.Statement (.srli z c n a d) := by
  intro h _ rest
  refine word_round _ _ rest (RI.odd_toWord _ _) ?_
  rw [decode32_06 _ (RI.major_toWord _ _), RI.ofWord_toWord]
  obtain ⟨e1, e2, e3, e4, e5⟩ := cutShift z 1#2 c
  simp only [decodeShiftImm, e1, e2, e3, e4, e5]
  exact if_pos (by simpa [Instr.wf] using h)

theorem RoundTrip.srai (z : Bool) (c : BitVec 6) (n : Bool) (a : BitVec 5) (d : BitVec 5) : RoundTrip.Statement (.srai z c n a d) := by
  intro h _ rest
  refine word_round _ _ rest (RI.odd_toWord _ _) ?_
  rw [decode32_06 _ (RI.major_toWord _ _), RI.ofWord_toWord]
  obtain ⟨e1, e2, e3, e4, e5⟩ := cutShift z 2#2 c
  simp only [decodeShiftImm, e1, e2, e3, e4, e5]
  exact if_pos (by simpa [Instr.wf] using h)

theorem RoundTrip.rori (z : Bool) (c : BitVec 6) (n : Bool) (a : BitVec 5) (d : BitVec 5) : RoundTrip.Statement (.rori z c n a d) := by
  intro h _ rest
  refine word_round _ _ rest (RI.odd_toWord _ _) ?_
  rw [decode32_06 _ (RI.major_toWord _ _), RI.ofWord_toWord]
  obtain ⟨e1, e2, e3, e4, e5⟩ := cutShift z 3#2 c
  simp only [decodeShiftImm, e1, e2, e3, e4, e5]
  exact if_pos (by simpa [Instr.wf] using h)

theorem RoundTrip.seqi (i : BitVec 12) (n : Bool) (a : BitVec 5) (d : BitVec 5) : RoundTrip.Statement (.seqi i n a d) := by
  intro h _ rest
  refine word_round _ _ rest (RI.odd_toWord _ _) ?_
  rw [decode32_07 _ (RI.major_toWord _ _), RI.ofWord_toWord]
  obtain ⟨e1, e2⟩ := cut2 0#2 i
  simp only [decodeCmpImm, e1, e2]; rfl

theorem RoundTrip.snei (i : BitVec 12) (n : Bool) (a : BitVec 5) (d : BitVec 5) : RoundTrip.Statement (.snei i n a d) := by
  intro h _ rest
  refine word_round _ _ rest (RI.odd_toWord _ _) ?_
  rw [decode32_07 _ (RI.major_toWord _ _), RI.ofWord_toWord]
  obtain ⟨e1, e2⟩ := cut2 1#2 i
  simp only [decodeCmpImm, e1, e2]; rfl

theorem RoundTrip.slti (i : BitVec 12) (n : Bool) (a : BitVec 5) (d : BitVec 5) : RoundTrip.Statement (.slti i n a d) := by
  intro h _ rest
  refine word_round _ _ rest (RI.odd_toWord _ _) ?_
  rw [decode32_07 _ (RI.major_toWord _ _), RI.ofWord_toWord]
  obtain ⟨e1, e2⟩ := cut2 2#2 i
  simp only [decodeCmpImm, e1, e2]; rfl

theorem RoundTrip.sltiu (i : BitVec 12) (n : Bool) (a : BitVec 5) (d : BitVec 5) : RoundTrip.Statement (.sltiu i n a d) := by
  intro h _ rest
  refine word_round _ _ rest (RI.odd_toWord _ _) ?_
  rw [decode32_07 _ (RI.major_toWord _ _), RI.ofWord_toWord]
  obtain ⟨e1, e2⟩ := cut2 3#2 i
  simp only [decodeCmpImm, e1, e2]; rfl

theorem RoundTrip.lui (i : BitVec 20) (d : BitVec 5) : RoundTrip.Statement (.lui i d) := by
  intro h _ rest
  refine word_round _ _ rest (U.odd_toWord _ _) ?_
  rw [decode32_08 _ (U.major_toWord _ _), U.ofWord_toWord]
  first | rfl | exact if_pos (by simpa [Instr.wf] using h)

theorem RoundTrip.leapc (i : BitVec 20) (d : BitVec 5) : RoundTrip.Statement (.leapc i d) := by
  intro h _ rest
  refine word_round _ _ rest (U.odd_toWord _ _) ?_
  rw [decode32_09 _ (U.major_toWord _ _), U.ofWord_toWord]
  first | rfl | exact if_pos (by simpa [Instr.wf] using h)

theorem RoundTrip.bfxu (l : BitVec 6) (p : BitVec 6) (n : Bool) (a : BitVec 5) (d : BitVec 5) : RoundTrip.Statement (.bfxu l p n a d) := by
  intro h _ rest
  refine word_round _ _ rest (BF.odd_toWord _ _) ?_
  rw [decode32_0a _ (BF.major_toWord _ _), BF.ofWord_toWord]
  exact if_pos (by simpa [Instr.wf] using h)

theorem RoundTrip.bfx (l : BitVec 6) (p : BitVec 6) (n : Bool) (a : BitVec 5) (d : BitVec 5) : RoundTrip.Statement (.bfx l p n a d) := by
  intro h _ rest
  refine word_round _ _ rest (BF.odd_toWord _ _) ?_
  rw [decode32_0a _ (BF.major_toWord _ _), BF.ofWord_toWord]
  exact if_pos (by simpa [Instr.wf] using h)

theorem RoundTrip.bfi (l : BitVec 6) (p : BitVec 6) (n : Bool) (a : BitVec 5) (d : BitVec 5) : RoundTrip.Statement (.bfi l p n a d) := by
  intro h _ rest
  refine word_round _ _ rest (BF.odd_toWord _ _) ?_
  rw [decode32_0a _ (BF.major_toWord _ _), BF.ofWord_toWord]
  exact if_pos (by simpa [Instr.wf] using h)

theorem RoundTrip.fadd (m : Bool) (n : Bool) (b : BitVec 5) (a : BitVec 5) (d : BitVec 5) : RoundTrip.Statement (.fadd m n b a d) := by
  intro h _ rest
  refine word_round _ _ rest (RR.odd_toWord _ _) ?_
  rw [decode32_0c _ (RR.major_toWord _ _), RR.ofWord_toWord]
  first | rfl | exact if_pos (by simpa [Instr.wf] using h)

theorem RoundTrip.fsub (m : Bool) (n : Bool) (b : BitVec 5) (a : BitVec 5) (d : BitVec 5) : RoundTrip.Statement (.fsub m n b a d) := by
  intro h _ rest
  refine word_round _ _ rest (RR.odd_toWord _ _) ?_
  rw [decode32_0c _ (RR.major_toWord _ _), RR.ofWord_toWord]
  first | rfl | exact if_pos (by simpa [Instr.wf] using h)

theorem RoundTrip.fmul (m : Bool) (n : Bool) (b : BitVec 5) (a : BitVec 5) (d : BitVec 5) : RoundTrip.Statement (.fmul m n b a d) := by
  intro h _ rest
  refine word_round _ _ rest (RR.odd_toWord _ _) ?_
  rw [decode32_0c _ (RR.major_toWord _ _), RR.ofWord_toWord]
  first | rfl | exact if_pos (by simpa [Instr.wf] using h)

theorem RoundTrip.fma (m : Bool) (n : Bool) (b : BitVec 5) (a : BitVec 5) (d : BitVec 5) : RoundTrip.Statement (.fma m n b a d) := by
  intro h _ rest
  refine word_round _ _ rest (RR.odd_toWord _ _) ?_
  rw [decode32_0c _ (RR.major_toWord _ _), RR.ofWord_toWord]
  first | rfl | exact if_pos (by simpa [Instr.wf] using h)

theorem RoundTrip.fdiv (m : Bool) (n : Bool) (b : BitVec 5) (a : BitVec 5) (d : BitVec 5) : RoundTrip.Statement (.fdiv m n b a d) := by
  intro h _ rest
  refine word_round _ _ rest (RR.odd_toWord _ _) ?_
  rw [decode32_0c _ (RR.major_toWord _ _), RR.ofWord_toWord]
  first | rfl | exact if_pos (by simpa [Instr.wf] using h)

theorem RoundTrip.fcmp (m : Bool) (n : Bool) (b : BitVec 5) (a : BitVec 5) (d : BitVec 5) : RoundTrip.Statement (.fcmp m n b a d) := by
  intro h _ rest
  refine word_round _ _ rest (RR.odd_toWord _ _) ?_
  rw [decode32_0c _ (RR.major_toWord _ _), RR.ofWord_toWord]
  first | rfl | exact if_pos (by simpa [Instr.wf] using h)

theorem RoundTrip.fcvtif (n : Bool) (a : BitVec 5) (d : BitVec 5) : RoundTrip.Statement (.fcvtif n a d) := by
  intro h _ rest
  refine word_round _ _ rest (RR.odd_toWord _ _) ?_
  rw [decode32_0c _ (RR.major_toWord _ _), RR.ofWord_toWord]
  first | rfl | exact if_pos (by simpa [Instr.wf] using h)

theorem RoundTrip.fcvtfi (n : Bool) (a : BitVec 5) (d : BitVec 5) : RoundTrip.Statement (.fcvtfi n a d) := by
  intro h _ rest
  refine word_round _ _ rest (RR.odd_toWord _ _) ?_
  rw [decode32_0c _ (RR.major_toWord _ _), RR.ofWord_toWord]
  first | rfl | exact if_pos (by simpa [Instr.wf] using h)

theorem RoundTrip.beq (i : BitVec 12) (b : BitVec 5) (a : BitVec 5) : RoundTrip.Statement (.beq i b a) := by
  intro h _ rest
  refine word_round _ _ rest (BR.odd_toWord _ _) ?_
  rw [decode32_0d _ (BR.major_toWord _ _), BR.ofWord_toWord]
  first | rfl | exact if_pos (by simpa [Instr.wf] using h)

theorem RoundTrip.bne (i : BitVec 12) (b : BitVec 5) (a : BitVec 5) : RoundTrip.Statement (.bne i b a) := by
  intro h _ rest
  refine word_round _ _ rest (BR.odd_toWord _ _) ?_
  rw [decode32_0d _ (BR.major_toWord _ _), BR.ofWord_toWord]
  first | rfl | exact if_pos (by simpa [Instr.wf] using h)

theorem RoundTrip.blt (i : BitVec 12) (b : BitVec 5) (a : BitVec 5) : RoundTrip.Statement (.blt i b a) := by
  intro h _ rest
  refine word_round _ _ rest (BR.odd_toWord _ _) ?_
  rw [decode32_0d _ (BR.major_toWord _ _), BR.ofWord_toWord]
  first | rfl | exact if_pos (by simpa [Instr.wf] using h)

theorem RoundTrip.bge (i : BitVec 12) (b : BitVec 5) (a : BitVec 5) : RoundTrip.Statement (.bge i b a) := by
  intro h _ rest
  refine word_round _ _ rest (BR.odd_toWord _ _) ?_
  rw [decode32_0d _ (BR.major_toWord _ _), BR.ofWord_toWord]
  first | rfl | exact if_pos (by simpa [Instr.wf] using h)

theorem RoundTrip.bltu (i : BitVec 12) (b : BitVec 5) (a : BitVec 5) : RoundTrip.Statement (.bltu i b a) := by
  intro h _ rest
  refine word_round _ _ rest (BR.odd_toWord _ _) ?_
  rw [decode32_0d _ (BR.major_toWord _ _), BR.ofWord_toWord]
  first | rfl | exact if_pos (by simpa [Instr.wf] using h)

theorem RoundTrip.bgeu (i : BitVec 12) (b : BitVec 5) (a : BitVec 5) : RoundTrip.Statement (.bgeu i b a) := by
  intro h _ rest
  refine word_round _ _ rest (BR.odd_toWord _ _) ?_
  rw [decode32_0d _ (BR.major_toWord _ _), BR.ofWord_toWord]
  first | rfl | exact if_pos (by simpa [Instr.wf] using h)

theorem RoundTrip.j (i : BitVec 20) : RoundTrip.Statement (.j i) := by
  intro h _ rest
  refine word_round _ _ rest (J.odd_toWord _ _) ?_
  rw [decode32_0e _ (J.major_toWord _ _), J.ofWord_toWord]
  first | rfl | exact if_pos (by simpa [Instr.wf] using h)

theorem RoundTrip.call (i : BitVec 20) (l : BitVec 5) : RoundTrip.Statement (.call i l) := by
  intro h _ rest
  refine word_round _ _ rest (J.odd_toWord _ _) ?_
  rw [decode32_0e _ (J.major_toWord _ _), J.ofWord_toWord]
  exact if_neg (by simpa [Instr.wf] using h)

theorem RoundTrip.jr (i : BitVec 14) (n : Bool) (a : BitVec 5) : RoundTrip.Statement (.jr i n a) := by
  intro h _ rest
  refine word_round _ _ rest (RI.odd_toWord _ _) ?_
  rw [decode32_0f _ (RI.major_toWord _ _), RI.ofWord_toWord]
  first | rfl | exact if_pos (by simpa [Instr.wf] using h)

theorem RoundTrip.callr (i : BitVec 14) (n : Bool) (a : BitVec 5) (d : BitVec 5) : RoundTrip.Statement (.callr i n a d) := by
  intro h _ rest
  refine word_round _ _ rest (RI.odd_toWord _ _) ?_
  rw [decode32_0f _ (RI.major_toWord _ _), RI.ofWord_toWord]
  exact if_neg (by simpa [Instr.wf] using h)

theorem RoundTrip.lb (o : BitVec 10) (n : Bool) (b : BitVec 5) (d : BitVec 5) : RoundTrip.Statement (.lb o n b d) := by
  intro h _ rest
  refine word_round _ _ rest (M.odd_toWord _ _) ?_
  rw [decode32_10 _ (M.major_toWord _ _), M.ofWord_toWord]
  first | rfl | exact if_pos (by simpa [Instr.wf] using h)

theorem RoundTrip.lh (o : BitVec 10) (n : Bool) (b : BitVec 5) (d : BitVec 5) : RoundTrip.Statement (.lh o n b d) := by
  intro h _ rest
  refine word_round _ _ rest (M.odd_toWord _ _) ?_
  rw [decode32_10 _ (M.major_toWord _ _), M.ofWord_toWord]
  first | rfl | exact if_pos (by simpa [Instr.wf] using h)

theorem RoundTrip.lw (o : BitVec 10) (n : Bool) (b : BitVec 5) (d : BitVec 5) : RoundTrip.Statement (.lw o n b d) := by
  intro h _ rest
  refine word_round _ _ rest (M.odd_toWord _ _) ?_
  rw [decode32_10 _ (M.major_toWord _ _), M.ofWord_toWord]
  first | rfl | exact if_pos (by simpa [Instr.wf] using h)

theorem RoundTrip.ld (o : BitVec 10) (n : Bool) (b : BitVec 5) (d : BitVec 5) : RoundTrip.Statement (.ld o n b d) := by
  intro h _ rest
  refine word_round _ _ rest (M.odd_toWord _ _) ?_
  rw [decode32_10 _ (M.major_toWord _ _), M.ofWord_toWord]
  first | rfl | exact if_pos (by simpa [Instr.wf] using h)

theorem RoundTrip.lbu (o : BitVec 10) (n : Bool) (b : BitVec 5) (d : BitVec 5) : RoundTrip.Statement (.lbu o n b d) := by
  intro h _ rest
  refine word_round _ _ rest (M.odd_toWord _ _) ?_
  rw [decode32_10 _ (M.major_toWord _ _), M.ofWord_toWord]
  first | rfl | exact if_pos (by simpa [Instr.wf] using h)

theorem RoundTrip.lhu (o : BitVec 10) (n : Bool) (b : BitVec 5) (d : BitVec 5) : RoundTrip.Statement (.lhu o n b d) := by
  intro h _ rest
  refine word_round _ _ rest (M.odd_toWord _ _) ?_
  rw [decode32_10 _ (M.major_toWord _ _), M.ofWord_toWord]
  first | rfl | exact if_pos (by simpa [Instr.wf] using h)

theorem RoundTrip.lwu (o : BitVec 10) (n : Bool) (b : BitVec 5) (d : BitVec 5) : RoundTrip.Statement (.lwu o n b d) := by
  intro h _ rest
  refine word_round _ _ rest (M.odd_toWord _ _) ?_
  rw [decode32_10 _ (M.major_toWord _ _), M.ofWord_toWord]
  first | rfl | exact if_pos (by simpa [Instr.wf] using h)

theorem RoundTrip.sb (o : BitVec 10) (m : Bool) (n : Bool) (b : BitVec 5) (d : BitVec 5) : RoundTrip.Statement (.sb o m n b d) := by
  intro h _ rest
  refine word_round _ _ rest (M.odd_toWord _ _) ?_
  rw [decode32_11 _ (M.major_toWord _ _), M.ofWord_toWord]
  first | rfl | exact if_pos (by simpa [Instr.wf] using h)

theorem RoundTrip.sh (o : BitVec 10) (m : Bool) (n : Bool) (b : BitVec 5) (d : BitVec 5) : RoundTrip.Statement (.sh o m n b d) := by
  intro h _ rest
  refine word_round _ _ rest (M.odd_toWord _ _) ?_
  rw [decode32_11 _ (M.major_toWord _ _), M.ofWord_toWord]
  first | rfl | exact if_pos (by simpa [Instr.wf] using h)

theorem RoundTrip.sw (o : BitVec 10) (m : Bool) (n : Bool) (b : BitVec 5) (d : BitVec 5) : RoundTrip.Statement (.sw o m n b d) := by
  intro h _ rest
  refine word_round _ _ rest (M.odd_toWord _ _) ?_
  rw [decode32_11 _ (M.major_toWord _ _), M.ofWord_toWord]
  first | rfl | exact if_pos (by simpa [Instr.wf] using h)

theorem RoundTrip.sd (o : BitVec 10) (m : Bool) (n : Bool) (b : BitVec 5) (d : BitVec 5) : RoundTrip.Statement (.sd o m n b d) := by
  intro h _ rest
  refine word_round _ _ rest (M.odd_toWord _ _) ?_
  rw [decode32_11 _ (M.major_toWord _ _), M.ofWord_toWord]
  first | rfl | exact if_pos (by simpa [Instr.wf] using h)

theorem RoundTrip.ldm (o : BitVec 10) (c : BitVec 3) (n : Bool) (b : BitVec 5) (d : BitVec 5) : RoundTrip.Statement (.ldm o c n b d) := by
  intro h _ rest
  refine word_round _ _ rest (M.odd_toWord _ _) ?_
  rw [decode32_12 _ (M.major_toWord _ _), M.ofWord_toWord]
  first | rfl | exact if_pos (by simpa [Instr.wf] using h)

theorem RoundTrip.stm (o : BitVec 10) (c : BitVec 3) (n : Bool) (b : BitVec 5) (d : BitVec 5) : RoundTrip.Statement (.stm o c n b d) := by
  intro h _ rest
  refine word_round _ _ rest (M.odd_toWord _ _) ?_
  rw [decode32_12 _ (M.major_toWord _ _), M.ofWord_toWord]
  first | rfl | exact if_pos (by simpa [Instr.wf] using h)

theorem RoundTrip.aadd (z : Bool) (m : Bool) (n : Bool) (b : BitVec 5) (a : BitVec 5) (d : BitVec 5) : RoundTrip.Statement (.aadd z m n b a d) := by
  intro h _ rest
  refine word_round _ _ rest (RR.odd_toWord _ _) ?_
  rw [decode32_13 _ (RR.major_toWord _ _), RR.ofWord_toWord]
  cases z <;> rfl

theorem RoundTrip.afadd (z : Bool) (m : Bool) (n : Bool) (b : BitVec 5) (a : BitVec 5) (d : BitVec 5) : RoundTrip.Statement (.afadd z m n b a d) := by
  intro h _ rest
  refine word_round _ _ rest (RR.odd_toWord _ _) ?_
  rw [decode32_13 _ (RR.major_toWord _ _), RR.ofWord_toWord]
  cases z <;> rfl

theorem RoundTrip.amin (z : Bool) (m : Bool) (n : Bool) (b : BitVec 5) (a : BitVec 5) (d : BitVec 5) : RoundTrip.Statement (.amin z m n b a d) := by
  intro h _ rest
  refine word_round _ _ rest (RR.odd_toWord _ _) ?_
  rw [decode32_13 _ (RR.major_toWord _ _), RR.ofWord_toWord]
  cases z <;> rfl

theorem RoundTrip.amax (z : Bool) (m : Bool) (n : Bool) (b : BitVec 5) (a : BitVec 5) (d : BitVec 5) : RoundTrip.Statement (.amax z m n b a d) := by
  intro h _ rest
  refine word_round _ _ rest (RR.odd_toWord _ _) ?_
  rw [decode32_13 _ (RR.major_toWord _ _), RR.ofWord_toWord]
  cases z <;> rfl

theorem RoundTrip.aminu (z : Bool) (m : Bool) (n : Bool) (b : BitVec 5) (a : BitVec 5) (d : BitVec 5) : RoundTrip.Statement (.aminu z m n b a d) := by
  intro h _ rest
  refine word_round _ _ rest (RR.odd_toWord _ _) ?_
  rw [decode32_13 _ (RR.major_toWord _ _), RR.ofWord_toWord]
  cases z <;> rfl

theorem RoundTrip.amaxu (z : Bool) (m : Bool) (n : Bool) (b : BitVec 5) (a : BitVec 5) (d : BitVec 5) : RoundTrip.Statement (.amaxu z m n b a d) := by
  intro h _ rest
  refine word_round _ _ rest (RR.odd_toWord _ _) ?_
  rw [decode32_13 _ (RR.major_toWord _ _), RR.ofWord_toWord]
  cases z <;> rfl

theorem RoundTrip.aand (z : Bool) (m : Bool) (n : Bool) (b : BitVec 5) (a : BitVec 5) (d : BitVec 5) : RoundTrip.Statement (.aand z m n b a d) := by
  intro h _ rest
  refine word_round _ _ rest (RR.odd_toWord _ _) ?_
  rw [decode32_13 _ (RR.major_toWord _ _), RR.ofWord_toWord]
  cases z <;> rfl

theorem RoundTrip.aor (z : Bool) (m : Bool) (n : Bool) (b : BitVec 5) (a : BitVec 5) (d : BitVec 5) : RoundTrip.Statement (.aor z m n b a d) := by
  intro h _ rest
  refine word_round _ _ rest (RR.odd_toWord _ _) ?_
  rw [decode32_13 _ (RR.major_toWord _ _), RR.ofWord_toWord]
  cases z <;> rfl

theorem RoundTrip.axor (z : Bool) (m : Bool) (n : Bool) (b : BitVec 5) (a : BitVec 5) (d : BitVec 5) : RoundTrip.Statement (.axor z m n b a d) := by
  intro h _ rest
  refine word_round _ _ rest (RR.odd_toWord _ _) ?_
  rw [decode32_13 _ (RR.major_toWord _ _), RR.ofWord_toWord]
  cases z <;> rfl

theorem RoundTrip.aswap (z : Bool) (m : Bool) (n : Bool) (b : BitVec 5) (a : BitVec 5) (d : BitVec 5) : RoundTrip.Statement (.aswap z m n b a d) := by
  intro h _ rest
  refine word_round _ _ rest (RR.odd_toWord _ _) ?_
  rw [decode32_13 _ (RR.major_toWord _ _), RR.ofWord_toWord]
  cases z <;> rfl

theorem RoundTrip.acas (z : Bool) (m : Bool) (n : Bool) (b : BitVec 5) (a : BitVec 5) (d : BitVec 5) : RoundTrip.Statement (.acas z m n b a d) := by
  intro h _ rest
  refine word_round _ _ rest (RR.odd_toWord _ _) ?_
  rw [decode32_13 _ (RR.major_toWord _ _), RR.ofWord_toWord]
  cases z <;> rfl

theorem RoundTrip.fence (s : BitVec 2) (k : BitVec 4) : RoundTrip.Statement (.fence s k) := by
  intro h _ rest
  refine word_round _ _ rest (RR.odd_toWord _ _) ?_
  rw [decode32_14 _ (RR.major_toWord _ _), RR.ofWord_toWord]
  obtain ⟨e1, e2⟩ := zext3 s
  obtain ⟨e3, e4⟩ := zext5 k
  simp only [decodeFence, e1, e2, e3, e4]; rfl

theorem RoundTrip.tclr (v : Bool) (d : BitVec 5) : RoundTrip.Statement (.tclr v d) := by
  intro h _ rest
  refine word_round _ _ rest (RR.odd_toWord _ _) ?_
  rw [decode32_14 _ (RR.major_toWord _ _), RR.ofWord_toWord]
  obtain ⟨e1, e2, e3⟩ := bit3_bits v false
  simp only [decodeFence, e1, bit3_high]; rfl

theorem RoundTrip.tjoin (w : Bool) (v : Bool) (n : Bool) (a : BitVec 5) (d : BitVec 5) : RoundTrip.Statement (.tjoin w v n a d) := by
  intro h _ rest
  refine word_round _ _ rest (RR.odd_toWord _ _) ?_
  rw [decode32_14 _ (RR.major_toWord _ _), RR.ofWord_toWord]
  obtain ⟨e1, e2, e3⟩ := bit3_bits v w
  simp only [decodeFence, e1, e2, e3]; rfl

theorem RoundTrip.twait (w : Bool) (n : Bool) (a : BitVec 5) : RoundTrip.Statement (.twait w n a) := by
  intro h _ rest
  refine word_round _ _ rest (RR.odd_toWord _ _) ?_
  rw [decode32_14 _ (RR.major_toWord _ _), RR.ofWord_toWord]
  obtain ⟨e1, e2, e3⟩ := bit3_bits false w
  simp only [decodeFence, e1, e2, e3]; rfl

theorem RoundTrip.bar (n : Bool) (a : BitVec 5) : RoundTrip.Statement (.bar n a) := by
  intro h _ rest
  refine word_round _ _ rest (RR.odd_toWord _ _) ?_
  rw [decode32_15 _ (RR.major_toWord _ _), RR.ofWord_toWord]
  first | rfl | exact if_pos (by simpa [Instr.wf] using h)

theorem RoundTrip.baradd (z : Bool) (m : Bool) (n : Bool) (b : BitVec 5) (a : BitVec 5) (d : BitVec 5) : RoundTrip.Statement (.baradd z m n b a d) := by
  intro h _ rest
  refine word_round _ _ rest (RR.odd_toWord _ _) ?_
  rw [decode32_15 _ (RR.major_toWord _ _), RR.ofWord_toWord]
  cases z <;> rfl

theorem RoundTrip.barfadd (m : Bool) (n : Bool) (b : BitVec 5) (a : BitVec 5) (d : BitVec 5) : RoundTrip.Statement (.barfadd m n b a d) := by
  intro h _ rest
  refine word_round _ _ rest (RR.odd_toWord _ _) ?_
  rw [decode32_15 _ (RR.major_toWord _ _), RR.ofWord_toWord]
  first | rfl | exact if_pos (by simpa [Instr.wf] using h)

theorem RoundTrip.chsend (m : Bool) (n : Bool) (b : BitVec 5) (a : BitVec 5) : RoundTrip.Statement (.chsend m n b a) := by
  intro h _ rest
  refine word_round _ _ rest (RR.odd_toWord _ _) ?_
  rw [decode32_16 _ (RR.major_toWord _ _), RR.ofWord_toWord]
  first | rfl | exact if_pos (by simpa [Instr.wf] using h)

theorem RoundTrip.chrecv (n : Bool) (a : BitVec 5) (d : BitVec 5) : RoundTrip.Statement (.chrecv n a d) := by
  intro h _ rest
  refine word_round _ _ rest (RR.odd_toWord _ _) ?_
  rw [decode32_16 _ (RR.major_toWord _ _), RR.ofWord_toWord]
  first | rfl | exact if_pos (by simpa [Instr.wf] using h)

theorem RoundTrip.amld (z : BitVec 3) (n : Bool) (a : BitVec 5) (d : BitVec 5) : RoundTrip.Statement (.amld z n a d) := by
  intro h _ rest
  refine word_round _ _ rest (RR.odd_toWord _ _) ?_
  rw [decode32_16 _ (RR.major_toWord _ _), RR.ofWord_toWord]
  first | rfl | exact if_pos (by simpa [Instr.wf] using h)

theorem RoundTrip.amst (z : BitVec 2) (m : Bool) (n : Bool) (b : BitVec 5) (a : BitVec 5) : RoundTrip.Statement (.amst z m n b a) := by
  intro h _ rest
  refine word_round _ _ rest (RR.odd_toWord _ _) ?_
  rw [decode32_16 _ (RR.major_toWord _ _), RR.ofWord_toWord]
  obtain ⟨e1, e2⟩ := zext3 z
  simp only [decodeMessage, e1, e2]; rfl

theorem RoundTrip.amopAadd (z : Bool) (m : Bool) (n : Bool) (b : BitVec 5) (a : BitVec 5) (d : BitVec 5) : RoundTrip.Statement (.amopAadd z m n b a d) := by
  intro h _ rest
  refine word_round _ _ rest (RR.odd_toWord _ _) ?_
  rw [decode32_16 _ (RR.major_toWord _ _), RR.ofWord_toWord]
  cases z <;> rfl

theorem RoundTrip.amopAfadd (z : Bool) (m : Bool) (n : Bool) (b : BitVec 5) (a : BitVec 5) (d : BitVec 5) : RoundTrip.Statement (.amopAfadd z m n b a d) := by
  intro h _ rest
  refine word_round _ _ rest (RR.odd_toWord _ _) ?_
  rw [decode32_16 _ (RR.major_toWord _ _), RR.ofWord_toWord]
  cases z <;> rfl

theorem RoundTrip.amopAmin (z : Bool) (m : Bool) (n : Bool) (b : BitVec 5) (a : BitVec 5) (d : BitVec 5) : RoundTrip.Statement (.amopAmin z m n b a d) := by
  intro h _ rest
  refine word_round _ _ rest (RR.odd_toWord _ _) ?_
  rw [decode32_16 _ (RR.major_toWord _ _), RR.ofWord_toWord]
  cases z <;> rfl

theorem RoundTrip.amopAmax (z : Bool) (m : Bool) (n : Bool) (b : BitVec 5) (a : BitVec 5) (d : BitVec 5) : RoundTrip.Statement (.amopAmax z m n b a d) := by
  intro h _ rest
  refine word_round _ _ rest (RR.odd_toWord _ _) ?_
  rw [decode32_16 _ (RR.major_toWord _ _), RR.ofWord_toWord]
  cases z <;> rfl

theorem RoundTrip.amopAminu (z : Bool) (m : Bool) (n : Bool) (b : BitVec 5) (a : BitVec 5) (d : BitVec 5) : RoundTrip.Statement (.amopAminu z m n b a d) := by
  intro h _ rest
  refine word_round _ _ rest (RR.odd_toWord _ _) ?_
  rw [decode32_16 _ (RR.major_toWord _ _), RR.ofWord_toWord]
  cases z <;> rfl

theorem RoundTrip.amopAmaxu (z : Bool) (m : Bool) (n : Bool) (b : BitVec 5) (a : BitVec 5) (d : BitVec 5) : RoundTrip.Statement (.amopAmaxu z m n b a d) := by
  intro h _ rest
  refine word_round _ _ rest (RR.odd_toWord _ _) ?_
  rw [decode32_16 _ (RR.major_toWord _ _), RR.ofWord_toWord]
  cases z <;> rfl

theorem RoundTrip.amopAand (z : Bool) (m : Bool) (n : Bool) (b : BitVec 5) (a : BitVec 5) (d : BitVec 5) : RoundTrip.Statement (.amopAand z m n b a d) := by
  intro h _ rest
  refine word_round _ _ rest (RR.odd_toWord _ _) ?_
  rw [decode32_16 _ (RR.major_toWord _ _), RR.ofWord_toWord]
  cases z <;> rfl

theorem RoundTrip.amopAor (z : Bool) (m : Bool) (n : Bool) (b : BitVec 5) (a : BitVec 5) (d : BitVec 5) : RoundTrip.Statement (.amopAor z m n b a d) := by
  intro h _ rest
  refine word_round _ _ rest (RR.odd_toWord _ _) ?_
  rw [decode32_16 _ (RR.major_toWord _ _), RR.ofWord_toWord]
  cases z <;> rfl

theorem RoundTrip.amopAxor (z : Bool) (m : Bool) (n : Bool) (b : BitVec 5) (a : BitVec 5) (d : BitVec 5) : RoundTrip.Statement (.amopAxor z m n b a d) := by
  intro h _ rest
  refine word_round _ _ rest (RR.odd_toWord _ _) ?_
  rw [decode32_16 _ (RR.major_toWord _ _), RR.ofWord_toWord]
  cases z <;> rfl

theorem RoundTrip.amopAswap (z : Bool) (m : Bool) (n : Bool) (b : BitVec 5) (a : BitVec 5) (d : BitVec 5) : RoundTrip.Statement (.amopAswap z m n b a d) := by
  intro h _ rest
  refine word_round _ _ rest (RR.odd_toWord _ _) ?_
  rw [decode32_16 _ (RR.major_toWord _ _), RR.ofWord_toWord]
  cases z <;> rfl

theorem RoundTrip.amopAcas (z : Bool) (m : Bool) (n : Bool) (b : BitVec 5) (a : BitVec 5) (d : BitVec 5) : RoundTrip.Statement (.amopAcas z m n b a d) := by
  intro h _ rest
  refine word_round _ _ rest (RR.odd_toWord _ _) ?_
  rw [decode32_16 _ (RR.major_toWord _ _), RR.ofWord_toWord]
  cases z <;> rfl

theorem RoundTrip.fork (p : BitVec 5) : RoundTrip.Statement (.fork p) := by
  intro h _ rest
  refine word_round _ _ rest (TC.odd_toWord _ _) ?_
  rw [decode32_17 _ (TC.major_toWord _ _), TC.ofWord_toWord]
  first | rfl | exact if_pos (by simpa [Instr.wf] using h)

theorem RoundTrip.meet (w : BitVec 12) (p : BitVec 5) : RoundTrip.Statement (.meet w p) := by
  intro h _ rest
  refine word_round _ _ rest (TC.odd_toWord _ _) ?_
  rw [decode32_17 _ (TC.major_toWord _ _), TC.ofWord_toWord]
  first | rfl | exact if_pos (by simpa [Instr.wf] using h)

theorem RoundTrip.meetC (w : BitVec 12) (q : BitVec 5) (p : BitVec 5) : RoundTrip.Statement (.meetC w q p) := by
  intro h _ rest
  refine word_round _ _ rest (TC.odd_toWord _ _) ?_
  rw [decode32_17 _ (TC.major_toWord _ _), TC.ofWord_toWord]
  first | rfl | exact if_pos (by simpa [Instr.wf] using h)

theorem RoundTrip.done : RoundTrip.Statement (.done) := by
  intro h _ rest
  refine word_round _ _ rest (TC.odd_toWord _ _) ?_
  rw [decode32_17 _ (TC.major_toWord _ _), TC.ofWord_toWord]
  first | rfl | exact if_pos (by simpa [Instr.wf] using h)

theorem RoundTrip.align : RoundTrip.Statement (.align) := by
  intro h _ rest
  refine word_round _ _ rest (TC.odd_toWord _ _) ?_
  rw [decode32_17 _ (TC.major_toWord _ _), TC.ofWord_toWord]
  first | rfl | exact if_pos (by simpa [Instr.wf] using h)

theorem RoundTrip.yield : RoundTrip.Statement (.yield) := by
  intro h _ rest
  refine word_round _ _ rest (TC.odd_toWord _ _) ?_
  rw [decode32_17 _ (TC.major_toWord _ _), TC.ofWord_toWord]
  first | rfl | exact if_pos (by simpa [Instr.wf] using h)

theorem RoundTrip.spawn (p : BitVec 5) : RoundTrip.Statement (.spawn p) := by
  intro h _ rest
  refine word_round _ _ rest (TC.odd_toWord _ _) ?_
  rw [decode32_18 _ (TC.major_toWord _ _), TC.ofWord_toWord]
  first | rfl | exact if_pos (by simpa [Instr.wf] using h)

theorem RoundTrip.waitw : RoundTrip.Statement (.waitw) := by
  intro h _ rest
  refine word_round _ _ rest (TC.odd_toWord _ _) ?_
  rw [decode32_18 _ (TC.major_toWord _ _), TC.ofWord_toWord]
  first | rfl | exact if_pos (by simpa [Instr.wf] using h)

theorem RoundTrip.taskend : RoundTrip.Statement (.taskend) := by
  intro h _ rest
  refine word_round _ _ rest (TC.odd_toWord _ _) ?_
  rw [decode32_18 _ (TC.major_toWord _ _), TC.ofWord_toWord]
  first | rfl | exact if_pos (by simpa [Instr.wf] using h)

theorem RoundTrip.commit : RoundTrip.Statement (.commit) := by
  intro h _ rest
  refine word_round _ _ rest (TC.odd_toWord _ _) ?_
  rw [decode32_18 _ (TC.major_toWord _ _), TC.ofWord_toWord]
  first | rfl | exact if_pos (by simpa [Instr.wf] using h)

theorem RoundTrip.hrq (q : BitVec 5) (p : BitVec 5) : RoundTrip.Statement (.hrq q p) := by
  intro h _ rest
  refine word_round _ _ rest (TC.odd_toWord _ _) ?_
  rw [decode32_18 _ (TC.major_toWord _ _), TC.ofWord_toWord]
  first | rfl | exact if_pos (by simpa [Instr.wf] using h)

theorem RoundTrip.hrqSw (q : BitVec 5) (p : BitVec 5) : RoundTrip.Statement (.hrqSw q p) := by
  intro h _ rest
  refine word_round _ _ rest (TC.odd_toWord _ _) ?_
  rw [decode32_18 _ (TC.major_toWord _ _), TC.ofWord_toWord]
  first | rfl | exact if_pos (by simpa [Instr.wf] using h)

theorem RoundTrip.tdef (b : BitVec 5) (a : BitVec 5) (d : BitVec 5) : RoundTrip.Statement (.tdef b a d) := by
  intro h _ rest
  refine word_round _ _ rest (RR.odd_toWord _ _) ?_
  rw [decode32_19 _ (RR.major_toWord _ _), RR.ofWord_toWord]
  first | rfl | exact if_pos (by simpa [Instr.wf] using h)

theorem RoundTrip.trel (d : BitVec 5) : RoundTrip.Statement (.trel d) := by
  intro h _ rest
  refine word_round _ _ rest (RR.odd_toWord _ _) ?_
  rw [decode32_19 _ (RR.major_toWord _ _), RR.ofWord_toWord]
  first | rfl | exact if_pos (by simpa [Instr.wf] using h)

theorem RoundTrip.tstat (a : BitVec 5) (d : BitVec 5) : RoundTrip.Statement (.tstat a d) := by
  intro h _ rest
  refine word_round _ _ rest (RR.odd_toWord _ _) ?_
  rw [decode32_19 _ (RR.major_toWord _ _), RR.ofWord_toWord]
  first | rfl | exact if_pos (by simpa [Instr.wf] using h)

theorem RoundTrip.twaitr (d : BitVec 5) : RoundTrip.Statement (.twaitr d) := by
  intro h _ rest
  refine word_round _ _ rest (RR.odd_toWord _ _) ?_
  rw [decode32_19 _ (RR.major_toWord _ _), RR.ofWord_toWord]
  first | rfl | exact if_pos (by simpa [Instr.wf] using h)

theorem RoundTrip.tfill (a : BitVec 5) (d : BitVec 5) : RoundTrip.Statement (.tfill a d) := by
  intro h _ rest
  refine word_round _ _ rest (RR.odd_toWord _ _) ?_
  rw [decode32_19 _ (RR.major_toWord _ _), RR.ofWord_toWord]
  first | rfl | exact if_pos (by simpa [Instr.wf] using h)

theorem RoundTrip.tcons (d : BitVec 5) : RoundTrip.Statement (.tcons d) := by
  intro h _ rest
  refine word_round _ _ rest (RR.odd_toWord _ _) ?_
  rw [decode32_19 _ (RR.major_toWord _ _), RR.ofWord_toWord]
  first | rfl | exact if_pos (by simpa [Instr.wf] using h)

theorem RoundTrip.mma (z : Bool) (c : Bool) (e : BitVec 2) (b : BitVec 5) (a : BitVec 5) : RoundTrip.Statement (.mma z c e b a) := by
  intro h _ rest
  refine word_round _ _ rest (X.odd_toWord _ _) ?_
  rw [decode32_1a _ (X.major_toWord _ _), X.ofWord_toWord]
  obtain ⟨e1, e2, e3⟩ := bit3_bits c z
  simp only [decodeMatrix, e1, e2, e3]
  exact if_pos (by simpa [Instr.wf] using h)

theorem RoundTrip.mmac (z : Bool) (c : Bool) (e : BitVec 2) (b : BitVec 5) (a : BitVec 5) (d : BitVec 5) : RoundTrip.Statement (.mmac z c e b a d) := by
  intro h _ rest
  refine word_round _ _ rest (X.odd_toWord _ _) ?_
  rw [decode32_1a _ (X.major_toWord _ _), X.ofWord_toWord]
  obtain ⟨e1, e2, e3⟩ := bit3_bits c z
  simp only [decodeMatrix, e1, e2, e3]
  exact if_pos (by simpa [Instr.wf] using h)

theorem RoundTrip.mzero (c : Bool) (e : BitVec 2) : RoundTrip.Statement (.mzero c e) := by
  intro h _ rest
  refine word_round _ _ rest (X.odd_toWord _ _) ?_
  rw [decode32_1a _ (X.major_toWord _ _), X.ofWord_toWord]
  obtain ⟨e1, e2, e3⟩ := bit3_bits c false
  simp only [decodeMatrix, e1, e2, e3]; rfl

theorem RoundTrip.mstore (c : Bool) (e : BitVec 2) (a : BitVec 5) : RoundTrip.Statement (.mstore c e a) := by
  intro h _ rest
  refine word_round _ _ rest (X.odd_toWord _ _) ?_
  rw [decode32_1a _ (X.major_toWord _ _), X.ofWord_toWord]
  obtain ⟨e1, e2, e3⟩ := bit3_bits c false
  simp only [decodeMatrix, e1, e2, e3]
  exact if_pos (by simpa [Instr.wf] using h)

theorem RoundTrip.mmask (c : Bool) (e : BitVec 2) (a : BitVec 5) : RoundTrip.Statement (.mmask c e a) := by
  intro h _ rest
  refine word_round _ _ rest (X.odd_toWord _ _) ?_
  rw [decode32_1a _ (X.major_toWord _ _), X.ofWord_toWord]
  obtain ⟨e1, e2, e3⟩ := bit3_bits c false
  simp only [decodeMatrix, e1, e2, e3]
  exact if_pos (by simpa [Instr.wf] using h)

theorem RoundTrip.mscale (c : Bool) (e : BitVec 2) (b : BitVec 5) (a : BitVec 5) : RoundTrip.Statement (.mscale c e b a) := by
  intro h _ rest
  refine word_round _ _ rest (X.odd_toWord _ _) ?_
  rw [decode32_1a _ (X.major_toWord _ _), X.ofWord_toWord]
  obtain ⟨e1, e2, e3⟩ := bit3_bits c false
  simp only [decodeMatrix, e1, e2, e3]
  exact if_pos (by simpa [Instr.wf] using h)

theorem RoundTrip.cpy (e : BitVec 2) (a : BitVec 5) : RoundTrip.Statement (.cpy e a) := by
  intro h _ rest
  refine word_round _ _ rest (X.odd_toWord _ _) ?_
  rw [decode32_1b _ (X.major_toWord _ _), X.ofWord_toWord]
  first | rfl | exact if_pos (by simpa [Instr.wf] using h)

theorem RoundTrip.cpyw (e : BitVec 2) (a : BitVec 5) : RoundTrip.Statement (.cpyw e a) := by
  intro h _ rest
  refine word_round _ _ rest (X.odd_toWord _ _) ?_
  rw [decode32_1b _ (X.major_toWord _ _), X.ofWord_toWord]
  first | rfl | exact if_pos (by simpa [Instr.wf] using h)

theorem RoundTrip.cpyq (e : BitVec 2) (a : BitVec 5) (d : BitVec 5) : RoundTrip.Statement (.cpyq e a d) := by
  intro h _ rest
  refine word_round _ _ rest (X.odd_toWord _ _) ?_
  rw [decode32_1b _ (X.major_toWord _ _), X.ofWord_toWord]
  first | rfl | exact if_pos (by simpa [Instr.wf] using h)

theorem RoundTrip.cpyc (e : BitVec 2) (a : BitVec 5) : RoundTrip.Statement (.cpyc e a) := by
  intro h _ rest
  refine word_round _ _ rest (X.odd_toWord _ _) ?_
  rw [decode32_1b _ (X.major_toWord _ _), X.ofWord_toWord]
  first | rfl | exact if_pos (by simpa [Instr.wf] using h)

theorem RoundTrip.bstake (c : BitVec 7) (d : BitVec 5) : RoundTrip.Statement (.bstake c d) := by
  intro h _ rest
  refine word_round _ _ rest (RI.odd_toWord _ _) ?_
  rw [decode32_1c _ (RI.major_toWord _ _), RI.ofWord_toWord]
  obtain ⟨e1, e2, e3⟩ := cutStream 0#3 c
  simp only [decodeStream, e1, e2, e3]
  exact if_pos (by simpa [Instr.wf] using h)

theorem RoundTrip.bspeek (c : BitVec 7) (d : BitVec 5) : RoundTrip.Statement (.bspeek c d) := by
  intro h _ rest
  refine word_round _ _ rest (RI.odd_toWord _ _) ?_
  rw [decode32_1c _ (RI.major_toWord _ _), RI.ofWord_toWord]
  obtain ⟨e1, e2, e3⟩ := cutStream 1#3 c
  simp only [decodeStream, e1, e2, e3]
  exact if_pos (by simpa [Instr.wf] using h)

theorem RoundTrip.bsemit (c : BitVec 7) (n : Bool) (a : BitVec 5) : RoundTrip.Statement (.bsemit c n a) := by
  intro h _ rest
  refine word_round _ _ rest (RI.odd_toWord _ _) ?_
  rw [decode32_1c _ (RI.major_toWord _ _), RI.ofWord_toWord]
  obtain ⟨e1, e2, e3⟩ := cutStream 2#3 c
  simp only [decodeStream, e1, e2, e3]
  exact if_pos (by simpa [Instr.wf] using h)

theorem RoundTrip.bsskip (c : BitVec 7) : RoundTrip.Statement (.bsskip c) := by
  intro h _ rest
  refine word_round _ _ rest (RI.odd_toWord _ _) ?_
  rw [decode32_1c _ (RI.major_toWord _ _), RI.ofWord_toWord]
  obtain ⟨e1, e2, e3⟩ := cutStream 3#3 c
  simp only [decodeStream, e1, e2, e3]
  exact if_pos (by simpa [Instr.wf] using h)

theorem RoundTrip.bsalign (c : BitVec 7) : RoundTrip.Statement (.bsalign c) := by
  intro h _ rest
  refine word_round _ _ rest (RI.odd_toWord _ _) ?_
  rw [decode32_1c _ (RI.major_toWord _ _), RI.ofWord_toWord]
  obtain ⟨e1, e2, e3⟩ := cutStream 4#3 c
  simp only [decodeStream, e1, e2, e3]
  exact if_pos (by simpa [Instr.wf] using h)

theorem RoundTrip.csrr (c : BitVec 12) (d : BitVec 5) : RoundTrip.Statement (.csrr c d) := by
  intro h _ rest
  refine word_round _ _ rest (RI.odd_toWord _ _) ?_
  rw [decode32_1d _ (RI.major_toWord _ _), RI.ofWord_toWord]
  obtain ⟨e1, e2⟩ := cut2 0#2 c
  simp only [decodeCsr, e1, e2]
  exact if_pos (by simpa [Instr.wf] using h)

theorem RoundTrip.csrw (c : BitVec 12) (n : Bool) (a : BitVec 5) (d : BitVec 5) : RoundTrip.Statement (.csrw c n a d) := by
  intro h _ rest
  refine word_round _ _ rest (RI.odd_toWord _ _) ?_
  rw [decode32_1d _ (RI.major_toWord _ _), RI.ofWord_toWord]
  obtain ⟨e1, e2⟩ := cut2 1#2 c
  simp only [decodeCsr, e1, e2]
  exact if_pos (by simpa [Instr.wf] using h)

theorem RoundTrip.csrs (c : BitVec 12) (n : Bool) (a : BitVec 5) (d : BitVec 5) : RoundTrip.Statement (.csrs c n a d) := by
  intro h _ rest
  refine word_round _ _ rest (RI.odd_toWord _ _) ?_
  rw [decode32_1d _ (RI.major_toWord _ _), RI.ofWord_toWord]
  obtain ⟨e1, e2⟩ := cut2 2#2 c
  simp only [decodeCsr, e1, e2]
  exact if_pos (by simpa [Instr.wf] using h)

theorem RoundTrip.csrc (c : BitVec 12) (n : Bool) (a : BitVec 5) (d : BitVec 5) : RoundTrip.Statement (.csrc c n a d) := by
  intro h _ rest
  refine word_round _ _ rest (RI.odd_toWord _ _) ?_
  rw [decode32_1d _ (RI.major_toWord _ _), RI.ofWord_toWord]
  obtain ⟨e1, e2⟩ := cut2 3#2 c
  simp only [decodeCsr, e1, e2]
  exact if_pos (by simpa [Instr.wf] using h)

theorem RoundTrip.trap (b : BitVec 5) : RoundTrip.Statement (.trap b) := by
  intro h _ rest
  refine word_round _ _ rest (RR.odd_toWord _ _) ?_
  rw [decode32_1e _ (RR.major_toWord _ _), RR.ofWord_toWord]
  first | rfl | exact if_pos (by simpa [Instr.wf] using h)

theorem RoundTrip.eret : RoundTrip.Statement (.eret) := by
  intro h _ rest
  refine word_round _ _ rest (RR.odd_toWord _ _) ?_
  rw [decode32_1e _ (RR.major_toWord _ _), RR.ofWord_toWord]
  first | rfl | exact if_pos (by simpa [Instr.wf] using h)

theorem RoundTrip.halt : RoundTrip.Statement (.halt) := by
  intro h _ rest
  refine word_round _ _ rest (RR.odd_toWord _ _) ?_
  rw [decode32_1e _ (RR.major_toWord _ _), RR.ofWord_toWord]
  first | rfl | exact if_pos (by simpa [Instr.wf] using h)

theorem RoundTrip.dbg (b : BitVec 5) : RoundTrip.Statement (.dbg b) := by
  intro h _ rest
  refine word_round _ _ rest (RR.odd_toWord _ _) ?_
  rw [decode32_1e _ (RR.major_toWord _ _), RR.ofWord_toWord]
  first | rfl | exact if_pos (by simpa [Instr.wf] using h)

theorem RoundTrip.tlbw (m : Bool) (n : Bool) (b : BitVec 5) (a : BitVec 5) : RoundTrip.Statement (.tlbw m n b a) := by
  intro h _ rest
  refine word_round _ _ rest (RR.odd_toWord _ _) ?_
  rw [decode32_1e _ (RR.major_toWord _ _), RR.ofWord_toWord]
  first | rfl | exact if_pos (by simpa [Instr.wf] using h)

theorem RoundTrip.tlbi (t : Bool) (s : BitVec 2) (n : Bool) (a : BitVec 5) (d : BitVec 5) : RoundTrip.Statement (.tlbi t s n a d) := by
  intro h _ rest
  refine word_round _ _ rest (RR.odd_toWord _ _) ?_
  rw [decode32_1e _ (RR.major_toWord _ _), RR.ofWord_toWord]
  obtain ⟨e1, e2⟩ := tlbiSize t s
  simp only [decodeSystem, e1, e2]
  exact if_pos (by simpa [Instr.wf] using h)

theorem RoundTrip.cwb (n : Bool) (a : BitVec 5) : RoundTrip.Statement (.cwb n a) := by
  intro h _ rest
  refine word_round _ _ rest (RR.odd_toWord _ _) ?_
  rw [decode32_1e _ (RR.major_toWord _ _), RR.ofWord_toWord]
  first | rfl | exact if_pos (by simpa [Instr.wf] using h)

theorem RoundTrip.cinv (n : Bool) (a : BitVec 5) : RoundTrip.Statement (.cinv n a) := by
  intro h _ rest
  refine word_round _ _ rest (RR.odd_toWord _ _) ?_
  rw [decode32_1e _ (RR.major_toWord _ _), RR.ofWord_toWord]
  first | rfl | exact if_pos (by simpa [Instr.wf] using h)

theorem RoundTrip.fmt (s : Bool) (r : BitVec 3) (d : BitVec 5) (b : BitVec 5) (a : BitVec 5) : RoundTrip.Statement (.fmt s r d b a) := by
  intro h _ rest
  refine word_round _ _ rest (P.odd_toWord _ _) ?_
  rw [decode32_1f _ (P.major_toWord _ _), P.ofWord_toWord]
  first | rfl | exact if_pos (by simpa [Instr.wf] using h)

theorem RoundTrip.vmov (s : Bool) (k : BitVec 3) (b : BitVec 5) (d : BitVec 5) : RoundTrip.Statement (.vmov s k b d) := by
  intro h _ rest
  refine word_round _ _ rest (VX.odd_toWord _ _) ?_
  rw [decode32_20 _ (VX.major_toWord _ _), VX.ofWord_toWord]
  first | rfl | exact if_pos (by simpa [Instr.wf] using h)

theorem RoundTrip.vadd (n : Bool) (s : Bool) (k : BitVec 3) (b : BitVec 5) (a : BitVec 5) (d : BitVec 5) : RoundTrip.Statement (.vadd n s k b a d) := by
  intro h _ rest
  refine word_round _ _ rest (VX.odd_toWord _ _) ?_
  rw [decode32_20 _ (VX.major_toWord _ _), VX.ofWord_toWord]
  first | rfl | exact if_pos (by simpa [Instr.wf] using h)

theorem RoundTrip.vsub (n : Bool) (s : Bool) (k : BitVec 3) (b : BitVec 5) (a : BitVec 5) (d : BitVec 5) : RoundTrip.Statement (.vsub n s k b a d) := by
  intro h _ rest
  refine word_round _ _ rest (VX.odd_toWord _ _) ?_
  rw [decode32_20 _ (VX.major_toWord _ _), VX.ofWord_toWord]
  first | rfl | exact if_pos (by simpa [Instr.wf] using h)

theorem RoundTrip.vmul (n : Bool) (s : Bool) (k : BitVec 3) (b : BitVec 5) (a : BitVec 5) (d : BitVec 5) : RoundTrip.Statement (.vmul n s k b a d) := by
  intro h _ rest
  refine word_round _ _ rest (VX.odd_toWord _ _) ?_
  rw [decode32_20 _ (VX.major_toWord _ _), VX.ofWord_toWord]
  first | rfl | exact if_pos (by simpa [Instr.wf] using h)

theorem RoundTrip.vand (n : Bool) (s : Bool) (k : BitVec 3) (b : BitVec 5) (a : BitVec 5) (d : BitVec 5) : RoundTrip.Statement (.vand n s k b a d) := by
  intro h _ rest
  refine word_round _ _ rest (VX.odd_toWord _ _) ?_
  rw [decode32_20 _ (VX.major_toWord _ _), VX.ofWord_toWord]
  first | rfl | exact if_pos (by simpa [Instr.wf] using h)

theorem RoundTrip.vor (n : Bool) (s : Bool) (k : BitVec 3) (b : BitVec 5) (a : BitVec 5) (d : BitVec 5) : RoundTrip.Statement (.vor n s k b a d) := by
  intro h _ rest
  refine word_round _ _ rest (VX.odd_toWord _ _) ?_
  rw [decode32_20 _ (VX.major_toWord _ _), VX.ofWord_toWord]
  first | rfl | exact if_pos (by simpa [Instr.wf] using h)

theorem RoundTrip.vxor (n : Bool) (s : Bool) (k : BitVec 3) (b : BitVec 5) (a : BitVec 5) (d : BitVec 5) : RoundTrip.Statement (.vxor n s k b a d) := by
  intro h _ rest
  refine word_round _ _ rest (VX.odd_toWord _ _) ?_
  rw [decode32_20 _ (VX.major_toWord _ _), VX.ofWord_toWord]
  first | rfl | exact if_pos (by simpa [Instr.wf] using h)

theorem RoundTrip.vshl (n : Bool) (s : Bool) (k : BitVec 3) (b : BitVec 5) (a : BitVec 5) (d : BitVec 5) : RoundTrip.Statement (.vshl n s k b a d) := by
  intro h _ rest
  refine word_round _ _ rest (VX.odd_toWord _ _) ?_
  rw [decode32_20 _ (VX.major_toWord _ _), VX.ofWord_toWord]
  first | rfl | exact if_pos (by simpa [Instr.wf] using h)

theorem RoundTrip.vshr (n : Bool) (s : Bool) (k : BitVec 3) (b : BitVec 5) (a : BitVec 5) (d : BitVec 5) : RoundTrip.Statement (.vshr n s k b a d) := by
  intro h _ rest
  refine word_round _ _ rest (VX.odd_toWord _ _) ?_
  rw [decode32_20 _ (VX.major_toWord _ _), VX.ofWord_toWord]
  first | rfl | exact if_pos (by simpa [Instr.wf] using h)

theorem RoundTrip.vmin (n : Bool) (s : Bool) (k : BitVec 3) (b : BitVec 5) (a : BitVec 5) (d : BitVec 5) : RoundTrip.Statement (.vmin n s k b a d) := by
  intro h _ rest
  refine word_round _ _ rest (VX.odd_toWord _ _) ?_
  rw [decode32_20 _ (VX.major_toWord _ _), VX.ofWord_toWord]
  first | rfl | exact if_pos (by simpa [Instr.wf] using h)

theorem RoundTrip.vmax (n : Bool) (s : Bool) (k : BitVec 3) (b : BitVec 5) (a : BitVec 5) (d : BitVec 5) : RoundTrip.Statement (.vmax n s k b a d) := by
  intro h _ rest
  refine word_round _ _ rest (VX.odd_toWord _ _) ?_
  rw [decode32_20 _ (VX.major_toWord _ _), VX.ofWord_toWord]
  first | rfl | exact if_pos (by simpa [Instr.wf] using h)

theorem RoundTrip.vsra (n : Bool) (s : Bool) (k : BitVec 3) (b : BitVec 5) (a : BitVec 5) (d : BitVec 5) : RoundTrip.Statement (.vsra n s k b a d) := by
  intro h _ rest
  refine word_round _ _ rest (VX.odd_toWord _ _) ?_
  rw [decode32_20 _ (VX.major_toWord _ _), VX.ofWord_toWord]
  first | rfl | exact if_pos (by simpa [Instr.wf] using h)

theorem RoundTrip.vminu (n : Bool) (s : Bool) (k : BitVec 3) (b : BitVec 5) (a : BitVec 5) (d : BitVec 5) : RoundTrip.Statement (.vminu n s k b a d) := by
  intro h _ rest
  refine word_round _ _ rest (VX.odd_toWord _ _) ?_
  rw [decode32_20 _ (VX.major_toWord _ _), VX.ofWord_toWord]
  first | rfl | exact if_pos (by simpa [Instr.wf] using h)

theorem RoundTrip.vmaxu (n : Bool) (s : Bool) (k : BitVec 3) (b : BitVec 5) (a : BitVec 5) (d : BitVec 5) : RoundTrip.Statement (.vmaxu n s k b a d) := by
  intro h _ rest
  refine word_round _ _ rest (VX.odd_toWord _ _) ?_
  rw [decode32_20 _ (VX.major_toWord _ _), VX.ofWord_toWord]
  first | rfl | exact if_pos (by simpa [Instr.wf] using h)

theorem RoundTrip.vmulhu (n : Bool) (s : Bool) (k : BitVec 3) (b : BitVec 5) (a : BitVec 5) (d : BitVec 5) : RoundTrip.Statement (.vmulhu n s k b a d) := by
  intro h _ rest
  refine word_round _ _ rest (VX.odd_toWord _ _) ?_
  rw [decode32_20 _ (VX.major_toWord _ _), VX.ofWord_toWord]
  first | rfl | exact if_pos (by simpa [Instr.wf] using h)

theorem RoundTrip.vmadd (n : Bool) (s : Bool) (k : BitVec 3) (b : BitVec 5) (a : BitVec 5) (d : BitVec 5) : RoundTrip.Statement (.vmadd n s k b a d) := by
  intro h _ rest
  refine word_round _ _ rest (VX.odd_toWord _ _) ?_
  rw [decode32_20 _ (VX.major_toWord _ _), VX.ofWord_toWord]
  first | rfl | exact if_pos (by simpa [Instr.wf] using h)

theorem RoundTrip.vmovI (i : BitVec 6) (k : BitVec 3) (d : BitVec 5) : RoundTrip.Statement (.vmovI i k d) := by
  intro h _ rest
  refine word_round _ _ rest (VX.odd_toWord _ _) ?_
  rw [decode32_2c _ (VX.major_toWord _ _), VX.ofWord_toWord]
  simp only [decodeVintI, join6]; rfl

theorem RoundTrip.vaddI (n : Bool) (i : BitVec 6) (k : BitVec 3) (a : BitVec 5) (d : BitVec 5) : RoundTrip.Statement (.vaddI n i k a d) := by
  intro h _ rest
  refine word_round _ _ rest (VX.odd_toWord _ _) ?_
  rw [decode32_2c _ (VX.major_toWord _ _), VX.ofWord_toWord]
  simp only [decodeVintI, join6]; rfl

theorem RoundTrip.vsubI (n : Bool) (i : BitVec 6) (k : BitVec 3) (a : BitVec 5) (d : BitVec 5) : RoundTrip.Statement (.vsubI n i k a d) := by
  intro h _ rest
  refine word_round _ _ rest (VX.odd_toWord _ _) ?_
  rw [decode32_2c _ (VX.major_toWord _ _), VX.ofWord_toWord]
  simp only [decodeVintI, join6]; rfl

theorem RoundTrip.vmulI (n : Bool) (i : BitVec 6) (k : BitVec 3) (a : BitVec 5) (d : BitVec 5) : RoundTrip.Statement (.vmulI n i k a d) := by
  intro h _ rest
  refine word_round _ _ rest (VX.odd_toWord _ _) ?_
  rw [decode32_2c _ (VX.major_toWord _ _), VX.ofWord_toWord]
  simp only [decodeVintI, join6]; rfl

theorem RoundTrip.vandI (n : Bool) (i : BitVec 6) (k : BitVec 3) (a : BitVec 5) (d : BitVec 5) : RoundTrip.Statement (.vandI n i k a d) := by
  intro h _ rest
  refine word_round _ _ rest (VX.odd_toWord _ _) ?_
  rw [decode32_2c _ (VX.major_toWord _ _), VX.ofWord_toWord]
  simp only [decodeVintI, join6]; rfl

theorem RoundTrip.vorI (n : Bool) (i : BitVec 6) (k : BitVec 3) (a : BitVec 5) (d : BitVec 5) : RoundTrip.Statement (.vorI n i k a d) := by
  intro h _ rest
  refine word_round _ _ rest (VX.odd_toWord _ _) ?_
  rw [decode32_2c _ (VX.major_toWord _ _), VX.ofWord_toWord]
  simp only [decodeVintI, join6]; rfl

theorem RoundTrip.vxorI (n : Bool) (i : BitVec 6) (k : BitVec 3) (a : BitVec 5) (d : BitVec 5) : RoundTrip.Statement (.vxorI n i k a d) := by
  intro h _ rest
  refine word_round _ _ rest (VX.odd_toWord _ _) ?_
  rw [decode32_2c _ (VX.major_toWord _ _), VX.ofWord_toWord]
  simp only [decodeVintI, join6]; rfl

theorem RoundTrip.vshlI (n : Bool) (k : BitVec 3) (i : BitVec 5) (a : BitVec 5) (d : BitVec 5) : RoundTrip.Statement (.vshlI n k i a d) := by
  intro h _ rest
  refine word_round _ _ rest (VX.odd_toWord _ _) ?_
  rw [decode32_2c _ (VX.major_toWord _ _), VX.ofWord_toWord]
  rfl

theorem RoundTrip.vshrI (n : Bool) (k : BitVec 3) (i : BitVec 5) (a : BitVec 5) (d : BitVec 5) : RoundTrip.Statement (.vshrI n k i a d) := by
  intro h _ rest
  refine word_round _ _ rest (VX.odd_toWord _ _) ?_
  rw [decode32_2c _ (VX.major_toWord _ _), VX.ofWord_toWord]
  rfl

theorem RoundTrip.vminI (n : Bool) (i : BitVec 6) (k : BitVec 3) (a : BitVec 5) (d : BitVec 5) : RoundTrip.Statement (.vminI n i k a d) := by
  intro h _ rest
  refine word_round _ _ rest (VX.odd_toWord _ _) ?_
  rw [decode32_2c _ (VX.major_toWord _ _), VX.ofWord_toWord]
  simp only [decodeVintI, join6]; rfl

theorem RoundTrip.vmaxI (n : Bool) (i : BitVec 6) (k : BitVec 3) (a : BitVec 5) (d : BitVec 5) : RoundTrip.Statement (.vmaxI n i k a d) := by
  intro h _ rest
  refine word_round _ _ rest (VX.odd_toWord _ _) ?_
  rw [decode32_2c _ (VX.major_toWord _ _), VX.ofWord_toWord]
  simp only [decodeVintI, join6]; rfl

theorem RoundTrip.vsraI (n : Bool) (k : BitVec 3) (i : BitVec 5) (a : BitVec 5) (d : BitVec 5) : RoundTrip.Statement (.vsraI n k i a d) := by
  intro h _ rest
  refine word_round _ _ rest (VX.odd_toWord _ _) ?_
  rw [decode32_2c _ (VX.major_toWord _ _), VX.ofWord_toWord]
  rfl

theorem RoundTrip.vminuI (n : Bool) (i : BitVec 6) (k : BitVec 3) (a : BitVec 5) (d : BitVec 5) : RoundTrip.Statement (.vminuI n i k a d) := by
  intro h _ rest
  refine word_round _ _ rest (VX.odd_toWord _ _) ?_
  rw [decode32_2c _ (VX.major_toWord _ _), VX.ofWord_toWord]
  simp only [decodeVintI, join6]; rfl

theorem RoundTrip.vmaxuI (n : Bool) (i : BitVec 6) (k : BitVec 3) (a : BitVec 5) (d : BitVec 5) : RoundTrip.Statement (.vmaxuI n i k a d) := by
  intro h _ rest
  refine word_round _ _ rest (VX.odd_toWord _ _) ?_
  rw [decode32_2c _ (VX.major_toWord _ _), VX.ofWord_toWord]
  simp only [decodeVintI, join6]; rfl

theorem RoundTrip.vfadd (n : Bool) (s : Bool) (k : BitVec 3) (b : BitVec 5) (a : BitVec 5) (d : BitVec 5) : RoundTrip.Statement (.vfadd n s k b a d) := by
  intro h _ rest
  refine word_round _ _ rest (VX.odd_toWord _ _) ?_
  rw [decode32_21 _ (VX.major_toWord _ _), VX.ofWord_toWord]
  first | rfl | exact if_pos (by simpa [Instr.wf] using h)

theorem RoundTrip.vfsub (n : Bool) (s : Bool) (k : BitVec 3) (b : BitVec 5) (a : BitVec 5) (d : BitVec 5) : RoundTrip.Statement (.vfsub n s k b a d) := by
  intro h _ rest
  refine word_round _ _ rest (VX.odd_toWord _ _) ?_
  rw [decode32_21 _ (VX.major_toWord _ _), VX.ofWord_toWord]
  first | rfl | exact if_pos (by simpa [Instr.wf] using h)

theorem RoundTrip.vfmul (n : Bool) (s : Bool) (k : BitVec 3) (b : BitVec 5) (a : BitVec 5) (d : BitVec 5) : RoundTrip.Statement (.vfmul n s k b a d) := by
  intro h _ rest
  refine word_round _ _ rest (VX.odd_toWord _ _) ?_
  rw [decode32_21 _ (VX.major_toWord _ _), VX.ofWord_toWord]
  first | rfl | exact if_pos (by simpa [Instr.wf] using h)

theorem RoundTrip.vfmin (n : Bool) (s : Bool) (k : BitVec 3) (b : BitVec 5) (a : BitVec 5) (d : BitVec 5) : RoundTrip.Statement (.vfmin n s k b a d) := by
  intro h _ rest
  refine word_round _ _ rest (VX.odd_toWord _ _) ?_
  rw [decode32_21 _ (VX.major_toWord _ _), VX.ofWord_toWord]
  first | rfl | exact if_pos (by simpa [Instr.wf] using h)

theorem RoundTrip.vfmax (n : Bool) (s : Bool) (k : BitVec 3) (b : BitVec 5) (a : BitVec 5) (d : BitVec 5) : RoundTrip.Statement (.vfmax n s k b a d) := by
  intro h _ rest
  refine word_round _ _ rest (VX.odd_toWord _ _) ?_
  rw [decode32_21 _ (VX.major_toWord _ _), VX.ofWord_toWord]
  first | rfl | exact if_pos (by simpa [Instr.wf] using h)

theorem RoundTrip.vfma (n : Bool) (s : Bool) (k : BitVec 3) (b : BitVec 5) (a : BitVec 5) (d : BitVec 5) : RoundTrip.Statement (.vfma n s k b a d) := by
  intro h _ rest
  refine word_round _ _ rest (VX.odd_toWord _ _) ?_
  rw [decode32_21 _ (VX.major_toWord _ _), VX.ofWord_toWord]
  first | rfl | exact if_pos (by simpa [Instr.wf] using h)

theorem RoundTrip.vfdiv (n : Bool) (s : Bool) (k : BitVec 3) (b : BitVec 5) (a : BitVec 5) (d : BitVec 5) : RoundTrip.Statement (.vfdiv n s k b a d) := by
  intro h _ rest
  refine word_round _ _ rest (VX.odd_toWord _ _) ?_
  rw [decode32_21 _ (VX.major_toWord _ _), VX.ofWord_toWord]
  first | rfl | exact if_pos (by simpa [Instr.wf] using h)

theorem RoundTrip.vfsqrt (n : Bool) (k : BitVec 3) (a : BitVec 5) (d : BitVec 5) : RoundTrip.Statement (.vfsqrt n k a d) := by
  intro h _ rest
  refine word_round _ _ rest (VX.odd_toWord _ _) ?_
  rw [decode32_21 _ (VX.major_toWord _ _), VX.ofWord_toWord]
  first | rfl | exact if_pos (by simpa [Instr.wf] using h)

theorem RoundTrip.vfabs (n : Bool) (k : BitVec 3) (a : BitVec 5) (d : BitVec 5) : RoundTrip.Statement (.vfabs n k a d) := by
  intro h _ rest
  refine word_round _ _ rest (VX.odd_toWord _ _) ?_
  rw [decode32_21 _ (VX.major_toWord _ _), VX.ofWord_toWord]
  first | rfl | exact if_pos (by simpa [Instr.wf] using h)

theorem RoundTrip.vfneg (n : Bool) (k : BitVec 3) (a : BitVec 5) (d : BitVec 5) : RoundTrip.Statement (.vfneg n k a d) := by
  intro h _ rest
  refine word_round _ _ rest (VX.odd_toWord _ _) ?_
  rw [decode32_21 _ (VX.major_toWord _ _), VX.ofWord_toWord]
  first | rfl | exact if_pos (by simpa [Instr.wf] using h)

theorem RoundTrip.vceq (n : Bool) (s : Bool) (k : BitVec 3) (b : BitVec 5) (a : BitVec 5) (d : BitVec 3) : RoundTrip.Statement (.vceq n s k b a d) := by
  intro h _ rest
  refine word_round _ _ rest (VX.odd_toWord _ _) ?_
  rw [decode32_22 _ (VX.major_toWord _ _), VX.ofWord_toWord]
  simp only [decodeVcmp, low3, high3]
  first | rfl | exact if_pos (by simpa [Instr.wf] using h)

theorem RoundTrip.vcne (n : Bool) (s : Bool) (k : BitVec 3) (b : BitVec 5) (a : BitVec 5) (d : BitVec 3) : RoundTrip.Statement (.vcne n s k b a d) := by
  intro h _ rest
  refine word_round _ _ rest (VX.odd_toWord _ _) ?_
  rw [decode32_22 _ (VX.major_toWord _ _), VX.ofWord_toWord]
  simp only [decodeVcmp, low3, high3]
  first | rfl | exact if_pos (by simpa [Instr.wf] using h)

theorem RoundTrip.vclt (n : Bool) (s : Bool) (k : BitVec 3) (b : BitVec 5) (a : BitVec 5) (d : BitVec 3) : RoundTrip.Statement (.vclt n s k b a d) := by
  intro h _ rest
  refine word_round _ _ rest (VX.odd_toWord _ _) ?_
  rw [decode32_22 _ (VX.major_toWord _ _), VX.ofWord_toWord]
  simp only [decodeVcmp, low3, high3]
  first | rfl | exact if_pos (by simpa [Instr.wf] using h)

theorem RoundTrip.vcle (n : Bool) (s : Bool) (k : BitVec 3) (b : BitVec 5) (a : BitVec 5) (d : BitVec 3) : RoundTrip.Statement (.vcle n s k b a d) := by
  intro h _ rest
  refine word_round _ _ rest (VX.odd_toWord _ _) ?_
  rw [decode32_22 _ (VX.major_toWord _ _), VX.ofWord_toWord]
  simp only [decodeVcmp, low3, high3]
  first | rfl | exact if_pos (by simpa [Instr.wf] using h)

theorem RoundTrip.vcltu (n : Bool) (s : Bool) (k : BitVec 3) (b : BitVec 5) (a : BitVec 5) (d : BitVec 3) : RoundTrip.Statement (.vcltu n s k b a d) := by
  intro h _ rest
  refine word_round _ _ rest (VX.odd_toWord _ _) ?_
  rw [decode32_22 _ (VX.major_toWord _ _), VX.ofWord_toWord]
  simp only [decodeVcmp, low3, high3]
  first | rfl | exact if_pos (by simpa [Instr.wf] using h)

theorem RoundTrip.vcleu (n : Bool) (s : Bool) (k : BitVec 3) (b : BitVec 5) (a : BitVec 5) (d : BitVec 3) : RoundTrip.Statement (.vcleu n s k b a d) := by
  intro h _ rest
  refine word_round _ _ rest (VX.odd_toWord _ _) ?_
  rw [decode32_22 _ (VX.major_toWord _ _), VX.ofWord_toWord]
  simp only [decodeVcmp, low3, high3]
  first | rfl | exact if_pos (by simpa [Instr.wf] using h)

theorem RoundTrip.vfceq (n : Bool) (s : Bool) (k : BitVec 3) (b : BitVec 5) (a : BitVec 5) (d : BitVec 3) : RoundTrip.Statement (.vfceq n s k b a d) := by
  intro h _ rest
  refine word_round _ _ rest (VX.odd_toWord _ _) ?_
  rw [decode32_22 _ (VX.major_toWord _ _), VX.ofWord_toWord]
  simp only [decodeVcmp, low3, high3]
  first | rfl | exact if_pos (by simpa [Instr.wf] using h)

theorem RoundTrip.vfclt (n : Bool) (s : Bool) (k : BitVec 3) (b : BitVec 5) (a : BitVec 5) (d : BitVec 3) : RoundTrip.Statement (.vfclt n s k b a d) := by
  intro h _ rest
  refine word_round _ _ rest (VX.odd_toWord _ _) ?_
  rw [decode32_22 _ (VX.major_toWord _ _), VX.ofWord_toWord]
  simp only [decodeVcmp, low3, high3]
  first | rfl | exact if_pos (by simpa [Instr.wf] using h)

theorem RoundTrip.vfcle (n : Bool) (s : Bool) (k : BitVec 3) (b : BitVec 5) (a : BitVec 5) (d : BitVec 3) : RoundTrip.Statement (.vfcle n s k b a d) := by
  intro h _ rest
  refine word_round _ _ rest (VX.odd_toWord _ _) ?_
  rw [decode32_22 _ (VX.major_toWord _ _), VX.ofWord_toWord]
  simp only [decodeVcmp, low3, high3]
  first | rfl | exact if_pos (by simpa [Instr.wf] using h)

theorem RoundTrip.vcvt (n : Bool) (k : BitVec 3) (a : BitVec 5) (d : BitVec 5) : RoundTrip.Statement (.vcvt n k a d) := by
  intro h _ rest
  refine word_round _ _ rest (VX.odd_toWord _ _) ?_
  rw [decode32_23 _ (VX.major_toWord _ _), VX.ofWord_toWord]
  first | rfl | exact if_pos (by simpa [Instr.wf] using h)

theorem RoundTrip.vcvtif (n : Bool) (k : BitVec 3) (a : BitVec 5) (d : BitVec 5) : RoundTrip.Statement (.vcvtif n k a d) := by
  intro h _ rest
  refine word_round _ _ rest (VX.odd_toWord _ _) ?_
  rw [decode32_23 _ (VX.major_toWord _ _), VX.ofWord_toWord]
  first | rfl | exact if_pos (by simpa [Instr.wf] using h)

theorem RoundTrip.vcvtuf (n : Bool) (k : BitVec 3) (a : BitVec 5) (d : BitVec 5) : RoundTrip.Statement (.vcvtuf n k a d) := by
  intro h _ rest
  refine word_round _ _ rest (VX.odd_toWord _ _) ?_
  rw [decode32_23 _ (VX.major_toWord _ _), VX.ofWord_toWord]
  first | rfl | exact if_pos (by simpa [Instr.wf] using h)

theorem RoundTrip.vcvtfi (n : Bool) (k : BitVec 3) (a : BitVec 5) (d : BitVec 5) : RoundTrip.Statement (.vcvtfi n k a d) := by
  intro h _ rest
  refine word_round _ _ rest (VX.odd_toWord _ _) ?_
  rw [decode32_23 _ (VX.major_toWord _ _), VX.ofWord_toWord]
  first | rfl | exact if_pos (by simpa [Instr.wf] using h)

theorem RoundTrip.vcvtfu (n : Bool) (k : BitVec 3) (a : BitVec 5) (d : BitVec 5) : RoundTrip.Statement (.vcvtfu n k a d) := by
  intro h _ rest
  refine word_round _ _ rest (VX.odd_toWord _ _) ?_
  rw [decode32_23 _ (VX.major_toWord _ _), VX.ofWord_toWord]
  first | rfl | exact if_pos (by simpa [Instr.wf] using h)

theorem RoundTrip.vperm (n : Bool) (s : Bool) (k : BitVec 3) (b : BitVec 5) (a : BitVec 5) (d : BitVec 5) : RoundTrip.Statement (.vperm n s k b a d) := by
  intro h _ rest
  refine word_round _ _ rest (VX.odd_toWord _ _) ?_
  rw [decode32_24 _ (VX.major_toWord _ _), VX.ofWord_toWord]
  first | rfl | exact if_pos (by simpa [Instr.wf] using h)

theorem RoundTrip.vslideup (n : Bool) (s : Bool) (k : BitVec 3) (b : BitVec 5) (a : BitVec 5) (d : BitVec 5) : RoundTrip.Statement (.vslideup n s k b a d) := by
  intro h _ rest
  refine word_round _ _ rest (VX.odd_toWord _ _) ?_
  rw [decode32_24 _ (VX.major_toWord _ _), VX.ofWord_toWord]
  first | rfl | exact if_pos (by simpa [Instr.wf] using h)

theorem RoundTrip.vslidedn (n : Bool) (s : Bool) (k : BitVec 3) (b : BitVec 5) (a : BitVec 5) (d : BitVec 5) : RoundTrip.Statement (.vslidedn n s k b a d) := by
  intro h _ rest
  refine word_round _ _ rest (VX.odd_toWord _ _) ?_
  rw [decode32_24 _ (VX.major_toWord _ _), VX.ofWord_toWord]
  first | rfl | exact if_pos (by simpa [Instr.wf] using h)

theorem RoundTrip.vziplo (n : Bool) (s : Bool) (k : BitVec 3) (b : BitVec 5) (a : BitVec 5) (d : BitVec 5) : RoundTrip.Statement (.vziplo n s k b a d) := by
  intro h _ rest
  refine word_round _ _ rest (VX.odd_toWord _ _) ?_
  rw [decode32_24 _ (VX.major_toWord _ _), VX.ofWord_toWord]
  first | rfl | exact if_pos (by simpa [Instr.wf] using h)

theorem RoundTrip.vziphi (n : Bool) (s : Bool) (k : BitVec 3) (b : BitVec 5) (a : BitVec 5) (d : BitVec 5) : RoundTrip.Statement (.vziphi n s k b a d) := by
  intro h _ rest
  refine word_round _ _ rest (VX.odd_toWord _ _) ?_
  rw [decode32_24 _ (VX.major_toWord _ _), VX.ofWord_toWord]
  first | rfl | exact if_pos (by simpa [Instr.wf] using h)

theorem RoundTrip.vcompress (n : Bool) (k : BitVec 3) (a : BitVec 5) (d : BitVec 5) : RoundTrip.Statement (.vcompress n k a d) := by
  intro h _ rest
  refine word_round _ _ rest (VX.odd_toWord _ _) ?_
  rw [decode32_24 _ (VX.major_toWord _ _), VX.ofWord_toWord]
  first | rfl | exact if_pos (by simpa [Instr.wf] using h)

theorem RoundTrip.vexpand (n : Bool) (k : BitVec 3) (a : BitVec 5) (d : BitVec 5) : RoundTrip.Statement (.vexpand n k a d) := by
  intro h _ rest
  refine word_round _ _ rest (VX.odd_toWord _ _) ?_
  rw [decode32_24 _ (VX.major_toWord _ _), VX.ofWord_toWord]
  first | rfl | exact if_pos (by simpa [Instr.wf] using h)

theorem RoundTrip.vextr (n : Bool) (b : BitVec 5) (a : BitVec 5) (d : BitVec 5) : RoundTrip.Statement (.vextr n b a d) := by
  intro h _ rest
  refine word_round _ _ rest (VX.odd_toWord _ _) ?_
  rw [decode32_24 _ (VX.major_toWord _ _), VX.ofWord_toWord]
  first | rfl | exact if_pos (by simpa [Instr.wf] using h)

theorem RoundTrip.vradd (n : Bool) (k : BitVec 3) (a : BitVec 5) (d : BitVec 5) : RoundTrip.Statement (.vradd n k a d) := by
  intro h _ rest
  refine word_round _ _ rest (VX.odd_toWord _ _) ?_
  rw [decode32_25 _ (VX.major_toWord _ _), VX.ofWord_toWord]
  first | rfl | exact if_pos (by simpa [Instr.wf] using h)

theorem RoundTrip.vrmin (n : Bool) (k : BitVec 3) (a : BitVec 5) (d : BitVec 5) : RoundTrip.Statement (.vrmin n k a d) := by
  intro h _ rest
  refine word_round _ _ rest (VX.odd_toWord _ _) ?_
  rw [decode32_25 _ (VX.major_toWord _ _), VX.ofWord_toWord]
  first | rfl | exact if_pos (by simpa [Instr.wf] using h)

theorem RoundTrip.vrmax (n : Bool) (k : BitVec 3) (a : BitVec 5) (d : BitVec 5) : RoundTrip.Statement (.vrmax n k a d) := by
  intro h _ rest
  refine word_round _ _ rest (VX.odd_toWord _ _) ?_
  rw [decode32_25 _ (VX.major_toWord _ _), VX.ofWord_toWord]
  first | rfl | exact if_pos (by simpa [Instr.wf] using h)

theorem RoundTrip.vrand (n : Bool) (k : BitVec 3) (a : BitVec 5) (d : BitVec 5) : RoundTrip.Statement (.vrand n k a d) := by
  intro h _ rest
  refine word_round _ _ rest (VX.odd_toWord _ _) ?_
  rw [decode32_25 _ (VX.major_toWord _ _), VX.ofWord_toWord]
  first | rfl | exact if_pos (by simpa [Instr.wf] using h)

theorem RoundTrip.vror (n : Bool) (k : BitVec 3) (a : BitVec 5) (d : BitVec 5) : RoundTrip.Statement (.vror n k a d) := by
  intro h _ rest
  refine word_round _ _ rest (VX.odd_toWord _ _) ?_
  rw [decode32_25 _ (VX.major_toWord _ _), VX.ofWord_toWord]
  first | rfl | exact if_pos (by simpa [Instr.wf] using h)

theorem RoundTrip.vrxor (n : Bool) (k : BitVec 3) (a : BitVec 5) (d : BitVec 5) : RoundTrip.Statement (.vrxor n k a d) := by
  intro h _ rest
  refine word_round _ _ rest (VX.odd_toWord _ _) ?_
  rw [decode32_25 _ (VX.major_toWord _ _), VX.ofWord_toWord]
  first | rfl | exact if_pos (by simpa [Instr.wf] using h)

theorem RoundTrip.vrfadd (n : Bool) (k : BitVec 3) (a : BitVec 5) (d : BitVec 5) : RoundTrip.Statement (.vrfadd n k a d) := by
  intro h _ rest
  refine word_round _ _ rest (VX.odd_toWord _ _) ?_
  rw [decode32_25 _ (VX.major_toWord _ _), VX.ofWord_toWord]
  first | rfl | exact if_pos (by simpa [Instr.wf] using h)

theorem RoundTrip.vrfmax (n : Bool) (k : BitVec 3) (a : BitVec 5) (d : BitVec 5) : RoundTrip.Statement (.vrfmax n k a d) := by
  intro h _ rest
  refine word_round _ _ rest (VX.odd_toWord _ _) ?_
  rw [decode32_25 _ (VX.major_toWord _ _), VX.ofWord_toWord]
  first | rfl | exact if_pos (by simpa [Instr.wf] using h)

theorem RoundTrip.kand (k : BitVec 3) (b : BitVec 3) (a : BitVec 3) (d : BitVec 3) : RoundTrip.Statement (.kand k b a d) := by
  intro h _ rest
  refine word_round _ _ rest (VX.odd_toWord _ _) ?_
  rw [decode32_26 _ (VX.major_toWord _ _), VX.ofWord_toWord]
  simp only [decodeVmask, low3, high3]
  first | rfl | exact if_pos (by simpa [Instr.wf] using h)

theorem RoundTrip.kor (k : BitVec 3) (b : BitVec 3) (a : BitVec 3) (d : BitVec 3) : RoundTrip.Statement (.kor k b a d) := by
  intro h _ rest
  refine word_round _ _ rest (VX.odd_toWord _ _) ?_
  rw [decode32_26 _ (VX.major_toWord _ _), VX.ofWord_toWord]
  simp only [decodeVmask, low3, high3]
  first | rfl | exact if_pos (by simpa [Instr.wf] using h)

theorem RoundTrip.kxor (k : BitVec 3) (b : BitVec 3) (a : BitVec 3) (d : BitVec 3) : RoundTrip.Statement (.kxor k b a d) := by
  intro h _ rest
  refine word_round _ _ rest (VX.odd_toWord _ _) ?_
  rw [decode32_26 _ (VX.major_toWord _ _), VX.ofWord_toWord]
  simp only [decodeVmask, low3, high3]
  first | rfl | exact if_pos (by simpa [Instr.wf] using h)

theorem RoundTrip.kandn (k : BitVec 3) (b : BitVec 3) (a : BitVec 3) (d : BitVec 3) : RoundTrip.Statement (.kandn k b a d) := by
  intro h _ rest
  refine word_round _ _ rest (VX.odd_toWord _ _) ?_
  rw [decode32_26 _ (VX.major_toWord _ _), VX.ofWord_toWord]
  simp only [decodeVmask, low3, high3]
  first | rfl | exact if_pos (by simpa [Instr.wf] using h)

theorem RoundTrip.knot (k : BitVec 3) (a : BitVec 3) (d : BitVec 3) : RoundTrip.Statement (.knot k a d) := by
  intro h _ rest
  refine word_round _ _ rest (VX.odd_toWord _ _) ?_
  rw [decode32_26 _ (VX.major_toWord _ _), VX.ofWord_toWord]
  simp only [decodeVmask, low3, high3]
  first | rfl | exact if_pos (by simpa [Instr.wf] using h)

theorem RoundTrip.kmov (k : BitVec 3) (b : BitVec 5) (d : BitVec 3) : RoundTrip.Statement (.kmov k b d) := by
  intro h _ rest
  refine word_round _ _ rest (VX.odd_toWord _ _) ?_
  rw [decode32_26 _ (VX.major_toWord _ _), VX.ofWord_toWord]
  simp only [decodeVmask, low3, high3]
  first | rfl | exact if_pos (by simpa [Instr.wf] using h)

theorem RoundTrip.kread (k : BitVec 3) (a : BitVec 3) (d : BitVec 5) : RoundTrip.Statement (.kread k a d) := by
  intro h _ rest
  refine word_round _ _ rest (VX.odd_toWord _ _) ?_
  rw [decode32_26 _ (VX.major_toWord _ _), VX.ofWord_toWord]
  simp only [decodeVmask, low3, high3]
  first | rfl | exact if_pos (by simpa [Instr.wf] using h)

theorem RoundTrip.kpopc (k : BitVec 3) (a : BitVec 3) (d : BitVec 5) : RoundTrip.Statement (.kpopc k a d) := by
  intro h _ rest
  refine word_round _ _ rest (VX.odd_toWord _ _) ?_
  rw [decode32_26 _ (VX.major_toWord _ _), VX.ofWord_toWord]
  simp only [decodeVmask, low3, high3]
  first | rfl | exact if_pos (by simpa [Instr.wf] using h)

theorem RoundTrip.kffs (k : BitVec 3) (a : BitVec 3) (d : BitVec 5) : RoundTrip.Statement (.kffs k a d) := by
  intro h _ rest
  refine word_round _ _ rest (VX.odd_toWord _ _) ?_
  rw [decode32_26 _ (VX.major_toWord _ _), VX.ofWord_toWord]
  simp only [decodeVmask, low3, high3]
  first | rfl | exact if_pos (by simpa [Instr.wf] using h)

theorem RoundTrip.vqnt (n : Bool) (a : BitVec 5) (d : BitVec 5) : RoundTrip.Statement (.vqnt n a d) := by
  intro h _ rest
  refine word_round _ _ rest (VX.odd_toWord _ _) ?_
  rw [decode32_2a _ (VX.major_toWord _ _), VX.ofWord_toWord]
  first | rfl | exact if_pos (by simpa [Instr.wf] using h)

theorem RoundTrip.vdqnt (n : Bool) (a : BitVec 5) (d : BitVec 5) : RoundTrip.Statement (.vdqnt n a d) := by
  intro h _ rest
  refine word_round _ _ rest (VX.odd_toWord _ _) ?_
  rw [decode32_2a _ (VX.major_toWord _ _), VX.ofWord_toWord]
  first | rfl | exact if_pos (by simpa [Instr.wf] using h)

theorem RoundTrip.vdot (n : Bool) (b : BitVec 5) (a : BitVec 5) (d : BitVec 5) : RoundTrip.Statement (.vdot n b a d) := by
  intro h _ rest
  refine word_round _ _ rest (VX.odd_toWord _ _) ?_
  rw [decode32_2a _ (VX.major_toWord _ _), VX.ofWord_toWord]
  first | rfl | exact if_pos (by simpa [Instr.wf] using h)

theorem RoundTrip.vhist (n : Bool) (k : BitVec 3) (a : BitVec 5) (d : BitVec 5) : RoundTrip.Statement (.vhist n k a d) := by
  intro h _ rest
  refine word_round _ _ rest (VX.odd_toWord _ _) ?_
  rw [decode32_2b _ (VX.major_toWord _ _), VX.ofWord_toWord]
  first | rfl | exact if_pos (by simpa [Instr.wf] using h)

theorem RoundTrip.vld (e : BitVec 2) (k : BitVec 3) (a : BitVec 5) (d : BitVec 5) : RoundTrip.Statement (.vld e k a d) := by
  intro h _ rest
  refine word_round _ _ rest (VM.odd_toWord _ _) ?_
  rw [decode32_27 _ (VM.major_toWord _ _), VM.ofWord_toWord]
  first | rfl | exact if_pos (by simpa [Instr.wf] using h)

theorem RoundTrip.vlds (e : BitVec 2) (k : BitVec 3) (t : BitVec 5) (a : BitVec 5) (d : BitVec 5) : RoundTrip.Statement (.vlds e k t a d) := by
  intro h _ rest
  refine word_round _ _ rest (VM.odd_toWord _ _) ?_
  rw [decode32_27 _ (VM.major_toWord _ _), VM.ofWord_toWord]
  first | rfl | exact if_pos (by simpa [Instr.wf] using h)

theorem RoundTrip.vldbc (e : BitVec 2) (k : BitVec 3) (a : BitVec 5) (d : BitVec 5) : RoundTrip.Statement (.vldbc e k a d) := by
  intro h _ rest
  refine word_round _ _ rest (VM.odd_toWord _ _) ?_
  rw [decode32_27 _ (VM.major_toWord _ _), VM.ofWord_toWord]
  first | rfl | exact if_pos (by simpa [Instr.wf] using h)

theorem RoundTrip.vldb (a : BitVec 5) (d : BitVec 5) : RoundTrip.Statement (.vldb a d) := by
  intro h _ rest
  refine word_round _ _ rest (VM.odd_toWord _ _) ?_
  rw [decode32_27 _ (VM.major_toWord _ _), VM.ofWord_toWord]
  first | rfl | exact if_pos (by simpa [Instr.wf] using h)

theorem RoundTrip.vst (e : BitVec 2) (k : BitVec 3) (a : BitVec 5) (d : BitVec 5) : RoundTrip.Statement (.vst e k a d) := by
  intro h _ rest
  refine word_round _ _ rest (VM.odd_toWord _ _) ?_
  rw [decode32_28 _ (VM.major_toWord _ _), VM.ofWord_toWord]
  first | rfl | exact if_pos (by simpa [Instr.wf] using h)

theorem RoundTrip.vsts (e : BitVec 2) (k : BitVec 3) (t : BitVec 5) (a : BitVec 5) (d : BitVec 5) : RoundTrip.Statement (.vsts e k t a d) := by
  intro h _ rest
  refine word_round _ _ rest (VM.odd_toWord _ _) ?_
  rw [decode32_28 _ (VM.major_toWord _ _), VM.ofWord_toWord]
  first | rfl | exact if_pos (by simpa [Instr.wf] using h)

theorem RoundTrip.vgather (e : BitVec 2) (k : BitVec 3) (x : BitVec 5) (a : BitVec 5) (d : BitVec 5) : RoundTrip.Statement (.vgather e k x a d) := by
  intro h _ rest
  refine word_round _ _ rest (VM.odd_toWord _ _) ?_
  rw [decode32_29 _ (VM.major_toWord _ _), VM.ofWord_toWord]
  first | rfl | exact if_pos (by simpa [Instr.wf] using h)

theorem RoundTrip.vscatter (e : BitVec 2) (k : BitVec 3) (x : BitVec 5) (a : BitVec 5) (d : BitVec 5) : RoundTrip.Statement (.vscatter e k x a d) := by
  intro h _ rest
  refine word_round _ _ rest (VM.odd_toWord _ _) ?_
  rw [decode32_29 _ (VM.major_toWord _ _), VM.ofWord_toWord]
  first | rfl | exact if_pos (by simpa [Instr.wf] using h)

theorem RoundTrip.nop : RoundTrip.Statement (.nop) := by
  intro _ _ rest; rfl

theorem RoundTrip.vmov16 (m : Bool) (b : BitVec 5) (d : BitVec 5) : RoundTrip.Statement (.vmov16 m b d) := by
  intro h _ rest
  obtain ⟨e1, e2, e3, e4, e5⟩ := cutHalf m b d 0
  have ne : halfWord m b d 0 ≠ 0 := by
    intro hz
    rw [hz] at e3 e4 e5
    subst e3 e4 e5
    exact Bool.noConfusion h
  refine (decode_half _ rest e1).trans ?_
  simp only [decode16, e2, e3, e4, e5]
  exact congrArg (fun x => Except.ok (x, rest)) (if_neg ne)

theorem RoundTrip.vadd16 (m : Bool) (b : BitVec 5) (d : BitVec 5) : RoundTrip.Statement (.vadd16 m b d) := by
  intro _ _ rest
  obtain ⟨e1, e2, e3, e4, e5⟩ := cutHalf m b d 1
  refine (decode_half _ rest e1).trans ?_
  simp only [decode16, e2, e3, e4, e5]; rfl

theorem RoundTrip.vsub16 (m : Bool) (b : BitVec 5) (d : BitVec 5) : RoundTrip.Statement (.vsub16 m b d) := by
  intro _ _ rest
  obtain ⟨e1, e2, e3, e4, e5⟩ := cutHalf m b d 2
  refine (decode_half _ rest e1).trans ?_
  simp only [decode16, e2, e3, e4, e5]; rfl

theorem RoundTrip.vmul16 (m : Bool) (b : BitVec 5) (d : BitVec 5) : RoundTrip.Statement (.vmul16 m b d) := by
  intro _ _ rest
  obtain ⟨e1, e2, e3, e4, e5⟩ := cutHalf m b d 3
  refine (decode_half _ rest e1).trans ?_
  simp only [decode16, e2, e3, e4, e5]; rfl

theorem RoundTrip.vand16 (m : Bool) (b : BitVec 5) (d : BitVec 5) : RoundTrip.Statement (.vand16 m b d) := by
  intro _ _ rest
  obtain ⟨e1, e2, e3, e4, e5⟩ := cutHalf m b d 4
  refine (decode_half _ rest e1).trans ?_
  simp only [decode16, e2, e3, e4, e5]; rfl

theorem RoundTrip.vor16 (m : Bool) (b : BitVec 5) (d : BitVec 5) : RoundTrip.Statement (.vor16 m b d) := by
  intro _ _ rest
  obtain ⟨e1, e2, e3, e4, e5⟩ := cutHalf m b d 5
  refine (decode_half _ rest e1).trans ?_
  simp only [decode16, e2, e3, e4, e5]; rfl

theorem RoundTrip.vxor16 (m : Bool) (b : BitVec 5) (d : BitVec 5) : RoundTrip.Statement (.vxor16 m b d) := by
  intro _ _ rest
  obtain ⟨e1, e2, e3, e4, e5⟩ := cutHalf m b d 6
  refine (decode_half _ rest e1).trans ?_
  simp only [decode16, e2, e3, e4, e5]; rfl

theorem RoundTrip.vshl16 (m : Bool) (b : BitVec 5) (d : BitVec 5) : RoundTrip.Statement (.vshl16 m b d) := by
  intro _ _ rest
  obtain ⟨e1, e2, e3, e4, e5⟩ := cutHalf m b d 7
  refine (decode_half _ rest e1).trans ?_
  simp only [decode16, e2, e3, e4, e5]; rfl

theorem RoundTrip.vshr16 (m : Bool) (b : BitVec 5) (d : BitVec 5) : RoundTrip.Statement (.vshr16 m b d) := by
  intro _ _ rest
  obtain ⟨e1, e2, e3, e4, e5⟩ := cutHalf m b d 8
  refine (decode_half _ rest e1).trans ?_
  simp only [decode16, e2, e3, e4, e5]; rfl

theorem RoundTrip.vmin16 (m : Bool) (b : BitVec 5) (d : BitVec 5) : RoundTrip.Statement (.vmin16 m b d) := by
  intro _ _ rest
  obtain ⟨e1, e2, e3, e4, e5⟩ := cutHalf m b d 9
  refine (decode_half _ rest e1).trans ?_
  simp only [decode16, e2, e3, e4, e5]; rfl

theorem RoundTrip.vmax16 (m : Bool) (b : BitVec 5) (d : BitVec 5) : RoundTrip.Statement (.vmax16 m b d) := by
  intro _ _ rest
  obtain ⟨e1, e2, e3, e4, e5⟩ := cutHalf m b d 10
  refine (decode_half _ rest e1).trans ?_
  simp only [decode16, e2, e3, e4, e5]; rfl

theorem RoundTrip.vfadd16 (m : Bool) (b : BitVec 5) (d : BitVec 5) : RoundTrip.Statement (.vfadd16 m b d) := by
  intro _ _ rest
  obtain ⟨e1, e2, e3, e4, e5⟩ := cutHalf m b d 11
  refine (decode_half _ rest e1).trans ?_
  simp only [decode16, e2, e3, e4, e5]; rfl

theorem RoundTrip.vfsub16 (m : Bool) (b : BitVec 5) (d : BitVec 5) : RoundTrip.Statement (.vfsub16 m b d) := by
  intro _ _ rest
  obtain ⟨e1, e2, e3, e4, e5⟩ := cutHalf m b d 12
  refine (decode_half _ rest e1).trans ?_
  simp only [decode16, e2, e3, e4, e5]; rfl

theorem RoundTrip.vfmul16 (m : Bool) (b : BitVec 5) (d : BitVec 5) : RoundTrip.Statement (.vfmul16 m b d) := by
  intro _ _ rest
  obtain ⟨e1, e2, e3, e4, e5⟩ := cutHalf m b d 13
  refine (decode_half _ rest e1).trans ?_
  simp only [decode16, e2, e3, e4, e5]; rfl

theorem RoundTrip.vfmin16 (m : Bool) (b : BitVec 5) (d : BitVec 5) : RoundTrip.Statement (.vfmin16 m b d) := by
  intro _ _ rest
  obtain ⟨e1, e2, e3, e4, e5⟩ := cutHalf m b d 14
  refine (decode_half _ rest e1).trans ?_
  simp only [decode16, e2, e3, e4, e5]; rfl

theorem RoundTrip.vfmax16 (m : Bool) (b : BitVec 5) (d : BitVec 5) : RoundTrip.Statement (.vfmax16 m b d) := by
  intro _ _ rest
  obtain ⟨e1, e2, e3, e4, e5⟩ := cutHalf m b d 15
  refine (decode_half _ rest e1).trans ?_
  simp only [decode16, e2, e3, e4, e5]; rfl

theorem RoundTrip.longLatencyResult (t : Nat) : RoundTrip.Statement (.longLatencyResult t) := by
  intro _ h; exact Bool.noConfusion h

theorem RoundTrip.barrierArrival (t : Nat) : RoundTrip.Statement (.barrierArrival t) := by
  intro _ h; exact Bool.noConfusion h

theorem RoundTrip.activeMessage (src : Src) (k : Nat) : RoundTrip.Statement (.activeMessage src k) := by
  intro _ h; exact Bool.noConfusion h

theorem RoundTrip.meetRegistration (t : Nat) : RoundTrip.Statement (.meetRegistration t) := by
  intro _ h; exact Bool.noConfusion h

theorem RoundTrip.meetDeadline (weld : Bool) (unit e : Nat) : RoundTrip.Statement (.meetDeadline weld unit e) := by
  intro _ h; exact Bool.noConfusion h

theorem RoundTrip.quiescenceRelease (launch : Nat) : RoundTrip.Statement (.quiescenceRelease launch) := by
  intro _ h; exact Bool.noConfusion h

theorem RoundTrip.alignTimeout (cl : Nat) : RoundTrip.Statement (.alignTimeout cl) := by
  intro _ h; exact Bool.noConfusion h

theorem RoundTrip.forwardedRecordArrival (cl : Nat) : RoundTrip.Statement (.forwardedRecordArrival cl) := by
  intro _ h; exact Bool.noConfusion h

theorem RoundTrip.taskDispatch (k : Nat) : RoundTrip.Statement (.taskDispatch k) := by
  intro _ h; exact Bool.noConfusion h

theorem RoundTrip.taskStartFreeContext (k : Nat) : RoundTrip.Statement (.taskStartFreeContext k) := by
  intro _ h; exact Bool.noConfusion h

theorem RoundTrip.taskSteal (k : Nat) : RoundTrip.Statement (.taskSteal k) := by
  intro _ h; exact Bool.noConfusion h

theorem RoundTrip.tileOperandsConsumed (k e : Nat) : RoundTrip.Statement (.tileOperandsConsumed k e) := by
  intro _ h; exact Bool.noConfusion h

theorem RoundTrip.mmaStep (k : Nat) : RoundTrip.Statement (.mmaStep k) := by
  intro _ h; exact Bool.noConfusion h

theorem RoundTrip.mstoreFillStep (k : Nat) : RoundTrip.Statement (.mstoreFillStep k) := by
  intro _ h; exact Bool.noConfusion h

theorem RoundTrip.accumulatorClear (k : Nat) (one : Bool) : RoundTrip.Statement (.accumulatorClear k one) := by
  intro _ h; exact Bool.noConfusion h

theorem RoundTrip.engineCommandStart (g : Nat) : RoundTrip.Statement (.engineCommandStart g) := by
  intro _ h; exact Bool.noConfusion h

theorem RoundTrip.engineChunkStart (g : Nat) : RoundTrip.Statement (.engineChunkStart g) := by
  intro _ h; exact Bool.noConfusion h

theorem RoundTrip.engineFinalStatus (g cmd : Nat) : RoundTrip.Statement (.engineFinalStatus g cmd) := by
  intro _ h; exact Bool.noConfusion h

theorem RoundTrip.engineReply (g : Nat) (h : Home) : RoundTrip.Statement (.engineReply g h) := by
  intro _ h; exact Bool.noConfusion h

theorem RoundTrip.engineAck (g : Nat) (h : Home) : RoundTrip.Statement (.engineAck g h) := by
  intro _ h; exact Bool.noConfusion h

theorem RoundTrip.engineSettle (g : Nat) (h : Home) : RoundTrip.Statement (.engineSettle g h) := by
  intro _ h; exact Bool.noConfusion h

theorem RoundTrip.registerWrite (r : RegRef) (v : BitVec 64) : RoundTrip.Statement (.registerWrite r v) := by
  intro _ h; exact Bool.noConfusion h

theorem RoundTrip.mcWrite (t : Nat) (v : BitVec 64) : RoundTrip.Statement (.mcWrite t v) := by
  intro _ h; exact Bool.noConfusion h

theorem RoundTrip.lgrantWrite (t : Nat) (v : BitVec 64) : RoundTrip.Statement (.lgrantWrite t v) := by
  intro _ h; exact Bool.noConfusion h

theorem RoundTrip.srseedWrite (t : Nat) (v : BitVec 64) : RoundTrip.Statement (.srseedWrite t v) := by
  intro _ h; exact Bool.noConfusion h

theorem RoundTrip.xfringWrite (t : Nat) (v : BitVec 64) : RoundTrip.Statement (.xfringWrite t v) := by
  intro _ h; exact Bool.noConfusion h

theorem RoundTrip.xfheadWrite (t : Nat) (v : BitVec 64) : RoundTrip.Statement (.xfheadWrite t v) := by
  intro _ h; exact Bool.noConfusion h

theorem RoundTrip.xfclaimRead (t : Nat) (d : BitVec 5) : RoundTrip.Statement (.xfclaimRead t d) := by
  intro _ h; exact Bool.noConfusion h

theorem RoundTrip.transformWake (k : Nat) : RoundTrip.Statement (.transformWake k) := by
  intro _ h; exact Bool.noConfusion h

theorem RoundTrip.clpartWrite (cl : Nat) (v : BitVec 64) : RoundTrip.Statement (.clpartWrite cl v) := by
  intro _ h; exact Bool.noConfusion h

theorem RoundTrip.clpartLeavingLine (cl : Nat) : RoundTrip.Statement (.clpartLeavingLine cl) := by
  intro _ h; exact Bool.noConfusion h

theorem RoundTrip.clpartShrinkComplete (cl : Nat) : RoundTrip.Statement (.clpartShrinkComplete cl) := by
  intro _ h; exact Bool.noConfusion h

theorem RoundTrip.hclrGo (cl : Nat) (v : BitVec 64) : RoundTrip.Statement (.hclrGo cl v) := by
  intro _ h; exact Bool.noConfusion h

theorem RoundTrip.hclrComplete (cl : Nat) : RoundTrip.Statement (.hclrComplete cl) := by
  intro _ h; exact Bool.noConfusion h

theorem RoundTrip.hearthUpdate (cl : Nat) : RoundTrip.Statement (.hearthUpdate cl) := by
  intro _ h; exact Bool.noConfusion h

theorem RoundTrip.hearthSummaryBroadcast (cl : Nat) : RoundTrip.Statement (.hearthSummaryBroadcast cl) := by
  intro _ h; exact Bool.noConfusion h

theorem RoundTrip.hearthSummaryApply (dst src : Nat) : RoundTrip.Statement (.hearthSummaryApply dst src) := by
  intro _ h; exact Bool.noConfusion h

theorem RoundTrip.tlbiCompletion (cl : Nat) : RoundTrip.Statement (.tlbiCompletion cl) := by
  intro _ h; exact Bool.noConfusion h

theorem RoundTrip.cwbWritebackDone (t : Nat) : RoundTrip.Statement (.cwbWritebackDone t) := by
  intro _ h; exact Bool.noConfusion h

theorem RoundTrip.registerRefill (t : Nat) : RoundTrip.Statement (.registerRefill t) := by
  intro _ h; exact Bool.noConfusion h

theorem RoundTrip.performLoad (src : Src) (h : Home) : RoundTrip.Statement (.performLoad src h) := by
  intro _ h; exact Bool.noConfusion h

theorem RoundTrip.performStore (src : Src) (h : Home) : RoundTrip.Statement (.performStore src h) := by
  intro _ h; exact Bool.noConfusion h

theorem RoundTrip.performAtomic (src : Src) (h : Home) : RoundTrip.Statement (.performAtomic src h) := by
  intro _ h; exact Bool.noConfusion h

theorem RoundTrip.recall (line : Nat) : RoundTrip.Statement (.recall line) := by
  intro _ h; exact Bool.noConfusion h

theorem RoundTrip.l1Eviction (k line : Nat) : RoundTrip.Statement (.l1Eviction k line) := by
  intro _ h; exact Bool.noConfusion h

theorem RoundTrip.processReply (k : Nat) (h : Home) : RoundTrip.Statement (.processReply k h) := by
  intro _ h; exact Bool.noConfusion h

theorem RoundTrip.processAck (k : Nat) (h : Home) : RoundTrip.Statement (.processAck k h) := by
  intro _ h; exact Bool.noConfusion h

theorem RoundTrip.processAtomicReply (k : Nat) (h : Home) : RoundTrip.Statement (.processAtomicReply k h) := by
  intro _ h; exact Bool.noConfusion h

theorem RoundTrip.processInv (k : Nat) (h : Home) : RoundTrip.Statement (.processInv k h) := by
  intro _ h; exact Bool.noConfusion h

theorem RoundTrip.processSettle (k : Nat) (h : Home) : RoundTrip.Statement (.processSettle k h) := by
  intro _ h; exact Bool.noConfusion h

theorem RoundTrip.bankDrowsy (k b : Nat) : RoundTrip.Statement (.bankDrowsy k b) := by
  intro _ h; exact Bool.noConfusion h

theorem RoundTrip.bankWake (k b : Nat) : RoundTrip.Statement (.bankWake k b) := by
  intro _ h; exact Bool.noConfusion h

theorem RoundTrip.coreGate (k : Nat) : RoundTrip.Statement (.coreGate k) := by
  intro _ h; exact Bool.noConfusion h

theorem RoundTrip.coreWake (k : Nat) : RoundTrip.Statement (.coreWake k) := by
  intro _ h; exact Bool.noConfusion h

theorem RoundTrip.expanderExpandComplete (cl blk : Nat) (ue : Bool) : RoundTrip.Statement (.expanderExpandComplete cl blk ue) := by
  intro _ h; exact Bool.noConfusion h

theorem RoundTrip.expanderCompressComplete (cl blk : Nat) : RoundTrip.Statement (.expanderCompressComplete cl blk) := by
  intro _ h; exact Bool.noConfusion h

theorem RoundTrip.tscMessageArrival (cl : Nat) : RoundTrip.Statement (.tscMessageArrival cl) := by
  intro _ h; exact Bool.noConfusion h

theorem RoundTrip.tlbWriteback (k : Nat) : RoundTrip.Statement (.tlbWriteback k) := by
  intro _ h; exact Bool.noConfusion h

theorem RoundTrip.tscMsgRead (cl : Nat) : RoundTrip.Statement (.tscMsgRead cl) := by
  intro _ h; exact Bool.noConfusion h

theorem RoundTrip.tinboxPop (cl : Nat) : RoundTrip.Statement (.tinboxPop cl) := by
  intro _ h; exact Bool.noConfusion h

theorem RoundTrip.tinboxDefer (cl : Nat) : RoundTrip.Statement (.tinboxDefer cl) := by
  intro _ h; exact Bool.noConfusion h

theorem RoundTrip.tfpost (cl : Nat) (v : BitVec 64) : RoundTrip.Statement (.tfpost cl v) := by
  intro _ h; exact Bool.noConfusion h

theorem RoundTrip.tfattach (cl : Nat) (v : BitVec 64) : RoundTrip.Statement (.tfattach cl v) := by
  intro _ h; exact Bool.noConfusion h

theorem RoundTrip.faultAnswerRetry (cl asid seq : Nat) : RoundTrip.Statement (.faultAnswerRetry cl asid seq) := by
  intro _ h; exact Bool.noConfusion h

theorem RoundTrip.faultAnswerKill (cl asid seq : Nat) : RoundTrip.Statement (.faultAnswerKill cl asid seq) := by
  intro _ h; exact Bool.noConfusion h

theorem RoundTrip.faultAnswerTimeout (cl seq : Nat) : RoundTrip.Statement (.faultAnswerTimeout cl seq) := by
  intro _ h; exact Bool.noConfusion h

theorem RoundTrip.fetchBlockDelivery (cl asid va : Nat) : RoundTrip.Statement (.fetchBlockDelivery cl asid va) := by
  intro _ h; exact Bool.noConfusion h

theorem RoundTrip.ebudgetRefill : RoundTrip.Statement (.ebudgetRefill) := by
  intro _ h; exact Bool.noConfusion h

theorem RoundTrip.channelDeadlockScan (cl : Nat) : RoundTrip.Statement (.channelDeadlockScan cl) := by
  intro _ h; exact Bool.noConfusion h

theorem RoundTrip.qtailWrite (fn q : Nat) (v : BitVec 64) : RoundTrip.Statement (.qtailWrite fn q v) := by
  intro _ h; exact Bool.noConfusion h

theorem RoundTrip.qcfgWrite (fn q : Nat) (v : BitVec 64) : RoundTrip.Statement (.qcfgWrite fn q v) := by
  intro _ h; exact Bool.noConfusion h

theorem RoundTrip.nopEntry (fn q : Nat) : RoundTrip.Statement (.nopEntry fn q) := by
  intro _ h; exact Bool.noConfusion h

theorem RoundTrip.launchEntry (fn q : Nat) : RoundTrip.Statement (.launchEntry fn q) := by
  intro _ h; exact Bool.noConfusion h

theorem RoundTrip.grun (fn q : Nat) : RoundTrip.Statement (.grun fn q) := by
  intro _ h; exact Bool.noConfusion h

theorem RoundTrip.gpatch (fn q : Nat) : RoundTrip.Statement (.gpatch fn q) := by
  intro _ h; exact Bool.noConfusion h

theorem RoundTrip.cancelEntry (fn q : Nat) : RoundTrip.Statement (.cancelEntry fn q) := by
  intro _ h; exact Bool.noConfusion h

theorem RoundTrip.gfree (fn q : Nat) : RoundTrip.Statement (.gfree fn q) := by
  intro _ h; exact Bool.noConfusion h

theorem RoundTrip.reservedEntry (fn q : Nat) : RoundTrip.Statement (.reservedEntry fn q) := by
  intro _ h; exact Bool.noConfusion h

theorem RoundTrip.graphNodeAccept (fn slot bank : Nat) : RoundTrip.Statement (.graphNodeAccept fn slot bank) := by
  intro _ h; exact Bool.noConfusion h

theorem RoundTrip.cancelArrival (launch k : Nat) : RoundTrip.Statement (.cancelArrival launch k) := by
  intro _ h; exact Bool.noConfusion h

theorem RoundTrip.allocatorPass : RoundTrip.Statement (.allocatorPass) := by
  intro _ h; exact Bool.noConfusion h

theorem RoundTrip.launchStart (launch : Nat) : RoundTrip.Statement (.launchStart launch) := by
  intro _ h; exact Bool.noConfusion h

theorem RoundTrip.usageAccounting : RoundTrip.Statement (.usageAccounting) := by
  intro _ h; exact Bool.noConfusion h

theorem RoundTrip.preemptContext (cp : Nat) (v : BitVec 64) : RoundTrip.Statement (.preemptContext cp v) := by
  intro _ h; exact Bool.noConfusion h

theorem RoundTrip.preemptCore (cp : Nat) (v : BitVec 64) : RoundTrip.Statement (.preemptCore cp v) := by
  intro _ h; exact Bool.noConfusion h

theorem RoundTrip.preemptLaunch (cp : Nat) (v : BitVec 64) : RoundTrip.Statement (.preemptLaunch cp v) := by
  intro _ h; exact Bool.noConfusion h

theorem RoundTrip.preemptionSave (t : Nat) : RoundTrip.Statement (.preemptionSave t) := by
  intro _ h; exact Bool.noConfusion h

theorem RoundTrip.preemptionLimitExpiry (t : Nat) : RoundTrip.Statement (.preemptionLimitExpiry t) := by
  intro _ h; exact Bool.noConfusion h

theorem RoundTrip.contextRestore (addr k c : Nat) : RoundTrip.Statement (.contextRestore addr k c) := by
  intro _ h; exact Bool.noConfusion h

theorem RoundTrip.contextResume (t : Nat) : RoundTrip.Statement (.contextResume t) := by
  intro _ h; exact Bool.noConfusion h

theorem RoundTrip.biasFlipToHost (page : Nat) : RoundTrip.Statement (.biasFlipToHost page) := by
  intro _ h; exact Bool.noConfusion h

theorem RoundTrip.biasFlipToDevice (page : Nat) : RoundTrip.Statement (.biasFlipToDevice page) := by
  intro _ h; exact Bool.noConfusion h

theorem RoundTrip.biasFlipComplete (page : Nat) : RoundTrip.Statement (.biasFlipComplete page) := by
  intro _ h; exact Bool.noConfusion h

theorem RoundTrip.cxlMemRead (pa n : Nat) : RoundTrip.Statement (.cxlMemRead pa n) := by
  intro _ h; exact Bool.noConfusion h

theorem RoundTrip.cxlMemWrite (pa n : Nat) (v : BitVec 512) : RoundTrip.Statement (.cxlMemWrite pa n v) := by
  intro _ h; exact Bool.noConfusion h

theorem RoundTrip.cxlIoRequest (write : Bool) (h : Home) (off n : Nat) (v : BitVec 512) : RoundTrip.Statement (.cxlIoRequest write h off n v) := by
  intro _ h; exact Bool.noConfusion h

theorem RoundTrip.tscStoreLoad (cl : Nat) (img : List (BitVec 8)) : RoundTrip.Statement (.tscStoreLoad cl img) := by
  intro _ h; exact Bool.noConfusion h

theorem RoundTrip.heartbeat (cp : Nat) : RoundTrip.Statement (.heartbeat cp) := by
  intro _ h; exact Bool.noConfusion h

theorem RoundTrip.heartbeatTimeout (cp : Nat) : RoundTrip.Statement (.heartbeatTimeout cp) := by
  intro _ h; exact Bool.noConfusion h

theorem RoundTrip.progressTimeout (launch : Nat) : RoundTrip.Statement (.progressTimeout launch) := by
  intro _ h; exact Bool.noConfusion h

theorem RoundTrip.escalationTimeout (launch : Nat) : RoundTrip.Statement (.escalationTimeout launch) := by
  intro _ h; exact Bool.noConfusion h

theorem RoundTrip.mailboxUpdate : RoundTrip.Statement (.mailboxUpdate) := by
  intro _ h; exact Bool.noConfusion h

theorem RoundTrip.liveReplacementRestart (cp : Nat) : RoundTrip.Statement (.liveReplacementRestart cp) := by
  intro _ h; exact Bool.noConfusion h

theorem RoundTrip.mailboxQuench : RoundTrip.Statement (.mailboxQuench) := by
  intro _ h; exact Bool.noConfusion h

theorem RoundTrip.mailboxLoadimg : RoundTrip.Statement (.mailboxLoadimg) := by
  intro _ h; exact Bool.noConfusion h

theorem RoundTrip.mailboxReserved : RoundTrip.Statement (.mailboxReserved) := by
  intro _ h; exact Bool.noConfusion h

theorem RoundTrip.coldBoot : RoundTrip.Statement (.coldBoot) := by
  intro _ h; exact Bool.noConfusion h

theorem RoundTrip.packageReset : RoundTrip.Statement (.packageReset) := by
  intro _ h; exact Bool.noConfusion h

theorem RoundTrip.ioDieWatchdogExpiry : RoundTrip.Statement (.ioDieWatchdogExpiry) := by
  intro _ h; exact Bool.noConfusion h

theorem RoundTrip.droopStretch (cl : Nat) : RoundTrip.Statement (.droopStretch cl) := by
  intro _ h; exact Bool.noConfusion h

theorem RoundTrip.powerAlarmAssert : RoundTrip.Statement (.powerAlarmAssert) := by
  intro _ h; exact Bool.noConfusion h

theorem RoundTrip.powerAlarmDeassert : RoundTrip.Statement (.powerAlarmDeassert) := by
  intro _ h; exact Bool.noConfusion h

theorem RoundTrip.narrowClear : RoundTrip.Statement (.narrowClear) := by
  intro _ h; exact Bool.noConfusion h

theorem RoundTrip.kdstateWrite (v : BitVec 64) : RoundTrip.Statement (.kdstateWrite v) := by
  intro _ h; exact Bool.noConfusion h

theorem RoundTrip.getVersion : RoundTrip.Statement (.getVersion) := by
  intro _ h; exact Bool.noConfusion h

theorem RoundTrip.getCapabilities : RoundTrip.Statement (.getCapabilities) := by
  intro _ h; exact Bool.noConfusion h

theorem RoundTrip.negotiateAlgorithms : RoundTrip.Statement (.negotiateAlgorithms) := by
  intro _ h; exact Bool.noConfusion h

theorem RoundTrip.getDigests : RoundTrip.Statement (.getDigests) := by
  intro _ h; exact Bool.noConfusion h

theorem RoundTrip.getCertificate (slot : Nat) : RoundTrip.Statement (.getCertificate slot) := by
  intro _ h; exact Bool.noConfusion h

theorem RoundTrip.challenge (nonce : Nat) : RoundTrip.Statement (.challenge nonce) := by
  intro _ h; exact Bool.noConfusion h

theorem RoundTrip.getMeasurements (index : Nat) : RoundTrip.Statement (.getMeasurements index) := by
  intro _ h; exact Bool.noConfusion h

theorem RoundTrip.debugRegisterRead (t : Nat) (f : RegFile) (r : Nat) : RoundTrip.Statement (.debugRegisterRead t f r) := by
  intro _ h; exact Bool.noConfusion h

theorem RoundTrip.debugRegisterWrite (t : Nat) (f : RegFile) (r : Nat) (v : BitVec 512) : RoundTrip.Statement (.debugRegisterWrite t f r v) := by
  intro _ h; exact Bool.noConfusion h

theorem RoundTrip.debugAccumulatorRead (k : Nat) (one : Bool) (i j : Nat) : RoundTrip.Statement (.debugAccumulatorRead k one i j) := by
  intro _ h; exact Bool.noConfusion h

theorem RoundTrip.dispenserTraceRead (cl e w : Nat) : RoundTrip.Statement (.dispenserTraceRead cl e w) := by
  intro _ h; exact Bool.noConfusion h

theorem RoundTrip.debuggerResume (t : Nat) : RoundTrip.Statement (.debuggerResume t) := by
  intro _ h; exact Bool.noConfusion h

theorem RoundTrip.haltedContextFree (t : Nat) : RoundTrip.Statement (.haltedContextFree t) := by
  intro _ h; exact Bool.noConfusion h

theorem RoundTrip.hostCacheSnoop (line : Nat) : RoundTrip.Statement (.hostCacheSnoop line) := by
  intro _ h; exact Bool.noConfusion h

theorem RoundTrip.mmaskLastByteRead (k : Nat) : RoundTrip.Statement (.mmaskLastByteRead k) := by
  intro _ h; exact Bool.noConfusion h

end Sys2Proof.Laws
end

