-- ==== Sys2Proof/Laws/Walk.lean ====
section
/-! SUPPORT. What a walk of the sequencer over blocks of cluster memory can do (04 R113, R114). -/

namespace Sys2Proof.Machine

theorem expTouch_find {es : List Expanded} {b blk : Nat} (w : Bool) (h : blk ≠ b) :
    (expTouch es b w).find? (fun e => e.blk = blk) = es.find? (fun e => e.blk = blk) := by
  unfold expTouch
  cases he : es.find? (fun e => e.blk = b) with
  | none => rfl
  | some e =>
    have hb : e.blk = b := by simpa using List.find?_some he
    rw [List.find?_append]
    have tail : List.find? (fun x : Expanded => decide (x.blk = blk)) [{ e with state := if w then .dirty else e.state }] = none := by
      simp [hb, Ne.symm h]
    rw [tail, Option.or_none]
    induction es with
    | nil => rfl
    | cons x xs ih =>
      by_cases hx : x = e
      · subst hx; simp [hb, Ne.symm h]
      · rw [List.erase_cons_tail (by simpa using hx)]
        by_cases hq : x.blk = blk
        · simp [hq]
        · rw [List.find?_cons_of_neg (by simpa using hq), List.find?_cons_of_neg (by simpa using hq)]
          by_cases hxb : x.blk = b
          · rw [List.find?_cons_of_pos (by simpa using hxb)] at he
            exact absurd (Option.some.inj he) hx
          · rw [List.find?_cons_of_neg (by simpa using hxb)] at he
            exact ih he

/-- An access to one block changes nothing of whether another can be accessed. -/
theorem State.blockReady_touch (s : State) {cl b blk : Nat} (w : Bool) (h : blk ≠ b) :
    (s.updCluster cl (fun c => { c with expander := expTouch c.expander b w })).blockReady cl blk = s.blockReady cl blk := by
  have e : (s.updCluster cl (fun c => { c with expander := expTouch c.expander b w })).expState cl blk = s.expState cl blk := by
    simp [State.expState, State.updCluster, State.setCluster, State.cluster, expTouch_find w h]
  simp only [State.blockReady, e]
  rfl

/-- Reads that can all perform, or have been made, do: nothing but the expanders' order changes, and nothing waits. -/
theorem State.walkBlocks_reads (w : Bool) (cl : Nat) (bs had : List Nat) (s : State)
    (h : ∀ b ∈ bs, had.contains b = true ∨ s.blockReady cl b = true) :
    (s.walkBlocks cl w (fun s _ => s) had bs).wait = none ∧
    ∃ cs, (s.walkBlocks cl w (fun s _ => s) had bs).s = { s with clusters := cs } := by
  induction bs generalizing had s with
  | nil => exact ⟨rfl, s.clusters, rfl⟩
  | cons b bs ih =>
    unfold State.walkBlocks
    split
    · exact ih had s fun x hx => h x (List.mem_cons_of_mem _ hx)
    · rename_i hb
      rw [if_pos ((h b List.mem_cons_self).resolve_left hb)]
      obtain ⟨hn, cs, hc⟩ := ih (b :: had) (s.updCluster cl (fun c => { c with expander := expTouch c.expander b w })) (fun x hx => by
        by_cases e : x = b
        · exact .inl (by simp [e])
        · rcases h x (List.mem_cons_of_mem _ hx) with h1 | h1
          · exact .inl (by simp at h1; simp [h1])
          · exact .inr (by rw [State.blockReady_touch _ _ e]; exact h1))
      exact ⟨hn, cs, by rw [hc]; rfl⟩

end Sys2Proof.Machine
end

