-- ==== Sys2Proof/Tests/Slice0.lean ====
section
/-! SUPPORT. Small tests of the definitions: words written out from the encodings of spec/09 decode to their instructions, ill-formed
terms are refused, and a witness for the hypotheses of every obligation. -/

set_option Elab.async false

open Sys2Proof Sys2Proof.Machine

namespace Sys2Proof.Tests

/-! ## Decoding: one word per instruction, from the bit positions of the opcode table -/

/-- The bytes decode to the instruction, none left over. -/
noncomputable def decodesTo (bs : List Byte) (i : Instr) : Bool :=
  match decode bs with
  | .ok (j, []) => decide (j = i)
  | _ => false

noncomputable def decodesAll (xs : List (List Byte × Instr)) : Bool := xs.all (fun p => decodesTo p.1 p.2)

theorem test_decode_intRR : decodesAll [
    ([0x83, 0x66, 0x96, 0x60], .add true true false 11 6 13),
    ([0x83, 0x66, 0x96, 0x61], .sub true true false 11 6 13),
    ([0x83, 0x66, 0x96, 0x62], .and true true false 11 6 13),
    ([0x83, 0x66, 0x96, 0x63], .or true true false 11 6 13),
    ([0x83, 0x66, 0x96, 0x64], .xor true true false 11 6 13),
    ([0x83, 0x66, 0x96, 0x65], .andn true true false 11 6 13),
    ([0x83, 0x66, 0x96, 0x66], .sll true true false 11 6 13),
    ([0x83, 0x66, 0x96, 0x67], .srl true true false 11 6 13),
    ([0x83, 0x66, 0x96, 0x68], .sra true true false 11 6 13),
    ([0x83, 0x66, 0x96, 0x69], .ror true true false 11 6 13),
    ([0x83, 0x66, 0x96, 0x6A], .min true true false 11 6 13),
    ([0x83, 0x66, 0x96, 0x6B], .max true true false 11 6 13),
    ([0x83, 0x66, 0x96, 0x6C], .minu true true false 11 6 13),
    ([0x83, 0x66, 0x96, 0x6D], .maxu true true false 11 6 13),
    ([0x83, 0x66, 0x96, 0x6E], .slt true true false 11 6 13),
    ([0x83, 0x66, 0x96, 0x6F], .sltu true true false 11 6 13),
    ([0x83, 0x66, 0x96, 0x70], .seq true true false 11 6 13),
    ([0x83, 0x66, 0x96, 0x71], .sne true true false 11 6 13),
    ([0x83, 0x66, 0x96, 0x72], .cmovz true false 11 6 13),
    ([0x83, 0x66, 0x96, 0x73], .cmovnz true false 11 6 13),
    ([0x83, 0x66, 0x00, 0x74], .clz true false 6 13),
    ([0x83, 0x66, 0x00, 0x75], .ctz true false 6 13),
    ([0x83, 0x66, 0x00, 0x76], .popc true false 6 13)] = true := by decide +kernel

theorem test_decode_addi : decodesAll [
    ([0x85, 0x66, 0x8C, 0x96], .addi 9635 false 6 13)] = true := by decide +kernel

theorem test_decode_andi : decodesAll [
    ([0x87, 0x66, 0x8C, 0x96], .andi 9635 false 6 13)] = true := by decide +kernel

theorem test_decode_ori : decodesAll [
    ([0x89, 0x66, 0x8C, 0x96], .ori 9635 false 6 13)] = true := by decide +kernel

theorem test_decode_xori : decodesAll [
    ([0x8B, 0x66, 0x8C, 0x96], .xori 9635 false 6 13)] = true := by decide +kernel

theorem test_decode_shiftImmediate : decodesAll [
    ([0x8D, 0x66, 0x24, 0x0C], .slli true 9 false 6 13),
    ([0x8D, 0x66, 0x24, 0x0D], .srli true 9 false 6 13),
    ([0x8D, 0x66, 0x24, 0x0E], .srai true 9 false 6 13),
    ([0x8D, 0x66, 0x24, 0x0F], .rori true 9 false 6 13)] = true := by decide +kernel

theorem test_decode_compareImmediate : decodesAll [
    ([0x8F, 0x66, 0x14, 0x27], .seqi 2501 false 6 13),
    ([0x8F, 0x66, 0x14, 0x67], .snei 2501 false 6 13),
    ([0x8F, 0x66, 0x14, 0xA7], .slti 2501 false 6 13),
    ([0x8F, 0x66, 0x14, 0xE7], .sltiu 2501 false 6 13)] = true := by decide +kernel

theorem test_decode_lui : decodesAll [
    ([0x91, 0x16, 0x3A, 0x8D], .lui 578465 13)] = true := by decide +kernel

theorem test_decode_leapc : decodesAll [
    ([0x93, 0x16, 0x3A, 0x8D], .leapc 578465 13)] = true := by decide +kernel

theorem test_decode_bit : decodesAll [
    ([0x95, 0x66, 0x48, 0x0E], .bfxu 7 9 false 6 13),
    ([0x95, 0x66, 0x48, 0x8E], .bfx 7 9 false 6 13),
    ([0x95, 0x66, 0x4C, 0x0E], .bfi 7 9 false 6 13)] = true := by decide +kernel

theorem test_decode_mulDiv : decodesAll [
    ([0x97, 0x66, 0x96, 0x60], .mul true true false 11 6 13),
    ([0x97, 0x66, 0x96, 0x61], .mulh true true false 11 6 13),
    ([0x97, 0x66, 0x96, 0x62], .mulhu true true false 11 6 13),
    ([0x97, 0x66, 0x96, 0x63], .mulhsu true true false 11 6 13),
    ([0x97, 0x66, 0x96, 0x64], .div true true false 11 6 13),
    ([0x97, 0x66, 0x96, 0x65], .divu true true false 11 6 13),
    ([0x97, 0x66, 0x96, 0x66], .rem true true false 11 6 13),
    ([0x97, 0x66, 0x96, 0x67], .remu true true false 11 6 13)] = true := by decide +kernel

theorem test_decode_scalarFloat : decodesAll [
    ([0x99, 0x66, 0x96, 0x40], .fadd true false 11 6 13),
    ([0x99, 0x66, 0x96, 0x41], .fsub true false 11 6 13),
    ([0x99, 0x66, 0x96, 0x42], .fmul true false 11 6 13),
    ([0x99, 0x66, 0x96, 0x43], .fma true false 11 6 13),
    ([0x99, 0x66, 0x96, 0x44], .fdiv true false 11 6 13),
    ([0x99, 0x66, 0x96, 0x45], .fcmp true false 11 6 13),
    ([0x99, 0x66, 0x00, 0x46], .fcvtif false 6 13),
    ([0x99, 0x66, 0x00, 0x47], .fcvtfi false 6 13)] = true := by decide +kernel

theorem test_decode_branch : decodesAll [
    ([0x1B, 0xB3, 0x50, 0x9C], .beq 2501 11 6),
    ([0x1B, 0xB3, 0x52, 0x9C], .bne 2501 11 6),
    ([0x1B, 0xB3, 0x54, 0x9C], .blt 2501 11 6),
    ([0x1B, 0xB3, 0x56, 0x9C], .bge 2501 11 6),
    ([0x1B, 0xB3, 0x58, 0x9C], .bltu 2501 11 6),
    ([0x1B, 0xB3, 0x5A, 0x9C], .bgeu 2501 11 6)] = true := by decide +kernel

theorem test_decode_jump : decodesAll [
    ([0x1D, 0x10, 0x3A, 0x8D], .j 578465),
    ([0x9D, 0x13, 0x3A, 0x8D], .call 578465 7)] = true := by decide +kernel

theorem test_decode_jumpRegister : decodesAll [
    ([0x1F, 0x60, 0x8C, 0x96], .jr 9635 false 6),
    ([0x9F, 0x66, 0x8C, 0x96], .callr 9635 false 6 13)] = true := by decide +kernel

theorem test_decode_load : decodesAll [
    ([0xA1, 0xB6, 0x40, 0xA9], .lb 677 false 11 13),
    ([0xA1, 0xB6, 0x48, 0xA9], .lh 677 false 11 13),
    ([0xA1, 0xB6, 0x50, 0xA9], .lw 677 false 11 13),
    ([0xA1, 0xB6, 0x58, 0xA9], .ld 677 false 11 13),
    ([0xA1, 0xB6, 0x60, 0xA9], .lbu 677 false 11 13),
    ([0xA1, 0xB6, 0x68, 0xA9], .lhu 677 false 11 13),
    ([0xA1, 0xB6, 0x70, 0xA9], .lwu 677 false 11 13)] = true := by decide +kernel

theorem test_decode_store : decodesAll [
    ([0xA3, 0xB6, 0x44, 0xA9], .sb 677 true false 11 13),
    ([0xA3, 0xB6, 0x4C, 0xA9], .sh 677 true false 11 13),
    ([0xA3, 0xB6, 0x54, 0xA9], .sw 677 true false 11 13),
    ([0xA3, 0xB6, 0x5C, 0xA9], .sd 677 true false 11 13)] = true := by decide +kernel

theorem test_decode_multiple : decodesAll [
    ([0xA5, 0xB6, 0x48, 0xA9], .ldm 677 1 false 11 13),
    ([0xA5, 0xB6, 0x4C, 0xA9], .stm 677 1 false 11 13)] = true := by decide +kernel

theorem test_decode_atomic : decodesAll [
    ([0xA7, 0x66, 0x96, 0x60], .aadd true true false 11 6 13),
    ([0xA7, 0x66, 0x96, 0x61], .afadd true true false 11 6 13),
    ([0xA7, 0x66, 0x96, 0x62], .amin true true false 11 6 13),
    ([0xA7, 0x66, 0x96, 0x63], .amax true true false 11 6 13),
    ([0xA7, 0x66, 0x96, 0x64], .aminu true true false 11 6 13),
    ([0xA7, 0x66, 0x96, 0x65], .amaxu true true false 11 6 13),
    ([0xA7, 0x66, 0x96, 0x66], .aand true true false 11 6 13),
    ([0xA7, 0x66, 0x96, 0x67], .aor true true false 11 6 13),
    ([0xA7, 0x66, 0x96, 0x68], .axor true true false 11 6 13),
    ([0xA7, 0x66, 0x96, 0x69], .aswap true true false 11 6 13),
    ([0xA7, 0x66, 0x96, 0x6A], .acas true true false 11 6 13)] = true := by decide +kernel

theorem test_decode_fenceAndTaint : decodesAll [
    ([0xA9, 0x02, 0x00, 0x20], .fence 1 5),
    ([0xA9, 0x06, 0x00, 0x21], .tclr true 13),
    ([0xA9, 0x66, 0x00, 0x22], .tjoin false true false 6 13),
    ([0x29, 0x60, 0x00, 0x03], .twait false false 6)] = true := by decide +kernel

theorem test_decode_barrier : decodesAll [
    ([0x2B, 0x60, 0x00, 0x00], .bar false 6),
    ([0xAB, 0x66, 0x96, 0x61], .baradd true true false 11 6 13),
    ([0xAB, 0x66, 0x96, 0x42], .barfadd true false 11 6 13)] = true := by decide +kernel

theorem test_decode_channel : decodesAll [
    ([0x2D, 0x60, 0x96, 0x00], .chsend true false 11 6),
    ([0xAD, 0x66, 0x00, 0x01], .chrecv false 6 13),
    ([0xAD, 0x66, 0x00, 0x22], .amld 1 false 6 13),
    ([0x2D, 0x60, 0x96, 0x23], .amst 1 true false 11 6),
    ([0xAD, 0x66, 0x96, 0x70], .amopAadd true true false 11 6 13),
    ([0xAD, 0x66, 0x96, 0x71], .amopAfadd true true false 11 6 13),
    ([0xAD, 0x66, 0x96, 0x72], .amopAmin true true false 11 6 13),
    ([0xAD, 0x66, 0x96, 0x73], .amopAmax true true false 11 6 13),
    ([0xAD, 0x66, 0x96, 0x74], .amopAminu true true false 11 6 13),
    ([0xAD, 0x66, 0x96, 0x75], .amopAmaxu true true false 11 6 13),
    ([0xAD, 0x66, 0x96, 0x76], .amopAand true true false 11 6 13),
    ([0xAD, 0x66, 0x96, 0x77], .amopAor true true false 11 6 13),
    ([0xAD, 0x66, 0x96, 0x78], .amopAxor true true false 11 6 13),
    ([0xAD, 0x66, 0x96, 0x79], .amopAswap true true false 11 6 13),
    ([0xAD, 0x66, 0x96, 0x7A], .amopAcas true true false 11 6 13)] = true := by decide +kernel

theorem test_decode_threadControl : decodesAll [
    ([0x2F, 0x24, 0x00, 0x00], .fork 9),
    ([0xAF, 0x24, 0xC0, 0xA5], .meet 2652 9),
    ([0x2F, 0x25, 0xC7, 0xA5], .meetC 2652 14 9),
    ([0xAF, 0x01, 0x00, 0x00], .done),
    ([0x2F, 0x02, 0x00, 0x00], .align),
    ([0xAF, 0x02, 0x00, 0x00], .yield)] = true := by decide +kernel

theorem test_decode_task : decodesAll [
    ([0x31, 0x24, 0x00, 0x00], .spawn 9),
    ([0xB1, 0x00, 0x00, 0x00], .waitw),
    ([0x31, 0x01, 0x00, 0x00], .taskend),
    ([0xB1, 0x01, 0x00, 0x00], .commit),
    ([0x31, 0x16, 0x07, 0x00], .hrq 14 5),
    ([0x31, 0x16, 0x17, 0x00], .hrqSw 14 5)] = true := by decide +kernel

theorem test_decode_tile : decodesAll [
    ([0xB3, 0x66, 0x16, 0x00], .tdef 11 6 13),
    ([0xB3, 0x06, 0x00, 0x01], .trel 13),
    ([0xB3, 0x66, 0x00, 0x02], .tstat 6 13),
    ([0xB3, 0x06, 0x00, 0x03], .twaitr 13),
    ([0xB3, 0x66, 0x00, 0x04], .tfill 6 13),
    ([0xB3, 0x06, 0x00, 0x05], .tcons 13)] = true := by decide +kernel

theorem test_decode_matrix : decodesAll [
    ([0x35, 0x60, 0x16, 0x70], .mma true true 2 11 6),
    ([0xB5, 0x66, 0x56, 0x70], .mmac true true 2 11 6 13),
    ([0x35, 0x00, 0x80, 0x30], .mzero true 2),
    ([0x35, 0x60, 0xC0, 0x30], .mstore true 2 6),
    ([0x35, 0x60, 0x00, 0x31], .mmask true 2 6),
    ([0x35, 0x60, 0x56, 0x31], .mscale true 2 11 6)] = true := by decide +kernel

theorem test_decode_copy : decodesAll [
    ([0x37, 0x60, 0x00, 0x10], .cpy 2 6),
    ([0x37, 0x60, 0x40, 0x10], .cpyw 2 6),
    ([0xB7, 0x66, 0x80, 0x10], .cpyq 2 6 13),
    ([0x37, 0x60, 0xC0, 0x10], .cpyc 2 6)] = true := by decide +kernel

theorem test_decode_bitStream : decodesAll [
    ([0xB9, 0x06, 0x24, 0x00], .bstake 9 13),
    ([0xB9, 0x06, 0x24, 0x20], .bspeek 9 13),
    ([0x39, 0x60, 0x24, 0x40], .bsemit 9 false 6),
    ([0x39, 0x00, 0x24, 0x60], .bsskip 9),
    ([0x39, 0x00, 0x80, 0x80], .bsalign 32)] = true := by decide +kernel

theorem test_decode_csr : decodesAll [
    ([0xBB, 0x06, 0x24, 0x00], .csrr 9 13),
    ([0xBB, 0x66, 0x24, 0x40], .csrw 9 false 6 13),
    ([0xBB, 0x66, 0x24, 0x80], .csrs 9 false 6 13),
    ([0xBB, 0x66, 0x24, 0xC0], .csrc 9 false 6 13)] = true := by decide +kernel

theorem test_decode_system : decodesAll [
    ([0x3D, 0x00, 0x16, 0x00], .trap 11),
    ([0x3D, 0x00, 0x00, 0x01], .eret),
    ([0x3D, 0x00, 0x00, 0x02], .halt),
    ([0x3D, 0x00, 0x16, 0x03], .dbg 11),
    ([0x3D, 0x60, 0x96, 0x04], .tlbw true false 11 6),
    ([0xBD, 0x66, 0x00, 0xA5], .tlbi true 1 false 6 13),
    ([0x3D, 0x60, 0x00, 0x06], .cwb false 6),
    ([0x3D, 0x60, 0x00, 0x07], .cinv false 6)] = true := by decide +kernel

theorem test_decode_fmt : decodesAll [
    ([0x3F, 0xB3, 0xDA, 0x02], .fmt true 3 13 11 6)] = true := by decide +kernel

theorem test_decode_laneInteger : decodesAll [
    ([0xC1, 0x06, 0x56, 0x03], .vmov true 5 11 13),
    ([0xC1, 0x66, 0x56, 0x0B], .vadd false true 5 11 6 13),
    ([0xC1, 0x66, 0x56, 0x13], .vsub false true 5 11 6 13),
    ([0xC1, 0x66, 0x56, 0x1B], .vmul false true 5 11 6 13),
    ([0xC1, 0x66, 0x56, 0x23], .vand false true 5 11 6 13),
    ([0xC1, 0x66, 0x56, 0x2B], .vor false true 5 11 6 13),
    ([0xC1, 0x66, 0x56, 0x33], .vxor false true 5 11 6 13),
    ([0xC1, 0x66, 0x56, 0x3B], .vshl false true 5 11 6 13),
    ([0xC1, 0x66, 0x56, 0x43], .vshr false true 5 11 6 13),
    ([0xC1, 0x66, 0x56, 0x4B], .vmin false true 5 11 6 13),
    ([0xC1, 0x66, 0x56, 0x53], .vmax false true 5 11 6 13),
    ([0xC1, 0x66, 0x56, 0x5B], .vsra false true 5 11 6 13),
    ([0xC1, 0x66, 0x56, 0x63], .vminu false true 5 11 6 13),
    ([0xC1, 0x66, 0x56, 0x6B], .vmaxu false true 5 11 6 13),
    ([0xC1, 0x66, 0x56, 0x73], .vmulhu false true 5 11 6 13),
    ([0xC1, 0x66, 0x56, 0x7B], .vmadd false true 5 11 6 13)] = true := by decide +kernel

theorem test_decode_laneFloat : decodesAll [
    ([0xC3, 0x66, 0x56, 0x03], .vfadd false true 5 11 6 13),
    ([0xC3, 0x66, 0x56, 0x0B], .vfsub false true 5 11 6 13),
    ([0xC3, 0x66, 0x56, 0x13], .vfmul false true 5 11 6 13),
    ([0xC3, 0x66, 0x56, 0x1B], .vfmin false true 5 11 6 13),
    ([0xC3, 0x66, 0x56, 0x23], .vfmax false true 5 11 6 13),
    ([0xC3, 0x66, 0x56, 0x2B], .vfma false true 5 11 6 13),
    ([0xC3, 0x66, 0x56, 0x33], .vfdiv false true 5 11 6 13),
    ([0xC3, 0x66, 0x40, 0x39], .vfsqrt false 5 6 13),
    ([0xC3, 0x66, 0x40, 0x41], .vfabs false 5 6 13),
    ([0xC3, 0x66, 0x40, 0x49], .vfneg false 5 6 13)] = true := by decide +kernel

theorem test_decode_laneCompare : decodesAll [
    ([0xC5, 0x62, 0x56, 0x03], .vceq false true 5 11 6 5),
    ([0xC5, 0x62, 0x56, 0x0B], .vcne false true 5 11 6 5),
    ([0xC5, 0x62, 0x56, 0x13], .vclt false true 5 11 6 5),
    ([0xC5, 0x62, 0x56, 0x1B], .vcle false true 5 11 6 5),
    ([0xC5, 0x62, 0x56, 0x23], .vcltu false true 5 11 6 5),
    ([0xC5, 0x62, 0x56, 0x2B], .vcleu false true 5 11 6 5),
    ([0xC5, 0x62, 0x56, 0x33], .vfceq false true 5 11 6 5),
    ([0xC5, 0x62, 0x56, 0x3B], .vfclt false true 5 11 6 5),
    ([0xC5, 0x62, 0x56, 0x43], .vfcle false true 5 11 6 5)] = true := by decide +kernel

theorem test_decode_laneConvert : decodesAll [
    ([0xC7, 0x66, 0x40, 0x01], .vcvt false 5 6 13),
    ([0xC7, 0x66, 0x40, 0x09], .vcvtif false 5 6 13),
    ([0xC7, 0x66, 0x40, 0x11], .vcvtuf false 5 6 13),
    ([0xC7, 0x66, 0x40, 0x19], .vcvtfi false 5 6 13),
    ([0xC7, 0x66, 0x40, 0x21], .vcvtfu false 5 6 13)] = true := by decide +kernel

theorem test_decode_permute : decodesAll [
    ([0xC9, 0x66, 0x56, 0x03], .vperm false true 5 11 6 13),
    ([0xC9, 0x66, 0x56, 0x0B], .vslideup false true 5 11 6 13),
    ([0xC9, 0x66, 0x56, 0x13], .vslidedn false true 5 11 6 13),
    ([0xC9, 0x66, 0x56, 0x1B], .vziplo false true 5 11 6 13),
    ([0xC9, 0x66, 0x56, 0x23], .vziphi false true 5 11 6 13),
    ([0xC9, 0x66, 0x40, 0x29], .vcompress false 5 6 13),
    ([0xC9, 0x66, 0x40, 0x31], .vexpand false 5 6 13),
    ([0xC9, 0x66, 0x16, 0x3A], .vextr false 11 6 13)] = true := by decide +kernel

theorem test_decode_reduction : decodesAll [
    ([0xCB, 0x66, 0x40, 0x01], .vradd false 5 6 13),
    ([0xCB, 0x66, 0x40, 0x09], .vrmin false 5 6 13),
    ([0xCB, 0x66, 0x40, 0x11], .vrmax false 5 6 13),
    ([0xCB, 0x66, 0x40, 0x19], .vrand false 5 6 13),
    ([0xCB, 0x66, 0x40, 0x21], .vror false 5 6 13),
    ([0xCB, 0x66, 0x40, 0x29], .vrxor false 5 6 13),
    ([0xCB, 0x66, 0x40, 0x31], .vrfadd false 5 6 13),
    ([0xCB, 0x66, 0x40, 0x39], .vrfmax false 5 6 13)] = true := by decide +kernel

theorem test_decode_mask : decodesAll [
    ([0xCD, 0x62, 0x46, 0x01], .kand 5 3 6 5),
    ([0xCD, 0x62, 0x46, 0x09], .kor 5 3 6 5),
    ([0xCD, 0x62, 0x46, 0x11], .kxor 5 3 6 5),
    ([0xCD, 0x62, 0x46, 0x19], .kandn 5 3 6 5),
    ([0xCD, 0x62, 0x40, 0x21], .knot 5 6 5),
    ([0xCD, 0x02, 0x56, 0x2B], .kmov 5 11 5),
    ([0xCD, 0x66, 0x40, 0x31], .kread 5 6 13),
    ([0xCD, 0x66, 0x40, 0x39], .kpopc 5 6 13),
    ([0xCD, 0x66, 0x40, 0x41], .kffs 5 6 13)] = true := by decide +kernel

theorem test_decode_vectorLoad : decodesAll [
    ([0xCF, 0x66, 0x40, 0x05], .vld 2 5 6 13),
    ([0xCF, 0x66, 0x42, 0x0D], .vlds 2 5 1 6 13),
    ([0xCF, 0x66, 0x40, 0x15], .vldbc 2 5 6 13),
    ([0xCF, 0x66, 0x00, 0x18], .vldb 6 13)] = true := by decide +kernel

theorem test_decode_vectorStore : decodesAll [
    ([0xD1, 0x66, 0x40, 0x05], .vst 2 5 6 13),
    ([0xD1, 0x66, 0x42, 0x0D], .vsts 2 5 1 6 13)] = true := by decide +kernel

theorem test_decode_gather : decodesAll [
    ([0xD3, 0x66, 0x54, 0x05], .vgather 2 5 10 6 13),
    ([0xD3, 0x66, 0x54, 0x0D], .vscatter 2 5 10 6 13)] = true := by decide +kernel

theorem test_decode_narrow : decodesAll [
    ([0xD5, 0x66, 0x00, 0x00], .vqnt false 6 13),
    ([0xD5, 0x66, 0x00, 0x08], .vdqnt false 6 13),
    ([0xD5, 0x66, 0x16, 0x10], .vdot false 11 6 13)] = true := by decide +kernel

theorem test_decode_histogram : decodesAll [
    ([0xD7, 0x66, 0x40, 0x01], .vhist false 5 6 13)] = true := by decide +kernel

theorem test_decode_laneImmediate : decodesAll [
    ([0xD9, 0x06, 0x5A, 0x03], .vmovI 45 5 13),
    ([0xD9, 0x66, 0x5A, 0x0B], .vaddI false 45 5 6 13),
    ([0xD9, 0x66, 0x5A, 0x13], .vsubI false 45 5 6 13),
    ([0xD9, 0x66, 0x5A, 0x1B], .vmulI false 45 5 6 13),
    ([0xD9, 0x66, 0x5A, 0x23], .vandI false 45 5 6 13),
    ([0xD9, 0x66, 0x5A, 0x2B], .vorI false 45 5 6 13),
    ([0xD9, 0x66, 0x5A, 0x33], .vxorI false 45 5 6 13),
    ([0xD9, 0x66, 0x6A, 0x39], .vshlI false 5 21 6 13),
    ([0xD9, 0x66, 0x6A, 0x41], .vshrI false 5 21 6 13),
    ([0xD9, 0x66, 0x5A, 0x4B], .vminI false 45 5 6 13),
    ([0xD9, 0x66, 0x5A, 0x53], .vmaxI false 45 5 6 13),
    ([0xD9, 0x66, 0x6A, 0x59], .vsraI false 5 21 6 13),
    ([0xD9, 0x66, 0x5A, 0x63], .vminuI false 45 5 6 13),
    ([0xD9, 0x66, 0x5A, 0x6B], .vmaxuI false 45 5 6 13)] = true := by decide +kernel

theorem test_decode_halfword : decodesAll [
    ([0x00, 0x00], .nop),
    ([0xA0, 0xAD], .vmov16 true 11 13),
    ([0xA2, 0xAD], .vadd16 true 11 13),
    ([0xA4, 0xAD], .vsub16 true 11 13),
    ([0xA6, 0xAD], .vmul16 true 11 13),
    ([0xA8, 0xAD], .vand16 true 11 13),
    ([0xAA, 0xAD], .vor16 true 11 13),
    ([0xAC, 0xAD], .vxor16 true 11 13),
    ([0xAE, 0xAD], .vshl16 true 11 13),
    ([0xB0, 0xAD], .vshr16 true 11 13),
    ([0xB2, 0xAD], .vmin16 true 11 13),
    ([0xB4, 0xAD], .vmax16 true 11 13),
    ([0xB6, 0xAD], .vfadd16 true 11 13),
    ([0xB8, 0xAD], .vfsub16 true 11 13),
    ([0xBA, 0xAD], .vfmul16 true 11 13),
    ([0xBC, 0xAD], .vfmin16 true 11 13),
    ([0xBE, 0xAD], .vfmax16 true 11 13)] = true := by decide +kernel

/-! ## States for the witnesses -/

def okIs {ε α : Type} [DecidableEq α] (e : Except ε α) (a : α) : Bool :=
  match e with
  | .ok b => decide (b = a)
  | .error _ => false

theorem okIs_eq {ε α : Type} [DecidableEq α] {e : Except ε α} {a : α} (h : okIs e a = true) : e = .ok a := by
  unfold okIs at h
  split at h
  · simp_all
  · cases h

/-- A thread of launch 1 with these scalar registers. -/
def thr (rs : List (Nat × Word)) : Thread :=
  { run := .ready, pc := 0x2000, launch := 1, rect := { w := 1, h := 1, nthr := 14 }, tvec := 0x1000, lgrant := { cmem := true }
    s := rs.map (fun p => (p.1, { val := p.2, map := .physical, id := p.1 })) }
/-- Launch 1, on core 0. -/
def launch1 : Launch :=
  { num := 1, entry := List.replicate 16 0, fn := 0, origin := .queue 0 0, seqno := 0, phase := .live, rect := { w := 1, h := 1, nthr := 14 } }
/-- The device with one thread, in context 0 of core 0, about to issue. -/
def dev (x : Thread) : State :=
  { threads := [(0, x)], cores := [(0, { owner := some 1 })], launches := [launch1], nextLaunch := 2 }

theorem nothingSpilled (x : Thread) (hs : x.s = []) (hv : x.v = []) (os : List Opnd) : spilledOf x os = none := by
  simp only [spilledOf, List.findSome?_eq_none_iff, hs, hv]
  intro o _
  cases o <;> simp [NMap.get]

/-- With no register mapped, whatever may issue by its place and prefix may issue with any operands. -/
theorem mayIssue (x : Thread) (hs : x.s = []) (hv : x.v = []) (p : Place14) (u : Use) (m : Mode)
    (h : (dev x).enterInstr p u = .ok m) (os : List Opnd) : (dev x).canIssue p u m os :=
  ⟨h, nothingSpilled x hs hv os⟩

/-- A thread with a prefix pending. -/
def pfx (m : BitVec 25) : Thread := { thr [] with pfx := true, fmtpend := m }

/-- The device with a translation of page 0 to physical page 1 in core 0, and these L1 copies there. -/
def mdev (x : Thread) (copies : NMap (Option L1Line)) : State :=
  { dev x with cores := [(0, { owner := some 1, tlb := [(0, ⟨2 ^ 45, 0xF00000001⟩)], l1 := copies })] }
/-- Where the translated address 0x100 + `off` lies. -/
def pageOne (off : Nat) : Place :=
  { loc := 0x80100 + off, home := .slice (homeSlice 0x80100), cacheable := true, alloc := true, pair := some (0, 0) }
/-- Offset `off` of core 0's scratchpad. -/
def spm (off : Nat) : Place := { loc := locSpm 0 off, home := .core 0 }
/-- Registers 3, an address of space 0x0; 4, of the own scratchpad; 5, a stride; 6, of the own lane slices. -/
def addrs : List (Nat × Word) := [(3, 0x100), (4, 0x8000000000000100), (5, 8), (6, 0xC000000000000000)]
/-- A buffered store of a whole line at 0x100. -/
def slot0 : Slot := ⟨lineOf 0x80100, pageOne 0, -1, 0, []⟩

/-- Core 0 with tiles bound to the thread's handles 1 and 2. -/
def tiled (x : Thread) (a b : Tile) : State :=
  { dev { x with handles := [(1, some 5), (2, some 6)] } with
    cores := [(0, { owner := some 1, tiles := [(5, a), (6, b)] })]
    clusters := [(0, { spw := 1 })] }
/-- A tile of core 0 of 64 rows, one column of BF16, in its scratchpad; and one of 128 rows in the cluster memory. -/
def tileA : Tile := { live := true, launch := 1, addr := 0x8000000000000000, shape := 0x100003F, refs := 1, state := .ready }
def tileB : Tile := { live := true, launch := 1, addr := 0xA000000000000000, shape := 0x100007F, refs := 2, state := .ready, count := 2 }


/-- Queue 0 of function 0 with one entry at 0x100000; page 0 of ASID 0 is page 1 for the command processors. -/
def queued (e : List Word) (x : Func) (ls : List Launch) : State :=
  { (State.writeWords { launches := ls } 0x100000 e) with
    funcs := [(0, { x with queues := [(0, { qbase := 0x100000, en := true, tail := 1, open_ := (NMap.get {} x.queues 0).open_ })] })]
    maps := [(0, 2 ^ 60, ⟨2 ^ 45, 0xF00000001⟩)] }
/-- An entry with this first doubleword. -/
def entryOf (w : Word) : List Word := w :: List.replicate 15 0


/-! ## A witness of the hypotheses of each obligation -/

theorem witness_ScalarAluResult : ∀ os, (dev (thr [])).canIssue .any .plain {} os := mayIssue _ rfl rfl _ _ _ rfl

theorem witness_ScalarImmediateResult : (∀ os, (dev (thr [])).canIssue .any .plain {} os) ∧ (false = true ∨ (31#6).toNat < 32) ∧
    (true = true ∨ (63#6).toNat < 32) ∧ (0#6).toNat + (63#6).toNat + 1 ≤ 64 ∧ (63#6).toNat + (0#6).toNat + 1 ≤ 64 :=
  ⟨mayIssue _ rfl rfl _ _ _ rfl, by decide⟩

theorem witness_MultiplyDivideResult : ∀ os, (dev (thr [])).canIssue .any .plain {} os := mayIssue _ rfl rfl _ _ _ rfl

theorem witness_ScalarFloatResult : (∀ os, (dev (thr [])).canIssue .any .fp {} os) ∧
    ∀ os, (dev (pfx 0x60000)).canIssue .any .fp { rnd := 4, sat := true } os :=
  ⟨mayIssue _ rfl rfl _ _ _ rfl, mayIssue _ rfl rfl _ _ _ rfl⟩

theorem witness_ControlTransferResult :
    let s := dev (thr [(1, 5), (2, 6), (3, 2 ^ 52), (4, 4)])
    let low := dev { thr [] with pc := 0x3E }
    (s.canIssue .any .plain {} [.s 1 false, .s 1 false] ∧ s.x 1 = s.x 1 ∧
      ((s.me.pc &&& ~~~63#64) + (BitVec.signExtend 64 (2047#12)) * 64).toNat < 2 ^ 52) ∧
    (s.canIssue .any .plain {} [.s 1 false, .s 2 false] ∧ s.x 1 ≠ s.x 2) ∧
    (s.canIssue .any .plain {} [.s 0 true] ∧ (s.x 0 + (BitVec.signExtend 64 (1#14)) * 64).toNat < 2 ^ 52 ∧
      (s.x 0 + (BitVec.signExtend 64 (1#14)) * 64).toNat % 64 = 0) ∧
    (isTsc low.cur = false ∧ low.me.tvec ≠ 0 ∧ low.canIssue .any .plain {} [.s 1 false, .s 1 false] ∧
      2 ^ 52 ≤ ((low.me.pc &&& ~~~63#64) + (BitVec.signExtend 64 (-1 : BitVec 12)) * 64).toNat) ∧
    (s.canIssue .any .plain {} [.s 3 false] ∧ 2 ^ 52 ≤ (s.x 3 + (BitVec.signExtend 64 (0#14)) * 64).toNat) ∧
    (s.canIssue .any .plain {} [.s 4 true] ∧ (s.x 4 + (BitVec.signExtend 64 (0#14)) * 64).toNat < 2 ^ 52 ∧
      (s.x 4 + (BitVec.signExtend 64 (0#14)) * 64).toNat % 64 ≠ 0) := by
  refine ⟨⟨⟨rfl, rfl⟩, ?_⟩, ⟨⟨rfl, rfl⟩, ?_⟩, ⟨⟨rfl, rfl⟩, ?_⟩, ⟨rfl, ?_, ⟨rfl, rfl⟩, ?_⟩, ⟨⟨rfl, rfl⟩, ?_⟩, ⟨rfl, rfl⟩, ?_⟩ <;> decide +kernel

theorem witness_LaneIntegerResult : ∀ os, (dev (thr [])).canIssue .core .plain {} os := mayIssue _ rfl rfl _ _ _ rfl

theorem witness_HalfwordResult : (∀ os, (dev (thr [])).canIssue .any .plain {} os) ∧ (∀ os, (dev (thr [])).canIssue .core .plain {} os) ∧
    (∀ os, (dev (thr [])).canIssue .core .fp {} os) ∧ ∀ os, (dev (pfx 0x60000)).canIssue .core .fp { rnd := 4, sat := true } os :=
  ⟨mayIssue _ rfl rfl _ _ _ rfl, mayIssue _ rfl rfl _ _ _ rfl, mayIssue _ rfl rfl _ _ _ rfl, mayIssue _ rfl rfl _ _ _ rfl⟩

theorem witness_LaneFloatResult : (∀ os, (dev (thr [])).canIssue .core .fp {} os) ∧ (∀ os, (dev (thr [])).canIssue .core .plain {} os) ∧
    (∀ os, (dev (pfx 0x60000)).canIssue .core .fp { rnd := 4, sat := true } os) ∧
    ∀ os, (dev (pfx 0x1)).canIssue .core .vcvt { fa := 1 } os :=
  ⟨mayIssue _ rfl rfl _ _ _ rfl, mayIssue _ rfl rfl _ _ _ rfl, mayIssue _ rfl rfl _ _ _ rfl, mayIssue _ rfl rfl _ _ _ rfl⟩

theorem witness_CompareAndMaskResult : ∀ os, (dev (thr [])).canIssue .core .plain {} os := mayIssue _ rfl rfl _ _ _ rfl

theorem witness_PermuteResult : ∀ os, (dev (thr [])).canIssue .core .plain {} os := mayIssue _ rfl rfl _ _ _ rfl

theorem witness_ScalarLoadResult :
    let x : Access := { index := 0, addr := 0x100, width := 8 }
    let y : Access := { index := 0, addr := 0x8000000000000100, width := 8 }
    let s1 := mdev { thr addrs with rsb := [slot0] } []
    let s2 := mdev (thr addrs) [(lineOf 0x80100, some ⟨0, false⟩)]
    let s3 := dev (thr addrs)
    (s1.enterInstr .any .plain = .ok {} ∧ s1.access .read [.s 3 false] [.s 3 false] [x] = .ok [(x, pageOne 0)] ∧
      s1.way s1.cur (x, pageOne 0) false = .now 0) ∧
    (s2.enterInstr .any .plain = .ok {} ∧ s2.access .read [.s 3 false] [.s 3 false] [x] = .ok [(x, pageOne 0)] ∧
      s2.way s2.cur (x, pageOne 0) false = .unsettled 0 ∧ s2.me.freeTag = some 0) ∧
    (s3.enterInstr .any .plain = .ok {} ∧ s3.access .read [.s 4 true] [.s 4 true] [y] = .ok [(y, spm 0x100)] ∧
      s3.way s3.cur (y, spm 0x100) false = .home ∧ s3.me.freeTag = some 0) ∧
    (s2.enterInstr .core .plain = .ok {} ∧ (s2.x 3).toNat / 2 ^ 60 ≠ 12 ∧
      s2.access .read [.s 3 false] [.s 3 false] [x] = .ok [(x, pageOne 0)] ∧ s2.me.freeTag = some 0) :=
  ⟨⟨rfl, rfl, by decide +kernel⟩, ⟨rfl, rfl, by decide +kernel, rfl⟩, ⟨rfl, rfl, rfl, rfl⟩, rfl, by decide, rfl, rfl⟩

theorem witness_ScalarStoreResult :
    let x : Access := { index := 0, addr := 0x100, width := 8 }
    let y : Access := { index := 0, addr := 0x8000000000000100, width := 8 }
    let os : List Opnd := [.s 3 false, .s 4 false]
    let full : List Slot := (List.range 32).map (fun i => ⟨i, pageOne 0, 0, 0, []⟩)
    let s1 := mdev { thr addrs with rsb := [slot0] } []
    let s2 := mdev (thr addrs) []
    let s3 := mdev { thr addrs with rsb := full } []
    let s4 := dev (thr addrs)
    (s1.enterInstr .any .plain = .ok {} ∧ s1.access .write os os [x] = .ok [(x, pageOne 0)] ∧ (0x100#64).toNat < 2 ^ 60 ∧
      (s1.me.slotFor (lineOf (pageOne 0).loc)).isSome = true) ∧
    (s2.access .write os os [x] = .ok [(x, pageOne 0)] ∧ s2.me.slotFor (lineOf (pageOne 0).loc) = none ∧ s2.me.rsb.length < 32) ∧
    (s3.access .write os os [x] = .ok [(x, pageOne 0)] ∧ s3.me.slotFor (lineOf (pageOne 0).loc) = none ∧ 32 ≤ s3.me.rsb.length) ∧
    (s4.access .write [.s 4 false, .s 3 true] [.s 4 false, .s 3 true] [y] = .ok [(y, spm 0x100)] ∧ 2 ^ 60 ≤ y.addr.toNat) ∧
    (0 < x.width ∧ (pageOne 120).loc % 128 + x.width ≤ 128) :=
  ⟨⟨rfl, rfl, by decide, rfl⟩, ⟨rfl, rfl, by decide⟩, ⟨rfl, by decide +kernel, by decide⟩, ⟨rfl, by decide⟩, by decide⟩

theorem witness_MultipleResult :
    let xs := fun (a : Word) => (List.range 8).map (fun i => ({ index := i, addr := a + BitVec.ofNat 64 (8 * i), width := 8 } : Access))
    let zs := (xs 0x100).map (fun x => (x, pageOne (8 * x.index)))
    let ys := (xs 0x8000000000000100).map (fun x => (x, spm (0x100 + 8 * x.index)))
    let s := mdev { thr addrs with rsb := [slot0] } []
    let u := mdev (thr addrs) [(lineOf 0x80100, some ⟨0, false⟩)]
    s.enterInstr .any .plain = .ok {} ∧ (24#5).toNat + (7#3).toNat ≤ 31 ∧
    s.access .write (.s 3 false :: (List.range 8).map (fun i => .s (BitVec.ofNat 5 (24 + i)) false))
      (.s 3 false :: (List.range 8).map (fun i => .s (BitVec.ofNat 5 (24 + i)) false)) (xs 0x100) = .ok zs ∧
    (s.access .read [.s 3 false] [.s 3 false] (xs 0x100) = .ok zs ∧ s.known zs (fun _ => 0) ∧ s.settledWays zs = true) ∧
    (u.access .read [.s 3 false] [.s 3 false] (xs 0x100) = .ok zs ∧ u.known zs (fun _ => 0) ∧ u.me.freeTag = some 0) ∧
    (s.access .read [.s 4 false] [.s 4 false] (xs 0x8000000000000100) = .ok ys ∧ (∃ z ∈ ys, s.way s.cur z false = .home) ∧
      s.me.freeTag = some 0) := by
  refine ⟨rfl, by decide, okIs_eq (by decide +kernel), ⟨okIs_eq (by decide +kernel), ?_, by decide +kernel⟩,
    ⟨okIs_eq (by decide +kernel), ?_, rfl⟩, okIs_eq (by decide +kernel), ⟨_, List.mem_cons_self, rfl⟩, rfl⟩ <;>
  · intro z hz; revert z; decide +kernel

theorem witness_VectorLoadResult :
    let lanes := fun (addr : Nat → Word) => [({ index := 0, addr := addr 0, width := 4, lane := some 0 } : Access)]
    let x : Thread := { thr addrs with rsb := [slot0], k := [(1, ⟨1, 0⟩)], v := [(2, { map := .physical })] }
    let s := mdev x []
    let u := mdev { x with rsb := [], k := [(1, ⟨1, 0⟩)] } []
    let none : State := mdev { x with k := [] } []
    let os := fun (ops : List Opnd) => laneSources ops 1 31 false
    s.enterInstr .core .plain = .ok {} ∧ s.me.kval 1 ≠ 0 ∧ none.me.kval 1 = 0 ∧
    none.access .read (os [.s 3 false]) [.s 3 false, .k 1] [] = .ok [] ∧
    (let zs := (lanes (fun _ => 0x100)).map (fun y => (y, pageOne 0))
     s.access .read (os [.s 3 false]) [.s 3 false, .k 1] (lanes (fun j => s.x 3 + BitVec.ofNat 64 (j * 4))) = .ok zs ∧
     s.access .read (os [.s 3 false, .s 5 false]) [.s 3 false, .s 5 false, .k 1] (lanes (fun j => s.x 3 + BitVec.ofNat 64 j * s.x 5)) = .ok zs ∧
     s.access .read (os [.s 3 false, .v 2 false]) [.s 3 false, .v 2 false, .k 1]
       (lanes (fun j => s.x 3 + (lane (s.vx 2) j).signExtend 64 * 4)) = .ok zs ∧
     s.known zs (fun _ => 0) ∧ s.settledWays zs = true ∧
     u.access .read (os [.s 3 false]) [.s 3 false, .k 1] (lanes (fun j => u.x 3 + BitVec.ofNat 64 (j * 4))) = .ok zs ∧
     (∃ z ∈ zs, u.way u.cur z false = .home) ∧ u.me.freeTag = some 0) ∧
    (let zs := (lanes (fun _ => 0xC000000000000000)).map (fun y => (y, ({ loc := locLane 0 0 0, home := .core 0 } : Place)))
     (s.x 6).toNat / 2 ^ 60 = 12 ∧ s.access .read (os [.s 6 false]) [.s 6 false, .k 1] (lanes (fun _ => s.x 6)) = .ok zs) ∧
    (let y : Access := { index := 0, addr := 0x100, width := 4 }
     (s.x 3).toNat / 2 ^ 60 ≠ 12 ∧ s.access .read (os [.s 3 false]) [.s 3 false, .k 1] [y] = .ok [(y, pageOne 0)] ∧
     s.known [(y, pageOne 0)] (fun _ => 0)) ∧
    (let t := mdev { x with pfx := true, fmtpend := 9 } []
     let ys := (List.range 51).map (fun i => ({ index := i, addr := 0x100 + BitVec.ofNat 64 (i * 1), width := 1 } : Access))
     let zs := ys.map (fun y => (y, pageOne y.index))
     t.enterInstr .core .vldb = .ok { fa := 9 } ∧ (31#5).toNat + groupRegs (chunkBytes 9) ≤ 32 ∧ chunkBytes 9 = 51 ∧
     t.access .read [.s 3 false] [.s 3 false] ys = .ok zs ∧ t.known zs (fun _ => 0) ∧ t.settledWays zs = true) := by
  refine ⟨rfl, by decide, by decide, rfl, ⟨okIs_eq (by decide +kernel), okIs_eq (by decide +kernel), okIs_eq (by decide +kernel), ?_, by decide +kernel,
    okIs_eq (by decide +kernel), ⟨_, List.mem_cons_self, rfl⟩, rfl⟩, ⟨by decide, rfl⟩, ⟨by decide, rfl, ?_⟩, rfl, by decide, by decide, okIs_eq (by decide +kernel), ?_, by decide +kernel⟩ <;>
  · intro z hz; revert z; decide +kernel

theorem witness_VectorStoreResult :
    let lanes := fun (addr : Nat → Word) => [({ index := 0, addr := addr 0, width := 4, lane := some 0 } : Access)]
    let s := mdev { thr addrs with k := [(1, ⟨1, 0⟩)], v := [(2, { map := .physical })] } []
    let ops : List Opnd := [.k 1, .v 2 false]
    let zs := (lanes (fun _ => 0x100)).map (fun y => (y, pageOne 0))
    let y : Access := { index := 0, addr := 0x8000000000000100, width := 8 }
    s.enterInstr .core .plain = .ok {} ∧
    s.access .write (.s 3 false :: ops) (.s 3 false :: ops) (lanes (fun j => s.x 3 + BitVec.ofNat 64 (j * 4))) = .ok zs ∧
    s.access .write ([.s 3 false, .s 5 false] ++ ops) ([.s 3 false, .s 5 false] ++ ops)
      (lanes (fun j => s.x 3 + BitVec.ofNat 64 j * s.x 5)) = .ok zs ∧
    s.access .write ([.s 3 false, .v 2 false] ++ ops) ([.s 3 false, .v 2 false] ++ ops)
      (lanes (fun j => s.x 3 + (lane (s.vx 2) j).signExtend 64 * 4)) = .ok zs ∧
    ((s.x 4).toNat / 2 ^ 60 ≠ 12 ∧ s.access .write (rrOps true true 3 4) (rrOps true true 3 4) [y] = .ok [(y, spm 0x100)]) :=
  ⟨rfl, okIs_eq (by decide +kernel), okIs_eq (by decide +kernel), okIs_eq (by decide +kernel), by decide, okIs_eq (by decide +kernel)⟩

theorem witness_AtomicResult :
    let s := mdev (thr addrs) []
    let x : Access := { index := 0, addr := s.x 3, width := 8 }
    let y : Access := { index := 0, addr := s.x 4, width := 4 }
    (s.enterInstr .core .plain = .ok {} ∧ s.checkOne x = .ok none ∧ s.me.cancel = false ∧ s.me.mc ≤ 1 ∧ (s.x 3).toNat / 2 ^ 60 ≠ 12 ∧
      s.readyOne .rmw (rrOps false false 4 3) (rrOps false false 4 3) x none = .ok (pageOne 0) ∧
      s.readyOne .rmw (rrOps false false 4 3 ++ [.s 0 false]) (rrOps false false 4 3 ++ [.s 0 false]) x none = .ok (pageOne 0) ∧
      s.me.freeTag = some 0) ∧
    (s.checkOne y = .ok (some (spm 0x100)) ∧
      s.readyOne .rmw (rrOps true true 3 4) (rrOps true true 3 4) y (some (spm 0x100)) = .ok (spm 0x100)) ∧
    s.me.children = [] ∧ s.me.tcons = [] ∧ s.me.releasing = [] :=
  ⟨⟨rfl, rfl, rfl, by decide, by decide, rfl, rfl, rfl⟩, ⟨rfl, rfl⟩, rfl, rfl, rfl⟩

theorem witness_FenceAndTaintResult :
    let s := dev (thr addrs)
    let u := mdev { thr addrs with rsb := [slot0] } []
    let h := mdev { thr addrs with rsb := [{ slot0 with place := { pageOne 0 with home := .io } }] } []
    s.enterInstr .core .plain = .ok {} ∧ h.enterInstr .core .plain = .ok {} ∧ u.enterInstr .core .plain = .ok {} ∧
    (¬ ((15#4 &&& 12#4) ≠ 0 ∧ 2 ≤ (3#2).toNat ∧ s.me.rsb ≠ []) ∧ s.fenceHolds s.cur 15 3 = true) ∧
    ((12#4 &&& 12#4) ≠ 0 ∧ 2 ≤ (2#2).toNat ∧ u.me.rsb ≠ [] ∧ (u.overflowDrain u.cur).fenceHolds u.cur 12 2 = false) ∧
    ((4#4 &&& 12#4) ≠ 0 ∧ h.me.rsb ≠ [] ∧ (h.overflowDrain h.cur).fenceHolds h.cur 4 2 = true) ∧
    (dev { thr addrs with tags := [(0, { busy := true, homes := [(.core 0, 0)] })] }).fenceHolds 0 3 0 = false ∧
    (dev { thr addrs with tags := [(0, { busy := true, homes := [(.core 0, 0)], waits := [(.io, 9)] })] }).fenceHolds 0 2 0 = false ∧
    (dev { thr addrs with tags := [(0, { busy := true, waits := [(.io, 9)] })] }).fenceHolds 0 2 0 = true ∧
    spilledOf s.me [.s 3 true, .s 0 false] = none ∧ spilledOf s.me [.v 31 false, .v 0 false] = none ∧ taintOf s.me [.s 3 true] = 0 :=
  ⟨rfl, rfl, rfl, by decide +kernel⟩

theorem witness_BarrierAndChannelResult :
    let s := dev (thr [])
    let chan := fun (c : Chan) => ({ s with clusters := [(0, { chans := [(0, c)] })] } : State)
    let s1 := chan { live := true, launch := 1, recvs := [⟨1, 0, 5, []⟩] }
    let s2 := chan { live := true, launch := 1, fifo := [9] }
    let s3 := chan { live := true, launch := 1, fifo := [9], sends := [⟨1, 8, 0, []⟩] }
    let cr := fun (u : State) => (u.cluster 0).record 0 u.me.launch 0
    let a : Arrival := { launch := 1, group := 0, t := 0, kind := 1, dbl := true, d := 31, val := 3, mc := 1 }
    let th : Thread := { thr [] with run := .waiting .drained, stage := some (.barrier a) }
    let alone := dev th
    let two : State := { dev th with threads := [(0, th), (1, thr [])] }
    (s.enterInstr .core .plain = .ok {} ∧ groupLegal s.me.rect (coreOf s.cur) (s.x 0) = true ∧ s.me.cancel = false ∧
      spilledOf s.me [.s 0 true, .s 31 true] = none) ∧
    (channelLegal s.me.rect (s.x 0) = true ∧ (s.cluster (channelCluster (s.x 0))).channel s.me.launch 0 = some 0 ∧ s.me.rsb = [] ∧
      s.me.storeCount = 0 ∧ (cr s).fifo.length < 8 ∧ (cr s).recvs = [] ∧ spilledOf s.me (rrOps true true 5 0) = none ∧
      taintOf s.me (rrOps true true 5 0) = 0) ∧
    ((s1.cluster 0).channel 1 0 = some 0 ∧ (cr s1).fifo.length < 8 ∧ (cr s1).recvs = [⟨1, 0, 5, []⟩] ∧ 1 ≠ s1.cur) ∧
    ((s2.cluster 0).channel 1 0 = some 0 ∧ (cr s2).fifo = [9] ∧ (cr s2).sends = []) ∧
    ((s3.cluster 0).channel 1 0 = some 0 ∧ (cr s3).fifo = [9] ∧ (cr s3).sends = [⟨1, 8, 0, []⟩] ∧ (cr s3).recvs = []) ∧
    ((two.thread 0).stage = some (.barrier a) ∧ (two.thread 0).run = .waiting .drained ∧ (two.thread 0).drained = true ∧ a.t = 0 ∧
      1 ∈ two.members 1 0 ∧ (two.cluster 0).arrivals = []) ∧
    ((alone.thread 0).stage = some (.barrier a) ∧ (alone.thread 0).run = .waiting .drained ∧ (alone.thread 0).drained = true ∧
      alone.savedMember 1 0 = false ∧ (∀ v ∈ alone.members 1 0, v = 0) ∧ a.unmap = [] ∧ (alone.thread 0).releasing = []) :=
  ⟨⟨rfl, by decide +kernel, rfl, rfl⟩, ⟨by decide +kernel, rfl, rfl, rfl, by decide, rfl, rfl, rfl⟩, by decide +kernel, by decide +kernel,
    by decide +kernel, by decide +kernel, by decide +kernel⟩

theorem witness_NarrowResult :
    let s := dev (pfx 0x1801)
    let u := dev (pfx 0x406)
    let w := dev (pfx 0xE7)
    s.enterInstr .core .vqnt = .ok { fa := 1, fd := 6 } ∧ (29#5).toNat + groupRegs (chunkBytes 1) ≤ 32 ∧
    (30#5).toNat + groupRegs (chunkBytes 6) ≤ 32 ∧ (∀ os, spilledOf s.me os = none) ∧
    u.enterInstr .core .vdqnt = .ok { fa := 6, fd := 1 } ∧ (∀ os, spilledOf u.me os = none) ∧
    w.enterInstr .core .dot = .ok { fa := 7, fb := 7 } ∧ (30#5).toNat + groupRegs (dotBytes 7) ≤ 32 ∧ ∀ os, spilledOf w.me os = none :=
  ⟨rfl, by decide, by decide, nothingSpilled _ rfl rfl, rfl, nothingSpilled _ rfl rfl, rfl, by decide, nothingSpilled _ rfl rfl⟩

theorem witness_CommitPointEffect : (dev { thr addrs with rsb := [slot0], hflag := true }).me.children = [] ∧
    (dev { thr addrs with rsb := [slot0], hflag := true }).me.tcons = [] := ⟨rfl, rfl⟩

/-- A child of a thread. -/
def kid : Child := (thr []).child 5 1 0

theorem witness_ThreadControlResult :
    let s := dev (thr [(1, 0x3FFFFFFFFFFF)])
    let u := dev { thr [] with sv := true, children := [kid] }
    (s.enterInstr .userContext .plain = .ok {} ∧ s.me.children.length < 8 ∧ s.me.loadsSettled = true) ∧
    (s.me.cancel = false ∧ (s.x 1).toNat < 2 ^ 46 ∧ groupLegal s.me.rect (coreOf s.cur) (s.x 0) = true ∧ field (s.x 0) 14 12 ≤ 2 ∧
      field (s.x 0) 17 15 ≤ 2 ∧ spilledOf s.me [.s 1 false] = none ∧ spilledOf s.me [.s 1 false, .s 0 false] = none) ∧
    (s.enterInstr .core .plain = .ok {} ∧ s.me.children = [] ∧ s.me.releasing = [] ∧ s.me.tcons = []) ∧
    (u.me.children = [kid] ∧ u.me.tcons = [] ∧ u.me.run ≠ .free ∧ u.freeCtx (coreOf u.cur) = some 1) :=
  ⟨⟨rfl, by decide, rfl⟩, by decide +kernel, ⟨rfl, rfl, rfl, rfl⟩, rfl, rfl, by decide, by decide +kernel⟩

theorem witness_TaskAndAlignResult :
    let s := dev (thr [(4, 0x8000000000000080)])
    let x : Access := { index := 0, addr := s.x 4, width := 128 }
    let ring : State := { dev {} with cur := 15, threads := [(15, thr [])], cores := [(0, { owner := some 1, claim := 1 })] }
    let al := fun (r : Align) (x : Thread) =>
      ({ dev x with clusters := [(0, { align := some r })], cores := [(0, { owner := some 1 }), (1, { owner := some 1 })] } : State)
    let two : State := { dev (thr []) with cores := [(0, { owner := some 1 }), (1, { owner := some 1 })] }
    let all := fun (u : State) => (clusterCores 0).filter (fun j => decide ((u.core j).owner = some u.me.launch))
    let three : State := { al ⟨0x2000, 1, [], 0, [16]⟩ (thr []) with cores := (List.range 3).map (fun k => (k, { owner := some 1 })) }
    (s.enterInstr .userContext .plain = .ok {} ∧ s.me.cancel = false ∧ (s.x 4).toNat / 2 ^ 60 ∈ [0, 8, 10] ∧
      s.checkOne x = .ok (some (spm 0x80)) ∧ s.readyOne .read [.s 4 false] [.s 4 false] x (some (spm 0x80)) = .ok (spm 0x80)) ∧
    (ring.enterInstr .core .plain = .ok {} ∧ ring.me.cancel = false ∧ ctxOf ring.cur = 15 ∧
      (ring.core (coreOf ring.cur)).claim ≠ (ring.core (coreOf ring.cur)).head) ∧
    (s.enterInstr .core .plain = .ok {} ∧ ctxOf s.cur ≠ 15 ∧ s.me.task = false ∧
      ∀ c ∈ s.clusters, ∀ a ∈ c.2.arrivals, a.launch ≠ s.me.launch) ∧
    (1 ≤ (28#5).toNat ∧ (28#5).toNat ≤ 28 ∧ spilledOf s.me [.s 4 false] = none ∧
      (dev { thr [] with sv := true }).enterInstr .supervisorUserContext .plain = .ok {}) ∧
    ((two.cluster 0).align = none ∧ 1 < (all two).length ∧ (s.cluster 0).align = none ∧ (all s).length ≤ 1 ∧ s.me.releasing = []) ∧
    ((al ⟨0x2004, 1, [1], 0, [16]⟩ (thr [])).cluster 0).align = some ⟨0x2004, 1, [1], 0, [16]⟩ ∧ 0x2004 ≠ (thr []).pc ∧ three.cycle < 0 + 512 ∧
    (three.enterInstr .core .plain = .ok {} ∧ (three.cluster 0).align = some ⟨0x2000, 1, [], 0, [16]⟩ ∧ three.me.pc = 0x2000 ∧
      three.me.launch = 1 ∧ ([] : List Nat).length + 1 < (all three).length) ∧
    (let u := al ⟨0x2000, 1, [1], 0, [16]⟩ (thr [])
     (all u).length ≤ [1].length + 1 ∧ 0 ∉ [1] ∧ u.cur ∉ [16] ∧ [16].Nodup ∧ u.me.releasing = []) :=
  ⟨⟨rfl, rfl, by decide, rfl, rfl⟩, ⟨rfl, rfl, by decide, by decide⟩, ⟨rfl, by decide, rfl, by decide +kernel⟩,
    ⟨by decide, by decide, rfl, rfl⟩, by decide +kernel, by decide +kernel, by decide, by decide, ⟨rfl, rfl, rfl, rfl, by decide +kernel⟩, by decide +kernel⟩

theorem witness_PerformResult :
    let base := mdev (thr addrs) []
    let req := fun (k : ReqKind) => ({ src := .thread 0, place := spm 0x100, kind := k, tag := some 0 } : Req)
    let st := fun (k : ReqKind) => ({ base with fifo := [req k] } : State)
    let add : ReqKind := .atomic .aadd true 5 0 1
    let cas : ReqKind := .atomic .acas true 5 7 1
    (∀ k ∈ [.load 8, .store 0xFF 0, add, cas],
      (st k).headReq (.thread 0) (.core 0) = some (req k) ∧ (st k).flipHolds (req k) = false ∧ (st k).homeReady (spm 0x100) = true) ∧
    ((∃ v, atomicNew .aadd true ((st add).read (spm 0x100).loc 8) 5 0 1 = some v) ∧ (spm 0x178).loc % 128 + 8 ≤ 128) ∧
    atomicNew .acas true ((st cas).read (spm 0x100).loc 8) 5 7 1 = none :=
  ⟨by decide +kernel, ⟨⟨5, by decide +kernel⟩, by decide⟩, by decide +kernel⟩

theorem witness_PerformInOrder :
    let r : Req := { src := .thread 0, place := spm 0x100, kind := .load 8, tag := some 0 }
    let s : State := { dev (thr []) with fifo := [r] }
    (∃ t, exec (.performLoad (.thread 0) (.core 0)) s = .next t ∧ t.fifo = []) ∧ s.headReq (.thread 0) (.core 0) = some r ∧
      r.kind ≠ .writeback ∧ s.flipHolds r = false ∧ s.homeReady r.place = true := ⟨⟨_, rfl, by decide +kernel⟩, by decide +kernel⟩

theorem witness_ReceiveResult :
    let tag : Tag := { busy := true, replies := 1 }
    let pend := fun (fin : Finish) (o : Bool) => ({ thr [] with
      run := .waiting .reply
      tags := [(0, tag)]
      inflight := some ⟨some 0, fin, [⟨0, spm 0, 8, o, none⟩]⟩ } : Thread)
    let msg := fun (k : MsgKind) => (⟨.core 0, .core 0, lineOf (spm 0).loc, k⟩ : Msg)
    let st := fun (x : Thread) (k : MsgKind) => ({ dev x with rq := [msg k] } : State)
    let back := fun (x : Thread) (fin : Finish) (o : Bool) => x.inflight = some ⟨some 0, fin, [⟨0, spm 0, 8, o, none⟩]⟩ ∧
      x.run = .waiting .reply ∧ x.releasing = [] ∧ (NMap.get {} x.tags 0).replies = 1 ∧ (NMap.get {} x.tags 0).waits = [] ∧
      (NMap.get {} x.tags 0).busy = true
    (let k : MsgKind := .reply (.thread 0) (some 0) 0 (spm 0) 8 5 0 true
     let x := pend (.scalar 31 8 true) true
     (st x k).headMsg (.core 0) (.core 0) = some (msg k) ∧ back x (.scalar 31 8 true) true) ∧
    (let k : MsgKind := .ack (.thread 0) 1 0 false
     (st (thr []) k).headMsg (.core 0) (.core 0) = some (msg k)) ∧
    (let k : MsgKind := .atomicReply (.thread 0) none 0 5 1 0 true true
     (st (thr []) k).headMsg (.core 0) (.core 0) = some (msg k)) ∧
    (let k : MsgKind := .atomicReply (.thread 0) (some 0) 0 5 1 0 true false
     let x := pend (.atomic 31 true true) false
     (st x k).headMsg (.core 0) (.core 0) = some (msg k) ∧ back x (.atomic 31 true true) false) ∧
    (let s : State := { st (thr []) .inv with dirs := [(lineOf (spm 0).loc, { invs := [(0, 1)], waiters := [.core 0] })] }
     let two : State := { st (thr []) .inv with dirs := [(lineOf (spm 0).loc, { invs := [(0, 1), (1, 1)], waiters := [.core 0] })] }
     s.headMsg (.core 0) (.core 0) = some (msg .inv) ∧
     NMap.set 0 (s.dir (msg .inv).line).invs 0 (NMap.get 0 (s.dir (msg .inv).line).invs 0 - 1) = [] ∧
     NMap.set 0 (two.dir (msg .inv).line).invs 0 (NMap.get 0 (two.dir (msg .inv).line).invs 0 - 1) ≠ []) ∧
    (let s : State := { st (thr []) .settle with cores := [(0, { l1 := [(lineOf (spm 0).loc, some ⟨0, false⟩)] })] }
     s.headMsg (.core 0) (.core 0) = some (msg .settle) ∧ s.l1 0 (msg .settle).line = some ⟨0, false⟩) := by
  refine ⟨⟨rfl, ?_⟩, rfl, rfl, ⟨rfl, ?_⟩, ?_, ?_⟩ <;> decide +kernel

theorem witness_ThreadReturns :
    let st := fun (r : RunState) => dev { thr addrs with run := r }
    (∀ r, ((st r).thread 0).releasing = []) ∧ ((st (.waiting (.latency 0))).thread 0).run = .waiting (.latency 0) ∧
    (let s : State := { dev {} with threads := [(15, { thr [] with run := .parked .ring })], cores := [(0, { head := 1 })] }
     15 = 16 * 0 + 15 ∧ (s.thread 15).run = .parked .ring ∧ (s.core 0).claim ≠ (s.core 0).head ∧ (s.thread 15).releasing = []) ∧
    isTsc 0 = false ∧ ((st .halted).thread 0).run = .halted ∧ ((st .trapStopped).thread 0).run = .trapStopped ∧
    ((st .debugStopped).thread 0).run = .debugStopped ∧ ((st (.waiting (.refill true 3 []))).thread 0).run = .waiting (.refill true 3 []) :=
  ⟨fun _ => rfl, rfl, by decide +kernel, rfl, rfl, rfl, rfl, rfl⟩

theorem witness_MeetEventResult :
    let at_ := fun (w : Nat) => { thr [(1, 0x200)] with run := .waiting .drained, stage := some (.meet false 1 0 w) }
    let held : Meet := { (at_ 0).arrival false 1 0 with holder := 1, count := 2 ^ 32 - 2, deadline := 5 }
    let s : State := { dev (at_ 3) with cores := [(0, { meets := [(31, held)] })] }
    let full : State := { dev (at_ 3) with cores := [(0, { meets := (List.range 32).map (fun i => (i, { held with site := 9 })) })] }
    let quiet : State := { dev { thr [] with run := .parked (.holder false 0 31) } with cores := [(0, { meets := [(31, held)] })] }
    let al : State := { dev (thr []) with cycle := 512, clusters := [(0, { align := some ⟨0x2000, 1, [0], 0, [0]⟩ })] }
    let ch : State := { dev (thr []) with clusters := [(0, {
      chans := [(0, { live := true, recvs := [⟨0, 0, 5, []⟩], last := some 0, sent := 2 })]
      scan := [(0, 0, 2)] })] }
    let hreq : State := { dev (thr []) with fifo := [{ src := .thread 16, place := spm 0, kind := .load 8 }] }
    ((s.thread 0).stage = some (.meet false 1 0 3) ∧ (s.thread 0).run = .waiting .drained ∧ (s.thread 0).drained = true ∧
      (s.meets false 0).find? (fun m => m.2.same ((s.thread 0).arrival false 1 0)) = some (31, held) ∧ held.count + (s.thread 0).mc ≤ 2 ^ 32 - 1) ∧
    ((s.meets false 0) = [(31, held)] ∧ held.valid = true ∧ held.deadline ≤ ({ s with cycle := 5 } : State).cycle) ∧
    (∀ m ∈ s.meets false 0 ++ full.meets false 0, m.2.valid = true → s.cycle < m.2.deadline) ∧
    ((full.meets false 0).find? (fun m => m.2.same ((full.thread 0).arrival false 1 0)) = none ∧
      (∀ i, i < 32 → (NMap.get {} (full.meets false 0) i).valid = true) ∧ (full.thread 0).releasing = []) ∧
    (((dev (at_ 3)).meets false 0).find? (fun m => m.2.same (((dev (at_ 3)).thread 0).arrival false 1 0)) = none ∧ 3 ≠ 0 ∧ 0 < 32 ∧
      (NMap.get {} ((dev (at_ 3)).meets false 0) 0).valid = false) ∧
    (let m := NMap.get {} (s.meets false 0) 31
     m.valid = true ∧ m.deadline ≤ ({ s with cycle := 5 } : State).cycle ∧ (s.thread m.holder).releasing = []) ∧
    (quiet.quiescent 1 = true ∧ quiet.heldMeets 1 = [(false, 0, 31)] ∧ ∀ c ∈ quiet.clusters, c.2.align = none) ∧
    ((al.cluster 0).align = some ⟨0x2000, 1, [0], 0, [0]⟩ ∧ 0 + 512 ≤ al.cycle ∧ [0].Nodup ∧ (al.thread 0).releasing = []) ∧
    ((ch.cycle - ch.dieReset) % 4096 = 0 ∧ (ch.cluster 0).scan = [(0, 0, 2)] ∧ (ch.thread 0).tvec ≠ 0 ∧
      (ch.cluster 0).deadlocked (ch.cluster 0).recvWaits 0 = true) ∧
    (let c : Cluster := { (ch.cluster 0) with scan := [] }
     ∀ p ∈ c.chans, ∀ w ∈ p.2.recvs, c.deadlocked c.recvWaits w.t = false) ∧
    (srcCore (.thread 16) ≠ some 0 ∧ hreq.headReq (.thread 16) (.core 0) = some { src := .thread 16, place := spm 0, kind := .load 8 }) := by
  decide +kernel

/-- A task record of launch 1 that reads `len` bytes. -/
def task (len : Word) : Record := [0x2000, 0x100000001, 1, 2, 3, 4, 5, 6, 0, len, 0, 0, 0, 0, 0, 0]

theorem witness_BellowsResult :
    let waits : Thread := { thr [] with run := .parked (.waitw 7) }
    let q : Queued := ⟨task 64, 0⟩
    let many := List.replicate 64 q
    let st := fun (d : List Queued) (x : Thread) (pool : List (Nat × Record)) =>
      ({ dev x with cores := [(0, { owner := some 1, deque := d })], clusters := [(0, { pool := pool })] } : State)
    let thief : State := { dev waits with cores := [(0, { owner := some 1 }), (1, { owner := some 1, deque := [q] })], cycle := 4096 }
    let fwd : State := { dev (thr []) with clusters := [(0, { forwarded := [⟨task 64, 0⟩] })] }
    (∀ j, ((st many waits []).core j).deque.length ≤ 64) ∧ Record.tiles (task 0) = [] ∧ Record.tiles (task 64) ≠ [] ∧
    (st many waits []).eligible 0 (task 64) ≠ [] ∧ ((st [q] waits []).intoDeque 0 (task 0)).isSome = true ∧
    ((st many waits []).intoDeque 0 (task 0)).isSome = true ∧
    ((st many waits (List.replicate 512 (0, task 0))).intoDeque 0 (task 0)).isNone = true ∧
    ((task 64).length = 16 ∧ ((st [q] waits []).core 0).nextRecord = some q ∧ ((st [q] waits []).cluster 0).pool = [] ∧
      (∀ c ∈ (st [q] waits []).clusters, ∀ a ∈ c.2.arrivals, a.launch ≠ 1) ∧ (st [q] waits []).firstWaiter 0 = some (7, 0) ∧
      ((st [q] waits []).thread 0).releasing = []) ∧
    ((st [q] (thr []) []).firstWaiter 0 = none ∧ (st [q] (thr []) []).freeCtx 0 = some 1 ∧
      (st [q] (thr []) []).ownerLaunch 0 = some launch1) ∧
    (thief.ringNext 0 = some 1 ∧ thief.stealable 0 1 = some q ∧ thief.firstWaiter 0 = some (7, 0) ∧ (thief.core 0).deque = [] ∧
      (thief.core 0).lastSteal = none ∧ (thief.cluster 0).pool = []) ∧
    ((fwd.cluster 0).forwarded = [⟨task 64, 0⟩] ∧ (fwd.push 0 (coreAt 0 0) (task 64) true).isSome = true) := by
  refine ⟨fun j => ?_, by decide +kernel⟩
  simp only [State.core, NMap.get]
  split <;> simp

theorem witness_HearthResult :
    let h : Hearth := { valid := true, asid := 1, gran := 5, cores := [(0, 256)] }
    let st := fun (u : HearthUpd) (busy : Option Nat) =>
      ({ clusters := [(0, { hearth := [(32, h)], updates := [u], hclrBusy := busy, sumInbox := [(3, [])] })], cycle := 4096 } : State)
    let up := st ⟨1, 5, some 0, 9, 0⟩ none
    (((st ⟨1, 5, some 0, 9, 0⟩ (some 1)).cluster 0).hclrBusy = some 1) ∧
    ((up.cluster 0).updates = [⟨1, 5, some 0, 9, 0⟩] ∧ up.tieTaken (.bellows 0) = false ∧ (up.tie (.bellows 0) 0).tieTaken (.bellows 0) = true ∧ (up.cluster 0).hclrBusy ≠ some 1 ∧ hearthFind (up.cluster 0).hearth 1 5 = some (32, h)) ∧
    (hearthFind (up.cluster 0).hearth 1 6 = none ∧ ((st ⟨1, 6, none, 1, 0⟩ none).cluster 0).updates = [⟨1, 6, none, 1, 0⟩] ∧ (0 : Int) < 1 ∧
      (0 : Int) ≤ 0) ∧
    (∃ v : Word, v.getLsbD 0 = true ∧ (up.cluster 0).hclrBusy = none) ∧ ((up.cycle - up.dieReset) % 4096 = 0 ∧ 167 < 168) ∧
    ∃ p ∈ (up.cluster 0).sumInbox, p.1 = 3 := by
  refine ⟨by decide +kernel, by decide +kernel, by decide +kernel, ⟨1, by decide +kernel⟩, by decide, ⟨(3, []), by decide +kernel⟩⟩

theorem witness_TileResult :
    let s := tiled (thr [(3, 0x8000000000000000), (4, 0x100003F), (5, 0x8000000000001000)]) tileA tileB
    let one := fun (a : Tile) => tiled (thr []) a tileB
    s.enterInstr .core .plain = .ok {} ∧
    (s.me.handle 31 = none ∧ shapeLegal (s.x 4) = true ∧ s.tileInWindow 0 (s.x 3) (s.x 4) = true ∧ s.me.granted 0 (s.x 3) = true ∧
      (s.x 3).toNat % 64 = 0 ∧ spilledOf s.me [.s 3 false, .s 4 false] = none ∧ s.tileFor 0 1 (s.x 3) (s.x 4) = some (5, true) ∧
      s.tileInWindow 0 (s.x 5) (s.x 4) = true ∧ s.tileFor 0 1 (s.x 5) (s.x 4) = some (0, false)) ∧
    (s.me.handle 2 = some 6 ∧ (s.tile 0 6).op = .none ∧ (s.tile 0 6).relWait = false ∧ 1 < (s.tile 0 6).refs) ∧
    (s.me.handle 1 = some 5 ∧ (s.tile 0 5).refs = 1 ∧ (s.tile 0 5).state = .ready ∧ (s.tile 0 5).count = 0 ∧ (s.tile 0 5).op = .none ∧
      (s.tile 0 5).relWait = false) ∧
    ((one { tileA with count := 1 }).tile 0 5).count ≠ 0 ∧
    ((one { tileA with state := .empty }).tile 0 5).state = .empty ∧ ((one { tileA with state := .empty }).tile 0 5).filler = none ∧
    (s.tile 0 5).count < 63 ∧
    ((one { tileA with op := .release, refs := 0 }).tile 0 5).op = .release ∧ ((one { tileA with op := .refill }).tile 0 5).op = .refill ∧
    ((one { tileA with op := .drain }).tile 0 5).op = .drain := by
  refine ⟨rfl, ?_⟩; decide +kernel

theorem witness_MatrixIssueResult :
    let s := tiled (thr []) tileA tileB
    let sc := tiled (thr [(3, 0x8000000000000000), (4, 0x8000000000000400)]) tileA tileB
    let gr := tiled { thr [(3, 0x1000)] with rect := { w := 2, h := 1 } } tileA tileB
    let mk := tiled (thr []) { tileA with shape := 0x303F } tileB
    let ms := tiled (thr []) { tileA with state := .empty, shape := 0x7F03F } tileB
    let inSize := fun (u : State) (x : Tile) => field x.addr 63 60 = 10 →
      x.addr.toNat % 2 ^ 24 + shapeSize x.shape ≤ (u.cluster (clusterOf 0)).spw * 2 ^ 20
    (s.enterInstr .core .mma = .ok { fa := 1, fb := 1 } ∧ s.me.handle 1 = some 5 ∧ s.me.handle 2 = some 6 ∧ s.me.mprogV = false ∧
      shapeFmt tileA.shape = 1 ∧ shapeFmt tileB.shape = 1 ∧ shapeRows tileA.shape = 64 ∧ shapeRows tileB.shape = 128 ∧
      shapeCols tileA.shape = shapeCols tileB.shape ∧ ((s.core 0).acc true).owner = none ∧ s.me.ebBudget ≠ 0 ∧ inSize s tileA ∧
      inSize s tileB ∧ s.tile 0 5 = tileA ∧ s.tile 0 6 = tileB) ∧
    (gr.enterInstr .core .mma = .ok { fa := 1, fb := 1 } ∧ groupLegal gr.me.rect 0 (gr.x 3) = true ∧ field (gr.x 3) 14 12 = 1 ∧
      field (gr.x 3) 17 15 = 0 ∧ coreX 0 = field (gr.x 3) 5 0 ∧ coreY 0 = field (gr.x 3) 11 6 ∧ gr.me.handle 1 = some 5 ∧
      gr.me.handle 2 = some 6 ∧ spilledOf gr.me [.s 3 false] = none ∧ gr.me.staint 3 = 0 ∧ (gr.cluster 0).mmacs = []) ∧
    (s.enterInstr .core .plain = .ok {} ∧ mk.me.handle 1 = some 5 ∧ shapeSize (mk.tile 0 5).shape = 1024) ∧
    (field (sc.x 3) 63 60 = 8 ∧ field (sc.x 4) 63 60 = 8 ∧ (sc.x 3).toNat % 64 = 0 ∧ (sc.x 4).toNat % 64 = 0 ∧
      ∃ rs cs zs, sc.scaleCheck (sc.x 3) (rowScales (sc.x 3)) = .ok rs ∧ sc.scaleCheck (sc.x 4) (columnScales (sc.x 4)) = .ok cs ∧
        sc.ready .read [.s 3 false, .s 4 false] [.s 3 false, .s 4 false] (rs ++ cs) = .ok zs ∧ zs.length = 192 ∧ (∀ z ∈ zs, sc.way sc.cur z false = .home) ∧ sc.me.freeTag = some 0) ∧
    (ms.enterInstr .core .mstore = .ok {} ∧ shapeFmt (ms.tile 0 5).shape = 0 ∧ shapeRows (ms.tile 0 5).shape = 64 ∧
      shapeCols (ms.tile 0 5).shape = 128 ∧ (ms.tile 0 5).state = .empty ∧ (ms.tile 0 5).op = .none) := by
  intro s sc gr mk ms inSize
  let placed := fun (xs : List Access) => xs.map (fun a => (a, some (spm (a.addr.toNat % 2 ^ 18))))
  let zs : List (Access × Place) := (rowScales (sc.x 3) ++ columnScales (sc.x 4)).map (fun a => (a, spm (a.addr.toNat % 2 ^ 18)))
  refine ⟨⟨okIs_eq (by decide +kernel), by decide +kernel⟩, ⟨okIs_eq (by decide +kernel), by decide +kernel⟩,
    ⟨okIs_eq (by decide +kernel), by decide +kernel⟩, ⟨by decide +kernel, by decide +kernel,
    by decide +kernel, by decide +kernel, placed (rowScales (sc.x 3)), placed (columnScales (sc.x 4)), zs, okIs_eq (by decide +kernel),
    okIs_eq (by decide +kernel), okIs_eq (by decide +kernel), by decide +kernel, ?_, by decide +kernel⟩,
    okIs_eq (by decide +kernel), by decide +kernel⟩
  show ∀ z ∈ zs, sc.way sc.cur z false = .home
  decide +kernel

theorem witness_MatrixStepResult :
    let j : Job := ⟨0, true, .mma 5 6 1 1 64 128 1 false, 0, false, {}⟩
    let j2 : Job := ⟨0, true, .mma 5 6 1 1 64 128 4096 false, 0, false, { had := (List.range 128).map (16 * ·) }⟩
    let m : Job := ⟨0, false, .mmask 5 1024, 0, false, {}⟩
    let w : Job := ⟨0, false, .mstore 5 1 4 false 64 1, 1, false, {}⟩
    let st := fun (a b : Tile) (j : Job) =>
      ({ tiled { thr [] with run := .waiting .matrix } a b with
         clusters := [(0, { spw := 1, expander := [⟨0, .clean, none⟩] })]
         cores := [(0, { tiles := [(5, a), (6, b)], jobs := [j], acc1 := { clearing := true } })] } : State)
    let fill : Tile := { tileA with state := .filling, filler := some (.mstore 0) }
    let wide := fun (t : Tile) => ({ t with shape := t.shape + 0xFFF000 } : Tile)
    ((st tileA tileB j).nextJob 0 = some j ∧ shapeRows tileA.shape = 64 ∧ shapeRows tileB.shape = 128 ∧ shapeCols tileA.shape = 1 ∧
      shapeCols tileB.shape = 1 ∧ 0 * chunkLen 1 < 1 ∧ productSteps 1 1 ≤ 0 + 1 ∧ ((st tileA tileB j).thread 0).releasing = [] ∧
      tileA.op = .none ∧ tileB.op = .none ∧ (st tileA tileB j).readsReady 0 j = true) ∧
    ((st (wide tileA) (wide tileB) j2).nextJob 0 = some j2 ∧ shapeCols (wide tileA).shape = 4096 ∧ shapeRows (wide tileB).shape = 128 ∧
      0 + 1 < productSteps 1 4096 ∧ (st (wide tileA) (wide tileB) j2).readsReady 0 j2 = true) ∧
    (((st tileA tileB m).core 0).jobs = [m] ∧ ((st tileA tileB m).tile 0 5).op = .none ∧
      (st tileA tileB m).rangesReady 0 [(tileLoc 0 ((st tileA tileB m).tile 0 5).addr, 1024)] = true) ∧
    ((st fill tileB w).nextJob 0 = some w ∧ shapeFmt fill.shape = 1 ∧ shapeCols fill.shape = 1 ∧ 32 * 1 < 64 ∧ 64 ≤ 32 * 1 + 32 ∧ ((st fill tileB w).tile 0 5).relWait = false ∧
      field ((st fill tileB w).tile 0 5).addr 63 60 = 8 ∧
      (st fill tileB w).rangesReady 0 (storeRanges 0 ((st fill tileB w).tile 0 5) 1) = true) ∧
    (((st tileA tileB m).core 0).acc true).clearing = true := by
  refine ⟨by decide +kernel, by decide +kernel, by decide +kernel, by decide +kernel, by decide +kernel⟩

/-- A copy of one float from 0x1000 to 0x2000 of the own scratchpad; its object is at offset 0. -/
def copyDesc : List Word := [0x8000000000001000, 0x8000000000002000, 0x1000000000000000, 0, 0, 0, 0, 0]
/-- Core 0 with that descriptor at 0x400 of its scratchpad, and one tile. -/
def copier (t : Tile) : State :=
  (tiled (thr [(3, 0x8000000000000400), (4, 0x8000000000000000)]) t tileB).writeWords (locSpm 0 0x400) copyDesc

theorem witness_CopyResult :
    let s := copier { tileA with state := .empty, addr := 0x8000000000002000, shape := 0 }
    let D := Desc.ofWords copyDesc
    let u := s.writeWord (locSpm 0 0) 0x1000000000000000
    let x : Access := { index := 0, addr := s.x 4, width := 16 }
    s.enterInstr .core .plain = .ok {} ∧ s.readDesc 3 = .ok copyDesc ∧ s.checkDesc D = .ok () ∧
    (s.me.ebBudget ≠ 0 ∧ s.me.rsb = [] ∧ s.me.storeCount = 0 ∧ s.queued (D.engine 0) < 16) ∧
    (s.me.handle 1 = some 5 ∧ (s.tile 0 5).state = .empty ∧ (s.tile 0 5).op = .none ∧ D.fillKind (s.tile 0 5) = some .fill ∧
      field (s.tile 0 5).addr 63 60 ≠ 10) ∧
    (u.enterInstr .core .plain = .ok {} ∧ u.cobjAddr (u.x 4) false = .ok [(x, some (spm 0))] ∧ spilledOf u.me [.s 4 false] = none ∧ u.me.staint 4 = 0 ∧
      field (u.readWord (locSpm 0 0)) 63 60 ≠ 0) ∧
    (s.cobjAddr (s.x 4) true = .ok [(x, some (spm 0))] ∧
      s.ready .read [.s 4 false] [.s 4 false] [({ x with width := 8 }, some (spm 0))] = .ok [({ x with width := 8 }, spm 0)] ∧
      s.way s.cur ({ x with width := 8 }, spm 0) false = .home ∧ s.me.freeTag = some 0) :=
  ⟨okIs_eq (by decide +kernel), okIs_eq (by decide +kernel), okIs_eq (by decide +kernel), by decide +kernel, by decide +kernel,
    ⟨okIs_eq (by decide +kernel), okIs_eq (by decide +kernel), by decide +kernel, by decide +kernel, by decide +kernel⟩,
    okIs_eq (by decide +kernel), okIs_eq (by decide +kernel), by decide +kernel, by decide +kernel⟩

theorem witness_EngineResult :
    let c : Cmd := { id := 3, desc := copyDesc, t := 0, core := 0, cluster := 0, asid := 0, sv := false, launch := 1, srs := 1 }
    let st := fun (c : Cmd) => ({ dev (thr []) with engines := [(0, { cmds := [c] })] } : State)
    let run : Cmd := { c with running := true }
    let far : Cmd := { run with desc := [0xA000000000000000] ++ copyDesc.tail }
    let msg := fun (k : MsgKind) => (⟨.engine 0, .core 0, lineOf (spm 0x1000).loc, k⟩ : Msg)
    let got := fun (k : MsgKind) => ({ st run with rq := [msg k] } : State)
    ((st c).engine 0).cmds.find? (fun c => c.entered && !c.running) = some c ∧ (∀ x ∈ ((st c).engine 0).cmds, x.running = false) ∧
    (((st run).engine 0).cmds.find? Cmd.mayStart = some run ∧ run.phase = .idle ∧ run.cancelled = false ∧
      (st run).beyondSize run = false ∧ (st run).coreAwake 0 (locSpm 0 0) = true) ∧
    ((st far).beyondSize far = true ∧ ({ run with cancelled := true } : Cmd).cancelled = true) ∧
    (∀ k ∈ [.reply (.engine 0 3) none 0 (spm 0x1000) 128 0 0 true, .ack (.engine 0 3) 1 0 true, .settle],
      (got k).headMsg (.engine 0) (.core 0) = some (msg k)) ∧
    (let d : Cmd := { run with chunk := 1, fill := some 5 }
     let u := st d
     let x : Copied := { src := [(0x8000000000001000, 4)], lines := [0x8000000000001000], places := [(0, (spm 0x1000).loc)],
                         dests := [(0x8000000000002000, 4)], seen := 0 }
     let y : Cmd := { d with copied := [x] }
     let raced := fun (off : Nat) => ({ st y with changed := [(spm off).loc] } : State)
     u.cmd 0 3 = some d ∧ d.running = true ∧ d.over = true ∧ d.unsettled = 0 ∧ u.fifo = [] ∧ u.threadsOf 1 ≠ [] ∧
      u.coreAwake 0 (locSpm 0 0) = true ∧ u.undone d = [] ∧ (raced 0x1003).undone y ≠ [] ∧ (raced 0x1004).undone y = []) ∧
    (let u := tiled (thr []) { tileA with state := .filling } tileB
     (u.tile 0 5).state = .filling ∧ (u.tile 0 5).relWait = false) := by
  decide +kernel

/-- The transform thread of core 0. -/
def xform (x : Thread) : State := { dev {} with cur := 15, threads := [(15, x)] }

theorem witness_BitStreamResult :
    let s := xform { thr [(3, 0x1FF)] with bsrd := 0x8000000000000000 + 5 * 2 ^ 24, bswr := 0x8000000000000040 + 7 * 2 ^ 24 }
    let i := fun (n : Nat) (a : Word) => (List.range n).map (fun j => ({ index := j, addr := a + BitVec.ofNat 64 j, width := 1 } : Access))
    s.enterInstr .transform .plain = .ok {} ∧ cursorSpace s.me.bsrd = true ∧ cursorSpace s.me.bswr = true ∧
    (∃ zs, s.access .read [] [] (cursorAccesses s.me.bsrd ((5 + 64 + 7) / 8)) = .ok zs ∧ zs.length = 9 ∧
      (∀ z ∈ zs, s.way s.cur z false = .home) ∧ s.me.freeTag = some 0) ∧
    (spilledOf s.me [.s 3 true] = none ∧ s.me.staint 3 = 0 ∧ ¬ (7 + 1 < 8)) ∧
    (∃ z zs, s.access .write [.s 3 true] [.s 3 true] (cursorAccesses s.me.bswr ((7 + 9) / 8)) = .ok (z :: zs) ∧
      ∀ y ∈ zs, lineOf y.2.loc = lineOf z.2.loc) ∧
    field (xform (thr [])).me.bswr 26 24 + 7 < 8 ∧ field s.me.bswr 26 24 + padTo (cursorPos s.me.bswr) 1 < 8 ∧ (i 1 0).length = 1 := by
  intro s i
  let zs : List (Access × Place) := (cursorAccesses s.me.bsrd 9).map (fun a => (a, spm (a.addr.toNat % 2 ^ 18)))
  let ws : List (Access × Place) := (cursorAccesses s.me.bswr 2).map (fun a => (a, spm (a.addr.toNat % 2 ^ 18)))
  refine ⟨okIs_eq (by decide +kernel), by decide +kernel, by decide +kernel, ⟨zs, okIs_eq (by decide +kernel), by decide +kernel, ?_, by decide +kernel⟩,
    by decide +kernel, ⟨ws.headD (⟨0, 0, 1, none⟩, spm 0), ws.tail, okIs_eq (by decide +kernel), ?_⟩, by decide +kernel⟩
  · show ∀ z ∈ zs, s.way s.cur z false = .home
    decide +kernel
  · show ∀ y ∈ ws.tail, lineOf y.2.loc = lineOf (ws.headD (⟨0, 0, 1, none⟩, spm 0)).2.loc
    decide +kernel

theorem witness_CsrResult :
    let s := dev { thr [(3, 5)] with sv := true }
    let u := dev (thr [(3, 5)])
    s.enterInstr .any .plain = .ok {} ∧ csrReadable (s.csrState s.cur) 0x020 = true ∧ csrWritable (s.csrState s.cur) (ctxOf s.cur) 0x020 = true ∧
    0x020 ≠ 0x301 ∧ 0x020 ≠ 0x103 ∧ spilledOf s.me [.s 0 true] = none ∧ (∃ t, s.csrWrite s.cur 0x020 5 = .ok t) ∧
    (u.enterInstr .any .plain = .ok {} ∧ csrReadable (u.csrState u.cur) 0xFFF = false ∧ csrWritable (u.csrState u.cur) (ctxOf u.cur) 0xFFF = false) ∧
    (csrReadable (u.csrState u.cur) 0x000 = true ∧ csrWritable (u.csrState u.cur) (ctxOf u.cur) 0x000 = false) ∧
    csrReadable (u.csrState u.cur) 0x103 = true ∧
    ((s.thread 0).run = .ready ∧ isTsc 0 = false ∧
      (∀ n ∈ [0x002, 0x006, 0x00A, 0x101], csrWritable (s.csrState 0) (ctxOf 0) n = true) ∧
      csrWritable ((xform (thr [])).csrState 15) (ctxOf 15) 0x102 = true) ∧
    (clpartBad 16 = false ∧ (({} : State).cluster 167).busy = false ∧ (({} : State).cluster 0).spw < (16#64).toNat % 32) :=
  ⟨rfl, by decide, by decide, by decide, by decide, rfl, ⟨_, rfl⟩, ⟨rfl, by decide, by decide⟩, by decide, by decide, by decide +kernel, by decide +kernel⟩

theorem witness_TrapEntryResult : ((dev (thr [])).thread 0).tvec ≠ 0 ∧ ((dev (thr [])).thread 0).releasing = [] ∧
    ((dev { thr [] with tvec := 0 }).thread 0).tvec = 0 := by decide +kernel

theorem witness_SystemResult :
    let s := mdev { thr addrs with sv := true, epc := 0x40 } []
    let d : State := { s with debugger := true }
    let r : Req := ⟨.thread 0, pageOne 0, .writeback, none, 0, false, []⟩
    let w : State := { dev { thr [] with run := .waiting .writeback } with fifo := [r] }
    isTsc s.cur = false ∧ s.enterInstr .core .plain = .ok {} ∧ s.debugger = false ∧ d.debugger = true ∧
    s.lineOperand false 4 = .ok none ∧ s.lineOperand true 3 = .ok (some (pageOne 0)) ∧
    (s.enterInstr .supervisor .plain = .ok {} ∧ s.me.epc.toNat < 2 ^ 52 ∧ 2 ^ 52 ≤ (dev { thr [] with sv := true, epc := 2 ^ 52 }).me.epc.toNat ∧
      s.me.cancel = false) ∧
    (w.fifo.find? (fun r => r.src = .thread w.cur && r.kind = .writeback) = some r ∧ w.headReq (.thread w.cur) r.place.home = some r ∧
      w.flipHolds r = false ∧ w.me.run = .waiting .writeback ∧ w.me.releasing = [] ∧ w.fifo.erase r = []) :=
  ⟨rfl, rfl, rfl, rfl, okIs_eq (by decide +kernel), okIs_eq (by decide +kernel), ⟨rfl, by decide, by decide, rfl⟩, by decide +kernel⟩

theorem witness_PlacementTraps :
    (xform (thr [])).may .userContext = false ∧ (dev (pfx 1)).me.pfx = true ∧ ({ dev {} with cur := 14 } : State).may .core = false ∧
    (dev (thr [])).may .supervisor = false ∧ (dev (thr [])).may .supervisorUserContext = false ∧ (dev (thr [])).may .transform = false ∧
    (dev (thr [])).may .tsc = false ∧ ({ dev {} with cur := 14 } : State).may .any = false ∧ (dev (thr [])).me.pfx = false := by decide +kernel

theorem witness_TranslationResult :
    let c := tscThread 0
    let e : Tlb := ⟨2 ^ 45, 0xF00000001⟩
    let st := fun (k : Cluster) => ({ dev {} with cur := c, threads := [(c, thr [(3, 2 ^ 45), (4, 0xF00000001), (5, 2 ^ 33)])], clusters := [(0, k)] } : State)
    let user := fun (k : Cluster) (r : RunState) => ({ dev { thr [] with run := r } with clusters := [(0, k)] } : State)
    let tsc := fun (k : Cluster) (r : RunState) => ({ threads := [(c, { thr [] with run := r })], clusters := [(0, k)] } : State)
    let m : TscMsg := (dev (thr [])).missMsg 0 0x100 .read 0
    let m4 : TscMsg := { m with w0 := 0x4000000000000000 }
    let f : Fetch := ⟨0, 0x2000, [0], false, 0, 1⟩
    ((st {}).enterInstr .tsc .plain = .ok {} ∧ isTsc (st {}).cur = true ∧ (⟨(st {}).x 3, (st {}).x 4⟩ : Tlb).legal = true ∧
      spilledOf (st {}).me (rrOps true true 4 3) = none ∧ (⟨(st {}).x 5, (st {}).x 4⟩ : Tlb).legal = false) ∧
    ((0x01F#12).getLsbD 5 = false ∧ (0x01F#12).getLsbD 4 = true ∧ (0x000#12).getLsbD 4 = false ∧ ((st {}).cluster 0).ctc = [] ∧
      (0xBE0#12).getLsbD 5 = true ∧ (0xBE0#12).toNat / 64 ≤ 47) ∧
    (let s := st { tlbi := some ⟨[(.thread 0, spm 0)]⟩ }
     (s.cluster 0).tlbi = some ⟨[(.thread 0, spm 0)]⟩ ∧ s.cur = tscThread 0 ∧ s.me.releasing = [] ∧ s.fifo = [] ∧ (s.thread 0).rsb = []) ∧
    (let s := user { writebacks := [(0, e)] } (.waiting (.tlb 0 0x100 0))
     clusterOf 0 = 0 ∧ (s.cluster 0).writebacks = [(0, e)] ∧ sameEntry (s.core 0).tlb e = none ∧
       (s.thread 0).run = .waiting (.tlb 0 0x100 0) ∧ e.covers 0 ((0x100#64).toNat / 2 ^ 19) = true ∧ (s.thread 0).releasing = []) ∧
    ((tsc { mesh := [m] } .ready).cluster 0).mesh = [m] ∧ tlbLookup ((tsc { mesh := [m] } .ready).cluster 0).ctc m.asid m.page = none ∧
    (((tsc { mesh := [m] } .ready).cluster 0).inbox.length < 64 ∧ m.kind ≠ 4 ∧ m4.kind = 4) ∧
    (let s := tsc { inbox := [m] } (.waiting .inbox)
     (s.cluster 0).inbox = [m] ∧ (s.thread (tscThread 0)).run = .waiting .inbox ∧ (s.thread (tscThread 0)).releasing = []) ∧
    (let s := user { fetches := [f], ctc := [(0, e)] } (.waiting (.fetch 0 0x2000))
     (s.cluster 0).fetches = [f] ∧ f.asid = 0 ∧ f.va = 0x2000 ∧ f.waiters = [0] ∧ (s.thread 0).releasing = [] ∧
       tlbLookup (s.cluster 0).ctc 0 (0x2000 / 2 ^ 19) = some e ∧ e.fails 0x2000 (s.thread 0).sv .exec = none) ∧
    (let s := user { fetches := [f] } (.waiting (.fetch 0 0x2000))
     (s.cluster 0).fetches = [f] ∧ f.waiters ≠ [] ∧ f.asked = false ∧ tlbLookup (s.cluster 0).ctc 0 (0x2000 / 2 ^ 19) = none) := by
  refine ⟨⟨okIs_eq (by decide +kernel), by decide +kernel⟩, by decide +kernel⟩

theorem witness_FaultResult :
    let m : TscMsg := (dev (thr [])).missMsg 0 0x100 .read 0
    let m2 : TscMsg := { m with w0 := m.w0 + 0x1000000000000000 }
    let st := fun (k : Cluster) (x : Thread) => ({ dev x with clusters := [(0, k)] } : State)
    let stuck : Thread := { thr [] with run := .waiting (.tlb m.asid m.w1 m.acc) }
    let f : FaultRec := { seq := 9, asid := 0, w0 := 0, va := 0x100, w2 := 0, w3 := 0, pin := false, waiters := [.thread 0 0x100], posted := 0 }
    let parked : State := { st { faults := [f] } { thr [] with run := .parked .fault } with cycle := 4096 * 4096 }
    (((st {} (thr [])).cluster 0).inbox = [] ∧ field 0x600000000 35 32 ∈ [1, 2, 3, 4, 5, 6]) ∧
    (let s := st { inbox := [m] } stuck
     (s.cluster 0).inbox = [m] ∧ (s.cluster 0).faults = [] ∧ m.kind = 1 ∧ m.pin = false ∧ m.thread = 0 ∧ m.core = coreOf 0 ∧
       (s.thread 0).pin = false ∧ (s.thread 0).run = .waiting (.tlb m.asid m.w1 m.acc) ∧
       (∀ w, coreOf w = coreOf 0 → w ≠ 0 → ∀ a x y, (s.thread w).run ≠ .waiting (.tlb a x y)) ∧ (s.thread 0).children = [] ∧ (s.thread 0).tcons = []) ∧
    ((parked.cluster 0).faults = [f] ∧ (parked.cluster 0).deferred = [] ∧ f.waiters = [.thread 0 f.va] ∧ (parked.thread 0).releasing = [] ∧
      (parked.thread 0).tvec ≠ 0 ∧ f.late = false ∧ f.posted + (parked.cp (parked.server f.fn)).ans * 4096 ≤ parked.cycle ∧
      (0, 8) ≠ (f.asid, f.seq)) ∧
    (let s := st { inbox := [m2], faults := [f] } (thr [])
     (s.cluster 0).inbox = [m2] ∧ f.seq = (9#64).toNat % 2 ^ 16 ∧ f.pin = false ∧ m2.pin = false ∧ m2.kind = 2 ∧ f.asid = m2.asid ∧
       f.va.toNat / 2 ^ 19 = m2.page ∧ field f.w0 37 36 = m2.acc ∧ ((s.cluster 0).msgFetch m2).isNone = true) := by
  refine ⟨by decide +kernel, ⟨by decide +kernel, by decide +kernel, by decide +kernel, by decide +kernel, by decide +kernel, by decide +kernel,
    by decide +kernel, by decide +kernel, ?_, by decide +kernel⟩, by decide +kernel, by decide +kernel⟩
  intro w _ h0 a x y
  simp [State.thread, dev, NMap.get, Ne.symm h0]

theorem witness_ResidencyResult :
    let core := fun (c : Core) => ({ dev (thr []) with cores := [(0, c)] } : State)
    let cl := fun (k : Cluster) => ({ dev (thr []) with clusters := [(0, k)] } : State)
    let r : Req := { src := .thread 0, place := spm 0x3FFF8, kind := .load 8 }
    (let s : State := { core {} with cycle := 1024 }
     31 < 32 ∧ (s.core 0).spIdle ≠ 0 ∧ (s.core 0).spAwake.getLsbD 31 = true ∧
       max (NMap.get 0 (s.core 0).touched 31) s.dieReset + (s.core 0).spIdle.toNat * 64 ≤ s.cycle) ∧
    (let s : State := { core { spAwake := 0 } with fifo := [r] }
     r ∈ s.fifo ∧ r.place.home = .core 0 ∧ bankOf 0 r.place.loc = some 31 ∧ (s.core 0).gated = false) ∧
    ((∀ t ∈ coreThreads 1, ((core {}).thread t).run = .free) ∧ isTscCore 1 = false) ∧
    (let s : State := { core { gated := true } with fifo := [r] }
     (s.core 0).gated = true ∧ ∃ q ∈ s.fifo, q.place.home = .core 0) ∧
    (cl { expander := [{ blk := 3, state := .expanding }] }).expState 0 3 = some .expanding ∧ (cl { expander := [{ blk := 3, state := .compressing }] }).expState 0 3 = some .compressing ∧
    (let s := cl { drain := true }
     (s.cluster 0).drain = true ∧ s.leavingLines 0 = []) ∧
    (let s : State := { cl { drain := true } with slices := [(0, some ⟨2, false, 0, none, true⟩)] }
     s.leavingLines 0 = [(2, Config.sliceSet 0 % 8192, 0)]) ∧
    (let s := cl { busy := true, spw := 1, oldSpw := 2 }
     (s.cluster 0).busy = true ∧ (s.cluster 0).drain = false ∧ s.oldAccess 0 = false) := by
  refine ⟨by decide +kernel, by decide +kernel, by decide +kernel, by decide +kernel, by decide +kernel, by decide +kernel, by decide +kernel, rfl,
    by decide +kernel⟩

theorem witness_BudgetAndPower :
    let st := fun (x : Service) => ({ dev { thr [] with ebBudget := 0 } with service := x, cycle := 2 ^ 20 } : State)
    (st {}).coreCycle % 4096 = 0 ∧ isTsc 0 = false ∧ ((st {}).service.alarm = false ∧ (st {}).service.state ≠ 0) ∧
    (st { state := 0 }).service.state = 0 ∧ (st { alarm := true }).service.alarm = true ∧
    ((st { fell := some 0 }).service.fell = some 0 ∧ 0 + 2 ^ 20 ≤ (st {}).cycle) := by decide +kernel

theorem witness_QueueResult :
    let s := fun (w : Word) => queued (entryOf w) {} []
    queueExists 0 0 = true ∧ queueExists 64 15 = true ∧ ((s 0).queue 0 0).en = true ∧ (State.reset.queue 64 15).en = false ∧
    State.reset.funcs = [] ∧
    ((s 0).nextEntry 0 0 = some (entryOf 0) ∧ Entry.op (entryOf 0) = 0) ∧
    ((s 0x6000000000000000).nextEntry 0 0 = some (entryOf 0x6000000000000000) ∧ 6 ≤ Entry.op (entryOf 0x6000000000000000)) ∧
    ((s 0x1000000000000000).nextEntry 0 0 = some (entryOf 0x1000000000000000) ∧ Entry.op (entryOf 0x1000000000000000) = 1 ∧
      (s 0x1000000000000000).cancelledInRing 0 0 = false ∧
      (s 0x1000000000000000).launchReason 0 (entryOf 0x1000000000000000) false = some 2) ∧
    ((s 0x101C000000000000).nextEntry 0 0 = some (entryOf 0x101C000000000000) ∧
      (s 0x101C000000000000).launchReason 0 (entryOf 0x101C000000000000) false = none) := by decide +kernel

theorem witness_GraphResult :
    let graph := fun (s : State) (h : Word) (node : List Word) => (s.writeWords 0x80000 (h :: List.replicate 7 0)).writeWords 0x80040 node
    let g := fun (w : Word) (x : Slot16) => queued (entryOf w) { slots := [(0, x)] } []
    let rep : Replay := { regs := [], count := 1 }
    let run : Word := 0x2000000000000000
    let patch := fun (i c : Nat) => BitVec.ofNat 64 (3 * 2 ^ 60 + i * 2 ^ 42 + c * 2 ^ 39)
    let node : List Word := entryOf 0x101C000000000000
    ((g run {}).nextEntry 0 0 = some (entryOf run) ∧ Entry.op (entryOf run) = 2 ∧ (g run {}).cancelledInRing 0 0 = false ∧
      (g run {}).freeing 0 0 = false) ∧
    (run.toNat / 2 ^ 52 % 128 = 0 ∧ run.toNat % 2 ^ 39 = 0 ∧ (run + 1).toNat % 2 ^ 39 ≠ 0 ∧ Entry.op (entryOf (run + 1)) = 2) ∧
    ((g run { bound := some 64 }).gslot 0 0).bound = some 64 ∧
    (let s := graph (g run {}) 1 node
     (s.gslot 0 0).bound = none ∧ s.graphHeader 0 0 = some (false, 1) ∧ (s.gslot 0 0).run0 = none ∧ (s.gslot 0 0).run1 = none) ∧
    (graph (g run { run1 := some rep }) 0x8000000000000001 node).graphHeader 0 0 = some (true, 1) ∧
    (let s := graph (g run { bound := some 0, run0 := some rep }) 1 node
     s.nextEntry 0 0 = some (entryOf run) ∧ (s.gslot 0 0).bound = some 0 ∧ s.graphHeader 0 0 = some (false, 1) ∧ (s.gslot 0 0).run0 = some rep) ∧
    ((g (patch 58 6) {}).nextEntry 0 0 = some (entryOf (patch 58 6)) ∧ Entry.op (entryOf (patch 58 6)) = 3 ∧ 58 + 6 ≤ 64 ∧
      (patch 58 6).toNat / 2 ^ 42 % 64 = 58 ∧ (patch 58 6).toNat / 2 ^ 39 % 8 = 6 ∧ 64 < 63 + (patch 63 2).toNat / 2 ^ 39 % 8) ∧
    (let s := g 0x5000000000000000 {}
     s.nextEntry 0 0 = some (entryOf 0x5000000000000000) ∧ Entry.op (entryOf 0x5000000000000000) = 5 ∧
       (∀ j ∈ [1, 2, 3, 4, 5, 7, 8, 9, 10, 11, 12, 13, 15], (entryOf 0x5000000000000000).getD j 0 = 0) ∧
       (s.gslot 0 0).run0 = none ∧ (s.gslot 0 0).run1 = none ∧ ((g 0x5000000000000000 { run0 := some rep }).gslot 0 0).run0 ≠ none) ∧
    (let s := graph (g run { bound := some 0, run0 := some rep }) 1 node
     (s.gslot 0 0).bank 0 = some rep ∧ rep.cancelled = false ∧ rep.node < rep.count ∧ s.served 0 = true ∧
       s.cpRead 0 (0 + 64 + 128 * 0) 128 = some (0x101C000000000000) ∧ natToWords 16 0x101C000000000000 = node ∧
       Entry.op node = 1 ∧ (node.getD 0 0).getLsbD 59 = false ∧ s.launchReason 0 (substNode rep.regs node) true = none) := by decide +kernel

theorem witness_LaunchResult :
    let cancel := entryOf 0x4000000000000000
    let s := queued cancel {} []
    let a : Accepted := { seqno := 0, op := 1, tag := 0, cpl := 0, asid := 0 }
    let live := queued cancel { queues := [(0, { open_ := [a] })] } [launch1]
    let l : Launch := { launch1 with cancelled := true }
    let gone := fun (x : Thread) => ({ dev x with launches := [l] } : State)
    let acc : Launch := { launch1 with phase := .accepted, entry := entryOf 0x101C000000000000 }
    let ask := fun (k : NMap Core) => ({ launches := [acc], cores := k, cycle := 64 } : State)
    let put : Launch := { acc with phase := .placed }
    let ready : State := { launches := [put], cycle := 4096 }
    let image : Launch := { put with entry := [0x101C000000000000, 0, 0, 0, 0, 0x40, 0, 0, 0, 0, 0, 0, 0, 0, 0, 0] }
    (s.nextEntry 0 0 = some cancel ∧ Entry.op cancel = 4 ∧ (cancel.getD 0 0).toNat % 2 ^ 59 = 0 ∧
      (∀ j ∈ [1, 2, 3, 4, 5, 7, 9, 10, 11, 12, 13, 15], cancel.getD j 0 = 0) ∧ (s.func 0).queues = [(0, s.queue 0 0)] ∧
      (s.queue 0 0).open_ = [] ∧ (s.queue 0 0).tail = (s.queue 0 0).head + 1) ∧
    (live.nextEntry 0 0 = some cancel ∧ a ∈ (live.queue 0 0).open_ ∧ a.op = 1 ∧ a.tag = cancel.getD 8 0 ∧ live.launchOf 0 0 a.seqno = some 1 ∧
      live.launch 1 = some launch1 ∧ launch1.phase = .live) ∧
    (gone (thr [])).tieTaken (.tasks 0) = false ∧ ((gone (thr [])).launch 1 = some l ∧ l.phase = .live ∧ l.rect.has 0 = true ∧ l.reached = [] ∧
      ∀ u ∈ coreThreads 0, ((gone (thr [])).thread u).launch = 1 → ((gone (thr [])).thread u).run ≠ .free →
        ((gone (thr [])).thread u).endsAtOnce = false) ∧
    (let s := gone { thr [] with run := .parked (.waitw 3) }
     s.launch 1 = some l ∧ 0 ∈ coreThreads 0 ∧ (s.thread 0).launch = 1 ∧ (s.thread 0).run = .parked (.waitw 3) ∧
       ∀ j ∈ coreThreads 0, j ≠ 0 → (s.thread j).run = .free) ∧
    ((ask []).cycle % 64 = 0 ∧ (ask []).launches.filter (fun m => decide (m.phase = .accepted)) = [acc] ∧ (ask []).launch 1 = some acc ∧
      ((ask []).fits acc).isSome = true ∧ (ask [(0, { owner := some 7 })]).fits acc = none) ∧
    (ready.cycle % 4096 = 0 ∧ ready.launch 1 = some put ∧ put.phase = .placed ∧ (∀ k ∈ put.rect.cores, (ready.core k).gated = false) ∧
      (put.dw 0).getLsbD 58 = false ∧ put.loading = none ∧ put.dw 5 = 0 ∧ 0 ∈ put.rect.cores ∧ 13 < put.nthr) ∧
    (let s : State := { launches := [image] }
     s.launch 1 = some image ∧ image.dw 5 ≠ 0 ∧ (s.loadImage image (image.dw 5).toNat 64).isNone = true) := by decide +kernel

theorem witness_PreemptionResult :
    let all := fun (k : Nat) => [(16 * k + 3, ({ thr [] with run := .waiting .reply } : Thread))]
    let two : Launch := { launch1 with rect := { w := 2, h := 1, nthr := 14 } }
    let kp := fun (w : Word) => ({ threads := all 0 ++ all 1, cores := [(0, { owner := some 1 }), (1, { owner := some 1 })], launches := [two],
                                   cps := [(0, { cwsel := w })] } : State)
    let p : Preempt := ⟨0, 1, 0, 0, 0, false, false, false, false⟩
    let asked := fun (x : Thread) (n : Nat) => ({ dev x with preempts := [p], cycle := n } : State)
    let img := fun (c : Nat) => ({ (State.writeWords { launches := [launch1], cores := [(0, { owner := some 1 })] } 0 [BitVec.ofNat 64
      (2 ^ 48 + 2 ^ (16 + c)), 0]) with threads := [] } : State)
    (let s := kp 0
     ofCoreField ((0#64).toNat % 2 ^ 12) = some 0 ∧ (s.core 0).owner = some two.num ∧ s.launch two.num = some two ∧ s.preempts = [] ∧
       (∃ c ∈ savable, (s.thread (16 * 0 + c)).run ≠ .free) ∧ (s.cp 0).smode = false ∧ (s.cp 0).cwsel.toNat / 2 ^ 62 = 0 ∧ (s.cp 0).cwsel.toNat / 2 ^ 56 % 16 = 0 ∧ 0 ≠ 14 ∧
       0 / 2 ^ 12 * 2 ^ 12 + 0x12B000 ≤ 0x00C000000000) ∧
    ((kp 0x4000000000000000).cp 0).cwsel.toNat / 2 ^ 62 = 1 ∧ ((kp 0x8000000000000000).cp 0).cwsel.toNat / 2 ^ 62 = 2 ∧
    (two.rect.cores = [0, 1] ∧ 0 + two.rect.w * two.rect.h * 0x12B000 ≤ 0x00C000000000 ∧ ((kp 0).thread (16 * 0 + 5)).run = .free ∧
      (kp 0).threadsOf two.num ≠ [] ∧ (kp 0).later = [] ∧ (kp 0).regionFlipping 0x1000 0x12B000 = false) ∧
    (let s := asked { thr [] with boundary := true } 0
     s.preempts = [p] ∧ p.t = 16 * 0 + 0 ∧ p.gone = false ∧ p.launch = (s.thread 0).launch ∧ (s.thread 0).stage = none ∧
       (s.thread 0).releasing = [] ∧ (s.thread 0).run = .ready ∧ (s.thread 0).boundary = true ∧ s.cycle < p.since + (s.cp p.cp).prelim) ∧
    (let s := asked { thr [] with run := .waiting .align } 0
     (s.thread 0).run = .waiting .align ∧ (s.thread 0).children = [] ∧ (s.thread 0).tcons = []) ∧
    (let s := asked { thr [] with run := .waiting .preempt } 0
     s.regionFlipping p.block 0x12B000 = false ∧ (s.thread 0).run = .waiting .preempt ∧ (s.thread 0).drained = true ∧ s.tilesQuiet 0 = true ∧ isTsc 0 = false) ∧
    (let s := asked (thr []) (2 ^ 16)
     p.since + (s.cp p.cp).prelim ≤ s.cycle ∧ p.quench = false ∧ (s.thread 0).run = .ready ∧ (s.thread 0).boundary = false ∧
       (s.core 0).jobs = [] ∧ (s.thread 0).pin = false ∧ p.noticed = false) ∧
    ((asked { thr [] with pin := true } (2 ^ 16)).thread 0).pin = true ∧ ((asked { thr [] with run := .halted } 0).thread 0).run = .halted ∧
    (let s := img 15
     15 ≠ 14 ∧ (s.readWord 0).getLsbD (16 + 15) = true ∧ (s.readWord (0 + 8)).toNat % 2 ^ 12 = 64 * coreY 0 + coreX 0 ∧
       (s.thread (16 * 0 + 15)).run = .free ∧ s.launch ((s.readWord 0).toNat / 2 ^ 48) = some launch1 ∧ launch1.phase = .live ∧
       (s.core 0).owner = some launch1.num ∧ (∀ j, j < 16 → s.readWord (0 + 0x1000 + 15 * 0x11800 + (0xA08 + 16 * j)) = 0) ∧
       s.readWord (0 + 0x1000 + 15 * 0x11800 + 0xB00) = 0 ∧ s.recordRoom 0 ((s.readWord 0).toNat % 2 ^ 16) = true) := by decide +kernel

theorem witness_HostAccessResult :
    let s := dev (thr [])
    let h : State := { s with hostBias := [1], hostWrites := [(0x80038, 8, 5)] }
    let f : State := { s with flips := [⟨1, true, []⟩] }
    (s.flips.any (fun f => decide (f.page = 1)) = false ∧ 1 * 2 ^ 19 < 0x00C000000000 ∧ 1 ∉ s.hostBias ∧ 1 ∈ h.hostBias) ∧
    (f.flips.any (fun f => decide (f.page = 1)) = true ∧ f.flips = [⟨1, true, []⟩] ∧ f.dirs = [] ∧ f.slices = []) ∧
    (h.homeOfPa (128 * (0x80000 / 128)) = .io ∧ 0 < 8 ∧ 0x80038 % 64 + 8 ≤ 64 ∧ 0x80038 < 0x00C000000000 ∧ 0x80038 / 2 ^ 19 ∈ h.hostBias ∧
      (0x80038, 8, (5#512).toNat) ∈ h.hostWrites ∧ (0x80038, 8, (6#512).toNat) ∉ h.hostWrites ∧ (h.dir (0x80038 / 128)).sharers = [] ∧
      (h.dir (0x80038 / 128)).invs = []) ∧
    (s.ioPlace (.core 2687) 0x3FFF8 = some { loc := locSpm 2687 0x3FFF8, home := .core 2687 } ∧ (locSpm 2687 0x3FFF8) % 64 + 8 ≤ 64 ∧
      s.waitsForWay { loc := locSpm 2687 0x3FFF8, home := .core 2687 } = false ∧
      s.homeReady { loc := locSpm 2687 0x3FFF8, home := .core 2687 } = true ∧ s.ioFree (quadrant (.core 2687)) = true ∧ NMap.get [] s.ioq (quadrant (.core 2687)) = []) := by decide +kernel

theorem witness_PortResult :
    let s := dev (thr [(31, 5)])
    let v : State := { dev { thr [] with v := [(31, { map := .physical })] } with cores := [(0, { acc0 := { owner := some 0 } })] }
    167 < 168 ∧ (s.cluster 167).istore = false ∧ ([1, 2] : List Byte).length ≤ 2 ^ 17 ∧ isTsc 0 = false ∧ 3 < 4 ∧ 64 ≤ 64 ∧ 15 < 16 ∧
    (s.queue 64 15).en = false ∧ (NMap.get {} (s.thread 0).s 31).map ≠ .unmapped ∧ (NMap.get {} (v.thread 0).v 31).map ≠ .unmapped ∧
    63 < 64 ∧ 127 < 128 ∧ ((v.core 0).acc false).owner ≠ none ∧ ((v.core 0).acc true).owner = none := by decide +kernel

theorem witness_WatchdogResult :
    let s := fun (x : Service) (c : Cp) (l : Launch) =>
      ({ dev (thr []) with service := x, cps := [(0, c), (3, c)], launches := [l], cycle := 2 ^ 40 } : State)
    let box := fun (cmd arg0 arg1 : Word) => ({ mbBusy := true, mbNow := cmd.toNat % 256, mbCmd := cmd, mbArg0 := arg0, mbArg1 := arg1 } : Service)
    (3 < 4 ∧ ((s {} {} launch1).cp 3).running = true ∧ ((s {} {} launch1).cp 3).beat + 2 ^ 24 ≤ (s {} {} launch1).cycle ∧
      (s {} {} launch1).clusters = []) ∧
    (((s {} { restart := true } launch1).cp 3).restart = true) ∧
    (((s { update := some 0 } {} launch1).cp 3).restart = false ∧ (s { update := some 0 } {} launch1).service.update = some (3 - 3) ∧
      ((s { update := some 0 } {} launch1).cp 3).running = true ∧ ((s { update := some 0 } { running := false } launch1).cp 3).running = false ∧
      (s { update := some 3 } { running := false } launch1).service.update = some (3 - 0) ∧
      ((s { update := some 3 } { running := false } launch1).cp 0).running = false) ∧
    ((s {} {} launch1).launch 1 = some launch1 ∧ launch1.phase = .live ∧ launch1.level = 0 ∧
      launch1.progress + ((s {} {} launch1).cp launch1.cp).prog * 4096 ≤ (s {} {} launch1).cycle ∧
      ((s {} {} launch1).cp 0).maxLvl = 4 ∧ launch1.progress + 2 ^ 12 * 4096 + 3 * ((s {} {} launch1).cp 0).esc * 4096 ≤ (s {} {} launch1).cycle ∧
      ({ launch1 with level := 3 } : Launch).level = 3) ∧
    ((box 1 0 4096).mbBusy = true ∧ (box 1 0 4096).mbNow = 1 ∧ (box 1 0 4096).update = none ∧
      ((s (box 1 0 4096) {} launch1).fetchImage).isSome = true ∧ ((s { box 3 0 4096 with state := 3 } {} launch1).fetchImage).isSome = true ∧
      (box 3 0 4096).state ≠ 3) ∧
    ((box 2 5 0).mbNow = 2 ∧ (box 2 5 0).mbArg0.toNat < 64 ∧ (box 2 5 0).mbArg0.getLsbD 3 = false ∧ 4 < (box 2 5 0).mbArg0.toNat % 8 ∧
      (box 2 1 1).mbArg0.toNat % 8 = 1 ∧ (box 2 1 1).mbArg0.toNat / 16 = 0 ∧ (s {} {} launch1).launch (box 2 1 1).mbArg1.toNat = some launch1 ∧
      (box 2 0x24 0).mbArg0.toNat % 8 = 4 ∧ (box 2 0x24 0).mbArg0.toNat / 16 = 2 ∧ (box 2 0x24 0).mbArg0.getLsbD 3 = false) ∧
    (box 0x100 0 0).mbNow = 0 ∧ 3 < (box 4 0 0).mbNow ∧
    ((s {} {} launch1).slices = [] ∧ ({} : State).launches = []) := by decide +kernel

theorem witness_BootResult :
    ({ service := { down := true } } : State).service.down = true ∧ 3 < 4 ∧ (State.reset.cp 3).running = true ∧ State.reset.service.update = none ∧
    ({ service := { update := some 0 } } : State).service.update ≠ none := by decide +kernel

theorem witness_MemoryStaysCanonical : State.reset.memOk = true ∧ ∃ t, step State.reset = .next t := ⟨rfl, _, rfl⟩

theorem witness_OnlyLostPowerStops :
    let s : State := { service := { down := true } }
    State.reset.service.down = false ∧ s.service.down = true ∧ s.tick.agenda.head? = none ∧
    ({ s with agenda := [.event .coldBoot] } : State).tick.agenda.head? = some (.event .coldBoot) := ⟨rfl, rfl, rfl, rfl⟩

/-- Thread 0 at 0x2000 in the slot of the next cycle, its block held. -/
def fetching (b : Nat) : State :=
  { dev (thr []) with
    cores := [(0, { owner := some 1, barrel := [(1, some ⟨0, 0⟩)], blocks := [⟨0, 0x2000, BitVec.ofNat 512 b⟩] })] }

theorem witness_StepRunsDecoded :
    let s := fetching 0x00140085
    let u := s.tick
    (s.service.down = false ∧ u.agenda = [] ∧ u.me.run = .ready ∧ u.me.stage = none ∧
      (u.core (coreOf u.cur)).slotOf u.cur = some (u.cycle % 8) ∧ u.savePending u.cur = false ∧ u.me.pc ∉ u.breakpoints ∧
      codeAddress u.cur u.me.pc = true ∧ (u.fetch u.cur).isSome = true) ∧
    decodesTo ((((u.fetch u.cur).getD []).take 4)) (.addi 5 false 0 1) = true ∧
    (({ fetching 0x7F with agenda := [.turn 0] } : State).tick.agenda = [.turn 0] ∧
      (match decode ((((fetching 0x7F).tick.fetch 0).getD [])) with | .ok _ => false | .error _ => true) = true) ∧
    (Instr.encoded (.hearthUpdate 0) = false ∧ ({ s with agenda := [.event (.hearthUpdate 0)] } : State).tick.agenda = [.event (.hearthUpdate 0)]) := by
  decide +kernel

theorem witness_DecodeOfEncode :
    (∀ i ∈ [Instr.nop, .ldm 0x3FF 7 true 31 24, .bfxu 63 0 true 31 31, .slli false 31 true 31 31, .fmt true 4 31 31 31, .vmov16 false 1 0], i.wf = true ∧
      i.encoded = true) := by decide +kernel

theorem witness_EncodeOfDecode : (match decode [0x9D, 0x2F, 0x00, 0x00, 0x11] with
    | .ok (i, rest) => decide (i = .call 2 31) && decide (rest = [0x11])
    | .error _ => false) = true := by decide +kernel

theorem witness_HalfwordSpace : (∀ os, (dev (thr [])).canIssue .any .plain {} os) ∧ (0xFFFE#16).getLsbD 0 = false :=
  ⟨mayIssue _ rfl rfl _ _ _ rfl, by decide⟩
theorem witness_AssemblerValues :
    (-(2 ^ 33) ≤ (0x123456789#64).toInt ∧ (0x123456789#64).toInt < 2 ^ 33 - 2 ^ 13) ∧
    (2 ^ 33 - 2 ^ 13 ≤ (0x1FFFFE000#64).toInt ∧ (0x1FFFFE000#64).toInt < 2 ^ 33) ∧
    okIs (({ look := fun _ => .ok 0, here := 0x100000004 } : Hxas.Ctx).disp (.num 0x100000080) 20) 2 = true ∧
    (0x100000020#64).toNat % 64 ≠ 0 := by decide +kernel

/-- The bytes an assembly of one file emits, in the order of its runs, and its diagnostics. -/
noncomputable def assembled (src : List String) : List (Hxas.Code × Nat) × List Nat :=
  let r := Hxas.assemble [] [] ("m".toList, src.flatMap (fun l => l.toList ++ ['\n']))
  (r.1.map (fun d => (d.code, d.line)), ((r.2.map (·.segments)).getD []).flatMap (·.bytes))

/-- 08, "A listing". -/
theorem test_asm_listing :
    assembled ["        .text", "start:: addi  s1, s0, 5", "        call  incr", "        addi  s2, s1, 1", "incr::  addi  s1, s1, 2"] =
    ([], [0x85, 0x00, 0x14, 0x00, 0x9D, 0x2F, 0x00, 0x00] ++ List.replicate 56 0 ++ [0x05, 0x11, 0x04, 0x00] ++ List.replicate 60 0 ++
      [0x85, 0x10, 0x08, 0x00]) := by decide +kernel

/-- 10, "Encodings worked": the words, and a `!` where the bit is. -/
theorem test_asm_words :
    assembled ["add.d s5, s6, s7", "sub.w s1, s2, s3!", "lui s6, hi(0x1_2345_6789)", "bfx s2, s7, 8, 12", "ret"] =
    ([], [0x83, 0x62, 0x0E, 0x60, 0x83, 0x20, 0x86, 0x41, 0x11, 0x63, 0xD1, 0x48, 0x15, 0x71, 0x40, 0x96, 0x1F, 0xF0, 0x01, 0x00]) := by
  decide +kernel

/-- 08 R229: reals take their exact value and are converted once; an integer literal is its numeric value. -/
theorem test_asm_reals :
    assembled [".data", ".byte.e4m3 500.0, 0x1", ".half.bf16 1.003_906_25, nan, -inf", ".half 0x3F81"] =
    ([], [0x7F, 0x38, 0x80, 0x3F, 0xC0, 0x7F, 0x80, 0xFF, 0x81, 0x3F]) := by decide +kernel

/-- 08 R241: every diagnostic is reported, and no image written. -/
theorem test_asm_diagnostics :
    assembled ["addi s1, s0, 8192", "x: beq s1, s2, x + 4", ".byte 1", "vadd.b v1, v2, v3", "foo s1"] =
    ([(.e11, 3), (.e16, 4), (.e2, 5), (.e4, 1), (.e7, 2)], []) := by decide +kernel


/-- 08 R216: an explicit k0 does not keep a vector instruction from its 16-bit form. 08 R226: `.stack` may use a later symbol. -/
theorem test_asm_short_form : assembled ["vadd v3, v3, v7, k0", ".stack n", ".byte 1", ".equ n, 3"] = ([], [0x62, 0x1C, 1]) := by decide +kernel

/-- 08 R213: a suffix that a mnemonic does not take is E16; R211: a label may not be a mnemonic. -/
theorem test_asm_suffix : (assembled ["nop.w", "li.d s1, 3", "add.w.d s1, s1, s1", "amop: nop", "nop.q"]).1 =
    [(.e16, 1), (.e16, 2), (.e16, 3), (.e6, 4), (.e2, 5)] := by decide +kernel

/-! ## Ill-formed terms are refused: one for each check, and their encodings -/

/-- A tile handle above 15 (09 R246). -/
theorem test_illformed_handle : [Instr.tdef 3 3 16, .trel 16, .tstat 16 3, .twaitr 31, .tfill 3 16, .tcons 16, .mma false false 0 16 3,
    .mma false false 0 3 16, .mmac false false 0 16 3 3, .mstore false 0 16, .mmask false 0 16].all (fun i => !i.wf) = true := by decide +kernel
/-- A `.w` shift count above 31 (09 R249). -/
theorem test_illformed_shift : [Instr.slli false 32 false 3 3, .srli false 63 false 3 3, .srai false 32 false 3 3,
    .rori false 32 false 3 3].all (fun i => !i.wf) = true := by decide +kernel
/-- A bit field that passes bit 63 (09 R249). -/
theorem test_illformed_field : [Instr.bfxu 63 1 false 3 3, .bfx 1 63 false 3 3, .bfi 32 32 false 3 3].all (fun i => !i.wf) = true := by decide +kernel
/-- A run of registers past s31; HRQ's from s0 or past s31 (09 R252, R256). -/
theorem test_illformed_run : [Instr.ldm 0 1 false 3 31, .stm 0 7 false 3 25, .hrq 3 0, .hrq 3 29, .hrqSw 3 0].all (fun i => !i.wf) = true := by
  decide +kernel
/-- Bit-stream counts (09 R260). -/
theorem test_illformed_count : [Instr.bstake 0 3, .bspeek 65 3, .bsemit 0 false 3, .bsskip 127, .bsalign 1, .bsalign 24].all (fun i => !i.wf) = true := by
  decide +kernel
/-- CSR numbers that 14 R380 does not list. -/
theorem test_illformed_csr : [Instr.csrr 0x013 3, .csrw 0x025 false 3 3, .csrs 0x106 false 3 3, .csrc 0xFFF false 3 3].all (fun i => !i.wf) = true := by
  decide +kernel
/-- TLBI's scope and target (09 R262). -/
theorem test_illformed_tlbi : [Instr.tlbi false 3 false 3 0, .tlbi false 0 false 3 1, .tlbi true 0 false 3 16].all (fun i => !i.wf) = true := by
  decide +kernel
/-- A link register s0; a mask destination k0; a width code 3; the load code 7 (09 R246). -/
theorem test_illformed_reserved : [Instr.call 2 0, .callr 0 false 3 0, .vceq false false 0 1 2 0, .kand 0 1 2 0, .knot 0 1 0, .kmov 0 3 0,
    .vld 3 0 1 2, .vst 3 0 1 2, .vgather 3 0 1 2 3, .amld 7 false 1 2, .vmov16 false 0 0].all (fun i => !i.wf) = true := by decide +kernel

/-- Reserved majors, a reserved function, an unused field that is not 0, a cut-off word: no instruction (09 R242, R246). -/
theorem test_decode_reserved :
    [[0x01, 0x00, 0x00, 0x00], [0x83, 0x66, 0x96, 0x77], [0x83, 0x66, 0x02, 0x74], [0x83, 0x66, 0x96, 0x00], [0x85, 0x00, 0x14], [0x01], []].all (fun bs =>
      match decode bs with
      | .ok _ => false
      | .error _ => true) = true := by decide +kernel

/-! ## A few steps, each with the result its rule gives -/

def after (i : Instr) (s : State) (P : State → Bool) : Bool :=
  match exec i s with
  | .next t => P t
  | _ => false

/-- 10 R273: `.w` results are sign-extended. -/
theorem test_add_w : after (.add false false false 2 1 3) (dev (thr [(1, 0x7FFFFFFF), (2, 1)])) (fun t =>
    t.me.sval 3 = 0xFFFFFFFF80000000 && t.me.pc = 0x2004) = true := by decide +kernel
/-- 10 R282: a division by zero gives all ones, the remainder the dividend. -/
theorem test_div_zero : after (.div true false false 2 1 3) (dev (thr [(1, 9)])) (fun t => t.me.sval 3 = -1) = true := by decide +kernel
theorem test_rem_zero : after (.rem true false false 2 1 3) (dev (thr [(1, 9)])) (fun t => t.me.sval 3 = 9) = true := by decide +kernel
/-- 07 R190: a last-use source becomes unmapped and reads 0; 06 R157: s0 discards a write. -/
theorem test_last_use : after (.addi 5 true 1 0) (dev (thr [(1, 9)])) (fun t => t.me.sval 1 = 0 && t.me.sval 0 = 0) = true := by decide +kernel
/-- 10 R289: a call links to the next fetch block. -/
theorem test_call : after (.call 2 31) (dev (thr [])) (fun t => t.me.pc = 0x2080 && t.me.sval 31 = 0x2040) = true := by decide +kernel
/-- 14 R382, 18 R425: TRAP enters the handler with its code, past the instruction. -/
theorem test_trap : after (.trap 7) (dev (thr [])) (fun t =>
    t.me.pc = 0x1000 && t.me.epc = 0x2004 && t.me.ecause = 0x709 && t.me.sv) = true := by decide +kernel
/-- 18 R423: an illegal instruction does not move past it. -/
theorem test_illegal : after .eret (dev (thr [])) (fun t => t.me.pc = 0x1000 && t.me.epc = 0x2000 && t.me.ecause = 1) = true := by decide +kernel
/-- 01 R17: a misaligned load traps with its address. -/
theorem test_misaligned : after (.ld 0 false 1 3) (dev (thr [(1, 0x8000000000000004)])) (fun t =>
    t.me.ecause = 2 && t.me.fadr = 0x8000000000000004) = true := by decide +kernel
/-- 11 R300: an unordered compare is false. -/
theorem test_fceq_nan : after (.vfceq false true 0 1 2 3) (dev (thr [(1, 0x7FC00000)])) (fun t => t.me.kval 3 = 0) = true := by decide +kernel
/-- 12 R321 over 00 R7: an AADD of 5 performs at its home, low byte first. -/
theorem test_perform_aadd :
    after (.performAtomic (.thread 0) (.core 0)) { dev (thr []) with fifo := [⟨.thread 0, spm 0x100, .atomic .aadd false 0x305 0 1, some 0, 0, false, []⟩] }
      (fun t => t.byte (locSpm 0 0x100) = 5 && t.byte (locSpm 0 0x101) = 3 && t.memOk) = true := by decide +kernel
/-- 04 R127, 06 R176: a store while a copy command is in flight is recorded, of an equal value too; with none it is not. -/
theorem test_change_recorded :
    let c : Cmd := { id := 3, desc := [], t := 0, core := 0, cluster := 0, asid := 0, sv := false, launch := 1, srs := 1 }
    let s : State := { engines := [(0, { cmds := [c] })] }
    (s.write 9 2 0x100).changed = [9, 10] ∧ (State.reset.write 9 2 0x100).changed = [] := by decide +kernel

/-! ## Witnesses for further clauses: stores, perform steps, messages, meets, copies, bit streams -/

theorem witness_StoreKeepsMemory :
    let y : Access × Place := ({ index := 0, addr := 0x100, width := 8 }, pageOne 0)
    let z : Access × Place := ({ index := 1, addr := 0x108, width := 8 }, pageOne 8)
    let w : Access × Place := ({ index := 2, addr := 0x8000000000000000, width := 4 }, spm 0)
    let s := mdev { thr addrs with rsb := [slot0] } []
    s.me.rsb.length + [y, z, w].length ≤ 32 ∧ y.1.addr.toNat < 2 ^ 60 ∧ y.2.loc % 128 + y.1.width ≤ 128 ∧
    (∀ q ∈ [z, w], q.1.addr.toNat < 2 ^ 60 → lineOf q.2.loc ≠ lineOf y.2.loc ∨ q.2.loc + q.1.width ≤ y.2.loc ∨ y.2.loc + y.1.width ≤ q.2.loc) ∧
    [y, z, w].filter (fun y => false || decide (2 ^ 60 ≤ y.1.addr.toNat)) = [w] := by decide +kernel

theorem witness_PerformResult_quiet :
    let r : Req := { src := .thread 0, place := pageOne 0, kind := .store 0xFF 0 }
    let s : State := { mdev (thr addrs) [] with
      fifo := [r], slices := [(lineOf 0x80100, some ⟨2, false, 0, none, false⟩)], dirs := [(lineOf 0x80100, { sharers := [0, 5] })] }
    s.headReq r.src r.place.home = some r ∧ s.flipHolds r = false ∧ s.homeReady r.place = true ∧ s.mayAnswer r = true ∧
    s.tscFails r = none ∧ (s.slice (lineOf r.place.loc)) = some ⟨2, false, 0, none, false⟩ ∧
    (s.dir (lineOf r.place.loc)).sharers.filter (fun d => decide (srcCore r.src ≠ some d)) = [5] := by decide +kernel

theorem witness_PerformResult_tsc :
    let r := fun (k : ReqKind) => ({ src := .thread (tscThread 0), place := { loc := locHost 0, home := .io }, kind := k } : Req)
    let st := fun (k : ReqKind) (bad lost : List Nat) => ({ fifo := [r k], badLines := bad, lostLines := lost } : State)
    let line := lineOf (locHost 0)
    isTsc (tscThread 0) = true ∧ (st (.load 8) [line] []).tscFails (r (.load 8)) = some false ∧
    (st (.store 1 0) [] [line]).tscFails (r (.store 1 0)) = some true ∧ (st (.store 1 0) [line] []).tscFails (r (.store 1 0)) = none ∧
    (st (.load 8) [line] []).headReq (.thread (tscThread 0)) .io = some (r (.load 8)) ∧ (st (.load 8) [] []).mayAnswer (r (.load 8)) = true ∧
    (st (.load 8) [] []).homeReady (r (.load 8)).place = true := by decide +kernel

theorem witness_ActiveMessageResult :
    let p : Place := { loc := locSpm 1 0x100, home := .core 1 }
    let r := fun (k : ReqKind) => ({ src := .thread 0, place := p, kind := k, tag := some 0 } : Req)
    let st := fun (k : ReqKind) (c : Core) => ({ dev (thr []) with fifo := [r k], cores := [(0, { owner := some 1 }), (1, c)] } : State)
    let slot : Core := { barrel := [(0, some ⟨30, 0⟩)] }
    let add : ReqKind := .atomic .aadd true 5 0 1
    let cas : ReqKind := .atomic .acas true 5 7 1
    coreOf 0 ≠ 1 ∧ (∀ k ∈ [.load 8, .store 0xFF 0, add, cas], (st k slot).headReq (.thread 0) (.core 1) = some (r k) ∧
      (st k slot).mayAnswer (r k) = true ∧ (st k slot).homeReady p = true ∧ ((st k slot).core 1).slotOf 30 = some ((st k slot).cycle % 8) ∧
      (st k slot).tieTaken (.issue 1) = false ∧ (st k slot).flipHolds (r k) = false ∧ (st k slot).tscFails (r k) = none ∧
      r k ∉ ((st k slot).core 1).handling ∧ r k ∈ ((st k { slot with handling := [r k] }).core 1).handling ∧ ((st k slot).thread 30).notBefore ≤ (st k slot).cycle ∧
      ((st k {}).core 1).slotOf 30 = none) ∧
    atomicNew .acas true ((st cas slot).read p.loc 8) 5 7 1 = none ∧ atomicNew .aadd true ((st add slot).read p.loc 8) 5 0 1 = some 5 ∧
    p.loc % 128 + 8 ≤ 128 := by decide +kernel

theorem witness_RecallResult :
    let line := lineOf 0x80100
    let s : State := { dev {} with dirs := [(line, { sharers := [0] })] }
    let full : State := { s with rq := List.replicate 128 ⟨.core 0, .slice (homeSlice 0x80100), line, .inv⟩ }
    (s.dir line).sharers.all (fun d => s.mayEnter (s.homeOfPa (128 * line)) (.core d)) = true ∧
    (full.dir line).sharers.all (fun d => full.mayEnter (full.homeOfPa (128 * line)) (.core d)) = false := by decide +kernel

theorem witness_MeetEventResult_refused :
    let at_ := { thr [(1, 0x200)] with run := .waiting .drained, stage := some (.meet false 1 0 3) }
    let held : Meet := { at_.arrival false 1 0 with holder := 1, count := 2 ^ 32 - 1, deadline := 5 }
    let s : State := { dev at_ with cores := [(0, { meets := [(31, held)] })], threads := [(0, at_), (1, thr [])] }
    (s.thread 0).drained = true ∧ s.tieOk (.meet false 0) 0 = true ∧ spilledOf (s.thread 0) (meetRegs (s.thread 0) false 1 0) = none ∧
    (s.meets false 0).find? (fun m => m.2.same ((s.thread 0).arrival false 1 0)) = some (31, held) ∧ NMap.get {} (s.meets false 0) 31 = held ∧
    2 ^ 32 - 1 < held.count + (s.thread 0).mc ∧ held.holder ≠ 0 ∧ (s.thread 0).releasing = [] ∧ (s.thread held.holder).releasing = [] ∧
    (∀ m ∈ s.meets false 0, m.2.valid = true → s.cycle < m.2.deadline) := by decide +kernel

theorem witness_MeetEventResult_loop :
    let c : Cluster := {
      chans := [(0, { live := true, recvs := [⟨1, 0, 5, []⟩], last := some 0, sent := 2 }),
                (1, { live := true, recvs := [⟨0, 8, 5, []⟩], last := some 1, sent := 4 })]
      scan := [(1, 0, 2), (0, 1, 4)] }
    let s : State := { dev (thr []) with threads := [(0, thr []), (1, thr [])], clusters := [(0, c)] }
    let loop := [0, 1]
    loop.Nodup ∧ (∀ v ∈ loop, ∃ w ∈ c.scan, w ∈ c.recvWaits ∧ w.1 = v) ∧
    (∀ i, i < loop.length → c.edge c.recvWaits (loop.getD i 0) = some (loop.getD ((i + 1) % loop.length) 0)) ∧
    c.deadlocked c.recvWaits 0 = true ∧ c.deadlocked c.recvWaits 1 = false ∧
    c.chans.flatMap (fun p => (p.2.recvs.filter (fun v => c.deadlocked c.recvWaits v.t)).map (fun v => (p.1, v))) = [(1, ⟨0, 8, 5, []⟩)] ∧
    (s.thread 0).tvec ≠ 0 ∧ (s.cycle - s.dieReset) % 4096 = 0 ∧ s.tieTaken (.scan 0) = false := by decide +kernel

theorem witness_BellowsResult_moved :
    let q : Queued := ⟨task 64, 0⟩
    let waits : Thread := { thr [] with run := .parked (.waitw 7) }
    let s : State := { dev waits with cores := [(0, { owner := some 1, deque := [q] })], cycle := 1 }
    let busy := (List.range 14).map (fun i => (16 + i, thr []))
    let thief : State := { dev waits with cores := [(0, { owner := some 1 }), (1, { owner := some 1, deque := [q] })], cycle := 4096,
                                          threads := (0, waits) :: busy }
    let fwd : State := { dev (thr []) with clusters := [(0, { forwarded := [q] })], cycle := 1 }
    s.dispatchable 0 = some q ∧ ({ s with cycle := 0 }).dispatchable 0 = none ∧ thief.ownDispatch 1 ≠ some q ∧ thief.stealable 0 1 = some q ∧
    thief.ringNext 0 = some 1 ∧ thief.firstWaiter 0 = some (7, 0) ∧ q.since ≠ fwd.cycle ∧ (fwd.push 0 (coreAt 0 0) q.task true).isSome = true := by
  decide +kernel

theorem witness_CopyResult_waits :
    let s := copier { tileA with state := .empty, addr := 0x8000000000002000, shape := 0 }
    s.spmAwake 0 0 = true ∧ field (s.readWord (locSpm 0 0)) 63 60 = 0 := by decide +kernel

theorem witness_EngineResult_start :
    let c : Cmd := { id := 3, desc := copyDesc, t := 0, core := 0, cluster := 0, asid := 0, sv := false, launch := 1, srs := 1, running := true }
    let marked : Cmd := { c with cancelled := true, cancelAt := 1 }
    let beyond : Cmd := { c with desc := [0x8000000000001000, 0xA000000000000000, 0x1000000000000000, 0x4000000000000000, 0, 0, 0, 0],
                                 poff := 2 ^ 20, phase := .reading, size := 2 ^ 20 }
    let st := fun (c : Cmd) => ({ dev (thr []) with engines := [(0, { cmds := [c] })] } : State)
    ((st c).engine 0).cmds.find? Cmd.mayStart = some c ∧ c.phase = .idle ∧
    beyond.groupBeyond 1 = true ∧ c.groupBeyond 1 = false ∧ ((st beyond).engine 0).cmds.find? Cmd.mayStart = none ∧ (st c).picks = [] ∧
    ((st marked).engine 0).cmds.find? Cmd.mayStart = some marked ∧ marked.cancelAt = (st marked).cycle + 1 ∧
    marked.cancelAt ≠ ({ st marked with cycle := 1 } : State).cycle + 1 := by
  decide +kernel

theorem witness_BitStreamResult_lines :
    let at_ := fun (wr : Word) => xform { thr [(3, 0x1FF)] with bsrd := 0x8000000000000000 + 5 * 2 ^ 24, bswr := wr }
    let one := fun (s : State) (a b : Nat) => (List.range (b - a)).map (fun i => (({ index := a + i, addr := cursorByte s.me.bswr (a + i), width := 1 } : Access),
      spm (field s.me.bswr 23 0 + a + i)))
    let s := at_ (0x800000000000007F + 7 * 2 ^ 24)
    let b := at_ (0x8000000000001101 + 3 * 2 ^ 24)
    let o := at_ 0x4000000000000000
    s.enterInstr .transform .plain = .ok {} ∧ cursorSpace s.me.bswr = true ∧
    s.access .write [.s 3 false] [.s 3 false] (cursorAccesses s.me.bswr ((7 + 9) / 8)) = .ok (one s 0 1 ++ one s 1 2) ∧
    (∀ y ∈ one s 0 1, ∀ z ∈ one s 1 2, lineOf y.2.loc ≠ lineOf z.2.loc) ∧
    b.enterInstr .transform .plain = .ok {} ∧ padTo (cursorPos b.me.bswr) 8 = 5 ∧
    b.access .write [] [] (cursorAccesses b.me.bswr ((3 + 5) / 8)) = .ok (one b 0 1) ∧
    o.enterInstr .transform .plain = .ok {} ∧ cursorSpace o.me.bswr = false :=
  ⟨rfl, rfl, okIs_eq (by decide +kernel), by decide +kernel, rfl, by decide +kernel, okIs_eq (by decide +kernel), rfl, rfl⟩

/-- 14 R377: `bsalign 8` with 3 bits outstanding appends 5 zeros and stores the byte. -/
theorem test_bsalign_pads :
    let s := xform { thr [] with bswr := 0x8000000000001101 + 3 * 2 ^ 24, bsacc := 3 }
    after (.bsalign 8) s (fun t => t.me.bswr = 0x8000000000001102 && t.me.bsacc = 0 &&
      t.fifo = [⟨.thread 15, spm 0x1101, .store (byteMask 1 1) (placeData 1 3), none, 0, false, []⟩]) = true := by decide +kernel

/-! ## Witnesses for further clauses: CSRs, translation, faults, residency, queues, launches -/

theorem witness_CsrResult_inbox :
    let m : TscMsg := (dev (thr [])).missMsg 0 0x100 .read 0
    let t := tscThread 0
    let st := fun (l : List TscMsg) => ({ cur := t, threads := [(t, thr [])], clusters := [(0, { inbox := l })] } : State)
    (st []).enterInstr .any .plain = .ok {} ∧ csrReadable ((st []).csrState t) 0x301 = true ∧ clusterOf (coreOf t) = 0 ∧
    ((st []).cluster 0).inbox = [] ∧ (st [m]).enterInstr .any .plain = .ok {} ∧ ((st [m]).cluster 0).inbox = [m] := by
  intro m t st
  exact ⟨okIs_eq (by decide +kernel), by decide +kernel, by decide +kernel, rfl, okIs_eq (by decide +kernel), rfl⟩

theorem witness_CsrWriteResult_tie :
    let s : State := { taken := [(.clpart 0, 1)] }
    s.tieOk (.clpart 0) 0 = false ∧ s.tieOk (.clpart 0) 1 = true ∧ s.tieOk (.clpart 0) 2 = true ∧ s.tieOk (.clpart 1) 0 = true ∧
    clpartBad 16 = false ∧ clpartBad 17 = true := by decide +kernel

theorem witness_TlbInstructionResult_held :
    let c := tscThread 0
    let p := pageOne 0
    let wt : TlbiWait := ⟨[(.thread 0, p)]⟩
    let st := fun (q : List Req) (x : Thread) =>
      ({ cur := c, threads := [(0, x), (c, thr [(5, 2 ^ 33)])], clusters := [(0, { tlbi := some wt })], fifo := q } : State)
    let r : Req := ⟨.thread 0, p, .load 8, some 0, 0, false, []⟩
    let spawned : Thread := { thr [] with stage := some (.spawn p) }
    (st [r] (thr [])).enterInstr .tsc .plain = .ok {} ∧ spilledOf (st [r] (thr [])).me [.s 5 false] = none ∧ isTsc c = true ∧ 0 ∈ clusterCores 0 ∧
    inScope 0 0 { p with pair := some (0, 0) } = true ∧ (∃ h ∈ wt.held, ∃ r ∈ (st [r] (thr [])).fifo, r.src = h.1 ∧ h.2 ∈ r.places) ∧
    ((st [] spawned).thread 0).spawnPlace = some p ∧ ((st [] { thr [] with rsb := [slot0] }).thread 0).rsb.flatMap Slot.places = [p] ∧
    (let u := st [] (thr [])
     (u.cluster 0).tlbi = some wt ∧ u.me.releasing = [] ∧ u.fifo = [] ∧ (u.thread 0).rsb = [] ∧ (u.thread 0).spawnPlace = none) := by
  intro c p wt st r spawned
  exact ⟨okIs_eq (by decide +kernel), by decide +kernel, by decide +kernel, by decide +kernel, by decide +kernel,
    ⟨_, List.mem_cons_self, r, List.mem_cons_self, rfl, List.mem_cons_self⟩, by decide +kernel, by decide +kernel, by decide +kernel⟩

theorem witness_TranslationEvents_shoot :
    let s : State := { cps := [(0, { running := true, shoots := [(0, 5)] })] }
    let e : Tlb := ⟨2 ^ 45, 0xF00000001⟩
    let cached : Cluster := { fetches := [⟨0, 0x2000, [0], false, 0, 1⟩], ctc := [(0, e)], icache := [(e.pa 0x2000, 7)] }
    (s.cp 0).shoots = [(0, 5)] ∧ (s.cp 0).shooting = false ∧ (s.cp 0).running = true ∧
    ((e.pa 0x2000, (7 : BitVec 512)) ∈ cached.icache ∧ tlbLookup cached.ctc 0 (0x2000 / 2 ^ 19) = some e) ∧
    ({ cps := [(0, { acks := 167, shooting := true })] } : State).cp 0 = { acks := 167, shooting := true } := by
  refine ⟨rfl, rfl, rfl, ?_, rfl⟩
  decide +kernel

theorem witness_FaultResult_full :
    let m : TscMsg := (dev (thr [])).missMsg 0 0x100 .read 0
    let m2 : TscMsg := { m with w0 := m.w0 + 0x1000000000000000 }
    let f : FaultRec := { seq := 9, asid := 0, w0 := 0, va := 0x100, w2 := 0, w3 := 0, pin := false, waiters := [], posted := 0 }
    let st := fun (k : Cluster) (x : Thread) => ({ dev x with clusters := [(0, k)] } : State)
    let full := st { inbox := [m], faults := List.replicate 64 f } { thr [] with run := .waiting (.tlb m.asid m.w1 m.acc) }
    let g : Fetch := ⟨m2.asid, m2.w1.toNat, [0], true, 0, 1⟩
    let pinned := st { inbox := [m2], fetches := [g] } { thr [] with pin := true, run := .waiting (.fetch g.asid g.va) }
    let o : OwedRec := ⟨[0, 0x200, 0, 0], 0, false, [], 0, 1⟩
    (64 ≤ (full.cluster 0).faults.length ∧ (full.cluster 0).inbox = [m] ∧ m.kind = 1 ∧ m.pin = false ∧ m.thread = 0 ∧
      (full.thread 0).run = .waiting (.tlb m.asid m.w1 m.acc) ∧ (full.thread 0).pin = false) ∧
    (m2.kind = 2 ∧ (pinned.cluster 0).msgFetch m2 = some g ∧ g.waiters = [0] ∧ (pinned.thread 0).pin = true ∧ (pinned.thread 0).tvec ≠ 0) ∧
    (let s := st { faults := [f], owed := [o] } (thr [])
     (s.cluster 0).faults = [f] ∧ (s.cluster 0).owed = [o] ∧ f.waiters = []) := by decide +kernel

theorem witness_ResidencyResult_wanted :
    let r : Req := { src := .thread 0, place := spm 0x3FFF8, kind := .load 8 }
    let core := fun (c : Core) => ({ dev (thr []) with cores := [(0, c)], fifo := [r] } : State)
    let s := core { spAwake := 0 }
    let g := core { gated := true, wanted := [32] }
    (s.headReq (.thread 0) (.core 0) = some r ∧ r.place.home = .core 0 ∧ s.flipHolds r = false ∧ s.mayAnswer r = true ∧
      s.coreAwake 0 r.place.loc = false) ∧
    (let t := core { spAwake := 0, wanted := [31] }
     (t.core 0).wanted.contains 31 = true ∧ (t.core 0).gated = false ∧ (t.core 0).spAwake.getLsbD 31 = false) ∧
    ((g.core 0).gated = true ∧ (g.core 0).wanted ≠ []) := by decide +kernel

theorem witness_BudgetAndPower_ties :
    let once : State := { taken := [(.refill, 0)] }
    once.tieTaken .refill = true ∧ once.tieTaken .allocator = false ∧ State.reset.tieTaken .refill = false ∧
    ({ taken := [(.allocator, 0)] } : State).tieTaken .allocator = true ∧ ({ taken := [(.usage, 0)] } : State).tieTaken .usage = true := by
  decide +kernel

theorem witness_QueueResult_reasons :
    let e := fun (i : Nat) (w : Word) => (List.replicate 16 (0 : Word)).set i w
    let ok : List Word := e 0 0x101C000000000000
    let r := fun (l : List Word) => ({} : State).launchReason 0 l false
    r (ok.set 15 1) = some 1 ∧ r (ok.set 0 0) = some 2 ∧ r (ok.set 0 0x101C00000000FFFF) = some 3 ∧ r (ok.set 1 1) = some 4 ∧
    r (ok.set 7 21) = some 5 ∧ r ok = none ∧ ({} : State).launchReason 0 (ok.set 15 0x40) true = some 1 := by decide +kernel

theorem witness_QueueResult_record :
    let s := queued (entryOf 0) {} []
    let line := lineOf (s.cpBytes 0 0x48 8 1 |>.getD [] |>.headD (0, 0)).1
    let held : State := { s with dirs := [(line, { invs := [(0, 1)] })] }
    (s.cpBytes 0 0x40 8 1).isSome = true ∧ (s.cpBytes 0 0x48 24 1).isSome = true ∧ s.later = [] ∧ s.cpBytes 5 0x40 8 1 = none ∧
    (((s.cpBytes 0 0x48 24 1).getD []).all (fun b => s.settledAt (lineOf b.1)) = true) ∧
    ((held.cpBytes 0 0x48 24 1).getD []).all (fun b => held.settledAt (lineOf b.1)) = false := by decide +kernel

/-! ## Witnesses for further clauses: pre-emption, the host, registers, quench, boot, the step -/

theorem witness_PreemptionResult_atomic :
    let p : Preempt := ⟨0, 1, 0, 0, 0, false, false, false, false⟩
    let at_ := fun (x : Thread) => ({ dev x with preempts := [p], cycle := 2 ^ 16 } : State)
    let x : Thread := { thr [] with run := .waiting .reply, inflight := some ⟨some 0, .atomic 5 true false, [⟨0, spm 0, 8, false, none⟩]⟩ }
    let al : State := { dev { thr [] with run := .waiting .align } with
      preempts := [p], threads := [(0, { thr [] with run := .waiting .align }), (16, { thr [] with run := .waiting .align })]
      clusters := [(0, { align := some ⟨0x2000, 1, [1, 0], 0, [16, 0]⟩ })] }
    let stop : State := { at_ { thr [] with run := .waiting .preempt } with taken := [(.stopped 0, 0)] }
    ((at_ x).thread 0).inAtomic = true ∧ p.quench = false ∧ (at_ x).preempts = [p] ∧ ((at_ x).cp 0).smode = false ∧
    (al.thread 0).run = .waiting .align ∧ (al.cluster (clusterOf 0)).align = some ⟨0x2000, 1, [1, 0], 0, [16, 0]⟩ ∧
    [16, 0].Nodup ∧ (al.thread 16).releasing = [] ∧ (stop.thread 0).run = .waiting .preempt ∧ stop.tieTaken (.stopped 0) = true ∧
    (at_ x).tieTaken (.stopped 0) = false ∧ (∀ a ∈ ((at_ (thr [])).cluster 0).mmacs, a.t ≠ 0) := by decide +kernel

theorem witness_RestoreResult_records :
    let image : State := State.writeWords { launches := [launch1], cores := [(0, { owner := some 1 })] } 0 [BitVec.ofNat 64 (2 ^ 48 + 2 ^ 16 + 1), 0]
    let r : Nat := (image.readWord 0).toNat % 2 ^ 16
    r = 1 ∧ 0 ∉ image.pushed ∧ 0 ∈ ({ image with pushed := [0] } : State).pushed ∧ (image.readWord 0).getLsbD 16 = true ∧
    image.launch ((image.readWord 0).toNat / 2 ^ 48) = some launch1 := by decide +kernel

theorem witness_HostAccessResult_io :
    let s := dev (thr [])
    let pa := 0x80000
    let h := homeSlice pa
    let dev_ : Place := { loc := pa, home := .slice h, alloc := true, cacheable := true }
    let held : State := { s with flips := [⟨1, true, []⟩] }
    let host : State := { s with hostBias := [1] }
    let asleep : State := { s with cores := [(0, { owner := some 1, spAwake := 0 })] }
    (s.ioPlace (.slice h) pa).isSome = true ∧ (s.ioPlace (.slice h) pa).map (·.loc) = some dev_.loc ∧ pa / 2 ^ 19 = 1 ∧
    (∃ f ∈ held.flips, dev_.loc < 2 ^ 47 ∧ f.page = dev_.loc / 2 ^ 19) ∧ pa < 0x00C000000000 ∧ pa / 2 ^ 19 ∈ host.hostBias ∧
    (host.ioPlace (.slice h) pa).map (·.home) = some .io ∧
    asleep.ioPlace (.core 0) 0 = some (spm 0) ∧ asleep.homeReady (spm 0) = false ∧ asleep.waitsForWay (spm 0) = false ∧
    asleep.ioFree (quadrant (.core 0)) = true ∧ NMap.get [] asleep.ioq (quadrant (.core 0)) = [] ∧ asleep.flips = [] := by decide +kernel

theorem witness_PortResult_cases :
    let s := fun (c : Cluster) (u : Service) => ({ clusters := [(3, c)], service := u } : State)
    let live : Service := { update := some 0 }
    (((s { istore := true } {}).cluster 3).istore = true ∧ ((s { istore := true } {}).cluster 3).reload = false ∧
      (s { istore := true } {}).service.update = none ∧ ((s { istore := true, working := true } live).cluster 3).working = true) ∧
    (((s { istore := true, reload := true } {}).cluster 3).reload = true ∧ (s { istore := true } live).service.update ≠ none ∧
      ((s { istore := true } live).cluster 3).working = false) ∧
    (({ cps := [(1, { smode := true })] } : State).cp 1).smode = true ∧ 0x7C0 / 2 ^ 8 % 4 = 3 ∧ ({} : State).cp 1 = {} ∧ ({} : Cp).smode = false ∧
    (let x : Thread := { thr [] with s := [(3, { val := 0x1234, map := .spilled })] }
     (NMap.get {} ((dev x).thread (16 * 0 + 0)).s 3).map = .spilled ∧ (dev x).backing 0 (0x1000 * 0 + 8 * 3 + 1) = 0x12) ∧
    ({} : State).barValue 5 0x0118 = 0 ∧ ({ service := { mbBusy := true, mbResult := 4 } } : State).barValue 0 0x0118 = 0x8000000000000004 ∧
    ({} : State).barValue 5 0x1008 = BitVec.ofNat 64 (4 * 2 ^ 32) := by decide +kernel

theorem witness_WatchdogResult_levels :
    let box : Service := { mbBusy := true, mbNow := 2, mbArg0 := 3, mbArg1 := 1 }
    let l : Launch := { launch1 with level := 3 }
    let s : State := { dev (thr []) with service := box, launches := [l] }
    let c : State := { dev (thr []) with service := { box with mbArg0 := 0x12, mbArg1 := 167 }, clusters := [(167, { quench := 2 })] }
    let d : State := { dev (thr []) with service := { box with mbArg0 := 0x24, mbArg1 := 0, quench := 4, state := 3 } }
    s.quenchOk 3 = true ∧ box.mbArg0.toNat % 8 = 3 ∧ box.mbArg0.toNat / 16 = 0 ∧ s.launch 1 = some l ∧ 3 ≤ max l.level s.service.quench ∧
    (c.service.mbArg0.toNat % 8 = 2 ∧ c.service.mbArg0.toNat / 16 = 1 ∧ c.service.mbArg1.toNat < 168 ∧ 2 ≤ c.clusterLevel c.service.mbArg1.toNat) ∧
    (d.service.mbArg0.toNat % 8 = 4 ∧ d.service.mbArg0.toNat / 16 = 2 ∧ 4 ≤ d.service.quench) ∧ (s.quenching 4).quenchOk 3 = true ∧
    (s.quenching 1).quenchOk 3 = false ∧ (s.quenching 1).quenchOk 1 = true := by
  decide +kernel

theorem witness_WatchdogResult_update :
    let box : Service := { mbBusy := true, mbNow := 1, mbArg0 := 0, mbArg1 := 4096 }
    let s := fun (x : Service) => ({ service := x } : State)
    (s { box with update := some 1 }).service.update ≠ none ∧ (s { box with mbArg0 := 1 }).fetchImage = none ∧ (s box).fetchImage.isSome = true ∧
    (s { box with mbNow := 3, state := 3 }).service.state = 3 := by decide +kernel

theorem witness_StepRunsDecoded_booted :
    let off : State := { service := { booted := false } }
    let s := fetching 0x00140085
    s.service.booted = true ∧ off.service.booted = false ∧ off.service.down = false ∧ off.tick.agenda = [] ∧
    s.tick.tieTaken (.issue (coreOf s.tick.cur)) = false ∧ s.tick.me.notBefore ≤ s.tick.cycle ∧
    ({ s with agenda := [.firmware 3 ⟨0x30200073, false⟩] } : State).tick.agenda = [.firmware 3 ⟨0x30200073, false⟩] ∧ off.tick.mailboxOnly .mailboxReserved = true ∧
    off.tick.mailboxOnly (.hearthUpdate 0) = false ∧
    ({ off with agenda := [.event .mailboxReserved] } : State).tick.agenda = [.event .mailboxReserved] ∧
    ({ off with agenda := [.turn 3] } : State).tick.agenda = [.turn 3] := by decide +kernel

/-- 22 R451: a write of `mbcmd` while BUSY changes nothing of the command that runs. -/
theorem test_mbcmd_busy :
    let s : State := { service := { mbBusy := true, mbNow := 2 } }
    after (.registerWrite (.bar 0 0x0100) 0x8000000000000003) s (fun t => t.service.mbNow = 2 && t.service.mbBusy) = true := by decide +kernel

/-! ## Witnesses: a TSC's transfers, ties of a cycle, accesses that wait, status pieces, launches, the save, firmware -/

theorem witness_ControlTransferResult_tsc :
    let t := tscThread 0
    let s : State := { cur := t, threads := [(t, thr [(3, 0x20000), (4, 2)])] }
    isTsc s.cur = true ∧ (∀ os ∈ [[.s 3 false, .s 4 false], [], [.s 4 false], [.s 0 true], [.s 3 true]], s.canIssue .any .plain {} os) ∧
    2 ^ 17 ≤ ((s.me.pc &&& ~~~63#64) + (2047#12).signExtend 64 * 64).toNat ∧
    2 ^ 17 ≤ ((s.me.pc &&& ~~~63#64) + (2047#20).signExtend 64 * 64).toNat ∧ (s.x 3 + (0#14).signExtend 64 * 64).toNat = 2 ^ 17 ∧
    (s.x 4 + (0#14).signExtend 64 * 64).toNat % 64 ≠ 0 ∧ (s.x 0 + (2047#14).signExtend 64 * 64).toNat < 2 ^ 17 ∧ s.x 3 ≠ s.x 4 := by
  intro t s
  refine ⟨by decide +kernel, ?_, by decide +kernel⟩
  intro os h
  refine ⟨okIs_eq (by decide +kernel), ?_⟩
  revert os
  decide +kernel

theorem witness_BarrierAndChannelResult_late :
    let s : State := { dev (thr []) with taken := [(.chan 0 1 0 true, 3), (.chan 0 1 0 false, 3)], threads := [(0, thr []), (3, thr [])] }
    channelLegal s.me.rect (s.x 0) = true ∧ channelCluster (s.x 0) = 0 ∧ (s.cluster 0).channel s.me.launch 0 = some 0 ∧
    (∀ sending, s.tieOk (.chan 0 s.me.launch 0 sending) s.cur = false) ∧
    ({ s with cur := 3 } : State).tieOk (.chan 0 1 0 true) 3 = true ∧ s.me.rsb = [] ∧ s.me.storeCount = 0 := by decide +kernel

theorem witness_TranslationResult_dropped :
    let c := tscThread 0
    let e : Tlb := ⟨2 ^ 45, 0xF00000001⟩
    let s : State := { cur := c, threads := [(0, { thr [] with run := .waiting (.tlb 0 0x100 0) }), (c, thr [(5, 0)])],
                       clusters := [(0, { writebacks := [(0, e)] })] }
    e.removed 0 (s.x 5) = true ∧ 0 ∈ clusterCores 0 ∧ coreOf 0 = 0 ∧ 0 ≠ s.cur ∧ (s.thread 0).run = .waiting (.tlb 0 0x100 0) ∧
    e.covers 0 ((0x100#64).toNat / 2 ^ 19) = true ∧ (s.thread 0).releasing = [] ∧ s.enterInstr .tsc .plain = .ok {} ∧
    spilledOf s.me [.s 5 false] = none := by
  intro c e s
  exact ⟨by decide +kernel, by decide +kernel, rfl, by decide +kernel, by decide +kernel, by decide +kernel, by decide +kernel, okIs_eq (by decide +kernel), by decide +kernel⟩

theorem witness_ResidencyResult_block :
    let p : Place := { loc := locCluster 0 0x600, home := .expander 0 }
    let r : Req := { src := .thread 0, place := p, kind := .store 1 0 }
    let s : State := { dev (thr []) with fifo := [r], clusters := [(0, { spw := 1 })] }
    s.headReq (.thread 0) (.expander 0) = some r ∧ s.flipHolds r = false ∧ s.mayAnswer r = true ∧ s.homeReady p = false ∧
    (s.thread 0).run = .ready ∧ blockOf 0 p.loc = 3 := by decide +kernel

theorem witness_EngineResult_status :
    let c : Cmd := { id := 3, desc := copyDesc, t := 0, core := 0, cluster := 0, asid := 0, sv := false, launch := 1, srs := 1, running := true, chunk := 1 }
    let w := cplWord0 1 0 c.chunk
    let half : Cmd := { c with final := some (1, [(0, 4, w.toNat % 2 ^ 32), (4, 4, w.toNat / 2 ^ 32)]) }
    let last : Cmd := { c with final := some (1, [(0, 4, w.toNat % 2 ^ 32)]) }
    let st := fun (c : Cmd) => ({ dev (thr []) with engines := [(0, { cmds := [c] })] } : State)
    (st half).cmd 0 3 = some half ∧ half.over = true ∧ half.unsettled = 0 ∧ (st half).fifo = [] ∧ (st half).threadsOf 1 ≠ [] ∧
    (st half).coreAwake 0 (locSpm 0 0) = true ∧ (st half).undone half = [] ∧ half.final ≠ none ∧ c.final = none ∧
    ((st half).finalOf 0 half).1.2.length = 2 ∧ ((st last).finalOf 0 last).1.2 = [(0, 4, w.toNat % 2 ^ 32)] ∧ (st c).picks = [] := by
  decide +kernel

theorem witness_HostAccessResult_queued :
    let s : State := { dev (thr []) with cores := [(0, { owner := some 1, spAwake := 0 })] }
    let r : IoReq := ⟨.core 0, 0, 8, none⟩
    let pa := 0x80000
    let q := quadrant (.slice (homeSlice pa))
    let t : State := { s with flips := [⟨1, true, []⟩] }
    let u : State := { s with ioq := [(quadrant (.core 0), [r])], ioLast := [(quadrant (.core 0), some 0)], dirs := [(0, { invs := [(0, 1)] })] }
    s.ioPlace r.home r.off = some (spm 0) ∧ NMap.get [] u.ioq (quadrant (.core 0)) = [r] ∧ u.ioFree (quadrant (.core 0)) = false ∧
    NMap.get [] t.ioq q = [] ∧ (t.ioPlace (.slice (homeSlice pa)) pa).map (·.loc) = some pa ∧ (∃ f ∈ t.flips, f.page = pa / 2 ^ 19) ∧
    pa < 2 ^ 47 ∧ t.ioFree q = true := by decide +kernel

theorem witness_BudgetAndPower_chosen :
    let s := fun (ps : List Nat) => ({ cps := [(3, { smode := true })], picks := ps } : State)
    (s [3]).chosenCp = (3, s []) ∧ ((s [3]).cp 3).smode = true ∧ (s []).chosenCp.1 = 0 ∧ ((s []).cp 0).smode = false := by decide +kernel

theorem witness_QueueResult_flipping :
    let s := queued (entryOf 0) {} []
    let held : State := { s with flips := [⟨1, true, []⟩] }
    s.flipping ((s.cpBytes 0 0x48 24 1).getD []) = false ∧ s.flipping ((s.cpBytes 0 0x40 8 1).getD []) = false ∧ held.later = [] ∧
    held.flipping ((held.cpBytes 0 0x48 24 1).getD []) = true := by decide +kernel

theorem witness_LaunchResult_load :
    let p : LoadPiece := ⟨0, 0x600, 512, 5⟩
    let l : Launch := { launch1 with phase := .placed, loading := some [p] }
    let s := fun (es : List Expanded) => ({ launches := [l], clusters := [(0, { spw := 1, expander := es })] } : State)
    (s []).launch l.num = some l ∧ l.loading = some [p] ∧ (s []).blockReady p.cl (p.off / 512) = false ∧
    (s [⟨3, .dirty, none⟩]).blockReady p.cl (p.off / 512) = true ∧ ((s []).tie (.tasks 0) 0).tieTaken (.tasks 0) = true := by decide +kernel

theorem witness_PreemptionResult_flip :
    let p : Preempt := ⟨0, 1, 0, 0, 0, false, false, false, false⟩
    let s : State := { dev { thr [] with run := .waiting .preempt } with preempts := [p], flips := [⟨2, true, []⟩] }
    let o : State := { dev { thr [] with launch := 2 } with preempts := [p], cycle := 2 ^ 40 }
    s.regionFlipping p.block 0x12B000 = true ∧ (s.thread 0).run = .waiting .preempt ∧ o.preempts = [p] ∧ p.launch ≠ (o.thread 0).launch ∧
    ({} : State).recordRoom 0 576 = true ∧ ({} : State).recordRoom 0 577 = false := by decide +kernel

theorem witness_PortResult_supervisor :
    let s := fun (m : Word) => ({ cps := [(1, { smode := true, csrs := { medeleg := m } })] } : State)
    ((s 4).cp 1).csrs.medeleg.getLsbD 2 = true ∧ ((s 0).cp 1).csrs.medeleg.getLsbD 2 = false ∧ ((s 0).cp 1).smode = true ∧
    0x7C0 / 2 ^ 8 % 4 = 3 := by decide +kernel

/-- FIPS 180-4's digest of "abc". -/
theorem test_sha384_abc : bytesToNat ((sha384 [0x61, 0x62, 0x63]).reverse.map (·.toNat)) =
    0xcb00753f45a35e8bb5a03d699ac65007272c32ab0eded1631a8b605a43ff5bed8086072ba1e7cc2358baeca134c825a7 := by decide +kernel

theorem witness_PreemptionResult_save :
    let p : Preempt := ⟨0, 1, 0x1000, 0, 0, false, false, false, false⟩
    let x : Thread := { thr [] with run := .waiting .preempt, handles := [(3, some 4)] }
    let s : State := { dev x with preempts := [p], cores := [(0, { owner := some 1, acc1 := { owner := some 0 }, tiles := [(4, { live := true, launch := 1, refs := 1 })] })] }
    let two : State := { s with threads := [(0, x), (5, thr [])] }
    s.preempts = [p] ∧ p.t = 16 * 0 + 0 ∧ p.gone = false ∧ p.launch = (s.thread 0).launch ∧ (s.thread 0).stage = none ∧
    (s.thread 0).releasing = [] ∧ (s.thread 0).run = .waiting .preempt ∧ s.tieTaken (.stopped 0) = false ∧
    s.regionFlipping p.block 0x12B000 = false ∧ (s.thread 0).drained = true ∧ s.tilesQuiet 0 = true ∧ isTsc 0 = false ∧
    p.block % 4096 = 0 ∧ p.block + 0x12B000 ≤ 0x00C000000000 ∧ s.later = [] ∧ (s.thread 0).handle 3 = some 4 ∧ (s.thread 0).handle 2 = none ∧
    ((s.core 0).acc true).owner = some 0 ∧ s.dirs = [] ∧
    ((s.core 0).owner = some (s.thread 0).launch ∧ ∀ u ∈ coreThreads 0, u ≠ 16 * 0 + 0 → (s.thread u).run = .free ∨ (s.thread u).launch ≠ (s.thread 0).launch) ∧
    ¬ (∀ u ∈ coreThreads 0, u ≠ 16 * 0 + 0 → (two.thread u).run = .free ∨ (two.thread u).launch ≠ (two.thread 0).launch) := by decide +kernel

theorem witness_PreemptionResult_begun :
    let s : State := { dev (thr []) with launches := [{ launch1 with rect := { w := 2, h := 1, nthr := 14 } }] }
    ([3, 7] : List Nat) ≠ [] ∧ (∀ c ∈ [3, 7], c < 16 ∧ (s.thread (16 * 1 + c)).run = .free) ∧ (∀ q ∈ s.preempts, q.block ≠ 0x2000) ∧ s.later = [] ∧
    s.regionFlipping 0x2000 0x12B000 = false ∧ s.threadsOf 1 ≠ [] ∧ 0x2000 % 4096 = 0 ∧ 0x2000 + 0x12B000 ≤ 0x00C000000000 := by decide +kernel

theorem witness_PreemptionResult_interrupt :
    let q : Cp := { irqs := [5], csrs := { mie := 0x800, mstatus := 8, mtvec := 0x4001 } }
    let s : State := { dev (thr []) with cps := [(2, q)] }
    (s.cp 2).running = true ∧ (s.cp 2).irqs = [5] ∧ 5 < 4096 ∧ 2 < 4 ∧ (s.cp 2).csrs.mie.getLsbD 11 = true ∧ (s.cp 2).csrs.mideleg.getLsbD 11 = false ∧
    (s.cp 2).csrs.mstatus.getLsbD 3 = true ∧ (s.cp 2).interruptDue = some 11 := by decide +kernel

theorem witness_RestoreResult_held : State.heldAt {} 0 0x12B000 = false ∧ State.heldAt { flips := [⟨1, true, []⟩] } 0 0x12B000 = true := by
  decide +kernel

theorem witness_ThreadControlResult_ends :
    let x : Thread := { thr [] with run := .waiting .drained, stage := some (.finish [1, 2, 3, 4, 5, 6]), task := true, handles := [(3, some 4)] }
    let s : State := { dev x with cores := [(0, { owner := some 1, tiles := [(4, { live := true, launch := 1, refs := 2 })] })] }
    let two : State := { s with threads := [(0, x), (5, thr [])] }
    s.cur = 0 ∧ (s.thread 0).run = .waiting .drained ∧ (s.thread 0).drained = true ∧ s.launch (s.thread 0).launch = some launch1 ∧ launch1.dw 7 = 0 ∧
    isTsc 0 = false ∧ (s.thread 0).children = [] ∧ (s.thread 0).releasing = [] ∧ (s.thread 0).tcons = [] ∧ (s.core 0).jobs = [] ∧
    (s.cluster (clusterOf 0)).mmacs = [] ∧ s.clusters = [] ∧ (s.updThread 0 Thread.emptied).threadsOf 1 = [] ∧
    (two.updThread 0 Thread.emptied).threadsOf 1 ≠ [] ∧ ((s.thread 0).handles.filter (fun h => h.2 = some 4)).length < (s.tile 0 4).refs ∧
    launch1.phase = .live ∧ s.saved = [] ∧ s.recordsOf 1 = 0 ∧ s.commandsOf 1 = 0 := by decide +kernel

theorem witness_ThreadControlResult_ring :
    let l : Launch := { launch1 with entry := List.replicate 7 0 ++ [0x104] ++ List.replicate 8 0 }
    let s : State := { dev { thr [] with task := true } with launches := [l], maps := [(0, 2 ^ 40, ⟨2 ^ 45, 0xF00000001⟩)] }
    s.launch 1 = some l ∧ l.dw 7 = 0x104 ∧ (s.cpBytes l.asid 0x100 56 5).isSome = true ∧ (s.cpBytes l.asid (0x100 + 56) 8 0).isSome = true := by
  decide +kernel

theorem witness_SystemResult_halt :
    let s : State := dev { thr [] with run := .waiting .drained, stage := some .halt }
    s.cur = 0 ∧ (s.thread 0).run = .waiting .drained ∧ (s.thread 0).stage = some .halt ∧ (s.thread 0).drained = true ∧
    (dev { thr [] with run := .waiting .drained, stage := some .halt, storeCount := 1 }).me.drained = false := by decide +kernel

theorem witness_ResidencyResult_own :
    let r : Req := ⟨.thread 0, spm 0, .store 1 0, none, 0, false, []⟩
    let s : State := { dev (thr []) with cores := [(0, { owner := some 1, spAwake := 0 })], fifo := [r] }
    s.headReq (.thread 0) (.core 0) = some r ∧ s.flipHolds r = false ∧ s.mayAnswer r = true ∧ s.coreAwake 0 r.place.loc = false ∧
    coreOf 0 = 0 ∧ (s.thread 0).run = .ready := by decide +kernel

theorem witness_WatchdogResult_escalation :
    let l := fun (n : Nat) => ({ launch1 with level := n, rect := { w := 1, h := 1, nthr := 14 } } : Launch)
    let s := fun (n : Nat) (c : Cp) => ({ dev (thr []) with launches := [l n], cps := [(0, c)], cycle := 2 ^ 40 } : State)
    (∀ n ∈ [1, 2], (s n {}).launch 1 = some (l n) ∧ (l n).phase = .live ∧ n + 1 ≤ ((s n {}).cp 0).maxLvl ∧ (s n {}).quenchOk (n + 1) = true ∧
      (l n).progress + ((s n {}).cp 0).prog * 4096 + n * ((s n {}).cp 0).esc * 4096 ≤ (s n {}).cycle) ∧
    ((s 1 {}).cp 0).wdsave = 0 ∧ ((s 1 { wdsave := 4096 }).cp 0).wdsave ≠ 0 ∧ 4096 + 2688 * 0x12B000 ≤ 0x00C000000000 ∧
    (s 1 {}).preempts = [] ∧ (∀ k ∈ (l 1).rect.cores, ∃ c ∈ savable, ((s 1 {}).thread (16 * k + c)).run ≠ .free) ∧ (l 2).rect.clusters = [0] := by
  decide +kernel

theorem witness_WatchdogResult_quench :
    let box := fun (a b : Word) => ({ dev (thr []) with service := { mbBusy := true, mbNow := 2, mbArg0 := a, mbArg1 := b } } : State)
    (box 0x41 0).service.mbArg0.toNat ≥ 64 ∧ (box 9 0).service.mbArg0.getLsbD 3 = true ∧
    ((box 1 7).launch 7 = none ∧ (box 1 7).tieTaken (.ended 7) = false ∧ (box 1 7).quenchOk 1 = true) ∧
    (0x11 / 16 = 1 ∧ 168 ≤ (box 0x11 168).service.mbArg1.toNat) ∧ (0x23 / 16 = 2 ∧ 3 ≠ 4) ∧ 0x34 / 16 = 3 := by decide +kernel

theorem witness_QuenchLevels :
    let s : State := dev { thr [] with task := true }
    let two : State := { s with threads := [(0, thr []), (5, thr [])] }
    s.launch (s.thread 0).launch = some launch1 ∧ launch1.phase = .live ∧ isTsc 0 = false ∧ (s.thread 0).run ≠ .free ∧
    (∀ c ∈ s.cores, c.2.jobs = []) ∧ s.clusters = [] ∧ (s.updThread 0 Thread.emptied).threadsOf 1 = [] ∧
    (two.updThread 0 Thread.emptied).threadsOf 1 ≠ [] ∧ s.saved = [] ∧ s.recordsOf 1 = 0 ∧ s.commandsOf 1 = 0 ∧
    0 ∈ clusterCores 0 ∧ (s.core 0).owner = some 1 ∧ s.launch 1 ≠ none ∧ 167 < 168 ∧ (∀ k ∈ clusterCores 167, (s.core k).owner = none) := by
  decide +kernel

theorem witness_FirmwareResult :
    let q : Cp := { pc := 0x100, x := [(10, 0x2000), (11, 0x3008), (12, 5)] }
    let s : State := { cps := [(1, q)] }
    (s.cp 1).running = true ∧ (s.cp 1).interruptDue = none ∧ (s.cp 1).smode = false ∧ (s.cp 1).csrs.mstatus.getLsbD 17 = false ∧
    (s.cp 1).csrs.pmpcfg = [] ∧ s.flips = [] ∧ (s.cp 1).pc.toNat % 2 = 0 ∧ (s.cp 1).pc.toNat + 4 ≤ 0x00C000000000 ∧
    ((s.cp 1).reg 11).toNat % 8 = 0 ∧ ((s.cp 1).reg 10).toNat + 8 ≤ 0x00C000000000 := by decide +kernel

/-! ## RV64GC: encodings and results of RISC-V's manual -/

theorem test_rv_decode : [0x00C58533, 0xFE0518E3, 0x02A5D5BB, 0x100526AF, 0x180535AF, 0x30200073, 0x02C5F553, 0x72A5F5C3].map rvDecode =
    [some (.alu .add false 10 11 (.reg 12)), some (.branch 1 10 0 (0 - 16)), some (.alu .divu true 11 11 (.reg 10)), some (.lr false 13 10),
     some (.sc true 11 10 0), some .mret, some (.farith .add true 7 10 11 12), some (.fma true false false 7 11 11 10 14)] := by decide +kernel

theorem test_rv_compressed : [0x0505, 0x4501, 0x8082, 0x9002, 0x6510, 0xE122, 0x0000, 0x7139].map rvDecode =
    [some (.alu .add false 10 10 (.imm 1)), some (.alu .add false 10 0 (.imm 0)), some (.jalr 0 1 0), some .ebreak, some (.load 12 10 8 3 true),
     some (.store 2 8 128 3), none, some (.alu .add false 2 2 (.imm (0 - 64)))] := by decide +kernel

theorem test_rv_divide : rvAlu .div false 0x8000000000000000 0xFFFFFFFFFFFFFFFF = 0x8000000000000000 ∧ rvAlu .rem false 7 0 = 7 ∧
    rvAlu .divu true 9 0 = 0xFFFFFFFFFFFFFFFF ∧ rvAlu .mulhsu false 0xFFFFFFFFFFFFFFFF 2 = 0xFFFFFFFFFFFFFFFF := by decide +kernel

/-- 1/3 in double precision rounds down and is inexact; 1/0 divides by zero; 2 x 2^1023 overflows to infinity, or toward zero to the
largest number; the least subnormal halved underflows to 0. -/
theorem test_rv_fp : rvFp Fmt.f64 .div 0 0x3FF0000000000000 0x4008000000000000 = (0x3FD5555555555555, 1) ∧
    rvFp Fmt.f64 .div 0 0x3FF0000000000000 0 = (0x7FF0000000000000, 8) ∧
    rvFp Fmt.f64 .mul 0 0x4000000000000000 0x7FE0000000000000 = (0x7FF0000000000000, 5) ∧
    rvFp Fmt.f64 .mul 1 0x4000000000000000 0x7FE0000000000000 = (0x7FEFFFFFFFFFFFFF, 5) ∧
    rvFp Fmt.f64 .mul 0 1 0x3FE0000000000000 = (0, 3) ∧ rvFp Fmt.f64 .sqrt 0 0x4000000000000000 0 = (0x3FF6A09E667F3BCD, 1) ∧
    rvCvtToInt Fmt.f32 0 1 0xC0200000 = (0xFFFFFFFFFFFFFFFE, 1) ∧ rvCvtToInt Fmt.f32 1 1 0xC0200000 = (0, 16) := by decide +kernel

/-- A save-complete notice is taken as an interrupt at the vectored entry of its cause; a floating-point instruction with FS Off traps. -/
theorem test_cp_interrupt :
    let s : State := { cps := [(2, { irqs := [5], pc := 0x100, csrs := { mie := 0x800, mstatus := 8, mtvec := 0x4001 } })] }
    let t := s.firmware 2 ⟨0, false⟩
    (t.cp 2).pc = 0x4000 + 4 * 0x1005 ∧ (t.cp 2).csrs.mcause = 0x8000000000001005 ∧ (t.cp 2).csrs.mepc = 0x100 ∧ (t.cp 2).irqs = [] ∧
    ((State.firmware {} 0 ⟨0x02C5F553, false⟩).cp 0).csrs.mcause = 2 := by decide +kernel

/-- A store-conditional succeeds after its load-reserved, and not after a store to the place. -/
theorem test_cp_reserve :
    let s : State := { cps := [(0, { x := [(10, 0x80000), (11, 7)] })] }
    let lr := s.firmware 0 ⟨0x100536AF, false⟩
    let ok := lr.firmware 0 ⟨0x18B5362F, false⟩
    let bad := (lr.firmware 0 ⟨0x00B53023, false⟩).firmware 0 ⟨0x18B5362F, false⟩
    (ok.cp 0).reg 12 = 0 ∧ ok.readWord 0x80000 = 7 ∧ (bad.cp 0).reg 12 = 1 ∧ (s.firmware 0 ⟨0x18B5362F, false⟩).mem = [] := by decide +kernel

/-- Supervisor mode reaches no memory without a protection entry; one for all of it, with execution, lets it fetch. -/
theorem test_cp_protection :
    let s := fun (cfg : Word) => ({ cps := [(0, { smode := true, csrs := { pmpcfg := [(0, cfg)], pmpaddr := [(0, 0x3FFFFFFFFFFFFF)] } })] } : State)
    (((s 0).firmware 0 ⟨0x13, false⟩).cp 0).csrs.mcause = 1 ∧ (((s 0x1C).firmware 0 ⟨0x13, false⟩).cp 0).pc = 4 := by decide +kernel
end Sys2Proof.Tests
end

section
/-!
## Memory keeps its canonical form (log entry 3)

`State.memOk` reads the memory alone, and memory changes only where `setByte`, `write`, `writeWords`, `writeLine` or `clearRange`
changes it, whose laws are in the memory layer. So every function of the model that answers a state gets one lemma: from a state
in that form it answers one in that form. A function that leaves memory alone has it by `State.Canonical.frame`; one that calls
others has it by their lemmas, applied in the order of the calls (`hc.consume.retire` for `(s.consume os).retire`); a branch takes
`.ite`, a loop `.foldl`, and the checks of an instruction, which may stop it early, the rules of `Ends`.
-/

set_option Elab.async false

namespace Sys2Proof.Machine

/-- Memory is in the canonical form of log entry 3. -/
def State.Canonical (s : State) : Prop := s.memOk = true

/-- What an instruction that stops leaves behind is in that form. -/
def Stop.Canonical : Stop → Prop
  | .goto s => s.Canonical
  | _ => True

/-- The state an outcome goes on with, if any, is in that form. -/
def Outcome.Canonical : Outcome → Prop
  | .next s => s.Canonical
  | _ => True

/-- A check that passes gives a value with `P`; one that stops leaves memory in that form. -/
def Ends {α : Type} (P : α → Prop) : Except Stop α → Prop
  | .ok a => P a
  | .error e => e.Canonical

variable {s t : State}

/-- An operation that leaves memory as it is keeps the form. -/
theorem State.Canonical.frame (h : s.Canonical) (e : t.mem = s.mem := by rfl) : t.Canonical := State.memOk_congr e h

theorem State.Canonical.setSlices (h : s.Canonical) {x} : State.Canonical { s with slices := x } := h
theorem State.Canonical.setService (h : s.Canonical) {x} : State.Canonical { s with service := x } := h
theorem State.Canonical.setSaved (h : s.Canonical) {x} : State.Canonical { s with saved := x } := h

theorem State.Canonical.ite {c : Prop} [Decidable c] (hs : s.Canonical) (ht : t.Canonical) : (if c then s else t).Canonical := by
  split
  · exact hs
  · exact ht

theorem State.Canonical.foldl {α : Type} {f : State → α → State} {l : List α} (h : s.Canonical)
    (hf : ∀ s a, s.Canonical → (f s a).Canonical) : (l.foldl f s).Canonical := by
  induction l generalizing s with
  | nil => exact h
  | cons a l ih => exact ih (hf s a h)

theorem Outcome.Canonical.next (h : s.Canonical) : Outcome.Canonical (.next s) := h

theorem Outcome.Canonical.ite {c : Prop} [Decidable c] {o p : Outcome} (ho : o.Canonical) (hp : p.Canonical) :
    Outcome.Canonical (if c then o else p) := by
  split
  · exact ho
  · exact hp

/-- The state that an operation may answer is in that form. -/
def IfAny (o : Option State) : Prop := ∀ u, o = some u → u.Canonical

namespace IfAny
variable {o p : Option State}

theorem none : IfAny none := nofun
theorem some (h : s.Canonical) : IfAny (some s) := fun _ e => Option.some.inj e ▸ h

theorem ite {c : Prop} [Decidable c] (ho : IfAny o) (hp : IfAny p) : IfAny (if c then o else p) := by
  split
  · exact ho
  · exact hp

theorem map {f : State → State} (ho : IfAny o) (hf : ∀ u, u.Canonical → (f u).Canonical) : IfAny (o.map f) := by
  cases o with
  | none => exact none
  | some u => exact some (hf u (ho u rfl))

end IfAny

namespace Ends
variable {α β : Type} {P : α → Prop} {Q : β → Prop} {r q : Except Stop α}

theorem ok {a : α} (h : P a) : Ends P (.ok a) := h
theorem done {a : α} : Ends (fun _ => True) (.ok a) := trivial
theorem error {e : Stop} (h : e.Canonical) : Ends P (.error e) := h
theorem trap {x : TrapReq} : Ends P (.error (.trap x)) := trivial
theorem wait {w : Wait} : Ends P (.error (.wait w)) := trivial
theorem goto (h : s.Canonical) : Ends P (.error (.goto s)) := h
theorem illegal : Ends P illegal := trivial
theorem localFault {a : Word} : Ends P (localFault a) := trivial
theorem alignTrap {a : Word} : Ends P (alignTrap a) := trivial
theorem multTrap : Ends P multTrap := trivial
theorem waitFor {w : Wait} : Ends P (waitFor w) := trivial

theorem ite {c : Prop} [Decidable c] (hr : Ends P r) (hq : Ends P q) : Ends P (if c then r else q) := by
  split
  · exact hr
  · exact hq

theorem bind {f : α → Except Stop β} (hr : Ends P r) (hf : ∀ a, P a → Ends Q (f a)) : Ends Q (r >>= f) := by
  cases r with
  | ok a => exact hf a hr
  | error e => exact hr

theorem map {f : α → β} (hr : Ends P r) (hf : ∀ a, P a → Q (f a)) : Ends Q (r.map f) := by
  cases r with
  | ok a => exact hf a hr
  | error e => exact hr

end Ends

/-! ### The named operations over the state -/

theorem State.Canonical.setThread (hc : s.Canonical) {t x} : (s.setThread t x).Canonical :=
  hc.frame

theorem State.Canonical.updThread (hc : s.Canonical) {t f} : (s.updThread t f).Canonical :=
  hc.setThread

theorem State.Canonical.setCore (hc : s.Canonical) {k x} : (s.setCore k x).Canonical :=
  hc.frame

theorem State.Canonical.updCore (hc : s.Canonical) {k f} : (s.updCore k f).Canonical :=
  hc.setCore

theorem State.Canonical.setCluster (hc : s.Canonical) {c x} : (s.setCluster c x).Canonical :=
  hc.frame

theorem State.Canonical.updCluster (hc : s.Canonical) {c f} : (s.updCluster c f).Canonical :=
  hc.setCluster

theorem State.Canonical.updEngine (hc : s.Canonical) {g f} : (s.updEngine g f).Canonical :=
  hc.frame

theorem State.Canonical.updFunc (hc : s.Canonical) {f u} : (s.updFunc f u).Canonical :=
  hc.frame

theorem State.Canonical.updCp (hc : s.Canonical) {p u} : (s.updCp p u).Canonical :=
  hc.frame

theorem State.Canonical.updDir (hc : s.Canonical) {line u} : (s.updDir line u).Canonical :=
  hc.frame

theorem State.Canonical.setSlice (hc : s.Canonical) {line x} : (s.setSlice line x).Canonical :=
  hc.frame

theorem State.Canonical.updLaunch (hc : s.Canonical) {n u} : (s.updLaunch n u).Canonical :=
  hc.frame

theorem State.Canonical.updMe (hc : s.Canonical) {f} : (s.updMe f).Canonical :=
  hc.updThread

theorem State.Canonical.setByte (hc : s.Canonical) {loc b} : (s.setByte loc b).Canonical := s.setByte_memOk _ _ hc
theorem State.Canonical.write (hc : s.Canonical) {loc n v} : (s.write loc n v).Canonical := s.write_memOk _ _ _ hc
theorem State.Canonical.writeWords (hc : s.Canonical) {loc ws} : (s.writeWords loc ws).Canonical := s.writeWords_memOk ws _ hc
theorem State.Canonical.writeLine (hc : s.Canonical) {line mask data} : (s.writeLine line mask data).Canonical :=
  s.writeLine_memOk _ _ _ hc
theorem State.Canonical.clearRange (hc : s.Canonical) {lo n} : (s.clearRange lo n).Canonical := s.clearRange_memOk _ _ hc

theorem State.Canonical.writeWord (hc : s.Canonical) {loc w} : (s.writeWord loc w).Canonical :=
  hc.write

theorem State.Canonical.draw (hc : s.Canonical) : s.draw.2.Canonical := hc.frame

theorem State.Canonical.updThreads (hc : s.Canonical) {f ts} : (s.updThreads f ts).Canonical := by
  induction ts generalizing s with
  | nil => exact hc
  | cons t ts ih => exact ih hc.updThread

theorem State.Canonical.spill (hc : s.Canonical) {k vec id} : (s.spill k vec id).Canonical :=
  hc.updThreads

theorem State.Canonical.makeRoom (hc : s.Canonical) {t vec} : (s.makeRoom t vec).Canonical := by
  unfold State.makeRoom
  refine .ite hc ?_
  dsimp only
  split
  · exact hc
  · exact hc.spill

theorem State.Canonical.setS (hc : s.Canonical) {t r v taint} : (s.setS t r v taint).Canonical :=
  .ite hc hc.updThread.makeRoom.updCore.updThread

theorem State.Canonical.setV (hc : s.Canonical) {t r v taint} : (s.setV t r v taint).Canonical :=
  hc.updThread.makeRoom.updCore.updThread

theorem State.Canonical.setK (hc : s.Canonical) {t r v taint} : (s.setK t r v taint).Canonical :=
  .ite hc hc.updThread

theorem State.Canonical.consume (hc : s.Canonical) {t os} : (s.consume t os).Canonical :=
  hc.updThread

theorem State.Canonical.unmap (hc : s.Canonical) {t rs} : (s.unmap t rs).Canonical :=
  hc.updThread

theorem State.Canonical.refill (hc : s.Canonical) {t vec r} : (s.refill t vec r).Canonical :=
  hc.makeRoom.updCore.updThread

theorem State.Canonical.stop (hc : s.Canonical) {t r} : (s.stop t r).Canonical :=
  hc.updThread.updCore

theorem State.Canonical.wake (hc : s.Canonical) {t} : (s.wake t).Canonical :=
  .ite hc.stop hc.updThread.updCore

theorem State.Canonical.requeue (hc : s.Canonical) {t} : (s.requeue t).Canonical :=
  .ite hc.updCore hc

theorem State.Canonical.tie (hc : s.Canonical) {k rank} : (s.tie k rank).Canonical :=
  hc.frame

theorem State.Canonical.noticeTo (hc : s.Canonical) {f kind level fn launch w1 w2 w3} :
    (s.noticeTo f kind level fn launch w1 w2 w3).Canonical :=
  .ite hc (.ite hc.updFunc hc.writeWords.writeWord.updFunc)

theorem State.Canonical.notice (hc : s.Canonical) {kind level fn launch w1 w2 w3} : (s.notice kind level fn launch w1 w2 w3).Canonical :=
  .ite hc.noticeTo hc.noticeTo.noticeTo

theorem State.Canonical.debugStop (hc : s.Canonical) {t r} : (s.debugStop t r).Canonical :=
  hc.updThread.stop

theorem State.Canonical.trapEntry (hc : s.Canonical) {t r} : (s.trapEntry t r).Canonical :=
  .ite hc.setThread.stop.notice hc.setThread.wake

theorem State.Canonical.trapReturn (hc : s.Canonical) {t} : (s.trapReturn t).Canonical :=
  hc.updThread

theorem State.Canonical.stopTsc (hc : s.Canonical) {cl pc} : (s.stopTsc cl pc).Canonical :=
  hc.stop.updCluster.notice

theorem State.Canonical.progress (hc : s.Canonical) {n} : (s.progress n).Canonical :=
  hc.updLaunch

theorem State.Canonical.drainRsb (hc : s.Canonical) {t} : (s.drainRsb t).Canonical :=
  hc.frame.setThread

theorem State.Canonical.overflowDrain (hc : s.Canonical) {t} : (s.overflowDrain t).Canonical :=
  hc.drainRsb.updThread

theorem State.Canonical.retire (hc : s.Canonical) {len} : (s.retire len).Canonical :=
  hc.updMe.updCore

theorem State.Canonical.retireTo (hc : s.Canonical) {target} : (s.retireTo target).Canonical :=
  hc.updMe.updCore

/-! ### The home side of the ordering machine -/

theorem State.Canonical.sendInvs (hc : s.Canonical) {h line cs} : (s.sendInvs h line cs).Canonical :=
  hc.frame.updDir

theorem State.Canonical.recallLine (hc : s.Canonical) {line} : (s.recallLine line).Canonical :=
  .ite hc hc.sendInvs.updDir

theorem State.Canonical.growOver (hc : s.Canonical) {cl} : (s.growOver cl).Canonical :=
  .ite hc.updCluster hc

theorem State.Canonical.dropSlice (hc : s.Canonical) {line} : (s.dropSlice line).Canonical := by
  unfold State.dropSlice
  split
  · exact hc
  · exact hc.recallLine.setSlice.updCluster.growOver

theorem State.Canonical.cleanSlice (hc : s.Canonical) {line} : (s.cleanSlice line).Canonical := by
  unfold State.cleanSlice
  split
  · exact .ite hc.setSlice.updCluster hc
  · exact hc

theorem State.Canonical.installSlice (hc : s.Canonical) {line way pair} : (s.installSlice line way pair).Canonical :=
  hc.setSlice.updCluster

theorem State.Canonical.allocSlice (hc : s.Canonical) {line pair} : (s.allocSlice line pair).Canonical := by
  unfold State.allocSlice
  dsimp only
  split
  · exact hc.installSlice
  · refine .ite hc ?_
    split
    · exact hc.frame.dropSlice.installSlice
    · exact hc.frame

theorem State.Canonical.touchSlice (hc : s.Canonical) {line alloc pair} : (s.touchSlice line alloc pair).Canonical := by
  unfold State.touchSlice
  split
  · exact .ite (.ite hc.dropSlice.allocSlice hc.dropSlice) hc
  · exact .ite hc.allocSlice hc

theorem State.Canonical.dirtySlice (hc : s.Canonical) {line} : (s.dirtySlice line).Canonical := by
  unfold State.dirtySlice
  split
  · exact .ite hc hc.setSlice
  · exact hc

theorem State.Canonical.dirRoom (hc : s.Canonical) {line} : (s.dirRoom line).Canonical := by
  unfold State.dirRoom
  refine .ite hc ?_
  split
  · exact hc.recallLine
  · exact hc

theorem State.Canonical.share (hc : s.Canonical) {h line c} : (s.share h line c).Canonical := by
  unfold State.share
  refine .ite hc ?_
  refine .ite ?_ hc.updDir
  refine .updDir ?_
  split
  · exact hc.dirRoom
  · exact hc

theorem State.Canonical.await (hc : s.Canonical) {line r} : (s.await line r).Canonical :=
  .ite hc hc.updDir

theorem State.Canonical.writeHome (hc : s.Canonical) {h line mask data alloc pair keep} :
    (s.writeHome h line mask data alloc pair keep).Canonical := by
  unfold State.writeHome
  refine .ite ?_ ?_
  · refine .writeLine ?_
    split
    · exact hc.touchSlice.dirtySlice
    · exact hc
  · refine .updDir ?_
    refine .sendInvs ?_
    refine .writeLine ?_
    split
    · exact hc.touchSlice.dirtySlice
    · exact hc

theorem State.Canonical.outsideWrite (hc : s.Canonical) {line mask data} : (s.outsideWrite line mask data).Canonical :=
  hc.writeHome

theorem State.Canonical.outsideBytes (hc : s.Canonical) {loc n v} : (s.outsideBytes loc n v).Canonical := by
  induction n generalizing s loc v with
  | zero => exact hc
  | succ n ih => exact ih hc.outsideWrite

theorem State.Canonical.outsideWords (hc : s.Canonical) {loc ws} : (s.outsideWords loc ws).Canonical := by
  induction ws generalizing s loc with
  | nil => exact hc
  | cons w ws ih => exact ih hc.outsideWrite

theorem State.Canonical.dropReq (hc : s.Canonical) {r} : (s.dropReq r).Canonical :=
  hc.frame

theorem State.Canonical.send (hc : s.Canonical) {m} : (s.send m).Canonical :=
  hc.frame

theorem State.Canonical.performLoadReq (hc : s.Canonical) {r n} : (s.performLoadReq r n).Canonical := by
  unfold State.performLoadReq
  refine .send ?_
  refine .await ?_
  split
  · refine .ite ?_ ?_
    · refine .share ?_
      split
      · exact hc.touchSlice
      · exact hc
    · split
      · exact hc.touchSlice
      · exact hc
  · split
    · exact hc.touchSlice
    · exact hc

theorem State.Canonical.performStoreReq (hc : s.Canonical) {r mask data} : (s.performStoreReq r mask data).Canonical :=
  hc.writeHome.await.send

theorem State.Canonical.performAtomicReq (hc : s.Canonical) {r op dbl y expected mc} :
    (s.performAtomicReq r op dbl y expected mc).Canonical := by
  unfold State.performAtomicReq
  dsimp only
  split
  · refine .send ?_
    refine .await ?_
    split
    · exact hc.touchSlice
    · exact hc
  · exact hc.writeHome.await.send

theorem State.Canonical.flipDone (hc : s.Canonical) {r} : (s.flipDone r).Canonical :=
  .ite hc hc.frame

theorem State.Canonical.touchBank (hc : s.Canonical) {k loc} : (s.touchBank k loc).Canonical := by
  unfold State.touchBank
  split
  · exact .ite hc hc.updCore
  · exact hc

theorem State.Canonical.homeTouch (hc : s.Canonical) {p w} : (s.homeTouch p w).Canonical := by
  unfold State.homeTouch
  split
  · exact hc.touchBank
  · exact hc.updCluster
  · exact hc

theorem State.Canonical.want (hc : s.Canonical) {k loc} : (s.want k loc).Canonical :=
  hc.updCore

theorem State.Canonical.homePrepare (hc : s.Canonical) {p st} : (s.homePrepare p st).Canonical := by
  unfold State.homePrepare
  split
  · exact hc.want
  · exact .ite hc.updCluster hc
  · exact hc

theorem State.Canonical.failTsc (hc : s.Canonical) {r host} : (s.failTsc r host).Canonical := by
  unfold State.failTsc
  refine .send ?_
  split
  · exact hc.updCluster
  · exact hc

theorem State.Canonical.holdAtHome (hc : s.Canonical) {r} : (s.holdAtHome r).Canonical := by
  unfold State.holdAtHome
  split
  · exact .ite hc.stop hc
  · exact .ite hc.stop hc
  · exact hc

theorem State.Canonical.performHead (hc : s.Canonical) {src h pick} : (s.performHead src h pick).Canonical := by
  unfold State.performHead
  split
  · exact hc
  · refine .ite hc ?_
    refine .ite hc ?_
    refine .ite hc.homePrepare.holdAtHome ?_
    dsimp only
    split
    · exact hc.dropReq.flipDone.failTsc
    · split
      · exact hc.dropReq.flipDone.homeTouch.performLoadReq
      · exact hc.dropReq.flipDone.homeTouch.performStoreReq
      · exact hc.dropReq.flipDone.homeTouch.performAtomicReq
      · exact hc

/-! ### The tile table and the hearth -/

theorem State.Canonical.setTile (hc : s.Canonical) {k e x} : (s.setTile k e x).Canonical :=
  hc.updCore

theorem State.Canonical.updTile (hc : s.Canonical) {k e f} : (s.updTile k e f).Canonical :=
  hc.setTile

theorem State.Canonical.hearthTile (hc : s.Canonical) {k cs add} : (s.hearthTile k cs add).Canonical :=
  hc.updCluster

theorem State.Canonical.enterQueue (hc : s.Canonical) {id} : (s.enterQueue id).Canonical :=
  hc.frame

theorem State.Canonical.turnOver (hc : s.Canonical) {k} : (s.turnOver k).Canonical :=
  .ite hc hc.updCore

theorem State.Canonical.seqMode (hc : s.Canonical) {k} : (s.seqMode k).Canonical :=
  .ite hc.updCore hc

theorem State.Canonical.tileEvent (hc : s.Canonical) {k e} : (s.tileEvent k e).Canonical := by
  unfold State.tileEvent
  have started : ∀ {contribs x}, ((s.hearthTile k contribs false).setTile k e x).Canonical := hc.hearthTile.setTile
  refine .ite hc ?_
  split
  · exact hc
  all_goals dsimp only
  · split
    · exact started.enterQueue
    · exact .ite started.updCore started
  · split
    · exact started.enterQueue
    · exact .ite started.updCore started
  · exact started

theorem State.Canonical.tileConsumed (hc : s.Canonical) {k e} : (s.tileConsumed k e).Canonical :=
  hc.updTile.tileEvent

theorem State.Canonical.tileRelease (hc : s.Canonical) {k e} : (s.tileRelease k e).Canonical := by
  unfold State.tileRelease
  dsimp only
  split
  · exact .ite hc.setTile hc.setTile
  · exact .ite hc.setTile.tileEvent hc.setTile
  · exact hc.setTile

theorem State.Canonical.tileEnd (hc : s.Canonical) {k e done contribs} : (s.tileEnd k e done contribs).Canonical :=
  .ite (State.Canonical.ite hc.hearthTile hc).setTile.tileRelease (State.Canonical.ite hc.hearthTile hc).setTile

theorem State.Canonical.dropHandle (hc : s.Canonical) {k e} : (s.dropHandle k e).Canonical :=
  .ite hc.updTile.tileRelease hc.updTile

theorem State.Canonical.dropHandles (hc : s.Canonical) {k hs} : (s.dropHandles k hs).Canonical := by
  unfold State.dropHandles
  refine hc.foldl fun _ _ h1 => ?_
  split
  · exact h1.dropHandle
  · exact h1

theorem State.Canonical.dropTcons (hc : s.Canonical) {t} : (s.dropTcons t).Canonical :=
  .ite hc (hc.updThread.foldl fun _ _ h1 => h1.tileConsumed)

theorem State.Canonical.giveUpAccs (hc : s.Canonical) {t} : (s.giveUpAccs t).Canonical :=
  .ite hc.setCore hc

theorem State.Canonical.tileWithdraw (hc : s.Canonical) {k e n} : (s.tileWithdraw k e n).Canonical := by
  unfold State.tileWithdraw
  split
  · exact hc.updTile.tileEvent
  · exact hc

theorem State.Canonical.withdrawMmac (hc : s.Canonical) {a} : (s.withdrawMmac a).Canonical :=
  hc.tileWithdraw.tileWithdraw

theorem State.Canonical.leaveMmac (hc : s.Canonical) {t} : (s.leaveMmac t).Canonical := by
  unfold State.leaveMmac
  dsimp only
  split
  · exact hc.updCluster.withdrawMmac
  · exact hc

theorem State.Canonical.mmacDone (hc : s.Canonical) {cl launch g} : (s.mmacDone cl launch g).Canonical :=
  .ite hc (hc.updCluster.foldl fun _ _ h1 => h1.updThread.wake)

theorem State.Canonical.mmacLeave (hc : s.Canonical) {k launch g} : (s.mmacLeave k launch g).Canonical := by
  unfold State.mmacLeave
  dsimp only
  split
  · exact hc.tileConsumed.tileConsumed.mmacDone
  · exact hc

theorem State.Canonical.dropMstore (hc : s.Canonical) {k e} : (s.dropMstore k e).Canonical :=
  .ite (.ite hc.setTile.tileRelease hc.setTile) hc.tileEnd

theorem State.Canonical.dropJobs (hc : s.Canonical) {t} : (s.dropJobs t).Canonical := by
  unfold State.dropJobs
  refine .ite hc ?_
  refine hc.updCore.updCluster.turnOver.foldl fun _ _ h1 => ?_
  split
  · exact h1.tileConsumed.tileConsumed
  · exact h1.tileConsumed
  · exact h1.dropMstore
  · exact h1.mmacLeave

/-! ### Threads, launches and the quench ladder -/

theorem State.Canonical.cpIllegal (hc : s.Canonical) {p} : (s.cpIllegal p).Canonical :=
  hc.frame.updCp

theorem State.Canonical.asMachine (hc : s.Canonical) {p go} (hgo : Outcome.Canonical go) : Outcome.Canonical (s.asMachine p go) :=
  .ite (.next hc.cpIllegal) hgo

theorem State.Canonical.chosenCp (hc : s.Canonical) : s.chosenCp.2.Canonical := hc.frame

theorem State.Canonical.writePhys (hc : s.Canonical) {bs} : (s.writePhys bs).Canonical := by
  induction bs generalizing s with
  | nil => exact hc
  | cons b bs ih => exact ih hc.outsideWrite

theorem State.Canonical.laterGo (hc : s.Canonical) {held xs} : (s.laterGo held xs).Canonical := by
  induction xs generalizing s held with
  | nil => exact hc
  | cons x xs ih =>
    unfold State.laterGo
    refine .ite (ih hc.frame) ?_
    split
    · exact ih hc
    · exact ih hc.frame
    · exact ih hc.updCp
    · exact .ite (ih hc.writePhys) (ih hc.writePhys.frame)

theorem State.Canonical.runLater (hc : s.Canonical) : (s.runLater).Canonical :=
  .ite hc hc.frame.laterGo

theorem State.Canonical.defer (hc : s.Canonical) {xs} : (s.defer xs).Canonical :=
  hc.frame.runLater

theorem State.Canonical.cpRecord (hc : s.Canonical) {asid va w0 rest} : IfAny (s.cpRecord asid va w0 rest) := by
  unfold State.cpRecord
  split
  · exact .some hc.defer
  · exact .none

theorem State.Canonical.writeCpl (hc : s.Canonical) {fn n op asid cpl tag stat reason tasks nrun nabort} :
    (s.writeCpl fn n op asid cpl tag stat reason tasks nrun nabort).Canonical := by
  unfold State.writeCpl
  refine .ite hc ?_
  dsimp only
  split
  · next u e => exact hc.cpRecord u e
  · exact hc.notice

theorem State.Canonical.updQueue (hc : s.Canonical) {fn q f} : (s.updQueue fn q f).Canonical :=
  hc.updFunc

theorem State.Canonical.updGslot (hc : s.Canonical) {fn i f} : (s.updGslot fn i f).Canonical :=
  hc.updFunc

theorem State.Canonical.completeEntry (hc : s.Canonical) {fn q n a asid stat reason tasks nrun nabort} :
    (s.completeEntry fn q n a asid stat reason tasks nrun nabort).Canonical :=
  hc.updQueue.writeCpl

theorem State.Canonical.targetDone (hc : s.Canonical) {fn hit} : (s.targetDone fn hit).Canonical := by
  unfold State.targetDone
  refine hc.foldl fun _ _ h1 => ?_
  refine h1.foldl fun _ _ h2 => ?_
  refine .ite h2 ?_
  split
  · exact h2
  · exact .ite h2.completeEntry h2.updQueue

theorem State.Canonical.slotFree (hc : s.Canonical) {fn i} : (s.slotFree fn i).Canonical :=
  .ite hc (hc.foldl fun _ _ h1 => h1.foldl fun _ _ h2 => .ite h2.updGslot.completeEntry h2)

theorem State.Canonical.replayOver (hc : s.Canonical) {fn i b} : (s.replayOver fn i b).Canonical := by
  unfold State.replayOver
  split
  · exact hc
  · refine .ite hc ?_
    refine .slotFree ?_
    refine .targetDone ?_
    split
    · exact hc.updGslot.completeEntry
    · exact hc.updGslot

theorem State.Canonical.nodeDone (hc : s.Canonical) {fn i b n nrun nabort} : (s.nodeDone fn i b n nrun nabort).Canonical := by
  unfold State.nodeDone
  split
  · exact hc
  · exact hc.updGslot.updQueue.replayOver

theorem State.Canonical.close (hc : s.Canonical) {c} : (s.close c).Canonical := by
  unfold State.close
  split
  · exact hc.updQueue.targetDone
  · exact hc.nodeDone

theorem State.Canonical.closeAfter (hc : s.Canonical) {c record} : (s.closeAfter c record).Canonical := by
  unfold State.closeAfter
  split
  · exact .ite hc.frame hc.close
  · exact hc.close

theorem State.Canonical.runClosed (hc : s.Canonical) : (s.runClosed).Canonical :=
  .ite hc (hc.frame.foldl fun _ _ h1 => h1.close)

theorem State.Canonical.endLaunch (hc : s.Canonical) {n stat} : (s.endLaunch n stat).Canonical := by
  unfold State.endLaunch
  split
  · exact hc
  · split
    · split
      · exact (hc.frame.foldl fun _ _ h1 => h1.foldl fun _ _ h2 => .ite h2.updTile.tileRelease h2).writeCpl.closeAfter
      · exact (hc.frame.foldl fun _ _ h1 => h1.foldl fun _ _ h2 => .ite h2.updTile.tileRelease h2).close
    · exact (hc.frame.foldl fun _ _ h1 => h1.foldl fun _ _ h2 => .ite h2.updTile.tileRelease h2).writeCpl.closeAfter

theorem State.Canonical.endIfOver (hc : s.Canonical) {n} : (s.endIfOver n).Canonical := by
  unfold State.endIfOver
  split
  · exact hc
  · exact .ite hc.endLaunch hc

theorem State.Canonical.report (hc : s.Canonical) {t results} : (s.report t results).Canonical := by
  unfold State.report
  dsimp only
  split
  · exact hc
  · refine .ite hc.updLaunch ?_
    split
    · exact hc.updLaunch.defer
    · exact hc.updLaunch

theorem State.Canonical.unmapAt (hc : s.Canonical) {t rs} : (s.unmapAt t rs).Canonical :=
  hc.foldl fun _ _ h1 => h1.unmap.updThread

theorem State.Canonical.releaseBarrier (hc : s.Canonical) {as a} : (s.releaseBarrier as a).Canonical :=
  .ite (State.Canonical.ite hc.unmapAt hc.unmapAt.setS.updThread).updThread (State.Canonical.ite hc.unmapAt
    hc.unmapAt.setS.updThread).updThread.wake

theorem State.Canonical.checkBarrier (hc : s.Canonical) {cl launch group} : (s.checkBarrier cl launch group).Canonical :=
  .ite hc (hc.updCluster.foldl fun _ _ h1 => h1.releaseBarrier)

theorem State.Canonical.checkBarriers (hc : s.Canonical) {launch} : (s.checkBarriers launch).Canonical :=
  hc.foldl fun _ _ h1 => h1.foldl fun _ _ h2 => h2.checkBarrier

theorem State.Canonical.withdraw (hc : s.Canonical) {t} : (s.withdraw t).Canonical :=
  hc.frame.updCore

theorem State.Canonical.endThread (hc : s.Canonical) {t} : (s.endThread t).Canonical :=
  (hc.leaveMmac.dropJobs.withdraw.dropTcons.dropHandles.foldl fun _ _ h1 =>
    h1.dropHandles).giveUpAccs.updCore.updThread.checkBarriers.endIfOver

theorem State.Canonical.abortThread (hc : s.Canonical) {t} : (s.abortThread t).Canonical :=
  (State.Canonical.ite hc.updLaunch hc).endThread

theorem State.Canonical.startThread (hc : s.Canonical) {t x pc} : (s.startThread t x pc).Canonical :=
  hc.setThread.updCore

theorem State.Canonical.startChild (hc : s.Canonical) {parent t c} : (s.startChild parent t c).Canonical :=
  hc.startThread

theorem State.Canonical.trace (hc : s.Canonical) {cl e} : (s.trace cl e).Canonical :=
  hc.updCluster

theorem State.Canonical.intoDeque (hc : s.Canonical) {j r} : IfAny (s.intoDeque j r) := by
  unfold State.intoDeque
  exact .ite (.some hc.updCore) (.ite (.some hc.updCluster) .none)

theorem State.Canonical.fromPool (hc : s.Canonical) {j} : (s.fromPool j).Canonical := by
  unfold State.fromPool
  dsimp only
  split
  · exact .ite hc.updCluster.updCore hc
  · exact hc

theorem State.Canonical.push (hc : s.Canonical) {cl k r arrived} : IfAny (s.push cl k r arrived) := by
  unfold State.push
  dsimp only
  split
  · exact IfAny.some (hc.tie.updCluster.trace)
  · exact .map hc.tie.intoDeque fun _ h1 => h1.trace

theorem State.Canonical.placeChildren (hc : s.Canonical) {t cs} : (s.placeChildren t cs).Canonical := by
  induction cs generalizing s with
  | nil => exact hc.updThread
  | cons c cs ih =>
    unfold State.placeChildren
    dsimp only
    split
    · exact ih hc.startChild
    · split
      · next u e => exact ih (hc.push u e).dropHandles
      · exact hc.updThread

theorem State.Canonical.releaseChildren (hc : s.Canonical) {t} : (s.releaseChildren t).Canonical :=
  .ite hc hc.updThread.placeChildren

theorem State.Canonical.commitPoint (hc : s.Canonical) {t pc} : (s.commitPoint t pc).Canonical :=
  hc.drainRsb.updThread.releaseChildren.dropTcons.progress

theorem State.Canonical.abortRegion (hc : s.Canonical) {t} : (s.abortRegion t).Canonical :=
  (hc.dropTcons.foldl fun _ _ h1 => h1.dropHandles).updThread

theorem State.Canonical.quenchLaunch (hc : s.Canonical) {n} : (s.quenchLaunch n).Canonical := by
  unfold State.quenchLaunch
  extract_lets s1 held s2 s3 mine s4
  have h2 : s2.Canonical := hc.frame
  have h3 : s3.Canonical := (h2.foldl fun _ _ h => h.abortThread).updLaunch
  have h4 : s4.Canonical := h3.frame
  exact h4.endLaunch.tie

theorem State.Canonical.endContexts (hc : s.Canonical) {n ts} : (s.endContexts n ts).Canonical :=
  .ite ((hc.updLaunch.foldl fun _ _ h1 => h1.withdraw).foldl fun _ _ h1 => h1.abortThread).endIfOver ((hc.updLaunch.foldl fun _ _ h1 =>
    h1.withdraw).foldl fun _ _ h1 => h1.abortThread).endIfOver.updLaunch

theorem State.Canonical.quenchCluster (hc : s.Canonical) {cl reason fn launch} : (s.quenchCluster cl reason fn launch).Canonical := by
  unfold State.quenchCluster
  extract_lets owners s1 mine leaving s1' s2 s3 s4
  have h1 : s1.Canonical := hc.foldl fun _ _ h => h.quenchLaunch
  have h1' : s1'.Canonical := h1.foldl fun _ _ h => h.dropSlice
  have h2 : s2.Canonical := h1'.setSlices
  have h3 : s3.Canonical := h2.foldl fun _ _ h => h.updCore.clearRange.clearRange
  have h4 : s4.Canonical := h3.updCluster.clearRange
  exact h4.setService.notice

theorem State.Canonical.loseSlices (hc : s.Canonical) : (s.loseSlices).Canonical := by
  unfold State.loseSlices
  refine State.Canonical.frame ?_ rfl
  refine hc.foldl fun _ _ h1 => ?_
  split
  · exact .ite h1.writeLine h1
  · exact h1

theorem State.Canonical.quenchDevice (hc : s.Canonical) {reason fn launch} : (s.quenchDevice reason fn launch).Canonical :=
  (hc.loseSlices.foldl fun _ _ h1 => h1.quenchLaunch).clearRange.clearRange.frame.notice

theorem State.Canonical.wantFor (hc : s.Canonical) {w} : (s.wantFor w).Canonical := by
  unfold State.wantFor
  split
  · exact hc.updCore
  · exact hc

theorem canonical_settle (hc : s.Canonical) {r} (hr : Ends State.Canonical r) : Outcome.Canonical (settle s r) := by
  unfold settle
  split
  · exact .next hr
  · exact .next hr
  · exact .next hc.wantFor.stop
  · exact .ite (.next hc.stopTsc.quenchCluster) (.ite (.next hc.debugStop) (.next hc.trapEntry))

/-! ### Accumulators and cluster memory -/

theorem State.Canonical.updAcc (hc : s.Canonical) {k one f} : (s.updAcc k one f).Canonical :=
  hc.updCore

theorem State.Canonical.ownable (_ : s.Canonical) {one} : Ends (fun _ => True) (s.ownable one) := by
  unfold State.ownable
  split
  · exact .done
  · exact .ite .done .waitFor

theorem State.Canonical.takeAcc (hc : s.Canonical) {t one} : (s.takeAcc t one).Canonical :=
  hc.updAcc

theorem State.Canonical.energyTrap (_ : s.Canonical) : Ends (fun _ => True) (s.energyTrap) :=
  .ite .trap .done

theorem State.Canonical.energyWait (_ : s.Canonical) : Ends (fun _ => True) (s.energyWait) :=
  .ite .waitFor .done

theorem State.Canonical.debit (hc : s.Canonical) {t n} : (s.debit t n).Canonical :=
  hc.updThread

theorem State.Canonical.notShrunk (_ : s.Canonical) {k x} : Ends (fun _ => True) (s.notShrunk k x) :=
  .ite .localFault .done

theorem State.Canonical.wantRanges (hc : s.Canonical) {k rs} : (s.wantRanges k rs).Canonical :=
  hc.foldl fun _ _ h1 => .ite h1 h1.want

theorem State.Canonical.touchRanges (hc : s.Canonical) {k rs} : (s.touchRanges k rs).Canonical :=
  hc.foldl fun _ _ h1 => h1.touchBank

theorem State.Canonical.jobWaits (hc : s.Canonical) {k j r} : (s.jobWaits k j r).Canonical :=
  hc.updCore

theorem State.Canonical.writeInBlock (hc : s.Canonical) {cl loc bs blk} : (s.writeInBlock cl loc bs blk).Canonical :=
  hc.write

theorem State.Canonical.writeTile (hc : s.Canonical) {k a off bs} : (s.writeTile k a off bs).Canonical :=
  .ite hc.write.touchRanges hc

/-! ### What comes before an issue step -/

theorem State.Canonical.enterInstr (_ : s.Canonical) {p u} : Ends (fun _ => True) (s.enterInstr p u) := by
  unfold State.enterInstr
  refine .ite .illegal ?_
  refine .ite (.ite .done .illegal) ?_
  split
  · exact .done
  · exact .illegal

theorem State.Canonical.reads (hc : s.Canonical) {os} : (s.reads os).Canonical :=
  hc.consume

theorem State.Canonical.refilled (_ : s.Canonical) {os} : Ends (fun _ => True) (s.refilled os) := by
  unfold State.refilled
  split
  · exact .waitFor
  · exact .done

theorem State.Canonical.untainted (_ : s.Canonical) {os} : Ends (fun _ => True) (s.untainted os) :=
  .ite .done .waitFor

theorem State.Canonical.putS (hc : s.Canonical) {os d v len} : (s.putS os d v len).Canonical :=
  hc.consume.setS.retire

theorem State.Canonical.putV (hc : s.Canonical) {os d v taint len} : (s.putV os d v taint len).Canonical :=
  hc.consume.setV.retire

theorem State.Canonical.putK (hc : s.Canonical) {os d v len} : (s.putK os d v len).Canonical :=
  hc.consume.setK.retire

theorem State.Canonical.longLatency (hc : s.Canonical) {n} : (s.longLatency n).Canonical :=
  hc.stop

theorem State.Canonical.notCancelled (hc : s.Canonical) : Ends (fun _ => True) (s.notCancelled) :=
  .ite (.goto hc.abortThread) .done

theorem State.Canonical.holdPush (hc : s.Canonical) : (s.holdPush).Canonical :=
  .ite hc hc.stop

/-! ### Scalar instructions -/

theorem canonical_scalarOp (hc : s.Canonical) {os d v} : Outcome.Canonical (scalarOp s os d v) :=
  canonical_settle hc (.bind hc.enterInstr fun _ _ => .bind hc.refilled fun _ _ => .ok hc.putS)

theorem canonical_scalarLongOp (hc : s.Canonical) {os d v n} : Outcome.Canonical (scalarLongOp s os d v n) :=
  canonical_settle hc (.bind hc.enterInstr fun _ _ => .bind hc.refilled fun _ _ => .ok hc.putS.longLatency)

/-! ### Control transfer -/

theorem State.Canonical.transfer (hc : s.Canonical) {os t link} : Ends State.Canonical (s.transfer os t link) :=
  .ite .localFault (.ite .alignTrap (.ok hc.consume.setS.retireTo))

theorem canonical_branch (hc : s.Canonical) {i b a taken} : Outcome.Canonical (branch s i b a taken) :=
  canonical_settle hc (.bind hc.enterInstr fun _ _ => .bind hc.refilled fun _ _ => .ite hc.transfer (.ok hc.consume.retire))

theorem canonical_jump (hc : s.Canonical) {os t link} : Outcome.Canonical (jump s os t link) :=
  canonical_settle hc (.bind hc.enterInstr fun _ _ => .bind hc.refilled fun _ _ => hc.transfer)

/-! ### Scalar floating point -/

theorem ends_scalarFp (hc : s.Canonical) {os d f} : Ends State.Canonical (scalarFp s os d f) :=
  .bind hc.enterInstr fun _ _ => .bind hc.refilled fun _ _ => .ok hc.updMe.putS

theorem canonical_execFadd (hc : s.Canonical) {m n b a d} : Outcome.Canonical (execFadd m n b a d s) :=
  canonical_settle hc (ends_scalarFp hc)

theorem canonical_execFsub (hc : s.Canonical) {m n b a d} : Outcome.Canonical (execFsub m n b a d s) :=
  canonical_settle hc (ends_scalarFp hc)

theorem canonical_execFmul (hc : s.Canonical) {m n b a d} : Outcome.Canonical (execFmul m n b a d s) :=
  canonical_settle hc (ends_scalarFp hc)

theorem canonical_execFma (hc : s.Canonical) {m n b a d} : Outcome.Canonical (execFma m n b a d s) :=
  canonical_settle hc (ends_scalarFp hc)

theorem canonical_execFdiv (hc : s.Canonical) {m n b a d} : Outcome.Canonical (execFdiv m n b a d s) :=
  canonical_settle hc (.bind (ends_scalarFp hc) fun _ h1 => .ok h1.longLatency)

theorem canonical_execFcmp (hc : s.Canonical) {m n b a d} : Outcome.Canonical (execFcmp m n b a d s) :=
  canonical_settle hc (ends_scalarFp hc)

theorem canonical_execFcvtif (hc : s.Canonical) {n a d} : Outcome.Canonical (execFcvtif n a d s) :=
  canonical_settle hc (ends_scalarFp hc)

theorem canonical_execFcvtfi (hc : s.Canonical) {n a d} : Outcome.Canonical (execFcvtfi n a d s) :=
  canonical_settle hc (ends_scalarFp hc)

/-! ### Integer lane operations -/

theorem canonical_laneOp (hc : s.Canonical) {srcs k d readsD len f} : Outcome.Canonical (laneOp s srcs k d readsD len f) :=
  canonical_settle hc (.bind hc.enterInstr fun _ _ => .bind hc.refilled fun _ _ => .ok hc.putV)

theorem canonical_vintOp (hc : s.Canonical) {n sc k b a d op} : Outcome.Canonical (vintOp s n sc k b a d op) :=
  canonical_laneOp hc

theorem canonical_vintImm (hc : s.Canonical) {n y k a d op} : Outcome.Canonical (vintImm s n y k a d op) :=
  canonical_laneOp hc

theorem canonical_vint16 (hc : s.Canonical) {m b d op} : Outcome.Canonical (vint16 s m b d op) :=
  canonical_laneOp hc

theorem canonical_execNop (hc : s.Canonical) : Outcome.Canonical (execNop s) :=
  canonical_settle hc (.bind hc.enterInstr fun _ _ => .ok hc.retire)

/-! ### Floating-point lane operations -/

theorem ends_vfpBody (hc : s.Canonical) {u srcs k d readsD len f} : Ends State.Canonical (vfpBody s u srcs k d readsD len f) :=
  .bind hc.enterInstr fun _ _ => .bind hc.refilled fun _ _ => .ok hc.updMe.putV

theorem canonical_execVfadd (hc : s.Canonical) {n sc k b a d} : Outcome.Canonical (execVfadd n sc k b a d s) :=
  canonical_settle hc (ends_vfpBody hc)

theorem canonical_execVfsub (hc : s.Canonical) {n sc k b a d} : Outcome.Canonical (execVfsub n sc k b a d s) :=
  canonical_settle hc (ends_vfpBody hc)

theorem canonical_execVfmul (hc : s.Canonical) {n sc k b a d} : Outcome.Canonical (execVfmul n sc k b a d s) :=
  canonical_settle hc (ends_vfpBody hc)

theorem canonical_execVfmin (hc : s.Canonical) {n sc k b a d} : Outcome.Canonical (execVfmin n sc k b a d s) :=
  canonical_settle hc (ends_vfpBody hc)

theorem canonical_execVfmax (hc : s.Canonical) {n sc k b a d} : Outcome.Canonical (execVfmax n sc k b a d s) :=
  canonical_settle hc (ends_vfpBody hc)

theorem canonical_execVfma (hc : s.Canonical) {n sc k b a d} : Outcome.Canonical (execVfma n sc k b a d s) :=
  canonical_settle hc (ends_vfpBody hc)

theorem canonical_execVfdiv (hc : s.Canonical) {n sc k b a d} : Outcome.Canonical (execVfdiv n sc k b a d s) :=
  canonical_settle hc (.bind (ends_vfpBody hc) fun _ h1 => .ok h1.longLatency)

theorem canonical_execVfsqrt (hc : s.Canonical) {n k a d} : Outcome.Canonical (execVfsqrt n k a d s) :=
  canonical_settle hc (.bind (ends_vfpBody hc) fun _ h1 => .ok h1.longLatency)

theorem canonical_execVfabs (hc : s.Canonical) {n k a d} : Outcome.Canonical (execVfabs n k a d s) :=
  canonical_settle hc (ends_vfpBody hc)

theorem canonical_execVfneg (hc : s.Canonical) {n k a d} : Outcome.Canonical (execVfneg n k a d s) :=
  canonical_settle hc (ends_vfpBody hc)

theorem canonical_execVfadd16 (hc : s.Canonical) {m b d} : Outcome.Canonical (execVfadd16 m b d s) :=
  canonical_settle hc (ends_vfpBody hc)

theorem canonical_execVfsub16 (hc : s.Canonical) {m b d} : Outcome.Canonical (execVfsub16 m b d s) :=
  canonical_settle hc (ends_vfpBody hc)

theorem canonical_execVfmul16 (hc : s.Canonical) {m b d} : Outcome.Canonical (execVfmul16 m b d s) :=
  canonical_settle hc (ends_vfpBody hc)

theorem canonical_execVfmin16 (hc : s.Canonical) {m b d} : Outcome.Canonical (execVfmin16 m b d s) :=
  canonical_settle hc (ends_vfpBody hc)

theorem canonical_execVfmax16 (hc : s.Canonical) {m b d} : Outcome.Canonical (execVfmax16 m b d s) :=
  canonical_settle hc (ends_vfpBody hc)

theorem canonical_execVcvt (hc : s.Canonical) {n k a d} : Outcome.Canonical (execVcvt n k a d s) :=
  canonical_settle hc (ends_vfpBody hc)

/-! ### Masks, permutes and reductions -/

theorem canonical_maskOp (hc : s.Canonical) {srcs k d f} : Outcome.Canonical (maskOp s srcs k d f) :=
  canonical_settle hc (.bind hc.enterInstr fun _ _ => .bind hc.refilled fun _ _ => .ok hc.putK)

theorem canonical_laneScalarOp (hc : s.Canonical) {os d v} : Outcome.Canonical (laneScalarOp s os d v) :=
  canonical_settle hc (.bind hc.enterInstr fun _ _ => .bind hc.refilled fun _ _ => .ok hc.putS)

theorem canonical_allLanesOp (hc : s.Canonical) {os d f} : Outcome.Canonical (allLanesOp s os d f) :=
  canonical_settle hc (.bind hc.enterInstr fun _ _ => .bind hc.refilled fun _ _ => .ok hc.putV)

theorem canonical_foldOp (hc : s.Canonical) {n k a d e op} : Outcome.Canonical (foldOp s n k a d e op) :=
  canonical_laneScalarOp hc

/-! ### Narrow formats -/

theorem State.Canonical.writeGroup (hc : s.Canonical) {r taint n bs} : (s.writeGroup r taint n bs).Canonical := by
  induction n generalizing s r bs with
  | zero => exact hc
  | succ n ih => exact ih hc.setV

theorem ends_groupFits {r n} : Ends (fun _ => True) (groupFits r n) :=
  .ite .done .illegal

theorem State.Canonical.putGroup (hc : s.Canonical) {os d n bs} : (s.putGroup os d n bs).Canonical :=
  hc.consume.updMe.writeGroup.retire

theorem canonical_execVqnt (hc : s.Canonical) {n a d} : Outcome.Canonical (execVqnt n a d s) :=
  canonical_settle hc (.bind hc.enterInstr fun _ _ => .bind ends_groupFits fun _ _ => .bind ends_groupFits fun _ _ =>
    .bind hc.refilled fun _ _ => .ok hc.updMe.putGroup.longLatency)

theorem canonical_execVdqnt (hc : s.Canonical) {n a d} : Outcome.Canonical (execVdqnt n a d s) :=
  canonical_settle hc (.bind hc.enterInstr fun _ _ => .bind ends_groupFits fun _ _ => .bind ends_groupFits fun _ _ =>
    .bind hc.refilled fun _ _ => .ok hc.updMe.putGroup.longLatency)

theorem canonical_execVdot (hc : s.Canonical) {n b a d} : Outcome.Canonical (execVdot n b a d s) :=
  canonical_settle hc (.bind hc.enterInstr fun _ _ => .bind ends_groupFits fun _ _ => .bind ends_groupFits fun _ _ =>
    .bind hc.refilled fun _ _ => .ok hc.putV.longLatency)

/-! ### Memory accesses of a thread -/

theorem State.Canonical.checkAll (_ : s.Canonical) {xs} : Ends (fun _ => True) (s.checkAll xs) := by
  induction xs with
  | nil => exact .done
  | cons x xs ih =>
    unfold State.checkAll
    split
    · exact .trap
    · exact .map ih fun _ _ => trivial
    · exact .map ih fun _ _ => trivial

theorem State.Canonical.miss (hc : s.Canonical) {va acc} : (s.miss va acc).Canonical := by
  unfold State.miss
  dsimp only
  split
  · trivial
  · split
    · trivial
    · exact State.Canonical.stop (State.Canonical.updCluster hc.updCore)

theorem State.Canonical.translate (hc : s.Canonical) {acc va} : Ends (fun _ => True) (s.translate acc va) := by
  unfold State.translate
  split
  · exact .ite .done (.error hc.miss)
  · exact .error hc.miss

theorem State.Canonical.translateAll (hc : s.Canonical) {acc xs} : Ends (fun _ => True) (s.translateAll acc xs) := by
  induction xs with
  | nil => exact .done
  | cons x xs ih =>
    obtain ⟨x, _ | p⟩ := x
    · have hx := hc.translate (acc := acc) (va := x.addr)
      unfold State.translateAll
      split
      · exact .map ih fun _ _ => trivial
      · next e => rw [e] at hx; exact hx
    · exact .map ih fun _ _ => trivial

theorem State.Canonical.ready (hc : s.Canonical) {acc os pre ys} : Ends (fun _ => True) (s.ready acc os pre ys) :=
  .bind hc.refilled fun _ _ => .bind hc.untainted fun _ _ => hc.translateAll

theorem State.Canonical.access (hc : s.Canonical) {acc os pre xs} : Ends (fun _ => True) (s.access acc os pre xs) :=
  .bind hc.checkAll fun _ _ => hc.ready

theorem ends_Thread.needTag {x} : Ends (fun _ => True) (Thread.needTag x) := by
  unfold Thread.needTag
  split
  · exact .done
  · exact .waitFor

theorem State.Canonical.putRun (hc : s.Canonical) {t d taint vs} : (s.putRun t d taint vs).Canonical := by
  induction vs generalizing s d with
  | nil => exact hc
  | cons v vs ih => exact ih hc.setS

theorem State.Canonical.setRun (hc : s.Canonical) {t d taint vs} : (s.setRun t d taint vs).Canonical :=
  hc.updThread.putRun

theorem State.Canonical.putVRun (hc : s.Canonical) {t d taint n bs} : (s.putVRun t d taint n bs).Canonical := by
  induction n generalizing s d bs with
  | zero => exact hc
  | succ n ih => exact ih hc.setV

theorem State.Canonical.setVRun (hc : s.Canonical) {t d taint n bs} : (s.setVRun t d taint n bs).Canonical :=
  hc.updThread.putVRun

theorem State.Canonical.finishAccess (hc : s.Canonical) {t fin ps g} : (s.finishAccess t fin ps g).Canonical := by
  unfold State.finishAccess
  dsimp only
  split
  · exact hc.setS
  · exact hc.setRun
  · exact hc.setV
  · exact hc.setVRun
  · exact hc.setS.updThread
  · exact hc.setS
  · exact hc.updAcc
  · exact hc.updThread

theorem State.Canonical.startLoad (hc : s.Canonical) {t zs fin direct} : Ends State.Canonical (s.startLoad t zs fin direct) :=
  .ite (.ok hc.finishAccess) (.bind ends_Thread.needTag fun _ _ => .ite (.ok hc.updThread.finishAccess) (.ok hc.frame.updThread.stop))

theorem State.Canonical.issueLoad (hc : s.Canonical) {os zs fin direct} : Ends State.Canonical (s.issueLoad os zs fin direct) :=
  hc.consume.retire.startLoad

theorem State.Canonical.rsbStore (hc : s.Canonical) {t p n v} : (s.rsbStore t p n v).Canonical := by
  unfold State.rsbStore
  dsimp only
  split
  · exact hc.updThread
  · exact (State.Canonical.ite hc.overflowDrain hc).updThread

theorem State.Canonical.sendStore (hc : s.Canonical) {t p n v} : (s.sendStore t p n v).Canonical :=
  hc.frame.updThread

theorem State.Canonical.storeOne (hc : s.Canonical) {t z direct v} : (s.storeOne t z direct v).Canonical :=
  .ite hc.rsbStore hc.sendStore

theorem State.Canonical.windowWait (hc : s.Canonical) {zs} : (s.windowWait zs).Canonical :=
  .ite hc hc.stop

theorem State.Canonical.issueStore (hc : s.Canonical) {os zs direct val} : (s.issueStore os zs direct val).Canonical :=
  (hc.foldl fun _ _ h1 => h1.storeOne).consume.retire.windowWait

theorem canonical_loadOp (hc : s.Canonical) {o n b d bytes signed} : Outcome.Canonical (loadOp s o n b d bytes signed) :=
  canonical_settle hc (.bind hc.enterInstr fun _ _ => .bind hc.access fun _ _ => hc.issueLoad)

theorem canonical_storeOp (hc : s.Canonical) {o m n b d bytes} : Outcome.Canonical (storeOp s o m n b d bytes) :=
  canonical_settle hc (.bind hc.enterInstr fun _ _ => .bind hc.access fun _ _ => .ok hc.issueStore)

theorem canonical_execLdm (hc : s.Canonical) {o c n b d} : Outcome.Canonical (execLdm o c n b d s) :=
  canonical_settle hc (.bind hc.enterInstr fun _ _ => .bind hc.access fun _ _ => hc.issueLoad)

theorem canonical_execStm (hc : s.Canonical) {o c n b d} : Outcome.Canonical (execStm o c n b d s) :=
  canonical_settle hc (.bind hc.enterInstr fun _ _ => .bind hc.access fun _ _ => .ok hc.issueStore)

theorem canonical_vectorLoad (hc : s.Canonical) {k d ops xs bcast} : Outcome.Canonical (vectorLoad s k d ops xs bcast) :=
  canonical_settle hc (.bind hc.enterInstr fun _ _ => .bind hc.access fun _ _ =>
    .ite (.ok hc.consume.retire.requeue) (.map hc.issueLoad fun _ h1 => h1.requeue))

theorem canonical_vectorStore (hc : s.Canonical) {k d ops xs} : Outcome.Canonical (vectorStore s k d ops xs) :=
  canonical_settle hc (.bind hc.enterInstr fun _ _ => .bind hc.access fun _ _ => .ok hc.issueStore.requeue)

theorem canonical_execVldbc (hc : s.Canonical) {e k a d} : Outcome.Canonical (execVldbc e k a d s) :=
  .ite (canonical_vectorLoad hc) (canonical_vectorLoad hc)

theorem canonical_execVldb (hc : s.Canonical) {a d} : Outcome.Canonical (execVldb a d s) :=
  canonical_settle hc (.bind hc.enterInstr fun _ _ => .bind ends_groupFits fun _ _ => .ite .localFault (.bind hc.access fun _ _ =>
    .map hc.issueLoad fun _ h1 => h1.requeue))

theorem ends_notLane {a} : Ends (fun _ => True) (notLane a) :=
  .ite .localFault .done

theorem canonical_execAmld (hc : s.Canonical) {z n a d} : Outcome.Canonical (execAmld z n a d s) :=
  canonical_settle hc (.bind hc.enterInstr fun _ _ => .bind ends_notLane fun _ _ => .bind hc.access fun _ _ => hc.issueLoad)

theorem canonical_execAmst (hc : s.Canonical) {z m n b a} : Outcome.Canonical (execAmst z m n b a s) :=
  canonical_settle hc (.bind hc.enterInstr fun _ _ => .bind ends_notLane fun _ _ => .bind hc.access fun _ _ => .ok hc.issueStore)

/-! ### Perform steps and receive steps -/

theorem State.Canonical.performAt (hc : s.Canonical) {src h pick} : (s.performAt src h pick).Canonical := by
  unfold State.performAt
  split
  · exact .ite hc hc.performHead
  · exact hc.performHead

theorem canonical_execPerformLoad (hc : s.Canonical) {src h} : Outcome.Canonical (execPerformLoad src h s) :=
  .next hc.performAt

theorem canonical_execPerformStore (hc : s.Canonical) {src h} : Outcome.Canonical (execPerformStore src h s) :=
  .next hc.performAt

theorem canonical_execPerformAtomic (hc : s.Canonical) {src h} : Outcome.Canonical (execPerformAtomic src h s) :=
  .next hc.performAt

theorem canonical_execRecall (hc : s.Canonical) {line} : Outcome.Canonical (execRecall line s) :=
  .next (.ite hc.recallLine hc)

theorem State.Canonical.setL1 (hc : s.Canonical) {k line c} : (s.setL1 k line c).Canonical :=
  hc.updCore

theorem State.Canonical.fillL1 (hc : s.Canonical) {k line c} : (s.fillL1 k line c).Canonical :=
  .ite hc.setL1 hc.frame.setL1.setL1

theorem canonical_execL1Eviction (hc : s.Canonical) {k line} : Outcome.Canonical (execL1Eviction k line s) :=
  .next hc.setL1

theorem State.Canonical.dropMsg (hc : s.Canonical) {m} : (s.dropMsg m).Canonical :=
  hc.frame

theorem State.Canonical.completeAccess (hc : s.Canonical) {t g} : (s.completeAccess t g).Canonical := by
  unfold State.completeAccess
  split
  · exact .ite (.ite hc.updThread.finishAccess.wake hc.updThread.finishAccess) hc
  · exact hc

theorem State.Canonical.threadReply (hc : s.Canonical) {t g h line part flag v} : (s.threadReply t g h line part flag v).Canonical :=
  .ite hc.updThread (.ite hc.updThread.completeAccess.updThread hc.updThread.completeAccess)

theorem canonical_execProcessReply (hc : s.Canonical) {k h} : Outcome.Canonical (execProcessReply k h s) := by
  unfold execProcessReply
  split
  · split
    · exact .next (State.Canonical.ite hc.dropMsg.fillL1 hc.dropMsg).threadReply
    · exact .next hc
  · exact .next hc

theorem State.Canonical.ackEffects (hc : s.Canonical) {k t h line mask data flag} :
    (s.ackEffects k t h line mask data flag).Canonical := by
  unfold State.ackEffects
  refine .updThread ?_
  split
  · exact hc.setL1
  · exact hc

theorem canonical_execProcessAck (hc : s.Canonical) {k h} : Outcome.Canonical (execProcessAck k h s) := by
  unfold execProcessAck
  split
  · split
    · exact .next hc.dropMsg.ackEffects
    · exact .next hc.dropMsg.ackEffects
    · exact .next hc
  · exact .next hc

theorem canonical_execProcessAtomicReply (hc : s.Canonical) {k h} : Outcome.Canonical (execProcessAtomicReply k h s) := by
  unfold execProcessAtomicReply
  split
  · split
    · exact .next hc.dropMsg.ackEffects.threadReply
    · exact .next hc
  · exact .next hc

theorem State.Canonical.settleLine (hc : s.Canonical) {h line} : (s.settleLine h line).Canonical :=
  .ite hc.frame.updDir hc

theorem canonical_execProcessInv (hc : s.Canonical) {k h} : Outcome.Canonical (execProcessInv k h s) := by
  unfold execProcessInv
  split
  · split
    · exact .next hc.dropMsg.setL1.updDir.settleLine
    · exact .next hc
  · exact .next hc

theorem State.Canonical.settleCore (hc : s.Canonical) {h line ts} : (s.settleCore h line ts).Canonical := by
  induction ts generalizing s with
  | nil => exact hc
  | cons t ts ih => exact ih hc.updThread

theorem canonical_execProcessSettle (hc : s.Canonical) {k h} : Outcome.Canonical (execProcessSettle k h s) := by
  unfold execProcessSettle
  split
  · split
    · refine .next ?_
      refine .settleCore ?_
      split
      · exact hc.dropMsg.setL1
      · exact hc.dropMsg
    · exact .next hc
  · exact .next hc

/-! ### Atomics -/

theorem State.Canonical.checkOne (_ : s.Canonical) {x} : Ends (fun _ => True) (s.checkOne x) := by
  unfold State.checkOne
  split
  · exact .trap
  · exact .done
  · exact .done

theorem State.Canonical.readyOne (hc : s.Canonical) {acc os pre x p?} : Ends (fun _ => True) (s.readyOne acc os pre x p?) := by
  unfold State.readyOne
  refine .bind hc.refilled fun _ _ => ?_
  refine .bind hc.untainted fun _ _ => ?_
  split
  · exact .done
  · exact hc.translate

theorem State.Canonical.issueCommit (hc : s.Canonical) {os} : (s.issueCommit os).Canonical :=
  hc.consume.retire.commitPoint

theorem State.Canonical.issueAtomic (hc : s.Canonical) {os p kind bytes d dbl g} : (s.issueAtomic os p kind bytes d dbl g).Canonical :=
  hc.issueCommit.frame.updThread.stop

theorem State.Canonical.issuePosted (hc : s.Canonical) {os p kind} : (s.issuePosted os p kind).Canonical :=
  .ite hc.issueCommit.frame.updThread.windowWait hc.issueCommit.frame.updThread.holdPush

theorem canonical_atomicOp (hc : s.Canonical) {op amop z m n b a d} : Outcome.Canonical (atomicOp s op amop z m n b a d) :=
  canonical_settle hc (.bind hc.enterInstr fun _ _ => .bind (.ite ends_notLane .done) fun _ _ => .bind hc.checkOne fun _ _ =>
    .bind (.ite .multTrap .done) fun _ _ => .bind hc.notCancelled fun _ _ => .bind hc.readyOne fun _ _ =>
    .ite (.ok hc.issuePosted) (.bind ends_Thread.needTag fun _ _ => .ok hc.issueAtomic))

/-! ### Fences, taint and the format word -/

theorem canonical_execFence (hc : s.Canonical) {sc k} : Outcome.Canonical (execFence sc k s) :=
  canonical_settle hc (.bind hc.enterInstr fun _ _ =>
    .ite (.ok (State.Canonical.ite hc.overflowDrain hc).retire) (.goto (State.Canonical.ite hc.overflowDrain hc).stop))

theorem canonical_execTclr (hc : s.Canonical) {v d} : Outcome.Canonical (execTclr v d s) :=
  canonical_settle hc (.bind hc.enterInstr fun _ _ => .ok hc.updMe.retire)

theorem canonical_execTjoin (hc : s.Canonical) {w v n a d} : Outcome.Canonical (execTjoin w v n a d s) :=
  canonical_settle hc (.bind hc.enterInstr fun _ _ => .bind hc.refilled fun _ _ => .ok (.ite hc.putV hc.putS))

theorem canonical_execTwait (hc : s.Canonical) {w n a} : Outcome.Canonical (execTwait w n a s) :=
  canonical_settle hc (.bind hc.enterInstr fun _ _ => .bind hc.refilled fun _ _ => .bind hc.untainted fun _ _ => .ok hc.consume.retire)

theorem canonical_execFmt (hc : s.Canonical) {sat r d b a} : Outcome.Canonical (execFmt sat r d b a s) :=
  canonical_settle hc (.bind hc.enterInstr fun _ _ => .ok hc.retire.updMe)

/-! ### Barriers, channels and active messages -/

theorem State.Canonical.beginCommit (hc : s.Canonical) {st} : (s.beginCommit st).Canonical :=
  hc.commitPoint.updThread

theorem State.Canonical.awaitDrained (hc : s.Canonical) {t} : (s.awaitDrained t).Canonical :=
  hc.stop

theorem canonical_barrierOp (hc : s.Canonical) {kind dbl rs a b d} : Outcome.Canonical (barrierOp s kind dbl rs a b d) :=
  canonical_settle hc (.bind hc.enterInstr fun _ _ => .bind (.ite .done .illegal) fun _ _ => .bind hc.notCancelled fun _ _ =>
    .bind hc.refilled fun _ _ => .ok hc.reads.beginCommit.awaitDrained)

theorem canonical_execBarrierArrival (hc : s.Canonical) {t} : Outcome.Canonical (execBarrierArrival t s) := by
  unfold execBarrierArrival
  dsimp only
  split
  · exact .ite (.next hc.updThread.updCluster.stop.checkBarrier) (.next hc)
  · exact .next hc

theorem State.Canonical.setChan (hc : s.Canonical) {cl i r} : (s.setChan cl i r).Canonical :=
  hc.updCluster

theorem State.Canonical.channelDone (hc : s.Canonical) {w v} : (s.channelDone w v).Canonical := by
  unfold State.channelDone
  refine .wake ?_
  refine .updThread ?_
  split
  · exact hc.unmap.setS
  · exact hc.unmap

theorem State.Canonical.channelPut (hc : s.Canonical) {cl i r t v} : (s.channelPut cl i r t v).Canonical := by
  unfold State.channelPut
  dsimp only
  split
  · exact hc.updCluster.setChan.channelDone
  · exact hc.updCluster.setChan

theorem State.Canonical.meetChannel (hc : s.Canonical) {cl chan send} : Ends State.Canonical (s.meetChannel cl chan send) :=
  .ite (.ok hc.tie) (.goto hc)

theorem canonical_execChsend (hc : s.Canonical) {m n b a} : Outcome.Canonical (execChsend m n b a s) := by
  unfold execChsend
  refine canonical_settle hc ?_
  refine .bind hc.enterInstr fun _ _ => ?_
  refine .bind (.ite .done .illegal) fun _ _ => ?_
  refine .bind hc.refilled fun _ _ => ?_
  refine .bind hc.untainted fun _ _ => ?_
  refine .ite (.goto (State.Canonical.ite hc hc.overflowDrain).stop) ?_
  dsimp only
  split
  · exact .waitFor
  · exact .bind hc.meetChannel fun _ h1 => .ite (.ok h1.channelPut.consume.retire) (.goto h1.reads.setChan.stop)

theorem canonical_execChrecv (hc : s.Canonical) {n a d} : Outcome.Canonical (execChrecv n a d s) := by
  unfold execChrecv
  refine canonical_settle hc ?_
  refine .bind hc.enterInstr fun _ _ => ?_
  refine .bind (.ite .done .illegal) fun _ _ => ?_
  refine .bind hc.refilled fun _ _ => ?_
  refine .bind hc.untainted fun _ _ => ?_
  dsimp only
  split
  · exact .waitFor
  · refine .bind hc.meetChannel fun _ h1 => ?_
    split
    · split
      · exact .ok h1.setChan.consume.setS.retire
      · exact .ok h1.setChan.consume.setS.retire.channelPut.channelDone
    · exact .goto h1.reads.setChan.stop

theorem canonical_execChannelDeadlockScan (hc : s.Canonical) {cl} : Outcome.Canonical (execChannelDeadlockScan cl s) :=
  .ite (.next hc) (.next (hc.tie.foldl fun _ _ h1 => h1.setChan.trapEntry).updCluster)

theorem State.Canonical.handlerIssues (hc : s.Canonical) {k} : (s.handlerIssues k).Canonical :=
  hc.tie.updCore.updThread

theorem State.Canonical.handlerRest (hc : s.Canonical) {k} : (s.handlerRest k).Canonical :=
  .ite hc hc.updCore

theorem State.Canonical.handle (hc : s.Canonical) {src k r} : (s.handle src k r).Canonical := by
  unfold State.handle
  split
  · exact hc.handlerIssues.updCore
  · exact hc.handlerIssues.performHead.updCore.handlerRest

theorem State.Canonical.holdAtGate (hc : s.Canonical) {r k} : (s.holdAtGate r k).Canonical := by
  unfold State.holdAtGate
  split
  · exact .ite hc.stop hc
  · exact hc

theorem canonical_execActiveMessage (hc : s.Canonical) {src k} : Outcome.Canonical (execActiveMessage src k s) := by
  unfold execActiveMessage
  split
  · exact .next hc
  · exact .ite (.next hc) (.ite (.next hc.homePrepare.holdAtGate) (.ite (.next hc.updCore) (.ite (.next hc) (.next hc.handle))))

/-! ### Thread control -/

theorem State.Canonical.addHandles (hc : s.Canonical) {k hs} : (s.addHandles k hs).Canonical := by
  unfold State.addHandles
  refine hc.foldl fun _ _ h1 => ?_
  split
  · exact h1.updTile
  · exact h1

theorem canonical_execFork (hc : s.Canonical) {p} : Outcome.Canonical (execFork p s) :=
  canonical_settle hc (.bind hc.enterInstr fun _ _ => .bind (.ite .illegal .done) fun _ _ =>
    .ite .waitFor (.ok (State.Canonical.ite hc.consume.updMe hc.consume.updMe.makeRoom).addHandles.updCore.updMe.setS.retire))

theorem canonical_meetOp (hc : s.Canonical) {weld p q w} : Outcome.Canonical (meetOp s weld p q w) :=
  canonical_settle hc (.bind hc.enterInstr fun _ _ => .bind (.ite .done .illegal) fun _ _ => .bind (.ite .done .illegal) fun _ _ =>
    .bind hc.notCancelled fun _ _ => .bind hc.refilled fun _ _ => .ok hc.reads.beginCommit.awaitDrained)

theorem State.Canonical.setMeet (hc : s.Canonical) {weld u e m} : (s.setMeet weld u e m).Canonical :=
  .ite hc.updCluster hc.updCore

theorem State.Canonical.passMeet (hc : s.Canonical) {t} : (s.passMeet t).Canonical :=
  hc.updThread.wake

theorem State.Canonical.releaseHolder (hc : s.Canonical) {weld u e} : (s.releaseHolder weld u e).Canonical :=
  hc.setMeet.updThread.passMeet

theorem State.Canonical.registerMeet (hc : s.Canonical) {t weld p q w} : (s.registerMeet t weld p q w).Canonical := by
  unfold State.registerMeet
  dsimp only
  split
  · exact .ite hc.setMeet.endThread hc.releaseHolder.passMeet
  · refine .ite hc.passMeet ?_
    split
    · exact hc.passMeet
    · exact hc.setMeet.updThread.stop

theorem State.Canonical.expireMeets (hc : s.Canonical) {weld u} : (s.expireMeets weld u).Canonical :=
  hc.foldl fun _ _ h1 => .ite h1.releaseHolder h1

theorem canonical_execMeetRegistration (hc : s.Canonical) {t} : Outcome.Canonical (execMeetRegistration t s) := by
  unfold execMeetRegistration
  dsimp only
  split
  · refine .ite ?_ (.next hc)
    split
    · exact .next hc.stop
    · exact .next hc.tie.expireMeets.registerMeet
  · exact .next hc

theorem canonical_execMeetDeadline (hc : s.Canonical) {weld unit e} : Outcome.Canonical (execMeetDeadline weld unit e s) :=
  .ite (.next hc.releaseHolder) (.next hc)

theorem State.Canonical.releaseAlign (hc : s.Canonical) {cl} : (s.releaseAlign cl).Canonical := by
  unfold State.releaseAlign
  split
  · exact hc
  · exact hc.updCluster.foldl fun _ _ h1 => h1.updThread.wake

theorem State.Canonical.expireAlign (hc : s.Canonical) {cl} : (s.expireAlign cl).Canonical := by
  unfold State.expireAlign
  split
  · exact .ite hc.releaseAlign hc
  · exact hc

theorem canonical_execAlign (hc : s.Canonical) : Outcome.Canonical (execAlign s) := by
  unfold execAlign
  refine canonical_settle hc ?_
  refine .bind hc.enterInstr fun _ _ => ?_
  dsimp only
  split
  · exact .goto (.ite hc.expireAlign.updCluster.stop.releaseAlign hc.expireAlign.updCluster.stop)
  · exact .ite (.goto (.ite hc.expireAlign.updCluster.stop.releaseAlign hc.expireAlign.updCluster.stop)) (.ok hc.expireAlign.retire)

theorem canonical_execAlignTimeout (hc : s.Canonical) {cl} : Outcome.Canonical (execAlignTimeout cl s) := by
  unfold execAlignTimeout
  split
  · exact .ite (.next hc.releaseAlign) (.next hc)
  · exact .next hc

theorem canonical_execQuiescenceRelease (hc : s.Canonical) {launch} : Outcome.Canonical (execQuiescenceRelease launch s) := by
  unfold execQuiescenceRelease
  refine .ite ?_ (.next hc)
  refine .next ?_
  refine (hc.foldl fun _ _ h1 => h1.releaseHolder).foldl fun _ _ h1 => ?_
  split
  · exact .ite h1.releaseAlign h1
  · exact h1

theorem canonical_execYield (hc : s.Canonical) : Outcome.Canonical (execYield s) :=
  canonical_settle hc (.bind hc.enterInstr fun _ _ => .ok hc.retire.updCore)

theorem State.Canonical.beginEnd (hc : s.Canonical) {results} : (s.beginEnd results).Canonical :=
  hc.drainRsb.releaseChildren.dropTcons.updThread.awaitDrained

theorem canonical_execDone (hc : s.Canonical) : Outcome.Canonical (execDone s) :=
  canonical_settle hc (.bind hc.enterInstr fun _ _ => .bind hc.notCancelled fun _ _ => .ok hc.beginEnd)

theorem State.Canonical.finishThread (hc : s.Canonical) {t results} : (s.finishThread t results).Canonical :=
  (State.Canonical.ite hc.report hc).endThread

/-! ### Task records and the hearth tables -/

theorem canonical_execCommit (hc : s.Canonical) : Outcome.Canonical (execCommit s) :=
  canonical_settle hc (.bind hc.enterInstr fun _ _ => .bind hc.notCancelled fun _ _ => .ok hc.issueCommit.holdPush)

theorem canonical_execSpawn (hc : s.Canonical) {p} : Outcome.Canonical (execSpawn p s) :=
  canonical_settle hc (.bind hc.enterInstr fun _ _ => .bind (.ite .done .localFault) fun _ _ => .bind hc.checkOne fun _ _ =>
    .bind hc.notCancelled fun _ _ => .bind hc.readyOne fun _ _ => .ok hc.reads.beginCommit.stop)

theorem State.Canonical.spawnRead (hc : s.Canonical) {t p} : Ends State.Canonical (s.spawnRead t p) :=
  hc.startLoad

theorem State.Canonical.spawnPush (hc : s.Canonical) {t rec} : (s.spawnPush t rec).Canonical := by
  unfold State.spawnPush
  refine .ite hc.trapEntry ?_
  refine .ite hc.trapEntry ?_
  split
  · next t1 e1 => exact (hc.push t1 e1).updThread.wake
  · exact hc.stop

theorem State.Canonical.refilledResults (hc : s.Canonical) : Ends (fun _ => True) (s.refilledResults) :=
  .ite hc.refilled .done

theorem canonical_execWaitw (hc : s.Canonical) : Outcome.Canonical (execWaitw s) :=
  canonical_settle hc (.bind hc.enterInstr fun _ _ => .bind hc.notCancelled fun _ _ =>
    .ite (.ite (.ok hc.retire) (.goto hc.giveUpAccs.stop.checkBarriers)) (.bind hc.refilledResults fun _ _ =>
    .ok (State.Canonical.ite hc.reads.report hc).updMe.giveUpAccs.stop.checkBarriers))

theorem canonical_execTaskend (hc : s.Canonical) : Outcome.Canonical (execTaskend s) :=
  canonical_settle hc (.bind hc.enterInstr fun _ _ => .bind hc.notCancelled fun _ _ => .bind hc.refilledResults fun _ _ =>
    .ok hc.beginEnd.tie)

theorem canonical_execTransformWake (hc : s.Canonical) {k} : Outcome.Canonical (execTransformWake k s) :=
  .ite (.next hc.wake) (.next hc)

theorem State.Canonical.putHrq (hc : s.Canonical) {q p h} : (s.putHrq q p h).Canonical :=
  hc.consume.setRun.retire.longLatency

theorem canonical_execHrq (hc : s.Canonical) {q p} : Outcome.Canonical (execHrq q p s) :=
  canonical_settle hc (.bind hc.enterInstr fun _ _ => .bind hc.refilled fun _ _ => .ok hc.putHrq)

theorem canonical_execHrqSw (hc : s.Canonical) {q p} : Outcome.Canonical (execHrqSw q p s) :=
  canonical_settle hc (.bind hc.enterInstr fun _ _ => .bind hc.refilled fun _ _ => .ok hc.putHrq)

theorem State.Canonical.takeRecord (hc : s.Canonical) {k q} : (s.takeRecord k q).Canonical :=
  hc.updCore.fromPool

theorem State.Canonical.putArgs (hc : s.Canonical) {t r} : (s.putArgs t r).Canonical :=
  .ite hc.consume.setRun.setS hc.consume.setRun

theorem canonical_execTaskDispatch (hc : s.Canonical) {k} : Outcome.Canonical (execTaskDispatch k s) := by
  unfold execTaskDispatch
  split
  · exact .next hc.takeRecord.updThread.putArgs.updThread.wake.progress.checkBarriers
  · exact .next hc

theorem canonical_execTaskStartFreeContext (hc : s.Canonical) {k} : Outcome.Canonical (execTaskStartFreeContext k s) := by
  unfold execTaskStartFreeContext
  split
  · exact .next hc.takeRecord.setThread.putArgs.startThread.progress
  · exact .next hc

theorem canonical_execTaskSteal (hc : s.Canonical) {k} : Outcome.Canonical (execTaskSteal k s) := by
  unfold execTaskSteal
  dsimp only
  split
  · split
    · exact .ite (.next hc.takeRecord.updCore) (.next hc)
    · exact .next hc
  · exact .next hc

theorem canonical_execForwardedRecordArrival (hc : s.Canonical) {cl} : Outcome.Canonical (execForwardedRecordArrival cl s) := by
  unfold execForwardedRecordArrival
  split
  · next r rs _ =>
    have hp : IfAny (if r.since = s.cycle then none else s.push cl (coreAt cl 0) r.task true) := .ite .none hc.push
    split
    · next u e => exact .next (hp u e).updCluster
    · exact .next hc
  · exact .next hc

theorem canonical_execHearthUpdate (hc : s.Canonical) {cl} : Outcome.Canonical (execHearthUpdate cl s) :=
  .ite (.next hc) (.next hc.updCluster)

theorem State.Canonical.hearthOverdue (hc : s.Canonical) : (s.hearthOverdue).Canonical :=
  .ite hc.frame hc

theorem canonical_execHclrComplete (hc : s.Canonical) {cl} : Outcome.Canonical (execHclrComplete cl s) :=
  .next hc.updCluster

theorem canonical_execHearthSummaryBroadcast (hc : s.Canonical) {cl} : Outcome.Canonical (execHearthSummaryBroadcast cl s) :=
  .ite (.next hc) (.next (hc.tie.foldl fun _ _ h1 => h1.updCluster))

theorem canonical_execHearthSummaryApply (hc : s.Canonical) {dst src} : Outcome.Canonical (execHearthSummaryApply dst src s) :=
  .next hc.updCluster

/-! ### Tile instructions -/

theorem State.Canonical.bind (hc : s.Canonical) {h e} : (s.bind h e).Canonical :=
  hc.updMe

theorem State.Canonical.bound (_ : s.Canonical) {h} : Ends (fun _ => True) (s.bound h) := by
  unfold State.bound
  split
  · exact .done
  · exact .illegal

theorem canonical_execTdef (hc : s.Canonical) {b a d} : Outcome.Canonical (execTdef b a d s) := by
  unfold execTdef
  refine canonical_settle hc ?_
  refine .bind hc.enterInstr fun _ _ => ?_
  refine .bind (.ite .illegal .done) fun _ _ => ?_
  refine .bind (.ite .done .localFault) fun _ _ => ?_
  refine .bind (.ite .done .alignTrap) fun _ _ => ?_
  refine .bind hc.refilled fun _ _ => ?_
  split
  · exact .waitFor
  · exact .ok (State.Canonical.ite hc.updTile hc.setTile).bind.consume.retire

theorem canonical_execTrel (hc : s.Canonical) {d} : Outcome.Canonical (execTrel d s) :=
  canonical_settle hc (.bind hc.enterInstr fun _ _ => .bind hc.bound fun _ _ => .ok hc.bind.dropHandle.retire)

theorem canonical_execTstat (hc : s.Canonical) {a d} : Outcome.Canonical (execTstat a d s) :=
  canonical_settle hc (.bind hc.enterInstr fun _ _ => .ok hc.consume.setS.retire)

theorem canonical_execTwaitr (hc : s.Canonical) {d} : Outcome.Canonical (execTwaitr d s) :=
  canonical_settle hc (.bind hc.enterInstr fun _ _ => .bind hc.bound fun _ _ => .ite (.ok hc.retire) .waitFor)

theorem State.Canonical.tileReady (_ : s.Canonical) {e n} : Ends (fun _ => True) (s.tileReady e n) :=
  .ite .done .waitFor

theorem State.Canonical.tileReadyMat (_ : s.Canonical) {e n} : Ends (fun _ => True) (s.tileReadyMat e n) :=
  .ite .done .waitFor

theorem State.Canonical.tileCount (hc : s.Canonical) {k e n} : (s.tileCount k e n).Canonical :=
  hc.updTile

theorem canonical_execTcons (hc : s.Canonical) {d} : Outcome.Canonical (execTcons d s) :=
  canonical_settle hc (.bind hc.enterInstr fun _ _ => .bind hc.bound fun _ _ => .bind hc.tileReady fun _ _ =>
    .ok hc.tileCount.updMe.retire)

theorem canonical_execTileOperandsConsumed (hc : s.Canonical) {k e} : Outcome.Canonical (execTileOperandsConsumed k e s) :=
  .next hc.tileEvent

/-! ### Matrix instructions -/

theorem State.Canonical.productStep (hc : s.Canonical) {k one ka ta kb tb f c} : (s.productStep k one ka ta kb tb f c).Canonical :=
  .ite hc.updAcc hc

theorem State.Canonical.passMatrix (hc : s.Canonical) {t} : (s.passMatrix t).Canonical :=
  hc.updThread.wake

theorem State.Canonical.addJob (hc : s.Canonical) {k j} : (s.addJob k j).Canonical :=
  hc.seqMode.updCore

theorem State.Canonical.dropJob (hc : s.Canonical) {k j} : (s.dropJob k j).Canonical :=
  hc.updCore.turnOver

theorem State.Canonical.startMma (hc : s.Canonical) {z c e ta tb m} : (s.startMma z c e ta tb m).Canonical :=
  (State.Canonical.ite hc.takeAcc.tileCount.tileCount (State.Canonical.ite hc.takeAcc.tileCount.tileCount.updAcc
    hc.takeAcc.tileCount.tileCount).debit).addJob.updThread.stop

theorem canonical_execMma (hc : s.Canonical) {z c e b a} : Outcome.Canonical (execMma z c e b a s) :=
  canonical_settle hc (.bind hc.enterInstr fun _ _ => .bind hc.bound fun _ _ => .bind hc.bound fun _ _ =>
    .bind (.ite .done .illegal) fun _ _ => .bind hc.notShrunk fun _ _ => .bind hc.notShrunk fun _ _ =>
    .bind (.ite .done hc.energyTrap) fun _ _ => .bind hc.ownable fun _ _ => .bind hc.tileReadyMat fun _ _ =>
    .bind hc.tileReadyMat fun _ _ => .bind (.ite .done hc.energyWait) fun _ _ => .ok hc.startMma)

theorem State.Canonical.checkMmac (hc : s.Canonical) {cl launch g} : (s.checkMmac cl launch g).Canonical :=
  .ite hc (.ite (hc.updCluster.foldl fun _ _ h1 => h1.withdrawMmac.trapEntry) (hc.updCluster.foldl fun _ _ h1 =>
    (State.Canonical.ite h1.updAcc h1).debit.addJob.updThread))

theorem canonical_execMmac (hc : s.Canonical) {z c e b a d} : Outcome.Canonical (execMmac z c e b a d s) := by
  have shrunk : ∀ {k} {o : Option Nat}, Ends (fun _ => True)
      (match o with | some i => s.notShrunk k (s.tile k i) | none => .ok ()) := by
    rintro k (_ | i)
    · exact .done
    · exact hc.notShrunk
  have counted : ∀ {u : State} {k n} {o : Option Nat}, u.Canonical →
      State.Canonical (match o with | some i => u.tileCount k i n | none => u) := by
    rintro u k n (_ | i) hu
    · exact hu
    · exact hu.tileCount
  unfold execMmac
  refine canonical_settle hc (.bind hc.enterInstr fun _ _ => .bind (.ite .done .illegal) fun _ _ =>
    .bind (.ite (.map hc.bound fun _ _ => trivial) .done) fun ta _ => .bind (.ite (.map hc.bound fun _ _ => trivial) .done) fun tb _ =>
    .bind (.ite .done .illegal) fun _ _ => .bind shrunk fun _ _ => .bind shrunk fun _ _ => .bind hc.energyTrap fun _ _ =>
    .bind hc.refilled fun _ _ => .bind hc.untainted fun _ _ => .bind (.ite .waitFor .done) fun _ _ => .bind hc.ownable fun _ _ =>
    .bind (P := fun _ => True) ?_ fun _ _ => .bind (P := fun _ => True) ?_ fun _ _ => .bind hc.energyWait fun _ _ =>
    .ok (State.Canonical.checkMmac (State.Canonical.stop (State.Canonical.updCluster (counted (counted hc.reads.takeAcc))))))
  · split
    · exact hc.tileReadyMat
    · exact .done
  · split
    · exact hc.tileReadyMat
    · exact .done

theorem State.Canonical.stepped (hc : s.Canonical) {k j} : (s.stepped k j).Canonical :=
  hc.updCore

theorem State.Canonical.walkBlocks (hc : s.Canonical) {cl w act had blocks} (ha : ∀ u b, u.Canonical → (act u b).Canonical) :
    (s.walkBlocks cl w act had blocks).s.Canonical := by
  induction blocks generalizing s had with
  | nil => exact hc
  | cons b bs ih =>
    unfold State.walkBlocks
    split
    · exact ih hc
    · split
      · exact ih (ha _ _ hc.updCluster)
      · exact hc.homePrepare

theorem State.Canonical.jobStep (hc : s.Canonical) {k j w act rs blocks perform} (ha : ∀ u b, u.Canonical → (act u b).Canonical)
    (hp : ∀ u, u.Canonical → (perform u).Canonical) : (s.jobStep k j w act rs blocks perform).Canonical := by
  have hw : (s.jobWalk k j w act blocks).s.Canonical := hc.walkBlocks ha
  exact .ite (hp _ (hw.foldl fun _ _ h => h.touchRanges)) (hw.jobWaits.foldl fun _ _ h => h.wantRanges)

theorem State.Canonical.jobReads (hc : s.Canonical) {k j perform} (hp : ∀ u, u.Canonical → (perform u).Canonical) :
    (s.jobReads k j perform).Canonical :=
  hc.jobStep (fun _ _ h => h) hp

theorem State.Canonical.bumpJob (hc : s.Canonical) {k j} : (s.bumpJob k j).Canonical :=
  hc.updCore

theorem State.Canonical.mmaStep (hc : s.Canonical) {k j ta tb fa m n cols} : (s.mmaStep k j ta tb fa m n cols).Canonical :=
  .ite hc.productStep.stepped.bumpJob hc.productStep.stepped.updAcc.dropJob.tileConsumed.tileConsumed.passMatrix

theorem State.Canonical.mmacStep (hc : s.Canonical) {k j g} : (s.mmacStep k j g).Canonical := by
  unfold State.mmacStep
  dsimp only
  split
  · exact .ite hc.productStep.stepped.bumpJob hc.productStep.stepped.updAcc.dropJob.mmacLeave
  · exact hc

theorem canonical_execMmaStep (hc : s.Canonical) {k} : Outcome.Canonical (execMmaStep k s) := by
  unfold execMmaStep
  split
  · split
    · exact .next (hc.jobReads fun _ h => h.mmaStep)
    · exact .next (hc.jobReads fun _ h => h.mmacStep)
    · exact .next hc
  · exact .next hc

theorem canonical_execMzero (hc : s.Canonical) {c e} : Outcome.Canonical (execMzero c e s) :=
  canonical_settle hc (.bind hc.enterInstr fun _ _ => .bind hc.energyTrap fun _ _ => .bind hc.ownable fun _ _ =>
    .bind hc.energyWait fun _ _ => .ok hc.takeAcc.updAcc.debit.retire.longLatency)

theorem canonical_execMmask (hc : s.Canonical) {c e a} : Outcome.Canonical (execMmask c e a s) :=
  canonical_settle hc (.bind hc.enterInstr fun _ _ => .bind hc.bound fun _ _ => .bind (.ite .done .illegal) fun _ _ =>
    .bind hc.notShrunk fun _ _ => .bind hc.energyTrap fun _ _ => .bind hc.ownable fun _ _ => .bind hc.tileReady fun _ _ =>
    .bind hc.energyWait fun _ _ => .ok hc.takeAcc.tileCount.debit.addJob.retire.stop)

theorem canonical_execMmaskLastByteRead (hc : s.Canonical) {k} : Outcome.Canonical (execMmaskLastByteRead k s) := by
  unfold execMmaskLastByteRead
  split
  · split
    · exact .next (hc.jobStep (fun _ _ h => h) fun _ h => h.updAcc.dropJob.tileConsumed.wake)
    · exact .next hc
  · exact .next hc

theorem State.Canonical.scaleCheck (hc : s.Canonical) {a xs} : Ends (fun _ => True) (s.scaleCheck a xs) :=
  .bind (.ite .done .localFault) fun _ _ => .bind hc.checkOne fun _ _ => hc.checkAll

theorem canonical_execMscale (hc : s.Canonical) {c e b a} : Outcome.Canonical (execMscale c e b a s) :=
  canonical_settle hc (.bind hc.enterInstr fun _ _ => .bind hc.scaleCheck fun _ _ => .bind hc.scaleCheck fun _ _ =>
    .bind hc.energyTrap fun _ _ => .bind hc.ready fun _ _ => .bind hc.ownable fun _ _ => .bind hc.energyWait fun _ _ =>
    .bind hc.takeAcc.issueLoad fun _ h1 => .ok h1.debit)

theorem canonical_execMstore (hc : s.Canonical) {c e a} : Outcome.Canonical (execMstore c e a s) :=
  canonical_settle hc (.bind hc.enterInstr fun _ _ => .bind hc.bound fun _ _ => .bind (.ite .done .illegal) fun _ _ =>
    .bind hc.notShrunk fun _ _ => .bind hc.energyTrap fun _ _ => .bind hc.ownable fun _ _ => .bind (.ite .done .waitFor) fun _ _ =>
    .bind hc.energyWait fun _ _ =>
    .ok (.ite hc.takeAcc.debit.addJob.retire.stop.setTile hc.takeAcc.debit.addJob.retire.stop.setTile.tileEvent))

theorem State.Canonical.mstoreStep (hc : s.Canonical) {k j e fd rnd sat rows cols} :
    (s.mstoreStep k j e fd rnd sat rows cols).Canonical :=
  .ite hc.writeTile.updThread.stepped.bumpJob hc.writeTile.updThread.stepped.dropJob.tileEnd.wake

theorem canonical_execMstoreFillStep (hc : s.Canonical) {k} : Outcome.Canonical (execMstoreFillStep k s) := by
  unfold execMstoreFillStep
  split
  · split
    · exact .next (hc.jobStep (fun _ _ h => h.writeInBlock) fun _ h => h.mstoreStep)
    · exact .next hc
  · exact .next hc

theorem canonical_execAccumulatorClear (hc : s.Canonical) {k one} : Outcome.Canonical (execAccumulatorClear k one s) :=
  .ite (.next hc.updAcc) (.next hc)

theorem State.Canonical.checkDesc (_ : s.Canonical) {d} : Ends (fun _ => True) (s.checkDesc d) := by
  unfold State.checkDesc
  refine .ite .illegal ?_
  split
  · exact .localFault
  · split
    · exact .alignTrap
    · exact .done

/-! ### Copy instructions and engines -/

theorem State.Canonical.spmWords (hc : s.Canonical) {k off ws} : (s.spmWords k off ws).Canonical :=
  hc.writeHome.touchBank

theorem State.Canonical.spmPiece (hc : s.Canonical) {k p} : (s.spmPiece k p).Canonical :=
  hc.writeHome.touchBank

theorem State.Canonical.spmWant (hc : s.Canonical) {k off} : (s.spmWant k off).Canonical :=
  hc.want

theorem State.Canonical.spmReady (_ : s.Canonical) {off} : Ends (fun _ => True) (s.spmReady off) :=
  .ite .done .waitFor

theorem State.Canonical.addCmd (hc : s.Canonical) {g c} : (s.addCmd g c).Canonical :=
  hc.frame.updEngine

theorem State.Canonical.startCopy (hc : s.Canonical) {w cls tile} : (s.startCopy w cls tile).Canonical := by
  unfold State.startCopy
  have h1 : ∀ {k off ws n}, ((s.spmWords k off ws).debit s.cur n).Canonical := hc.spmWords.debit
  refine .retire (.updMe ?_)
  split
  · exact h1.addCmd
  · dsimp only
    split
    · exact h1.addCmd.setTile
    · exact h1.spmWords.setTile
    · exact h1.addCmd.setTile.tileEvent
    · exact h1.addCmd.setTile.tileEvent

theorem State.Canonical.copyGo (hc : s.Canonical) {w cls tile} : Ends State.Canonical (s.copyGo w cls tile) := by
  unfold State.copyGo
  refine .bind (P := fun _ => True) ?_ fun _ _ => ?_
  · split
    · exact hc.notShrunk
    · exact .done
  · refine .bind hc.energyTrap fun _ _ => ?_
    refine .bind (P := fun _ => True) ?_ fun _ _ => ?_
    · split
      · exact .ite .done .waitFor
      · exact .done
    · exact .bind (.ite .done (.goto (State.Canonical.ite hc hc.overflowDrain).stop)) fun _ _ => .bind (.ite .waitFor .done) fun _ _ =>
        .bind hc.energyWait fun _ _ => .bind hc.spmReady fun _ _ => .ok (State.Canonical.ite hc hc.overflowDrain).startCopy

theorem State.Canonical.copyHold (hc : s.Canonical) {w cls tile} : Ends State.Canonical (s.copyHold w cls tile) := by
  unfold State.copyHold
  extract_lets s1
  have h1 : s1.Canonical := hc.updMe
  split
  · exact .goto h1.wantFor.stop
  · exact h1.copyGo

theorem State.Canonical.readDesc (hc : s.Canonical) {a} : Ends (fun _ => True) (s.readDesc a) := by
  unfold State.readDesc
  refine .bind (.ite .done .localFault) fun _ _ => ?_
  refine .bind (P := fun _ => True) ?_ fun _ _ => ?_
  · split
    · exact .trap
    · exact .done
  · exact .bind hc.refilled fun _ _ => .bind hc.untainted fun _ _ => .bind (.ite .waitFor .done) fun _ _ => .bind hc.spmReady fun _ _ =>
      .done

theorem State.Canonical.descRead (hc : s.Canonical) {a} : (s.descRead a).Canonical :=
  hc.consume.touchBank

theorem canonical_execCpy (hc : s.Canonical) {e a} : Outcome.Canonical (execCpy e a s) :=
  canonical_settle hc (.bind hc.enterInstr fun _ _ => .bind hc.readDesc fun _ _ => .bind hc.checkDesc fun _ _ => hc.descRead.copyHold)

theorem canonical_execTfill (hc : s.Canonical) {a d} : Outcome.Canonical (execTfill a d s) :=
  canonical_settle hc (.bind hc.enterInstr fun _ _ => .bind hc.bound fun _ _ => .bind hc.readDesc fun _ _ =>
    .bind hc.checkDesc fun _ _ => .bind (.ite .done .illegal) fun _ _ => hc.descRead.copyHold)

theorem State.Canonical.cobjAddr (hc : s.Canonical) {a remote} : Ends (fun _ => True) (s.cobjAddr a remote) :=
  .bind (.ite .done .localFault) fun _ _ => hc.checkAll

theorem canonical_execCpyw (hc : s.Canonical) {e a} : Outcome.Canonical (execCpyw e a s) :=
  canonical_settle hc (.bind hc.enterInstr fun _ _ => .bind hc.cobjAddr fun _ _ => .bind hc.refilled fun _ _ =>
    .bind hc.untainted fun _ _ => .bind hc.spmReady fun _ _ => .ite (.ok hc.consume.touchBank.retire) (.goto hc.reads.touchBank.stop))

theorem canonical_execCpyq (hc : s.Canonical) {e a d} : Outcome.Canonical (execCpyq e a d s) :=
  canonical_settle hc (.bind hc.enterInstr fun _ _ => .bind hc.cobjAddr fun _ _ => .bind hc.ready fun _ _ => hc.issueLoad)

theorem canonical_execCpyc (hc : s.Canonical) {e a} : Outcome.Canonical (execCpyc e a s) :=
  canonical_settle hc (.bind hc.enterInstr fun _ _ => .bind hc.cobjAddr fun _ _ => .bind hc.refilled fun _ _ =>
    .bind hc.untainted fun _ _ => .ok hc.frame.consume.retire)

theorem State.Canonical.updCmd (hc : s.Canonical) {g id f} : (s.updCmd g id f).Canonical :=
  hc.updEngine

theorem canonical_execEngineCommandStart (hc : s.Canonical) {g} : Outcome.Canonical (execEngineCommandStart g s) := by
  unfold execEngineCommandStart
  dsimp only
  split
  · exact .ite (.next hc.updCmd) (.next hc)
  · exact .next hc

theorem State.Canonical.cmdMiss (hc : s.Canonical) {g c a dst} : (s.cmdMiss g c a dst).Canonical :=
  hc.updCmd.updCluster

theorem State.Canonical.arrangeStatus (hc : s.Canonical) {ws} : (s.arrangeStatus ws).2.Canonical := hc.frame

theorem State.Canonical.join (hc : s.Canonical) {plain rs} : (s.join plain rs).Canonical := by
  induction rs generalizing s with
  | nil => exact hc
  | cons r rs ih =>
    unfold State.join
    dsimp only
    split
    · exact ih hc.frame
    · exact ih hc.frame

theorem State.Canonical.cmdReads (hc : s.Canonical) {g c} : (s.cmdReads g c).Canonical := by
  unfold State.cmdReads
  dsimp only
  split
  · exact hc.cmdMiss
  · exact hc.frame.join.updCmd

theorem State.Canonical.chunkDone (hc : s.Canonical) {g id} : (s.chunkDone g id).Canonical := by
  unfold State.chunkDone
  split
  · exact hc
  · exact .ite hc.updCmd hc.updCmd.progress

theorem State.Canonical.cmdWrites (hc : s.Canonical) {g id ws} : (s.cmdWrites g id ws).Canonical := by
  induction ws generalizing s with
  | nil => exact hc.chunkDone
  | cons w ws ih =>
    unfold State.cmdWrites
    split
    · exact hc
    · split
      · exact hc.updCmd.cmdMiss
      · exact ih hc.join.updCmd

theorem State.Canonical.cmdGo (hc : s.Canonical) {g id} : (s.cmdGo g id).Canonical := by
  unfold State.cmdGo
  split
  · exact hc
  · refine .ite hc ?_
    split
    · exact hc
    · exact .ite hc.cmdReads hc
    · exact .ite hc.cmdReads hc
    · exact hc.cmdWrites

theorem State.Canonical.sendOut (hc : s.Canonical) {g c ws next} : (s.sendOut g c ws next).Canonical :=
  .ite hc.frame.updCmd.cmdGo hc.frame.updCmd.cmdGo

theorem State.Canonical.packedBytes (hc : s.Canonical) {c} : (s.packedBytes c).2.Canonical := by
  unfold State.packedBytes
  dsimp only
  split
  · exact hc.draw
  · exact hc

theorem State.Canonical.sendUnpacked (hc : s.Canonical) {g c ws} : (s.sendUnpacked g c ws).Canonical := by
  unfold State.sendUnpacked
  dsimp only
  split
  · exact hc.sendOut
  · exact hc.frame.updCmd.cmdGo

theorem State.Canonical.progressRecord (hc : s.Canonical) {g c} : (s.progressRecord g c).Canonical :=
  hc.frame.join.updCmd

theorem State.Canonical.notStarted (hc : s.Canonical) {g c} : (s.notStarted g c).Canonical :=
  hc.updCmd

theorem State.Canonical.startLate (hc : s.Canonical) {g c n go} (hgo : (go s).Canonical) : (s.startLate g c n go).Canonical :=
  .ite hc.notStarted hgo

theorem State.Canonical.finishReads (hc : s.Canonical) {g c} : (s.finishReads g c).Canonical :=
  .ite hc.sendOut (.ite (hc.packedBytes.startLate hc.packedBytes.sendOut)
    (.ite (.ite (hc.startLate (.ite hc.updCmd.sendUnpacked hc.updCmd.cmdGo)) (hc.startLate hc.sendUnpacked)) hc.sendUnpacked))

theorem State.Canonical.maybeReads (hc : s.Canonical) {g id} : (s.maybeReads g id).Canonical := by
  unfold State.maybeReads
  split
  · exact .ite hc.finishReads hc
  · exact hc

theorem canonical_execEngineChunkStart (hc : s.Canonical) {g} : Outcome.Canonical (execEngineChunkStart g s) := by
  unfold execEngineChunkStart
  split
  · exact .ite (.next hc) (.ite (.next hc.updCmd) (.ite (.next hc.notStarted) (.next hc.progressRecord.updCmd.cmdGo.maybeReads)))
  · exact .next hc

theorem State.Canonical.rewrite (hc : s.Canonical) {g c} : (s.rewrite g c).Canonical :=
  hc.frame.updCmd.cmdGo

theorem State.Canonical.finalOf (hc : s.Canonical) {g c} : (s.finalOf g c).2.Canonical := by
  unfold State.finalOf
  split
  · exact hc
  · exact hc.arrangeStatus

theorem State.Canonical.cmdEnd (hc : s.Canonical) {g c stat} : (s.cmdEnd g c stat).Canonical := by
  unfold State.cmdEnd
  refine .endIfOver ?_
  split
  · exact hc.updEngine.tileEnd
  · exact hc.updEngine.tileEnd
  · exact hc.updEngine

theorem canonical_execEngineFinalStatus (hc : s.Canonical) {g cmd} : Outcome.Canonical (execEngineFinalStatus g cmd s) := by
  unfold execEngineFinalStatus
  split
  · refine .ite (.next hc) ?_
    refine .ite (.next hc.spmWant) ?_
    refine .ite (.next hc.rewrite) ?_
    refine .ite ?_ ?_
    · refine .next ?_
      refine .cmdEnd ?_
      split
      · exact hc.finalOf
      · exact hc.finalOf.spmPiece
    · refine .next ?_
      refine .updCmd ?_
      split
      · exact hc.finalOf
      · exact hc.finalOf.spmPiece
  · exact .next hc

theorem canonical_execEngineReply (hc : s.Canonical) {g h} : Outcome.Canonical (execEngineReply g h s) := by
  unfold execEngineReply
  split
  · split
    · exact .next hc.dropMsg.updCmd.maybeReads
    · exact .next hc
  · exact .next hc

theorem canonical_execEngineAck (hc : s.Canonical) {g h} : Outcome.Canonical (execEngineAck g h s) := by
  unfold execEngineAck
  split
  · split
    · exact .next hc.dropMsg.updCmd
    · exact .next hc
  · exact .next hc

theorem canonical_execEngineSettle (hc : s.Canonical) {g h} : Outcome.Canonical (execEngineSettle g h s) := by
  unfold execEngineSettle
  split
  · split
    · exact .next hc.dropMsg.updEngine
    · exact .next hc
  · exact .next hc

/-! ### Bit streams -/

theorem canonical_bitsRead (hc : s.Canonical) {n d advance} : Outcome.Canonical (bitsRead s n d advance) :=
  canonical_settle hc (.bind hc.enterInstr fun _ _ => .bind (.ite .done .localFault) fun _ _ => .bind hc.access fun _ _ =>
    .bind hc.issueLoad fun _ h1 => .ok (.ite h1.updMe h1))

theorem canonical_execBsskip (hc : s.Canonical) {c} : Outcome.Canonical (execBsskip c s) :=
  canonical_settle hc (.bind hc.enterInstr fun _ _ => .ok hc.updMe.retire)

theorem State.Canonical.emitPlaces (hc : s.Canonical) {os n} : Ends (fun _ => True) (s.emitPlaces os n) :=
  hc.access

theorem State.Canonical.storeBytes (hc : s.Canonical) {t bs} : (s.storeBytes t bs).Canonical := by
  unfold State.storeBytes
  split
  · exact hc
  · refine .ite ?_ hc.sendStore
    dsimp only
    split
    · exact hc.sendStore.sendStore
    · exact hc.sendStore

theorem State.Canonical.emit (hc : s.Canonical) {zs v n} : (s.emit zs v n).Canonical :=
  hc.storeBytes.updMe

theorem canonical_execBsemit (hc : s.Canonical) {c n a} : Outcome.Canonical (execBsemit c n a s) :=
  canonical_settle hc (.bind hc.enterInstr fun _ _ => .bind (.ite .done .localFault) fun _ _ => .bind hc.emitPlaces fun _ _ =>
    .ok hc.emit.consume.retire.windowWait)

theorem canonical_execBsalign (hc : s.Canonical) {c} : Outcome.Canonical (execBsalign c s) :=
  canonical_settle hc (.bind hc.enterInstr fun _ _ => .ite (.bind hc.emitPlaces fun _ _ =>
    .ok (State.Canonical.ite hc.updMe hc).emit.retire.windowWait) (.ok (State.Canonical.ite hc.updMe hc).retire))

/-! ### Translation service cores -/

theorem State.Canonical.freeMisses (hc : s.Canonical) {k hit} : (s.freeMisses k hit).Canonical :=
  hc.updCore

theorem State.Canonical.wakeAll (hc : s.Canonical) {ts} : (s.wakeAll ts).Canonical := by
  induction ts generalizing s with
  | nil => exact hc
  | cons t ts ih => exact ih (State.Canonical.wake hc.updThread)

theorem State.Canonical.coreTlbw (hc : s.Canonical) {k e} : (s.coreTlbw k e).Canonical :=
  hc.updCore.freeMisses.wakeAll

theorem State.Canonical.retryEngines (hc : s.Canonical) {d e} : (s.retryEngines d e).Canonical := by
  unfold State.retryEngines
  refine hc.foldl fun _ _ h1 => ?_
  refine h1.foldl fun _ _ h2 => ?_
  split
  · exact .ite h2.updCmd.cmdGo.maybeReads h2
  · exact h2

theorem State.Canonical.etcWrite (hc : s.Canonical) {d e} : (s.etcWrite d e).Canonical :=
  hc.frame.retryEngines

theorem State.Canonical.ctcWrite (hc : s.Canonical) {cl e} : (s.ctcWrite cl e).Canonical :=
  hc.frame.updCluster

theorem canonical_execTlbWriteback (hc : s.Canonical) {k} : Outcome.Canonical (execTlbWriteback k s) := by
  unfold execTlbWriteback
  dsimp only
  split
  · exact .next hc.updCluster.coreTlbw
  · exact .next hc

theorem canonical_execTscMessageArrival (hc : s.Canonical) {cl} : Outcome.Canonical (execTscMessageArrival cl s) := by
  unfold execTscMessageArrival
  dsimp only
  split
  · exact .next hc
  · refine .ite (.next (.ite hc hc.updCluster)) ?_
    split
    · exact .next (.ite hc hc.updCluster)
    · exact .ite (.next (.ite hc hc.updCluster)) (.ite (.next hc.updCluster.updCluster) (.ite (.next hc.updCluster.etcWrite) (.next
        hc.updCluster.updCluster)))

theorem State.Canonical.shoot (hc : s.Canonical) {p} : (s.shoot p).Canonical := by
  unfold State.shoot
  split
  · exact hc
  · exact .ite hc (hc.updCp.foldl fun _ _ h1 => h1.updCluster)

theorem State.Canonical.shootAll (hc : s.Canonical) : (s.shootAll).Canonical :=
  .ite hc (hc.foldl fun _ _ h1 => h1.shoot)

theorem State.Canonical.popInbox (hc : s.Canonical) {cl} : (s.popInbox cl).Canonical := by
  unfold State.popInbox
  split
  · exact hc
  · exact .ite hc.updCluster.updCp hc.updCluster

theorem State.Canonical.deferInbox (hc : s.Canonical) {cl} : (s.deferInbox cl).Canonical :=
  hc.updCluster

theorem canonical_execTscMsgRead (hc : s.Canonical) {cl} : Outcome.Canonical (execTscMsgRead cl s) :=
  .ite (.next hc.wake) (.next hc)

theorem canonical_execTinboxPop (hc : s.Canonical) {cl} : Outcome.Canonical (execTinboxPop cl s) :=
  .next hc.popInbox

theorem canonical_execTinboxDefer (hc : s.Canonical) {cl} : Outcome.Canonical (execTinboxDefer cl s) :=
  .next hc.deferInbox

theorem State.Canonical.fatalTrap (hc : s.Canonical) {t cause va} : (s.fatalTrap t cause va).Canonical :=
  hc.updThread.trapEntry

theorem State.Canonical.faultThread (hc : s.Canonical) {t va cause seq} : (s.faultThread t va cause seq).Canonical :=
  .ite hc.fatalTrap hc.abortRegion.updThread.stop

theorem State.Canonical.ringRecord (hc : s.Canonical) {p ws} : (s.ringRecord p ws).Canonical :=
  hc.defer.updCp

theorem State.Canonical.postRec (hc : s.Canonical) {cl o} : (s.postRec cl o).Canonical :=
  hc.updCluster.ringRecord

theorem State.Canonical.postOrOwe (hc : s.Canonical) {cl o} : (s.postOrOwe cl o).Canonical :=
  .ite hc.postRec hc.updCluster

theorem State.Canonical.trapFetchers (hc : s.Canonical) {cl m cause pgs ts} : (s.trapFetchers cl m cause pgs ts).Canonical :=
  hc.foldl fun _ _ h1 => h1.postOrOwe.fatalTrap

theorem State.Canonical.attach (hc : s.Canonical) {cl m w cause pgs seq} : (s.attach cl m w cause pgs seq).Canonical := by
  unfold State.attach
  refine .wakeAll ?_
  refine .trapFetchers ?_
  split
  · exact ((State.Canonical.ite hc.popInbox.updCluster.freeMisses hc.popInbox.updCluster).foldl fun _ _ h1 => h1.faultThread).updCmd
  · exact (State.Canonical.ite hc.popInbox.updCluster.freeMisses hc.popInbox.updCluster).foldl fun _ _ h1 => h1.faultThread

theorem State.Canonical.parkOwed (hc : s.Canonical) {m w} : (s.parkOwed m w).Canonical :=
  hc.foldl fun _ _ h1 => h1.abortRegion.updThread.stop

theorem State.Canonical.parkFetchers (hc : s.Canonical) {cl m cause pgs} : (s.parkFetchers cl m cause pgs).Canonical :=
  hc.updCluster.parkOwed.trapFetchers

theorem State.Canonical.trapPinned (hc : s.Canonical) {cl m cause} : (s.trapPinned cl m cause).Canonical :=
  (hc.freeMisses.foldl fun _ _ h1 => h1.fatalTrap).wakeAll

theorem State.Canonical.tfpost (hc : s.Canonical) {cl v} : (s.tfpost cl v).Canonical := by
  unfold State.tfpost
  refine .ite hc ?_
  split
  · exact hc.updCluster
  · refine .ite hc.updCluster ?_
    refine .ite (.ite hc.updCluster.trapPinned (.ite hc.updCluster.parkFetchers hc.updCluster.parkOwed)) ?_
    refine .ite hc.updCluster.attach ?_
    split
    · exact hc.updCluster.attach
    · exact hc.updCluster.postRec.attach

theorem State.Canonical.tfattach (hc : s.Canonical) {cl v} : (s.tfattach cl v).Canonical := by
  unfold State.tfattach
  dsimp only
  split
  · exact hc.updCluster
  · split
    · exact .ite hc.attach hc.updCluster
    · exact hc.updCluster

theorem canonical_execTfpost (hc : s.Canonical) {cl v} : Outcome.Canonical (execTfpost cl v s) :=
  .next hc.tfpost

theorem canonical_execTfattach (hc : s.Canonical) {cl v} : Outcome.Canonical (execTfattach cl v s) :=
  .next hc.tfattach

theorem State.Canonical.freeFault (hc : s.Canonical) {cl f} : (s.freeFault cl f).Canonical := by
  unfold State.freeFault
  dsimp only
  split
  · exact hc.updCluster
  · exact hc.updCluster.updCluster.postRec

theorem State.Canonical.answerThread (hc : s.Canonical) {t kill cause va} : (s.answerThread t kill cause va).Canonical :=
  .ite hc.updThread.fatalTrap hc.updThread.wake

theorem State.Canonical.answerEngine (hc : s.Canonical) {g id kill} : (s.answerEngine g id kill).Canonical :=
  .ite hc.updCmd hc.updCmd.cmdGo.maybeReads

theorem State.Canonical.answerFault (hc : s.Canonical) {cl asid seq kill} : (s.answerFault cl asid seq kill).Canonical := by
  unfold State.answerFault
  split
  · exact hc
  · refine hc.freeFault.foldl fun _ _ h1 => ?_
    split
    · exact h1.answerThread
    · exact h1.updCluster
    · exact h1.answerEngine

theorem canonical_answerOp (hc : s.Canonical) {cl asid seq kill} : Outcome.Canonical (answerOp cl asid seq kill s) :=
  hc.chosenCp.asMachine (.next hc.chosenCp.answerFault)

theorem canonical_execFaultAnswerTimeout (hc : s.Canonical) {cl seq} : Outcome.Canonical (execFaultAnswerTimeout cl seq s) := by
  unfold execFaultAnswerTimeout
  split
  · exact .ite (.next hc) (.next hc.updCluster.notice)
  · exact .next hc

theorem canonical_execTlbw (hc : s.Canonical) {m n b a} : Outcome.Canonical (execTlbw m n b a s) :=
  canonical_settle hc (.bind hc.enterInstr fun _ _ => .bind (.ite .done .illegal) fun _ _ => .bind hc.refilled fun _ _ =>
    .ok (.ite hc.consume.retire.etcWrite (.ite hc.consume.retire.updCluster hc.consume.retire.ctcWrite)))

theorem State.Canonical.dropWriteback (hc : s.Canonical) {k e} : (s.dropWriteback k e).Canonical :=
  hc.freeMisses.wakeAll

theorem canonical_execTlbi (hc : s.Canonical) {t sc n a d} : Outcome.Canonical (execTlbi t sc n a d s) :=
  canonical_settle hc (.bind hc.enterInstr fun _ _ => .bind hc.refilled fun _ _ =>
    .ok (State.Canonical.ite ((hc.updCluster.foldl fun _ _ h1 => h1.updCore).foldl fun _ _ h1 =>
    h1.dropWriteback).frame ((hc.updCluster.foldl fun _ _ h1 => h1.updCore).foldl fun _ _ h1 => h1.dropWriteback)).consume.stop)

theorem canonical_execTlbiCompletion (hc : s.Canonical) {cl} : Outcome.Canonical (execTlbiCompletion cl s) := by
  unfold execTlbiCompletion
  dsimp only
  split
  · exact .ite (.next hc) (.next hc.updCluster.updThread.wake)
  · exact .next hc

theorem State.Canonical.icacheRead (hc : s.Canonical) {cl pa} : (s.icacheRead cl pa).2.Canonical := by
  unfold State.icacheRead
  dsimp only
  split
  · exact hc.frame
  · split
    · exact hc
    · split
      · exact hc.frame
      · exact hc.frame

theorem canonical_execFetchBlockDelivery (hc : s.Canonical) {cl asid va} : Outcome.Canonical (execFetchBlockDelivery cl asid va s) := by
  unfold execFetchBlockDelivery
  dsimp only
  split
  · exact .next hc
  · next f _ =>
    split
    · exact .next (.ite hc.updCluster hc.updCluster.updCluster)
    · next e _ =>
      have hr : ∀ {c : Prop} [Decidable c] {b : BitVec 512}, (if c then (b, s) else s.icacheRead cl (e.pa va)).2.Canonical := by
        intro c _ b
        split
        · exact hc
        · exact hc.icacheRead
      have h2 : ∀ {ks : List Nat} {f} {g : Nat → Core → Core} {c : Prop} [Decidable c] {b : BitVec 512},
          (ks.foldl (fun u k => u.updCore k (g k)) ((if c then (b, s) else s.icacheRead cl (e.pa va)).2.updCluster cl f)).Canonical :=
        (State.Canonical.updCluster hr).foldl fun _ _ h => h.updCore
      exact .ite (.next hc) (.next (.ite h2.wakeAll h2.wakeAll.updCluster))

/-! ### CSRs -/

theorem State.Canonical.csrRead (hc : s.Canonical) {t n} : Ends (fun p => p.2.Canonical) (s.csrRead t n) :=
  .ite (.ite .waitFor (.ok hc.updCluster)) (.ite (.ite (.ok hc.updCore) (.ok hc)) (.ok hc))

theorem State.Canonical.markLeaving (hc : s.Canonical) {cl a b} : (s.markLeaving cl a b).Canonical :=
  hc.frame.updCluster

theorem State.Canonical.writeClpart (hc : s.Canonical) {cl v} : (s.writeClpart cl v).Canonical :=
  .ite hc.updCluster (.ite hc.updCluster (.ite hc.updCluster.markLeaving.updCluster.growOver hc.updCluster.updCluster))

theorem State.Canonical.writeTinbox (hc : s.Canonical) {cl v} : (s.writeTinbox cl v).Canonical :=
  .ite hc.updCluster.popInbox (.ite hc.updCluster.deferInbox hc.updCluster)

theorem State.Canonical.writePlain (hc : s.Canonical) {t n v} : (s.writePlain t n v).Canonical := by
  unfold State.writePlain
  dsimp only
  split
  · exact hc.updCore
  · exact hc.updCore
  · exact hc.updCluster
  · exact hc.updThread

theorem State.Canonical.csrWrite (hc : s.Canonical) {t n v} : Ends State.Canonical (s.csrWrite t n v) := by
  have orTrap : ∀ {α : Type} {o : Option α} {f : α → State}, (∀ a, (f a).Canonical) →
      Ends State.Canonical (match o.map f with | some s1 => (.ok s1 : Except Stop State) | none => Machine.illegal) := by
    intro α o f hf
    cases o with
    | none => exact .illegal
    | some a => exact .ok (hf a)
  unfold State.csrWrite
  dsimp only
  split
  · exact orTrap fun _ => hc.setThread
  · exact .ok hc.updThread
  · exact orTrap fun _ => hc.setThread
  · exact orTrap fun _ => hc.setCore
  · exact orTrap fun _ => hc.setCore
  · exact .ite .illegal (.ite (.goto hc) (.ok hc.writeClpart.tie))
  · exact .ok hc.updCluster
  · exact .ok hc.writeTinbox
  · exact .ok hc.tfpost
  · exact .ok hc.tfattach
  · exact .ok hc.writePlain

theorem canonical_csrAccess (hc : s.Canonical) {n os d new blind} : Outcome.Canonical (csrAccess s n os d new blind) := by
  unfold csrAccess
  refine canonical_settle hc (.bind hc.enterInstr fun _ _ => .bind (.ite .done .illegal) fun _ _ =>
    .bind (.ite .illegal .done) fun _ _ => .bind hc.refilled fun _ _ => .bind hc.csrRead fun r hr => ?_)
  obtain ⟨old, s1⟩ := r
  dsimp only
  split
  · exact .bind (State.Canonical.csrWrite hr) fun _ h2 => .ok h2.consume.setS.retire
  · exact .bind (.ok hr) fun _ h2 => .ok (State.Canonical.consume h2).setS.retire

theorem canonical_csrStep (hc : s.Canonical) {t n v} : Outcome.Canonical (csrStep s t n v) := by
  unfold csrStep
  refine .ite (.next hc) ?_
  have hw : Ends State.Canonical (if csrWritable (s.csrState t) (ctxOf t) n then s.csrWrite t n v else illegal) := .ite
    hc.csrWrite .illegal
  split
  · next e => rw [e] at hw; exact .next hw
  · exact .next hc.trapEntry

theorem canonical_execXfclaimRead (hc : s.Canonical) {t d} : Outcome.Canonical (execXfclaimRead t d s) := by
  unfold execXfclaimRead
  refine .ite (.next hc) ?_
  have hr := hc.csrRead (t := t) (n := 0x103)
  split
  · next v s1 e =>
    rw [e] at hr
    exact .next (State.Canonical.consume hr).setS
  · exact .next hc

theorem State.Canonical.windowClpart (hc : s.Canonical) {cl v} : (s.windowClpart cl v).Canonical :=
  .ite hc hc.writeClpart.tie

theorem canonical_execClpartWrite (hc : s.Canonical) {cl v} : Outcome.Canonical (execClpartWrite cl v s) :=
  .next hc.windowClpart

theorem canonical_execHclrGo (hc : s.Canonical) {cl v} : Outcome.Canonical (execHclrGo cl v s) :=
  .next hc.updCluster

/-! ### System instructions -/

theorem canonical_execTrap (hc : s.Canonical) {b} : Outcome.Canonical (execTrap b s) :=
  canonical_settle hc (.bind hc.enterInstr fun _ _ => .trap)

theorem canonical_execDbg (hc : s.Canonical) {b} : Outcome.Canonical (execDbg b s) :=
  canonical_settle hc (.bind hc.enterInstr fun _ _ => .trap)

theorem canonical_execEret (hc : s.Canonical) : Outcome.Canonical (execEret s) :=
  canonical_settle hc (.bind hc.enterInstr fun _ _ => .bind (.ite .localFault .done) fun _ _ => .ok hc.trapReturn.updMe.updCore)

theorem canonical_execHalt (hc : s.Canonical) : Outcome.Canonical (execHalt s) :=
  canonical_settle hc (.bind hc.enterInstr fun _ _ => .bind hc.notCancelled fun _ _ => .ok hc.beginCommit.awaitDrained)

theorem State.Canonical.haltThread (hc : s.Canonical) {t} : (s.haltThread t).Canonical :=
  hc.updThread.stop.notice

theorem State.Canonical.lineOperand (hc : s.Canonical) {n a} : Ends (fun _ => True) (s.lineOperand n a) := by
  unfold State.lineOperand
  refine .bind hc.checkAll fun _ _ => ?_
  refine .bind hc.ready fun _ _ => ?_
  split <;> exact .done

theorem canonical_execCwb (hc : s.Canonical) {n a} : Outcome.Canonical (execCwb n a s) := by
  unfold execCwb
  refine canonical_settle hc ?_
  refine .bind hc.enterInstr fun _ _ => ?_
  refine .bind hc.lineOperand fun _ _ => ?_
  dsimp only
  split
  · exact .ok hc.consume.retire
  · exact .ok hc.frame.stop

theorem canonical_execCinv (hc : s.Canonical) {n a} : Outcome.Canonical (execCinv n a s) := by
  unfold execCinv
  refine canonical_settle hc ?_
  refine .bind hc.enterInstr fun _ _ => ?_
  refine .bind hc.lineOperand fun _ _ => ?_
  dsimp only
  split
  · exact .ok hc.consume.retire
  · exact .ok hc.consume.retire.setL1

theorem canonical_execCwbWritebackDone (hc : s.Canonical) {t} : Outcome.Canonical (execCwbWritebackDone t s) := by
  unfold execCwbWritebackDone
  split
  · exact .next hc
  · exact .ite (.next hc) (.ite (.next hc.dropReq.flipDone.cleanSlice.wake) (.next hc.dropReq.flipDone.cleanSlice))

theorem canonical_execRegisterRefill (hc : s.Canonical) {t} : Outcome.Canonical (execRegisterRefill t s) := by
  unfold execRegisterRefill
  split
  · exact .next hc.updThread.refill.wake
  · exact .next hc

theorem canonical_execLongLatencyResult (hc : s.Canonical) {t} : Outcome.Canonical (execLongLatencyResult t s) := by
  unfold execLongLatencyResult
  split
  · exact .ite (.next hc.wake) (.next hc)
  · exact .next hc

theorem canonical_execContextResume (hc : s.Canonical) {t} : Outcome.Canonical (execContextResume t s) := by
  unfold execContextResume
  refine .ite (.next hc) ?_
  split
  · exact .next hc.updThread.wake
  · exact .next hc.updThread.wake
  · exact .next hc

theorem canonical_execHaltedContextFree (hc : s.Canonical) {t} : Outcome.Canonical (execHaltedContextFree t s) := by
  unfold execHaltedContextFree
  refine .ite (.next hc) ?_
  split
  · exact .next hc.abortThread
  · exact .next hc.abortThread
  · exact .next hc

theorem canonical_execDebuggerResume (hc : s.Canonical) {t} : Outcome.Canonical (execDebuggerResume t s) :=
  .ite (.next hc.updThread.wake) (.next hc)

/-! ### Power and clock -/

theorem canonical_execBankDrowsy (hc : s.Canonical) {k b} : Outcome.Canonical (execBankDrowsy k b s) :=
  .ite (.next hc.updCore) (.next hc)

theorem canonical_execBankWake (hc : s.Canonical) {k b} : Outcome.Canonical (execBankWake k b s) :=
  .ite (.next hc.updCore) (.next hc)

theorem canonical_execCoreGate (hc : s.Canonical) {k} : Outcome.Canonical (execCoreGate k s) :=
  .ite (.next hc.updCore) (.next hc)

theorem canonical_execCoreWake (hc : s.Canonical) {k} : Outcome.Canonical (execCoreWake k s) :=
  .ite (.next hc.updCore) (.next hc)

theorem canonical_execExpanderExpandComplete (hc : s.Canonical) {cl blk ue} :
    Outcome.Canonical (execExpanderExpandComplete cl blk ue s) :=
  .ite (.next hc) (.ite (.next hc.updCluster) (.next hc.updCluster.clearRange.updCluster.notice))

theorem canonical_execExpanderCompressComplete (hc : s.Canonical) {cl blk} : Outcome.Canonical (execExpanderCompressComplete cl blk s) :=
  .ite (.next hc) (.next hc.updCluster)

theorem canonical_execClpartLeavingLine (hc : s.Canonical) {cl} : Outcome.Canonical (execClpartLeavingLine cl s) := by
  unfold execClpartLeavingLine
  refine .ite (.next hc) ?_
  refine .next ?_
  split
  · exact hc.dropSlice
  · exact hc.growOver

theorem canonical_execClpartShrinkComplete (hc : s.Canonical) {cl} : Outcome.Canonical (execClpartShrinkComplete cl s) :=
  .ite (.next hc) (.next hc.clearRange.updCluster)

theorem canonical_execEbudgetRefill (hc : s.Canonical) : Outcome.Canonical (execEbudgetRefill s) :=
  .ite (.next hc) (.next hc.frame)

theorem canonical_execDroopStretch (hc : s.Canonical) {cl} : Outcome.Canonical (execDroopStretch cl s) :=
  .next hc

theorem canonical_execPowerAlarmAssert (hc : s.Canonical) : Outcome.Canonical (execPowerAlarmAssert s) :=
  .ite (.next hc) (.next (.ite hc.frame.notice hc.frame))

theorem canonical_execPowerAlarmDeassert (hc : s.Canonical) : Outcome.Canonical (execPowerAlarmDeassert s) :=
  .ite (.next hc.frame) (.next hc)

theorem canonical_execNarrowClear (hc : s.Canonical) : Outcome.Canonical (execNarrowClear s) := by
  unfold execNarrowClear
  split
  · exact .ite (.next hc.frame) (.next hc)
  · exact .next hc

theorem State.Canonical.recovered (hc : s.Canonical) : (s.recovered).Canonical :=
  .ite hc hc.frame

theorem State.Canonical.writeKdstate (hc : s.Canonical) {v} : (s.writeKdstate v).Canonical :=
  hc.frame.recovered

theorem canonical_execKdstateWrite (hc : s.Canonical) {v} : Outcome.Canonical (execKdstateWrite v s) :=
  hc.chosenCp.asMachine (.next hc.chosenCp.writeKdstate)

/-! ### Command queues and launches -/

theorem canonical_execQtailWrite (hc : s.Canonical) {fn q v} : Outcome.Canonical (execQtailWrite fn q v s) :=
  .ite (.next hc) (.next hc.updQueue)

theorem canonical_execQcfgWrite (hc : s.Canonical) {fn q v} : Outcome.Canonical (execQcfgWrite fn q v s) :=
  .ite (.next hc) (.ite (.next hc.updQueue) (.next hc.updQueue.targetDone))

theorem State.Canonical.newcomer (hc : s.Canonical) {fn} : (s.newcomer fn).Canonical :=
  .ite hc hc.updFunc

theorem State.Canonical.takeEntry (hc : s.Canonical) {fn q} : (s.takeEntry fn q).1.Canonical := hc.newcomer.updQueue

theorem State.Canonical.refuse (hc : s.Canonical) {fn q e asid reason} : (s.refuse fn q e asid reason).Canonical :=
  hc.newcomer.updQueue.writeCpl

theorem State.Canonical.skipCancelled (hc : s.Canonical) {fn q e asid} : (s.skipCancelled fn q e asid).Canonical :=
  hc.newcomer.updQueue.writeCpl.targetDone

theorem State.Canonical.openEntry (hc : s.Canonical) {fn q a} : (s.openEntry fn q a).Canonical :=
  hc.updQueue

theorem canonical_execNopEntry (hc : s.Canonical) {fn q} : Outcome.Canonical (execNopEntry fn q s) := by
  unfold execNopEntry
  split
  · exact .ite (.next hc) (.next hc.newcomer.updQueue.writeCpl)
  · exact .next hc

theorem canonical_execReservedEntry (hc : s.Canonical) {fn q} : Outcome.Canonical (execReservedEntry fn q s) := by
  unfold execReservedEntry
  split
  · exact .ite (.next hc) (.next hc.refuse)
  · exact .next hc

theorem State.Canonical.addLaunch (hc : s.Canonical) {e fn cp seqno o} : (s.addLaunch e fn cp seqno o).1.Canonical := hc.frame

theorem canonical_execLaunchEntry (hc : s.Canonical) {fn q} : Outcome.Canonical (execLaunchEntry fn q s) := by
  unfold execLaunchEntry
  split
  · refine .ite (.next hc) (.ite (.next hc.skipCancelled) ?_)
    split
    · exact .next hc.refuse
    · exact .next hc.takeEntry.addLaunch.openEntry
  · exact .next hc

theorem canonical_execGrun (hc : s.Canonical) {fn q} : Outcome.Canonical (execGrun fn q s) := by
  unfold execGrun
  split
  · refine .ite (.next hc) (.ite (.next hc.skipCancelled) (.ite (.next hc.refuse) (.ite (.next hc) (.ite (.next hc.refuse) ?_))))
    split
    · exact .next hc.refuse
    · dsimp only
      split
      · exact .next hc
      · exact .next hc.takeEntry.updGslot.openEntry
  · exact .next hc

theorem canonical_execGpatch (hc : s.Canonical) {fn q} : Outcome.Canonical (execGpatch fn q s) := by
  unfold execGpatch
  split
  · exact .ite (.next hc) (.ite (.next hc.refuse) (.ite (.next hc.refuse) (.next hc.newcomer.updQueue.updGslot.writeCpl)))
  · exact .next hc

theorem canonical_execGfree (hc : s.Canonical) {fn q} : Outcome.Canonical (execGfree fn q s) := by
  unfold execGfree
  split
  · exact .ite (.next hc) (.ite (.next hc.refuse) (.next hc.newcomer.updQueue.openEntry.slotFree))
  · exact .next hc

theorem canonical_execGraphNodeAccept (hc : s.Canonical) {fn slot bank} : Outcome.Canonical (execGraphNodeAccept fn slot bank s) := by
  unfold execGraphNodeAccept
  split
  · refine .ite (.next hc) ?_
    dsimp only
    split
    · exact .next hc.updGslot.nodeDone
    · refine .ite (.next hc) ?_
      split
      · exact .next hc.updGslot.writeCpl.nodeDone
      · exact .next hc.updGslot.addLaunch
  · exact .next hc

theorem State.Canonical.cancelLaunch (hc : s.Canonical) {n} : (s.cancelLaunch n).Canonical := by
  unfold State.cancelLaunch
  split
  · exact hc
  · exact .ite hc.endLaunch hc.updLaunch

theorem canonical_execCancelEntry (hc : s.Canonical) {fn q} : Outcome.Canonical (execCancelEntry fn q s) := by
  unfold execCancelEntry
  split
  · exact .ite (.next hc) (.ite (.next hc.refuse) (.ite (.next hc.newcomer.updQueue.writeCpl) (.next
      ((hc.newcomer.updQueue.openEntry.foldl fun _ _ h1 => h1.cancelLaunch).foldl fun _ _ h1 => (h1.updGslot.foldl fun _ _ h2 =>
      h2.cancelLaunch).replayOver))))
  · exact .next hc

theorem canonical_execCancelArrival (hc : s.Canonical) {launch k} : Outcome.Canonical (execCancelArrival launch k s) := by
  unfold execCancelArrival
  split
  · exact .next hc
  · exact .ite (.next hc) (.next (((hc.updCore.updCluster.updLaunch.foldl fun _ _ h1 => h1.updThread).foldl fun _ _ h1 =>
      h1.withdraw).foldl fun _ _ h1 => h1.abortThread).endIfOver)

theorem State.Canonical.placeAll (hc : s.Canonical) {first ls} : (s.placeAll first ls).Canonical := by
  induction ls generalizing s first with
  | nil => exact hc
  | cons l ls ih =>
    unfold State.placeAll
    split
    · exact ih (State.Canonical.updLaunch (hc.foldl fun _ _ h => h.updCore))
    · exact .ite hc.updLaunch (ih hc.updLaunch)

theorem canonical_execAllocatorPass (hc : s.Canonical) : Outcome.Canonical (execAllocatorPass s) :=
  .ite (.next hc) (.next hc.tie.placeAll)

theorem canonical_execUsageAccounting (hc : s.Canonical) : Outcome.Canonical (execUsageAccounting s) :=
  .ite (.next hc) (.next (hc.tie.foldl fun _ _ h1 => h1.updFunc))

theorem State.Canonical.clearLaunch (hc : s.Canonical) {r} : (s.clearLaunch r).Canonical :=
  (hc.foldl fun _ _ h1 => h1.clearRange.clearRange).foldl fun _ _ h1 => h1.clearRange.updCluster

theorem State.Canonical.runPieces (hc : s.Canonical) {ps} : (s.runPieces ps).1.Canonical := by
  induction ps generalizing s with
  | nil => exact hc
  | cons p ps ih =>
    unfold State.runPieces
    dsimp only
    split
    · exact ih hc.write.updCluster
    · exact hc.homePrepare

theorem State.Canonical.loadEntry (hc : s.Canonical) {l dst src len r} (e : s.loadEntry l dst src len = some r) : r.1.Canonical := by
  unfold State.loadEntry at e
  dsimp only at e
  split at e
  · split at e
    · rw [← Option.some.inj e]; exact hc.foldl fun _ _ h => h.write
    · nomatch e
  · split at e
    · rw [← Option.some.inj e]; exact hc
    · nomatch e
  · split at e
    · rw [← Option.some.inj e]; exact hc.write
    · nomatch e
  · nomatch e

theorem State.Canonical.loadImage (hc : s.Canonical) {l va n r} (e : s.loadImage l va n = some r) : r.1.Canonical := by
  induction n generalizing s va r with
  | zero => rw [← Option.some.inj e]; exact hc
  | succ n ih =>
    unfold State.loadImage at e
    split at e
    · nomatch e
    · dsimp only at e
      split at e
      · rw [← Option.some.inj e]; exact hc
      · split at e
        · next s1 ps h1 =>
          obtain ⟨r1, e1, rfl⟩ := Option.map_eq_some_iff.mp e
          exact ih (r := r1) (State.Canonical.loadEntry (r := (s1, ps)) hc h1) e1
        · nomatch e

theorem State.Canonical.goLive (hc : s.Canonical) {l} : (s.goLive l).Canonical :=
  (hc.updLaunch.foldl fun _ _ h1 => h1.setThread).foldl fun _ _ h1 => h1.foldl fun _ _ h2 => h2.setRun.startThread

theorem State.Canonical.goLoad (hc : s.Canonical) {l ps} : (s.goLoad l ps).Canonical :=
  .ite hc.runPieces.goLive hc.runPieces.updLaunch

theorem canonical_execLaunchStart (hc : s.Canonical) {launch} : Outcome.Canonical (execLaunchStart launch s) := by
  unfold execLaunchStart
  split
  · exact .next hc
  · next l _ =>
    refine .ite (.next hc) ?_
    split
    · exact .next hc.goLoad
    · extract_lets s1
      have h1 : s1.Canonical := .ite hc.clearLaunch hc
      split
      · exact .next h1.endLaunch
      · next s2 ps e =>
        have h2 : (s2, ps).1.Canonical := by
          split at e
          · rw [← Option.some.inj e]; exact h1
          · exact h1.loadImage e
        exact .next (State.Canonical.goLoad h2)

/-! ### Pre-emption -/

theorem State.Canonical.request (hc : s.Canonical) {cp k block launch cs quench} : (s.request cp k block launch cs quench).Canonical :=
  hc.frame

theorem State.Canonical.cleanLines (hc : s.Canonical) {ls} : (s.cleanLines ls).Canonical := by
  induction ls generalizing s with
  | nil => exact hc
  | cons l ls ih => exact ih hc.cleanSlice

theorem State.Canonical.saveWords (hc : s.Canonical) {a ws} : (s.saveWords a ws).Canonical :=
  hc.outsideWords.cleanLines

theorem State.Canonical.finishBlock (hc : s.Canonical) {block} : (s.finishBlock block).Canonical := by
  unfold State.finishBlock
  dsimp only
  split
  · exact hc
  · exact .ite hc (State.Canonical.ite hc.saveWords.saveWords.updCore.updCluster hc.saveWords.saveWords).frame.defer.endIfOver

theorem State.Canonical.finishBlocks (hc : s.Canonical) : (s.finishBlocks).Canonical :=
  .ite hc (hc.foldl fun _ _ h1 => h1.finishBlock)

theorem State.Canonical.requestDone (hc : s.Canonical) {t saved} : (s.requestDone t saved).Canonical :=
  hc.frame.foldl fun _ _ h1 => h1.finishBlock

theorem canonical_execPreemptContext (hc : s.Canonical) {cp v} : Outcome.Canonical (execPreemptContext cp v s) := by
  unfold execPreemptContext
  split
  · exact .ite (.next hc) (hc.asMachine (.next hc.request.finishBlock))
  · exact .next hc

theorem canonical_execPreemptCore (hc : s.Canonical) {cp v} : Outcome.Canonical (execPreemptCore cp v s) := by
  unfold execPreemptCore
  split
  · exact .ite (.next hc) (hc.asMachine (.next hc.request.finishBlock))
  · exact .next hc

theorem canonical_execPreemptLaunch (hc : s.Canonical) {cp v} : Outcome.Canonical (execPreemptLaunch cp v s) := by
  unfold execPreemptLaunch
  split
  · exact .ite (.next hc) (hc.asMachine (.next (hc.foldl fun _ _ h => h.request.finishBlock)))
  · exact .next hc

theorem State.Canonical.drainAt (hc : s.Canonical) {t pc pfx} : (s.drainAt t pc pfx).Canonical :=
  hc.drainRsb.updThread.releaseChildren.dropTcons.stop

theorem State.Canonical.stopMma (hc : s.Canonical) {t} : IfAny (s.stopMma t) := by
  unfold State.stopMma
  dsimp only
  split
  · split
    · exact .some hc.dropJob.tileConsumed.tileConsumed.updThread.drainAt
    · exact .none
  · exact .none

theorem State.Canonical.withdrawArrivals (hc : s.Canonical) {t} : (s.withdrawArrivals t).Canonical :=
  hc.frame

theorem State.Canonical.atPoint (hc : s.Canonical) {t block} : IfAny (s.atPoint t block) := by
  unfold State.atPoint
  dsimp only
  split
  · exact .ite (.some hc.stop) .none
  · exact .some hc.updThread.stop
  · exact .some hc.releaseHolder.stop
  · exact .some hc.withdrawArrivals.drainAt
  · exact .some hc.drainAt.updThread
  · exact .ite .none (.some hc.leaveMmac.drainAt)
  · exact .some hc.frame.drainAt
  · exact .some hc.drainAt.updThread
  · split
    · exact .some hc.drainAt
    · exact .some hc.drainAt
    · exact .none
  · exact .some hc.withdraw.drainAt
  · exact .some hc.drainAt
  · exact .some hc.drainAt
  · exact .some hc.drainAt
  · exact .some hc.drainAt
  · exact .some hc.withdraw.releaseAlign.drainAt
  · exact .some hc.drainAt
  · exact .some hc.drainAt
  · exact hc.stopMma
  · exact .none

theorem State.Canonical.writeImage (hc : s.Canonical) {t a} : (s.writeImage t a).Canonical :=
  .ite (State.Canonical.ite hc.saveWords.saveWords.saveWords hc.saveWords).saveWords.saveWords (.ite hc.saveWords.saveWords.saveWords
    hc.saveWords)

theorem State.Canonical.saveEntry (hc : s.Canonical) {e} : (s.saveEntry e).Canonical :=
  hc.frame

theorem State.Canonical.saveContext (hc : s.Canonical) {t block} : (s.saveContext t block).Canonical :=
  hc.writeImage.dropTcons.dropHandles.giveUpAccs.updCore.updThread.saveEntry

theorem canonical_execPreemptionSave (hc : s.Canonical) {t} : Outcome.Canonical (execPreemptionSave t s) := by
  unfold execPreemptionSave
  split
  · exact .next hc
  · refine .ite (.next hc.requestDone) ?_
    refine .ite (.ite (.next hc.placeChildren) (.ite (.next hc) (.ite (.next hc.saveContext.requestDone) (.next hc)))) ?_
    refine .ite (.next hc) ?_
    split
    · next t1 e1 => exact .next (hc.atPoint t1 e1).tie
    · exact .next hc

theorem State.Canonical.forceAbort (hc : s.Canonical) {t} : (s.forceAbort t).Canonical :=
  hc.withdraw.abortRegion.updThread.stop

theorem canonical_execPreemptionLimitExpiry (hc : s.Canonical) {t} : Outcome.Canonical (execPreemptionLimitExpiry t s) := by
  unfold execPreemptionLimitExpiry
  dsimp only
  split
  · exact .next hc
  · refine .ite (.next hc) ?_
    refine .ite (.next hc.endContexts.requestDone) ?_
    refine .ite (.next hc) ?_
    refine .ite (.next hc) ?_
    split
    · exact .next hc
    · exact .ite (.next hc.forceAbort) (.ite (.next hc) (.next hc.frame.notice))

theorem State.Canonical.restoreRegs (hc : s.Canonical) {t a l prio task} : (s.restoreRegs t a l prio task).Canonical :=
  (hc.setThread.setRun.foldl fun _ _ h1 => h1.setV).foldl fun _ _ h1 => h1.setK

theorem State.Canonical.restoreHandles (hc : s.Canonical) {t launch a js} : IfAny (s.restoreHandles t launch a js) := by
  induction js generalizing s with
  | nil => exact .some hc
  | cons j js ih =>
    unfold State.restoreHandles
    refine .ite (ih hc) ?_
    dsimp only
    split
    · exact .none
    · exact ih (State.Canonical.updThread (.ite hc.updTile hc.setTile))

theorem State.Canonical.restoreAcc (hc : s.Canonical) {t a one} : (s.restoreAcc t a one).Canonical :=
  hc.updAcc

theorem State.Canonical.restoreRecords (hc : s.Canonical) {k block n} : (s.restoreRecords k block n).Canonical :=
  hc.frame.updCore.updCluster

theorem State.Canonical.resumeFault (hc : s.Canonical) {t seq block} : (s.resumeFault t seq block).Canonical := by
  unfold State.resumeFault
  refine .ite hc.updCluster.updThread.stop ?_
  split
  · exact .ite hc.updCluster.fatalTrap hc.updCluster
  · exact .ite hc.updCluster.updThread.stop hc

theorem canonical_execContextRestore (hc : s.Canonical) {addr k c} : Outcome.Canonical (execContextRestore addr k c s) := by
  unfold execContextRestore
  extract_lets
  split
  · exact .next hc
  · extract_lets prio s1
    refine .ite (.next hc) ?_
    have h1 : s1.Canonical := hc.restoreRegs
    split
    · exact .next hc
    · next s2 e =>
      have h2 : s2.Canonical := h1.restoreHandles s2 e
      extract_lets s3 s4 s5 s6 s7 s8
      have h3 : s3.Canonical := .ite h2.restoreAcc h2
      have h4 : s4.Canonical := .ite h3.restoreAcc h3
      have h5 : s5.Canonical := .ite h4.restoreRecords h4
      have h6 : s6.Canonical := h5.setSaved
      have h7 : s7.Canonical := h6.updCore.startThread
      have h8 : s8.Canonical := h7.updThread
      exact .next (.ite h8.resumeFault h8)

/-! ### Boot, mailbox, watchdog and attestation -/

theorem State.Canonical.quenchCores (hc : s.Canonical) {l ks} : (s.quenchCores l ks).Canonical :=
  .ite hc.endContexts (hc.foldl fun _ _ h1 => h1.request.finishBlock)

theorem State.Canonical.quenchFor (hc : s.Canonical) {l level reason} : (s.quenchFor l level reason).Canonical := by
  unfold State.quenchFor
  dsimp only
  split
  · exact hc.updLaunch.notice
  · exact hc.updLaunch.notice.quenchCores
  · exact hc.updLaunch.foldl fun _ _ h1 => h1.quenchCluster
  · exact hc.updLaunch.quenchDevice

theorem State.Canonical.quenching (hc : s.Canonical) {level} : (s.quenching level).Canonical :=
  hc.tie

theorem canonical_execProgressTimeout (hc : s.Canonical) {launch} : Outcome.Canonical (execProgressTimeout launch s) := by
  unfold execProgressTimeout
  split
  · exact .ite (.next hc.quenching.quenchFor) (.next hc)
  · exact .next hc

theorem canonical_execEscalationTimeout (hc : s.Canonical) {launch} : Outcome.Canonical (execEscalationTimeout launch s) := by
  unfold execEscalationTimeout
  split
  · exact .ite (.next hc.quenching.quenchFor) (.next hc)
  · exact .next hc

theorem State.Canonical.repost (hc : s.Canonical) {old} : (s.repost old).Canonical :=
  hc.foldl fun _ _ h1 => h1.foldl fun _ _ h2 => .ite h2 h2.ringRecord

theorem State.Canonical.handOver (hc : s.Canonical) {p} : (s.handOver p).Canonical :=
  hc.updCp.repost

theorem State.Canonical.takeBack (hc : s.Canonical) {p} : (s.takeBack p).Canonical :=
  hc.updCp.repost

theorem canonical_execHeartbeat (hc : s.Canonical) {cp} : Outcome.Canonical (execHeartbeat cp s) :=
  .ite (hc.asMachine (.next hc.updCp)) (.next hc)

theorem canonical_execHeartbeatTimeout (hc : s.Canonical) {cp} : Outcome.Canonical (execHeartbeatTimeout cp s) :=
  .ite (.next hc.handOver.updCp.notice) (.next hc)

theorem State.Canonical.mailboxDone (hc : s.Canonical) {result} : (s.mailboxDone result).Canonical :=
  hc.frame

theorem State.Canonical.imageNotice (hc : s.Canonical) {result} : (s.imageNotice result).Canonical :=
  hc.notice

theorem State.Canonical.finishUpdate (hc : s.Canonical) : (s.finishUpdate).Canonical :=
  hc.frame.imageNotice

theorem canonical_execLiveReplacementRestart (hc : s.Canonical) {cp} : Outcome.Canonical (execLiveReplacementRestart cp s) := by
  unfold execLiveReplacementRestart
  refine .ite (.next hc) ?_
  refine .ite (.next hc.takeBack) ?_
  split
  · exact .ite (.next hc) (.ite (.next hc.handOver) (.ite (.next hc.takeBack.frame) (.next hc.takeBack.finishUpdate)))
  · exact .next hc

theorem canonical_execMailboxUpdate (hc : s.Canonical) : Outcome.Canonical (execMailboxUpdate s) := by
  unfold execMailboxUpdate
  refine .ite (.next hc) ?_
  refine .ite (.next hc.mailboxDone.imageNotice.notice) ?_
  split
  · exact .next hc.mailboxDone.imageNotice.notice
  · exact .ite (.next hc.frame.mailboxDone) (.next hc.mailboxDone.imageNotice.notice)

theorem State.Canonical.quenchContexts (hc : s.Canonical) {cl} : (s.quenchContexts cl).Canonical := by
  unfold State.quenchContexts
  refine hc.foldl fun _ _ h1 => ?_
  split
  · exact h1.quenchCores
  · exact h1

theorem State.Canonical.quenchAt (hc : s.Canonical) {cl level} : (s.quenchAt cl level).Canonical := by
  unfold State.quenchAt
  split
  · exact hc.notice
  · exact hc.notice.quenchContexts
  · exact hc.quenchCluster
  · exact hc.quenchDevice

theorem canonical_execMailboxQuench (hc : s.Canonical) : Outcome.Canonical (execMailboxQuench s) := by
  unfold execMailboxQuench
  refine .ite (.next hc) ?_
  refine .ite (.next hc.mailboxDone) ?_
  refine .ite (.next hc) ?_
  split
  · split
    · exact .next (.ite hc.mailboxDone hc.mailboxDone.quenching.quenchFor)
    · exact .next (.ite hc.mailboxDone hc.mailboxDone)
  · exact .ite (.next hc.mailboxDone) (.next (.ite hc.mailboxDone hc.mailboxDone.quenching.quenchAt))
  · exact .ite (.next hc.mailboxDone) (.next (.ite hc.mailboxDone hc.mailboxDone.quenching.quenchDevice))
  · exact .next hc.mailboxDone

theorem State.Canonical.release (hc : s.Canonical) : (s.release).Canonical :=
  hc.foldl fun _ _ h1 => h1.updCp

theorem canonical_execMailboxLoadimg (hc : s.Canonical) : Outcome.Canonical (execMailboxLoadimg s) := by
  unfold execMailboxLoadimg
  refine .ite (.next hc) ?_
  refine .ite (.next hc.mailboxDone.imageNotice) ?_
  refine .ite (.next hc.mailboxDone.imageNotice) ?_
  split
  · exact .next hc.mailboxDone.imageNotice
  · exact .ite (.next hc.frame.mailboxDone.recovered.release.imageNotice) (.next hc.mailboxDone.imageNotice)

theorem canonical_execMailboxReserved (hc : s.Canonical) : Outcome.Canonical (execMailboxReserved s) :=
  .ite (.next hc.mailboxDone) (.next hc)

theorem canonical_execPackageReset (hc : s.Canonical) : Outcome.Canonical (execPackageReset s) :=
  .next hc.frame

theorem canonical_execColdBoot (hc : s.Canonical) : Outcome.Canonical (execColdBoot s) := by
  unfold execColdBoot
  refine .ite (.next hc) ?_
  extract_lets v ok s1
  have h1 : s1.Canonical := NMap.ok_filter _ _ _ hc
  exact .next (.ite h1.release (h1.foldl fun _ _ h => h.updCp))

theorem canonical_execIoDieWatchdogExpiry (hc : s.Canonical) : Outcome.Canonical (execIoDieWatchdogExpiry s) :=
  .next hc.frame

theorem State.Canonical.spdmAnswer (hc : s.Canonical) {request payload} : (s.spdmAnswer request payload).Canonical :=
  .ite hc hc.frame

theorem canonical_execGetVersion (hc : s.Canonical) : Outcome.Canonical (execGetVersion s) :=
  .next hc.spdmAnswer

theorem canonical_execGetCapabilities (hc : s.Canonical) : Outcome.Canonical (execGetCapabilities s) :=
  .next hc.spdmAnswer

theorem canonical_execNegotiateAlgorithms (hc : s.Canonical) : Outcome.Canonical (execNegotiateAlgorithms s) :=
  .next hc.spdmAnswer

theorem canonical_execGetDigests (hc : s.Canonical) : Outcome.Canonical (execGetDigests s) :=
  .next hc.spdmAnswer

theorem canonical_execGetCertificate (hc : s.Canonical) {slot} : Outcome.Canonical (execGetCertificate slot s) :=
  .next (.ite hc.spdmAnswer hc.spdmAnswer)

theorem canonical_execChallenge (hc : s.Canonical) {nonce} : Outcome.Canonical (execChallenge nonce s) :=
  .next hc.spdmAnswer

theorem canonical_execGetMeasurements (hc : s.Canonical) {index} : Outcome.Canonical (execGetMeasurements index s) :=
  .ite (.next hc.frame) (.next hc.spdmAnswer)

/-! ### The host, the register interface and the debug port -/

theorem State.Canonical.startFlip (hc : s.Canonical) {page toHost} : (s.startFlip page toHost).Canonical :=
  .ite hc hc.frame

theorem canonical_execBiasFlipToHost (hc : s.Canonical) {page} : Outcome.Canonical (execBiasFlipToHost page s) :=
  .next hc.startFlip

theorem canonical_execBiasFlipToDevice (hc : s.Canonical) {page} : Outcome.Canonical (execBiasFlipToDevice page s) :=
  .next hc.startFlip

theorem State.Canonical.changeBias (hc : s.Canonical) {f} : (s.changeBias f).Canonical :=
  hc.frame

theorem canonical_execBiasFlipComplete (hc : s.Canonical) {page} : Outcome.Canonical (execBiasFlipComplete page s) := by
  unfold execBiasFlipComplete
  split
  · exact .next hc
  · exact .ite (.next hc) (.ite (.next ((hc.foldl fun _ _ h1 => h1.recallLine).foldl fun _ _ h1 =>
      h1.dropSlice)) (.next ((hc.foldl fun _ _ h1 => h1.recallLine).foldl fun _ _ h1 => h1.dropSlice).changeBias))

theorem canonical_execHostCacheSnoop (hc : s.Canonical) {line} : Outcome.Canonical (execHostCacheSnoop line s) :=
  .ite (.next hc.recallLine) (.next hc)

theorem canonical_execCxlMemRead (hc : s.Canonical) {pa n} : Outcome.Canonical (execCxlMemRead pa n s) :=
  .ite (.next hc) (.ite (.next hc) (.ite (.next hc.startFlip) (.next hc.frame)))

theorem canonical_execCxlMemWrite (hc : s.Canonical) {pa n v} : Outcome.Canonical (execCxlMemWrite pa n v s) :=
  .ite (.ite (.next hc.frame) (.next hc)) (.ite (.next hc) (.ite (.next hc) (.ite (.next hc.startFlip) (.next (.ite
    hc.outsideBytes.frame hc.outsideBytes.frame)))))

theorem State.Canonical.ioPerform (hc : s.Canonical) {q p r} : (s.ioPerform q p r).Canonical := by
  unfold State.ioPerform
  dsimp only
  split
  · exact hc.homeTouch.writeHome.frame
  · refine State.Canonical.frame ?_ rfl
    split
    · exact hc.homeTouch.touchSlice
    · exact hc.homeTouch

theorem State.Canonical.ioHead (hc : s.Canonical) {q} : (s.ioHead q).1.Canonical := by
  unfold State.ioHead
  split
  · exact hc
  · dsimp only
    split
    · exact hc.frame
    · split
      · exact hc
      · split
        · exact hc.homePrepare
        · exact hc.frame.ioPerform

theorem State.Canonical.ioServe (hc : s.Canonical) {q n} : (s.ioServe q n).Canonical := by
  induction n generalizing s with
  | zero => exact hc
  | succ n ih => exact .ite (ih hc.ioHead) hc.ioHead

theorem State.Canonical.ioServeAll (hc : s.Canonical) : (s.ioServeAll).Canonical :=
  hc.foldl fun _ _ h1 => h1.ioServe

theorem canonical_execCxlIoRequest (hc : s.Canonical) {write h off n v} : Outcome.Canonical (execCxlIoRequest write h off n v s) := by
  unfold execCxlIoRequest
  split
  · exact .next hc
  · exact .ite (.next hc) (.next hc.frame.ioServe)

theorem State.Canonical.writeList (hc : s.Canonical) {loc bs} : (s.writeList loc bs).Canonical := by
  induction bs generalizing s loc with
  | nil => exact hc
  | cons b bs ih => exact ih hc.setByte

theorem canonical_execTscStoreLoad (hc : s.Canonical) {cl img} : Outcome.Canonical (execTscStoreLoad cl img s) :=
  .ite (.next hc) (.next hc.clearRange.writeList.updCore.startThread.updCluster)

theorem State.Canonical.windowWrite (hc : s.Canonical) {cl num v} : (s.windowWrite cl num v).Canonical := by
  unfold State.windowWrite
  split
  · exact hc.windowClpart
  · exact hc.updCluster
  · exact hc.updCluster
  · exact hc.updCluster
  · exact hc

theorem State.Canonical.cpWriteCsr (hc : s.Canonical) {p num v} : (s.cpWriteCsr p num v).Canonical := by
  unfold State.cpWriteCsr
  dsimp only
  split
  · exact hc.updCp
  · exact .ite hc hc.updFunc
  · exact hc.updFunc
  · exact hc.updFunc
  · exact hc.updCp
  · exact hc.updCp
  · exact hc.updCp
  · exact .ite hc (.ite hc.updCp hc.updCp.startFlip)
  · exact hc.updCp
  · exact hc.updCp.windowWrite
  · exact hc.updCp
  · exact hc.updCp
  · exact hc.updCp
  · exact hc.updFunc
  · exact hc.updCp
  · exact hc.updCp

theorem State.Canonical.barWrite (hc : s.Canonical) {fn off v} : (s.barWrite fn off v).Canonical := by
  unfold State.barWrite
  refine .ite (.ite hc.updQueue hc) ?_
  split
  · exact .ite hc hc.frame
  · exact .ite hc hc.frame
  · exact .ite hc hc.frame
  · exact hc.updFunc
  · exact hc.updFunc
  · exact hc.updFunc
  · exact hc

theorem canonical_execRegisterWrite (hc : s.Canonical) {r v} : Outcome.Canonical (execRegisterWrite r v s) := by
  unfold execRegisterWrite
  split
  · exact .ite (.next hc.writePlain) (.ite (.next hc.writePlain) (.next hc))
  · exact .ite (.next hc.windowWrite) (.next hc)
  · exact .ite (.next hc) (.ite (hc.asMachine (.next hc.cpWriteCsr)) (.next hc.cpWriteCsr))
  · exact .ite (.next hc.barWrite) (.next hc)

theorem State.Canonical.debugOut (hc : s.Canonical) {v} : (s.debugOut v).Canonical :=
  hc.frame

theorem canonical_execDebugRegisterRead (hc : s.Canonical) {t f r} : Outcome.Canonical (execDebugRegisterRead t f r s) := by
  unfold execDebugRegisterRead
  dsimp only
  split <;> exact .next hc.debugOut

theorem canonical_execDebugRegisterWrite (hc : s.Canonical) {t f r v} : Outcome.Canonical (execDebugRegisterWrite t f r v s) := by
  unfold execDebugRegisterWrite
  dsimp only
  split
  · exact .ite (.next hc) (.ite (.next hc.setS) (.next hc.updThread))
  · exact .ite (.next hc) (.ite (.next hc.setV) (.next hc.updThread))
  · exact .ite (.next hc) (.next hc.updThread)
  · exact .next hc
  · exact .next hc

theorem canonical_execDebugAccumulatorRead (hc : s.Canonical) {k one i j} : Outcome.Canonical (execDebugAccumulatorRead k one i j s) :=
  .ite (.next hc.debugOut) (.next hc)

theorem canonical_execDispenserTraceRead (hc : s.Canonical) {cl e w} : Outcome.Canonical (execDispenserTraceRead cl e w s) :=
  .ite (.next hc.debugOut) (.next hc)

/-! ### Command processors -/

theorem State.Canonical.cpTrap (hc : s.Canonical) {p cause tval} : (s.cpTrap p cause tval).Canonical :=
  hc.updCp

theorem canonical_stateOf (hc : s.Canonical) {o : Outcome} (ho : o.Canonical) : (stateOf s o).Canonical := by
  unfold stateOf
  split
  · exact ho
  · exact hc

theorem State.Canonical.cpWrite (hc : s.Canonical) {p num v} : (s.cpWrite p num v).Canonical := by
  unfold State.cpWrite
  split
  · refine canonical_stateOf hc ?_
    split
    · exact canonical_execPreemptContext hc
    · exact canonical_execPreemptCore hc
    · exact canonical_execPreemptLaunch hc
    · exact .next hc
  · exact canonical_stateOf hc (canonical_execHeartbeat hc)
  · exact hc.writeKdstate
  · exact hc.answerFault
  · exact hc.cpWriteCsr

theorem State.Canonical.cpCsrInstr (hc : s.Canonical) {p op rd num src imm} : (s.cpCsrInstr p op rd num src imm).Canonical :=
  .ite hc.cpIllegal (.ite hc.updCp.cpWrite hc.updCp)

theorem State.Canonical.cpAccess (hc : s.Canonical) {p va n a go} (hgo : ∀ pa, State.Canonical (go pa)) :
    (s.cpAccess p va n a go).Canonical := by
  rcases s.cpAccess_cases p va n a go with ⟨cause, e⟩ | e | ⟨pa, -, -, e⟩
  · rw [e]; exact hc.cpTrap
  · rw [e]; exact hc
  · rw [e]; exact hgo pa

theorem State.Canonical.cpLoad (hc : s.Canonical) {p va n done} : (s.cpLoad p va n done).Canonical :=
  hc.cpAccess fun _ => hc.updCp

theorem State.Canonical.cpStore (hc : s.Canonical) {p va n v done} : (s.cpStore p va n v done).Canonical :=
  hc.cpAccess fun _ => hc.writePhys.updCp

theorem State.Canonical.cpFloat (hc : s.Canonical) {p rm go} (hgo : ∀ m, State.Canonical (go m)) : (s.cpFloat p rm go).Canonical :=
  .ite hc.cpIllegal (hgo _)

theorem State.Canonical.cpRun (hc : s.Canonical) {p len scFails i} : (s.cpRun p len scFails i).Canonical := by
  have float : ∀ {rm} {g : Nat → Cp → Cp}, (s.cpFloat p rm fun m => s.updCp p (g m)).Canonical := hc.cpFloat fun _ => hc.updCp
  cases i with
  | lui => exact hc.updCp
  | auipc => exact hc.updCp
  | jal => exact hc.updCp
  | jalr => exact hc.updCp
  | branch => exact .ite hc.updCp hc.updCp
  | load => exact hc.cpLoad
  | store => exact hc.cpStore
  | alu => exact hc.updCp
  | fence => exact hc.updCp
  | lr => exact hc.cpAccess fun _ => hc.updCp
  | sc => exact hc.cpAccess fun _ => State.Canonical.updCp (.ite hc.writePhys hc)
  | amo => exact hc.cpAccess fun _ => hc.writePhys.updCp
  | csr => exact hc.cpCsrInstr
  | ecall => exact hc.cpTrap
  | ebreak => exact hc.cpTrap
  | mret => exact .ite hc.cpIllegal hc.updCp
  | sret => exact .ite hc.cpIllegal hc.updCp
  | wfi => exact .ite hc.cpIllegal hc.updCp
  | sfence => exact .ite hc.cpIllegal hc.updCp
  | fload => exact hc.cpFloat fun _ => hc.cpLoad
  | fstore => exact hc.cpFloat fun _ => hc.cpStore
  | fma => exact float
  | farith => exact float
  | fsgn => exact float
  | fminmax => exact float
  | fcmp => exact float
  | fclass => exact float
  | fcvtToInt => exact float
  | fcvtFromInt => exact float
  | fcvtFmt => exact float
  | fmvToX => exact float
  | fmvFromX => exact float

theorem State.Canonical.cpExecute (hc : s.Canonical) {p a} : (s.cpExecute p a).Canonical := by
  unfold State.cpExecute
  extract_lets w pc run
  have hr : run.Canonical := by
    unfold run
    split
    · exact hc.cpRun
    · exact hc.cpIllegal
  exact hc.cpAccess fun _ => .ite (hc.cpAccess fun _ => hr) hr

theorem State.Canonical.firmware (hc : s.Canonical) {p a} : (s.firmware p a).Canonical := by
  unfold State.firmware
  refine .ite hc ?_
  split
  · exact hc.updCp
  · exact hc.cpExecute

/-! ### The turn of a thread -/

theorem State.Canonical.goSpawn (hc : s.Canonical) {t p} : (s.goSpawn t p).Canonical := by
  unfold State.goSpawn
  refine .ite hc.stop ?_
  have hr := hc.spawnRead (t := t) (p := p)
  split
  · exact hc.stop
  · exact hc
  · next s1 e =>
    rw [e] at hr
    split
    · exact State.Canonical.spawnPush hr
    · exact hr

theorem State.Canonical.goStage (hc : s.Canonical) {t st} : (s.goStage t st).Canonical := by
  unfold State.goStage
  dsimp only
  split
  · exact hc.stop
  · exact hc.stop
  · exact .ite hc.finishThread hc.stop
  · exact .ite hc.haltThread hc.stop
  · exact hc.goSpawn
  · exact hc.spawnPush
  · exact hc.wake

theorem State.Canonical.retryPush (hc : s.Canonical) {t} : (s.retryPush t).Canonical := by
  unfold State.retryPush
  refine .ite hc.placeChildren ?_
  split
  · exact hc.placeChildren.goStage
  · exact hc.placeChildren.wake

theorem State.Canonical.missBlock (hc : s.Canonical) {t} : (s.missBlock t).Canonical :=
  hc.updCluster.stop

theorem State.Canonical.claim (hc : s.Canonical) : (s.claim).Canonical :=
  hc.tie.updMe

theorem State.Canonical.tick (hc : s.Canonical) : (s.tick).Canonical :=
  hc.frame.runLater.runClosed.finishBlocks.ioServeAll.hearthOverdue.shootAll

/-! ### The step -/

/-- A turn of a thread that is over has ended in a state in the canonical form. -/
def Turn.Canonical : Turn → Prop
  | .run _ => True
  | .over o => Outcome.Canonical o

theorem Turn.Canonical.over {o : Outcome} (h : o.Canonical) : Turn.Canonical (.over o) := h

theorem Turn.Canonical.ite {c : Prop} [Decidable c] {x y : Turn} (hx : x.Canonical) (hy : y.Canonical) : Turn.Canonical
    (if c then x else y) := by
  split
  · exact hx
  · exact hy

theorem State.Canonical.issueTurn (hc : s.Canonical) : s.issueTurn.Canonical := by
  unfold State.issueTurn
  refine .ite (.over (.next hc.stop)) (.ite (.over (canonical_settle hc .trap)) (.ite (.over (canonical_settle hc .localFault)) ?_))
  split
  · exact .over (.next hc.missBlock)
  · split
    · trivial
    · exact .over (canonical_settle hc .illegal)

theorem State.Canonical.turn (hc : s.Canonical) : s.turn.Canonical := by
  unfold State.turn
  dsimp only
  split
  · refine .ite (.over (.next hc.retryPush)) (.ite ?_ (.over (.next hc)))
    split
    · exact .over (.next hc.goStage)
    · exact .over (.next hc.wake)
  · refine .ite (.over (.next hc)) ?_
    split
    · exact .over (canonical_settle hc.claim hc.claim.copyGo)
    · exact .over (.next hc.claim.goStage)
    · exact hc.claim.issueTurn
  · exact .over (.next hc)

/-! ### Every step -/

/-- Every instruction and every step of the machine keeps memory in its canonical form. -/
theorem canonical_exec (hc : s.Canonical) {i} : Outcome.Canonical (exec i s) := by
  cases i with
  | add | sub | and | or | xor | andn | sll | srl | sra | ror | min | max | minu | maxu | slt | sltu | seq | sne | cmovz | cmovnz
  | clz | ctz | popc | mul | mulh | mulhu | mulhsu | addi | andi | ori | xori | slli | srli | srai | rori | seqi | snei | slti
  | sltiu | lui | leapc | bfxu | bfx | bfi => exact canonical_scalarOp hc
  | div | divu | rem | remu => exact canonical_scalarLongOp hc
  | fadd => exact canonical_execFadd hc
  | fsub => exact canonical_execFsub hc
  | fmul => exact canonical_execFmul hc
  | fma => exact canonical_execFma hc
  | fdiv => exact canonical_execFdiv hc
  | fcmp => exact canonical_execFcmp hc
  | fcvtif => exact canonical_execFcvtif hc
  | fcvtfi => exact canonical_execFcvtfi hc
  | beq | bne | blt | bge | bltu | bgeu => exact canonical_branch hc
  | j | call | jr | callr => exact canonical_jump hc
  | lb | lh | lw | ld | lbu | lhu | lwu => exact canonical_loadOp hc
  | sb | sh | sw | sd => exact canonical_storeOp hc
  | ldm => exact canonical_execLdm hc
  | stm => exact canonical_execStm hc
  | aadd | afadd | amin | amax | aminu | amaxu | aand | aor | axor | aswap | acas | amopAadd | amopAfadd | amopAmin | amopAmax
  | amopAminu | amopAmaxu | amopAand | amopAor | amopAxor | amopAswap | amopAcas => exact canonical_atomicOp hc
  | fence => exact canonical_execFence hc
  | tclr => exact canonical_execTclr hc
  | tjoin => exact canonical_execTjoin hc
  | twait => exact canonical_execTwait hc
  | bar | baradd | barfadd => exact canonical_barrierOp hc
  | chsend => exact canonical_execChsend hc
  | chrecv => exact canonical_execChrecv hc
  | amld => exact canonical_execAmld hc
  | amst => exact canonical_execAmst hc
  | fork => exact canonical_execFork hc
  | meet | meetC => exact canonical_meetOp hc
  | done => exact canonical_execDone hc
  | align => exact canonical_execAlign hc
  | yield => exact canonical_execYield hc
  | spawn => exact canonical_execSpawn hc
  | waitw => exact canonical_execWaitw hc
  | taskend => exact canonical_execTaskend hc
  | commit => exact canonical_execCommit hc
  | hrq => exact canonical_execHrq hc
  | hrqSw => exact canonical_execHrqSw hc
  | tdef => exact canonical_execTdef hc
  | trel => exact canonical_execTrel hc
  | tstat => exact canonical_execTstat hc
  | twaitr => exact canonical_execTwaitr hc
  | tfill => exact canonical_execTfill hc
  | tcons => exact canonical_execTcons hc
  | mma => exact canonical_execMma hc
  | mmac => exact canonical_execMmac hc
  | mzero => exact canonical_execMzero hc
  | mstore => exact canonical_execMstore hc
  | mmask => exact canonical_execMmask hc
  | mscale => exact canonical_execMscale hc
  | cpy => exact canonical_execCpy hc
  | cpyw e => exact canonical_execCpyw hc (e := e)
  | cpyq e => exact canonical_execCpyq hc (e := e)
  | cpyc e => exact canonical_execCpyc hc (e := e)
  | bstake | bspeek => exact canonical_bitsRead hc
  | bsemit => exact canonical_execBsemit hc
  | bsskip => exact canonical_execBsskip hc
  | bsalign => exact canonical_execBsalign hc
  | csrr | csrw | csrs | csrc => exact canonical_csrAccess hc
  | trap => exact canonical_execTrap hc
  | eret => exact canonical_execEret hc
  | halt => exact canonical_execHalt hc
  | dbg => exact canonical_execDbg hc
  | tlbw => exact canonical_execTlbw hc
  | tlbi => exact canonical_execTlbi hc
  | cwb => exact canonical_execCwb hc
  | cinv => exact canonical_execCinv hc
  | fmt => exact canonical_execFmt hc
  | vmov | vmadd | vmovI | vcvtif | vcvtuf | vcvtfi | vcvtfu | vperm | vslideup | vslidedn | vziplo | vziphi | vmov16 => exact canonical_laneOp hc
  | vadd | vsub | vmul | vand | vor | vxor | vshl | vshr | vmin | vmax | vsra | vminu | vmaxu | vmulhu => exact canonical_vintOp hc
  | vaddI | vsubI | vmulI | vandI | vorI | vxorI | vshlI | vshrI | vminI | vmaxI | vsraI | vminuI | vmaxuI => exact canonical_vintImm hc
  | vfadd => exact canonical_execVfadd hc
  | vfsub => exact canonical_execVfsub hc
  | vfmul => exact canonical_execVfmul hc
  | vfmin => exact canonical_execVfmin hc
  | vfmax => exact canonical_execVfmax hc
  | vfma => exact canonical_execVfma hc
  | vfdiv => exact canonical_execVfdiv hc
  | vfsqrt => exact canonical_execVfsqrt hc
  | vfabs => exact canonical_execVfabs hc
  | vfneg => exact canonical_execVfneg hc
  | vceq | vcne | vclt | vcle | vcltu | vcleu | vfceq | vfclt | vfcle | kand | kor | kxor | kandn | knot | kmov => exact canonical_maskOp hc
  | vcvt => exact canonical_execVcvt hc
  | vcompress | vexpand | vhist => exact canonical_allLanesOp hc
  | vextr | vrfadd | vrfmax | kread | kpopc | kffs => exact canonical_laneScalarOp hc
  | vradd | vrmin | vrmax | vrand | vror | vrxor => exact canonical_foldOp hc
  | vqnt => exact canonical_execVqnt hc
  | vdqnt => exact canonical_execVdqnt hc
  | vdot => exact canonical_execVdot hc
  | vld | vlds | vgather => exact canonical_vectorLoad hc
  | vldbc => exact canonical_execVldbc hc
  | vldb => exact canonical_execVldb hc
  | vst | vsts | vscatter => exact canonical_vectorStore hc
  | nop => exact canonical_execNop hc
  | vadd16 | vsub16 | vmul16 | vand16 | vor16 | vxor16 | vshl16 | vshr16 | vmin16 | vmax16 => exact canonical_vint16 hc
  | vfadd16 => exact canonical_execVfadd16 hc
  | vfsub16 => exact canonical_execVfsub16 hc
  | vfmul16 => exact canonical_execVfmul16 hc
  | vfmin16 => exact canonical_execVfmin16 hc
  | vfmax16 => exact canonical_execVfmax16 hc
  | longLatencyResult => exact canonical_execLongLatencyResult hc
  | barrierArrival => exact canonical_execBarrierArrival hc
  | activeMessage => exact canonical_execActiveMessage hc
  | meetRegistration => exact canonical_execMeetRegistration hc
  | meetDeadline => exact canonical_execMeetDeadline hc
  | quiescenceRelease => exact canonical_execQuiescenceRelease hc
  | alignTimeout => exact canonical_execAlignTimeout hc
  | forwardedRecordArrival => exact canonical_execForwardedRecordArrival hc
  | taskDispatch => exact canonical_execTaskDispatch hc
  | taskStartFreeContext => exact canonical_execTaskStartFreeContext hc
  | taskSteal => exact canonical_execTaskSteal hc
  | tileOperandsConsumed => exact canonical_execTileOperandsConsumed hc
  | mmaStep => exact canonical_execMmaStep hc
  | mstoreFillStep => exact canonical_execMstoreFillStep hc
  | accumulatorClear => exact canonical_execAccumulatorClear hc
  | engineCommandStart => exact canonical_execEngineCommandStart hc
  | engineChunkStart => exact canonical_execEngineChunkStart hc
  | engineFinalStatus => exact canonical_execEngineFinalStatus hc
  | engineReply => exact canonical_execEngineReply hc
  | engineAck => exact canonical_execEngineAck hc
  | engineSettle => exact canonical_execEngineSettle hc
  | registerWrite => exact canonical_execRegisterWrite hc
  | mcWrite | lgrantWrite | srseedWrite | xfringWrite | xfheadWrite => exact canonical_csrStep hc
  | xfclaimRead => exact canonical_execXfclaimRead hc
  | transformWake => exact canonical_execTransformWake hc
  | clpartWrite => exact canonical_execClpartWrite hc
  | clpartLeavingLine => exact canonical_execClpartLeavingLine hc
  | clpartShrinkComplete => exact canonical_execClpartShrinkComplete hc
  | hclrGo => exact canonical_execHclrGo hc
  | hclrComplete => exact canonical_execHclrComplete hc
  | hearthUpdate => exact canonical_execHearthUpdate hc
  | hearthSummaryBroadcast => exact canonical_execHearthSummaryBroadcast hc
  | hearthSummaryApply => exact canonical_execHearthSummaryApply hc
  | tlbiCompletion => exact canonical_execTlbiCompletion hc
  | cwbWritebackDone => exact canonical_execCwbWritebackDone hc
  | registerRefill => exact canonical_execRegisterRefill hc
  | performLoad => exact canonical_execPerformLoad hc
  | performStore => exact canonical_execPerformStore hc
  | performAtomic => exact canonical_execPerformAtomic hc
  | l1Eviction => exact canonical_execL1Eviction hc
  | processReply => exact canonical_execProcessReply hc
  | processAck => exact canonical_execProcessAck hc
  | processAtomicReply => exact canonical_execProcessAtomicReply hc
  | processInv => exact canonical_execProcessInv hc
  | processSettle => exact canonical_execProcessSettle hc
  | bankDrowsy => exact canonical_execBankDrowsy hc
  | bankWake => exact canonical_execBankWake hc
  | coreGate => exact canonical_execCoreGate hc
  | coreWake => exact canonical_execCoreWake hc
  | expanderExpandComplete => exact canonical_execExpanderExpandComplete hc
  | expanderCompressComplete => exact canonical_execExpanderCompressComplete hc
  | tscMessageArrival => exact canonical_execTscMessageArrival hc
  | tlbWriteback => exact canonical_execTlbWriteback hc
  | tscMsgRead => exact canonical_execTscMsgRead hc
  | tinboxPop => exact canonical_execTinboxPop hc
  | tinboxDefer => exact canonical_execTinboxDefer hc
  | tfpost => exact canonical_execTfpost hc
  | tfattach => exact canonical_execTfattach hc
  | faultAnswerRetry | faultAnswerKill => exact canonical_answerOp hc
  | faultAnswerTimeout => exact canonical_execFaultAnswerTimeout hc
  | fetchBlockDelivery => exact canonical_execFetchBlockDelivery hc
  | ebudgetRefill => exact canonical_execEbudgetRefill hc
  | channelDeadlockScan => exact canonical_execChannelDeadlockScan hc
  | qtailWrite => exact canonical_execQtailWrite hc
  | qcfgWrite => exact canonical_execQcfgWrite hc
  | nopEntry => exact canonical_execNopEntry hc
  | launchEntry => exact canonical_execLaunchEntry hc
  | grun => exact canonical_execGrun hc
  | gpatch => exact canonical_execGpatch hc
  | cancelEntry => exact canonical_execCancelEntry hc
  | gfree => exact canonical_execGfree hc
  | reservedEntry => exact canonical_execReservedEntry hc
  | graphNodeAccept => exact canonical_execGraphNodeAccept hc
  | cancelArrival => exact canonical_execCancelArrival hc
  | allocatorPass => exact canonical_execAllocatorPass hc
  | launchStart => exact canonical_execLaunchStart hc
  | usageAccounting => exact canonical_execUsageAccounting hc
  | preemptContext => exact canonical_execPreemptContext hc
  | preemptCore => exact canonical_execPreemptCore hc
  | preemptLaunch => exact canonical_execPreemptLaunch hc
  | preemptionSave => exact canonical_execPreemptionSave hc
  | preemptionLimitExpiry => exact canonical_execPreemptionLimitExpiry hc
  | contextRestore => exact canonical_execContextRestore hc
  | contextResume => exact canonical_execContextResume hc
  | biasFlipToHost => exact canonical_execBiasFlipToHost hc
  | biasFlipToDevice => exact canonical_execBiasFlipToDevice hc
  | biasFlipComplete => exact canonical_execBiasFlipComplete hc
  | cxlMemRead => exact canonical_execCxlMemRead hc
  | cxlMemWrite => exact canonical_execCxlMemWrite hc
  | cxlIoRequest => exact canonical_execCxlIoRequest hc
  | tscStoreLoad => exact canonical_execTscStoreLoad hc
  | heartbeat => exact canonical_execHeartbeat hc
  | heartbeatTimeout => exact canonical_execHeartbeatTimeout hc
  | progressTimeout => exact canonical_execProgressTimeout hc
  | escalationTimeout => exact canonical_execEscalationTimeout hc
  | mailboxUpdate => exact canonical_execMailboxUpdate hc
  | liveReplacementRestart => exact canonical_execLiveReplacementRestart hc
  | mailboxQuench => exact canonical_execMailboxQuench hc
  | mailboxLoadimg => exact canonical_execMailboxLoadimg hc
  | mailboxReserved => exact canonical_execMailboxReserved hc
  | coldBoot => exact canonical_execColdBoot hc
  | packageReset => exact canonical_execPackageReset hc
  | ioDieWatchdogExpiry => exact canonical_execIoDieWatchdogExpiry hc
  | droopStretch cl => exact canonical_execDroopStretch hc (cl := cl)
  | powerAlarmAssert => exact canonical_execPowerAlarmAssert hc
  | powerAlarmDeassert => exact canonical_execPowerAlarmDeassert hc
  | narrowClear => exact canonical_execNarrowClear hc
  | kdstateWrite => exact canonical_execKdstateWrite hc
  | getVersion => exact canonical_execGetVersion hc
  | getCapabilities => exact canonical_execGetCapabilities hc
  | negotiateAlgorithms => exact canonical_execNegotiateAlgorithms hc
  | getDigests => exact canonical_execGetDigests hc
  | getCertificate => exact canonical_execGetCertificate hc
  | challenge => exact canonical_execChallenge hc
  | getMeasurements => exact canonical_execGetMeasurements hc
  | debugRegisterRead => exact canonical_execDebugRegisterRead hc
  | debugRegisterWrite => exact canonical_execDebugRegisterWrite hc
  | debugAccumulatorRead => exact canonical_execDebugAccumulatorRead hc
  | dispenserTraceRead => exact canonical_execDispenserTraceRead hc
  | debuggerResume => exact canonical_execDebuggerResume hc
  | haltedContextFree => exact canonical_execHaltedContextFree hc
  | hostCacheSnoop => exact canonical_execHostCacheSnoop hc
  | mmaskLastByteRead => exact canonical_execMmaskLastByteRead hc
  -- `recall`, which Mathlib keeps as a word of its own
  | _ => exact canonical_execRecall hc

theorem canonical_threadStep (hc : s.Canonical) : Outcome.Canonical (threadStep s) := by
  have ht := hc.turn
  unfold threadStep
  split
  · exact canonical_exec hc.claim
  · next e => rw [e] at ht; exact ht

theorem canonical_step (hc : s.Canonical) : Outcome.Canonical (step s) := by
  have faults : ∀ f, Outcome.Canonical (.fault f) := fun _ => trivial
  unfold step
  dsimp only
  split
  · exact .ite (faults _) (.ite (canonical_exec hc.tick.frame) (.next hc.tick.frame))
  · exact .ite (faults _) (.ite (canonical_threadStep hc.tick.frame) (.next hc.tick.frame))
  · exact .ite (faults _) (.ite (.next hc.tick.frame.firmware) (.next hc.tick.frame))
  · exact .ite (faults _) (.ite (canonical_threadStep hc.tick) (.next hc.tick))

/-- Settles O53: memory is only ever changed by operations that keep its form, of which each lemma above follows one part of the
model. -/
theorem memoryStaysCanonical : Obligations.MemoryStaysCanonical := by
  intro s t hs h
  have ht : Outcome.Canonical (step s) := canonical_step hs
  rw [h] at ht
  exact ht

end Sys2Proof.Machine
end

section
/-!
## A load of an instruction store where memory is not in its canonical form (01 R36)

The load drops the entries of its range. Where addresses do not rise, a dropped entry may have hidden one behind it, of another
address, so that a byte outside the store changes: the obligation asks too much of such a state. Where memory is in its canonical
form, which every step keeps, the clause holds.
-/

namespace Sys2Proof
variable {α : Type} [DecidableEq α] {d : α} {m : NMap α}

/-- A key below all that are listed reads as the default. -/
theorem NMap.get_of_lt_okFrom {lo k : Nat} (ok : NMap.okFrom d lo m = true) (h : k < lo) : NMap.get d m k = d := by
  cases m with
  | nil => rfl
  | cons c m =>
    simp only [NMap.okFrom, Bool.and_eq_true, decide_eq_true_eq] at ok
    obtain ⟨⟨hlo, -⟩, -⟩ := ok
    simp only [NMap.get, if_neg (show ¬c.1 = k by omega), if_pos (show k < c.1 by omega)]

/-- Dropping entries of other keys leaves what a key reads as. -/
theorem NMap.get_filter {lo k : Nat} {f : Nat × α → Bool} (ok : NMap.okFrom d lo m = true) (hf : ∀ v, f (k, v) = true) :
    NMap.get d (m.filter f) k = NMap.get d m k := by
  induction m generalizing lo with
  | nil => rfl
  | cons c m ih =>
    obtain ⟨i, v⟩ := c
    simp only [NMap.okFrom, Bool.and_eq_true, decide_eq_true_eq] at ok
    obtain ⟨-, hm⟩ := ok
    by_cases hi : f (i, v) = true
    · simp only [List.filter_cons_of_pos hi, NMap.get, ih hm]
    · have hne : ¬i = k := fun e => hi (e ▸ hf v)
      rw [List.filter_cons_of_neg hi, ih hm, NMap.get, if_neg hne]
      split
      · next hlt => exact NMap.get_of_lt_okFrom hm (by omega)
      · rfl

end Sys2Proof

namespace Sys2Proof.Machine
variable {s : State}

theorem State.byte_clearRange_other {lo n a : Nat} (hs : s.Canonical) (h : a < lo ∨ lo + n ≤ a) :
    (s.clearRange lo n).byte a = s.byte a :=
  NMap.get_filter hs fun _ => by simpa using h

theorem State.byte_writeList_other {img : List Byte} {loc a : Nat} (h : a < loc ∨ loc + img.length ≤ a) :
    (s.writeList loc img).byte a = s.byte a := by
  induction img generalizing s loc with
  | nil => rfl
  | cons b img ih =>
    rw [List.length_cons] at h
    rw [State.writeList, ih (by omega), State.byte_setByte_ne _ _ _ _ (by omega)]

/-- Where memory is in its canonical form, a load of the store changes no byte outside it. -/
theorem byte_execTscStoreLoad_other {t : State} {cl a : Nat} {img : List Byte} (hs : s.Canonical) (e : execTscStoreLoad cl img s = .next t)
    (h : a < locIstore cl 0 ∨ locIstore cl (2 ^ 17) ≤ a) : t.byte a = s.byte a := by
  unfold execTscStoreLoad at e
  extract_lets c ts may s1 old x s2 at e
  split at e
  · cases e
    rfl
  · next hmay =>
    have hlen : img.length ≤ 2 ^ 17 := by
      simp only [Bool.or_eq_true, decide_eq_true_eq, not_or] at hmay
      omega
    have hend : locIstore cl (2 ^ 17) = locIstore cl 0 + 2 ^ 17 := rfl
    have hs1 : s1.byte a = s.byte a := by
      rw [State.byte_writeList_other (by omega), State.byte_clearRange_other hs (by omega)]
    cases e
    exact hs1

/-- Refutes O49: in this memory the entry of the store comes first and hides the byte at 3, which reads 0; the load of an empty image
drops that entry, and the byte then reads 7. -/
theorem not_portResult : ¬ Obligations.PortResult := by
  intro h
  obtain ⟨-, hload, -⟩ := h.1 { mem := [(locIstore 0 0, 1), (3, 7)] } 0 0 0 0 0 0
  obtain ⟨t, e, -, -, -, -, -, -, hbyte⟩ := hload [] (by decide) (.inl rfl) (by decide)
  have hmem : t.mem = [(3, 7)] := by
    rw [← Host.Outcome.next.inj e]
    decide
  have hsame := hbyte 3 (.inl (by decide))
  rw [State.byte, hmem] at hsame
  exact absurd hsame (by decide)

end Sys2Proof.Machine
end

section
/-!
## Writing a record to a ring, and a notice (01 R50; 16 R394; 22 R452)

A fault record's words are written to memory at their homes. Such a write moves lines of the slices and sends invalidations; of the
clusters it changes no more than the lines that leave and the hearth updates on their way, and no thread. Each lemma follows one
function of the path from `outsideWrite` up to `ringRecord`; a notice changes less.
-/

namespace Sys2Proof.Machine

theorem State.thread_congr {s t : State} (h : t.threads = s.threads) (u : Nat) : t.thread u = s.thread u := by
  rw [State.thread, h, State.thread]
theorem State.cluster_congr {s t : State} (h : t.clusters = s.clusters) (j : Nat) : t.cluster j = s.cluster j := by
  rw [State.cluster, h, State.cluster]

/-- A cluster without what a write at a home may change of it: the transition its leaving lines are part of (02 R65), and hearth
updates on their way (02 R80). -/
def Cluster.sansLines (c : Cluster) : Cluster := { c with busy := false, drain := false, dleft := 0, updates := [] }

/-- From `s` to `t` there have been writes at homes, and nothing else, as threads and clusters see it. -/
structure WritesOnly (s t : State) : Prop where
  threads : t.threads = s.threads
  clusters : ∀ j, (t.cluster j).sansLines = (s.cluster j).sansLines

namespace WritesOnly
variable {r s t : State}

theorem refl (s : State) : WritesOnly s s := ⟨rfl, fun _ => rfl⟩

theorem thread (h : WritesOnly s t) (u : Nat) : t.thread u = s.thread u := State.thread_congr h.threads u
/-- What a write at a home leaves of a cluster. -/
theorem field {α : Type} (h : WritesOnly s t) (g : Cluster → α) (hg : ∀ c : Cluster, g c.sansLines = g c) (j : Nat) :
    g (t.cluster j) = g (s.cluster j) := by
  rw [← hg, h.clusters, hg]

theorem inbox (h : WritesOnly s t) (j : Nat) : (t.cluster j).inbox = (s.cluster j).inbox := h.field Cluster.inbox (fun _ => rfl) j
theorem faults (h : WritesOnly s t) (j : Nat) : (t.cluster j).faults = (s.cluster j).faults := h.field Cluster.faults (fun _ => rfl) j
theorem owed (h : WritesOnly s t) (j : Nat) : (t.cluster j).owed = (s.cluster j).owed := h.field Cluster.owed (fun _ => rfl) j
theorem tfail (h : WritesOnly s t) (j : Nat) : (t.cluster j).tfail = (s.cluster j).tfail := h.field Cluster.tfail (fun _ => rfl) j
theorem tlast (h : WritesOnly s t) (j : Nat) : (t.cluster j).tlast = (s.cluster j).tlast := h.field Cluster.tlast (fun _ => rfl) j

/-- A change of any other part of the device. -/
theorem frame (h : WritesOnly r s) (ht : t.threads = s.threads := by rfl) (hc : t.clusters = s.clusters := by rfl) : WritesOnly r t :=
  ⟨ht.trans h.threads, fun j => (congrArg Cluster.sansLines (State.cluster_congr hc j)).trans (h.clusters j)⟩

theorem updCluster (h : WritesOnly r s) {k : Nat} {f : Cluster → Cluster} (hf : ∀ c, (f c).sansLines = c.sansLines) :
    WritesOnly r (s.updCluster k f) := by
  refine ⟨h.threads, fun j => ?_⟩
  rw [State.cluster_updCluster]
  split
  · next e => rw [hf, e, h.clusters]
  · exact h.clusters j

theorem ite {c : Prop} [Decidable c] (hs : WritesOnly r s) (ht : WritesOnly r t) : WritesOnly r (if c then s else t) := by
  split
  · exact hs
  · exact ht

theorem recallLine (h : WritesOnly r s) {line} : WritesOnly r (s.recallLine line) := .ite h h.frame

theorem growOver (h : WritesOnly r s) {cl} : WritesOnly r (s.growOver cl) := .ite (h.updCluster fun _ => rfl) h

theorem dropSlice (h : WritesOnly r s) {line} : WritesOnly r (s.dropSlice line) := by
  unfold State.dropSlice
  split
  · exact h
  · refine .growOver (.updCluster ?_ fun _ => ?_)
    · exact h.recallLine.frame
    · rfl

theorem installSlice (h : WritesOnly r s) {line way pair} : WritesOnly r (s.installSlice line way pair) :=
  .updCluster h.frame fun _ => rfl

theorem allocSlice (h : WritesOnly r s) {line pair} : WritesOnly r (s.allocSlice line pair) := by
  unfold State.allocSlice
  dsimp only
  split
  · exact h.installSlice
  · refine .ite h ?_
    split
    · exact h.frame.dropSlice.installSlice
    · exact h.frame

theorem touchSlice (h : WritesOnly r s) {line alloc pair} : WritesOnly r (s.touchSlice line alloc pair) := by
  unfold State.touchSlice
  split
  · exact .ite (.ite h.dropSlice.allocSlice h.dropSlice) h
  · exact .ite h.allocSlice h

theorem dirtySlice (h : WritesOnly r s) {line} : WritesOnly r (s.dirtySlice line) := by
  unfold State.dirtySlice
  split
  · exact .ite h h.frame
  · exact h

theorem writeHome (h : WritesOnly r s) {home line mask data alloc pair keep} :
    WritesOnly r (s.writeHome home line mask data alloc pair keep) := by
  unfold State.writeHome
  extract_lets s1 s2 sh others
  have h1 : WritesOnly r s1 := by
    unfold s1
    split
    · exact h.touchSlice.dirtySlice
    · exact h
  exact .ite h1.frame h1.frame

theorem outsideWrite (h : WritesOnly r s) {line mask data} : WritesOnly r (s.outsideWrite line mask data) := h.writeHome

theorem writePhys (h : WritesOnly r s) {bs} : WritesOnly r (s.writePhys bs) := by
  induction bs generalizing s with
  | nil => exact h
  | cons b bs ih => exact ih h.outsideWrite

theorem laterGo (h : WritesOnly r s) {held xs} : WritesOnly r (s.laterGo held xs) := by
  induction xs generalizing s held with
  | nil => exact h
  | cons x xs ih =>
    unfold State.laterGo
    refine .ite (ih h.frame) ?_
    split
    · exact ih h
    · exact ih h.frame
    · exact ih h.frame
    · exact .ite (ih h.writePhys) (ih h.writePhys.frame)

theorem defer (h : WritesOnly r s) {xs} : WritesOnly r (s.defer xs) := .ite h.frame (.laterGo h.frame)

theorem ringRecord (h : WritesOnly r s) {p ws} : WritesOnly r (s.ringRecord p ws) := .frame h.defer

theorem updFunc (h : WritesOnly r s) {n f} : WritesOnly r (s.updFunc n f) := h.frame

theorem writeWord (h : WritesOnly r s) {loc w} : WritesOnly r (s.writeWord loc w) := h.frame

theorem writeWords (h : WritesOnly r s) {loc ws} : WritesOnly r (s.writeWords loc ws) := by
  induction ws generalizing s loc with
  | nil => exact h
  | cons w ws ih => exact ih h.writeWord

theorem noticeTo (h : WritesOnly r s) {f kind level fn launch w1 w2 w3} : WritesOnly r (s.noticeTo f kind level fn launch w1 w2 w3) :=
  .ite h (.ite h.updFunc h.writeWords.writeWord.updFunc)

theorem notice (h : WritesOnly r s) {kind level fn launch w1 w2 w3} : WritesOnly r (s.notice kind level fn launch w1 w2 w3) :=
  .ite h.noticeTo h.noticeTo.noticeTo

end WritesOnly

/-! ## Posting a record (01 R39, R50) -/

/-- `f` is the record of `o`, posted in cycle `now`. -/
structure RecordOf (now : Nat) (o : OwedRec) (f : FaultRec) : Prop where
  asid : f.asid = o.asid
  va : f.va = o.words.getD 1 0
  pin : f.pin = o.pin
  waiters : f.waiters = o.waiters
  posted : f.posted = now

/-- Its record joins the pending ones of the cluster and its SEQ is the last; all else is the write to the ring. -/
theorem State.postRec_posts (s : State) (cl : Nat) (o : OwedRec) : ∃ f n, RecordOf s.cycle o f ∧
    WritesOnly (s.updCluster cl (fun c => { c with faults := c.faults ++ [f], tseq := n, tlast := f.seq })) (s.postRec cl o) := by
  unfold State.postRec
  extract_lets c seq ws f
  exact ⟨f, (seq + 1) % 2 ^ 16, ⟨rfl, by simp [f, ws], rfl, rfl, rfl⟩, (WritesOnly.refl _).ringRecord⟩

end Sys2Proof.Machine
end

section
/-!
## Threads that abort, park, wake and trap (18 R425, R428; 01 R48, R51)
-/

namespace Sys2Proof

/-- A table whose entries change by `f`, which leaves the entry of no key as it is. -/
theorem NMap.get_map {α : Type} {d : α} {f : α → α} (hd : f d = d) (m : NMap α) (k : Nat) :
    NMap.get d (m.map (fun p => (p.1, f p.2))) k = f (NMap.get d m k) := by
  induction m with
  | nil => exact hd.symm
  | cons p m ih =>
    simp only [List.map_cons, NMap.get, ih]
    split
    · rfl
    · split
      · exact hd.symm
      · rfl

end Sys2Proof

namespace Sys2Proof.Machine
variable {s : State} {t : Nat} {x y : Thread}

@[simp] theorem State.thread_stop (s : State) (t : Nat) (r : RunState) : (s.stop t r).thread t = { s.thread t with run := r } := by
  simp only [State.stop, State.thread_updCore, State.thread_updThread_same]
@[simp] theorem State.stop_clusters (s : State) (t : Nat) (r : RunState) : (s.stop t r).clusters = s.clusters := rfl

theorem State.wake_thread (s : State) (t : Nat) :
    (s.wake t).thread t = { s.thread t with run := if (s.thread t).releasing = [] then .ready else .waiting .push } := by
  unfold State.wake
  by_cases h : (s.thread t).releasing = [] <;> simp [h]
@[simp] theorem State.wake_clusters (s : State) (t : Nat) : (s.wake t).clusters = s.clusters := by
  unfold State.wake
  split <;> rfl
@[simp] theorem State.wake_mem (s : State) (t : Nat) : (s.wake t).mem = s.mem := by
  unfold State.wake
  split <;> rfl

/-- What the abort of a region without children and TCONS holds makes of its thread (18 R428). -/
def Thread.restored (x : Thread) : Thread :=
  { x with rsb := [], children := [], inflight := none, stage := none,
           s := restoreS x.busyTags x.ckpt.s, v := restoreV x.busyTags x.ckpt.v, k := restoreK x.busyTags x.ckpt.k,
           mc := x.ckpt.mc, srseed := x.ckpt.srseed, bsrd := x.ckpt.bsrd, bswr := x.ckpt.bswr, bsacc := x.ckpt.bsacc,
           fmtpend := x.ckpt.fmtpend, pfx := x.ckpt.pfx, pc := x.regpc, limbo := [], limboV := [] }

theorem State.abortRegion_eq (hc : (s.thread t).children = []) (ht : (s.thread t).tcons = []) :
    s.abortRegion t = s.updThread t Thread.restored := by
  simp only [State.abortRegion, State.dropTcons, hc, ht, if_true, List.foldl_nil]
  rfl

theorem get_restoreS (b : BitVec 8) (m : NMap SReg) (r : Nat) :
    NMap.get {} (restoreS b m) r = { NMap.get {} m r with taint := (NMap.get {} m r).taint &&& b } :=
  NMap.get_map (f := fun o : SReg => { o with taint := o.taint &&& b }) (by simp) m r
theorem get_restoreV (b : BitVec 8) (m : NMap VReg) (r : Nat) :
    NMap.get {} (restoreV b m) r = { NMap.get {} m r with taint := (NMap.get {} m r).taint &&& b } :=
  NMap.get_map (f := fun o : VReg => { o with taint := o.taint &&& b }) (by simp) m r

theorem Thread.restored_aborted (ht : x.tcons = []) : Aborted x x.restored where
  scalars r := by
    simp only [Thread.sval, Thread.staint, Thread.restored, get_restoreS]
    split <;> simp
  vectors r := by simp only [Thread.vval, Thread.vtaint, Thread.restored, get_restoreV, and_self]
  masks := rfl
  csrs := ⟨rfl, rfl, rfl, rfl, rfl, rfl, rfl⟩
  region := ⟨rfl, rfl, rfl, ht⟩

/-- Parking an aborted thread keeps what the abort has made of it. -/
theorem Aborted.park (h : Aborted x y) (r : RunState) (q : Option Nat) (o : Option (Word × Nat)) :
    Aborted x { y with run := r, faultSeq := q, owed := o } :=
  ⟨h.scalars, h.vectors, h.masks, h.csrs, h.region⟩

/-- A thread whose region aborts, and which parks with a mark of what it waits for (01 R48, R49). -/
theorem State.abort_park (hc : (s.thread t).children = []) (ht : (s.thread t).tcons = []) (f : Thread → Thread) :
    let r := ((s.abortRegion t).updThread t f).stop t (.parked .fault)
    r.thread t = { f (s.thread t).restored with run := .parked .fault } ∧ r.clusters = s.clusters := by
  simp [State.abortRegion_eq hc ht]

/-- What a fatal translation trap with a handler makes of a thread (18 R423, R425; 14 R381). -/
structure FatallyTrapped (x y : Thread) (cause : BitVec 6) (va : Word) : Prop where
  pc : y.pc = x.tvec
  ecause : y.ecause = 5
  fadr : y.fadr = va
  fcause : y.fcause = cause
  epc : y.epc = x.pc &&& ~~~1#64

theorem State.fatalTrap_traps (h : (s.thread t).tvec ≠ 0) (cause : BitVec 6) (va : Word) :
    FatallyTrapped (s.thread t) ((s.fatalTrap t cause va).thread t) cause va ∧
    (s.fatalTrap t cause va).clusters = s.clusters ∧ (s.fatalTrap t cause va).mem = s.mem := by
  simp only [State.fatalTrap, State.trapEntry, State.thread_updThread_same, if_neg h, State.wake_clusters, State.wake_mem]
  refine ⟨?_, rfl, rfl⟩
  simp only [State.wake_thread, State.thread_setThread_same]
  exact { pc := rfl, ecause := by simp [TrapReq.ecause, causeFatal], fadr := rfl, fcause := rfl, epc := by simp [Thread.trapPc] }

/-! ## The waiters of a message (01 R39) -/

theorem coreThreads_nodup (k : Nat) : (coreThreads k).Nodup :=
  List.nodup_range.map fun a b (h : 16 * k + a = 16 * k + b) => by omega

theorem mem_coreThreads {k : Nat} : t ∈ coreThreads k ↔ coreOf t = k := by
  simp only [coreThreads, coreOf, List.mem_map, List.mem_range]
  constructor
  · rintro ⟨c, hc, rfl⟩
    omega
  · rintro rfl
    exact ⟨t % 16, by omega, by omega⟩

/-- A map that is defined on one element of a list without repetition. -/
theorem filterMap_eq_singleton {α β : Type} {f : α → Option β} {a : α} {b : β} {l : List α} (hl : l.Nodup) (ha : a ∈ l)
    (hb : f a = some b) (hf : ∀ c ∈ l, c ≠ a → f c = none) : l.filterMap f = [b] := by
  obtain ⟨l₁, l₂, rfl⟩ := List.append_of_mem ha
  obtain ⟨-, h₂, hdis⟩ := List.nodup_append.1 hl
  have e₁ : l₁.filterMap f = [] := List.filterMap_eq_nil_iff.2 fun c hc =>
    hf c (by simp [hc]) (hdis c hc a List.mem_cons_self)
  have e₂ : l₂.filterMap f = [] := List.filterMap_eq_nil_iff.2 fun c hc =>
    hf c (by simp [hc]) fun e => (List.nodup_cons.1 h₂).1 (e ▸ hc)
  rw [List.filterMap_append, List.filterMap_cons_some hb, e₁, e₂, List.nil_append]

/-- No thread of `u`'s core but `u` waits in a miss slot or with a record to be posted. -/
def State.SoleMiss (s : State) (u : Nat) : Prop :=
  ∀ w, coreOf w = coreOf u → w ≠ u → (s.thread w).owed = none ∧ ∀ a x y, (s.thread w).run ≠ .waiting (.tlb a x y)

variable {cl u : Nat} {m : TscMsg} {ms : List TscMsg}

theorem State.missWaiters_sole {asid acc : Nat} {va : Word} {hit : Nat → Nat → Bool} (hs : s.SoleMiss u)
    (hr : (s.thread u).run = .waiting (.tlb asid va acc)) (hh : hit asid (va.toNat / 2 ^ 19) = true) :
    s.missWaiters (coreOf u) hit = [(u, va, acc)] := by
  refine filterMap_eq_singleton (coreThreads_nodup _) (mem_coreThreads.2 rfl) (by simp only [hr, hh, if_true]) ?_
  intro w hw hne
  obtain ⟨ho, hnot⟩ := hs w (mem_coreThreads.1 hw) hne
  split
  · next e => exact absurd e (hnot _ _ _)
  · next e => exact absurd (ho.symm.trans e) (by simp)
  · rfl

/-- The head message of cluster `cl` tells of a TLB miss of `u`, the only thread of its core that misses; the region of `u` is not pinned
and has neither children nor TCONS holds. -/
structure State.LoneMiss (s : State) (cl u : Nat) (m : TscMsg) (ms : List TscMsg) : Prop where
  head : (s.cluster cl).inbox = m :: ms
  kind : m.kind = 1
  msgPin : m.pin = false
  core : m.core = coreOf u
  run : (s.thread u).run = .waiting (.tlb m.asid m.w1 m.acc)
  sole : s.SoleMiss u
  pin : (s.thread u).pin = false
  children : (s.thread u).children = []
  tcons : (s.thread u).tcons = []

theorem State.LoneMiss.msgWaiters (h : s.LoneMiss cl u m ms) : s.msgWaiters cl m = ⟨[(u, m.w1)], [], none⟩ := by
  have hw := s.missWaiters_sole h.sole h.run (hit := fun a p => decide (a = m.asid) && decide (p = m.page)) (by simp [TscMsg.page])
  simp [State.msgWaiters, h.kind, h.msgPin, h.core, hw, h.pin]

/-- The waiters of a fetch miss are those of its fetch. -/
theorem State.msgWaiters_fetch {f : Fetch} (hk : m.kind = 2) (hf : (s.cluster cl).msgFetch m = some f) :
    s.msgWaiters cl m = ⟨f.waiters.map (fun t => (t, m.w1)), [], none⟩ := by
  simp [State.msgWaiters, hk, hf]

theorem State.msgWaiters_noFetch (hk : m.kind = 2) (hf : (s.cluster cl).msgFetch m = none) : s.msgWaiters cl m = ⟨[], [], none⟩ := by
  simp [State.msgWaiters, hk, hf]

/-! ## A message's waiters are attached to a record (01 R39, R48) -/

theorem State.popInbox_eq (hi : (s.cluster cl).inbox = m :: ms) (hk : m.kind ≠ 4) :
    s.popInbox cl = s.updCluster cl (fun c => { c with inbox := ms, working := false }) := by
  simp only [State.popInbox, hi, if_neg hk]

/-- The cluster once the head message has gone and `ws` have joined record `seq`; a fetch miss takes its fetch along. -/
def Cluster.attached (c : Cluster) (m : TscMsg) (ms : List TscMsg) (seq : Nat) (ws : List Waiter) : Cluster :=
  { c with
    inbox := ms
    working := false
    fetches := if m.kind = 2 then c.fetches.filter (fun f => !(decide (f.asid = m.asid) && decide (f.va = m.w1.toNat))) else c.fetches
    faults := c.faults.map (fun f => if f.seq = seq then { f with waiters := f.waiters ++ ws } else f) }

/-- The unpinned threads of a message, and those that are pinned. -/
def State.unpinned (s : State) (ts : List (Nat × Word)) : List (Nat × Word) := ts.filter (fun p => !(s.thread p.1).pin)
def State.pinned (s : State) (ts : List (Nat × Word)) : List (Nat × Word) := ts.filter (fun p => (s.thread p.1).pin)

/-- For a message whose waiters are threads, the message goes first and its threads are then faulted one by one. -/
theorem State.attach_eq (hi : (s.cluster cl).inbox = m :: ms) (hk : m.kind ≠ 4) (ts : List (Nat × Word)) (cause : BitVec 6)
    (pgs seq : Nat) : ∃ r : State, r.threads = s.threads ∧ r.mem = s.mem ∧ r.cycle = s.cycle ∧
      r.cluster cl = (s.cluster cl).attached m ms seq ((s.unpinned ts).map fun p => .thread p.1 p.2) ∧
      s.attach cl m ⟨ts, [], none⟩ cause pgs seq =
        ((if m.kind = 2 then s.unpinned ts else ts).foldl (fun s p => s.faultThread p.1 p.2 cause seq) r).trapFetchers cl m
          (cause.toNat % 16) pgs (if m.kind = 2 then (s.pinned ts).map (·.1) else []) := by
  have hpop := State.popInbox_eq hi hk
  unfold State.attach
  rw [hpop]
  dsimp only
  refine ⟨_, ?_, ?_, ?_, ?_, rfl⟩
  · split <;> rfl
  · split <;> rfl
  · split <;> rfl
  · split <;> simp [State.freeMisses, State.unpinned, Cluster.attached]

/-- The one thread of a TLB miss joins the record, its region aborted and it parked. -/
theorem State.attach_miss {va : Word} {cause : BitVec 6} {pgs seq : Nat} (hi : (s.cluster cl).inbox = m :: ms) (hk : m.kind = 1)
    (hp : (s.thread u).pin = false) (hc : (s.thread u).children = []) (ht : (s.thread u).tcons = []) :
    let r := s.attach cl m ⟨[(u, va)], [], none⟩ cause pgs seq
    r.thread u = { (s.thread u).restored with run := .parked .fault, faultSeq := some seq, owed := none } ∧
    r.cluster cl = (s.cluster cl).attached m ms seq [.thread u va] := by
  obtain ⟨r, hthreads, -, -, hcl, e⟩ := s.attach_eq hi (by omega) [(u, va)] cause pgs seq
  have hr := State.thread_congr hthreads u
  obtain ⟨hthread, hclusters⟩ := r.abort_park (hr ▸ hc) (hr ▸ ht) (fun x => { x with faultSeq := some seq, owed := none })
  have hgo : s.attach cl m ⟨[(u, va)], [], none⟩ cause pgs seq =
      ((r.abortRegion u).updThread u (fun x => { x with faultSeq := some seq, owed := none })).stop u (.parked .fault) := by
    simp [e, hk, State.trapFetchers, State.faultThread, hr, hp]
  rw [hgo]
  refine ⟨hr ▸ hthread, (State.cluster_congr hclusters cl).trans ?_⟩
  simp [hcl, State.unpinned, hp]

/-- The pinned thread of a fetch miss posts a record of its own and traps (log 87). -/
theorem State.attach_pinned {cause : BitVec 6} {pgs seq : Nat} (hi : (s.cluster cl).inbox = m :: ms) (hk : m.kind = 2)
    (hf : (s.cluster cl).faults = []) (hp : (s.thread u).pin = true) (hv : (s.thread u).tvec ≠ 0) :
    let r := s.attach cl m ⟨[(u, m.w1)], [], none⟩ cause pgs seq
    FatallyTrapped (s.thread u) (r.thread u) (BitVec.ofNat 6 (cause.toNat % 16) ||| (BitVec.ofNat 6 m.acc <<< 4)) m.w1 ∧
    (r.cluster cl).inbox = ms ∧ ∃ g, (r.cluster cl).faults = [g] ∧
      RecordOf s.cycle (s.pinnedRec m u (cause.toNat % 16) pgs) g := by
  obtain ⟨r, hthreads, -, hcycle, hcl, e⟩ := s.attach_eq hi (by omega) [(u, m.w1)] cause pgs seq
  have hr := State.thread_congr hthreads u
  have hrf : (r.cluster cl).faults = [] := by simp [hcl, Cluster.attached, hf]
  have hri : (r.cluster cl).inbox = ms := by simp [hcl, Cluster.attached]
  have hrec : r.pinnedRec m u (cause.toNat % 16) pgs = s.pinnedRec m u (cause.toNat % 16) pgs := by simp only [State.pinnedRec, hr]
  have hgo : s.attach cl m ⟨[(u, m.w1)], [], none⟩ cause pgs seq = (r.postRec cl (s.pinnedRec m u (cause.toNat % 16) pgs)).fatalTrap u
      (BitVec.ofNat 6 (cause.toNat % 16) ||| (BitVec.ofNat 6 m.acc <<< 4)) m.w1 := by
    simp [e, hk, hp, State.unpinned, State.pinned, State.trapFetchers, State.postOrOwe, hrf, hrec]
  obtain ⟨g, n, hg, hw⟩ := r.postRec_posts cl (s.pinnedRec m u (cause.toNat % 16) pgs)
  have hu := (hw.thread u).trans hr
  rw [hgo]
  obtain ⟨htrap, hclusters, -⟩ := State.fatalTrap_traps (s := r.postRec cl (s.pinnedRec m u (cause.toNat % 16) pgs)) (hu ▸ hv)
    (BitVec.ofNat 6 (cause.toNat % 16) ||| (BitVec.ofNat 6 m.acc <<< 4)) m.w1
  refine ⟨hu ▸ htrap, ?_, g, ?_, hcycle ▸ hg⟩
  · rw [State.cluster_congr hclusters, hw.inbox, State.cluster_updCluster_same, hri]
  · rw [State.cluster_congr hclusters, hw.faults, State.cluster_updCluster_same, hrf, List.nil_append]

/-- A fetch miss that no thread waits for any more leaves nothing but its place in the inbox. -/
theorem State.attach_nobody {cause : BitVec 6} {pgs seq : Nat} (hi : (s.cluster cl).inbox = m :: ms) (hk : m.kind = 2) :
    let r := s.attach cl m ⟨[], [], none⟩ cause pgs seq
    r.threads = s.threads ∧ r.mem = s.mem ∧ r.cluster cl = (s.cluster cl).attached m ms seq [] := by
  obtain ⟨r, hthreads, hmem, -, hcl, e⟩ := s.attach_eq hi (by omega) [] cause pgs seq
  rw [e, if_pos hk, if_pos hk]
  exact ⟨hthreads, hmem, hcl⟩

/-! ## Posting and attaching (01 R39, R49) -/

/-- The causes of a translation fault that `tfpost` takes. -/
theorem faultCause_ok {v : Word} (hv : field v 35 32 ∈ [1, 2, 3, 4, 5, 6]) :
    ¬(field v 35 32 = 0 ∨ 6 < field v 35 32) := by
  simp only [List.mem_cons, List.not_mem_nil, or_false] at hv
  omega

variable {v : Word}

theorem State.tfpost_empty (hv : field v 35 32 ∈ [1, 2, 3, 4, 5, 6]) (hi : (s.cluster cl).inbox = []) :
    s.tfpost cl v = s.updCluster cl (fun x => { x with tfail := true }) := by
  simp [State.tfpost, faultCause_ok hv, hi]

theorem State.tfattach_empty (hi : (s.cluster cl).inbox = []) : s.tfattach cl v = s.updCluster cl (fun x => { x with rej := true }) := by
  simp [State.tfattach, hi]

/-- The kind of a fault: what is accessed, and the cause that `tfpost` names (14 R381). -/
def TscMsg.faultKind (m : TscMsg) (v : Word) : BitVec 6 := BitVec.ofNat 6 (field v 35 32) ||| (BitVec.ofNat 6 m.acc <<< 4)

/-- With 64 records pending the waiters of a TLB miss of an unpinned region park, and the message stays. -/
theorem State.tfpost_full (hv : field v 35 32 ∈ [1, 2, 3, 4, 5, 6]) (hi : (s.cluster cl).inbox = m :: ms) (hk : m.kind = 1)
    (hp : m.pin = false) (hf : 64 ≤ (s.cluster cl).faults.length) :
    s.tfpost cl v = (s.updCluster cl (fun x => { x with tfail := true })).parkOwed m (s.msgWaiters cl m) := by
  simp [State.tfpost, faultCause_ok hv, hi, hk, hp, hf]

/-- With none pending a TLB miss posts a record, to which its waiters are attached. -/
theorem State.tfpost_first (hv : field v 35 32 ∈ [1, 2, 3, 4, 5, 6]) (hi : (s.cluster cl).inbox = m :: ms) (hk : m.kind = 1)
    (hf : (s.cluster cl).faults = []) : ∃ o : OwedRec, o.asid = m.asid ∧ o.words.getD 1 0 = m.w1 ∧ o.waiters = [] ∧
      let r := (s.updCluster cl (fun x => { x with tfail := false })).postRec cl o
      s.tfpost cl v = r.attach cl m (s.msgWaiters cl m) (m.faultKind v) (field v 31 30) (r.cluster cl).tlast := by
  refine ⟨⟨s.recordWords m (s.msgWaiters cl m) (field v 35 32) (field v 31 30) 0, m.asid, m.pin, [], s.msgFn m (s.msgWaiters cl m),
    s.msgLaunch m (s.msgWaiters cl m)⟩, rfl, rfl, rfl, ?_⟩
  simp [State.tfpost, faultCause_ok hv, hi, hk, hf, Cluster.sameFault, TscMsg.faultKind]

/-- A fetch miss all of whose waiters are pinned posts no record in common. -/
theorem State.tfpost_pinned (hv : field v 35 32 ∈ [1, 2, 3, 4, 5, 6]) (hi : (s.cluster cl).inbox = m :: ms) (hk : m.kind = 2)
    (hf : (s.cluster cl).faults = []) (hw : (s.msgWaiters cl m).threads ≠ []) (hp : s.unpinned (s.msgWaiters cl m).threads = []) :
    s.tfpost cl v = (s.updCluster cl (fun x => { x with tfail := false })).attach cl m (s.msgWaiters cl m) (m.faultKind v)
      (field v 31 30) 0 := by
  unfold State.unpinned at hp
  simp [State.tfpost, faultCause_ok hv, hi, hk, hf, TscMsg.faultKind, hw, hp]

/-- A write of `v` to `tfattach` names record `f`, which an unpinned fetch miss matches in ASID, page and access. -/
structure TscMsg.Matches (m : TscMsg) (v : Word) (f : FaultRec) : Prop where
  seq : f.seq = v.toNat % 2 ^ 16
  recPin : f.pin = false
  pin : m.pin = false
  kind : m.kind = 2
  asid : f.asid = m.asid
  page : f.va.toNat / 2 ^ 19 = m.page
  acc : field f.w0 37 36 = m.acc

theorem State.tfattach_match {f : FaultRec} (hi : (s.cluster cl).inbox = m :: ms) (hf : (s.cluster cl).faults = [f]) (h : m.Matches v f) :
    s.tfattach cl v = s.attach cl m (s.msgWaiters cl m) (BitVec.ofNat 6 (field f.w0 37 32)) (field f.w0 31 30) f.seq := by
  simp [State.tfattach, hi, hf, h.seq, h.recPin, h.pin, h.kind, h.asid, h.page, h.acc, -Nat.reducePow]

/-! ## Answers (01 R51) -/

/-- The cluster once record `f` is free: the deferred messages are back at the tail of its inbox (01 R39). -/
def Cluster.freed (f : FaultRec) (c : Cluster) : Cluster :=
  { c with faults := c.faults.erase f, inbox := c.inbox ++ c.deferred, deferred := [] }

variable {f : FaultRec}

theorem State.freeFault_last (ho : (s.cluster cl).owed = []) : s.freeFault cl f = s.updCluster cl (Cluster.freed f) := by
  simp only [State.freeFault, State.cluster_updCluster_same, ho]
  rfl

/-- A record that waited for the slot takes it. -/
theorem State.freeFault_owed {o : OwedRec} (hf : (s.cluster cl).faults = [f]) (ho : (s.cluster cl).owed = [o]) :
    ((s.freeFault cl f).cluster cl).owed = [] ∧ ∃ g, ((s.freeFault cl f).cluster cl).faults = [g] ∧ RecordOf s.cycle o g := by
  let r := (s.updCluster cl (Cluster.freed f)).updCluster cl (fun c => { c with owed := [] })
  have hgo : s.freeFault cl f = r.postRec cl o := by
    simp only [State.freeFault, State.cluster_updCluster_same, ho]
    rfl
  obtain ⟨g, n, hg, hw⟩ := r.postRec_posts cl o
  rw [hgo, hw.owed, hw.faults]
  exact ⟨by simp [r], g, by simp [r, Cluster.freed, hf], hg⟩

theorem State.answerFault_nobody (hf : (s.cluster cl).faults = [f]) (hw : f.waiters = []) (kill : Bool) :
    s.answerFault cl f.asid f.seq kill = s.freeFault cl f := by
  simp [State.answerFault, hf, hw]

theorem State.answerFault_thread {va : Word} (hf : (s.cluster cl).faults = [f]) (hw : f.waiters = [.thread u va]) (kill : Bool) :
    s.answerFault cl f.asid f.seq kill = (s.freeFault cl f).answerThread u kill (BitVec.ofNat 6 (field f.w0 37 32)) va := by
  simp [State.answerFault, hf, hw]

theorem State.answerFault_other {asid seq : Nat} (hf : (s.cluster cl).faults = [f]) (h : (asid, seq) ≠ (f.asid, f.seq)) (kill : Bool) :
    s.answerFault cl asid seq kill = s := by
  have hno : ¬(f.seq = seq ∧ f.asid = asid) := fun ⟨hs, ha⟩ => h (by rw [hs, ha])
  simp [State.answerFault, hf, hno]

/-- From machine mode an answer is made. -/
theorem answerOp_machine (h : (s.cp s.chosenCp.1).smode = false) (asid seq : Nat) (kill : Bool) :
    answerOp cl asid seq kill s = .next (s.chosenCp.2.answerFault cl asid seq kill) := State.asMachine_machine (s := s.chosenCp.2) h _

/-- From supervisor mode it raises the exception. -/
theorem answerOp_supervisor (h : ¬(s.cp s.chosenCp.1).smode = false) (asid seq : Nat) (kill : Bool) :
    answerOp cl asid seq kill s = .next (s.chosenCp.2.cpIllegal s.chosenCp.1) :=
  State.asMachine_supervisor (s := s.chosenCp.2) (Bool.eq_true_of_not_eq_false h) _

/-- A thread that a RETRY answers returns to rotation at `regpc`. -/
theorem State.answerThread_retry (hr : (s.thread u).releasing = []) (cause : BitVec 6) (va : Word) :
    let r := s.answerThread u false cause va
    r.thread u = { s.thread u with faultSeq := none, run := .ready } ∧ r.clusters = s.clusters ∧ r.mem = s.mem := by
  simp [State.answerThread, State.wake_thread, hr]

/-- A thread that a KILL answers traps there. -/
theorem State.answerThread_kill (hv : (s.thread u).tvec ≠ 0) (cause : BitVec 6) (va : Word) :
    let r := s.answerThread u true cause va
    FatallyTrapped (s.thread u) (r.thread u) cause va ∧ r.clusters = s.clusters ∧ r.mem = s.mem := by
  let s1 := s.updThread u (fun x => { x with faultSeq := none })
  have hu : s1.thread u = { s.thread u with faultSeq := none } := State.thread_updThread_same ..
  obtain ⟨htrap, hclusters, hmem⟩ := State.fatalTrap_traps (s := s1) (t := u) (by rw [hu]; exact hv) cause va
  rw [hu] at htrap
  exact ⟨⟨htrap.pc, htrap.ecause, htrap.fadr, htrap.fcause, htrap.epc⟩, hclusters, hmem⟩

/-- An answer that is overdue raises its record's level, with a notice (01 R51; 22 R452). -/
theorem faultAnswerTimeout_next (hf : (s.cluster cl).faults = [f]) (hl : f.late = false)
    (hd : f.posted + (s.cp (s.server f.fn)).ans * 4096 ≤ s.cycle) :
    execFaultAnswerTimeout cl f.seq s = .next ((s.updCluster cl (fun c => { c with
      faults := c.faults.map (fun g => if g = f then { g with late := true } else g) })).notice 0x01 1 f.fn f.launch
        (BitVec.ofNat 64 cl) 1 f.w0) := by
  simp [execFaultAnswerTimeout, hf, hl, hd]

end Sys2Proof.Machine
end

section
/-! ## Fault records (01 R39, R48, R49, R51) -/

namespace Sys2Proof.Machine
variable {s : State} {cl u : Nat} {v : Word} {m : TscMsg} {ms : List TscMsg} {f : FaultRec}

theorem completes_tfpost {t : State} {P : State → Prop} (e : s.tfpost cl v = t) (h : P t) : Completes (.tfpost cl v) s P :=
  ⟨t, congrArg Host.Outcome.next e, h⟩
theorem completes_tfattach {t : State} {P : State → Prop} (e : s.tfattach cl v = t) (h : P t) : Completes (.tfattach cl v) s P :=
  ⟨t, congrArg Host.Outcome.next e, h⟩

/-- A TLB miss of one unpinned thread, with no record pending: the thread parks on the record that is posted. -/
theorem tfpost_parks (h : s.LoneMiss cl u m ms) (hv : field v 35 32 ∈ [1, 2, 3, 4, 5, 6]) (hf : (s.cluster cl).faults = []) :
    Completes (.tfpost cl v) s (fun t => (t.thread u).run = .parked .fault ∧ Aborted (s.thread u) (t.thread u) ∧
      (t.cluster cl).inbox = ms ∧ (t.cluster cl).tfail = false ∧ ∃ f, (t.cluster cl).faults = [f] ∧ f.asid = m.asid ∧
        f.va = m.w1 ∧ f.waiters = [.thread u m.w1] ∧ (t.thread u).faultSeq = some f.seq) := by
  obtain ⟨o, hoa, hov, how, hpost⟩ := State.tfpost_first hv h.head h.kind hf
  obtain ⟨g, n, hg, hw⟩ := State.postRec_posts (s.updCluster cl (fun x => { x with tfail := false })) cl o
  rw [h.msgWaiters] at hpost
  generalize State.postRec _ cl o = r at hpost hw
  have hur : r.thread u = s.thread u := hw.thread u
  have hinbox : (r.cluster cl).inbox = m :: ms := by simp [hw.inbox, h.head]
  have hfaults : (r.cluster cl).faults = [g] := by simp [hw.faults, hf]
  have hlast : (r.cluster cl).tlast = g.seq := by simp [hw.tlast]
  have htfail : (r.cluster cl).tfail = false := by simp [hw.tfail]
  obtain ⟨hthread, hcl⟩ := State.attach_miss (va := m.w1) (cause := m.faultKind v) (pgs := field v 31 30)
    (seq := (r.cluster cl).tlast) hinbox h.kind (hur ▸ h.pin) (hur ▸ h.children) (hur ▸ h.tcons)
  refine completes_tfpost hpost ?_
  rw [hthread, hcl, hur]
  refine ⟨rfl, (Thread.restored_aborted h.tcons).park .., rfl, htfail, { g with waiters := [.thread u m.w1] }, ?_, hg.asid.trans hoa,
    hg.va.trans hov, rfl, congrArg some hlast⟩
  simp [Cluster.attached, hfaults, hlast, hg.waiters, how]

/-- With 64 records pending it parks all the same, its record to be posted later (log 28). -/
theorem tfpost_owes (h : s.LoneMiss cl u m ms) (hv : field v 35 32 ∈ [1, 2, 3, 4, 5, 6]) (hf : 64 ≤ (s.cluster cl).faults.length) :
    Completes (.tfpost cl v) s (fun t => (t.thread u).run = .parked .fault ∧ Aborted (s.thread u) (t.thread u) ∧
      (t.thread u).owed = some (m.w1, m.acc) ∧ (t.cluster cl).inbox = m :: ms ∧ (t.cluster cl).tfail = true ∧
      (t.cluster cl).faults = (s.cluster cl).faults) := by
  have hpost := State.tfpost_full hv h.head h.kind h.msgPin hf
  let r := s.updCluster cl (fun x => { x with tfail := true })
  obtain ⟨hthread, hclusters⟩ := r.abort_park (t := u) h.children h.tcons (fun x => { x with owed := some (m.w1, m.acc) })
  have hgo : s.tfpost cl v = ((r.abortRegion u).updThread u (fun x => { x with owed := some (m.w1, m.acc) })).stop u (.parked .fault) := by
    simp [hpost, h.msgWaiters, State.parkOwed, h.pin, r]
  refine completes_tfpost hgo ?_
  rw [hthread, State.cluster_congr hclusters, State.cluster_updCluster_same]
  exact ⟨rfl, (Thread.restored_aborted h.tcons).park .., rfl, h.head, rfl, rfl⟩

/-- A pinned thread that waits for a fetched block posts a record of its own and traps (log 87). -/
theorem tfpost_traps {g : Fetch} (hi : (s.cluster cl).inbox = m :: ms) (hv : field v 35 32 ∈ [1, 2, 3, 4, 5, 6])
    (hf : (s.cluster cl).faults = []) (hk : m.kind = 2) (hg : (s.cluster cl).msgFetch m = some g) (hw : g.waiters = [u])
    (hp : (s.thread u).pin = true) (ht : (s.thread u).tvec ≠ 0) :
    Completes (.tfpost cl v) s (fun t => (t.thread u).pc = (s.thread u).tvec ∧ (t.thread u).ecause = 5 ∧ (t.thread u).fadr = m.w1 ∧
      (t.thread u).epc = (s.thread u).pc &&& ~~~1#64 ∧ (t.cluster cl).inbox = ms ∧
      ∃ g, (t.cluster cl).faults = [g] ∧ g.pin = true ∧ g.waiters = [] ∧ g.asid = m.asid ∧ g.va = m.w1) := by
  have hwaiters : s.msgWaiters cl m = ⟨[(u, m.w1)], [], none⟩ := by rw [State.msgWaiters_fetch hk hg, hw]; rfl
  have hpost := State.tfpost_pinned hv hi hk hf (by simp [hwaiters]) (by simp [hwaiters, State.unpinned, hp])
  obtain ⟨htrap, hinbox, q, hq, hrec⟩ := State.attach_pinned (s := s.updCluster cl (fun x => { x with tfail := false })) (cl := cl)
    (u := u) (m := m) (ms := ms) (cause := m.faultKind v) (pgs := field v 31 30) (seq := 0) (by simp [hi]) hk (by simp [hf]) hp ht
  exact completes_tfpost (hwaiters ▸ hpost) ⟨htrap.pc, htrap.ecause, htrap.fadr, htrap.epc, hinbox, q, hq, hrec.pin,
    hrec.waiters, hrec.asid, hrec.va⟩

/-- A fetch miss that a record matches, and for which no thread waits any more, leaves the inbox. -/
theorem tfattach_leaves (hi : (s.cluster cl).inbox = m :: ms) (hf : (s.cluster cl).faults = [f]) (h : m.Matches v f)
    (hn : (s.cluster cl).msgFetch m = none) :
    Completes (.tfattach cl v) s (fun t => (t.cluster cl).inbox = ms ∧ t.mem = s.mem ∧ t.threads = s.threads ∧
      (t.cluster cl).rej = (s.cluster cl).rej) := by
  obtain ⟨hthreads, hmem, hcl⟩ := State.attach_nobody (cause := BitVec.ofNat 6 (field f.w0 37 32)) (pgs := field f.w0 31 30)
    (seq := f.seq) hi h.kind
  refine completes_tfattach (State.tfattach_match hi hf h) ?_
  rw [State.msgWaiters_noFetch h.kind hn, hcl]
  exact ⟨rfl, hmem, hthreads, rfl⟩

/-! ### Answers, which a command processor makes from machine mode -/

section machine
variable (hm : (s.cp s.chosenCp.1).smode = false) {asid seq : Nat} {P : State → Prop}
include hm

theorem completes_retry (h : P (s.chosenCp.2.answerFault cl asid seq false)) : Completes (.faultAnswerRetry cl asid seq) s P :=
  ⟨_, answerOp_machine hm asid seq false, h⟩
theorem completes_kill (h : P (s.chosenCp.2.answerFault cl asid seq true)) : Completes (.faultAnswerKill cl asid seq) s P :=
  ⟨_, answerOp_machine hm asid seq true, h⟩

/-- The slot that an answer frees goes to the record that is owed. -/
theorem answer_posts_owed {o : OwedRec} (hf : (s.cluster cl).faults = [f]) (ho : (s.cluster cl).owed = [o]) (hw : f.waiters = []) :
    Completes (.faultAnswerRetry cl f.asid f.seq) s (fun t => (t.cluster cl).owed = [] ∧ ∃ g, (t.cluster cl).faults = [g] ∧
      g.pin = o.pin ∧ g.asid = o.asid ∧ g.va = o.words.getD 1 0 ∧ g.posted = s.cycle) := by
  obtain ⟨howed, g, hg, hrec⟩ := State.freeFault_owed (s := s.chosenCp.2) hf ho
  refine completes_retry hm ?_
  rw [State.answerFault_nobody (s := s.chosenCp.2) hf hw]
  exact ⟨howed, g, hg, hrec.pin, hrec.asid, hrec.va, hrec.posted⟩

/-- A RETRY returns the thread that is parked on the record to rotation. -/
theorem retry_returns (hf : (s.cluster cl).faults = [f]) (ho : (s.cluster cl).owed = []) (hw : f.waiters = [.thread u f.va])
    (hr : (s.thread u).releasing = []) :
    Completes (.faultAnswerRetry cl f.asid f.seq) s (fun t => (t.cluster cl).faults = [] ∧ t.mem = s.mem ∧ (t.thread u).run = .ready ∧
      (t.thread u).pc = (s.thread u).pc ∧ (t.thread u).faultSeq = none ∧ (t.thread u).s = (s.thread u).s) := by
  obtain ⟨hthread, hclusters, hmem⟩ := State.answerThread_retry (s := s.chosenCp.2.updCluster cl (Cluster.freed f)) (u := u) hr
    (BitVec.ofNat 6 (field f.w0 37 32)) f.va
  refine completes_retry hm ?_
  rw [State.answerFault_thread (s := s.chosenCp.2) hf hw, State.freeFault_last (s := s.chosenCp.2) ho, hthread,
    State.cluster_congr hclusters, State.cluster_updCluster_same]
  exact ⟨by simp [Cluster.freed, State.cluster_congr (s.chosenCp_clusters), hf], hmem, rfl, rfl, rfl, rfl⟩

/-- A KILL traps it where it is parked. -/
theorem kill_traps (hf : (s.cluster cl).faults = [f]) (ho : (s.cluster cl).owed = []) (hw : f.waiters = [.thread u f.va])
    (hv : (s.thread u).tvec ≠ 0) :
    Completes (.faultAnswerKill cl f.asid f.seq) s (fun t => (t.cluster cl).faults = [] ∧ t.mem = s.mem ∧
      (t.thread u).pc = (s.thread u).tvec ∧ (t.thread u).ecause = 5 ∧ (t.thread u).fadr = f.va ∧
      (t.thread u).fcause = BitVec.ofNat 6 (field f.w0 37 32) ∧ (t.thread u).epc = (s.thread u).pc &&& ~~~1#64) := by
  obtain ⟨htrap, hclusters, hmem⟩ := State.answerThread_kill (s := s.chosenCp.2.updCluster cl (Cluster.freed f)) (u := u) hv
    (BitVec.ofNat 6 (field f.w0 37 32)) f.va
  refine completes_kill hm ?_
  rw [State.answerFault_thread (s := s.chosenCp.2) hf hw, State.freeFault_last (s := s.chosenCp.2) ho,
    State.cluster_congr hclusters, State.cluster_updCluster_same]
  exact ⟨by simp [Cluster.freed, State.cluster_congr (s.chosenCp_clusters), hf], hmem, htrap.pc, htrap.ecause, htrap.fadr,
    htrap.fcause, htrap.epc⟩

/-- An answer that matches no record changes nothing. -/
theorem answerOp_other (hf : (s.cluster cl).faults = [f]) (h : (asid, seq) ≠ (f.asid, f.seq)) (kill : Bool) :
    answerOp cl asid seq kill s = .next s.chosenCp.2 := by
  rw [answerOp_machine hm, State.answerFault_other (s := s.chosenCp.2) hf h]

end machine

/-- An answer overdue is told once. -/
theorem timeout_tells (hf : (s.cluster cl).faults = [f]) (hl : f.late = false)
    (hd : f.posted + (s.cp (s.server f.fn)).ans * 4096 ≤ s.cycle) :
    Completes (.faultAnswerTimeout cl f.seq) s (fun t => (t.cluster cl).faults = [{ f with late := true }] ∧ t.threads = s.threads) := by
  have hn := fun s' : State => (WritesOnly.refl s').notice (kind := 0x01) (level := 1) (fn := f.fn) (launch := f.launch)
    (w1 := BitVec.ofNat 64 cl) (w2 := 1) (w3 := f.w0)
  exact ⟨_, faultAnswerTimeout_next hf hl hd, ((hn _).faults cl).trans (by simp [hf]), (hn _).threads⟩

/-- Settles O41, clause by clause: `tfpost` and `tfattach` on an empty inbox, the thread that parks on a record or owes one, the
pinned thread that traps, and the answers. -/
theorem faultResult : Obligations.FaultResult := by
  intro s cl u v m ms c machine
  refine ⟨fun hi hv => ?_, fun hi hv hf hk hp _ hc hu hr hs hch htc => ?_, fun hi hv hf hk hp _ hc hu hr hs hch htc => ?_,
    fun f hi hv hf hk hg hw hp ht => ?_, fun f o hm hf ho hw => ?_, fun f hf _ ho => ⟨fun hm hw => ?_, fun hl hd => ?_,
      fun asid seq hm h => ?_⟩, fun hm asid seq => ?_, fun f hi hf hq hfp hmp hk ha hpage hacc hn => ?_⟩
  · exact ⟨completes_tfpost (State.tfpost_empty hv hi) ⟨by simp, rfl, rfl⟩,
      completes_tfattach (State.tfattach_empty hi) ⟨by simp, rfl, rfl⟩⟩
  · exact tfpost_parks ⟨hi, hk, hp, hc, hr, hs, hu, hch, htc⟩ hv hf
  · exact tfpost_owes ⟨hi, hk, hp, hc, hr, hs, hu, hch, htc⟩ hv hf
  · exact tfpost_traps hi hv hf hk hg hw hp ht
  · exact answer_posts_owed hm hf ho hw
  · exact ⟨retry_returns hm hf ho hw, kill_traps hm hf ho hw⟩
  · exact timeout_tells hf hl hd
  · exact ⟨answerOp_other hm hf h false, answerOp_other hm hf h true⟩
  · exact ⟨answerOp_supervisor hm asid seq false, answerOp_supervisor hm asid seq true⟩
  · exact tfattach_leaves hi hf ⟨hq, hfp, hmp, hk, ha, hpage, hacc⟩ hn

end Sys2Proof.Machine
end

section
/-!
## The hearth tables (02 R78 to R83; 16 R409)
-/

namespace Sys2Proof
variable {α : Type} [DecidableEq α] {d : α}

/-- A table filled from 0 to `n - 1`. -/
theorem NMap.get_foldl_range (f : Nat → α) (m : NMap α) (n i : Nat) :
    NMap.get d ((List.range n).foldl (fun m i => NMap.set d m i (f i)) m) i = if i < n then f i else NMap.get d m i := by
  induction n with
  | zero => rfl
  | succ n ih =>
    rw [List.range_succ, List.foldl_append, List.foldl_cons, List.foldl_nil, NMap.get_set, ih]
    by_cases h : i = n
    · rw [if_pos h, if_pos (by omega), h]
    · rw [if_neg h]
      exact if_congr (by omega) rfl rfl

end Sys2Proof

namespace Sys2Proof.Machine
variable {s : State} {cl src : Nat} {P : State → Prop}

/-- What every result of `f` has, a cluster among those updated by `f` has; another keeps it. -/
theorem State.foldl_updCluster_holds {Q : Cluster → Prop} {f : Cluster → Cluster} (hf : ∀ c, Q (f c)) {js : List Nat} {j : Nat}
    (h : j ∈ js ∨ Q (s.cluster j)) : Q ((js.foldl (fun s d => s.updCluster d f) s).cluster j) := by
  induction js generalizing s with
  | nil => exact h.resolve_left (by simp)
  | cons d js ih =>
    refine ih ?_
    rw [State.cluster_updCluster]
    by_cases hd : j = d
    · rw [if_pos hd]
      exact .inr (hf _)
    · rw [if_neg hd]
      exact h.imp_left (List.mem_of_ne_of_mem hd)

/-! ### One change of an entry (02 R78, R79) -/

theorem Hearth.change_core (h : Hearth) (j : Nat) (δ : Int) :
    NMap.get 0 (h.change (some j) δ).cores j = min 256 (((NMap.get 0 h.cores j : Nat) : Int) + δ).toNat := NMap.get_set_same ..
theorem Hearth.change_slice (h : Hearth) (δ : Int) : (h.change none δ).slice = min 512 ((h.slice : Int) + δ).toNat := rfl

theorem Hearth.change_pair (h : Hearth) (core : Option Nat) (δ : Int) :
    (h.change core δ).valid = h.valid ∧ (h.change core δ).asid = h.asid ∧ (h.change core δ).gran = h.gran := by
  cases core with
  | none => exact ⟨rfl, rfl, rfl⟩
  | some j => exact ⟨rfl, rfl, rfl⟩

/-! ### One update of a table (02 R79 to R83) -/

/-- A pair is allocated in a way of its set. -/
theorem hearthVictim_set (m : NMap Hearth) (set : Nat) : hearthVictim m set / 8 = set := by
  have hway : ∀ i ∈ (List.range 8).map (fun w => set * 8 + w), i / 8 = set := by
    intro i hi
    obtain ⟨w, hw, rfl⟩ := List.mem_map.mp hi
    have := List.mem_range.mp hw
    omega
  unfold hearthVictim
  dsimp only
  split
  · next i hi => exact hway i (List.mem_of_find?_eq_some hi)
  · refine List.foldlRecOn (motive := fun b => b / 8 = set) _ _ (by omega) fun b hb i hi => ?_
    split
    · exact hway i hi
    · exact hb

section update
variable {m : NMap Hearth} {u : HearthUpd}

theorem hearthApply_found {i : Nat} {h : Hearth} (hf : hearthFind m u.asid u.gran = some (i, h)) :
    hearthApply m u = NMap.set {} m i (if (h.change u.core u.delta).total = 0 then {} else h.change u.core u.delta) := by
  simp only [hearthApply, hf]

theorem hearthApply_absent (hf : hearthFind m u.asid u.gran = none) (hd : u.delta ≤ 0) : hearthApply m u = m := by
  simp only [hearthApply, hf, if_pos hd]

/-- A positive update of a pair that has no entry gives it one in its set. -/
theorem hearthApply_allocates (hf : hearthFind m u.asid u.gran = none) (hd : 0 < u.delta) :
    ∃ i, i / 8 = hearthSet u.asid u.gran ∧ (NMap.get {} (hearthApply m u) i).valid = true ∧
      (NMap.get {} (hearthApply m u) i).asid = u.asid ∧ (NMap.get {} (hearthApply m u) i).gran = u.gran := by
  refine ⟨hearthVictim m (hearthSet u.asid u.gran), hearthVictim_set .., ?_⟩
  simp only [hearthApply, hf, if_neg (Int.not_le.mpr hd), NMap.get_set_same]
  exact Hearth.change_pair ..

variable {c : Cluster}

theorem Cluster.takeUpdate_removed (h : c.hclrBusy = some u.asid) : c.takeUpdate u = c := if_pos h
theorem Cluster.takeUpdate_kept (h : c.hclrBusy ≠ some u.asid) : c.takeUpdate u = { c with hearth := hearthApply c.hearth u } := if_neg h

variable {us : List HearthUpd} (hu : (s.cluster cl).updates = u :: us) (ht : s.tieTaken (.bellows cl) = false)
include hu ht

/-- The oldest update leaves the queue and is taken (02 R82). -/
theorem completes_hearthUpdate
    (h : ∀ t : State, t.cluster cl = ({ s.cluster cl with updates := us } : Cluster).takeUpdate u → P t) :
    Completes (.hearthUpdate cl) s P := by
  refine ⟨_, if_neg (by simp [ht]), h _ ?_⟩
  rw [State.cluster_updCluster_same, hu]

/-- One of an ASID that is being removed is discarded (02 R83). -/
theorem hearthUpdate_removed (hb : (s.cluster cl).hclrBusy = some u.asid) :
    Completes (.hearthUpdate cl) s (fun t => (t.cluster cl).updates = us ∧ (t.cluster cl).hearth = (s.cluster cl).hearth) :=
  completes_hearthUpdate hu ht fun t e => by
    rw [e, Cluster.takeUpdate_removed (by exact hb)]
    exact ⟨rfl, rfl⟩

/-- Any other one is applied to the table. -/
theorem hearthUpdate_applied (hb : (s.cluster cl).hclrBusy ≠ some u.asid)
    (h : ∀ t : State, (t.cluster cl).updates = us → (t.cluster cl).hearth = hearthApply (s.cluster cl).hearth u → P t) :
    Completes (.hearthUpdate cl) s P :=
  completes_hearthUpdate hu ht fun t e => by
    rw [Cluster.takeUpdate_kept (by exact hb)] at e
    exact h t (by rw [e]) (by rw [e])

end update

/-! ### Removal (02 R83) and summaries (16 R409) -/

theorem hclrComplete_removes {a : Nat} (hb : (s.cluster cl).hclrBusy = some a) :
    Completes (.hclrComplete cl) s (fun t => (t.cluster cl).hclrBusy = none ∧
      (t.cluster cl).hearth = (s.cluster cl).hearth.filter (fun p => decide (p.2.asid ≠ a)) ∧ t.mem = s.mem) := by
  refine ⟨_, rfl, ?_⟩
  simp only [State.cluster_updCluster_same, hb, State.updCluster_mem, and_self]

/-- A write with GO begins a removal where none is in progress. -/
theorem hclrGo_begins {v : Word} (hv : v.getLsbD 0 = true) (hb : (s.cluster cl).hclrBusy = none) :
    Completes (.hclrGo cl v) s (fun t => (t.cluster cl).hclrBusy = some (field v 63 48) ∧
      (t.cluster cl).hclrAsid = field v 63 48 ∧ (t.cluster cl).hearth = (s.cluster cl).hearth) := by
  refine ⟨_, rfl, ?_⟩
  simp [Cluster.writeHclr, hv, hb]

/-- Every other cluster receives the summary. -/
theorem hearthSummaryBroadcast_sends (hc : (s.cycle - s.dieReset) % 4096 = 0) (ht : s.tieTaken (.summary cl) = false) :
    Completes (.hearthSummaryBroadcast cl) s (fun t => ∀ d, d < 168 → d ≠ cl → ∀ i, i < 256 →
      NMap.get 0 (NMap.get [] (t.cluster d).sumInbox cl) i = summaryValue (s.cluster cl).hearth i) := by
  refine ⟨_, if_neg (by simp [hc, ht]), fun d hd hne i hi => ?_⟩
  refine State.foldl_updCluster_holds (Q := fun c => NMap.get 0 (NMap.get [] c.sumInbox cl) i = summaryValue (s.cluster cl).hearth i)
    (fun c => ?_) (.inl (List.mem_filter.mpr ⟨List.mem_range.mpr hd, by simpa using hne⟩))
  rw [NMap.get_set_same, NMap.get_foldl_range, if_pos hi]
  rfl

/-- A summary that has come replaces the one before it. -/
theorem hearthSummaryApply_applies {p : Nat × NMap Nat} (hp : p ∈ (s.cluster cl).sumInbox) (he : p.1 = src) :
    Completes (.hearthSummaryApply cl src) s (fun t =>
      NMap.get [] (t.cluster cl).summaries src = NMap.get [] (s.cluster cl).sumInbox src ∧
        (t.cluster cl).hearth = (s.cluster cl).hearth ∧ t.mem = s.mem) := by
  have hany : (s.cluster cl).sumInbox.any (fun p => p.1 = src) = true := List.any_eq_true.mpr ⟨p, hp, by simpa using he⟩
  refine ⟨_, rfl, ?_⟩
  simp only [State.cluster_updCluster_same, if_pos hany, NMap.get_set_same, State.updCluster_mem, and_self]

/-- Settles O29: an update by what the table holds of its pair, then the removal of an ASID and the summaries. -/
theorem hearthResult : Obligations.HearthResult := by
  intro s cl src c
  refine ⟨fun ht => if_pos ht, fun u us hu ht => ⟨hearthUpdate_removed hu ht, fun hb => ⟨fun i h hf => ?_, fun hf hd => ?_, fun hf hd => ?_⟩⟩,
    fun a => hclrComplete_removes, fun v => hclrGo_begins, fun hc ht _ => hearthSummaryBroadcast_sends hc ht,
    fun p => hearthSummaryApply_applies⟩
  · refine hearthUpdate_applied hu ht hb fun t hus he => ⟨hus, ?_, fun j hj => ?_, fun hn => ?_⟩
    · rw [he, hearthApply_found hf, NMap.get_set_same]
      rfl
    · rw [hj]
      exact h.change_core j _
    · rw [hn]
      exact h.change_slice _
  · refine hearthUpdate_applied hu ht hb fun t hus he => ⟨hus, ?_⟩
    rw [he]
    exact hearthApply_allocates hf hd
  · exact hearthUpdate_applied hu ht hb fun t hus he => ⟨hus, he.trans (hearthApply_absent hf hd)⟩

end Sys2Proof.Machine
end

section
/-!
## Blocks that are zeroed where memory is not in its canonical form (02 R66; 04 R115)

A shrink and an expansion that meets an uncorrectable error drop the entries of the bytes they zero. As with the load of an
instruction store above, a dropped entry may have hidden one behind it, of an address outside the range, where addresses do not rise:
the obligation asks too much of such a state. In canonical memory, which every step keeps, both change the bytes it says and no other.
-/

namespace Sys2Proof

/-- A key that is not listed reads as the default. -/
theorem NMap.get_of_unlisted {α : Type} {d : α} {m : NMap α} {k : Nat} (h : ∀ p ∈ m, p.1 ≠ k) : NMap.get d m k = d := by
  induction m with
  | nil => rfl
  | cons p m ih =>
    obtain ⟨hp, hm⟩ := List.forall_mem_cons.mp h
    rw [NMap.get, if_neg hp, ih hm, ite_self]

end Sys2Proof

namespace Sys2Proof.Machine
variable {s : State} {cl blk : Nat}

theorem State.byte_clearRange_inside {lo n a : Nat} (h : lo ≤ a ∧ a < lo + n) : (s.clearRange lo n).byte a = 0 :=
  NMap.get_of_unlisted fun p hp => by
    have := (List.mem_filter.mp hp).2
    simp only [Bool.or_eq_true, decide_eq_true_eq] at this
    omega

/-- In canonical memory the bytes of the range become zeros and the others stay. -/
theorem State.byte_clearRange (hs : s.Canonical) (lo n a : Nat) :
    (s.clearRange lo n).byte a = if lo ≤ a ∧ a < lo + n then 0 else s.byte a := by
  split
  · next h => exact State.byte_clearRange_inside h
  · next h => exact State.byte_clearRange_other hs (by omega)

/-- A shrink that completes zeroes the surrendered ways (02 R66). -/
theorem clpartShrinkComplete_zeroes (hs : s.Canonical) (hb : (s.cluster cl).busy = true) (hd : (s.cluster cl).drain = false)
    (ho : s.oldAccess cl = false) :
    Completes (.clpartShrinkComplete cl) s (fun t => ∀ a,
      let x := s.cluster cl
      let lo := locCluster cl (x.spw * 2 ^ 20)
      t.byte a = if lo ≤ a ∧ a < lo + (x.oldSpw - x.spw) * 2 ^ 20 then 0 else s.byte a) :=
  ⟨_, if_neg (by simp [hb, hd, ho]), fun a => State.byte_clearRange hs _ _ a⟩

/-- An expansion that meets an uncorrectable error zeroes its block, and then tells (04 R115). -/
theorem expanderExpandComplete_zeroes (hs : s.Canonical) (he : s.expState cl blk = some .expanding) :
    Completes (.expanderExpandComplete cl blk true) s (fun t => ∃ (u : State) (fn num asid : Nat),
      t = u.notice 0x04 1 fn num (BitVec.ofNat 64 cl) (BitVec.ofNat 64 (512 * blk)) (BitVec.ofNat 64 asid) ∧
      ∀ a, u.byte a = if locCluster cl (512 * blk) ≤ a ∧ a < locCluster cl (512 * blk) + 512 then 0 else s.byte a) :=
  ⟨_, if_neg (by simp [he]), _, _, _, _, rfl, fun a => State.byte_clearRange hs _ _ a⟩

/-- Refutes O42: in this memory the entry of the surrendered way comes first and hides the byte at 3, which reads 0; the shrink drops
that entry, and the byte then reads 7. -/
theorem not_residencyResult : ¬ Obligations.ResidencyResult := by
  intro h
  obtain ⟨-, -, -, -, -, -, -, -, -, hshrink⟩ :=
    h { mem := [(locCluster 0 0, 1), (3, 7)], clusters := [(0, { busy := true, oldSpw := 1 })] } 0 0 0 0
  obtain ⟨t, e, -, -, -, hbyte⟩ := hshrink (by decide) (by decide) (by decide)
  have hmem : t.mem = [(3, 7)] := by
    rw [← Host.Outcome.next.inj e]
    decide
  have hsame := hbyte 3
  rw [State.byte, hmem] at hsame
  exact absurd hsame (by decide)

end Sys2Proof.Machine
end

section
/-!
## What homes send while they move lines and invalidate sharers (05 R149 to R151; 02 R59, R60, R65)
-/

namespace Sys2Proof.Machine
variable {r s t : State} {h : Home} {line : Nat}

/-- From `s` to `t` homes have moved lines between their ways and sent invalidations: no byte of memory, no request, no core
is another, and no other message has been sent. -/
structure SendsInvs (s t : State) : Prop where
  mem : t.mem = s.mem
  fifo : t.fifo = s.fifo
  cores : t.cores = s.cores
  rq : ∃ invs : List Msg, (∀ m ∈ invs, m.kind = .inv) ∧ t.rq = s.rq ++ invs

namespace SendsInvs

theorem refl (s : State) : SendsInvs s s := ⟨rfl, rfl, rfl, [], by simp, by simp⟩

/-- A change of any other part of the device. -/
theorem frame (hs : SendsInvs r s) (hm : t.mem = s.mem := by rfl) (hf : t.fifo = s.fifo := by rfl)
    (hc : t.cores = s.cores := by rfl) (hq : t.rq = s.rq := by rfl) : SendsInvs r t :=
  ⟨hm.trans hs.mem, hf.trans hs.fifo, hc.trans hs.cores, hq ▸ hs.rq⟩

theorem ite {c : Prop} [Decidable c] (hs : SendsInvs r s) (ht : SendsInvs r t) : SendsInvs r (if c then s else t) := by
  split
  · exact hs
  · exact ht

theorem sendInvs (hs : SendsInvs r s) {cs} : SendsInvs r (s.sendInvs h line cs) := by
  obtain ⟨invs, hinvs, hrq⟩ := hs.rq
  refine ⟨hs.mem, hs.fifo, hs.cores, invs ++ cs.map (fun d => ⟨.core d, h, line, .inv⟩), fun m hm => ?_, ?_⟩
  · rcases List.mem_append.1 hm with hm | hm
    · exact hinvs m hm
    · obtain ⟨d, -, rfl⟩ := List.mem_map.1 hm
      rfl
  · rw [← List.append_assoc, ← hrq]
    rfl

theorem recallLine (hs : SendsInvs r s) : SendsInvs r (s.recallLine line) := .ite hs hs.sendInvs.frame

theorem growOver (hs : SendsInvs r s) {cl} : SendsInvs r (s.growOver cl) := .ite hs.frame hs

theorem dropSlice (hs : SendsInvs r s) : SendsInvs r (s.dropSlice line) := by
  unfold State.dropSlice
  split
  · exact hs
  · exact hs.recallLine.frame.growOver

theorem installSlice (hs : SendsInvs r s) {way pair} : SendsInvs r (s.installSlice line way pair) := hs.frame

theorem allocSlice (hs : SendsInvs r s) {pair} : SendsInvs r (s.allocSlice line pair) := by
  unfold State.allocSlice
  dsimp only
  split
  · exact hs.installSlice
  · refine .ite hs ?_
    split
    · exact hs.frame.dropSlice.installSlice
    · exact hs.frame

theorem touchSlice (hs : SendsInvs r s) {alloc pair} : SendsInvs r (s.touchSlice line alloc pair) := by
  unfold State.touchSlice
  split
  · exact .ite (.ite hs.dropSlice.allocSlice hs.dropSlice) hs
  · exact .ite hs.allocSlice hs

theorem dirtySlice (hs : SendsInvs r s) : SendsInvs r (s.dirtySlice line) := by
  unfold State.dirtySlice
  split
  · exact .ite hs hs.frame
  · exact hs

theorem dirRoom (hs : SendsInvs r s) : SendsInvs r (s.dirRoom line) := by
  unfold State.dirRoom
  refine .ite hs ?_
  split
  · exact hs.recallLine
  · exact hs

theorem share (hs : SendsInvs r s) {c} : SendsInvs r (s.share h line c) := by
  unfold State.share
  refine .ite hs (.ite ?_ hs.frame)
  split
  · exact hs.dirRoom.frame
  · exact hs.frame

/-- What a write at a home does beside the bytes it writes. -/
theorem writeHome {mask data alloc pair keep} :
    SendsInvs (s.writeLine line mask data) (s.writeHome h line mask data alloc pair keep) := by
  unfold State.writeHome
  extract_lets s1 s2 sh others
  have h1 : SendsInvs s s1 := by
    unfold s1
    split
    · exact (refl s).touchSlice.dirtySlice
    · exact refl s
  have h2 : SendsInvs (s.writeLine line mask data) s2 :=
    ⟨congrArg (writeMasked · line mask data 128) h1.mem, h1.fifo, h1.cores, h1.rq⟩
  exact .ite h2 h2.sendInvs.frame

end SendsInvs

/-! ## The invalidations of one line, each counted (05 R150, R151) -/

/-- `home` has sent an invalidation of `line` to each core of `cs`, each counted as outstanding, and nothing else. -/
structure Invalidates (s t : State) (home : Home) (line : Nat) (cs : List Nat) : Prop where
  rq : t.rq = s.rq ++ cs.map (fun d => ⟨.core d, home, line, .inv⟩)
  counts : ∀ d, NMap.get 0 (t.dir line).invs d = NMap.get 0 (s.dir line).invs d + cs.count d

theorem Invalidates.nobody (hq : t.rq = s.rq) (hd : (t.dir line).invs = (s.dir line).invs) : Invalidates s t h line [] :=
  ⟨by simp [hq], fun d => by simp [hd]⟩

/-- Counting one more invalidation for each core of a list. -/
theorem get_countInvs (cs : List Nat) (m : NMap Nat) (d : Nat) :
    NMap.get 0 (cs.foldl (fun m d => NMap.set 0 m d (NMap.get 0 m d + 1)) m) d = NMap.get 0 m d + cs.count d := by
  induction cs generalizing m with
  | nil => rfl
  | cons c cs ih =>
    rw [List.foldl_cons, ih, NMap.get_set, List.count_cons]
    by_cases e : d = c
    · simp [e]; omega
    · simp [e, Ne.symm e]

theorem State.sendInvs_invalidates (cs : List Nat) : Invalidates s (s.sendInvs h line cs) h line cs :=
  ⟨rfl, fun d => by rw [State.sendInvs, State.dir_updDir_same]; exact get_countInvs cs _ d⟩

/-- The invalidations stay what they are when only the sharers of the line are set. -/
theorem Invalidates.setSharers {cs : List Nat} (hi : Invalidates s t h line cs) (f : List Nat → List Nat) :
    Invalidates s (t.updDir line (fun x => { x with sharers := f x.sharers })) h line cs :=
  ⟨hi.rq, fun d => by rw [State.dir_updDir_same]; exact hi.counts d⟩

theorem State.recallLine_sharers : ((s.recallLine line).dir line).sharers = [] := by
  unfold State.recallLine
  dsimp only
  split
  · assumption
  · rw [State.dir_updDir_same]

theorem State.recallLine_invalidates :
    Invalidates s (s.recallLine line) (s.homeOfPa (128 * line)) line (s.dir line).sharers := by
  unfold State.recallLine
  dsimp only
  split
  · next e => exact e ▸ .nobody rfl rfl
  · exact (State.sendInvs_invalidates _).setSharers (fun _ => [])


/-! ## Sharers and waiters -/

theorem State.await_mem {w : Rcv} : (s.await line w).mem = s.mem := by
  unfold State.await; split <;> rfl

/-- A receiver that awaits a line changes nothing of it but its settle set. -/
theorem State.await_dir {w : Rcv} : ((s.await line w).dir line).sharers = (s.dir line).sharers ∧
    ((s.await line w).dir line).invs = (s.dir line).invs := by
  unfold State.await
  split
  · exact ⟨rfl, rfl⟩
  · rw [State.dir_updDir_same]
    exact ⟨rfl, rfl⟩

theorem SendsInvs.await (hs : SendsInvs r s) {w : Rcv} : SendsInvs r (s.await line w) := .ite hs hs.frame

theorem State.await_rq {w : Rcv} : (s.await line w).rq = s.rq := by
  unfold State.await; split <;> rfl

theorem State.share_mem_sharers {c : Nat} : c ∈ ((s.share h line c).dir line).sharers := by
  unfold State.share
  dsimp only
  split
  · next hc => simpa using hc
  · split <;> simp [State.dir_updDir_same]

/-- A new sharer of a line that has sharers, or that no slice caches, costs no other line its copies. -/
theorem State.share_invalidates {c : Nat} (hs : (s.dir line).sharers ≠ [] ∨ ∀ j, h ≠ .slice j) :
    Invalidates s (s.share h line c) h line [] := by
  unfold State.share
  dsimp only
  split
  · exact .nobody rfl rfl
  · split
    · next he =>
      have hh : ∀ j, h ≠ .slice j := hs.resolve_left (· he)
      cases h with
      | slice j => exact absurd rfl (hh j)
      | io | core | expander | stack => exact .nobody rfl (by simp)
    · exact .nobody rfl (by simp)

/-! ## Lines that stay in their ways -/

/-- The slice that is the home of a line holds it, and need not move it for an access (02 R59, R65). -/
def State.StaysPut (s : State) (home : Home) (line : Nat) : Prop :=
  ∀ j, home = .slice j → ∃ l, s.slice line = some l ∧ l.leaving = false

theorem State.touchSlice_held {l : SliceLine} (hl : s.slice line = some l) (hn : l.leaving = false) (alloc : Bool)
    (pair : Option (Nat × Nat)) : s.touchSlice line alloc pair = s := by
  simp [State.touchSlice, hl, hn]

theorem State.dirtySlice_nobody : (s.dirtySlice line).rq = s.rq ∧ (s.dirtySlice line).dirs = s.dirs := by
  unfold State.dirtySlice
  split
  · split <;> exact ⟨rfl, rfl⟩
  · exact ⟨rfl, rfl⟩

theorem State.dir_congr (hd : t.dirs = s.dirs) (line : Nat) : t.dir line = s.dir line := by
  rw [State.dir, hd, State.dir]

/-- A write leaves no sharer of its line but the one that it keeps. -/
theorem State.writeHome_sharers {mask : BitVec 128} {data : BitVec 1024} {alloc : Bool} {pair : Option (Nat × Nat)} {keep : Option Nat} :
    ∀ c ∈ ((s.writeHome h line mask data alloc pair keep).dir line).sharers, keep = some c := by
  unfold State.writeHome
  extract_lets s1 s2 sh others
  split
  · next he =>
    intro c hc
    exact absurd (show c ∈ sh from hc) (by simp [he])
  · intro c hc
    rw [State.dir_updDir_same] at hc
    simpa using (List.mem_filter.1 hc).2

/-- A write of a line that stays in its way invalidates the line's sharers, but for the one that it keeps. -/
theorem State.writeHome_invalidates {mask : BitVec 128} {data : BitVec 1024} {alloc : Bool} {pair : Option (Nat × Nat)}
    {keep : Option Nat} (hq : s.StaysPut h line) :
    Invalidates s (s.writeHome h line mask data alloc pair keep) h line
      ((s.dir line).sharers.filter (fun d => decide (keep ≠ some d))) := by
  unfold State.writeHome
  extract_lets s1 s2 sh others
  have h1 : s1.rq = s.rq ∧ s1.dirs = s.dirs := by
    unfold s1
    split
    · obtain ⟨l, hl, hn⟩ := hq _ rfl
      rw [State.touchSlice_held hl hn]
      exact State.dirtySlice_nobody
    · exact ⟨rfl, rfl⟩
  obtain ⟨hrq, hdirs⟩ := h1
  have hdir : s2.dir line = s.dir line := State.dir_congr (t := s2) hdirs line
  have hsh : sh = (s.dir line).sharers := congrArg Dir.sharers hdir
  rw [← hsh]
  split
  · next he =>
    rw [he]
    exact .nobody hrq (congrArg Dir.invs hdir)
  · have hi := (State.sendInvs_invalidates (s := s2) (h := h) (line := line) others).setSharers
      (fun _ => sh.filter (fun d => decide (keep = some d)))
    exact ⟨by rw [hi.rq, show s2.rq = s.rq from hrq], fun d => by rw [hi.counts, hdir]⟩

end Sys2Proof.Machine
end

section
/-! ## The bytes of a word placed in its line (00 R7; 05 R150) -/

namespace Sys2Proof.Machine
variable {s t : State}

theorem State.byte_congr (hm : t.mem = s.mem) (a : Nat) : t.byte a = s.byte a := by rw [State.byte, hm, State.byte]
theorem State.read_congr (hm : t.mem = s.mem) (loc n : Nat) : t.read loc n = s.read loc n := by rw [State.read, hm, State.read]
theorem State.lineData_congr (hm : t.mem = s.mem) (line : Nat) : t.lineData line = s.lineData line := by
  rw [State.lineData, State.read_congr hm, State.lineData]

theorem byteMask_bit {off n i : Nat} (hi : i < 128) : (byteMask off n).getLsbD i = decide (off ≤ i ∧ i < off + n) := by
  rw [byteMask, BitVec.getLsbD_ofNat, Nat.testBit_mul_two_pow, Nat.testBit_two_pow_sub_one]
  by_cases h1 : off ≤ i
  · have : i - off < n ↔ i < off + n := by omega
    simp [hi, h1, this]
  · simp [h1]

/-- Byte `i` of a value placed at an offset of a line. -/
theorem placeData_byte {off i : Nat} (h : off + i < 128) (v : Nat) :
    (placeData off v).extractLsb' (8 * (off + i)) 8 = BitVec.ofNat 8 (v / 256 ^ i) := by
  have e : ∀ k, 256 ^ k = 2 ^ (8 * k) := fun k => by rw [Nat.pow_mul]
  refine BitVec.eq_of_getLsbD_eq fun j hj => ?_
  rw [BitVec.getLsbD_extractLsb', placeData, BitVec.getLsbD_ofNat, BitVec.getLsbD_ofNat, e, e, Nat.testBit_mul_two_pow,
    Nat.testBit_div_two_pow]
  have h1 : 8 * (off + i) + j < 1024 := by omega
  have h2 : 8 * off ≤ 8 * (off + i) + j := by omega
  have h3 : 8 * (off + i) + j - 8 * off = j + 8 * i := by omega
  simp [hj, h1, h2, h3]

/-- Every byte of memory after a masked write to a line. -/
theorem State.byte_writeLine_line (mask : BitVec 128) (data : BitVec 1024) {line i : Nat} (hi : i < 128) :
    (s.writeLine line mask data).byte (128 * line + i) =
      if mask.getLsbD i then data.extractLsb' (8 * i) 8 else s.byte (128 * line + i) := by
  split
  · next hm => exact State.byte_writeLine _ _ _ _ _ hi hm
  · next hm =>
    refine State.byte_writeLine_other _ _ _ _ _ fun j _ hj e => hm ?_
    rwa [show i = j by omega]

theorem State.byte_writeLine_elsewhere (mask : BitVec 128) (data : BitVec 1024) {line a : Nat} (ha : a / 128 ≠ line) :
    (s.writeLine line mask data).byte a = s.byte a :=
  State.byte_writeLine_other _ _ _ _ _ fun i hi _ e => ha (by omega)

/-- A value of `n` bytes placed in the line of `loc` is written as those `n` bytes at `loc`. -/
theorem State.byte_writeLine_placed {loc n : Nat} (h : loc % 128 + n ≤ 128) (v a : Nat) :
    (s.writeLine (lineOf loc) (byteMask (loc % 128) n) (placeData (loc % 128) v)).byte a = (s.write loc n v).byte a := by
  have hloc : 128 * lineOf loc + loc % 128 = loc := Nat.div_add_mod loc 128
  by_cases ha : loc ≤ a ∧ a < loc + n
  · obtain ⟨i, rfl⟩ := Nat.exists_eq_add_of_le ha.1
    have hi : loc % 128 + i < 128 := by omega
    rw [State.byte_write _ _ _ _ _ (by omega), ← placeData_byte hi v]
    conv_lhs => rw [show loc + i = 128 * lineOf loc + (loc % 128 + i) by omega]
    rw [State.byte_writeLine _ _ _ _ _ hi (by rw [byteMask_bit hi]; simpa using by omega)]
  · rw [State.byte_write_other _ _ _ _ _ (by omega)]
    refine State.byte_writeLine_other _ _ _ _ _ fun i hi hm e => ha ?_
    rw [byteMask_bit hi] at hm
    have := of_decide_eq_true hm
    omega

theorem State.read_writeLine_placed {loc n : Nat} (h : loc % 128 + n ≤ 128) (v : Nat) :
    (s.writeLine (lineOf loc) (byteMask (loc % 128) n) (placeData (loc % 128) v)).read loc n = v % 256 ^ n := by
  rw [← State.read_write s loc n v]
  exact readMem_congr _ _ _ _ fun a _ _ => State.byte_writeLine_placed h v a

/-! ### A state whose memory is that of another after such a write -/

section written
variable {line : Nat} {mask : BitVec 128} {data : BitVec 1024} (hm : t.mem = (s.writeLine line mask data).mem)
include hm

theorem State.byte_written {i : Nat} (hi : i < 128) :
    t.byte (128 * line + i) = if mask.getLsbD i then data.extractLsb' (8 * i) 8 else s.byte (128 * line + i) :=
  (State.byte_congr hm _).trans (State.byte_writeLine_line mask data hi)

theorem State.byte_elsewhere {a : Nat} (ha : a / 128 ≠ line) : t.byte a = s.byte a :=
  (State.byte_congr hm a).trans (State.byte_writeLine_elsewhere mask data ha)

end written

section placed
variable {loc n v : Nat} (hn : loc % 128 + n ≤ 128)
  (hm : t.mem = (s.writeLine (lineOf loc) (byteMask (loc % 128) n) (placeData (loc % 128) v)).mem)
include hn hm

theorem State.read_placed : t.read loc n = v % 256 ^ n :=
  (State.read_congr hm _ _).trans (State.read_writeLine_placed hn v)

theorem State.byte_beside {a : Nat} (ha : a < loc ∨ loc + n ≤ a) : t.byte a = s.byte a :=
  (State.byte_congr hm a).trans ((State.byte_writeLine_placed hn v a).trans (State.byte_write_other _ _ _ _ _ ha))

end placed

end Sys2Proof.Machine
end

section
/-! ## Taking a request and answering it (05 R149, R150) -/

namespace Sys2Proof.Machine
variable {s t b u : State} {src : Src} {h : Home} {r : Req} {k : Bool → MsgKind}

/-- Request `r` stands at the head of its FIFO, no bias flip holds its page, and its home is ready and may answer. -/
structure State.MayPerform (s : State) (src : Src) (h : Home) (r : Req) : Prop where
  head : s.headReq src h = some r
  flip : s.flipHolds r = false
  ready : s.homeReady r.place = true
  answer : s.mayAnswer r = true

theorem State.headReq_src_home (e : s.headReq src h = some r) : r.src = src ∧ r.place.home = h := by
  simpa using List.find?_some e

/-- A home has taken request `r` out of its FIFO: beside that it has noted the access in its own banks, blocks and flips. -/
structure Took (s t : State) (r : Req) : Prop where
  mem : t.mem = s.mem
  fifo : t.fifo = s.fifo.erase r
  rq : t.rq = s.rq
  dirs : t.dirs = s.dirs
  slices : t.slices = s.slices
  handling : ∀ j, (t.core j).handling = (s.core j).handling

/-- The home takes request `r` and notes the access, a write where `w`. -/
def State.taking (s : State) (r : Req) (w : Bool) : State := ((s.dropReq r).flipDone r).homeTouch r.place w

theorem State.flipDone_took : Took s ((s.dropReq r).flipDone r) r := by
  unfold State.flipDone
  split <;> exact ⟨rfl, rfl, rfl, rfl, rfl, fun _ => rfl⟩

theorem Took.updCore (ht : Took s t r) {j : Nat} {f : Core → Core} (hf : ∀ c, (f c).handling = c.handling) :
    Took s (t.updCore j f) r := by
  refine ⟨ht.mem, ht.fifo, ht.rq, ht.dirs, ht.slices, fun i => ?_⟩
  rw [State.core_updCore]
  split
  · next e => rw [hf, e, ht.handling]
  · exact ht.handling i

theorem Took.homeTouch (ht : Took s t r) (p : Place) (w : Bool) : Took s (t.homeTouch p w) r := by
  unfold State.homeTouch
  split
  · unfold State.touchBank
    split
    · split
      · exact ht
      · exact ht.updCore fun _ => rfl
    · exact ht
  · exact ⟨ht.mem, ht.fifo, ht.rq, ht.dirs, ht.slices, ht.handling⟩
  · exact ht

theorem State.taking_took (s : State) (r : Req) (w : Bool) : Took s (s.taking r w) r := State.flipDone_took.homeTouch _ _

theorem Took.dir (ht : Took s t r) (line : Nat) : t.dir line = s.dir line := State.dir_congr ht.dirs line
theorem Took.staysPut (ht : Took s t r) {line : Nat} (hq : s.StaysPut h line) : t.StaysPut h line := by
  intro j hj
  rw [State.slice, ht.slices]
  exact hq j hj

/-- The home answers request `r`; its receiver waits for the line where that is not settled. -/
def State.answer (s : State) (r : Req) (k : Bool → MsgKind) : State :=
  (s.await (lineOf r.place.loc) (rcvOf r.src)).send
    ⟨rcvOf r.src, r.place.home, lineOf r.place.loc, k (s.settledAt (lineOf r.place.loc))⟩

theorem State.answer_mem : (s.answer r k).mem = s.mem := State.await_mem
theorem State.answer_sharers : ((s.answer r k).dir (lineOf r.place.loc)).sharers = (s.dir (lineOf r.place.loc)).sharers :=
  State.await_dir.1
theorem State.answer_invs : ((s.answer r k).dir (lineOf r.place.loc)).invs = (s.dir (lineOf r.place.loc)).invs :=
  State.await_dir.2

/-- From `s` to `t` request `r` has performed: it has left its FIFO, and its answer, of kind `k`, has joined the receive queue after
any invalidations. -/
structure Performed (s t : State) (r : Req) (k : Bool → MsgKind) : Prop where
  fifo : t.fifo = s.fifo.erase r
  handling : ∀ j, (t.core j).handling = (s.core j).handling
  answered : ∃ (invs : List Msg) (flag : Bool), (∀ m ∈ invs, m.kind = .inv) ∧
    t.rq = s.rq ++ invs ++ [⟨rcvOf r.src, r.place.home, lineOf r.place.loc, k flag⟩]

/-- The invalidations before the answer are those of the cores `cs`, each counted; the answer says whether none is outstanding. -/
structure AnsweredExactly (s t : State) (r : Req) (cs : List Nat) (k : Bool → MsgKind) : Prop where
  rq : t.rq = s.rq ++ cs.map (fun d => ⟨.core d, r.place.home, lineOf r.place.loc, .inv⟩) ++
    [⟨rcvOf r.src, r.place.home, lineOf r.place.loc, k (decide ((t.dir (lineOf r.place.loc)).invs = []))⟩]
  counts : ∀ d, NMap.get 0 (t.dir (lineOf r.place.loc)).invs d = NMap.get 0 (s.dir (lineOf r.place.loc)).invs d + cs.count d

/-- Between the taking and the answer of a request a home sends invalidations only. -/
theorem Took.performed (hb : Took s b r) (hf : u.fifo = b.fifo) (hc : u.cores = b.cores)
    (hq : ∃ invs : List Msg, (∀ m ∈ invs, m.kind = .inv) ∧ u.rq = b.rq ++ invs) : Performed s (u.answer r k) r k := by
  have ha := (SendsInvs.refl u).await (line := lineOf r.place.loc) (w := rcvOf r.src)
  obtain ⟨invs, hinvs, hrq⟩ := hq
  refine ⟨ha.fifo.trans (hf.trans hb.fifo), fun j => ?_, invs, u.settledAt (lineOf r.place.loc), hinvs, ?_⟩
  · rw [State.core, show (u.answer r k).cores = b.cores from ha.cores.trans hc]
    exact hb.handling j
  · rw [State.answer, State.send, State.await_rq, hrq, hb.rq]

theorem Took.exactly {cs : List Nat} (hb : Took s b r) (hi : Invalidates b u r.place.home (lineOf r.place.loc) cs) :
    AnsweredExactly s (u.answer r k) r cs k := by
  refine ⟨?_, fun d => by rw [State.answer_invs, hi.counts, hb.dir]⟩
  rw [State.answer_invs, State.answer, State.send, State.await_rq, hi.rq, hb.rq]
  rfl

theorem Performed.takes (hp : Performed s t r k) : t.fifo = s.fifo.erase r ∧ ∃ (invs : List Msg) (flag : Bool),
    (∀ m ∈ invs, m.kind = .inv) ∧ t.rq = s.rq ++ invs ++ [⟨rcvOf r.src, r.place.home, lineOf r.place.loc, k flag⟩] :=
  ⟨hp.fifo, hp.answered⟩

theorem AnsweredExactly.counted {cs : List Nat} (hx : AnsweredExactly s t r cs k) :
    t.rq = s.rq ++ cs.map (fun d => ⟨.core d, r.place.home, lineOf r.place.loc, .inv⟩) ++
      [⟨rcvOf r.src, r.place.home, lineOf r.place.loc, k (decide ((t.dir (lineOf r.place.loc)).invs = []))⟩] ∧
    ∀ d, NMap.get 0 (t.dir (lineOf r.place.loc)).invs d = NMap.get 0 (s.dir (lineOf r.place.loc)).invs d + cs.count d :=
  ⟨hx.rq, hx.counts⟩

/-! ### Loads -/

/-- The line of an access moves in its slice as the access wants it. -/
def State.touching (s : State) (p : Place) : State :=
  match p.home with
  | .slice _ => s.touchSlice (lineOf p.loc) p.alloc p.pair
  | _ => s

theorem State.touching_sends (p : Place) : SendsInvs s (s.touching p) := by
  unfold State.touching
  split
  · exact (SendsInvs.refl s).touchSlice
  · exact .refl s

theorem State.touching_stays {p : Place} (hq : s.StaysPut p.home (lineOf p.loc)) : s.touching p = s := by
  unfold State.touching
  split
  · next e =>
    obtain ⟨l, hl, hn⟩ := hq _ e
    exact State.touchSlice_held hl hn _ _
  · rfl

/-- The reading core becomes a sharer of a cacheable line. -/
def State.sharing (s : State) (r : Req) : State :=
  match r.src with
  | .thread t => if r.place.cacheable then s.share r.place.home (lineOf r.place.loc) (coreOf t) else s
  | .engine _ _ => s

theorem State.performLoadReq_eq (n : Nat) : s.performLoadReq r n = ((s.touching r.place).sharing r).answer r
    (fun f => .reply r.src r.tag r.part r.place n (BitVec.ofNat 64 (s.read r.place.loc (min n 8))) (s.lineData (lineOf r.place.loc)) f) :=
  rfl

theorem SendsInvs.sharing (hs : SendsInvs s t) : SendsInvs s (t.sharing r) := by
  unfold State.sharing
  split
  · exact .ite hs.share hs
  · exact hs

theorem State.sharing_invalidates (hs : r.place.cacheable = false ∨ (s.dir (lineOf r.place.loc)).sharers ≠ [] ∨
    ∀ j, r.place.home ≠ .slice j) : Invalidates s (s.sharing r) r.place.home (lineOf r.place.loc) [] := by
  unfold State.sharing
  split
  · split
    · next hc => exact State.share_invalidates (hs.resolve_left (by simp [hc]))
    · exact .nobody rfl rfl
  · exact .nobody rfl rfl

/-- What the perform step of a LOAD does. -/
structure Loaded (s t : State) (r : Req) (k : Bool → MsgKind) : Prop where
  mem : t.mem = s.mem
  performed : Performed s t r k
  exactly : s.StaysPut r.place.home (lineOf r.place.loc) → r.place.cacheable = false ∨ (s.dir (lineOf r.place.loc)).sharers ≠ [] ∨
    (∀ j, r.place.home ≠ .slice j) → AnsweredExactly s t r [] k
  shares : ∀ u, r.src = .thread u → r.place.cacheable = true → coreOf u ∈ (t.dir (lineOf r.place.loc)).sharers

theorem Took.load (hb : Took s b r) (n : Nat) : Loaded s (b.performLoadReq r n) r (fun f => .reply r.src r.tag r.part r.place n
    (BitVec.ofNat 64 (s.read r.place.loc (min n 8))) (s.lineData (lineOf r.place.loc)) f) := by
  rw [State.performLoadReq_eq, State.read_congr hb.mem, State.lineData_congr hb.mem]
  have hsend : SendsInvs b ((b.touching r.place).sharing r) := (State.touching_sends _).sharing
  refine ⟨State.answer_mem.trans (hsend.mem.trans hb.mem), hb.performed hsend.fifo hsend.cores hsend.rq,
    fun hq hs => ?_, fun u hu hc => ?_⟩
  · rw [State.touching_stays (hb.staysPut hq)]
    exact hb.exactly (State.sharing_invalidates (by rwa [hb.dir]))
  · rw [State.answer_sharers]
    simp only [State.sharing, hu, hc, if_true]
    exact State.share_mem_sharers

/-! ### Stores -/

/-- The cores whose copies of a line a write of `r` invalidates. -/
def State.holders (s : State) (r : Req) : List Nat :=
  (s.dir (lineOf r.place.loc)).sharers.filter (fun d => decide (srcCore r.src ≠ some d))

/-- What the perform step of a request does that writes the bytes of `mask` in its line. -/
structure Wrote (s t : State) (r : Req) (mask : BitVec 128) (data : BitVec 1024) (k : Bool → MsgKind) : Prop where
  mem : t.mem = (s.writeLine (lineOf r.place.loc) mask data).mem
  performed : Performed s t r k
  ownOnly : ∀ c ∈ (t.dir (lineOf r.place.loc)).sharers, srcCore r.src = some c
  exactly : s.StaysPut r.place.home (lineOf r.place.loc) → AnsweredExactly s t r (s.holders r) k

theorem Took.write (hb : Took s b r) (mask : BitVec 128) (data : BitVec 1024) :
    Wrote s ((b.writeHome r.place.home (lineOf r.place.loc) mask data r.place.alloc r.place.pair (srcCore r.src)).answer r k)
      r mask data k := by
  have hsend := SendsInvs.writeHome (s := b) (h := r.place.home) (line := lineOf r.place.loc) (mask := mask) (data := data)
    (alloc := r.place.alloc) (pair := r.place.pair) (keep := srcCore r.src)
  refine ⟨?_, hb.performed hsend.fifo hsend.cores hsend.rq, ?_, fun hq => ?_⟩
  · exact State.answer_mem.trans (hsend.mem.trans (congrArg (writeMasked · (lineOf r.place.loc) mask data 128) hb.mem))
  · rw [State.answer_sharers]
    exact State.writeHome_sharers
  · rw [State.holders, ← hb.dir]
    exact hb.exactly (State.writeHome_invalidates (hb.staysPut hq))

end Sys2Proof.Machine
end

section
/-! ## The perform step, by what the request asks (05 R149, R150; 12 R321; 01 R37) -/

namespace Sys2Proof.Machine
variable {s t b : State} {src : Src} {h : Home} {r : Req} {pick : ReqKind → Bool}

/-! ### Atomics -/

theorem State.performAtomicReq_keeps {op : AtomOp} {dbl : Bool} {y e : Word} {mc : Nat}
    (hn : atomicNew op dbl (s.read r.place.loc (if dbl then 8 else 4)) (y.toNat % 2 ^ (8 * (if dbl then 8 else 4)))
      (e.toNat % 2 ^ (8 * (if dbl then 8 else 4))) mc = none) :
    s.performAtomicReq r op dbl y e mc = (s.touching r.place).answer r
      (fun f => .atomicReply r.src r.tag r.part (atomicExt op dbl (s.read r.place.loc (if dbl then 8 else 4))) 0 0 f r.posted) := by
  simp only [State.performAtomicReq, hn]
  rfl

theorem State.performAtomicReq_writes {op : AtomOp} {dbl : Bool} {y e : Word} {mc new : Nat}
    (hn : atomicNew op dbl (s.read r.place.loc (if dbl then 8 else 4)) (y.toNat % 2 ^ (8 * (if dbl then 8 else 4)))
      (e.toNat % 2 ^ (8 * (if dbl then 8 else 4))) mc = some new) :
    let mask := byteMask (r.place.loc % 128) (if dbl then 8 else 4)
    let data := placeData (r.place.loc % 128) new
    s.performAtomicReq r op dbl y e mc =
      (s.writeHome r.place.home (lineOf r.place.loc) mask data r.place.alloc r.place.pair (srcCore r.src)).answer r
        (fun f => .atomicReply r.src r.tag r.part (atomicExt op dbl (s.read r.place.loc (if dbl then 8 else 4))) mask data f
          r.posted) := by
  simp only [State.performAtomicReq, hn]
  rfl

/-- What the perform step of an ATOMIC does, whose operation on `old` gives `new` (12 R321). -/
structure Atomed (s t : State) (r : Req) (old : Word) (n : Nat) (new : Option Nat) : Prop where
  keeps : new = none → let k := fun f => MsgKind.atomicReply r.src r.tag r.part old 0 0 f r.posted
    t.mem = s.mem ∧ Performed s t r k ∧ (s.StaysPut r.place.home (lineOf r.place.loc) → AnsweredExactly s t r [] k)
  writes : ∀ v, new = some v →
    let mask := byteMask (r.place.loc % 128) n
    let data := placeData (r.place.loc % 128) v
    Wrote s t r mask data (fun f => .atomicReply r.src r.tag r.part old mask data f r.posted)

theorem Took.atomic (hb : Took s b r) (op : AtomOp) (dbl : Bool) (y e : Word) (mc : Nat) :
    let n := if dbl then 8 else 4
    let old := s.read r.place.loc n
    Atomed s (b.performAtomicReq r op dbl y e mc) r (atomicExt op dbl old) n
      (atomicNew op dbl old (y.toNat % 2 ^ (8 * n)) (e.toNat % 2 ^ (8 * n)) mc) := by
  intro n old
  have hold : b.read r.place.loc n = old := State.read_congr hb.mem _ _
  constructor
  · intro hn k
    rw [State.performAtomicReq_keeps (hold ▸ hn), hold]
    have hsend := State.touching_sends (s := b) r.place
    refine ⟨State.answer_mem.trans (hsend.mem.trans hb.mem), hb.performed hsend.fifo hsend.cores hsend.rq, fun hq => ?_⟩
    rw [State.touching_stays (hb.staysPut hq)]
    exact hb.exactly (.nobody rfl rfl)
  · intro v hn mask data
    rw [State.performAtomicReq_writes (hold ▸ hn), hold]
    exact hb.write mask data

/-! ### Failing accesses of a TSC -/

/-- What an access of a TSC of cluster `cl` does that fails (01 R37). -/
structure Failed (s t : State) (r : Req) (host : Bool) (cl : Nat) (k : MsgKind) : Prop where
  mem : t.mem = s.mem
  fifo : t.fifo = s.fifo.erase r
  hostErr : (t.cluster cl).hostErr = (host || (s.cluster cl).hostErr)
  ue : (t.cluster cl).ue = (!host || (s.cluster cl).ue)
  rq : t.rq = s.rq ++ [⟨rcvOf r.src, r.place.home, lineOf r.place.loc, k⟩]

/-- The answer of such an access: 0 for a load. -/
def Req.failure (r : Req) : MsgKind :=
  match r.kind with
  | .load n => .reply r.src r.tag r.part r.place n 0 0 true
  | _ => .ack r.src 0 0 true

theorem State.cluster_send (m : Msg) (j : Nat) : (s.send m).cluster j = s.cluster j := rfl

theorem Took.fails {u : Nat} (hb : Took s b r) (hc : b.clusters = s.clusters) (hu : r.src = .thread u) (host : Bool) :
    Failed s (b.failTsc r host) r host (clusterOf (coreOf u)) r.failure := by
  unfold State.failTsc
  simp only [hu]
  refine ⟨hb.mem, hb.fifo, ?_, ?_, ?_⟩
  · rw [State.cluster_send, State.cluster_updCluster_same, State.cluster_congr hc]
    cases host <;> rfl
  · rw [State.cluster_send, State.cluster_updCluster_same, State.cluster_congr hc]
    cases host <;> rfl
  · rw [← hb.rq, ← hu]
    rfl

theorem State.flipDone_clusters : ((s.dropReq r).flipDone r).clusters = s.clusters := by
  unfold State.flipDone
  split <;> rfl

theorem State.tscFails_thread {host : Bool} (hf : s.tscFails r = some host) : ∃ u, r.src = .thread u := by
  cases hr : r.src with
  | thread u => exact ⟨u, rfl⟩
  | engine g c => simp [State.tscFails, hr] at hf

/-! ### The head of a FIFO -/

section head
variable (hp : s.MayPerform src h r)
include hp

theorem State.MayPerform.load {n : Nat} (hk : pick (.load n) = true) (hr : r.kind = .load n) (hf : s.tscFails r = none) :
    Loaded s (s.performHead src h pick) r (fun f => .reply r.src r.tag r.part r.place n
      (BitVec.ofNat 64 (s.read r.place.loc (min n 8))) (s.lineData (lineOf r.place.loc)) f) := by
  have e : s.performHead src h pick = (s.taking r false).performLoadReq r n := by
    simp [State.performHead, hp.head, hp.flip, hp.ready, hp.answer, hk, hf, hr, State.taking]
  exact e ▸ (s.taking_took r false).load n

theorem State.MayPerform.store {mask : BitVec 128} {data : BitVec 1024} (hk : pick (.store mask data) = true)
    (hr : r.kind = .store mask data) (hf : s.tscFails r = none) :
    Wrote s (s.performHead src h pick) r mask data (fun f => .ack r.src mask data f) := by
  have e : s.performHead src h pick = (s.taking r true).performStoreReq r mask data := by
    simp [State.performHead, hp.head, hp.flip, hp.ready, hp.answer, hk, hf, hr, State.taking]
  exact e ▸ (s.taking_took r true).write mask data

theorem State.MayPerform.atomic {op : AtomOp} {dbl : Bool} {y e : Word} {mc : Nat} (hk : pick (.atomic op dbl y e mc) = true)
    (hr : r.kind = .atomic op dbl y e mc) (hf : s.tscFails r = none) :
    let n := if dbl then 8 else 4
    let old := s.read r.place.loc n
    Atomed s (s.performHead src h pick) r (atomicExt op dbl old) n
      (atomicNew op dbl old (y.toNat % 2 ^ (8 * n)) (e.toNat % 2 ^ (8 * n)) mc) := by
  have e : s.performHead src h pick = (s.taking r true).performAtomicReq r op dbl y e mc := by
    simp [State.performHead, hp.head, hp.flip, hp.ready, hp.answer, hk, hf, hr, State.taking]
  exact e ▸ (s.taking_took r true).atomic op dbl y _ mc

theorem State.MayPerform.fails {host : Bool} {u : Nat} (hk : pick r.kind = true) (hu : r.src = .thread u) (hf : s.tscFails r = some host) :
    Failed s (s.performHead src h pick) r host (clusterOf (coreOf u)) r.failure := by
  have e : s.performHead src h pick = ((s.dropReq r).flipDone r).failTsc r host := by
    simp [State.performHead, hp.head, hp.flip, hp.ready, hp.answer, hk, hf]
  exact e ▸ State.flipDone_took.fails State.flipDone_clusters hu host

/-- A request that may perform leaves its FIFO, unless it only marks the place of a CWB. -/
theorem State.MayPerform.fifo (hk : pick r.kind = true) (hw : r.kind = .writeback → s.tscFails r ≠ none) :
    (s.performHead src h pick).fifo = s.fifo.erase r := by
  cases hf : s.tscFails r with
  | some host =>
    obtain ⟨u, hu⟩ := State.tscFails_thread hf
    exact (hp.fails hk hu hf).fifo
  | none =>
    cases hr : r.kind with
    | load n => exact (hp.load (hr ▸ hk) hr hf).performed.fifo
    | store mask data => exact (hp.store (hr ▸ hk) hr hf).performed.fifo
    | atomic op dbl y e mc =>
      have ha := hp.atomic (hr ▸ hk) hr hf
      cases hn : atomicNew op dbl _ _ _ mc with
      | none => exact (ha.keeps hn).2.1.fifo
      | some v => exact (ha.writes v hn).performed.fifo
    | writeback => exact absurd hf (hw hr)

end head

/-- A home performs what no handler of an active message performs. -/
theorem State.performAt_home (hm : ∀ k, h = .core k → isMessage src k = false) : s.performAt src h pick = s.performHead src h pick := by
  unfold State.performAt
  split
  · next k => rw [hm k rfl]; rfl
  · rfl

/-! ### One request at a time (05 R149) -/

theorem State.homePrepare_fifo (p : Place) (st : ExpState) : (s.homePrepare p st).fifo = s.fifo := by
  unfold State.homePrepare
  split
  · rfl
  · split <;> rfl
  · rfl

theorem State.holdAtHome_fifo : (s.holdAtHome r).fifo = s.fifo := by
  unfold State.holdAtHome
  split
  · split <;> rfl
  · split <;> rfl
  · rfl

/-- A step at the head of a FIFO takes no request, or the head, whose page no flip holds and whose home is ready. -/
theorem State.performHead_fifo : (s.performHead src h pick).fifo = s.fifo ∨ ∃ r, s.headReq src h = some r ∧
    (s.performHead src h pick).fifo = s.fifo.erase r ∧ s.flipHolds r = false ∧ s.homeReady r.place = true := by
  cases hr : s.headReq src h with
  | none => exact .inl (by simp [State.performHead, hr])
  | some r =>
    by_cases hk : pick r.kind = true
    case neg => exact .inl (by simp [State.performHead, hr, hk])
    by_cases hf : s.flipHolds r = false
    case neg => exact .inl (by simp [State.performHead, hr, hk, hf])
    by_cases ha : s.mayAnswer r = true
    case neg => exact .inl (by simp [State.performHead, hr, hk, hf, ha])
    by_cases hh : s.homeReady r.place = true
    case neg => exact .inl (by simp [State.performHead, hr, hk, hf, ha, hh, State.holdAtHome_fifo, State.homePrepare_fifo])
    have hp : s.MayPerform src h r := ⟨hr, hf, hh, ha⟩
    by_cases hw : r.kind = .writeback → s.tscFails r ≠ none
    · exact .inr ⟨r, rfl, hp.fifo hk hw, hf, hh⟩
    · push Not at hw
      refine .inl ?_
      simp [State.performHead, hr, hf, ha, hh, hw.2, hw.1]

theorem State.performAt_cases (s : State) (src : Src) (h : Home) (pick : ReqKind → Bool) :
    s.performAt src h pick = s ∨ s.performAt src h pick = s.performHead src h pick := by
  unfold State.performAt
  split
  · split
    · exact .inl rfl
    · exact .inr rfl
  · exact .inr rfl

/-- The three perform steps differ in the requests that they select. -/
theorem performSteps_select {i : Instr} (hi : i ∈ [.performLoad src h, .performStore src h, .performAtomic src h]) :
    ∃ pick, ∀ s, exec i s = .next (s.performAt src h pick) := by
  simp only [List.mem_cons, List.not_mem_nil, or_false] at hi
  rcases hi with rfl | rfl | rfl <;> exact ⟨_, fun _ => rfl⟩

/-- Each kind of request but the place of a CWB is selected by one of them. -/
theorem performStep_for (hw : r.kind ≠ .writeback) : ∃ i ∈ [Instr.performLoad src h, .performStore src h, .performAtomic src h],
    ∃ pick, pick r.kind = true ∧ ∀ s, exec i s = .next (s.performAt src h pick) := by
  cases hr : r.kind with
  | load n => exact ⟨.performLoad src h, by simp, _, rfl, fun _ => rfl⟩
  | store mask data => exact ⟨.performStore src h, by simp, _, rfl, fun _ => rfl⟩
  | atomic op dbl y e mc => exact ⟨.performAtomic src h, by simp, _, rfl, fun _ => rfl⟩
  | writeback => exact absurd hr hw

/-- Settles O24: a perform step is a step at the head of its FIFO, or none. -/
theorem performInOrder : Obligations.PerformInOrder := by
  intro s src h steps
  refine ⟨fun i hi t ht => ?_, fun r hr hw hf hh ha hm => ?_⟩
  · obtain ⟨pick, hpick⟩ := performSteps_select hi
    obtain rfl : s.performAt src h pick = t := Host.Outcome.next.inj ((hpick s).symm.trans ht)
    rcases s.performAt_cases src h pick with e | e <;> rw [e]
    · exact .inl rfl
    · exact State.performHead_fifo
  · obtain ⟨i, hi, pick, hk, hpick⟩ := performStep_for hw
    have hp : s.MayPerform src h r := ⟨hr, hf, hh, ha⟩
    refine ⟨i, hi, _, hpick s, ?_⟩
    rw [State.performAt_home hm]
    exact hp.fifo hk fun e => absurd e hw

end Sys2Proof.Machine
end

section
/-! ## Recalls, evictions and active messages (05 R149 to R151; 12 R334) -/

namespace Sys2Proof.Machine
variable {s t : State} {src : Src} {h : Home} {r : Req} {k u : Nat}

/-! ### The perform steps (05 R149) -/

theorem Completes.imp {i : Instr} {P Q : State → Prop} (hc : Completes i s P) (hPQ : ∀ t, P t → Q t) : Completes i s Q :=
  let ⟨t, e, hP⟩ := hc
  ⟨t, e, hPQ t hP⟩

section perform
variable (hp : s.MayPerform src h r) (hm : ∀ k, h = .core k → isMessage src k = false)
include hp hm

theorem State.MayPerform.completes_load {n : Nat} (hr : r.kind = .load n) (hf : s.tscFails r = none) :
    Completes (.performLoad src h) s (fun t => Loaded s t r (fun f => .reply r.src r.tag r.part r.place n
      (BitVec.ofNat 64 (s.read r.place.loc (min n 8))) (s.lineData (lineOf r.place.loc)) f)) :=
  ⟨_, rfl, State.performAt_home hm ▸ hp.load rfl hr hf⟩

theorem State.MayPerform.completes_store {mask : BitVec 128} {data : BitVec 1024} (hr : r.kind = .store mask data)
    (hf : s.tscFails r = none) :
    Completes (.performStore src h) s (fun t => Wrote s t r mask data (fun f => .ack r.src mask data f)) :=
  ⟨_, rfl, State.performAt_home hm ▸ hp.store rfl hr hf⟩

theorem State.MayPerform.completes_atomic {op : AtomOp} {dbl : Bool} {y e : Word} {mc : Nat} (hr : r.kind = .atomic op dbl y e mc)
    (hf : s.tscFails r = none) :
    let n := if dbl then 8 else 4
    let old := s.read r.place.loc n
    Completes (.performAtomic src h) s (fun t => Atomed s t r (atomicExt op dbl old) n
      (atomicNew op dbl old (y.toNat % 2 ^ (8 * n)) (e.toNat % 2 ^ (8 * n)) mc)) :=
  ⟨_, rfl, State.performAt_home hm ▸ hp.atomic rfl hr hf⟩

theorem State.MayPerform.completes_failing {host : Bool} {u : Nat} (hu : r.src = .thread u) (hf : s.tscFails r = some host) :
    (∀ n, r.kind = .load n → Completes (.performLoad src h) s (fun t => Failed s t r host (clusterOf (coreOf u)) r.failure)) ∧
    (∀ mask data, r.kind = .store mask data →
      Completes (.performStore src h) s (fun t => Failed s t r host (clusterOf (coreOf u)) r.failure)) :=
  ⟨fun _ hr => ⟨_, rfl, State.performAt_home hm ▸ hp.fails (by rw [hr]) hu hf⟩,
    fun _ _ hr => ⟨_, rfl, State.performAt_home hm ▸ hp.fails (by rw [hr]) hu hf⟩⟩

end perform

/-! ### Recall and eviction (05 R151, R133) -/

theorem recall_held {line : Nat} (hm : (s.dir line).sharers.all (fun d => s.mayEnter (s.homeOfPa (128 * line)) (.core d)) = false) :
    exec (.recall line) s = .next s := by
  show execRecall line s = _
  rw [execRecall, hm]
  rfl

theorem recall_sends {line : Nat} (hm : (s.dir line).sharers.all (fun d => s.mayEnter (s.homeOfPa (128 * line)) (.core d)) = true) :
    exec (.recall line) s = .next (s.recallLine line) := by
  show execRecall line s = _
  rw [execRecall, hm]
  rfl

theorem State.l1_setL1 (s : State) (k line l : Nat) (c : Option L1Line) :
    (s.setL1 k line c).l1 k l = if l = line then c else s.l1 k l := by
  rw [State.l1, State.setL1, State.core_updCore_same, NMap.get_set]
  rfl

/-! ### The handler of active messages (12 R334) -/

theorem isMessage_of_ne (hu : coreOf u ≠ k) : isMessage (.thread u) k = true := by simpa [isMessage]

theorem State.handlerIssues_core (s : State) (k j : Nat) : ((s.handlerIssues k).core j).plain = (s.core j).plain := by
  rw [State.handlerIssues, State.core_updThread, State.core_updCore]
  split
  · next e => rw [Core.issued_plain, e]; rfl
  · rfl

theorem Core.handling_of_plain {c d : Core} (e : d.plain = c.plain) : d.handling = c.handling :=
  show d.plain.handling = c.plain.handling by rw [e]

/-- The issue of the handler holds back no request that could perform. -/
theorem State.MayPerform.handlerIssues (hp : s.MayPerform src (.core k) r) : (s.handlerIssues k).MayPerform src (.core k) r := by
  refine ⟨hp.head, hp.flip, ?_, hp.answer⟩
  have hc := s.handlerIssues_core k k
  have hready := hp.ready
  have hg : ((s.handlerIssues k).core k).gated = (s.core k).gated :=
    show Core.gated (Core.plain _) = Core.gated (Core.plain _) by rw [hc]
  have hb : ((s.handlerIssues k).core k).spAwake = (s.core k).spAwake :=
    show Core.spAwake (Core.plain _) = Core.spAwake (Core.plain _) by rw [hc]
  simp only [State.homeReady, (State.headReq_src_home hp.head).2, State.coreAwake] at hready ⊢
  rwa [hg, hb]

/-- After a message has performed the handler forgets it, and rests where no message is left. -/
def State.handled (s : State) (k : Nat) (r : Req) : State :=
  (s.updCore k (fun c => { c with handling := c.handling.erase r })).handlerRest k

theorem State.handled_mem : (s.handled k r).mem = s.mem := by
  unfold State.handled State.handlerRest; split <;> rfl
theorem State.handled_fifo : (s.handled k r).fifo = s.fifo := by
  unfold State.handled State.handlerRest; split <;> rfl
theorem State.handled_rq : (s.handled k r).rq = s.rq := by
  unfold State.handled State.handlerRest; split <;> rfl
theorem State.handled_handling : ((s.handled k r).core k).handling = (s.core k).handling.erase r := by
  unfold State.handled State.handlerRest
  split
  · rw [State.core_updCore_same]
  · rw [State.core_updCore_same, Core.handling_of_plain (Core.leave_plain _ _), State.core_updCore_same]

/-- The handler performs message `r`. -/
def State.messagePerformed (s : State) (src : Src) (k : Nat) (r : Req) : State :=
  ((s.handlerIssues k).performHead src (.core k) (fun _ => true)).handled k r

theorem State.handle_performs (hx : ∀ op dbl y e mc, r.kind = .atomic op dbl y e mc → r ∈ (s.core k).handling) :
    s.handle src k r = s.messagePerformed src k r := by
  unfold State.handle
  split
  · next hr hn => exact absurd (hx _ _ _ _ _ hr) (by simpa using hn)
  · rfl

theorem State.handle_accesses {op : AtomOp} {dbl : Bool} {y e : Word} {mc : Nat} (hr : r.kind = .atomic op dbl y e mc)
    (hn : r ∉ (s.core k).handling) :
    s.handle src k r = (s.handlerIssues k).updCore k (fun c => { c with handling := c.handling ++ [r] }) := by
  simp [State.handle, hr, hn]

/-- The handler that is not in rotation joins it. -/
theorem activeMessage_enters (hu : coreOf u ≠ k) (hr : s.headReq (.thread u) (.core k) = some r) (ha : s.mayAnswer r = true)
    (hh : s.homeReady r.place = true) (hs : (s.core k).slotOf (16 * k + 14) = none) :
    exec (.activeMessage (.thread u) k) s = .next (s.updCore k (fun c => c.enter (16 * k + 14) s.cycle)) := by
  show execActiveMessage (.thread u) k s = _
  simp [execActiveMessage, hr, isMessage_of_ne hu, ha, hh, handlerOf, hs]

/-- In the cycle of its barrel slot the handler takes the message. -/
theorem activeMessage_handles (hu : coreOf u ≠ k) (hp : s.MayPerform (.thread u) (.core k) r)
    (hs : (s.core k).slotOf (16 * k + 14) = some (s.cycle % 8)) (hb : (s.thread (16 * k + 14)).notBefore ≤ s.cycle)
    (ht : s.tieTaken (.issue k) = false) :
    exec (.activeMessage (.thread u) k) s = .next (s.handle (.thread u) k r) := by
  show execActiveMessage (.thread u) k s = _
  simp [execActiveMessage, hp.head, isMessage_of_ne hu, hp.answer, hp.ready, State.handlerTurn, handlerOf, hs, hb, ht]

/-- Message `r` of thread `u` has left its FIFO, and core `k` has sent its answer after invalidations to the cores `cs`. -/
def Sent (s t : State) (u k : Nat) (r : Req) (cs : List Nat) (m : Bool → MsgKind) : Prop :=
  t.fifo = s.fifo.erase r ∧ ∃ flag, t.rq = s.rq ++ cs.map (fun d => ⟨.core d, .core k, lineOf r.place.loc, .inv⟩) ++
    [⟨.core (coreOf u), .core k, lineOf r.place.loc, m flag⟩]

theorem AnsweredExactly.sent {cs : List Nat} {m : Bool → MsgKind} (hr : s.headReq (.thread u) (.core k) = some r)
    (hp : Performed (s.handlerIssues k) t r m) (hx : AnsweredExactly (s.handlerIssues k) t r cs m) : Sent s (t.handled k r) u k r cs m := by
  obtain ⟨hsrc, hhome⟩ := State.headReq_src_home hr
  have hrq := hx.rq
  rw [hsrc, hhome] at hrq
  exact ⟨State.handled_fifo.trans hp.fifo, _, State.handled_rq.trans hrq⟩

/-- The line of an access to a core's stores is in no slice. -/
theorem State.StaysPut.of_core (e : r.place.home = .core k) (line : Nat) : s.StaysPut r.place.home line :=
  fun _ hj => absurd (e.symm.trans hj) nofun

theorem State.holders_thread (hr : r.src = .thread u) :
    s.holders r = (s.dir (lineOf r.place.loc)).sharers.filter (fun d => decide (d ≠ coreOf u)) := by
  refine List.filter_congr fun d _ => ?_
  simp [hr, srcCore, eq_comm]

/-! ### Messages in the handler's slot -/

section message
variable (hgo : exec (.activeMessage (.thread u) k) s = .next (s.handle (.thread u) k r))
include hgo

/-- A message that the handler performs in this cycle, with the effects of the perform step. -/
theorem completes_message {P : State → Prop} (hx : ∀ op dbl y e mc, r.kind = .atomic op dbl y e mc → r ∈ (s.core k).handling)
    (hP : P (((s.handlerIssues k).performHead (.thread u) (.core k) (fun _ => true)).handled k r)) :
    Completes (.activeMessage (.thread u) k) s P :=
  ⟨_, hgo.trans (congrArg _ (State.handle_performs hx)), hP⟩

/-- The first issue of an atomic, for its access. -/
theorem message_access {op : AtomOp} {dbl : Bool} {y e : Word} {mc : Nat} (hk : r.kind = .atomic op dbl y e mc)
    (hnew : r ∉ (s.core k).handling) :
    Completes (.activeMessage (.thread u) k) s (fun t => t.mem = s.mem ∧ t.fifo = s.fifo ∧ t.rq = s.rq ∧
      (t.core k).handling = (s.core k).handling ++ [r] ∧ t.tieTaken (.issue k) = true) := by
  refine ⟨_, hgo.trans (congrArg _ (State.handle_accesses hk hnew)), rfl, rfl, rfl, ?_, ?_⟩
  · rw [State.core_updCore_same, Core.handling_of_plain (s.handlerIssues_core k k)]
  · show State.tieTaken (s.tie (.issue k) 0) (.issue k) = true
    simp [State.tieTaken, State.tie]

variable (hp : s.MayPerform (.thread u) (.core k) r) (hf : s.tscFails r = none)
include hp hf

theorem message_load {n : Nat} (hk : r.kind = .load n) : Completes (.activeMessage (.thread u) k) s (fun t => t.mem = s.mem ∧
    Sent s t u k r [] (fun f => .reply (.thread u) r.tag r.part r.place n (BitVec.ofNat 64 (s.read r.place.loc (min n 8)))
      (s.lineData (lineOf r.place.loc)) f)) := by
  obtain ⟨hsrc, hhome⟩ := State.headReq_src_home hp.head
  have hl := hp.handlerIssues.load (pick := fun _ => true) rfl hk hf
  refine completes_message hgo (by simp [hk]) ?_
  generalize State.performHead _ _ _ _ = t at hl ⊢
  rw [hsrc] at hl
  exact ⟨State.handled_mem.trans hl.mem,
    (hl.exactly (.of_core hhome _) (.inr (.inr fun j => by simp [hhome]))).sent hp.head hl.performed⟩

theorem message_store {mask : BitVec 128} {data : BitVec 1024} (hk : r.kind = .store mask data) :
    Completes (.activeMessage (.thread u) k) s (fun t => Sent s t u k r (s.holders r) (fun f => .ack (.thread u) mask data f) ∧
      t.mem = (s.writeLine (lineOf r.place.loc) mask data).mem) := by
  obtain ⟨hsrc, hhome⟩ := State.headReq_src_home hp.head
  have hw := hp.handlerIssues.store (pick := fun _ => true) rfl hk hf
  refine completes_message hgo (by simp [hk]) ?_
  generalize State.performHead _ _ _ _ = t at hw ⊢
  rw [hsrc] at hw
  exact ⟨(hw.exactly (.of_core hhome _)).sent hp.head hw.performed, State.handled_mem.trans hw.mem⟩

/-- The second issue of an atomic, for its update. -/
theorem message_update {op : AtomOp} {dbl : Bool} {y e : Word} {mc : Nat} (hk : r.kind = .atomic op dbl y e mc)
    (hold : r ∈ (s.core k).handling) :
    let n := if dbl then 8 else 4
    let old := s.read r.place.loc n
    let new := atomicNew op dbl old (y.toNat % 2 ^ (8 * n)) (e.toNat % 2 ^ (8 * n)) mc
    let answer := fun mask data f => MsgKind.atomicReply (.thread u) r.tag r.part (atomicExt op dbl old) mask data f r.posted
    Completes (.activeMessage (.thread u) k) s (fun t => (t.core k).handling = (s.core k).handling.erase r ∧
      (new = none → t.mem = s.mem ∧ Sent s t u k r [] (answer 0 0)) ∧
      ∀ v, new = some v →
        let mask := byteMask (r.place.loc % 128) n
        let data := placeData (r.place.loc % 128) v
        t.mem = (s.writeLine (lineOf r.place.loc) mask data).mem ∧ Sent s t u k r (s.holders r) (answer mask data)) := by
  obtain ⟨hsrc, hhome⟩ := State.headReq_src_home hp.head
  intro n old new answer
  have ha := hp.handlerIssues.atomic (pick := fun _ => true) rfl hk hf
  refine completes_message hgo (fun _ _ _ _ _ _ => hold) ?_
  generalize State.performHead _ _ _ _ = t at ha ⊢
  have hhandling : (t.core k).handling = ((s.handlerIssues k).core k).handling := by
    cases hn : new with
    | none => exact (ha.keeps hn).2.1.handling k
    | some v => exact (ha.writes v hn).performed.handling k
  refine ⟨?_, fun hn => ?_, fun v hn => ?_⟩
  · rw [State.handled_handling, hhandling, Core.handling_of_plain (s.handlerIssues_core k k)]
  · obtain ⟨hmem, hperf, hx⟩ := ha.keeps hn
    rw [hsrc] at hperf hx
    exact ⟨State.handled_mem.trans hmem, (hx (.of_core hhome _)).sent hp.head hperf⟩
  · intro mask data
    have hw := ha.writes v hn
    rw [hsrc] at hw
    exact ⟨State.handled_mem.trans hw.mem, (hw.exactly (.of_core hhome _)).sent hp.head hw.performed⟩

end message

end Sys2Proof.Machine
end

section
/-! ## Perform steps, recalls, evictions and active messages -/

namespace Sys2Proof.Machine
variable {s : State}

theorem recallResult (s : State) (line : Nat) :
    let may := (s.dir line).sharers.all (fun d => s.mayEnter (s.homeOfPa (128 * line)) (.core d))
    (may = false → exec (.recall line) s = .next s) ∧
    (may = true → Completes (.recall line) s (fun t => (t.dir line).sharers = [] ∧ t.mem = s.mem ∧ t.fifo = s.fifo ∧
      t.rq = s.rq ++ (s.dir line).sharers.map (fun d => ⟨.core d, s.homeOfPa (128 * line), line, .inv⟩) ∧
      ∀ d, NMap.get 0 (t.dir line).invs d = NMap.get 0 (s.dir line).invs d + (s.dir line).sharers.count d)) := by
  have hsend := (SendsInvs.refl s).recallLine (line := line)
  have hinv := s.recallLine_invalidates (line := line)
  exact ⟨recall_held, fun hm => ⟨_, recall_sends hm, State.recallLine_sharers, hsend.mem, hsend.fifo,
    hinv.rq, hinv.counts⟩⟩

theorem l1EvictionResult (s : State) (k line : Nat) :
    Completes (.l1Eviction k line) s (fun t => t.l1 k line = none ∧ (∀ l, l ≠ line → t.l1 k l = s.l1 k l) ∧
      (∀ j, j ≠ k → t.core j = s.core j) ∧ t.mem = s.mem ∧ t.fifo = s.fifo ∧ t.rq = s.rq ∧ t.threads = s.threads ∧ t.dirs = s.dirs) :=
  ⟨_, rfl, (s.l1_setL1 k line line none).trans (if_pos rfl), fun l hl => (s.l1_setL1 k line l none).trans (if_neg hl),
    fun _ hj => State.core_updCore_ne _ _ _ _ hj, rfl, rfl, rfl, rfl, rfl⟩

/-- Settles O23: the perform steps, recall and eviction, and the active messages. -/
theorem performResult : Obligations.PerformResult := by
  refine ⟨fun s src h r hr hf hh ha hm => ?_,
    fun s k line => ⟨(recallResult s line).1, (recallResult s line).2, l1EvictionResult s k line⟩,
    fun s u k r hu hr ha hh => ?_⟩
  · obtain ⟨rfl, rfl⟩ := State.headReq_src_home hr
    have hp : s.MayPerform r.src r.place.home r := ⟨hr, hf, hh, ha⟩
    intro p line others answered quiet holders exactly ownOnly
    refine ⟨fun hn => ⟨fun n hk => ?_, fun mask data hk => ?_, fun op dbl y e mc hk => ?_⟩,
      fun host u hx hu => ⟨fun n hk => ?_, fun mask data hk => ?_⟩⟩
    · exact (hp.completes_load hm hk hn).imp fun t hl =>
        ⟨hl.mem, hl.performed.takes, fun hq hs => (hl.exactly hq hs).counted, hl.shares⟩
    · exact (hp.completes_store hm hk hn).imp fun t hw => ⟨hw.performed.takes, hw.ownOnly, fun hq => (hw.exactly hq).counted,
        fun i hi => State.byte_written hw.mem hi, fun a ha => State.byte_elsewhere hw.mem ha⟩
    · have hatom := hp.completes_atomic hm hk hn
      intro n old
      split
      · next hnone =>
        refine hatom.imp fun t ht => ?_
        obtain ⟨hmem, hperf, hx⟩ := ht.keeps hnone
        exact ⟨hmem, hperf.takes, fun hq => (hx hq).counted⟩
      · next new hnew =>
        intro hplace k
        refine hatom.imp fun t ht => ?_
        have hw := ht.writes new hnew
        exact ⟨hw.ownOnly, State.read_placed hplace hw.mem, fun a => State.byte_beside hplace hw.mem,
          hw.performed.takes, fun hq => (hw.exactly hq).counted⟩
    · exact ((hp.completes_failing hm hu hx).1 n hk).imp fun t ht =>
        ⟨⟨ht.mem, ht.fifo, ht.hostErr, ht.ue⟩, by rw [ht.rq, Req.failure, hk]⟩
    · exact ((hp.completes_failing hm hu hx).2 mask data hk).imp fun t ht =>
        ⟨⟨ht.mem, ht.fifo, ht.hostErr, ht.ue⟩, by rw [ht.rq, Req.failure, hk]⟩
  · obtain ⟨hsrc, hhome⟩ := State.headReq_src_home hr
    intro line slot holders sent
    refine ⟨activeMessage_enters hu hr ha hh, fun hs hb ht hflip hf => ?_⟩
    have hp : s.MayPerform (.thread u) (.core k) r := ⟨hr, hflip, hh, ha⟩
    have hgo := activeMessage_handles hu hp hs hb ht
    have hholders : s.holders r = holders := State.holders_thread hsrc
    refine ⟨fun n hk => message_load hgo hp hf hk, fun mask data hk => ?_,
      fun op dbl y e mc hk => ⟨message_access hgo hk, fun hold => ?_⟩⟩
    · refine (message_store hgo hp hf hk).imp fun t ht => ?_
      obtain ⟨hsent, hmem⟩ := ht
      exact ⟨hholders ▸ hsent, fun i hi => State.byte_written hmem hi, fun a ha => State.byte_elsewhere hmem ha⟩
    · have hupd := message_update hgo hp hf hk hold
      split
      · next hnone =>
        refine hupd.imp fun t ht => ?_
        obtain ⟨hhandling, hkeeps, -⟩ := ht
        exact ⟨(hkeeps hnone).1, hhandling, (hkeeps hnone).2⟩
      · next new hnew =>
        refine fun hplace => hupd.imp fun t ht => ?_
        obtain ⟨hhandling, -, hwrites⟩ := ht
        obtain ⟨hmem, hsent⟩ := hwrites new hnew
        exact ⟨State.read_placed hplace hmem, hhandling, hholders ▸ hsent⟩

end Sys2Proof.Machine
end

section
/-! ## What a thread takes from its last reply (05 R135, R141, R145, R152) -/

namespace Sys2Proof.Machine
variable {s t : State} {u g d n line : Nat} {h : Home} {p : Place} {fin : Finish} {ov flag : Bool} {v : Word} {x y : Thread}

theorem State.rq_of_outside (e : t.outside = s.outside) : t.rq = s.rq :=
  show t.outside.rq = s.outside.rq by rw [e]
theorem Core.l1_of_plain {c d : Core} (e : d.plain = c.plain) : d.l1 = c.l1 :=
  show d.plain.l1 = c.plain.l1 by rw [e]

/-! ### Retiring a tag -/

/-- A register in the physical file loses the tag's bit; another keeps its taint. -/
def SReg.cut (g : Nat) (o : SReg) : SReg := if o.map = .physical then { o with taint := o.taint &&& ~~~tagBit g } else o

theorem Thread.retireTag_s (x : Thread) (g r : Nat) : NMap.get {} (x.retireTag g).s r = (NMap.get {} x.s r).cut g := by
  rw [← NMap.get_map (f := SReg.cut g) rfl]
  refine congrArg (fun m : NMap SReg => NMap.get {} m r) (List.map_congr_left fun q _ => ?_)
  unfold SReg.cut
  split <;> rfl

/-! ### The only reply -/

/-- An instruction with one piece, `fin`'s, waits for its only reply under tag `g`. -/
structure Thread.AwaitsOne (x : Thread) (g : Nat) (fin : Finish) (p : Place) (n : Nat) (ov : Bool) : Prop where
  inflight : x.inflight = some ⟨some g, fin, [⟨0, p, n, ov, none⟩]⟩
  run : x.run = .waiting .reply
  releasing : x.releasing = []
  replies : (NMap.get {} x.tags g).replies = 1
  waits : (NMap.get {} x.tags g).waits = []
  busy : (NMap.get {} x.tags g).busy = true

/-- What bytes `v` that come from a home are once the thread's buffered stores lie over them, where they do (05 R141). -/
def Thread.seen (x : Thread) (p : Place) (n : Nat) (ov : Bool) (v : Word) : Word :=
  if ov then BitVec.ofNat 64 (x.overlay p.loc n v.toNat) else v

/-- The thread that has the bytes of its one piece, and whose tag waits for the line where the flag is 0. -/
def Thread.served (x : Thread) (g : Nat) (w : Option (Home × Nat)) (fin : Finish) (p : Place) (n : Nat) (ov : Bool) (v : Word) : Thread :=
  { x with
    tags := NMap.set {} x.tags g { NMap.get {} x.tags g with replies := 0, waits := w.toList }
    inflight := some ⟨some g, fin, [⟨0, p, n, ov, some (x.seen p n ov v)⟩]⟩ }

theorem Thread.AwaitsOne.served (hx : x.AwaitsOne g fin p n ov) (h : Home) (line : Nat) (flag : Bool) (v : Word) :
    (x.tagReply g h line flag).pieceReply g 0 v = x.served g (if flag then none else some (h, line)) fin p n ov v := by
  cases flag <;>
    simp [Thread.tagReply, Thread.pieceReply, Thread.served, Thread.seen, hx.inflight, hx.replies, hx.waits, Thread.overlay, Thread.slotFor]

/-! ### The result register -/

/-- From `s` to `t` thread `u` has written the result `v` under taint `b` in register `d`: what it waits for and what it has stored
is as it was, and so is all of the device but its rotation and its physical registers. -/
structure ResultIn (s t : State) (u d : Nat) (v : Word) (b : BitVec 8) : Prop where
  reg : d ≠ 0 → ∃ id used, NMap.get {} (t.thread u).s d = ⟨v, b, .physical, id, used⟩
  tags : (t.thread u).tags = (s.thread u).tags
  inflight : (t.thread u).inflight = (s.thread u).inflight
  storeCount : (t.thread u).storeCount = (s.thread u).storeCount
  awaiting : (t.thread u).awaiting = (s.thread u).awaiting
  releasing : (s.thread u).releasing = [] → (t.thread u).releasing = []
  outside : t.outside = s.outside
  cores : ∀ k, (t.core k).plain = (s.core k).plain

theorem Thread.pending_of_plain (e : y.plain = x.plain) : y.tags = x.tags ∧ y.inflight = x.inflight ∧ y.storeCount = x.storeCount ∧
    y.awaiting = x.awaiting ∧ (x.releasing = [] → y.releasing = []) := by
  have hall := congrArg (fun z : Thread => (z.tags, z.inflight, z.storeCount, z.awaiting, z.releasing)) e
  simp only [Thread.plain, Thread.bare, Prod.mk.injEq] at hall
  obtain ⟨htags, hinflight, hcount, hawaiting, hreleasing⟩ := hall
  exact ⟨htags, hinflight, hcount, hawaiting, fun hr => by simpa [hr] using hreleasing⟩

theorem State.setS_result (s : State) (u d : Nat) (v : Word) (b : BitVec 8) : ResultIn s (s.setS u d v b) u d v b := by
  obtain ⟨htags, hinflight, hcount, hawaiting, hreleasing⟩ := Thread.pending_of_plain (s.setS_keeps u d v b).2.2.plain
  refine ⟨fun hd => ?_, htags, hinflight, hcount, hawaiting, hreleasing, s.setS_outside .., fun k => s.setS_core ..⟩
  obtain ⟨x, -, id, limbo, e⟩ := s.setS_thread u d v b hd
  rw [e]
  exact ⟨id, _, NMap.get_set_same _ _ _ _⟩

/-- The checkpoint takes the result of an atomic too (18 R428). -/
theorem ResultIn.ckptS {b : BitVec 8} (hr : ResultIn s t u d v b) : ResultIn s (t.updThread u (fun x => x.ckptS d)) u d v b := by
  have e : ∃ c, (t.updThread u (fun x => x.ckptS d)).thread u = { t.thread u with ckpt := c } := by
    rw [State.thread_updThread_same]
    unfold Thread.ckptS
    split
    · exact ⟨_, rfl⟩
    · exact ⟨_, rfl⟩
  obtain ⟨c, e⟩ := e
  refine ⟨?_, ?_, ?_, ?_, ?_, ?_, hr.outside, hr.cores⟩ <;> rw [e]
  exacts [hr.reg, hr.tags, hr.inflight, hr.storeCount, hr.awaiting, hr.releasing]

/-! ### The thread returns to rotation (05 R145) -/

/-- What the completion of an access does, whose piece has value `w`: register `d` takes `f w` under the access's tag. -/
def Finish.Gives (fin : Finish) (d : Nat) (f : Word → Word) : Prop :=
  ∀ (s : State) (u g n : Nat) (p : Place) (ov : Bool) (w : Word),
    ResultIn s (s.finishAccess u fin [⟨0, p, n, ov, some w⟩] (some g)) u d (f w) (tagBit g)

theorem Finish.scalar_gives (d n : Nat) (sg : Bool) : (Finish.scalar d n sg).Gives d (extendLoad n sg) :=
  fun s u g _ _ _ w => s.setS_result u d (extendLoad n sg w) (tagBit g)

theorem Finish.atomic_gives (d : Nat) (sx dbl : Bool) : (Finish.atomic d sx dbl).Gives d id :=
  fun s u g _ _ _ w => (s.setS_result u d w (tagBit g)).ckptS

/-- Thread `u`, which waited for one reply under tag `g`, is back in rotation with `v` in register `d`; the tag has retired where the
line is settled. Its stores stay as they are, and so do every core's copies. -/
structure Back (s t : State) (u g d : Nat) (flag : Bool) (v : Word) : Prop where
  run : (t.thread u).run = .ready
  inflight : (t.thread u).inflight = none
  sval : (t.thread u).sval d = if d = 0 then 0 else v
  staint : (t.thread u).staint d = if d = 0 ∨ flag then 0 else tagBit g
  busy : (NMap.get {} (t.thread u).tags g).busy = !flag
  storeCount : (t.thread u).storeCount = (s.thread u).storeCount
  awaiting : (t.thread u).awaiting = (s.thread u).awaiting
  mem : t.mem = s.mem
  rq : t.rq = s.rq
  l1 : ∀ k, (t.core k).l1 = (s.core k).l1

theorem State.wake_outside (h : (s.thread u).releasing = []) : (s.wake u).outside = s.outside := by
  rw [State.wake, if_neg (by simpa using h)]
  rfl

theorem State.wake_core (h : (s.thread u).releasing = []) (k : Nat) : ((s.wake u).core k).plain = (s.core k).plain := by
  rw [State.wake, if_neg (by simpa using h), State.core_updCore]
  split
  · next e => rw [Core.enter_plain, e]; rfl
  · rfl

theorem State.completeAccess_wakes {q : Pending} (hi : (s.thread u).inflight = some q) (ht : q.tag = some g)
    (hr : (s.thread u).run = .waiting .reply) :
    s.completeAccess u g =
      ((s.updThread u (fun x => { x with inflight := none })).finishAccess u q.finish q.pieces (some g)).wake u := by
  simp [State.completeAccess, hi, ht, hr]

/-- A return to rotation keeps the result. -/
theorem ResultIn.wake {b : BitVec 8} (hr : ResultIn s t u d v b) (h : (t.thread u).releasing = []) :
    ResultIn s (t.wake u) u d v b ∧ ((t.wake u).thread u).run = .ready := by
  have e := t.wake_thread u
  rw [if_pos h] at e
  refine ⟨⟨?_, ?_, ?_, ?_, ?_, ?_, (State.wake_outside h).trans hr.outside, fun k => (State.wake_core h k).trans (hr.cores k)⟩, ?_⟩ <;>
    rw [e]
  exacts [hr.reg, hr.tags, hr.inflight, hr.storeCount, hr.awaiting, hr.releasing]

/-- The access completes: its result is written and its thread returns to rotation. -/
theorem State.completeAccess_result {f : Word → Word} {w : Word} (hf : fin.Gives d f)
    (hi : (s.thread u).inflight = some ⟨some g, fin, [⟨0, p, n, ov, some w⟩]⟩) (hr : (s.thread u).run = .waiting .reply)
    (hl : (s.thread u).releasing = []) :
    ResultIn (s.updThread u (fun x => { x with inflight := none })) (s.completeAccess u g) u d (f w) (tagBit g) ∧
      ((s.completeAccess u g).thread u).run = .ready := by
  have hgive := hf (s.updThread u (fun x => { x with inflight := none })) u g n p ov w
  rw [State.completeAccess_wakes hi rfl hr]
  exact hgive.wake (hgive.releasing (by rwa [State.thread_updThread_same]))

/-- With its last reply a tag that waits for no line retires. -/
theorem State.threadReply_last {part : Nat} {x : Thread}
    (hx : (s.updThread u (fun x => (x.tagReply g h line flag).pieceReply g part v)).thread u = x)
    (hr : (NMap.get {} x.tags g).replies = 0) :
    s.threadReply u g h line part flag v =
      let t := (s.updThread u (fun x => (x.tagReply g h line flag).pieceReply g part v)).completeAccess u g
      if (NMap.get {} x.tags g).waits = [] then t.updThread u (fun x => x.retireTag g) else t := by
  simp only [State.threadReply, hx, hr, ne_eq, not_true_eq_false, if_false]

/-- What a thread reads back of its result, before and after its tag has retired. -/
theorem ResultIn.reads (hr : ResultIn s t u d v (tagBit g)) :
    ((t.thread u).sval d = (if d = 0 then 0 else v) ∧ (t.thread u).staint d = if d = 0 then 0 else tagBit g) ∧
    (((t.thread u).retireTag g).sval d = (if d = 0 then 0 else v) ∧ ((t.thread u).retireTag g).staint d = 0) := by
  by_cases hd : d = 0
  · simp [Thread.sval, Thread.staint, hd]
  · obtain ⟨id, used, e⟩ := hr.reg hd
    simp only [Thread.sval, Thread.staint, if_neg hd, Thread.retireTag_s, e]
    simp [SReg.cut]

/-- The only reply that a thread waits for returns it to rotation with its result. -/
theorem State.threadReply_back {f : Word → Word} (hx : (s.thread u).AwaitsOne g fin p n ov) (hf : fin.Gives d f) :
    Back s (s.threadReply u g h line 0 flag v) u g d flag (f ((s.thread u).seen p n ov v)) := by
  have h1 := (State.thread_updThread_same s u (fun x => (x.tagReply g h line flag).pieceReply g 0 v)).trans (hx.served h line flag v)
  rw [State.threadReply_last h1 (by simp [Thread.served])]
  obtain ⟨hres, hrun⟩ := State.completeAccess_result (s := s.updThread u (fun x => (x.tagReply g h line flag).pieceReply g 0 v))
    (g := g) (ov := ov) hf (by rw [h1]; rfl) (by rw [h1]; exact hx.run) (by rw [h1]; exact hx.releasing)
  generalize State.completeAccess _ u g = t at hres hrun ⊢
  obtain ⟨⟨hval, htaint⟩, hval', htaint'⟩ := hres.reads
  obtain ⟨-, htags, hinflight, hcount, hawaiting, -, houtside, hcores⟩ := hres
  rw [State.thread_updThread_same, h1] at htags hinflight hcount hawaiting
  have hl1 : ∀ k, (t.core k).l1 = (s.core k).l1 := fun k => Core.l1_of_plain (hcores k)
  cases flag with
  | true =>
    rw [if_pos (by simp [Thread.served])]
    exact {
      run := by rw [State.thread_updThread_same]; exact hrun
      inflight := by rw [State.thread_updThread_same]; exact hinflight
      sval := by rw [State.thread_updThread_same]; exact hval'
      staint := by rw [State.thread_updThread_same]; simpa using htaint'
      busy := by rw [State.thread_updThread_same]; simp [Thread.retireTag]
      storeCount := by rw [State.thread_updThread_same]; exact hcount
      awaiting := by rw [State.thread_updThread_same]; exact hawaiting
      mem := State.mem_of_outside houtside
      rq := State.rq_of_outside houtside
      l1 := hl1 }
  | false =>
    rw [if_neg (by simp [Thread.served])]
    exact {
      run := hrun
      inflight := hinflight
      sval := hval
      staint := by simpa using htaint
      busy := by rw [htags]; simp [Thread.served, hx.busy]
      storeCount := hcount
      awaiting := hawaiting
      mem := State.mem_of_outside houtside
      rq := State.rq_of_outside houtside
      l1 := hl1 }

end Sys2Proof.Machine
end

section
/-! ## What a core receives (05 R145, R150, R152; 12 R336) -/

namespace Sys2Proof.Machine
variable {s t : State} {k u g line : Nat} {h : Home} {m : Msg} {flag : Bool} {mask : BitVec 128} {data : BitVec 1024}

/-! ### Copies -/

theorem State.fillL1_line (s : State) (k line : Nat) (c : L1Line) : (s.fillL1 k line c).l1 k line = some c := by
  unfold State.fillL1
  dsimp only
  split
  · exact (State.l1_setL1 ..).trans (if_pos rfl)
  · exact (State.l1_setL1 ..).trans (if_pos rfl)

/-- A fill changes copies, and draws for the line that leaves; nothing else. -/
theorem State.fillL1_keeps (s : State) (k line : Nat) (c : L1Line) : (s.fillL1 k line c).threads = s.threads ∧
    (s.fillL1 k line c).mem = s.mem ∧ (s.fillL1 k line c).rq = s.rq := by
  unfold State.fillL1
  dsimp only
  split <;> exact ⟨rfl, rfl, rfl⟩

/-- What an ACK leaves of its thread: the store is settled, or awaits the line. -/
def Thread.acked (x : Thread) (h : Home) (line : Nat) (flag : Bool) : Thread :=
  if flag then { x with storeCount := x.storeCount - 1 } else { x with awaiting := x.awaiting ++ [(h, line)] }

/-- The effects of an ACK on a core and a thread. -/
structure Acked (s t : State) (k u : Nat) (h : Home) (line : Nat) (mask : BitVec 128) (data : BitVec 1024) (flag : Bool) : Prop where
  thread : t.thread u = (s.thread u).acked h line flag
  l1 : t.l1 k line = (s.l1 k line).map (fun c => ⟨overlayLine mask data c.data, flag⟩)
  mem : t.mem = s.mem
  rq : t.rq = s.rq

theorem State.ackEffects_acks (s : State) (k u : Nat) (h : Home) (line : Nat) (mask : BitVec 128) (data : BitVec 1024) (flag : Bool) :
    Acked s (s.ackEffects k u h line mask data flag) k u h line mask data flag := by
  unfold State.ackEffects
  split
  · next c hc => exact ⟨State.thread_updThread_same .., by rw [hc]; exact (State.l1_setL1 ..).trans (if_pos rfl), rfl, rfl⟩
  · next hc => exact ⟨State.thread_updThread_same .., by rw [hc]; exact hc, rfl, rfl⟩

/-- The store of an ACK is counted as settled or awaits its line, and the core's copy has its bytes. -/
structure Stored (s t : State) (k u : Nat) (h : Home) (line : Nat) (mask : BitVec 128) (data : BitVec 1024) (flag : Bool) : Prop where
  storeCount : (t.thread u).storeCount = if flag then (s.thread u).storeCount - 1 else (s.thread u).storeCount
  awaiting : (t.thread u).awaiting = if flag then (s.thread u).awaiting else (s.thread u).awaiting ++ [(h, line)]
  l1 : NMap.get none (t.core k).l1 line = (NMap.get none (s.core k).l1 line).map (fun c => ⟨overlayLine mask data c.data, flag⟩)

theorem Stored.counts (hs : Stored s t k u h line mask data flag) :
    (t.thread u).storeCount = (if flag then (s.thread u).storeCount - 1 else (s.thread u).storeCount) ∧
    (t.thread u).awaiting = (if flag then (s.thread u).awaiting else (s.thread u).awaiting ++ [(h, line)]) ∧
    NMap.get none (t.core k).l1 line = (NMap.get none (s.core k).l1 line).map (fun c => ⟨overlayLine mask data c.data, flag⟩) :=
  ⟨hs.storeCount, hs.awaiting, hs.l1⟩

theorem Acked.stored (ha : Acked (s.dropMsg m) t k u h line mask data flag) : Stored s t k u h line mask data flag := by
  refine ⟨?_, ?_, ha.l1⟩
  · rw [ha.thread]
    cases flag <;> rfl
  · rw [ha.thread]
    cases flag <;> rfl

/-- A store's ACK changes neither registers nor what the thread waits for. -/
theorem Thread.acked_keeps (x : Thread) : (x.acked h line flag).s = x.s ∧ (x.acked h line flag).run = x.run := by
  cases flag <;> exact ⟨rfl, rfl⟩

theorem Thread.AwaitsOne.acked {x : Thread} {fin : Finish} {p : Place} {n : Nat} {ov : Bool} (hx : x.AwaitsOne g fin p n ov) :
    (x.acked h line flag).AwaitsOne g fin p n ov := by
  obtain ⟨h1, h2, h3, h4, h5, h6⟩ := hx
  cases flag <;> exact ⟨h1, h2, h3, h4, h5, h6⟩

/-! ### Settles -/

/-- A settle takes the line from what a thread's stores await, and counts those that awaited it as settled. -/
theorem Thread.settled_stores (x : Thread) (h : Home) (line : Nat) :
    (x.settled h line).awaiting = x.awaiting.filter (fun p => p ≠ (h, line)) ∧
    (x.settled h line).storeCount = x.storeCount - x.awaiting.count (h, line) := by
  unfold Thread.settled
  extract_lets y mine
  have hy : (y.awaiting, y.storeCount) = (x.awaiting, x.storeCount) := by
    refine List.foldlRecOn (motive := fun z : Thread => (z.awaiting, z.storeCount) = (x.awaiting, x.storeCount)) _ _ rfl
      fun z hz g _ => ?_
    dsimp only
    split
    · split <;> exact hz
    · exact hz
  clear_value y
  obtain ⟨hawaiting, hcount⟩ := Prod.mk.inj hy
  have hmine : mine.length = x.awaiting.count (h, line) := by
    rw [List.count_eq_length_filter, ← hawaiting]
    exact congrArg List.length (List.filter_congr fun p _ => by simp [Bool.beq_eq_decide_eq])
  split
  · next hnone =>
    rw [hnone] at hmine
    refine ⟨hawaiting.trans (List.filter_eq_self.2 fun p hp => ?_).symm, by rw [← hmine]; exact hcount⟩
    have hp' := List.filter_eq_nil_iff.1 hnone p (hawaiting ▸ hp)
    simpa using hp'
  · exact ⟨congrArg (List.filter _) hawaiting, congrArg₂ (· - ·) hcount hmine⟩

theorem State.settleCore_other {ts : List Nat} (hu : u ∉ ts) : (s.settleCore h line ts).thread u = s.thread u := by
  induction ts generalizing s with
  | nil => rfl
  | cons v ts ih =>
    rw [List.mem_cons, not_or] at hu
    rw [State.settleCore, ih hu.2, State.thread_updThread_ne _ _ _ _ hu.1]

/-- A thread of the list settles exactly once. -/
theorem State.settleCore_thread {ts : List Nat} (hn : ts.Nodup) (hu : u ∈ ts) :
    (s.settleCore h line ts).thread u = (s.thread u).settled h line := by
  induction ts generalizing s with
  | nil => exact absurd hu List.not_mem_nil
  | cons v ts ih =>
    obtain ⟨hv, hn⟩ := List.nodup_cons.1 hn
    rw [State.settleCore]
    rcases List.mem_cons.1 hu with rfl | hu
    · rw [State.settleCore_other hv, State.thread_updThread_same]
    · rw [ih hn hu, State.thread_updThread_ne _ _ _ _ (ne_of_mem_of_not_mem hu hv)]

theorem State.settleCore_keeps (s : State) (h : Home) (line : Nat) (ts : List Nat) : (s.settleCore h line ts).mem = s.mem ∧
    (s.settleCore h line ts).rq = s.rq ∧ (s.settleCore h line ts).cores = s.cores := by
  induction ts generalizing s with
  | nil => exact ⟨rfl, rfl, rfl⟩
  | cons v ts ih => exact ih _

/-! ### The receive steps (05 R152) -/

/-- The core that takes a REPLY has its copy of the line, where that is cacheable in an L1 of its own (05 R150, R152). -/
def State.copyTaken (s : State) (k : Nat) (m : Msg) (p : Place) (c : L1Line) : State :=
  if p.cacheable && !isTscCore k then (s.dropMsg m).fillL1 k m.line c else s.dropMsg m

theorem State.copyTaken_keeps (s : State) (k : Nat) (m : Msg) (p : Place) (c : L1Line) : (s.copyTaken k m p c).threads = s.threads ∧
    (s.copyTaken k m p c).mem = s.mem ∧ (s.copyTaken k m p c).rq = s.rq.erase m := by
  unfold State.copyTaken
  split
  · exact State.fillL1_keeps ..
  · exact ⟨rfl, rfl, rfl⟩

theorem State.copyTaken_l1 {p : Place} (c : L1Line) (hc : p.cacheable = true) (hk : isTscCore k = false) :
    (s.copyTaken k m p c).l1 k m.line = some c := by
  rw [State.copyTaken, if_pos (by simp [hc, hk])]
  exact State.fillL1_line ..

theorem processReply_next {p : Place} {n part : Nat} {v : Word} (hm : s.headMsg (.core k) h = some m)
    (hk : m.kind = .reply (.thread u) (some g) part p n v data flag) :
    exec (.processReply k h) s = .next ((s.copyTaken k m p ⟨data, flag⟩).threadReply u g h m.line part flag v) := by
  show execProcessReply k h s = _
  simp only [execProcessReply, hm, hk]
  rfl

theorem processAck_next (hm : s.headMsg (.core k) h = some m)
    (hk : m.kind = .ack (.thread u) mask data flag ∨
      ∃ tag part old, m.kind = .atomicReply (.thread u) tag part old mask data flag true) :
    exec (.processAck k h) s = .next ((s.dropMsg m).ackEffects k u h m.line mask data flag) := by
  show execProcessAck k h s = _
  rcases hk with hk | ⟨tag, part, old, hk⟩ <;> simp only [execProcessAck, hm, hk]

theorem processAtomicReply_next {part : Nat} {old : Word} (hm : s.headMsg (.core k) h = some m)
    (hk : m.kind = .atomicReply (.thread u) (some g) part old mask data flag false) :
    exec (.processAtomicReply k h) s =
      .next (((s.dropMsg m).ackEffects k u h m.line mask data flag).threadReply u g h m.line part flag old) := by
  show execProcessAtomicReply k h s = _
  simp only [execProcessAtomicReply, hm, hk]

/-- A core has dropped its copy of the line of an INV and taken one from the invalidations outstanding. -/
def State.invTaken (s : State) (k : Nat) (m : Msg) : State :=
  ((s.dropMsg m).setL1 k m.line none).updDir m.line
    (fun d => { d with invs := NMap.set 0 d.invs k (NMap.get 0 d.invs k - 1) })

theorem processInv_next (hm : s.headMsg (.core k) h = some m) (hk : m.kind = .inv) :
    exec (.processInv k h) s = .next ((s.invTaken k m).settleLine h m.line) := by
  show execProcessInv k h s = _
  simp only [execProcessInv, hm, hk]
  rfl

/-- With the last invalidation every receiver that waits for the line is sent a SETTLE. -/
theorem State.settleLine_last (hi : (s.dir line).invs = []) : ((s.settleLine h line).dir line).waiters = [] ∧
    (s.settleLine h line).rq = s.rq ++ (s.dir line).waiters.map (fun r => ⟨r, h, line, .settle⟩) := by
  rw [State.settleLine, if_pos (by simpa [State.settledAt] using hi), State.dir_updDir_same]
  exact ⟨rfl, rfl⟩

theorem State.settleLine_earlier (hi : (s.dir line).invs ≠ []) : s.settleLine h line = s :=
  if_neg (by simpa [State.settledAt] using hi)

theorem State.settleLine_keeps (s : State) (h : Home) (line : Nat) : (s.settleLine h line).mem = s.mem ∧
    (s.settleLine h line).cores = s.cores ∧ ((s.settleLine h line).dir line).invs = (s.dir line).invs := by
  unfold State.settleLine
  split
  · rw [State.dir_updDir_same]
    exact ⟨rfl, rfl, rfl⟩
  · exact ⟨rfl, rfl, rfl⟩

theorem State.l1_congr (hc : t.cores = s.cores) (k line : Nat) : t.l1 k line = s.l1 k line := by
  rw [State.l1, State.core, hc, State.l1, State.core]

/-- A core has marked its copy of the line of a SETTLE, if it has one, as settled. -/
def State.copySettled (s : State) (k : Nat) (m : Msg) : State :=
  match (s.dropMsg m).l1 k m.line with
  | some c => (s.dropMsg m).setL1 k m.line (some { c with settled := true })
  | none => s.dropMsg m

theorem processSettle_next (hm : s.headMsg (.core k) h = some m) (hk : m.kind = .settle) :
    exec (.processSettle k h) s = .next ((s.copySettled k m).settleCore h m.line (coreThreads k)) := by
  show execProcessSettle k h s = _
  simp only [execProcessSettle, hm, hk]
  rfl

theorem State.copySettled_keeps (s : State) (k : Nat) (m : Msg) : (s.copySettled k m).mem = s.mem ∧
    (s.copySettled k m).rq = s.rq.erase m ∧ (s.copySettled k m).threads = s.threads := by
  unfold State.copySettled
  split <;> exact ⟨rfl, rfl, rfl⟩

theorem State.copySettled_l1 {c : L1Line} (hc : s.l1 k m.line = some c) : (s.copySettled k m).l1 k m.line = some ⟨c.data, true⟩ := by
  rw [State.copySettled, show (s.dropMsg m).l1 k m.line = some c from hc]
  exact (State.l1_setL1 ..).trans (if_pos rfl)

end Sys2Proof.Machine
end

section
/-! ## Replies, acknowledgements, invalidations, settles -/

namespace Sys2Proof.Machine
variable {s t : State} {k u g d n : Nat} {h : Home} {m : Msg} {flag : Bool} {p : Place} {mask : BitVec 128} {data : BitVec 1024}

/-- The only REPLY of a scalar load. -/
theorem reply_back {sg ov : Bool} {old : Word} (hx : (s.thread u).AwaitsOne g (.scalar d n sg) p n ov) :
    Back (s.copyTaken k m p ⟨data, flag⟩) ((s.copyTaken k m p ⟨data, flag⟩).threadReply u g h m.line 0 flag old) u g d flag
      (extendLoad n sg ((s.thread u).seen p n ov old)) := by
  have hthread := State.thread_congr (s.copyTaken_keeps k m p ⟨data, flag⟩).1 u
  rw [← hthread] at hx ⊢
  exact State.threadReply_back hx (Finish.scalar_gives d n sg)

/-- The only REPLY of an atomic, whose store is acknowledged with it. -/
theorem atomicReply_back {sx dbl : Bool} {old : Word} (hx : (s.thread u).AwaitsOne g (.atomic d sx dbl) p n false) :
    let s1 := (s.dropMsg m).ackEffects k u h m.line mask data flag
    Back s1 (s1.threadReply u g h m.line 0 flag old) u g d flag old := by
  intro s1
  have hthread := ((s.dropMsg m).ackEffects_acks k u h m.line mask data flag).thread
  have hx1 : (s1.thread u).AwaitsOne g (.atomic d sx dbl) p n false := by
    rw [hthread]
    exact hx.acked
  exact State.threadReply_back hx1 (Finish.atomic_gives d sx dbl)

/-- An ACK, or the REPLY of a posted AMOP (12 R336). -/
theorem processAck_completes (hm : s.headMsg (.core k) h = some m)
    (hk : m.kind = .ack (.thread u) mask data flag ∨
      ∃ tag part old, m.kind = .atomicReply (.thread u) tag part old mask data flag true) :
    Completes (.processAck k h) s (fun t => t.mem = s.mem ∧ t.rq = s.rq.erase m ∧ Stored s t k u h m.line mask data flag ∧
      (t.thread u).s = (s.thread u).s ∧ (t.thread u).run = (s.thread u).run) := by
  have ha := (s.dropMsg m).ackEffects_acks k u h m.line mask data flag
  obtain ⟨hregs, hrun⟩ := (s.thread u).acked_keeps (h := h) (line := m.line) (flag := flag)
  exact ⟨_, processAck_next hm hk, ha.mem, ha.rq, ha.stored, (congrArg Thread.s ha.thread).trans hregs,
    (congrArg Thread.run ha.thread).trans hrun⟩

/-- What an INV does to its line: the copy goes, and with the last invalidation outstanding the line settles. -/
theorem processInv_completes (hm : s.headMsg (.core k) h = some m) (hk : m.kind = .inv) :
    let left := NMap.set 0 (s.dir m.line).invs k (NMap.get 0 (s.dir m.line).invs k - 1)
    Completes (.processInv k h) s (fun t => t.mem = s.mem ∧ t.l1 k m.line = none ∧ (t.dir m.line).invs = left ∧
      (left = [] → (t.dir m.line).waiters = [] ∧
        t.rq = s.rq.erase m ++ (s.dir m.line).waiters.map (fun r => ⟨r, h, m.line, .settle⟩)) ∧
      (left ≠ [] → (t.dir m.line).waiters = (s.dir m.line).waiters ∧ t.rq = s.rq.erase m)) := by
  intro left
  have hdir : (s.invTaken k m).dir m.line = { s.dir m.line with invs := left } := State.dir_updDir_same ..
  have hinvs := congrArg Dir.invs hdir
  have hwaiters := congrArg Dir.waiters hdir
  have hl1 : (s.invTaken k m).l1 k m.line = none := ((s.dropMsg m).l1_setL1 k m.line m.line none).trans (if_pos rfl)
  obtain ⟨hmem, hcores, hleft⟩ := (s.invTaken k m).settleLine_keeps h m.line
  refine ⟨_, processInv_next hm hk, hmem, (State.l1_congr hcores k m.line).trans hl1, hleft.trans hinvs, fun he => ?_, fun hne => ?_⟩
  · have hlast := State.settleLine_last (h := h) (hinvs.trans he)
    rwa [hwaiters] at hlast
  · rw [State.settleLine_earlier (ne_of_eq_of_ne hinvs hne)]
    exact ⟨hwaiters, rfl⟩

/-- A SETTLE marks the core's copy and takes the line from what the core's threads await. -/
theorem processSettle_completes (hm : s.headMsg (.core k) h = some m) (hk : m.kind = .settle) :
    Completes (.processSettle k h) s (fun t => t.mem = s.mem ∧ t.rq = s.rq.erase m ∧
      (∀ c, s.l1 k m.line = some c → t.l1 k m.line = some ⟨c.data, true⟩) ∧
      ∀ u, coreOf u = k → (h, m.line) ∉ (t.thread u).awaiting ∧
        (t.thread u).storeCount = (s.thread u).storeCount - (s.thread u).awaiting.count (h, m.line)) := by
  obtain ⟨hmem, hrq, hthreads⟩ := s.copySettled_keeps k m
  obtain ⟨hmem', hrq', hcores⟩ := (s.copySettled k m).settleCore_keeps h m.line (coreThreads k)
  refine ⟨_, processSettle_next hm hk, hmem'.trans hmem, hrq'.trans hrq, fun c hc => ?_, fun u hu => ?_⟩
  · exact (State.l1_congr hcores k m.line).trans (State.copySettled_l1 hc)
  · rw [State.settleCore_thread (coreThreads_nodup k) (mem_coreThreads.2 hu), State.thread_congr hthreads]
    obtain ⟨hawaiting, hcount⟩ := (s.thread u).settled_stores h m.line
    exact ⟨by simp [hawaiting], hcount⟩

/-- Settles O25: replies and acknowledgements, then INV and SETTLE. -/
theorem receiveResult : Obligations.ReceiveResult := by
  refine ⟨fun s k u g d n h m flag sg ov p old mask data hm => ?_,
    fun s k h m hm => ⟨processInv_completes hm, processSettle_completes hm⟩⟩
  intro x c one back stored
  have hone : ∀ fin o, one fin o → x.AwaitsOne g fin p n o :=
    fun fin o ⟨_, hi, hr, hl, hn, hw, hb⟩ => ⟨hi, hr, hl, hn, hw, hb⟩
  refine ⟨fun hk hx => ?_, fun hk => ?_, fun hk => ?_, fun hk hx => ?_⟩
  · obtain ⟨-, hmem, hrq⟩ := s.copyTaken_keeps k m p ⟨data, flag⟩
    have hb := reply_back (s := s) (k := k) (h := h) (m := m) (flag := flag) (data := data) (old := old) (hone _ _ hx)
    exact ⟨_, processReply_next hm hk, hb.mem.trans hmem, hb.rq.trans hrq, ⟨hb.run, hb.inflight, hb.sval, hb.staint, hb.busy⟩,
      fun hc hk => (congrArg (NMap.get none · m.line) (hb.l1 k)).trans (State.copyTaken_l1 _ hc hk)⟩
  · exact (processAck_completes hm (.inl hk)).imp
      fun t ⟨hmem, hrq, hs, hregs, hrun⟩ => ⟨hmem, hrq, hs.counts, hregs, hrun⟩
  · exact (processAck_completes hm (.inr ⟨_, _, _, hk⟩)).imp
      fun t ⟨hmem, hrq, hs, hregs, hrun⟩ => ⟨hmem, hrq, hs.counts, hregs, hrun⟩
  · have ha := (s.dropMsg m).ackEffects_acks k u h m.line mask data flag
    have hb := atomicReply_back (s := s) (k := k) (h := h) (m := m) (flag := flag) (mask := mask) (data := data)
      (old := old) (hone _ _ hx)
    exact ⟨_, processAtomicReply_next hm hk, hb.mem.trans ha.mem, hb.rq.trans ha.rq,
      ⟨hb.run, hb.inflight, hb.sval, hb.staint, hb.busy⟩,
      hb.storeCount.trans ha.stored.storeCount, hb.awaiting.trans ha.stored.awaiting,
      (congrArg (NMap.get none · m.line) (hb.l1 k)).trans ha.stored.l1⟩

end Sys2Proof.Machine
end

section
/-! ## Commit points (05 R146; 18 R427, R428; 22 R448) -/

namespace Sys2Proof.Machine
variable {s : State} {u : Nat}

/-- The drain of a commit point and the region that begins there. -/
def State.regionBegun (s : State) (u : Nat) (pc : Word) : State :=
  (s.drainRsb u).updThread u (fun x => { x.beginRegion pc with boundary := true })

/-- What they make of the thread. -/
def Thread.committed (x : Thread) (pc : Word) : Thread :=
  { ({ x with rsb := [], storeCount := x.storeCount + x.rsb.length } : Thread).beginRegion pc with boundary := true }

theorem State.regionBegun_thread (s : State) (u : Nat) (pc : Word) : (s.regionBegun u pc).thread u = (s.thread u).committed pc := by
  rw [State.regionBegun, State.thread_updThread_same, State.drainRsb, State.thread_setThread_same]
  rfl

theorem State.regionBegun_other {v : Nat} (pc : Word) (hv : v ≠ u) : (s.regionBegun u pc).thread v = s.thread v :=
  (State.thread_updThread_ne _ _ _ _ hv).trans (State.thread_setThread_ne _ _ _ _ hv)

/-- With no pending children and no TCONS holds nothing else happens but the launch's progress. -/
theorem State.commitPoint_eq (hc : (s.thread u).children = []) (ht : (s.thread u).tcons = []) (pc : Word) :
    s.commitPoint u pc = (s.regionBegun u pc).progress (s.thread u).launch := by
  have hthread := s.regionBegun_thread u pc
  have hchildren : (s.regionBegun u pc).releaseChildren u = s.regionBegun u pc := if_pos (by rw [hthread]; exact hc)
  have htcons : (s.regionBegun u pc).dropTcons u = s.regionBegun u pc := if_pos (by rw [hthread]; exact ht)
  show (((s.regionBegun u pc).releaseChildren u).dropTcons u).progress (s.thread u).launch = _
  rw [hchildren, htcons]

theorem State.progress_launches {n : Nat} : ∀ l ∈ (s.progress n).launches, l.num = n → l.progress = s.cycle ∧ l.level = 0 := by
  intro l hl hn
  obtain ⟨l0, -, rfl⟩ := List.mem_map.1 hl
  dsimp only at hn ⊢
  split
  · exact ⟨rfl, rfl⟩
  · next h0 =>
    rw [if_neg h0] at hn
    exact absurd hn h0

/-- Settles O20: the drain, the region's checkpoint, and the launch's progress. -/
theorem commitPointEffect : Obligations.CommitPointEffect := by
  intro s pc hc ht t
  have et : t = (s.regionBegun s.cur pc).progress s.me.launch := State.commitPoint_eq hc ht pc
  have hme : t.me = s.me.committed pc := et ▸ s.regionBegun_thread s.cur pc
  rw [hme]
  refine ⟨et ▸ rfl, rfl, rfl, rfl, rfl, rfl, rfl, rfl, rfl, rfl, rfl, et ▸ rfl, fun u hu => ?_, fun l hl hn => ?_⟩
  · exact et ▸ State.regionBegun_other pc hu
  · exact State.progress_launches (s := s.regionBegun s.cur pc) l (et ▸ hl) hn

end Sys2Proof.Machine
end

section
/-! ## Fences, taint and the format word (06 R159 to R163; 12 R324, R325; 09 R267) -/

namespace Sys2Proof.Machine
variable {s u : State} {os : List Opnd}

/-! ### Issuing -/

theorem ConsumeFrame.refl (os : List Opnd) (x : Thread) : ConsumeFrame os x x := ⟨fun _ _ => ⟨rfl, rfl⟩, fun _ _ => ⟨rfl, rfl⟩, rfl⟩

theorem KeptRest.of_unread {x y : Thread} (h : y.unread = x.unread) : KeptRest x y := by
  refine ⟨?_, Thread.plain_of_unread h, ?_, ?_, ?_⟩
  · show y.unread.k = x.unread.k; rw [h]
  · show y.unread.run = x.unread.run; rw [h]
  · show y.unread.srseed = x.unread.srseed; rw [h]
  · show y.unread.pc = x.unread.pc; rw [h]

/-- An instruction that has read its sources, and done no more than that, issues. -/
theorem State.retire_frame {len : Nat} (hme : ConsumeFrame os s.me u.me) (hothers : ∀ v, v ≠ s.cur → u.thread v = s.thread v)
    (hcores : ∀ k, u.core k = s.core k) (hout : u.outside = s.outside) :
    RegFrame s (u.retire len) os noReg noReg noReg s.me.run s.me.srseed ∧ Issued s (u.retire len) len := by
  have hcur : u.cur = s.cur := State.cur_of_outside hout
  have hkept : KeptRest s.me u.me := .of_unread hme.rest
  refine ⟨⟨?_, ?_, ?_, ?_, ?_, ?_, fun v hv => ?_, fun k => (State.retire_core _ _ _).trans (congrArg _ (hcores k)), hout⟩, ?_, ?_⟩
  case refine_7 =>
    rw [State.retire_other _ _ _ (hcur ▸ hv), hothers v hv]
    exact .refl _
  all_goals rw [State.me_retire]
  · exact fun r _ => hme.scalars r
  · exact fun r _ => hme.vectors r
  · exact fun r _ => kval_congr hkept.k r
  · exact hkept.plain
  · exact hkept.run
  · exact hkept.srseed
  · exact congrArg (· + BitVec.ofNat 64 len) hkept.pc

/-- A change of the issuing thread that keeps its pc, and its issue. -/
theorem State.updMe_issued {f : Thread → Thread} (hf : (f s.me).pc = s.me.pc) (len : Nat) : Issued s ((s.updMe f).retire len) len := by
  constructor <;> rw [State.me_retire]
  rw [State.me_updMe, hf]

/-! ### FENCE -/

/-- A FENCE drains the buffered stores first: it is one of stores, at device scope or wider, and there are some (06 R163). -/
def State.fenceDrains (s : State) (sc : BitVec 2) (k : BitVec 4) : Prop := (k &&& 12#4) ≠ 0 ∧ 2 ≤ sc.toNat ∧ s.me.rsb ≠ []

theorem State.me_overflowDrain (s : State) :
    (s.overflowDrain s.cur).me = { s.me with rsb := [], storeCount := s.me.storeCount + s.me.rsb.length, pin := true } := by
  show (s.overflowDrain s.cur).thread s.cur = _
  rw [State.overflowDrain, State.thread_updThread_same, State.drainRsb, State.thread_setThread_same]
  rfl

/-- It issues where its condition holds, and else waits (06 R161, R163). -/
def State.fenceEnds (s : State) (sc : BitVec 2) (k : BitVec 4) : State :=
  if s.fenceHolds s.cur k sc.toNat then s.retire 4 else s.stop s.cur (.waiting (.fence k sc))

section fence
variable {sc : BitVec 2} {k : BitVec 4}

theorem State.fenceEnds_holds (hf : s.fenceHolds s.cur k sc.toNat = true) : s.fenceEnds sc k = s.retire 4 := if_pos hf

theorem State.fenceEnds_waits (hf : s.fenceHolds s.cur k sc.toNat = false) :
    s.fenceEnds sc k = s.stop s.cur (.waiting (.fence k sc)) := if_neg (by simp [hf])

theorem execFence_next (he : s.enterInstr .core .plain = .ok {}) : exec (.fence sc k) s = .next
    ((if (k &&& 12#4) ≠ 0 && decide (2 ≤ sc.toNat) && decide (s.me.rsb ≠ []) then s.overflowDrain s.cur else s).fenceEnds sc k) := by
  show execFence sc k s = _
  unfold execFence State.fenceEnds
  simp only [he, bind, Except.bind]
  split <;> split <;> rfl

theorem fence_keeping (he : s.enterInstr .core .plain = .ok {}) (hd : ¬ s.fenceDrains sc k) :
    exec (.fence sc k) s = .next (s.fenceEnds sc k) := by
  rw [execFence_next he, if_neg]
  simpa only [State.fenceDrains, Bool.and_eq_true, decide_eq_true_eq, and_assoc] using hd

theorem fence_draining (he : s.enterInstr .core .plain = .ok {}) (hd : s.fenceDrains sc k) :
    exec (.fence sc k) s = .next ((s.overflowDrain s.cur).fenceEnds sc k) := by
  rw [execFence_next he, if_pos]
  simpa only [State.fenceDrains, Bool.and_eq_true, decide_eq_true_eq, and_assoc] using hd

end fence

/-! ### Taint -/

theorem Thread.clearTaint_scalar (x : Thread) (d : Nat) : (x.clearTaint false d).sval d = x.sval d ∧ (x.clearTaint false d).staint d = 0 ∧
    (∀ r, r ≠ d → (x.clearTaint false d).sval r = x.sval r ∧ (x.clearTaint false d).staint r = x.staint r) := by
  by_cases h0 : d = 0
  · simp [Thread.clearTaint, Thread.staint, h0]
  · refine ⟨by simp [Thread.clearTaint, Thread.sval, h0], by simp [Thread.clearTaint, Thread.staint, h0], fun r hr => ?_⟩
    simp [Thread.clearTaint, Thread.sval, Thread.staint, h0, NMap.get_set_ne _ _ _ _ _ hr]

theorem Thread.clearTaint_vector (x : Thread) (d : Nat) : (x.clearTaint true d).vval d = x.vval d ∧ (x.clearTaint true d).vtaint d = 0 ∧
    (∀ r, r ≠ d → (x.clearTaint true d).vval r = x.vval r ∧ (x.clearTaint true d).vtaint r = x.vtaint r) := by
  refine ⟨by simp [Thread.clearTaint, Thread.vval], by simp [Thread.clearTaint, Thread.vtaint], fun r hr => ?_⟩
  simp [Thread.clearTaint, Thread.vval, Thread.vtaint, NMap.get_set_ne _ _ _ _ _ hr]

/-- What TCLR keeps of its thread: the registers of the other kind, and the pc. -/
theorem Thread.clearTaint_keeps (x : Thread) (d : Nat) : (x.clearTaint false d).v = x.v ∧ (x.clearTaint true d).s = x.s ∧
    ∀ vec, (x.clearTaint vec d).pc = x.pc := by
  refine ⟨?_, rfl, fun vec => ?_⟩ <;> unfold Thread.clearTaint
  · simp only [Bool.false_eq_true, if_false]
    split <;> rfl
  · split
    · rfl
    · split <;> rfl

/-- The word that a FMT leaves pending (09 R267). -/
def fmtWord (sat : Bool) (r : BitVec 3) (d b a : BitVec 5) : BitVec 25 :=
  BitVec.ofNat 25 (a.toNat + 2 ^ 5 * b.toNat + 2 ^ 10 * d.toNat + 2 ^ 15 * r.toNat + (if sat then 2 ^ 18 else 0))

section enters
variable (he : s.enterInstr .core .plain = .ok {})
include he

theorem execTclr_next {vec : Bool} {d : BitVec 5} :
    exec (.tclr vec d) s = .next ((s.updMe (fun x => x.clearTaint vec d.toNat)).retire 4) := by
  show execTclr vec d s = _
  simp only [execTclr, he, bind, Except.bind, settle]

theorem execTjoin_next {w n : Bool} {a d : BitVec 5} (vec : Bool)
    (hs : spilledOf s.me [regOpnd w a n, regOpnd vec d false] = none) :
    exec (.tjoin w vec n a d) s = .next (
      if vec then s.putV [regOpnd w a n, regOpnd vec d false] d (s.vx d) (taintOf s.me [regOpnd w a n, regOpnd vec d false]) 4
      else s.putS [regOpnd w a n, regOpnd vec d false] d (s.x d) 4) := by
  show execTjoin w vec n a d s = _
  simp only [execTjoin, he, State.refilled_ok hs, bind, Except.bind, settle]

theorem execTwait_next {w n : Bool} {a : BitVec 5} (hs : spilledOf s.me [regOpnd w a n] = none)
    (ht : taintOf s.me [regOpnd w a n] = 0) :
    exec (.twait w n a) s = .next ((s.consume s.cur [regOpnd w a n]).retire 4) := by
  show execTwait w n a s = _
  simp only [execTwait, he, State.refilled_ok hs, State.untainted, if_pos ht, bind, Except.bind, settle]

theorem execFmt_next {sat : Bool} {r : BitVec 3} {d b a : BitVec 5} : exec (.fmt sat r d b a) s =
    .next ((s.retire 4).updMe (fun x => { x with pfx := true, fmtpend := fmtWord sat r d b a })) := by
  show execFmt sat r d b a s = _
  simp only [execFmt, he, bind, Except.bind, settle]
  rfl

end enters

/-- The fields of that word are the operands. -/
theorem ofPrefix_fmtWord (sat : Bool) (r : BitVec 3) (d b a : BitVec 5) :
    Mode.ofPrefix (fmtWord sat r d b a) = ⟨a.toNat, b.toNat, d.toNat, r.toNat, sat⟩ := by
  have ha := a.isLt
  have hb := b.isLt
  have hd := d.isLt
  have hr := r.isLt
  have hsat : (fmtWord sat r d b a).getLsbD 18 = sat := by
    rw [fmtWord, BitVec.getLsbD_ofNat, Nat.testBit_eq_decide_div_mod_eq]
    cases sat <;> simp <;> omega
  rw [Mode.ofPrefix, hsat]
  simp only [fmtWord, BitVec.extractLsb'_toNat, BitVec.toNat_ofNat, Nat.shiftRight_eq_div_pow]
  cases sat <;> simp only [Mode.mk.injEq, Bool.false_eq_true, if_false, if_true, and_true] <;> omega

/-- Settles O17: how a FENCE ends with its stores kept and drained, then the taint instructions and FMT. -/
theorem fenceAndTaintResult : Obligations.FenceAndTaintResult := by
  intro s he
  refine ⟨fun sc k => ⟨fun hd hf => ?_, fun hd hf => ?_, fun hd hf => ?_, fun hd hf => ?_⟩, fun d => ⟨?_, ?_⟩,
    fun w n a d => ⟨fun hs => ?_, fun hs => ?_, fun hs ht => ?_⟩, fun sat r d b a => ?_⟩
  · rw [Completes, fence_keeping he hd, State.fenceEnds_holds hf]
    exact ⟨_, rfl, State.retire_frame (.refl [] _) (fun _ _ => rfl) (fun _ => rfl) rfl⟩
  · rw [Completes, fence_draining he hd, State.fenceEnds_holds hf]
    have hme := (s.overflowDrain s.cur).me_retire 4
    rw [State.me_overflowDrain] at hme
    refine ⟨_, rfl, rfl, ?_, ?_, ?_, rfl, ?_, ?_⟩ <;> simp only [hme]
  · rw [Completes, fence_keeping he hd, State.fenceEnds_waits hf]
    have hme := s.me_stop (.waiting (.fence k sc))
    refine ⟨_, rfl, ?_, ?_, ?_, rfl, rfl⟩ <;> simp only [hme]
  · rw [Completes, fence_draining he hd, State.fenceEnds_waits hf]
    have hme := (s.overflowDrain s.cur).me_stop (.waiting (.fence k sc))
    rw [State.me_overflowDrain] at hme
    refine ⟨_, rfl, ?_, ?_, rfl, ?_, ?_, rfl⟩ <;> simp only [hme]
  · obtain ⟨hval, htaint, hothers⟩ := s.me.clearTaint_scalar d.toNat
    obtain ⟨hv, -, hpc⟩ := s.me.clearTaint_keeps d.toNat
    refine ⟨_, execTclr_next he, ?_, ?_, ?_, ?_, rfl, State.updMe_issued (hpc _) 4⟩ <;> rw [State.me_retire, State.me_updMe]
    exacts [hval, htaint, hothers, hv]
  · obtain ⟨hval, htaint, hothers⟩ := s.me.clearTaint_vector d.toNat
    obtain ⟨-, hv, hpc⟩ := s.me.clearTaint_keeps d.toNat
    refine ⟨_, execTclr_next he, ?_, ?_, ?_, ?_, rfl, State.updMe_issued (hpc _) 4⟩ <;> rw [State.me_retire, State.me_updMe]
    exacts [hval, htaint, hothers, hv]
  · exact ⟨_, execTjoin_next he false hs, State.putS_wrote _ _ _ _⟩
  · exact ⟨_, execTjoin_next he true hs, State.putV_wrote _ _ _ _ _⟩
  · exact ⟨_, execTwait_next he hs ht,
      State.retire_frame (s.consume_me _) (s.consume_other _) (fun _ => rfl) (s.consume_outside _)⟩
  · refine ⟨_, execFmt_next he, ?_, ?_, ?_, ?_, ?_, rfl⟩ <;> simp only [State.me_updMe, State.me_retire, ofPrefix_fmtWord]
    rfl

end Sys2Proof.Machine
end

section
/-! ## Accesses of an engine in pieces, and its requests in their FIFOs (06 R164, R172; 13 R364) -/

namespace Sys2Proof.Machine
variable {s t : State} {α : Type}

/-! ### Pieces -/

theorem cutLen_within (ps : List Nat) (off n : Nat) : ∀ q ∈ (cutLen ps off n).1, off ≤ q.1 ∧ q.1 + q.2 ≤ off + n := by
  induction ps generalizing off n with
  | nil => simp [cutLen]
  | cons p ps ih =>
    unfold cutLen
    dsimp only
    split
    · simp
    · next hm =>
      intro q hq
      have hlt : p % n < n := Nat.mod_lt _ (by simp only [Bool.or_eq_true, decide_eq_true_eq, not_or] at hm; omega)
      rcases List.mem_cons.1 hq with rfl | hq
      · dsimp only; omega
      · have := ih _ _ q hq; omega

/-- A byte lies in one piece at most. -/
theorem cutLen_covers_once (x : Nat) (ps : List Nat) (off n : Nat) :
    (cutLen ps off n).1.countP (fun q => decide (q.1 ≤ x) && decide (x < q.1 + q.2)) ≤ 1 := by
  induction ps generalizing off n with
  | nil => exact List.countP_le_length
  | cons p ps ih =>
    unfold cutLen
    dsimp only
    split
    · exact List.countP_le_length
    · rw [List.countP_cons]
      by_cases hx : x < off + p % n
      · rw [List.countP_eq_zero.2 fun q hq => ?_]
        · split <;> omega
        · have := (cutLen_within ps _ _ q hq).1
          simp only [Bool.and_eq_true, decide_eq_true_eq]
          omega
      · rw [if_neg (by simp only [Bool.and_eq_true, decide_eq_true_eq]; omega)]
        exact ih _ _

theorem mixIn_perm (ps : List Nat) (acc xs : List α) : (mixIn ps acc xs).1.Perm (acc ++ xs) := by
  induction xs generalizing ps acc with
  | nil => cases ps <;> simp [mixIn]
  | cons x xs ih =>
    cases ps with
    | nil => exact .refl _
    | cons p ps =>
      unfold mixIn
      refine (ih _ _).trans ?_
      rw [List.append_assoc, List.cons_append]
      refine List.perm_middle.trans (.trans ?_ List.perm_middle.symm)
      rw [← List.append_assoc, List.take_append_drop]

section arrange
variable {size : α → Nat} {piece : α → Nat × Nat → α} {x : α}

/-- One access, in its pieces, in some order. -/
theorem arrange_one (ps : List Nat) : (arrange size piece ps [x]).1.Perm ((cutLen ps 0 (size x)).1.map (piece x)) := by
  refine (mixIn_perm _ _ _).trans ?_
  simp [cutAll]

theorem arrange_whole : (arrange size piece [] [x]).1 = [piece x (0, size x)] := rfl

end arrange

/-! ### The pieces of a completion object -/

theorem wordsToNat_lt (ws : List Word) : wordsToNat ws < 256 ^ (8 * ws.length) := by
  induction ws with
  | nil => decide
  | cons w ws ih =>
    have hw := w.isLt
    have he : 256 ^ (8 * (ws.length + 1)) = 2 ^ 64 * 256 ^ (8 * ws.length) := by
      rw [Nat.mul_succ, Nat.pow_add, Nat.mul_comm]
      rfl
    rw [wordsToNat, List.length_cons, he]
    generalize wordsToNat ws = v at ih ⊢
    generalize 256 ^ (8 * ws.length) = m at ih ⊢
    omega

/-- Bytes of a number, as a piece of the words that hold it. -/
def numPiece (v : Nat) (q : Nat × Nat) : Nat × Nat × Nat := (q.1, q.2, v / 256 ^ q.1 % 256 ^ q.2)

theorem State.arrangeStatus_perm (ws : List Word) :
    (s.arrangeStatus ws).1.Perm ((cutLen s.picks 0 (8 * ws.length)).1.map (numPiece (wordsToNat ws))) := by
  have h := arrange_one (size := fun w : Nat × Nat × Nat => w.2.1)
    (piece := fun w q => (w.1 + q.1, q.2, w.2.2 / 256 ^ q.1 % 256 ^ q.2)) (x := (0, 8 * ws.length, wordsToNat ws)) s.picks
  simp only [Nat.zero_add] at h
  exact h

/-- Each piece lies within the words and holds their bytes. -/
theorem State.arrangeStatus_pieces (ws : List Word) : ∀ p ∈ (s.arrangeStatus ws).1,
    p.1 + p.2.1 ≤ 8 * ws.length ∧ p.2.2 = wordsToNat ws / 256 ^ p.1 % 256 ^ p.2.1 := by
  intro p hp
  obtain ⟨q, hq, rfl⟩ := List.mem_map.1 ((State.arrangeStatus_perm ws).mem_iff.1 hp)
  have := (cutLen_within _ _ _ q hq).2
  exact ⟨by dsimp only [numPiece]; omega, rfl⟩

/-- One piece at most holds the byte of STAT. -/
theorem State.arrangeStatus_stat (ws : List Word) : (s.arrangeStatus ws).1.countP showsStat ≤ 1 := by
  rw [(State.arrangeStatus_perm ws).countP_eq, List.countP_map]
  exact cutLen_covers_once 7 _ _ _

theorem State.arrangeStatus_whole (hp : s.picks = []) (ws : List Word) :
    (s.arrangeStatus ws).1 = [numPiece (wordsToNat ws) (0, 8 * ws.length)] := by
  simp only [State.arrangeStatus, hp, arrange_whole, numPiece, Nat.zero_add]

theorem numPiece_whole (ws : List Word) : numPiece (wordsToNat ws) (0, 8 * ws.length) = (0, 8 * ws.length, wordsToNat ws) := by
  simp only [numPiece, Nat.pow_zero, Nat.div_one, Nat.mod_eq_of_lt (wordsToNat_lt ws)]

theorem mem_statLast {ps : List (Nat × Nat × Nat)} {p : Nat × Nat × Nat} : p ∈ statLast ps ↔ p ∈ ps := by
  simp only [statLast, List.mem_append, List.mem_filter, Bool.not_eq_true']
  cases showsStat p <;> simp

/-- None before the last holds the byte of STAT (06 R175; log entry 25). -/
theorem statLast_dropLast {ps : List (Nat × Nat × Nat)} (h : ps.countP showsStat ≤ 1) :
    ∀ p ∈ (statLast ps).dropLast, showsStat p = false := by
  intro p hp
  rw [List.countP_eq_length_filter] at h
  have hmem : p ∈ ps.filter (fun p => !showsStat p) := by
    unfold statLast at hp
    match e : ps.filter showsStat with
    | [] =>
      rw [e, List.append_nil] at hp
      exact List.dropLast_subset _ hp
    | [b] => rwa [e, List.dropLast_concat] at hp
    | a :: b :: l =>
      rw [e, List.length_cons, List.length_cons] at h
      omega
  simpa using (List.mem_filter.1 hmem).2

/-! ### Requests of an engine -/

theorem joinRev_perm (same : Req → Bool) (r : Req) (n : Nat) (l : List Req) : (joinRev same r n l).Perm (r :: l) := by
  induction l generalizing n with
  | nil => cases n <;> exact .refl _
  | cons x l ih =>
    cases n with
    | zero => exact .refl _
    | succ n => exact ((ih _).cons x).trans (.swap _ _ _)

theorem joinRev_reverse_perm (same : Req → Bool) (r : Req) (n : Nat) (l : List Req) :
    (joinRev same r n l.reverse).reverse.Perm (r :: l) :=
  (List.reverse_perm _).trans ((joinRev_perm same r n _).trans ((List.reverse_perm l).cons r))

/-- The requests `rs` have entered the FIFOs of `s`, in some order, and memory and engines are as they were. -/
structure Joined (s t : State) (rs : List Req) : Prop where
  mem : t.mem = s.mem
  engines : t.engines = s.engines
  fifo : t.fifo.Perm (s.fifo ++ rs)

theorem State.join_joined (plain : Bool) (rs : List Req) : Joined s (s.join plain rs) rs := by
  induction rs generalizing s with
  | nil => exact ⟨rfl, rfl, by simp [State.join]⟩
  | cons r rs ih =>
    unfold State.join
    dsimp only
    split
    · exact ⟨ih.mem, ih.engines, ih.fifo.trans (((joinRev_reverse_perm _ r _ _).append_right rs).trans List.perm_middle.symm)⟩
    · exact ⟨ih.mem, ih.engines, ih.fifo.trans (by simp)⟩

/-- Without picks they stand as they are. -/
theorem State.join_fifo (hp : s.picks = []) (plain : Bool) (rs : List Req) : (s.join plain rs).fifo = s.fifo ++ rs := by
  induction rs generalizing s with
  | nil => simp [State.join]
  | cons r rs ih =>
    unfold State.join
    dsimp only
    split
    · next e => exact absurd (hp.symm.trans e) (by simp)
    · exact (ih (s := { s with fifo := s.fifo ++ [r] }) hp).trans (by simp)

end Sys2Proof.Machine
end

section
/-! ## What the steps of an engine keep (06 R173, R174; 13 R363, R364) -/

namespace Sys2Proof.Machine
variable {s t : State} {g id k e : Nat} {c : Cmd}

/-! ### Commands -/

theorem State.engine_congr (h : t.engines = s.engines) (g : Nat) : t.engine g = s.engine g := by rw [State.engine, h, State.engine]

theorem State.cmds_updCmd (s : State) (g id : Nat) (f : Cmd → Cmd) :
    ((s.updCmd g id f).engine g).cmds = (s.engine g).cmds.map (fun x => if x.id = id then f x else x) :=
  congrArg Engine.cmds (State.engine_updEngine_same ..)

theorem State.cmd_id (h : s.cmd g id = some c) : c.id = id := by simpa using List.find?_some h

theorem State.cmdInFifo_false : s.cmdInFifo g id = false ↔ ∀ r ∈ s.fifo, r.src ≠ .engine g id := by
  simp [State.cmdInFifo]

/-! ### A command that goes on writes no memory itself -/

theorem State.cmdReads_mem : (s.cmdReads g c).mem = s.mem := by
  unfold State.cmdReads
  dsimp only
  split
  · rfl
  · exact (State.join_joined _ _).mem

theorem State.chunkDone_mem : (s.chunkDone g id).mem = s.mem := by
  unfold State.chunkDone
  split
  · rfl
  · split <;> rfl

theorem State.cmdWrites_mem (ws : List (Word × Nat × Nat)) : (s.cmdWrites g id ws).mem = s.mem := by
  induction ws generalizing s with
  | nil => exact State.chunkDone_mem
  | cons w ws ih =>
    unfold State.cmdWrites
    split
    · rfl
    · split
      · rfl
      · exact ih.trans (State.join_joined _ _).mem

theorem State.cmdGo_mem : (s.cmdGo g id).mem = s.mem := by
  unfold State.cmdGo
  split
  · rfl
  · split
    · rfl
    · split
      · rfl
      · split
        · exact State.cmdReads_mem
        · rfl
      · split
        · exact State.cmdReads_mem
        · rfl
      · exact State.cmdWrites_mem _

theorem State.rewrite_mem : (s.rewrite g c).mem = s.mem := State.cmdGo_mem

/-! ### The progress record (13 R364) -/

theorem locSpm_add (k a b : Nat) : locSpm k (a + b) = locSpm k a + b := (Nat.add_assoc ..).symm

/-- The STORE of a piece of a command's completion object. -/
def Cmd.objStore (c : Cmd) (g : Nat) (p : Nat × Nat × Nat) : Req :=
  let loc := locSpm c.core (16 * (Desc.ofWords c.desc).cobj) + p.1
  { src := .engine g c.id, place := { loc := loc, home := .core c.core },
    kind := .store (byteMask (loc % 128) p.2.1) (placeData (loc % 128) p.2.2) }

/-- The words of a progress record. -/
def Cmd.progressWords (c : Cmd) (g : Nat) : List Word := [cplWord0 0 g c.chunk, cplWord1 c.srs c.poff]

/-- The STOREs of a progress record, in the pieces that the environment picks. -/
def State.progressStores (s : State) (g : Nat) (c : Cmd) : List Req := (s.arrangeStatus (c.progressWords g)).1.map (c.objStore g)

theorem State.progressRecord_eq : s.progressRecord g c =
    ((s.arrangeStatus (c.progressWords g)).2.join (decide ((Desc.ofWords c.desc).pk = 0)) (s.progressStores g c)).updCmd g c.id
      (fun x => { x with unsettled := x.unsettled + (s.progressStores g c).length }) := by
  simp only [State.progressRecord, State.progressStores, Cmd.progressWords, locSpm_add]
  rfl

theorem State.progressRecord_mem : (s.progressRecord g c).mem = s.mem := by
  rw [State.progressRecord_eq]
  exact (State.join_joined _ _).mem

theorem State.progressRecord_fifo : (s.progressRecord g c).fifo.Perm (s.fifo ++ s.progressStores g c) := by
  rw [State.progressRecord_eq]
  exact (State.join_joined _ _).fifo

theorem State.progressRecord_cmds : ((s.progressRecord g c).engine g).cmds = (s.engine g).cmds.map
    (fun x => if x.id = c.id then { x with unsettled := x.unsettled + (s.progressStores g c).length } else x) := by
  rw [State.progressRecord_eq, State.cmds_updCmd, State.engine_congr (State.join_joined _ _).engines]
  rfl

/-- Each stores a piece of the record's two words. -/
theorem State.progressStores_piece : ∀ r ∈ s.progressStores g c,
    ∃ o n, o + n ≤ 16 ∧ r = c.objStore g (numPiece (wordsToNat (c.progressWords g)) (o, n)) := by
  intro r hr
  obtain ⟨p, hp, rfl⟩ := List.mem_map.1 hr
  obtain ⟨hlen, hval⟩ := State.arrangeStatus_pieces _ p hp
  exact ⟨p.1, p.2.1, hlen, by rw [numPiece, ← hval]⟩

/-- Without picks there is one. -/
theorem State.progressStores_whole (hp : s.picks = []) :
    s.progressStores g c = [c.objStore g (numPiece (wordsToNat (c.progressWords g)) (0, 16))] := by
  rw [State.progressStores, State.arrangeStatus_whole hp]
  rfl

theorem State.progressRecord_whole (hp : s.picks = []) :
    (s.progressRecord g c).fifo = s.fifo ++ [c.objStore g (numPiece (wordsToNat (c.progressWords g)) (0, 16))] := by
  rw [State.progressRecord_eq, State.progressStores_whole hp]
  refine State.join_fifo ?_ _ _
  rw [State.arrangeStatus, hp]
  rfl

/-! ### The completion object is written at its home -/

/-- From `s` to `t` no command, no thread and no launch has changed. -/
structure KeepsCommands (s t : State) : Prop where
  engines : t.engines = s.engines
  threads : t.threads = s.threads
  launches : t.launches = s.launches

namespace KeepsCommands
variable {r : State}

theorem trans (h : KeepsCommands r s) (h' : KeepsCommands s t) : KeepsCommands r t :=
  ⟨h'.engines.trans h.engines, h'.threads.trans h.threads, h'.launches.trans h.launches⟩

theorem setTile {x : Tile} : KeepsCommands s (s.setTile k e x) := ⟨rfl, rfl, rfl⟩

theorem threadsOf (h : KeepsCommands s t) (n : Nat) : t.threadsOf n = s.threadsOf n := by
  rw [State.threadsOf, h.threads, State.threadsOf]

end KeepsCommands

theorem State.writeHome_core_keeps {line : Nat} {mask : BitVec 128} {data : BitVec 1024} {alloc : Bool} {pair : Option (Nat × Nat)}
    {keep : Option Nat} : KeepsCommands s (s.writeHome (.core k) line mask data alloc pair keep) := by
  unfold State.writeHome
  dsimp only
  split <;> exact ⟨rfl, rfl, rfl⟩

/-- As an equation of functions: of one with its arguments the kernel would evaluate which bank the location lies in. -/
theorem State.touchBank_def : @State.touchBank = fun s k loc => match bankOf k loc with
    | some b => if isTscCore k then s else s.updCore k (fun c => { c with touched := NMap.set 0 c.touched b s.cycle })
    | none => s := by
  delta State.touchBank
  rfl

theorem State.touchBank_cases (s : State) (k loc : Nat) : s.touchBank k loc = s ∨
    ∃ f : Core → Core, s.touchBank k loc = s.updCore k f ∧ ∀ x, (f x).tiles = x.tiles := by
  rw [State.touchBank_def]
  dsimp only
  generalize bankOf k loc = o
  cases o with
  | none => exact .inl rfl
  | some b =>
    dsimp only
    split
    · exact .inl rfl
    · exact .inr ⟨_, rfl, fun _ => rfl⟩

section bank
variable {loc : Nat}

theorem State.touchBank_keeps : KeepsCommands s (s.touchBank k loc) := by
  rcases s.touchBank_cases k loc with h | ⟨f, h, -⟩ <;> rw [h]
  exacts [⟨rfl, rfl, rfl⟩, ⟨rfl, rfl, rfl⟩]

theorem State.touchBank_mem : (s.touchBank k loc).mem = s.mem := by
  rcases s.touchBank_cases k loc with h | ⟨f, h, -⟩ <;> rw [h]
  rfl

theorem State.touchBank_tile (j e : Nat) : (s.touchBank k loc).tile j e = s.tile j e := by
  rcases s.touchBank_cases k loc with h | ⟨f, h, hf⟩ <;> rw [h]
  rw [State.tile, State.core_updCore]
  split
  · next hj => rw [hf, hj, State.tile]
  · rfl

end bank

theorem State.tile_congr (h : t.cores = s.cores) (k e : Nat) : t.tile k e = s.tile k e := by
  rw [State.tile, State.core, h, State.tile, State.core]

section piece
variable {p : Nat × Nat × Nat}

theorem State.spmPiece_keeps : KeepsCommands s (s.spmPiece k p) := State.writeHome_core_keeps.trans State.touchBank_keeps

theorem State.spmPiece_tile (j e : Nat) : (s.spmPiece k p).tile j e = s.tile j e := by
  rw [State.spmPiece, State.touchBank_tile]
  exact State.tile_congr (SendsInvs.writeHome.cores.trans (State.writeLine_cores ..)) j e

/-- The bytes of a piece that lies in its line are written, and no others. -/
theorem State.spmPiece_byte (hp : locSpm k p.1 % 128 + p.2.1 ≤ 128) (a : Nat) :
    (s.spmPiece k p).byte a = (s.write (locSpm k p.1) p.2.1 p.2.2).byte a :=
  (State.byte_congr (State.touchBank_mem.trans SendsInvs.writeHome.mem) a).trans (State.byte_writeLine_placed hp _ a)

end piece

/-! ### The end of a TFILL's tile (02 R76; 13 R343) -/

theorem State.tile_setTile_same (x : Tile) : (s.setTile k e x).tile k e = x := by
  rw [State.tile, State.setTile, State.core_updCore_same, NMap.get_set_same]

theorem State.tileEvent_release (hx : (s.tile k e).op = .release) :
    KeepsCommands s (s.tileEvent k e) ∧ (s.tileEvent k e).mem = s.mem := by
  unfold State.tileEvent
  dsimp only
  split
  · exact ⟨⟨rfl, rfl, rfl⟩, rfl⟩
  · rw [hx]
    exact ⟨⟨rfl, rfl, rfl⟩, rfl⟩

theorem State.tileRelease_keeps : KeepsCommands s (s.tileRelease k e) ∧ (s.tileRelease k e).mem = s.mem := by
  unfold State.tileRelease
  dsimp only
  split
  · split <;> exact ⟨⟨rfl, rfl, rfl⟩, rfl⟩
  · split
    · obtain ⟨hkeeps, hmem⟩ := State.tileEvent_release
        (s := s.setTile k e { s.tile k e with op := .release }) (k := k) (e := e) (by rw [State.tile_setTile_same])
      exact ⟨KeepsCommands.setTile.trans hkeeps, hmem⟩
    · exact ⟨⟨rfl, rfl, rfl⟩, rfl⟩
  · exact ⟨⟨rfl, rfl, rfl⟩, rfl⟩

/-- The tile's contributions are counted where its fill is done, and nothing else happens. -/
theorem State.tileFilled_keeps {b : Bool} {cs : List (Nat × Nat × Nat)} :
    KeepsCommands s (if b then s.hearthTile k cs true else s) ∧ (if b then s.hearthTile k cs true else s).mem = s.mem := by
  cases b <;> exact ⟨⟨rfl, rfl, rfl⟩, rfl⟩

theorem State.tileEnd_keeps {done : Bool} {cs : List (Nat × Nat × Nat)} :
    KeepsCommands s (s.tileEnd k e done cs) ∧ (s.tileEnd k e done cs).mem = s.mem := by
  unfold State.tileEnd
  extract_lets x ready s1 y
  have h1 : KeepsCommands s s1 ∧ s1.mem = s.mem := State.tileFilled_keeps
  obtain ⟨hkeeps, hmem⟩ := h1
  split
  · obtain ⟨hkeeps', hmem'⟩ := State.tileRelease_keeps (s := s1.setTile k e { y with relWait := false }) (k := k) (e := e)
    exact ⟨hkeeps.trans (KeepsCommands.setTile.trans hkeeps'), hmem'.trans hmem⟩
  · exact ⟨hkeeps.trans ⟨rfl, rfl, rfl⟩, hmem⟩

theorem State.tileEnd_state {done : Bool} {cs : List (Nat × Nat × Nat)} (hf : (s.tile k e).state = .filling)
    (hr : (s.tile k e).relWait = false) : ((s.tileEnd k e done cs).tile k e).state = if done then .ready else .empty := by
  unfold State.tileEnd
  dsimp only
  rw [if_neg (by simp [hr]), State.tile_setTile_same, hf]
  cases done <;> rfl

/-! ### The end of a command -/

/-- A launch with threads left does not end. -/
theorem State.endIfOver_of_threads {n : Nat} (h : s.threadsOf n ≠ []) : s.endIfOver n = s := by
  unfold State.endIfOver
  split
  · rfl
  · exact if_neg (by simp [h])

/-- The engine has let a command go. -/
def State.cmdGone (s : State) (g : Nat) (c : Cmd) : State :=
  s.updEngine g (fun e => { cmds := e.cmds.filter (fun x => x.id ≠ c.id) })

/-- What the end of a command makes of the tile that it fills or drains. -/
def State.tileOver (s : State) (c : Cmd) (stat : Nat) : State :=
  match c.fill, c.drain with
  | some e, _ => s.tileEnd c.core e (decide (stat = 1)) ((Desc.ofWords c.desc).contribs c.asid c.poff)
  | none, some e => s.tileEnd c.core e (decide (stat = 1)) []
  | none, none => s

theorem State.tileOver_keeps {stat : Nat} : KeepsCommands s (s.tileOver c stat) ∧ (s.tileOver c stat).mem = s.mem := by
  unfold State.tileOver
  split
  · exact State.tileEnd_keeps
  · exact State.tileEnd_keeps
  · exact ⟨⟨rfl, rfl, rfl⟩, rfl⟩

/-- A command of a launch with threads left ends: it leaves its engine, and the tile that it fills becomes ready or empty. -/
theorem State.cmdEnd_ends {stat : Nat} (ht : s.threadsOf c.launch ≠ []) : (s.cmdEnd g c stat).mem = s.mem ∧
    ((s.cmdEnd g c stat).engine g).cmds = (s.engine g).cmds.filter (fun x => x.id ≠ c.id) ∧
    (∀ e, c.fill = some e → (s.tile c.core e).state = .filling → (s.tile c.core e).relWait = false →
      ((s.cmdEnd g c stat).tile c.core e).state = if stat = 1 then .ready else .empty) := by
  obtain ⟨hkeeps, hmem⟩ := State.tileOver_keeps (s := s.cmdGone g c) (c := c) (stat := stat)
  have hend : s.cmdEnd g c stat = (s.cmdGone g c).tileOver c stat :=
    State.endIfOver_of_threads (ne_of_eq_of_ne (hkeeps.threadsOf _) ht)
  rw [hend]
  refine ⟨hmem, ?_, fun e he hf hr => ?_⟩
  · rw [State.engine_congr hkeeps.engines, State.cmdGone, State.engine_updEngine_same]
  · unfold State.tileOver
    simp only [he]
    rw [State.tileEnd_state (s := s.cmdGone g c) hf hr]
    simp only [decide_eq_true_eq]

end Sys2Proof.Machine
end

section
/-! ## The steps of a copy engine (06 R173, R174; 13 R362 to R364; 02 R67; 17 R422) -/

namespace Sys2Proof.Machine
variable {s t : State} {g id : Nat} {h : Home} {m : Msg} {c : Cmd}

/-! ### Starts -/

theorem engineCommandStart_next (hf : (s.engine g).cmds.find? (fun c => c.entered && !c.running) = some c)
    (hr : ∀ x ∈ (s.engine g).cmds, x.running = true → x.over = true ∧ ∀ r ∈ s.fifo, r.src ≠ .engine g x.id) :
    exec (.engineCommandStart g) s = .next (s.updCmd g c.id (fun x => { x with running := true })) := by
  show execEngineCommandStart g s = _
  unfold execEngineCommandStart
  simp only [hf]
  refine if_pos (List.all_eq_true.2 fun x hx => ?_)
  obtain ⟨hmem, hrun⟩ := List.mem_filter.1 hx
  obtain ⟨hover, hfifo⟩ := hr x hmem hrun
  simp [hover, State.cmdInFifo_false.2 hfifo]

section chunk
variable (hf : (s.engine g).cmds.find? Cmd.mayStart = some c)
include hf

theorem engineChunkStart_cancelled (hc : c.cancelled = true) : exec (.engineChunkStart g) s =
    .next (if c.cancelAt = s.cycle + 1 then s else s.updCmd g c.id (fun x => { x with stat := 5 })) := by
  show execEngineChunkStart g s = _
  unfold execEngineChunkStart State.justCancelled
  simp only [hf, hc, Bool.true_and, decide_eq_true_eq, if_true]
  split <;> rfl

theorem engineChunkStart_next (hc : c.cancelled = false) : exec (.engineChunkStart g) s =
    .next (if s.beyondSize c then s.notStarted g c
      else (((s.progressRecord g c).updCmd g c.id (fun x => { x.startChunk with
        size := (s.cluster c.cluster).spw * 2 ^ 20 })).cmdGo g c.id).maybeReads g c.id) := by
  show execEngineChunkStart g s = _
  unfold execEngineChunkStart State.justCancelled
  simp only [hf, hc, Bool.false_and, Bool.false_eq_true, if_false]
  split <;> rfl

end chunk

/-! ### Messages -/

section message
variable (hm : s.headMsg (.engine g) h = some m)
include hm

theorem engineAck_next {mask : BitVec 128} {data : BitVec 1024} {flag : Bool} (hk : m.kind = .ack (.engine g id) mask data flag) :
    exec (.engineAck g h) s = .next ((s.dropMsg m).updCmd g id (fun c =>
      if flag then { c with unsettled := c.unsettled - 1 } else { c with awaiting := c.awaiting ++ [(h, m.line)] })) := by
  show execEngineAck g h s = _
  simp only [execEngineAck, hm, hk]

/-- A SETTLE counts every write of its line that awaits it. -/
theorem engineSettle_next (hk : m.kind = .settle) : exec (.engineSettle g h) s =
    .next ((s.dropMsg m).updEngine g (fun e => { cmds := e.cmds.map (fun c => { c with
      awaiting := c.awaiting.filter (fun p => p ≠ (h, m.line)), unsettled := c.unsettled - c.awaiting.count (h, m.line) }) })) := by
  show execEngineSettle g h s = _
  simp only [execEngineSettle, hm, hk, List.count_eq_countP, List.countP_eq_length_filter, beq_eq_decide]

end message

/-! ### The final status -/

/-- A command may take its final status: every data write has settled, and its core can be reached (13 R364). -/
structure State.Finishing (s : State) (g id : Nat) (c : Cmd) : Prop where
  cmd : s.cmd g id = some c
  running : c.running = true
  allDone : c.over = true
  unsettled : c.unsettled = 0
  fifo : ∀ r ∈ s.fifo, r.src ≠ .engine g id
  awake : s.spmAwake c.core (16 * (Desc.ofWords c.desc).cobj) = true

/-- The next piece of the final status is written. -/
def State.finalPiece (s : State) (g : Nat) (c : Cmd) : State :=
  match (s.finalOf g c).1.2 with
  | [] => (s.finalOf g c).2
  | p :: _ => (s.finalOf g c).2.spmPiece c.core (16 * (Desc.ofWords c.desc).cobj + p.1, p.2)

section final
variable (hf : s.Finishing g id c)
include hf

theorem engineFinalStatus_next : exec (.engineFinalStatus g id) s = .next (
    if s.undone c ≠ [] then s.rewrite g c
    else if (s.finalOf g c).1.2.drop 1 = [] then (s.finalPiece g c).cmdEnd g c (s.finalOf g c).1.1
    else (s.finalPiece g c).updCmd g id (fun x => { x with final := some ((s.finalOf g c).1.1, (s.finalOf g c).1.2.drop 1) })) := by
  have hready : (c.running && c.over && decide (c.unsettled = 0) && !s.cmdInFifo g id) = true := by
    simp [hf.running, hf.allDone, hf.unsettled, State.cmdInFifo_false.2 hf.fifo]
  show execEngineFinalStatus g id s = _
  unfold execEngineFinalStatus
  simp only [hf.cmd, hready, hf.awake, Bool.not_true, Bool.false_eq_true, if_false]
  split
  · rfl
  · split <;> rfl

theorem engineFinalStatus_rewrites (hu : s.undone c ≠ []) : exec (.engineFinalStatus g id) s = .next (s.rewrite g c) := by
  rw [engineFinalStatus_next hf, if_pos hu]

theorem engineFinalStatus_more {p q : Nat × Nat × Nat} {ps : List (Nat × Nat × Nat)} (hu : s.undone c = [])
    (hp : (s.finalOf g c).1.2 = p :: q :: ps) : exec (.engineFinalStatus g id) s =
      .next ((s.finalPiece g c).updCmd g id (fun x => { x with final := some ((s.finalOf g c).1.1, q :: ps) })) := by
  rw [engineFinalStatus_next hf, if_neg (by simp [hu]), hp, if_neg (by simp)]
  rfl

theorem engineFinalStatus_last {p : Nat × Nat × Nat} (hu : s.undone c = []) (hp : (s.finalOf g c).1.2 = [p]) :
    exec (.engineFinalStatus g id) s = .next ((s.finalPiece g c).cmdEnd g c (s.finalOf g c).1.1) := by
  rw [engineFinalStatus_next hf, if_neg (by simp [hu]), hp, if_pos (by simp)]

end final

/-- Deciding the pieces uses up picks and changes nothing else. -/
theorem State.finalOf_picks : ∃ ps, (s.finalOf g c).2 = { s with picks := ps } := by
  unfold State.finalOf
  split
  · exact ⟨_, rfl⟩
  · exact ⟨_, rfl⟩

section piece
variable {p : Nat × Nat × Nat} {ps : List (Nat × Nat × Nat)} (hp : (s.finalOf g c).1.2 = p :: ps)
include hp

theorem State.finalPiece_keeps : KeepsCommands s (s.finalPiece g c) := by
  obtain ⟨picks, hpicks⟩ := State.finalOf_picks (s := s) (g := g) (c := c)
  have hsame : KeepsCommands s { s with picks := picks } := ⟨rfl, rfl, rfl⟩
  unfold State.finalPiece
  rw [hp, hpicks]
  exact hsame.trans State.spmPiece_keeps

theorem State.finalPiece_tile (j e : Nat) : (s.finalPiece g c).tile j e = s.tile j e := by
  obtain ⟨picks, hpicks⟩ := State.finalOf_picks (s := s) (g := g) (c := c)
  unfold State.finalPiece
  rw [hp, hpicks]
  exact State.spmPiece_tile (s := { s with picks := picks }) j e

/-- A piece of the two words is written to the completion object, which lies in one line, and nothing beside it. -/
theorem State.finalPiece_byte (hlen : p.1 + p.2.1 ≤ 16) (a : Nat) : (s.finalPiece g c).byte a =
    (s.write (locSpm c.core (16 * (Desc.ofWords c.desc).cobj) + p.1) p.2.1 p.2.2).byte a := by
  obtain ⟨picks, hpicks⟩ := State.finalOf_picks (s := s) (g := g) (c := c)
  have hline : locSpm c.core (16 * (Desc.ofWords c.desc).cobj + p.1) % 128 + p.2.1 ≤ 128 := by
    unfold locSpm; omega
  unfold State.finalPiece
  rw [hp, hpicks, ← locSpm_add]
  exact State.spmPiece_byte (s := { s with picks := picks }) (p := (16 * (Desc.ofWords c.desc).cobj + p.1, p.2)) hline a

end piece

/-- A write of a value's bytes, as the bytes that memory then holds. -/
theorem State.byte_of_write {loc n v : Nat} (hb : ∀ a, t.byte a = (s.write loc n v).byte a) :
    (∀ i, i < n → (t.byte (loc + i)).toNat = v / 256 ^ i % 256) ∧ ∀ x, x < loc ∨ loc + n ≤ x → t.byte x = s.byte x := by
  refine ⟨fun i hi => ?_, fun x hx => ?_⟩
  · rw [hb, State.byte_write _ _ _ _ _ hi, BitVec.toNat_ofNat]
  · rw [hb, State.byte_write_other _ _ _ _ _ hx]

/-! ### The pieces of the final status -/

/-- The words of a command's final status (13 R364). -/
def State.finalWords (s : State) (g : Nat) (c : Cmd) : List Word :=
  cplWord0 (s.reached c) g c.chunk :: (if (Desc.ofWords c.desc).pk = 1 ∧ s.reached c = 1 then [cplWord1 c.srs c.poff] else [])

theorem State.reached_eq : s.reached c =
    if c.stat ≠ 0 then c.stat else if c.cancelled = true ∧ c.cancelAt ≠ s.cycle + 1 then 5 else 1 := by
  unfold State.reached State.justCancelled
  cases c.cancelled <;> simp

theorem State.finalOf_decided (hn : c.final = none) :
    (s.finalOf g c).1 = (s.reached c, statLast (s.arrangeStatus (s.finalWords g c)).1) := by
  unfold State.finalOf State.finalWords
  simp only [hn, Bool.and_eq_true, decide_eq_true_eq]
  split <;> rfl

/-- The pieces of the words in the order in which they are written. -/
theorem statLast_pieces {ws : List Word} : (s.picks = [] → statLast (s.arrangeStatus ws).1 = [(0, 8 * ws.length, wordsToNat ws)]) ∧
    (∀ p ∈ (statLast (s.arrangeStatus ws).1).dropLast, 7 < p.1 ∨ p.1 + p.2.1 ≤ 7) ∧
    ∀ p ∈ statLast (s.arrangeStatus ws).1, p.1 + p.2.1 ≤ 8 * ws.length ∧ p.2.2 = wordsToNat ws / 256 ^ p.1 % 256 ^ p.2.1 := by
  refine ⟨fun hp => ?_, fun p hp => ?_, fun p hp => State.arrangeStatus_pieces ws p (mem_statLast.1 hp)⟩
  · rw [State.arrangeStatus_whole hp, numPiece_whole, statLast]
    cases e : showsStat (0, 8 * ws.length, wordsToNat ws) <;> simp [e]
  · have := statLast_dropLast (State.arrangeStatus_stat ws) p hp
    simp only [showsStat, Bool.and_eq_false_iff, decide_eq_false_iff_not] at this
    omega

/-- Settles O34: the starts of commands and chunks, the messages an engine receives, and the final status. -/
theorem engineResult : Obligations.EngineResult := by
  intro s g id h c cmds D obj became
  refine ⟨fun hf hr => ?_, fun hn => ?_, fun n go => ⟨fun hb => ?_, fun hb => ?_⟩, ?_, fun hf => ⟨fun hc ha => ?_, fun hc ha => ?_,
    fun hc hb => ?_, fun hc hb => ?_⟩, fun m hm => ⟨?_, fun mask data flag hk => ?_, fun hk => ?_⟩, ?_⟩
  · exact ⟨_, engineCommandStart_next hf hr, rfl, State.cmds_updCmd ..⟩
  · show execEngineChunkStart g s = _
    simp only [execEngineChunkStart, show (s.engine g).cmds.find? Cmd.mayStart = none from hn]
  · exact if_neg (by simp [hb])
  · intro t
    have ht : t = s.notStarted g c := if_pos hb
    rw [ht]
    exact ⟨rfl, rfl, State.cmds_updCmd ..⟩
  · intro v piece t
    have hpiece : ∀ o n, c.objStore g (numPiece v (o, n)) = piece o n := fun _ _ => rfl
    refine ⟨State.progressRecord_mem, fun r hr => ?_, fun r hr => ?_, fun hp => ⟨?_, ?_⟩⟩
    · exact State.progressRecord_fifo.mem_iff.2 (List.mem_append_left _ hr)
    · refine (List.mem_append.1 (State.progressRecord_fifo.mem_iff.1 hr)).imp_right fun hr => ?_
      exact State.progressStores_piece r hr
    · exact State.progressRecord_whole hp
    · have hcmds := State.progressRecord_cmds (s := s) (g := g) (c := c)
      rwa [State.progressStores_whole hp] at hcmds
  · rw [engineChunkStart_cancelled hf hc, if_pos ha]
  · rw [Completes, engineChunkStart_cancelled hf hc, if_neg ha]
    exact ⟨_, rfl, rfl, State.cmds_updCmd ..⟩
  · rw [Completes, engineChunkStart_next hf hc, if_pos hb]
    exact ⟨_, rfl, rfl, State.cmds_updCmd ..⟩
  · rw [engineChunkStart_next hf hc, if_neg (by simp [hb])]
  · intro tag part p n v line flag hk
    show execEngineReply g h s = _
    simp only [execEngineReply, hm, hk]
  · exact ⟨_, engineAck_next hm hk, rfl, rfl, State.cmds_updCmd ..⟩
  · exact ⟨_, engineSettle_next hm hk, rfl, rfl, congrArg Engine.cmds (State.engine_updEngine_same ..)⟩
  · intro hcmd hrun hover hun hfifo hthreads hawake
    have hf : s.Finishing g id c := ⟨hcmd, hrun, hover, hun, hfifo, hawake⟩
    have hid : c.id = id := State.cmd_id hcmd
    refine ⟨fun hu => ⟨_, engineFinalStatus_rewrites hf hu, rfl, State.rewrite_mem⟩, fun hu => ?_⟩
    intro stat ws f wrote
    refine ⟨fun hn => ?_, fun p q ps hp hlen => ?_, fun p hp hlen => ?_⟩
    · have hstat : s.reached c = stat := State.reached_eq
      have hws : s.finalWords g c = ws := by rw [State.finalWords, hstat]
      have hdec : f = (stat, statLast (s.arrangeStatus ws).1) := by rw [← hstat, ← hws]; exact State.finalOf_decided hn
      rw [hdec]
      exact ⟨rfl, statLast_pieces⟩
    · have hkeeps := State.finalPiece_keeps hp
      refine ⟨_, engineFinalStatus_more hf hu hp, State.byte_of_write (State.finalPiece_byte hp hlen), ?_⟩
      exact (State.cmds_updCmd ..).trans (by rw [State.engine_congr hkeeps.engines])
    · have hkeeps := State.finalPiece_keeps hp
      have htile := State.finalPiece_tile hp c.core
      obtain ⟨hmem, hcmds, hfill⟩ := State.cmdEnd_ends (s := s.finalPiece g c) (g := g) (stat := f.1)
        (ne_of_eq_of_ne (hkeeps.threadsOf _) hthreads)
      refine ⟨_, engineFinalStatus_last hf hu hp, ?_, ?_, fun e he hs hr => ?_⟩
      · exact State.byte_of_write fun a => (State.byte_congr hmem a).trans (State.finalPiece_byte hp hlen a)
      · rw [hcmds, State.engine_congr hkeeps.engines, hid]
      · exact hfill e he (by rwa [htile]) (by rwa [htile])

end Sys2Proof.Machine
end

section
/-!
## CXL.io where a cluster has more than 16 ways of memory (02 R63; 06 R182)

Cluster memory has at most 16 ways, of 1 MiB each, and a service core takes its requests below that bound, so that a shrink after a
request's arrival does not take its place away. The obligation speaks of every state, one of a cluster with 17 ways too: a request
beyond the sixteenth arrives there, as its offset lies below the size, and its turn then finds no place for it. Where no cluster has more
than 16 ways the clauses of CXL.io hold.
-/

namespace Sys2Proof.Machine
variable {r s t : State} {h : Home} {off n q line : Nat} {p : Place} {v : BitVec 512} {w : Bool} {x : IoReq} {xs : List IoReq}

/-- No cluster has more than the 16 ways of memory that a write to CLPART can give it (02 R63). -/
def State.WaysInRange (s : State) : Prop := ∀ cl, (s.cluster cl).spw ≤ 16

/-- The place of a request as it arrives is its place when its turn comes. -/
theorem State.ioPlaceIn_of_ioPlace (hw : s.WaysInRange) (hp : s.ioPlace h off = some p) : s.ioPlaceIn (2 ^ 24) h off = some p := by
  unfold State.ioPlace at hp
  cases h with
  | expander cl =>
    have hcl := hw cl
    simp only [State.ioPlaceIn] at hp ⊢
    split at hp
    · next hlt =>
      rw [if_pos ?_, hp]
      simp only [Bool.and_eq_true, decide_eq_true_eq] at hlt ⊢
      omega
    · cases hp
  | slice | core | stack | io => exact hp

/-! ### Arrival and turn -/

/-- A request of CXL.io as the event names it. -/
def ioRequest (w : Bool) (h : Home) (off n : Nat) (v : BitVec 512) : IoReq := ⟨h, off, n, if w then some v else none⟩

/-- The requests that stand at a service core. -/
def State.setIoq (s : State) (q : Nat) (xs : List IoReq) : State := { s with ioq := NMap.set [] s.ioq q xs }

theorem State.setIoq_get : NMap.get [] (s.setIoq q xs).ioq q = xs := NMap.get_set_same ..

/-- A home is as ready with other requests. -/
theorem State.homeReady_setIoq : (s.setIoq q xs).homeReady p = s.homeReady p := by
  have hawake : ∀ k loc, (s.setIoq q xs).coreAwake k loc = s.coreAwake k loc := fun k loc => by
    rw [State.coreAwake, show (s.setIoq q xs).core k = s.core k from rfl, State.coreAwake]
  have hbusy : ∀ cl way, (s.setIoq q xs).wayBusy cl way = s.wayBusy cl way := fun _ _ => rfl
  have hexp : ∀ cl blk, (s.setIoq q xs).expState cl blk = s.expState cl blk := fun _ _ => rfl
  unfold State.homeReady
  simp only [hawake, hbusy, hexp]

theorem cxlIoRequest_next (hp : s.ioPlace h off = some p) (hn : 0 < n) (hb : p.loc % 64 + n ≤ 64)
    (hx : NMap.get [] s.ioq (quadrant h) ++ [ioRequest w h off n v] = x :: xs) : exec (.cxlIoRequest w h off n v) s =
      .next ((s.setIoq (quadrant h) (x :: xs)).ioServe (quadrant h) (xs.length + 1)) := by
  show execCxlIoRequest w h off n v s = _
  unfold execCxlIoRequest
  simp only [hp]
  rw [if_neg (by simp only [Bool.or_eq_true, decide_eq_true_eq]; omega)]
  exact congrArg (fun l : List IoReq => Host.Outcome.next ((s.setIoq (quadrant h) l).ioServe (quadrant h) l.length)) hx

/-- A request cannot have its turn: the last has not settled, its way is not usable, or its page is being flipped. -/
def State.ioHolds (s : State) (q : Nat) (p : Place) : Bool :=
  !s.ioFree q || s.waitsForWay p || (isDevice p && s.flips.any (fun f => decide (f.page = biasPage p.loc)))

theorem State.ioHead_noPlace (hq : NMap.get [] s.ioq q = x :: xs) (hx : s.ioPlaceIn (2 ^ 24) x.home x.off = none) :
    s.ioHead q = (s.setIoq q xs, true) := by
  unfold State.ioHead
  simp only [hq, hx]
  rfl

section turn
variable (hq : NMap.get [] s.ioq q = x :: xs) (hx : s.ioPlaceIn (2 ^ 24) x.home x.off = some p)
include hq hx

theorem State.ioHead_holds (hh : s.ioHolds q p = true) : s.ioHead q = (s, false) := by
  unfold State.ioHead
  simp only [hq, hx]
  exact if_pos hh

theorem State.ioHead_prepares (hh : s.ioHolds q p = false) (hr : s.homeReady p = false) :
    s.ioHead q = (s.homePrepare p .expanding, false) := by
  unfold State.ioHead
  simp only [hq, hx, hr]
  exact if_neg (ne_of_eq_of_ne hh Bool.false_ne_true)

theorem State.ioHead_performs (hh : s.ioHolds q p = false) (hr : s.homeReady p = true) :
    s.ioHead q = ((s.setIoq q xs).ioPerform q p x, true) := by
  unfold State.ioHead
  simp only [hq, hx, hr]
  exact if_neg (ne_of_eq_of_ne hh Bool.false_ne_true)

end turn

theorem State.ioServe_stops {u : State} (hs : s.ioHead q = (u, false)) : s.ioServe q (n + 1) = u := by
  rw [State.ioServe, hs]
  rfl

theorem State.ioServe_goes {u : State} (hs : s.ioHead q = (u, true)) : s.ioServe q (n + 1) = u.ioServe q n := by
  rw [State.ioServe, hs]
  rfl

/-! ### What moving lines keeps of the host's answers and of the requests -/

/-- From `s` to `t` no host has been answered and no request of CXL.io has come or gone. -/
structure IoKept (s t : State) : Prop where
  host : t.host = s.host
  ioq : t.ioq = s.ioq

namespace IoKept

theorem ite {c : Prop} [Decidable c] (hs : IoKept r s) (ht : IoKept r t) : IoKept r (if c then s else t) := by
  split
  · exact hs
  · exact ht

theorem frame (hs : IoKept r s) (hh : t.host = s.host := by rfl) (hq : t.ioq = s.ioq := by rfl) : IoKept r t :=
  ⟨hh.trans hs.host, hq.trans hs.ioq⟩

theorem dropSlice (hs : IoKept r s) : IoKept r (s.dropSlice line) := by
  unfold State.dropSlice
  split
  · exact hs
  · have hrecall : IoKept r (s.recallLine line) := .ite hs hs.frame
    exact .ite hrecall.frame hrecall.frame

theorem allocSlice (hs : IoKept r s) {pair} : IoKept r (s.allocSlice line pair) := by
  unfold State.allocSlice
  dsimp only
  split
  · exact hs.frame
  · refine .ite hs ?_
    split
    · next m _ =>
      have hdrop : IoKept r (({ s with fresh := s.fresh + 1 } : State).dropSlice m.1) := hs.frame.dropSlice
      exact hdrop.frame
    · exact hs.frame

theorem touchSlice (hs : IoKept r s) {alloc pair} : IoKept r (s.touchSlice line alloc pair) := by
  unfold State.touchSlice
  split
  · exact .ite (.ite hs.dropSlice.allocSlice hs.dropSlice) hs
  · exact .ite hs.allocSlice hs

theorem touching (hs : IoKept r s) : IoKept r (s.touching p) := by
  unfold State.touching
  split
  · exact hs.touchSlice
  · exact hs

theorem homeTouch (hs : IoKept r s) : IoKept r (s.homeTouch p w) := by
  unfold State.homeTouch
  split
  · rcases s.touchBank_cases _ p.loc with e | ⟨f, e, -⟩ <;> rw [e]
    exacts [hs, hs.frame]
  · exact hs.frame
  · exact hs

end IoKept

theorem State.homeTouch_mem : (s.homeTouch p w).mem = s.mem := by
  unfold State.homeTouch
  split
  · exact State.touchBank_mem
  · rfl
  · rfl

/-! ### A request performs -/

/-- A byte below the end of a number's low bytes is the number's own. -/
theorem byte_of_low {i : Nat} (v : Nat) (hi : i < n) : BitVec.ofNat 8 (v % 256 ^ n / 256 ^ i) = BitVec.ofNat 8 (v / 256 ^ i) := by
  obtain ⟨j, rfl⟩ := Nat.exists_eq_add_of_lt hi
  refine BitVec.eq_of_toNat_eq ?_
  rw [BitVec.toNat_ofNat, BitVec.toNat_ofNat, show 2 ^ 8 = 256 from rfl, show i + j + 1 = i + (j + 1) by omega, Nat.pow_add,
    Nat.mod_mul_right_div_self, Nat.pow_succ, Nat.mod_mul_left_mod]

/-- The home notes a read. -/
def State.ioNoted (s : State) (p : Place) : State := (s.homeTouch p false).touching { p with pair := none }

theorem State.ioNoted_mem : (s.ioNoted p).mem = s.mem := (State.touching_sends _).mem.trans State.homeTouch_mem

theorem State.ioNoted_kept : IoKept s (s.ioNoted p) := (IoKept.homeTouch ⟨rfl, rfl⟩).touching

/-- The home writes the bytes of a request's value. -/
def State.ioWritten (s : State) (p : Place) (n : Nat) (v : BitVec 512) : State :=
  (s.homeTouch p true).writeHome p.home (lineOf p.loc) (byteMask (p.loc % 128) n) (placeData (p.loc % 128) (v.toNat % 256 ^ n)) p.alloc
    none none

theorem State.ioWritten_byte (hb : p.loc % 64 + n ≤ 64) (a : Nat) : (s.ioWritten p n v).byte a = (s.write p.loc n v.toNat).byte a := by
  have hbyte : (s.ioWritten p n v).byte a = ((s.homeTouch p true).write p.loc n (v.toNat % 256 ^ n)).byte a :=
    (State.byte_congr SendsInvs.writeHome.mem a).trans (State.byte_writeLine_placed (by omega) _ a)
  rw [hbyte]
  by_cases ha : p.loc ≤ a ∧ a < p.loc + n
  · obtain ⟨i, rfl⟩ := Nat.exists_eq_add_of_le ha.1
    have hi : i < n := by omega
    rw [State.byte_write _ _ _ _ _ hi, State.byte_write _ _ _ _ _ hi]
    exact byte_of_low v.toNat hi
  · rw [State.byte_write_other _ _ _ _ _ (by omega), State.byte_write_other _ _ _ _ _ (by omega), State.byte_congr State.homeTouch_mem]

theorem State.ioPerform_read (hv : x.val = none) : s.ioPerform q p x =
    { s.ioNoted p with host := .ioRead (BitVec.ofNat 512 ((s.ioNoted p).read p.loc x.bytes)) :: (s.ioNoted p).host } := by
  simp only [State.ioPerform, hv, Option.isSome_none]
  rfl

theorem State.ioPerform_write (hv : x.val = some v) : s.ioPerform q p x =
    { s.ioWritten p x.bytes v with ioLast := NMap.set none (s.ioWritten p x.bytes v).ioLast q (some (lineOf p.loc)) } := by
  simp only [State.ioPerform, hv, Option.isSome_some]
  rfl

/-! ### The clauses of CXL.io, where no cluster has more than 16 ways -/

/-- While the request at the head cannot have its turn, an arrival joins those of its quadrant, and nothing else happens. -/
theorem cxlIoRequest_holds {p0 : Place} (hw : s.WaysInRange) (hp : s.ioPlace h off = some p) (hn : 0 < n) (hb : p.loc % 64 + n ≤ 64)
    (hq : NMap.get [] s.ioq (quadrant h) ++ [ioRequest w h off n v] = x :: xs) (hx : s.ioPlace x.home x.off = some p0)
    (hh : s.ioHolds (quadrant h) p0 = true) : exec (.cxlIoRequest w h off n v) s = .next (s.setIoq (quadrant h) (x :: xs)) := by
  rw [cxlIoRequest_next hp hn hb hq]
  exact congrArg _ (State.ioServe_stops (State.ioHead_holds State.setIoq_get (State.ioPlaceIn_of_ioPlace (s := s) hw hx) hh))

section alone
variable (hw : s.WaysInRange) (hp : s.ioPlace h off = some p) (hn : 0 < n) (hb : p.loc % 64 + n ≤ 64)
  (hq : NMap.get [] s.ioq (quadrant h) = []) (hh : s.ioHolds (quadrant h) p = false)
include hw hp hn hb hq hh

/-- A request that has its turn at once makes its home ready where that is not. -/
theorem cxlIoRequest_prepares (hr : s.homeReady p = false) : exec (.cxlIoRequest w h off n v) s =
    .next ((s.setIoq (quadrant h) [ioRequest w h off n v]).homePrepare p .expanding) := by
  rw [cxlIoRequest_next hp hn hb (by rw [hq]; rfl)]
  exact congrArg _ (State.ioServe_stops (State.ioHead_prepares State.setIoq_get (State.ioPlaceIn_of_ioPlace (s := s) hw hp) hh (State.homeReady_setIoq.trans hr)))

/-- It performs where its home is ready, and is gone. -/
theorem cxlIoRequest_performs (hr : s.homeReady p = true) : exec (.cxlIoRequest w h off n v) s =
    .next (((s.setIoq (quadrant h) [ioRequest w h off n v]).setIoq (quadrant h) []).ioPerform (quadrant h) p (ioRequest w h off n v)) := by
  rw [cxlIoRequest_next hp hn hb (by rw [hq]; rfl)]
  exact congrArg _ (State.ioServe_goes (State.ioHead_performs State.setIoq_get (State.ioPlaceIn_of_ioPlace (s := s) hw hp) hh (State.homeReady_setIoq.trans hr)))

/-- A read gives the bytes at its place. -/
theorem cxlIoRequest_reads (hr : s.homeReady p = true) : Completes (.cxlIoRequest false h off n v) s (fun t => t.mem = s.mem ∧
    t.host = .ioRead (BitVec.ofNat 512 (s.read p.loc n)) :: s.host ∧ NMap.get [] t.ioq (quadrant h) = []) := by
  rw [Completes, cxlIoRequest_performs hw hp hn hb hq hh hr, State.ioPerform_read rfl]
  set u := (s.setIoq (quadrant h) [ioRequest false h off n v]).setIoq (quadrant h) [] with hu
  have hmem : (u.ioNoted p).mem = s.mem := State.ioNoted_mem
  have hkept : IoKept u (u.ioNoted p) := State.ioNoted_kept
  refine ⟨_, rfl, hmem, ?_, ?_⟩
  · show _ :: (u.ioNoted p).host = _
    rw [hkept.host, State.read_congr hmem]
    rfl
  · show NMap.get [] (u.ioNoted p).ioq (quadrant h) = []
    rw [hkept.ioq]
    exact State.setIoq_get

/-- A write changes the bytes at its place and no others, and its line is the last of its quadrant. -/
theorem cxlIoRequest_writes (hr : s.homeReady p = true) : Completes (.cxlIoRequest true h off n v) s (fun t =>
    (∀ i, i < n → t.byte (p.loc + i) = BitVec.ofNat 8 (v.toNat / 256 ^ i)) ∧ (∀ a, a < p.loc ∨ p.loc + n ≤ a → t.byte a = s.byte a) ∧
    NMap.get none t.ioLast (quadrant h) = some (p.loc / 128)) := by
  rw [Completes, cxlIoRequest_performs hw hp hn hb hq hh hr, State.ioPerform_write rfl]
  refine ⟨_, rfl, fun i hi => (State.ioWritten_byte hb _).trans (State.byte_write _ _ _ _ _ hi),
    fun a ha => (State.ioWritten_byte hb a).trans (State.byte_write_other _ _ _ _ _ ha), NMap.get_set_same ..⟩

end alone

/-! ### A cluster with 17 ways of memory -/

/-- Cluster 0 has 17 ways of memory; nothing else has begun. -/
def seventeenWays : State := { clusters := [(0, { spw := 17 })] }

/-- A request for the first byte of the seventeenth way. -/
def beyondSixteen : IoReq := ioRequest false (.expander 0) (2 ^ 24) 1 0

/-- It arrives, has its turn, and is gone without an answer. -/
theorem seventeenWays_drops : exec (.cxlIoRequest false (.expander 0) (2 ^ 24) 1 0) seventeenWays =
    .next ((seventeenWays.setIoq 0 [beyondSixteen]).setIoq 0 []) := by
  rw [cxlIoRequest_next (p := ⟨locCluster 0 (2 ^ 24), .expander 0, false, false, none, 0⟩) (x := beyondSixteen) (xs := [])
    (by decide) (by decide) (by decide) (by decide)]
  exact congrArg _ (State.ioServe_goes (State.ioHead_noPlace State.setIoq_get (by decide)))

/-- Refutes O48: that block of the cluster has not been expanded, so that the obligation wants the request to stand and the block to
expand. -/
theorem not_hostAccessResult : ¬ Obligations.HostAccessResult := by
  intro h
  obtain ⟨-, -, -, -, -, -, -, -, hprepares, -⟩ := h seventeenWays 0 0 0 1 0
  have he := hprepares (.expander 0) (2 ^ 24) ⟨locCluster 0 (2 ^ 24), .expander 0, false, false, none, 0⟩
    (by decide) (by decide) (by decide) (by decide) rfl (by decide) (by decide) (by decide) false
  rw [seventeenWays_drops] at he
  have hioq := congrArg (fun t : State => NMap.get [] t.ioq 0) (Host.Outcome.next.inj he)
  exact absurd hioq (by decide)

end Sys2Proof.Machine
end

section
/-!
## The cycles that pass before a step leave the firmware's state alone (22 R444, R445; 18 R436)

Whether the package has power and whether a valid image runs stand in `State.service`. What goes on by itself before a step writes
parts of records, completes launches and save blocks, performs requests of CXL.io and moves updates and messages on; it follows the
homes of memory, the tile table and the launch unit, and none of these writes that state. Each lemma follows one function up to `tick`.
-/

set_option Elab.async false

namespace Sys2Proof.Machine

/-- From `s` to `t` the state of firmware, boot and service has not changed. -/
structure ServiceKept (s t : State) : Prop where
  service : t.service = s.service

namespace ServiceKept
variable {r s t : State}

theorem refl (s : State) : ServiceKept s s := ⟨rfl⟩

/-- A change of any other part of the device. -/
theorem frame (h : ServiceKept r s) (e : t.service = s.service := by rfl) : ServiceKept r t := ⟨e.trans h.service⟩

theorem ite {c : Prop} [Decidable c] (hs : ServiceKept r s) (ht : ServiceKept r t) : ServiceKept r (if c then s else t) := by
  split
  · exact hs
  · exact ht

theorem foldl {α : Type} {f : State → α → State} {l : List α} (h : ServiceKept r s)
    (hf : ∀ s a, ServiceKept r s → ServiceKept r (f s a)) : ServiceKept r (l.foldl f s) := by
  induction l generalizing s with
  | nil => exact h
  | cons a l ih => exact ih (hf s a h)

theorem updCore (h : ServiceKept r s) {k f} : ServiceKept r (s.updCore k f) := h.frame
theorem updCluster (h : ServiceKept r s) {cl f} : ServiceKept r (s.updCluster cl f) := h.frame
theorem updFunc (h : ServiceKept r s) {n f} : ServiceKept r (s.updFunc n f) := h.frame
theorem writeWord (h : ServiceKept r s) {loc w} : ServiceKept r (s.writeWord loc w) := h.frame

/-! ### Slices and homes -/

theorem recallLine (h : ServiceKept r s) {line} : ServiceKept r (s.recallLine line) := .ite h h.frame

theorem growOver (h : ServiceKept r s) {cl} : ServiceKept r (s.growOver cl) := .ite h.frame h

theorem dropSlice (h : ServiceKept r s) {line} : ServiceKept r (s.dropSlice line) := by
  unfold State.dropSlice
  split
  · exact h
  · refine growOver ?_
    exact h.recallLine.frame

theorem cleanSlice (h : ServiceKept r s) {line} : ServiceKept r (s.cleanSlice line) := by
  unfold State.cleanSlice
  split
  · exact .ite h.frame h
  · exact h

theorem installSlice (h : ServiceKept r s) {line way pair} : ServiceKept r (s.installSlice line way pair) := h.frame

theorem allocSlice (h : ServiceKept r s) {line pair} : ServiceKept r (s.allocSlice line pair) := by
  unfold State.allocSlice
  dsimp only
  split
  · exact h.installSlice
  · refine .ite h ?_
    split
    · exact h.frame.dropSlice.installSlice
    · exact h.frame

theorem touchSlice (h : ServiceKept r s) {line alloc pair} : ServiceKept r (s.touchSlice line alloc pair) := by
  unfold State.touchSlice
  split
  · exact .ite (.ite h.dropSlice.allocSlice h.dropSlice) h
  · exact .ite h.allocSlice h

theorem dirtySlice (h : ServiceKept r s) {line} : ServiceKept r (s.dirtySlice line) := by
  unfold State.dirtySlice
  split
  · exact .ite h h.frame
  · exact h

theorem writeHome (h : ServiceKept r s) {home line mask data alloc pair keep} :
    ServiceKept r (s.writeHome home line mask data alloc pair keep) := by
  unfold State.writeHome
  extract_lets s1 s2 sh others
  have h1 : ServiceKept r s1 := by
    unfold s1
    split
    · exact h.touchSlice.dirtySlice
    · exact h
  exact .ite h1.frame h1.frame

theorem outsideWrite (h : ServiceKept r s) {line mask data} : ServiceKept r (s.outsideWrite line mask data) := h.writeHome

theorem outsideWords (h : ServiceKept r s) {loc ws} : ServiceKept r (s.outsideWords loc ws) := by
  induction ws generalizing s loc with
  | nil => exact h
  | cons w ws ih => exact ih h.outsideWrite

theorem homeTouch (h : ServiceKept r s) {p w} : ServiceKept r (s.homeTouch p w) := by
  unfold State.homeTouch
  split
  · rcases s.touchBank_cases _ p.loc with e | ⟨f, e, -⟩ <;> rw [e]
    exacts [h, h.frame]
  · exact h.frame
  · exact h

theorem homePrepare (h : ServiceKept r s) {p st} : ServiceKept r (s.homePrepare p st) := by
  unfold State.homePrepare
  split
  · exact h.frame
  · exact .ite h.frame h
  · exact h

/-! ### Records and notices -/

theorem writeWords (h : ServiceKept r s) {loc ws} : ServiceKept r (s.writeWords loc ws) := by
  induction ws generalizing s loc with
  | nil => exact h
  | cons w ws ih => exact ih h.writeWord

theorem noticeTo (h : ServiceKept r s) {f kind level fn launch w1 w2 w3} :
    ServiceKept r (s.noticeTo f kind level fn launch w1 w2 w3) := .ite h (.ite h.updFunc h.writeWords.writeWord.updFunc)

theorem notice (h : ServiceKept r s) {kind level fn launch w1 w2 w3} : ServiceKept r (s.notice kind level fn launch w1 w2 w3) :=
  .ite h.noticeTo h.noticeTo.noticeTo

theorem writePhys (h : ServiceKept r s) {bs} : ServiceKept r (s.writePhys bs) := by
  induction bs generalizing s with
  | nil => exact h
  | cons b bs ih => exact ih h.outsideWrite

theorem laterGo (h : ServiceKept r s) {held xs} : ServiceKept r (s.laterGo held xs) := by
  induction xs generalizing s held with
  | nil => exact h
  | cons x xs ih =>
    unfold State.laterGo
    refine .ite (ih h.frame) ?_
    split
    · exact ih h
    · exact ih h.frame
    · exact ih h.frame
    · exact .ite (ih h.writePhys) (ih h.writePhys.frame)

theorem runLater (h : ServiceKept r s) : ServiceKept r s.runLater := .ite h (.laterGo h.frame)

theorem defer (h : ServiceKept r s) {xs} : ServiceKept r (s.defer xs) := .runLater h.frame

theorem cpRecord (h : ServiceKept r s) {asid va w0 rest} : ∀ u, s.cpRecord asid va w0 rest = some u → ServiceKept r u := by
  intro u hu
  unfold State.cpRecord at hu
  split at hu
  · exact Option.some.inj hu ▸ h.defer
  · cases hu

theorem writeCpl (h : ServiceKept r s) {fn n op asid cpl tag stat reason tasks nrun nabort} :
    ServiceKept r (s.writeCpl fn n op asid cpl tag stat reason tasks nrun nabort) := by
  unfold State.writeCpl
  refine .ite h ?_
  dsimp only
  split
  · next u hu => exact h.cpRecord u hu
  · exact h.notice

/-! ### Launches that complete -/

theorem completeEntry (h : ServiceKept r s) {fn q n a asid stat reason tasks nrun nabort} :
    ServiceKept r (s.completeEntry fn q n a asid stat reason tasks nrun nabort) := .writeCpl h.frame

theorem targetDone (h : ServiceKept r s) {fn hit} : ServiceKept r (s.targetDone fn hit) := by
  refine h.foldl fun _ _ hq => hq.foldl fun _ _ ha => .ite ha ?_
  split
  · exact ha
  · exact .ite ha.completeEntry ha.frame

theorem slotFree (h : ServiceKept r s) {fn i} : ServiceKept r (s.slotFree fn i) :=
  .ite h (h.foldl fun _ _ hq => hq.foldl fun _ _ ha => .ite (.completeEntry ha.frame) ha)

theorem replayOver (h : ServiceKept r s) {fn i b} : ServiceKept r (s.replayOver fn i b) := by
  unfold State.replayOver
  split
  · exact h
  · refine .ite h (.slotFree (.targetDone ?_))
    split
    · exact .completeEntry h.frame
    · exact h.frame

theorem nodeDone (h : ServiceKept r s) {fn i b n nrun nabort} : ServiceKept r (s.nodeDone fn i b n nrun nabort) := by
  unfold State.nodeDone
  split
  · exact h
  · exact .replayOver h.frame

theorem close (h : ServiceKept r s) {c} : ServiceKept r (s.close c) := by
  unfold State.close
  split
  · exact .targetDone h.frame
  · exact h.nodeDone

theorem closeAfter (h : ServiceKept r s) {c record} : ServiceKept r (s.closeAfter c record) := by
  unfold State.closeAfter
  split
  · exact .ite h.frame h.close
  · exact h.close

theorem runClosed (h : ServiceKept r s) : ServiceKept r s.runClosed := .ite h (.foldl h.frame fun _ _ hc => hc.close)

theorem enterQueue (h : ServiceKept r s) {id} : ServiceKept r (s.enterQueue id) := h.frame

theorem tileEvent (h : ServiceKept r s) {k e} : ServiceKept r (s.tileEvent k e) := by
  have started : ∀ {contribs x}, ServiceKept r ((s.hearthTile k contribs false).setTile k e x) := h.updCluster.updCore
  unfold State.tileEvent
  refine .ite h ?_
  split
  · exact h
  all_goals dsimp only
  · split
    · exact started.enterQueue
    · exact .ite started.updCore started
  · split
    · exact started.enterQueue
    · exact .ite started.updCore started
  · exact started

theorem tileRelease (h : ServiceKept r s) {k e} : ServiceKept r (s.tileRelease k e) := by
  unfold State.tileRelease
  dsimp only
  split
  · exact .ite h.frame h.frame
  · exact .ite (.tileEvent h.frame) h.frame
  · exact h.frame

theorem endLaunch (h : ServiceKept r s) {n stat} : ServiceKept r (s.endLaunch n stat) := by
  unfold State.endLaunch
  split
  · exact h
  · extract_lets s0 s1 c done
    have h1 : ServiceKept r s1 := .foldl h.frame fun _ _ hk => hk.foldl fun _ _ hp => .ite (.tileRelease hp.frame) hp
    split
    · split
      · exact h1.writeCpl.closeAfter
      · exact h1.close
    · exact h1.writeCpl.closeAfter

theorem endIfOver (h : ServiceKept r s) {n} : ServiceKept r (s.endIfOver n) := by
  unfold State.endIfOver
  split
  · exact h
  · exact .ite h.endLaunch h

/-! ### Save blocks, requests of CXL.io and shootdowns -/

theorem cleanLines (h : ServiceKept r s) {ls} : ServiceKept r (s.cleanLines ls) := by
  induction ls generalizing s with
  | nil => exact h
  | cons l ls ih => exact ih h.cleanSlice

theorem saveWords (h : ServiceKept r s) {a ws} : ServiceKept r (s.saveWords a ws) := h.outsideWords.cleanLines

theorem finishBlock (h : ServiceKept r s) {block} : ServiceKept r (s.finishBlock block) := by
  unfold State.finishBlock
  dsimp only
  split
  · exact h
  · have hrecs : ∀ {a b ws vs}, ServiceKept r ((s.saveWords a ws).saveWords b vs) := h.saveWords.saveWords
    exact .ite h (ServiceKept.ite hrecs.updCore.updCluster hrecs).frame.defer.endIfOver

theorem finishBlocks (h : ServiceKept r s) : ServiceKept r s.finishBlocks := .ite h (h.foldl fun _ _ hb => hb.finishBlock)

theorem touching (h : ServiceKept r s) {p} : ServiceKept r (s.touching p) := by
  unfold State.touching
  split
  · exact h.touchSlice
  · exact h

theorem ioNoted (h : ServiceKept r s) {p} : ServiceKept r (s.ioNoted p) := h.homeTouch.touching

theorem ioPerform (h : ServiceKept r s) {q p x} : ServiceKept r (s.ioPerform q p x) := by
  cases hv : x.val with
  | none =>
    rw [State.ioPerform_read hv]
    exact h.ioNoted.frame
  | some v =>
    rw [State.ioPerform_write hv]
    exact h.homeTouch.writeHome.frame

theorem ioHead (h : ServiceKept r s) {q} : ServiceKept r (s.ioHead q).1 := by
  unfold State.ioHead
  split
  · exact h
  · dsimp only
    split
    · exact h.frame
    · split
      · exact h
      · split
        · exact h.homePrepare
        · exact .ioPerform h.frame

theorem ioServe (h : ServiceKept r s) {q n} : ServiceKept r (s.ioServe q n) := by
  induction n generalizing s with
  | zero => exact h
  | succ n ih => exact .ite (ih h.ioHead) h.ioHead

theorem ioServeAll (h : ServiceKept r s) : ServiceKept r s.ioServeAll := h.foldl fun _ _ hq => hq.ioServe

theorem hearthOverdue (h : ServiceKept r s) : ServiceKept r s.hearthOverdue := .ite h.frame h

theorem shoot (h : ServiceKept r s) {p} : ServiceKept r (s.shoot p) := by
  unfold State.shoot
  split
  · exact h
  · exact .ite h (.foldl h.frame fun _ _ hc => hc.frame)

theorem shootAll (h : ServiceKept r s) : ServiceKept r s.shootAll := .ite h (h.foldl fun _ _ hp => hp.shoot)

theorem tick (h : ServiceKept r s) : ServiceKept r s.tick :=
  .shootAll (.hearthOverdue (.ioServeAll (.finishBlocks (.runClosed (.runLater h.frame)))))

end ServiceKept

@[simp] theorem State.tick_service (s : State) : s.tick.service = s.service := (ServiceKept.refl s).tick.service

end Sys2Proof.Machine
end

section
/-!
## The turn of a ready thread, and a step (07 R187, R188, R194; 18 R424; 22 R445)

A thread that may issue claims its core's cycle; the claim changes nothing that its fetch reads, so the bytes it decodes are those at
the pc before it.
-/

set_option Elab.async false

namespace Sys2Proof.Machine
variable {s u : State} {bs : List Byte}

/-- The thread whose turn it is may take its issue step (07 R187, R188; 18 R424, R430). -/
structure State.MayIssue (u : State) : Prop where
  ready : u.me.run = .ready
  whole : u.me.stage = none
  slot : (u.core (coreOf u.cur)).slotOf u.cur = some (u.cycle % 8)
  rested : u.me.notBefore ≤ u.cycle
  first : u.tieTaken (.issue (coreOf u.cur)) = false
  unsaved : u.savePending u.cur = false
  running : u.me.pc ∉ u.breakpoints
  code : codeAddress u.cur u.me.pc = true

/-! ### What a claim leaves -/

theorem State.claim_me (u : State) : u.claim.me = { u.me with notBefore := u.cycle + 8 } :=
  State.thread_updThread_same (u.tie (.issue (coreOf u.cur)) 0) u.cur _

theorem State.claim_savePending (u : State) : u.claim.savePending u.cur = u.savePending u.cur := by
  unfold State.savePending
  rw [show u.claim.thread u.cur = _ from u.claim_me]
  rfl

theorem State.claim_fetch (u : State) : u.claim.fetch u.cur = u.fetch u.cur := by
  unfold State.fetch
  rw [show u.claim.thread u.cur = _ from u.claim_me]
  rfl

/-! ### The turn -/

theorem State.MayIssue.turn (h : u.MayIssue) : u.turn = u.claim.issueTurn := by
  unfold State.turn
  simp [h.ready, h.whole, h.slot, h.first, h.rested]

theorem State.MayIssue.issueTurn (h : u.MayIssue) (hf : u.fetch u.cur = some bs) :
    (∀ i rest, decode bs = .ok (i, rest) → u.claim.issueTurn = .run i) ∧
    (∀ e, decode bs = .error e → u.claim.issueTurn = .over (settle u.claim illegal)) := by
  have hpc : u.claim.me.pc = u.me.pc := by rw [u.claim_me]
  have hsave : u.claim.savePending u.claim.cur = false := u.claim_savePending.trans h.unsaved
  have hbreak : u.claim.breakpoints.contains u.claim.me.pc = false := by
    rw [hpc, show u.claim.breakpoints = u.breakpoints from rfl]
    simpa using h.running
  have hcode : codeAddress u.claim.cur u.claim.me.pc = true := by
    rw [hpc]
    exact h.code
  have hfetch : u.claim.fetch u.claim.cur = some bs := u.claim_fetch.trans hf
  unfold State.issueTurn
  simp only [hsave, hbreak, hcode, hfetch, Bool.not_true, Bool.false_eq_true, if_false]
  exact ⟨fun i rest hd => by simp only [hd], fun e hd => by simp only [hd]⟩

/-- Bytes that decode to an instruction run it. -/
theorem State.MayIssue.runs {i : Instr} {rest : List Byte} (h : u.MayIssue) (hf : u.fetch u.cur = some bs)
    (hd : decode bs = .ok (i, rest)) : threadStep u = exec i u.claim := by
  rw [threadStep, h.turn, (h.issueTurn hf).1 i rest hd]

/-- Bytes that are a reserved encoding trap. -/
theorem State.MayIssue.traps {e} (h : u.MayIssue) (hf : u.fetch u.cur = some bs) (hd : decode bs = .error e) :
    threadStep u = settle u.claim illegal := by
  rw [threadStep, h.turn, (h.issueTurn hf).2 e hd]

/-! ### The step -/

section powered
variable (hd : s.service.down = false)
include hd

theorem step_event {i : Instr} {ms : List Move} (ha : s.tick.agenda = .event i :: ms) (hi : i.encoded = false) : step s =
    if s.service.booted || s.tick.mailboxOnly i then exec i { s.tick with agenda := ms } else .next { s.tick with agenda := ms } := by
  unfold step
  simp only [ha, State.tick_service, hd, Instr.isEvent, hi, Bool.false_and, Bool.not_false, Bool.true_and, Bool.false_eq_true, if_false]

theorem step_turn {t : Nat} {ms : List Move} (ha : s.tick.agenda = .turn t :: ms) : step s =
    if s.service.booted then threadStep { s.tick with agenda := ms, cur := t } else .next { s.tick with agenda := ms } := by
  unfold step
  simp only [ha, State.tick_service, hd, Bool.false_eq_true, if_false]

theorem step_firmware {p : Nat} {a : CpAct} {ms : List Move} (ha : s.tick.agenda = .firmware p a :: ms) : step s =
    .next (if s.service.booted then State.firmware { s.tick with agenda := ms } p a else { s.tick with agenda := ms }) := by
  unfold step
  simp only [ha, State.tick_service, hd, Bool.false_eq_true, if_false]
  split <;> rfl

theorem step_idle (ha : s.tick.agenda = []) : step s = if s.service.booted then threadStep s.tick else .next s.tick := by
  unfold step
  simp only [ha, State.tick_service, hd, Bool.false_eq_true, if_false]

end powered

/-- What the turn of `u` comes to where it is the step of `s`. -/
theorem runs_of_threadStep (e : step s = threadStep u) (h : u.MayIssue) (hf : u.fetch u.cur = some bs) :
    (∀ i rest, decode bs = .ok (i, rest) → step s = exec i u.claim) ∧ (∀ x, decode bs = .error x → step s = settle u.claim illegal) :=
  ⟨fun _ _ hd => e.trans (h.runs hf hd), fun _ hd => e.trans (h.traps hf hd)⟩

/-- Settles O55: the move that heads the agenda after the tick, by whether an image runs. -/
theorem stepRunsDecoded : Obligations.StepRunsDecoded := by
  intro s hd
  dsimp only
  refine ⟨fun hb => ⟨fun ha hr bs hf => ?_, fun t ms ha hr bs hf => ?_, fun i ms ha hi => ?_, fun p a ms ha => ?_⟩,
    fun hb => ⟨fun ha => ?_, fun t ms ha => ?_, fun p a ms ha => ?_, fun i ms ha hi => ⟨fun hm => ?_, fun hm => ?_⟩⟩⟩
  · obtain ⟨h1, h2, h3, h4, h5, h6, h7, h8⟩ := hr
    have e : step s = threadStep s.tick := by rw [step_idle hd ha, if_pos hb]
    exact runs_of_threadStep e ⟨h1, h2, h3, h4, h5, h6, h7, h8⟩ hf
  · obtain ⟨h1, h2, h3, h4, h5, h6, h7, h8⟩ := hr
    have e : step s = threadStep { s.tick with agenda := ms, cur := t } := by rw [step_turn hd ha, if_pos hb]
    exact runs_of_threadStep e ⟨h1, h2, h3, h4, h5, h6, h7, h8⟩ hf
  · rw [step_event hd ha hi, hb, Bool.true_or, if_pos rfl]
  · rw [step_firmware hd ha, if_pos hb]
  · rw [step_idle hd ha, hb]; rfl
  · rw [step_turn hd ha, hb]; rfl
  · rw [step_firmware hd ha, hb]; rfl
  · rw [step_event hd ha hi, hb, hm]; rfl
  · rw [step_event hd ha hi, hb, hm]; rfl

end Sys2Proof.Machine
end

section
/-! ## The state after reset (07 R190, R206; log entries 3, 5) -/

set_option Elab.async false

namespace Sys2Proof.Machine

/-- Every part of the device that no table lists stands at its default. -/
theorem State.reset_parts : (∀ t, State.reset.thread t = {}) ∧ (∀ k, State.reset.core k = {}) ∧ (∀ cl, State.reset.cluster cl = {}) ∧
    (∀ fn, State.reset.func fn = {}) ∧ (∀ p, State.reset.cp p = {}) ∧ ∀ a, State.reset.byte a = 0 :=
  ⟨fun _ => rfl, fun _ => rfl, fun _ => rfl, fun _ => rfl, fun _ => rfl, fun _ => rfl⟩

/-- A thread none of whose registers is listed reads 0 from each. -/
theorem Thread.default_registers (r : Nat) : ({} : Thread).sval r = 0 ∧ ({} : Thread).staint r = 0 ∧ ({} : Thread).vval r = 0 ∧
    (NMap.get {} ({} : Thread).s r).map = .unmapped :=
  ⟨ite_self _, ite_self _, rfl, rfl⟩

/-- Settles O52: the reset state lists nothing, so each part holds its default values. -/
theorem resetValues : Obligations.ResetValues := by
  obtain ⟨hthread, hcore, hcluster, hfunc, hcp, hbyte⟩ := State.reset_parts
  dsimp only [Obligations.ResetValues]
  refine ⟨fun t r => ?_, fun k => ?_, fun cl => ?_, rfl, fun fn i => rfl, fun fn => ?_, fun p => ?_, rfl, State.reset_memOk, hbyte⟩
  · obtain ⟨hsval, hstaint, hvval, hmap⟩ := Thread.default_registers r
    rw [hthread]
    exact ⟨rfl, hsval, hstaint, hvval, hmap, rfl, rfl, rfl, rfl, rfl, rfl⟩
  · rw [hcore]
    exact ⟨rfl, rfl, rfl, rfl, rfl, rfl⟩
  · rw [hcluster]
    exact ⟨rfl, rfl, rfl, rfl⟩
  · rw [hfunc]
    exact ⟨rfl, rfl, rfl, rfl⟩
  · rw [hcp]
    exact ⟨rfl, rfl, rfl, rfl, rfl, rfl, rfl⟩

end Sys2Proof.Machine
end

section
/-!
## Threads that return to rotation (07 R188, R193; 04 R122; 14 R384; 18 R425, R426)
-/

set_option Elab.async false

namespace Sys2Proof.Machine
variable {s t : State} {u v : Nat} {x y : Thread}

/-! ### Waking changes one thread -/

@[simp] theorem State.wake_fifo (s : State) (u : Nat) : (s.wake u).fifo = s.fifo := by
  unfold State.wake
  split <;> rfl

theorem State.wake_other (h : v ≠ u) : (s.wake u).thread v = s.thread v := by
  unfold State.wake
  split
  · exact State.stop_other s u v _ h
  · rw [State.thread_updCore, State.thread_updThread_ne _ _ _ _ h]

theorem State.wake_s (s : State) (u : Nat) : ((s.wake u).thread u).s = (s.thread u).s := by rw [State.wake_thread]
theorem State.wake_v (s : State) (u : Nat) : ((s.wake u).thread u).v = (s.thread u).v := by rw [State.wake_thread]

/-- From `s` to `t` thread `u` has returned to rotation as `y`; no other thread, no request, no cluster and no byte has changed. -/
structure Returned (s t : State) (u : Nat) (y : Thread) : Prop where
  thread : t.thread u = { y with run := .ready }
  mem : t.mem = s.mem
  fifo : t.fifo = s.fifo
  clusters : t.clusters = s.clusters
  others : ∀ v, v ≠ u → t.thread v = s.thread v

/-- A thread that changes and wakes, none of its released children waiting for a place. -/
theorem State.updThread_wake_returned (f : Thread → Thread) (h : (f (s.thread u)).releasing = []) :
    Returned s ((s.updThread u f).wake u) u (f (s.thread u)) where
  thread := by rw [State.wake_thread, State.thread_updThread_same, if_pos h]
  mem := by rw [State.wake_mem]; rfl
  fifo := by rw [State.wake_fifo]; rfl
  clusters := by rw [State.wake_clusters]; rfl
  others v hv := by rw [State.wake_other hv, State.thread_updThread_ne _ _ _ _ hv]

/-- A thread that wakes as it stood. -/
theorem State.wake_returned (h : (s.thread u).releasing = []) : Returned s (s.wake u) u (s.thread u) where
  thread := by rw [State.wake_thread, if_pos h]
  mem := s.wake_mem u
  fifo := s.wake_fifo u
  clusters := s.wake_clusters u
  others _ hv := State.wake_other hv

theorem Core.occupancy_ne_zero {c : Core} (h : c.claim ≠ c.head) : c.occupancy ≠ 0 :=
  fun e => h (sub_eq_zero.1 e)

/-! ### The events -/

theorem exec_longLatencyResult {till : Nat} (hr : (s.thread u).run = .waiting (.latency till)) (ht : till ≤ s.cycle) :
    exec (.longLatencyResult u) s = .next (s.wake u) := by
  show execLongLatencyResult u s = _
  simp only [execLongLatencyResult, hr, if_pos ht]

theorem exec_transformWake {k : Nat} (hr : (s.thread (16 * k + 15)).run = .parked .ring) (hc : (s.core k).claim ≠ (s.core k).head) :
    exec (.transformWake k) s = .next (s.wake (16 * k + 15)) := by
  show execTransformWake k s = _
  simp only [execTransformWake, hr, ne_eq, Core.occupancy_ne_zero hc, not_false_eq_true, decide_true, Bool.and_self, if_true]

theorem exec_contextResume (hu : isTsc u = false) (hr : (s.thread u).run = .halted ∨ (s.thread u).run = .trapStopped) :
    exec (.contextResume u) s = .next ((s.updThread u (fun x => { x with pc := x.pc + 4 })).wake u) := by
  show execContextResume u s = _
  rcases hr with hr | hr <;> simp only [execContextResume, hu, hr, Bool.false_eq_true, if_false]

/-- A thread past a stop for the debugger (18 R426). -/
def Thread.undebugged (x : Thread) : Thread :=
  { x with pc := x.epc, sv := x.estatus.getLsbD 0, pfx := x.estatus.getLsbD 8, boundary := false }

theorem exec_debuggerResume (hr : (s.thread u).run = .debugStopped) :
    exec (.debuggerResume u) s = .next ((s.updThread u Thread.undebugged).wake u) := by
  show execDebuggerResume u s = _
  rw [execDebuggerResume, if_pos hr]
  rfl

theorem exec_registerRefill {vec : Bool} {r : Nat} {reads : List (Bool × Nat)} (hr : (s.thread u).run = .waiting (.refill vec r reads)) :
    exec (.registerRefill u) s = .next (((s.updThread u (fun x => { x with inUse := reads })).refill u vec r).wake u) := by
  show execRegisterRefill u s = _
  simp only [execRegisterRefill, hr]

/-! ### A refill (07 R193) -/

/-- What no spill changes of a thread, room for a register leaves in every thread. -/
theorem State.makeRoom_keeps {α : Type} (g : Thread → α) (hs : ∀ id x, g (Thread.spillS id x) = g x)
    (hv : ∀ id x, g (Thread.spillV id x) = g x) (vec : Bool) : g ((s.makeRoom u vec).thread v) = g (s.thread v) := by
  have hall : ∀ (f : Thread → Thread), (∀ x, g (f x) = g x) → ∀ ts (s : State), g ((s.updThreads f ts).thread v) = g (s.thread v) := by
    intro f hf ts
    induction ts with
    | nil => exact fun _ => rfl
    | cons t ts ih =>
      intro s
      rw [State.updThreads, ih, State.thread_updThread]
      split
      · next e => rw [hf, e]
      · rfl
  rcases s.makeRoom_cases u vec with h | ⟨id, h⟩ <;> rw [h]
  cases vec
  exacts [hall _ (hs id) _ _, hall _ (hv id) _ _]

/-- Room for a register has been made, and thread `x` is now `y`: every value and taint, its tags and its released children as they were. -/
structure RoomMade (x y : Thread) : Prop where
  scalars : ∀ r, (NMap.get {} y.s r).val = (NMap.get {} x.s r).val ∧ (NMap.get {} y.s r).taint = (NMap.get {} x.s r).taint
  vectors : ∀ r, (NMap.get {} y.v r).val = (NMap.get {} x.v r).val ∧ (NMap.get {} y.v r).taint = (NMap.get {} x.v r).taint
  tags : y.tags = x.tags
  releasing : x.releasing = [] → y.releasing = []

theorem State.makeRoom_roomMade (s : State) (u : Nat) (vec : Bool) : RoomMade (s.thread u) ((s.makeRoom u vec).thread u) where
  scalars r := by
    refine ⟨State.makeRoom_keeps (fun x => (NMap.get {} x.s r).val) (fun id x => ?_) (fun _ _ => rfl) vec,
      State.makeRoom_keeps (fun x => (NMap.get {} x.s r).taint) (fun id x => ?_) (fun _ _ => rfl) vec⟩
    · exact NMap.get_map_congr {} (movedS id) SReg.val (movedS_val id) x.s r
    · exact NMap.get_map_congr {} (movedS id) SReg.taint (movedS_taint id) x.s r
  vectors r := by
    refine ⟨State.makeRoom_keeps (fun x => (NMap.get {} x.v r).val) (fun _ _ => rfl) (fun id x => ?_) vec,
      State.makeRoom_keeps (fun x => (NMap.get {} x.v r).taint) (fun _ _ => rfl) (fun id x => ?_) vec⟩
    · exact NMap.get_map_congr {} (movedV id) VReg.val (movedV_val id) x.v r
    · exact NMap.get_map_congr {} (movedV id) VReg.taint (movedV_taint id) x.v r
  tags := State.makeRoom_keeps Thread.tags (fun _ _ => rfl) (fun _ _ => rfl) vec
  releasing h := by
    have hlen := State.makeRoom_keeps (s := s) (u := u) (v := u) (fun x => x.releasing.length) (fun _ _ => List.length_map ..)
      (fun _ _ => List.length_map ..) vec
    rw [← List.length_eq_zero_iff, hlen, h]
    rfl

theorem RoomMade.busyTags (h : RoomMade x y) : y.busyTags = x.busyTags := by rw [Thread.busyTags, h.tags, Thread.busyTags]

theorem Thread.busyTags_inUse (x : Thread) (rs : List (Bool × Nat)) : ({ x with inUse := rs } : Thread).busyTags = x.busyTags := rfl

theorem State.refill_mem (s : State) (u : Nat) (vec : Bool) (r : Nat) : (s.refill u vec r).mem = s.mem := by
  rw [State.refill, State.updThread_mem, State.updCore_mem]
  exact State.mem_of_outside (s.makeRoom_outside u vec)

theorem State.refill_releasing (vec : Bool) (r : Nat) (h : (s.thread u).releasing = []) : ((s.refill u vec r).thread u).releasing = [] := by
  have hroom := (s.makeRoom_roomMade u vec).releasing h
  rw [State.refill, State.thread_updThread_same, State.thread_updCore]
  split <;> exact hroom

/-- The register is mapped, with the value it had and its taint cut to the busy tags (05 R136). -/
theorem State.refill_scalar (s : State) (u r : Nat) : let o := NMap.get {} ((s.refill u false r).thread u).s r
    o.map = .physical ∧ o.val = (NMap.get {} (s.thread u).s r).val ∧
      o.taint = (NMap.get {} (s.thread u).s r).taint &&& (s.thread u).busyTags := by
  have hroom := s.makeRoom_roomMade u false
  obtain ⟨hval, htaint⟩ := hroom.scalars r
  simp only [State.refill, State.thread_updThread_same, State.thread_updCore, Bool.false_eq_true, if_false, NMap.get_set_same]
  exact ⟨trivial, hval, by rw [htaint, hroom.busyTags]⟩

theorem State.refill_vector (s : State) (u r : Nat) : let o := NMap.get {} ((s.refill u true r).thread u).v r
    o.map = .physical ∧ o.val = (NMap.get {} (s.thread u).v r).val ∧
      o.taint = (NMap.get {} (s.thread u).v r).taint &&& (s.thread u).busyTags := by
  have hroom := s.makeRoom_roomMade u true
  obtain ⟨hval, htaint⟩ := hroom.vectors r
  simp only [State.refill, State.thread_updThread_same, State.thread_updCore, if_true, NMap.get_set_same]
  exact ⟨trivial, hval, by rw [htaint, hroom.busyTags]⟩

theorem Returned.completes {i : Instr} (h : Returned s t u y) (e : exec i s = .next t) : Completes i s (fun t =>
    t.thread u = { y with run := .ready } ∧ t.mem = s.mem ∧ t.fifo = s.fifo ∧ t.clusters = s.clusters ∧
      ∀ v, v ≠ u → t.thread v = s.thread v) :=
  ⟨t, e, h.thread, h.mem, h.fifo, h.clusters, h.others⟩

/-- Settles O26: each event wakes its thread, the refill and the resumes after one change of it. -/
theorem threadReturns : Obligations.ThreadReturns := by
  intro s u hl
  dsimp only
  refine ⟨fun till hr ht => ?_, fun k hu hr hc => ?_, fun hu hr => ?_, fun hr => ?_, fun vec r reads hr => ?_⟩
  · exact (State.wake_returned hl).completes (exec_longLatencyResult hr ht)
  · subst hu
    exact (State.wake_returned hl).completes (exec_transformWake hr hc)
  · exact (State.updThread_wake_returned (fun x => { x with pc := x.pc + 4 }) hl).completes (exec_contextResume hu hr)
  · exact (State.updThread_wake_returned Thread.undebugged hl).completes (exec_debuggerResume hr)
  · set s1 := s.updThread u (fun x => { x with inUse := reads })
    have hthread : s1.thread u = { s.thread u with inUse := reads } := State.thread_updThread_same ..
    have hs : (s1.thread u).s = (s.thread u).s := by rw [hthread]
    have hv : (s1.thread u).v = (s.thread u).v := by rw [hthread]
    have hbusy : (s1.thread u).busyTags = (s.thread u).busyTags := by rw [hthread, Thread.busyTags_inUse]
    have hwake := State.wake_returned (State.refill_releasing vec r (by rw [hthread]; exact hl))
    refine ⟨_, exec_registerRefill hr, congrArg Thread.run hwake.thread, hwake.mem.trans (s1.refill_mem u vec r), fun hvec => ?_,
      fun hvec => ?_⟩
    · rw [hvec, State.wake_s, ← hs, ← hbusy]
      exact s1.refill_scalar u r
    · rw [hvec, State.wake_v, ← hv, ← hbusy]
      exact s1.refill_vector u r

end Sys2Proof.Machine
end

section
/-! ## Sparse tables and folds: what holds of every entry -/

set_option Elab.async false

namespace Sys2Proof
variable {α : Type}

/-- What holds of every listed value and of the default holds of what a key reads as. -/
theorem NMap.get_of_forall {P : α → Prop} {d : α} {m : NMap α} (hm : ∀ p ∈ m, P p.2) (hd : P d) (k : Nat) : P (NMap.get d m k) := by
  induction m with
  | nil => exact hd
  | cons p m ih =>
    have ihm : P (NMap.get d m k) := ih fun q hq => hm q (List.mem_cons_of_mem p hq)
    simp only [NMap.get]
    split
    · exact hm p List.mem_cons_self
    · split
      · exact hd
      · exact ihm

theorem NMap.mem_of_mem_past {m : NMap α} {k : Nat} {p : Nat × α} (h : p ∈ NMap.past k m) : p ∈ m := by
  induction m with
  | nil => exact h
  | cons q m ih =>
    simp only [NMap.past] at h
    split at h
    · exact List.mem_cons_of_mem q (ih h)
    · exact h

/-- An entry of a table after a write is the one written or was there before. -/
theorem NMap.mem_set [DecidableEq α] {d v : α} {m : NMap α} {k : Nat} {p : Nat × α} (h : p ∈ NMap.set d m k v) : p = (k, v) ∨ p ∈ m := by
  have hcons : ∀ {n : NMap α}, p ∈ NMap.cons d k v n → p = (k, v) ∨ p ∈ n := by
    intro n hp
    simp only [NMap.cons] at hp
    split at hp
    · exact .inr hp
    · exact List.mem_cons.1 hp
  induction m with
  | nil => exact hcons h
  | cons q m ih =>
    simp only [NMap.set] at h
    split at h
    · rcases List.mem_cons.1 h with rfl | hq
      · exact .inr List.mem_cons_self
      · exact (ih hq).imp_right (List.mem_cons_of_mem q)
    · exact (hcons h).imp_right NMap.mem_of_mem_past

/-- A fold that no entry of its list moves. -/
theorem foldl_of_fixed {β : Type} {f : β → α → β} {b : β} {l : List α} (h : ∀ a ∈ l, f b a = b) : l.foldl f b = b := by
  induction l with
  | nil => rfl
  | cons a l ih =>
    rw [List.foldl_cons, h a List.mem_cons_self]
    exact ih fun c hc => h c (List.mem_cons_of_mem a hc)

end Sys2Proof
end

section
/-! ## Meets: an arrival, a release, a deadline, quiescence (07 R201 to R203) -/

set_option Elab.async false

namespace Sys2Proof.Machine
variable {s t : State} {u v k e j p q w : Nat} {weld : Bool} {m : Meet}

/-! ### The table through the operations of a meet -/

theorem State.setMeet_get (s : State) (weld : Bool) (k e : Nat) (m : Meet) :
    NMap.get {} ((s.setMeet weld k e m).meets weld k) e = m := by
  cases weld <;> simp [State.setMeet, State.meets]

@[simp] theorem State.setMeet_thread (s : State) (weld : Bool) (k e : Nat) (m : Meet) (v : Nat) :
    (s.setMeet weld k e m).thread v = s.thread v := by
  cases weld <;> rfl
@[simp] theorem State.setMeet_mem (s : State) (weld : Bool) (k e : Nat) (m : Meet) : (s.setMeet weld k e m).mem = s.mem := by
  cases weld <;> rfl

/-- Two states with the same clusters and the same cores but for their rotation have the same meet tables. -/
theorem State.meets_congr (hc : t.clusters = s.clusters) (hk : ∀ k, (t.core k).plain = (s.core k).plain) (weld : Bool) (k : Nat) :
    t.meets weld k = s.meets weld k := by
  cases weld
  · have hplain := congrArg Core.meets (hk k)
    exact hplain
  · exact congrArg Cluster.weld (State.cluster_congr hc k)

@[simp] theorem State.stop_meets (s : State) (u : Nat) (r : RunState) (weld : Bool) (k : Nat) :
    (s.stop u r).meets weld k = s.meets weld k :=
  State.meets_congr (s.stop_clusters u r) (s.stop_core u r) weld k

@[simp] theorem State.wake_meets (s : State) (u : Nat) (weld : Bool) (k : Nat) : (s.wake u).meets weld k = s.meets weld k := by
  by_cases h : (s.thread u).releasing = []
  · exact State.meets_congr (s.wake_clusters u) (State.wake_core h) weld k
  · rw [State.wake, if_pos h, State.stop_meets]

/-! ### Going on past a meet -/

/-- A thread past its MEET. -/
def Thread.pastMeet (x : Thread) : Thread := { x with stage := none, pc := x.pc + 4 }

theorem State.passMeet_returned (h : (s.thread u).releasing = []) : Returned s (s.passMeet u) u (s.thread u).pastMeet :=
  State.updThread_wake_returned Thread.pastMeet h

theorem State.passMeet_meets : (s.passMeet u).meets weld k = s.meets weld k := State.wake_meets ..

theorem State.passMeet_clusters : (s.passMeet u).clusters = s.clusters := State.wake_clusters ..

/-- From `s` to `t` the holder of entry `e` has gone on with the entry's count; the entry is free, and no other thread has changed. -/
structure Released (s t : State) (weld : Bool) (k e : Nat) : Prop where
  entry : NMap.get {} (t.meets weld k) e = {}
  run : (t.thread (NMap.get {} (s.meets weld k) e).holder).run = .ready
  pc : (t.thread (NMap.get {} (s.meets weld k) e).holder).pc = (s.thread (NMap.get {} (s.meets weld k) e).holder).pc + 4
  mc : (t.thread (NMap.get {} (s.meets weld k) e).holder).mc = (NMap.get {} (s.meets weld k) e).count
  mem : t.mem = s.mem
  others : ∀ v, v ≠ (NMap.get {} (s.meets weld k) e).holder → t.thread v = s.thread v

/-- A holder's `mc` as its release sets it, in its checkpoint too (18 R428). -/
def Thread.holding (n : Nat) (x : Thread) : Thread := { x with mc := n, ckpt := { x.ckpt with mc := n } }

/-- The release of an entry up to the step past the MEET. -/
def State.freeEntry (s : State) (weld : Bool) (k e : Nat) : State :=
  (s.setMeet weld k e {}).updThread (NMap.get {} (s.meets weld k) e).holder (Thread.holding (NMap.get {} (s.meets weld k) e).count)

theorem State.releaseHolder_eq : s.releaseHolder weld k e =
    (s.freeEntry weld k e).passMeet (NMap.get {} (s.meets weld k) e).holder := rfl

theorem State.releaseHolder_released (h : (s.thread (NMap.get {} (s.meets weld k) e).holder).releasing = []) :
    Released s (s.releaseHolder weld k e) weld k e := by
  set m := NMap.get {} (s.meets weld k) e
  have hthread : (s.freeEntry weld k e).thread m.holder = (s.thread m.holder).holding m.count := by
    rw [State.freeEntry, State.thread_updThread_same, State.setMeet_thread]
  have hback := State.passMeet_returned (s := s.freeEntry weld k e) (u := m.holder) (by rw [hthread]; exact h)
  have hholder := hback.thread
  rw [hthread] at hholder
  rw [State.releaseHolder_eq]
  refine ⟨?_, congrArg Thread.run hholder, congrArg Thread.pc hholder, congrArg Thread.mc hholder, ?_, fun v hv => ?_⟩
  · rw [State.passMeet_meets]
    exact s.setMeet_get weld k e {}
  · rw [hback.mem]
    exact s.setMeet_mem weld k e {}
  · rw [hback.others v hv, State.freeEntry, State.thread_updThread_ne _ _ _ _ hv, State.setMeet_thread]

/-! ### Deadlines before arrivals (07 R202) -/

theorem State.expireMeets_alive (h : ∀ m ∈ s.meets weld k, m.2.valid = true → s.cycle < m.2.deadline) : s.expireMeets weld k = s := by
  refine foldl_of_fixed fun m hm => if_neg ?_
  rw [Bool.and_eq_true, decide_eq_true_eq, not_and, Nat.not_le]
  exact h m hm

theorem State.expireMeets_one (ht : s.meets weld k = [(e, m)]) (hv : m.valid = true) (hd : m.deadline ≤ s.cycle) :
    s.expireMeets weld k = s.releaseHolder weld k e := by
  rw [State.expireMeets, ht, List.foldl_cons, List.foldl_nil, hv, decide_eq_true hd]
  rfl

/-! ### The registration of an arriver (07 R201) -/

/-- The unit whose table an arrival of thread `u` registers at. -/
def meetUnit (weld : Bool) (u : Nat) : Nat := if weld then clusterOf (coreOf u) else coreOf u

/-- The number of entries of a meet table. -/
def meetSize (weld : Bool) : Nat := if weld then 256 else 32

/-- A thread parks as the holder of entry `e`, which becomes `m`. -/
def State.holdMeet (s : State) (u : Nat) (weld : Bool) (k e : Nat) (m : Meet) : State :=
  ((s.setMeet weld k e m).updThread u (fun x => { x with stage := none })).stop u (.parked (.holder weld k e))

theorem State.holdMeet_thread : (s.holdMeet u weld k e m).thread u =
    { s.thread u with stage := none, run := .parked (.holder weld k e) } := by
  rw [State.holdMeet, State.thread_stop, State.thread_updThread_same, State.setMeet_thread]

theorem State.holdMeet_mem : (s.holdMeet u weld k e m).mem = s.mem := s.setMeet_mem weld k e m

theorem State.holdMeet_get : NMap.get {} ((s.holdMeet u weld k e m).meets weld k) e = m := by
  rw [State.holdMeet, State.stop_meets]
  exact s.setMeet_get weld k e m

section arriver
variable {a : Meet} (ha : (s.thread u).arrival weld p q = a)
include ha

theorem State.registerMeet_folds (hf : (s.meets weld (meetUnit weld u)).find? (fun m => m.2.same a) = some (e, m))
    (hc : m.count + (s.thread u).mc ≤ 2 ^ 32 - 1) : s.registerMeet u weld p q w =
      (s.setMeet weld (meetUnit weld u) e { m with count := m.count + (s.thread u).mc }).endThread u := by
  subst ha
  rw [meetUnit] at hf ⊢
  simp only [State.registerMeet, hf, if_pos hc]

theorem State.registerMeet_refuses (hf : (s.meets weld (meetUnit weld u)).find? (fun m => m.2.same a) = some (e, m))
    (hc : 2 ^ 32 - 1 < m.count + (s.thread u).mc) : s.registerMeet u weld p q w =
      (s.releaseHolder weld (meetUnit weld u) e).passMeet u := by
  subst ha
  rw [meetUnit] at hf ⊢
  simp only [State.registerMeet, hf, if_neg (Nat.not_le.2 hc)]

section unequal
variable (hf : (s.meets weld (meetUnit weld u)).find? (fun m => m.2.same a) = none)
include hf

theorem State.registerMeet_passes
    (h : w = 0 ∨ ∀ i, i < meetSize weld → (NMap.get {} (s.meets weld (meetUnit weld u)) i).valid = true) :
    s.registerMeet u weld p q w = s.passMeet u := by
  subst ha
  rw [meetUnit] at hf h
  rcases h with rfl | h
  · simp only [State.registerMeet, hf, if_true]
  · have hfull : (List.range (if weld then 256 else 32)).find? (fun i => !(NMap.get {} (s.meets weld
        (if weld then clusterOf (coreOf u) else coreOf u)) i).valid) = none := by
      rw [List.find?_eq_none]
      intro i hi
      rw [h i (List.mem_range.1 hi)]
      decide
    simp only [State.registerMeet, hf, hfull, ite_self]

/-- The arriver waits as holder in the lowest free entry. -/
theorem State.registerMeet_holds (hw : w ≠ 0) (he : e < meetSize weld)
    (hfree : (NMap.get {} (s.meets weld (meetUnit weld u)) e).valid = false)
    (hlow : ∀ i, i < e → (NMap.get {} (s.meets weld (meetUnit weld u)) i).valid = true) : s.registerMeet u weld p q w =
      s.holdMeet u weld (meetUnit weld u) e { a with holder := u, count := (s.thread u).mc, deadline := s.cycle + 16 * w } := by
  subst ha
  rw [meetUnit] at hf hfree hlow ⊢
  have hfirst : (List.range (if weld then 256 else 32)).find? (fun i => !(NMap.get {} (s.meets weld
      (if weld then clusterOf (coreOf u) else coreOf u)) i).valid) = some e := by
    rw [List.find?_range_eq_some]
    exact ⟨by rw [hfree]; rfl, List.mem_range.2 he, fun i hi => by rw [hlow i hi]; rfl⟩
  simp only [State.registerMeet, hf, if_neg hw, hfirst]
  rfl

end unequal
end arriver

/-- An arriver whose registration is taken: it waits Drained for it, no thread of a higher core or context has been taken in its cycle,
and every register it reads is mapped. -/
structure State.Registers (s : State) (u : Nat) (weld : Bool) (p q w : Nat) : Prop where
  stage : (s.thread u).stage = some (.meet weld p q w)
  run : (s.thread u).run = .waiting .drained
  drained : (s.thread u).drained = true
  turn : s.tieOk (.meet weld (meetUnit weld u)) u = true
  mapped : spilledOf (s.thread u) (meetRegs (s.thread u) weld (BitVec.ofNat 5 p) (BitVec.ofNat 5 q)) = none

theorem exec_meetRegistration (h : s.Registers u weld p q w) : exec (.meetRegistration u) s =
    .next (((s.tie (.meet weld (meetUnit weld u)) u).expireMeets weld (meetUnit weld u)).registerMeet u weld p q w) := by
  obtain ⟨hstage, hrun, hdrained, hturn, hmapped⟩ := h
  rw [meetUnit] at hturn ⊢
  show execMeetRegistration u s = _
  simp only [execMeetRegistration, hstage, hrun, hdrained, hturn, hmapped, decide_true, Bool.and_self, if_true]

/-- With no deadline due the table is as it stood. -/
theorem exec_meetRegistration_alive (h : s.Registers u weld p q w)
    (ha : ∀ m ∈ s.meets weld (meetUnit weld u), m.2.valid = true → s.cycle < m.2.deadline) : exec (.meetRegistration u) s =
    .next ((s.tie (.meet weld (meetUnit weld u)) u).registerMeet u weld p q w) := by
  rw [exec_meetRegistration h, State.expireMeets_alive (s := s.tie (.meet weld (meetUnit weld u)) u) ha]

theorem exec_meetDeadline (hv : (NMap.get {} (s.meets weld k) e).valid = true) (hd : (NMap.get {} (s.meets weld k) e).deadline ≤ s.cycle) :
    exec (.meetDeadline weld k e) s = .next (s.releaseHolder weld k e) := by
  show execMeetDeadline weld k e s = _
  simp only [execMeetDeadline, hv, decide_eq_true hd, Bool.and_self, if_true]

/-! ### Quiescence (07 R203) -/

/-- The clusters after a release: their align records are as they were. -/
theorem State.releaseHolder_align (h : ∀ c ∈ s.clusters, c.2.align = none) : ∀ c ∈ (s.releaseHolder weld k e).clusters, c.2.align = none := by
  rw [State.releaseHolder_eq, State.passMeet_clusters]
  cases weld
  · exact h
  · intro c hc
    rcases NMap.mem_set hc with rfl | hc
    · exact NMap.get_of_forall (P := fun c : Cluster => c.align = none) h rfl k
    · exact h c hc

theorem exec_quiescenceRelease {n : Nat} (hq : s.quiescent n = true) (hm : s.heldMeets n = [(weld, k, e)])
    (ha : ∀ c ∈ s.clusters, c.2.align = none) : exec (.quiescenceRelease n) s = .next (s.releaseHolder weld k e) := by
  show execQuiescenceRelease n s = _
  simp only [execQuiescenceRelease, hq, hm, if_true, List.foldl_cons, List.foldl_nil]
  refine congrArg _ (foldl_of_fixed fun c hc => ?_)
  rw [State.releaseHolder_align ha c hc]

end Sys2Proof.Machine
end

section
/-! ## The release of an align record (07 R197) -/

set_option Elab.async false

namespace Sys2Proof.Machine
variable {s : State} {u v cl : Nat} {ts : List Nat}

/-- A thread goes on past its ALIGN. -/
def State.passAlign (s : State) (u : Nat) : State := (s.updThread u (fun x => { x with pc := x.pc + 4, boundary := false })).wake u

theorem State.passAlign_thread : (s.passAlign u).thread u = { s.thread u with
    pc := (s.thread u).pc + 4, boundary := false, run := if (s.thread u).releasing = [] then .ready else .waiting .push } := by
  rw [State.passAlign, State.wake_thread, State.thread_updThread_same]

theorem State.passAlign_other (h : v ≠ u) : (s.passAlign u).thread v = s.thread v := by
  rw [State.passAlign, State.wake_other h, State.thread_updThread_ne _ _ _ _ h]

theorem State.passAlign_mem : (s.passAlign u).mem = s.mem := State.wake_mem ..
theorem State.passAlign_clusters : (s.passAlign u).clusters = s.clusters := State.wake_clusters ..

theorem State.passAligns_mem : (ts.foldl State.passAlign s).mem = s.mem := by
  induction ts generalizing s with
  | nil => rfl
  | cons t ts ih => exact ih.trans State.passAlign_mem

theorem State.passAligns_clusters : (ts.foldl State.passAlign s).clusters = s.clusters := by
  induction ts generalizing s with
  | nil => rfl
  | cons t ts ih => exact ih.trans State.passAlign_clusters

theorem State.passAligns_other (h : v ∉ ts) : (ts.foldl State.passAlign s).thread v = s.thread v := by
  induction ts generalizing s with
  | nil => rfl
  | cons t ts ih =>
    rw [List.mem_cons, not_or] at h
    exact (ih h.2).trans (State.passAlign_other h.1)

/-- Each of several threads goes on as it would alone. -/
theorem State.passAligns_thread (hn : ts.Nodup) (h : v ∈ ts) : (ts.foldl State.passAlign s).thread v = (s.passAlign v).thread v := by
  induction ts generalizing s with
  | nil => cases h
  | cons t ts ih =>
    obtain ⟨ht, hts⟩ := List.nodup_cons.1 hn
    rw [List.foldl_cons]
    rcases List.mem_cons.1 h with rfl | hv
    · exact State.passAligns_other ht
    · have hne : v ≠ t := fun e => ht (e ▸ hv)
      rw [ih hts hv, State.passAlign_thread, State.passAlign_thread, State.passAlign_other hne]

/-- The state with the align record of a cluster free. -/
def State.dropAlign (s : State) (cl : Nat) : State := s.updCluster cl (fun c => { c with align := none })

variable {a : Align} (ha : (s.cluster cl).align = some a) (hl : a.start + 512 ≤ s.cycle)
include ha hl

theorem exec_alignTimeout : exec (.alignTimeout cl) s = .next (a.waiters.foldl State.passAlign (s.dropAlign cl)) := by
  show execAlignTimeout cl s = _
  simp only [execAlignTimeout, ha, decide_eq_true hl, if_true, State.releaseAlign]
  rfl

theorem alignTimeout_releases (hn : a.waiters.Nodup) : Completes (.alignTimeout cl) s (fun t => (t.cluster cl).align = none ∧ t.mem = s.mem ∧
    ∀ v ∈ a.waiters, (t.thread v).pc = (s.thread v).pc + 4 ∧ ((s.thread v).releasing = [] → (t.thread v).run = .ready)) := by
  refine ⟨_, exec_alignTimeout ha hl, ?_, State.passAligns_mem, fun v hv => ?_⟩
  · rw [State.cluster_congr State.passAligns_clusters, State.dropAlign, State.cluster_updCluster, if_pos rfl]
  · rw [State.passAligns_thread hn hv, State.passAlign_thread]
    exact ⟨rfl, fun hr => if_pos hr⟩

end Sys2Proof.Machine
end

section
/-! ## Threads that wait for one another on channels (12 R333) -/

set_option Elab.async false

namespace Sys2Proof.Machine
variable {s t : State} {c : Cluster} {ws : List (Nat × Nat × Nat)} {cl u v : Nat}

/-! ### A path that follows a loop -/

/-- Thread `v` waits in the cluster, waited so at the last scan, and its wait's edge leads to thread `w`. -/
structure Cluster.WaitsOn (c : Cluster) (ws : List (Nat × Nat × Nat)) (v w : Nat) : Prop where
  held : ws.any (fun x => x.1 = v && c.scan.contains x) = true
  edge : c.edge ws v = some w

theorem Cluster.WaitsOn.path {w : Nat} (h : c.WaitsOn ws v w) (n : Nat) : c.path ws v (n + 1) = v :: c.path ws w n := by
  rw [Cluster.path, if_pos h.held, h.edge]

/-- The path follows a chain of waits from its first thread to its last. -/
theorem Cluster.path_along {w : Nat} (vs : List Nat) (h : List.IsChain (c.WaitsOn ws) (v :: (vs ++ [w]))) (n : Nat) :
    c.path ws v (vs.length + 1 + n) = v :: vs ++ c.path ws w n := by
  induction vs generalizing v with
  | nil =>
    rw [List.nil_append, List.isChain_cons_cons] at h
    rw [List.length_nil, Nat.zero_add, Nat.add_comm, h.1.path]
    rfl
  | cons x vs ih =>
    rw [List.cons_append, List.isChain_cons_cons] at h
    rw [show (x :: vs).length + 1 + n = (vs.length + 1 + n) + 1 by rw [List.length_cons]; omega, h.1.path, ih h.2]
    rfl

/-- A thread whose path comes back to it over `vs` is a victim where none of them is lower. -/
theorem Cluster.deadlocked_of_path {vs rest : List Nat} (hp : c.path ws v (ws.length + 1) = v :: (vs ++ v :: rest)) (hv : v ∉ vs) :
    c.deadlocked ws v = vs.all (fun u => decide (v ≤ u)) := by
  have hloop : (vs ++ v :: rest).takeWhile (fun u => u ≠ v) = vs := by
    have hne : ∀ u ∈ vs, decide (u ≠ v) = true := fun u hu => decide_eq_true fun e => hv (e ▸ hu)
    rw [List.takeWhile_append_of_pos hne, List.takeWhile_cons_of_neg (by simp),
      List.append_nil]
  have hback : (vs ++ v :: rest).contains v = true := by simp
  rw [Cluster.deadlocked, hp]
  simp only [hloop, hback, Bool.true_and]

/-- Every thread of a loop waited at the last scan, and the edge of each leads to the next. -/
structure Cluster.Loops (c : Cluster) (ws : List (Nat × Nat × Nat)) (loop : List Nat) : Prop where
  nodup : loop.Nodup
  held : ∀ v ∈ loop, ∃ w ∈ c.scan, w ∈ ws ∧ w.1 = v
  edges : ∀ i, i < loop.length → c.edge ws (loop.getD i 0) = some (loop.getD ((i + 1) % loop.length) 0)

namespace Cluster.Loops
variable {loop : List Nat} (h : c.Loops ws loop)
include h

theorem waitsOn {i : Nat} (hi : i < loop.length) : c.WaitsOn ws loop[i] (loop[(i + 1) % loop.length]'(Nat.mod_lt _ (by omega))) where
  held := by
    obtain ⟨w, hscan, hws, hw⟩ := h.held _ (List.getElem_mem hi)
    rw [List.any_eq_true]
    exact ⟨w, hws, by simp [hw, hscan]⟩
  edge := by
    have hnext : (i + 1) % loop.length < loop.length := Nat.mod_lt _ (by omega)
    have hedge := h.edges i hi
    rwa [List.getD_eq_getElem _ _ hi, List.getD_eq_getElem _ _ hnext] at hedge

/-- Once round the loop, from any of its threads. -/
theorem chain {i : Nat} (hi : i < loop.length) : List.IsChain (c.WaitsOn ws) (loop.rotate i ++ [loop[i]]) := by
  have hget : ∀ j (hj : j < (loop.rotate i ++ [loop[i]]).length),
      (loop.rotate i ++ [loop[i]])[j] = loop[(j + i) % loop.length]'(Nat.mod_lt _ (by omega)) := by
    intro j hj
    by_cases hlt : j < loop.length
    · rw [List.getElem_append_left (by rwa [List.length_rotate]), List.getElem_rotate]
    · have hlast : j = loop.length := by
        rw [List.length_append, List.length_rotate, List.length_singleton] at hj
        omega
      rw [List.getElem_append_right (by rw [List.length_rotate]; omega)]
      simp [hlast, Nat.mod_eq_of_lt hi]
  rw [List.isChain_iff_getElem]
  intro j hj
  rw [hget j (by omega), hget (j + 1) hj]
  have hwait := h.waitsOn (i := (j + i) % loop.length) (Nat.mod_lt _ (by omega))
  simp only [Nat.mod_add_mod, show j + i + 1 = j + 1 + i by omega] at hwait
  exact hwait

theorem length_le : loop.length ≤ ws.length := by
  have hsub : loop ⊆ ws.map (·.1) := fun v hv => by
    obtain ⟨w, -, hws, rfl⟩ := h.held v hv
    exact List.mem_map_of_mem hws
  simpa using (List.subperm_of_subset h.nodup hsub).length_le

/-- Of a loop the lowest thread is the victim. -/
theorem deadlocked (hv : v ∈ loop) : c.deadlocked ws v = decide (∀ w ∈ loop, v ≤ w) := by
  obtain ⟨i, hi, rfl⟩ := List.getElem_of_mem hv
  obtain ⟨vs, hvs⟩ : ∃ vs, loop.rotate i = loop[i] :: vs := ⟨_, (List.rotate_eq_drop_append_take hi.le).trans (by
    rw [List.drop_eq_getElem_cons hi, List.cons_append])⟩
  have hchain := h.chain hi
  rw [hvs] at hchain
  have hlen : vs.length + 1 = loop.length := by
    rw [← List.length_rotate loop i, hvs, List.length_cons]
  have hnext : ∃ w, c.WaitsOn ws loop[i] w := ⟨_, h.waitsOn hi⟩
  obtain ⟨w, hw⟩ := hnext
  obtain ⟨n, hn⟩ := Nat.exists_eq_add_of_le h.length_le
  have hpath := Cluster.path_along vs hchain (n + 1)
  rw [hw.path, show vs.length + 1 + (n + 1) = ws.length + 1 by omega] at hpath
  have hnot : loop[i] ∉ vs := by
    have hnodup := (List.nodup_rotate (n := i)).2 h.nodup
    rw [hvs] at hnodup
    exact (List.nodup_cons.1 hnodup).1
  rw [Cluster.deadlocked_of_path hpath hnot, Bool.eq_iff_iff, List.all_eq_true, decide_eq_true_eq]
  have hmem : ∀ x, x ∈ loop ↔ x = loop[i] ∨ x ∈ vs := fun x => by rw [← List.mem_rotate (n := i), hvs, List.mem_cons]
  constructor
  · intro hall x hx
    rcases (hmem x).1 hx with rfl | hx
    · exact le_refl _
    · exact of_decide_eq_true (hall x hx)
  · exact fun hall x hx => decide_eq_true (hall x ((hmem x).2 (.inr hx)))

end Cluster.Loops

/-! ### The scan -/

/-- The waits whose threads trap at a scan: of each deadlocked cycle that of its lowest thread, with its record. -/
def Cluster.victims (c : Cluster) : List (Nat × ChanWait) :=
  c.chans.flatMap (fun p => (p.2.recvs.filter (fun w => c.deadlocked c.recvWaits w.t)).map (fun w => (p.1, w)))

/-- A victim's wait ends in the deadlock trap (18 R423). -/
def State.breakWait (s : State) (cl : Nat) (v : Nat × ChanWait) : State :=
  let r := NMap.get {} (s.cluster cl).chans v.1
  (s.setChan cl v.1 { r with recvs := r.recvs.filter (fun w => w.t ≠ v.2.t) }).trapEntry v.2.t { cause := causeDeadlock, fadr := some v.2.word }

/-- The scan keeps the waits it has found. -/
def State.keepWaits (s : State) (cl : Nat) (ws : List (Nat × Nat × Nat)) : State := s.updCluster cl (fun d => { d with scan := ws })

/-- A trap taken by a thread with a handler (18 R425). -/
def Thread.entered (x : Thread) (r : TrapReq) : Thread :=
  { x with epc := x.trapPc r, estatus := x.status, ecause := r.ecause, fadr := r.fadr.getD x.fadr, sv := true, pfx := false, pin := true,
           hflag := true, boundary := false, stage := none, pc := x.tvec }

theorem State.trapEntry_handled (h : (s.thread u).tvec ≠ 0) (r : TrapReq) :
    s.trapEntry u r = (s.updThread u (fun x => x.entered r)).wake u := by
  simp only [State.trapEntry, if_neg h]
  rfl

theorem TrapReq.ecause_deadlock (a : Option Word) : ({ cause := causeDeadlock, fadr := a } : TrapReq).ecause = 6 := by
  simp [TrapReq.ecause, causeDeadlock]

/-- From `s` to `t` thread `u` has taken the deadlock trap for its wait on word `w`, and no other thread has changed. -/
structure DeadlockTrapped (s t : State) (u : Nat) (w : Word) : Prop where
  ecause : (t.thread u).ecause = 6
  fadr : (t.thread u).fadr = w
  pc : (t.thread u).pc = (s.thread u).tvec
  others : ∀ v, v ≠ u → t.thread v = s.thread v
  mem : t.mem = s.mem

@[simp] theorem State.setChan_thread (s : State) (cl i : Nat) (r : Chan) (v : Nat) : (s.setChan cl i r).thread v = s.thread v := rfl

theorem State.breakWait_trapped {i : Nat} {w : ChanWait} (h : (s.thread w.t).tvec ≠ 0) :
    DeadlockTrapped s (s.breakWait cl (i, w)) w.t w.word := by
  have hthread : (s.breakWait cl (i, w)).thread w.t = { (s.thread w.t).entered { cause := causeDeadlock, fadr := some w.word } with
      run := if (s.thread w.t).releasing = [] then .ready else .waiting .push } := by
    rw [State.breakWait, State.trapEntry_handled (by exact h), State.wake_thread, State.thread_updThread_same]
    rfl
  refine ⟨?_, ?_, ?_, fun v hv => ?_, ?_⟩
  · rw [hthread]
    exact TrapReq.ecause_deadlock _
  · rw [hthread]
    rfl
  · rw [hthread]
    rfl
  · rw [State.breakWait, State.trapEntry_handled (by exact h), State.wake_other hv, State.thread_updThread_ne _ _ _ _ hv]
    rfl
  · rw [State.breakWait, State.trapEntry_handled (by exact h), State.wake_mem]
    rfl

/-- What the trap of a victim leaves of its cluster: its record without the wait. -/
theorem State.breakWait_chans {i : Nat} {w : ChanWait} (h : (s.thread w.t).tvec ≠ 0) {r : Chan}
    (hr : NMap.get {} (s.cluster cl).chans i = r) (hf : r.fifo = []) (hs : r.sends = []) (hw : r.recvs = [w]) :
    ((s.breakWait cl (i, w)).cluster cl).chans = NMap.set {} (s.cluster cl).chans i {} := by
  rw [State.breakWait, State.trapEntry_handled (by exact h), State.cluster_congr (State.wake_clusters _ _), State.cluster_congr rfl]
  simp [State.setChan, hr, hf, hs, hw]

section scan
variable (hc : (s.cycle - s.dieReset) % 4096 = 0) (ht : s.tieTaken (.scan cl) = false)
include hc ht

theorem exec_channelDeadlockScan : exec (.channelDeadlockScan cl) s =
    .next (((s.cluster cl).victims.foldl (fun s v => s.breakWait cl v) (s.tie (.scan cl) 0)).keepWaits cl (s.cluster cl).recvWaits) := by
  show execChannelDeadlockScan cl s = _
  simp only [execChannelDeadlockScan, hc, ht, ne_eq, not_true_eq_false, decide_false, Bool.or_self, Bool.false_eq_true, if_false]
  rfl

theorem scan_breaks {i : Nat} {w : ChanWait} (hv : (s.cluster cl).victims = [(i, w)]) : exec (.channelDeadlockScan cl) s =
    .next (((s.tie (.scan cl) 0).breakWait cl (i, w)).keepWaits cl (s.cluster cl).recvWaits) := by
  rw [exec_channelDeadlockScan hc ht, hv]
  rfl

/-- The one victim traps. -/
theorem scan_traps {i : Nat} {w : ChanWait} (hv : (s.cluster cl).victims = [(i, w)]) (hh : (s.thread w.t).tvec ≠ 0) :
    Completes (.channelDeadlockScan cl) s (fun t => (t.thread w.t).ecause = 6 ∧ (t.thread w.t).fadr = w.word ∧
      (t.thread w.t).pc = (s.thread w.t).tvec ∧ (∀ v, v ≠ w.t → t.thread v = s.thread v) ∧ t.mem = s.mem ∧
      (t.cluster cl).scan = (s.cluster cl).recvWaits) := by
  obtain ⟨hecause, hfadr, hpc, hothers, hmem⟩ := State.breakWait_trapped (s := s.tie (.scan cl) 0) (cl := cl) (i := i) hh
  refine ⟨_, scan_breaks hc ht hv, hecause, hfadr, hpc, hothers, hmem, ?_⟩
  rw [State.keepWaits, State.cluster_updCluster, if_pos rfl]

/-- Without a deadlock only the waits are kept. -/
theorem scan_keeps (hn : ∀ p ∈ (s.cluster cl).chans, ∀ w ∈ p.2.recvs, (s.cluster cl).deadlocked (s.cluster cl).recvWaits w.t = false) :
    Completes (.channelDeadlockScan cl) s (fun t => (t.cluster cl).scan = (s.cluster cl).recvWaits ∧ t.threads = s.threads ∧ t.mem = s.mem) := by
  have hv : (s.cluster cl).victims = [] := by
    rw [Cluster.victims, List.flatMap_eq_nil_iff]
    intro p hp
    rw [List.map_eq_nil_iff, List.filter_eq_nil_iff]
    intro w hw
    rw [hn p hp w hw]
    decide
  refine ⟨_, exec_channelDeadlockScan hc ht, ?_⟩
  rw [hv]
  refine ⟨?_, rfl, rfl⟩
  rw [State.keepWaits, State.cluster_updCluster, if_pos rfl]

end scan

/-! ### A thread that waits for itself -/

/-- The one record of a cluster: a thread waits on it, and it was the last to send to it. -/
def selfWait (w : ChanWait) (n : Nat) : Chan := { live := true, recvs := [w], last := some w.t, sent := n }

section self
variable {i n : Nat} {w : ChanWait} (hchans : c.chans = [(i, selfWait w n)])
include hchans

theorem Cluster.recvWaits_self : c.recvWaits = [(w.t, i, n)] := by
  rw [Cluster.recvWaits, hchans]
  rfl

theorem Cluster.loops_self (hscan : c.scan = [(w.t, i, n)]) : c.Loops c.recvWaits [w.t] where
  nodup := List.nodup_singleton _
  held v hv := ⟨(w.t, i, n), by simp [hscan], by simp [Cluster.recvWaits_self hchans], (List.mem_singleton.1 hv).symm⟩
  edges j hj := by
    have hj0 : j = 0 := by simpa using hj
    subst hj0
    simp [Cluster.edge, Cluster.recvWaits_self hchans, hchans, NMap.get, selfWait]

/-- It is the victim. -/
theorem Cluster.victims_self (hscan : c.scan = [(w.t, i, n)]) : c.victims = [(i, w)] := by
  have hdead : c.deadlocked c.recvWaits w.t = true := by
    rw [(Cluster.loops_self hchans hscan).deadlocked (List.mem_singleton_self _)]
    simp
  rw [Cluster.victims, hchans]
  simp [selfWait, hdead]

end self

/-- A scan of a cluster whose one record a thread waits on that sent to it last: it traps, and the record is free. -/
theorem scan_self {i n : Nat} {w : ChanWait} (hc : (s.cycle - s.dieReset) % 4096 = 0) (ht : s.tieTaken (.scan cl) = false)
    (hchans : (s.cluster cl).chans = [(i, selfWait w n)]) (hscan : (s.cluster cl).scan = [(w.t, i, n)]) (hh : (s.thread w.t).tvec ≠ 0) :
    Completes (.channelDeadlockScan cl) s (fun t => (t.thread w.t).ecause = 6 ∧ (t.thread w.t).fadr = w.word ∧
      (t.thread w.t).pc = (s.thread w.t).tvec ∧ (t.cluster cl).chans = []) := by
  have hv := Cluster.victims_self hchans hscan
  obtain ⟨hecause, hfadr, hpc, -, -⟩ := State.breakWait_trapped (s := s.tie (.scan cl) 0) (cl := cl) (i := i) hh
  refine ⟨_, scan_breaks hc ht hv, hecause, hfadr, hpc, ?_⟩
  have htie : (s.tie (.scan cl) 0).cluster cl = s.cluster cl := State.cluster_congr rfl cl
  have hget : NMap.get {} ((s.tie (.scan cl) 0).cluster cl).chans i = selfWait w n := by
    rw [htie, hchans]
    simp [NMap.get]
  rw [State.keepWaits, State.cluster_updCluster, if_pos rfl]
  refine (State.breakWait_chans (s := s.tie (.scan cl) 0) hh hget rfl rfl rfl).trans ?_
  rw [htie, hchans]
  simp [NMap.set, NMap.cons, NMap.past]

end Sys2Proof.Machine
end

section
/-! ## Meets, align records and the deadlock scan as a whole (07 R197, R201 to R203; 12 R333) -/

set_option Elab.async false

namespace Sys2Proof.Machine
variable {s : State} {u e p q w : Nat} {weld : Bool} {m : Meet}

section registers
variable (h : s.Registers u weld p q w)
include h

/-- A deadline that has come is applied before the arrival (07 R202). -/
theorem meetRegistration_expires (ht : s.meets weld (meetUnit weld u) = [(e, m)]) (hv : m.valid = true) (hd : m.deadline ≤ s.cycle) :
    exec (.meetRegistration u) s = .next (((s.tie (.meet weld (meetUnit weld u)) u).releaseHolder weld (meetUnit weld u) e).registerMeet
      u weld p q w) := by
  rw [exec_meetRegistration h, State.expireMeets_one (s := s.tie (.meet weld (meetUnit weld u)) u) ht hv hd]

variable (ha : ∀ m ∈ s.meets weld (meetUnit weld u), m.2.valid = true → s.cycle < m.2.deadline)
include ha

theorem meetRegistration_folds
    (hf : (s.meets weld (meetUnit weld u)).find? (fun m => m.2.same ((s.thread u).arrival weld p q)) = some (e, m))
    (hc : m.count + (s.thread u).mc ≤ 2 ^ 32 - 1) : exec (.meetRegistration u) s =
      .next (((s.tie (.meet weld (meetUnit weld u)) u).setMeet weld (meetUnit weld u) e
        { m with count := m.count + (s.thread u).mc }).endThread u) := by
  rw [exec_meetRegistration_alive h ha]
  exact congrArg _ (State.registerMeet_folds (s := s.tie (.meet weld (meetUnit weld u)) u) rfl hf hc)

/-- Where the sum would not fit the holder is released with its count, and both go on. -/
theorem meetRegistration_refuses
    (hf : (s.meets weld (meetUnit weld u)).find? (fun m => m.2.same ((s.thread u).arrival weld p q)) = some (e, m))
    (hm : NMap.get {} (s.meets weld (meetUnit weld u)) e = m) (hc : 2 ^ 32 - 1 < m.count + (s.thread u).mc) (hne : m.holder ≠ u)
    (hu : (s.thread u).releasing = []) (hh : (s.thread m.holder).releasing = []) :
    Completes (.meetRegistration u) s (fun t => NMap.get {} (t.meets weld (meetUnit weld u)) e = {} ∧ (t.thread u).run = .ready ∧
      (t.thread u).pc = (s.thread u).pc + 4 ∧ (t.thread u).mc = (s.thread u).mc ∧ (t.thread m.holder).run = .ready ∧
      (t.thread m.holder).pc = (s.thread m.holder).pc + 4 ∧ (t.thread m.holder).mc = m.count ∧ t.mem = s.mem) := by
  subst hm
  set s1 := s.tie (.meet weld (meetUnit weld u)) u
  have hrel : Released s1 (s1.releaseHolder weld (meetUnit weld u) e) weld (meetUnit weld u) e := State.releaseHolder_released hh
  set s2 := s1.releaseHolder weld (meetUnit weld u) e
  have hme : s2.thread u = s.thread u := hrel.others u hne.symm
  have hback := State.passMeet_returned (s := s2) (u := u) (by rw [hme]; exact hu)
  rw [hme] at hback
  refine ⟨s2.passMeet u, ?_, ?_, (congrArg Thread.run hback.thread :), (congrArg Thread.pc hback.thread :), (congrArg Thread.mc hback.thread :),
    ?_, ?_, ?_, hback.mem.trans hrel.mem⟩
  · rw [exec_meetRegistration_alive h ha]
    exact congrArg _ (State.registerMeet_refuses (s := s1) rfl hf hc)
  · rw [State.passMeet_meets]
    exact hrel.entry
  · rw [hback.others _ hne]
    exact hrel.run
  · rw [hback.others _ hne]
    exact hrel.pc
  · rw [hback.others _ hne]
    exact hrel.mc

section unequal
variable (hf : (s.meets weld (meetUnit weld u)).find? (fun m => m.2.same ((s.thread u).arrival weld p q)) = none)
include hf

theorem meetRegistration_passes (hu : (s.thread u).releasing = [])
    (hw : w = 0 ∨ ∀ i, i < meetSize weld → (NMap.get {} (s.meets weld (meetUnit weld u)) i).valid = true) :
    Completes (.meetRegistration u) s (fun t => (t.thread u).run = .ready ∧ (t.thread u).pc = (s.thread u).pc + 4 ∧
      (t.thread u).mc = (s.thread u).mc ∧ (t.thread u).stage = none ∧ t.mem = s.mem) := by
  set s1 := s.tie (.meet weld (meetUnit weld u)) u
  have hback := State.passMeet_returned (s := s1) (u := u) hu
  refine ⟨s1.passMeet u, ?_, (congrArg Thread.run hback.thread :), (congrArg Thread.pc hback.thread :), (congrArg Thread.mc hback.thread :),
    (congrArg Thread.stage hback.thread :), hback.mem⟩
  rw [exec_meetRegistration_alive h ha]
  exact congrArg _ (State.registerMeet_passes (s := s1) rfl hf hw)

/-- The first of equal arrivals waits as holder. -/
theorem meetRegistration_holds (hw : w ≠ 0) (he : e < meetSize weld)
    (hfree : (NMap.get {} (s.meets weld (meetUnit weld u)) e).valid = false)
    (hlow : ∀ i, i < e → (NMap.get {} (s.meets weld (meetUnit weld u)) i).valid = true) :
    Completes (.meetRegistration u) s (fun t => (t.thread u).run = .parked (.holder weld (meetUnit weld u) e) ∧
      (t.thread u).pc = (s.thread u).pc ∧ t.mem = s.mem ∧ NMap.get {} (t.meets weld (meetUnit weld u)) e =
        { (s.thread u).arrival weld p q with holder := u, count := (s.thread u).mc, deadline := s.cycle + 16 * w }) := by
  set s1 := s.tie (.meet weld (meetUnit weld u)) u
  set m : Meet := { (s.thread u).arrival weld p q with holder := u, count := (s.thread u).mc, deadline := s.cycle + 16 * w }
  have hholder : (s1.holdMeet u weld (meetUnit weld u) e m).thread u = _ := State.holdMeet_thread
  refine ⟨s1.holdMeet u weld (meetUnit weld u) e m, ?_, congrArg Thread.run hholder, (congrArg Thread.pc hholder :),
    State.holdMeet_mem, State.holdMeet_get⟩
  rw [exec_meetRegistration_alive h ha]
  exact congrArg _ (State.registerMeet_holds (s := s1) rfl hf hw he hfree hlow)

end unequal
end registers

/-- A holder whose deadline has come is released with its count. -/
theorem meetDeadline_releases {k : Nat} (hv : (NMap.get {} (s.meets weld k) e).valid = true)
    (hd : (NMap.get {} (s.meets weld k) e).deadline ≤ s.cycle) (hh : (s.thread (NMap.get {} (s.meets weld k) e).holder).releasing = []) :
    Completes (.meetDeadline weld k e) s (fun t => NMap.get {} (t.meets weld k) e = {} ∧
      (t.thread (NMap.get {} (s.meets weld k) e).holder).run = .ready ∧
      (t.thread (NMap.get {} (s.meets weld k) e).holder).pc = (s.thread (NMap.get {} (s.meets weld k) e).holder).pc + 4 ∧
      (t.thread (NMap.get {} (s.meets weld k) e).holder).mc = (NMap.get {} (s.meets weld k) e).count ∧ t.mem = s.mem) := by
  obtain ⟨hentry, hrun, hpc, hmc, hmem, -⟩ := State.releaseHolder_released hh
  exact ⟨_, exec_meetDeadline hv hd, hentry, hrun, hpc, hmc, hmem⟩

/-- Settles O27: the rows of 07 R201, then deadlines, quiescence, align records and the scan. -/
theorem meetEventResult : Obligations.MeetEventResult := by
  intro s u e cl n weld
  refine ⟨fun p q w hstage hrun hdrained hturn hmapped => ?_, meetDeadline_releases, fun j hq hm ha => exec_quiescenceRelease hq hm ha,
    fun a ha hl hn => alignTimeout_releases ha hl hn, fun hc ht => ⟨fun loop hn hheld hedges v hv => ?_,
      fun i w hv hh => scan_traps hc ht hv hh, scan_keeps hc ht, fun i w hchans hscan hh => scan_self hc ht hchans hscan hh⟩⟩
  · have h : s.Registers u weld p q w := ⟨hstage, hrun, hdrained, hturn, hmapped⟩
    refine ⟨fun j m => meetRegistration_expires h, fun ha => ⟨fun m => meetRegistration_folds h ha, fun m => meetRegistration_refuses h ha,
      fun hf => ⟨fun hw hu => meetRegistration_passes h ha hf hu hw, meetRegistration_holds h ha hf⟩⟩⟩
  · exact Cluster.Loops.deadlocked ⟨hn, hheld, hedges⟩ hv

end Sys2Proof.Machine
end

section
/-! ## The values of the assembler: hi, lo and displacements (08 R223, R227; 10 R292; 09 R246) -/

namespace Sys2Proof.Machine

/-! ### hi and lo (08 R227) -/

/-- A field that was sign-extended is read back whole. -/
theorem setWidth_signExtend {w n : Nat} (v : BitVec w) (h : w ≤ n) : (v.signExtend n).setWidth w = v := by
  ext i hi
  simp [BitVec.getElem_signExtend, hi, show i < n by omega]

namespace Hxas

/-- What `lui d, hi(e)` and `addi d, d, lo(e)` leave in `d` (10 R277, R280). -/
def luiAddi (e : Word) : Word := ((hiOf e).setWidth 20).signExtend 64 * 2 ^ 14 + ((loOf e).setWidth 14).signExtend 64

theorem signExtend_setWidth_loOf (e : Word) : ((loOf e).setWidth 14).signExtend 64 = loOf e := by
  rw [loOf, setWidth_signExtend _ (by decide)]

theorem setWidth_hiOf (e : Word) : (hiOf e).setWidth 20 = ((e - loOf e) >>> 14).setWidth 20 := by
  rw [hiOf, BitVec.setWidth_and, show (0xFFFFF#64).setWidth 20 = BitVec.allOnes 20 from rfl, BitVec.and_allOnes]

/-- The low part, as a signed number: congruent to `e` modulo 2^14, from -2^13 to 2^13 - 1. -/
theorem toInt_loOf (e : Word) : (loOf e).toInt = e.toInt.bmod (2 ^ 14) := by
  rw [loOf, BitVec.toInt_signExtend_of_le (by decide), ← BitVec.setWidth_eq_extractLsb' (by decide), BitVec.toInt_setWidth,
    BitVec.toInt_eq_toNat_bmod, Int.bmod_bmod_of_dvd (by decide)]

/-- LUI's field in place: bits 33 to 14 of a multiple of 2^14 are the whole of its value modulo 2^34. -/
theorem toInt_field_mul {x : Word} (h : x.toInt % 2 ^ 14 = 0) :
    ((x >>> 14).setWidth 20).toInt * 2 ^ 14 = x.toInt.bmod (2 ^ 34) := by
  rw [BitVec.toInt_setWidth, BitVec.toNat_ushiftRight, Nat.shiftRight_eq_div_pow, BitVec.toInt_eq_toNat_cond]
  rw [BitVec.toInt_eq_toNat_cond] at h
  simp only [Int.bmod_def]
  omega

/-- The pair, as a signed number: e - lo(e) modulo 2^34, and lo(e). -/
theorem toInt_luiAddi (e : Word) : (luiAddi e).toInt = (e.toInt - e.toInt.bmod (2 ^ 14)).bmod (2 ^ 34) + e.toInt.bmod (2 ^ 14) := by
  have hsub : (e - loOf e).toInt = (e.toInt - e.toInt.bmod (2 ^ 14)).bmod (2 ^ 64) := by rw [BitVec.toInt_sub, toInt_loOf]
  have hmul : (e - loOf e).toInt % 2 ^ 14 = 0 := by
    rw [hsub]
    simp only [Int.bmod_def]
    omega
  have hfield := toInt_field_mul hmul
  rw [hsub, Int.bmod_bmod_of_dvd (by decide)] at hfield
  rw [luiAddi, setWidth_hiOf, signExtend_setWidth_loOf, BitVec.toInt_add, BitVec.toInt_mul,
    BitVec.toInt_signExtend_of_le (by decide), show ((2 : Word) ^ 14).toInt = 2 ^ 14 from rfl, hfield, toInt_loOf, Int.bmod_add_bmod]
  simp only [Int.bmod_def]
  omega

/-- While LUI's field holds the quotient of e - lo(e) by 2^14, the pair gives `e`. -/
theorem luiAddi_eq_self {e : Word} (hmin : -(2 ^ 33) ≤ e.toInt) (hmax : e.toInt < 2 ^ 33 - 2 ^ 13) : luiAddi e = e := by
  apply BitVec.eq_of_toInt_eq
  rw [toInt_luiAddi]
  simp only [Int.bmod_def]
  omega

/-- In the band above, e - lo(e) is 2^33, which LUI's field reads as -2^33. -/
theorem luiAddi_eq_sub {e : Word} (hmin : 2 ^ 33 - 2 ^ 13 ≤ e.toInt) (hmax : e.toInt < 2 ^ 33) : luiAddi e = e - 2 ^ 34 := by
  apply BitVec.eq_of_toInt_eq
  rw [toInt_luiAddi, BitVec.toInt_sub, show ((2 : Word) ^ 34).toInt = 2 ^ 34 from rfl]
  simp only [Int.bmod_def]
  omega

/-- In that band `li` goes through the pair for e - 8,192 (10 R292). -/
theorem luiAddi_sub_add {e : Word} (hmin : 2 ^ 33 - 2 ^ 13 ≤ e.toInt) (hmax : e.toInt < 2 ^ 33) :
    luiAddi (e - 8192) + 4096 + 4096 = e := by
  have hsub : (e - 8192).toInt = e.toInt - 8192 := by
    rw [BitVec.toInt_sub, show (8192 : Word).toInt = 8192 from rfl, Int.bmod_eq_of_le (by omega) (by omega)]
  rw [luiAddi_eq_self (by omega) (by omega)]
  bv_omega

end Hxas

/-! ### Displacements (08 R223; 09 R246) -/

/-- blk(t) - blk(pc) of 08 R223: the distance in fetch blocks. -/
def blocksTo (pc t : Word) : Int := (t.toNat / 64 : Nat) - (pc.toNat / 64 : Nat)

theorem blockBase_eq_shift (pc : Word) : blockBase pc = pc >>> 6 <<< 6 := by
  have hmask : ~~~63#64 = BitVec.allOnes 64 <<< 6 := by decide
  rw [blockBase, hmask]
  ext i hi
  simp only [BitVec.getElem_and, BitVec.getElem_shiftLeft, BitVec.getElem_ushiftRight, BitVec.getElem_allOnes]
  by_cases h : i < 6
  · simp [h]
  · simp [h, show 6 + (i - 6) = i by omega, BitVec.getLsbD_eq_getElem hi]

theorem blockBase_eq_ofInt (pc : Word) : blockBase pc = BitVec.ofInt 64 ((pc.toNat / 64 : Nat) * 64) := by
  rw [blockBase_eq_shift]
  apply BitVec.eq_of_toNat_eq
  rw [BitVec.toNat_shiftLeft, BitVec.toNat_ushiftRight, Nat.shiftRight_eq_div_pow, Nat.shiftLeft_eq, BitVec.toNat_ofInt]
  omega

theorem simm_ofInt {w : Nat} {d : Int} (hpos : 0 < w) (hw : w ≤ 64) (hmin : -(2 ^ (w - 1)) ≤ d) (hmax : d < 2 ^ (w - 1)) :
    simm (BitVec.ofInt w d) = BitVec.ofInt 64 d := by
  have hpow : (2 : Int) ^ (w - 1) ≤ 2 ^ 63 := pow_le_pow_right₀ (by decide) (by omega)
  apply BitVec.eq_of_toInt_eq
  rw [simm, BitVec.toInt_signExtend_of_le hw, BitVec.toInt_ofInt_eq_self hpos hmin hmax,
    BitVec.toInt_ofInt_eq_self (by decide) (by omega) (by omega)]

/-- The distance to a block leads to it from every instruction whose field holds it. -/
theorem target_blocksTo {w : Nat} {pc t : Word} (hpos : 0 < w) (hw : w ≤ 64) (ht : t.toNat % 64 = 0)
    (hmin : -(2 ^ (w - 1)) ≤ blocksTo pc t) (hmax : blocksTo pc t < 2 ^ (w - 1)) :
    target pc (BitVec.ofInt w (blocksTo pc t)) = t := by
  have hsum : ((pc.toNat / 64 : Nat) * 64 + blocksTo pc t * 64 : Int) = t.toNat := by
    unfold blocksTo
    omega
  rw [target, simm_ofInt hpos hw hmin hmax, blockBase_eq_ofInt, show (64 : Word) = BitVec.ofInt 64 64 from rfl, ← BitVec.ofInt_mul,
    ← BitVec.ofInt_add, hsum, BitVec.ofInt_natCast, BitVec.ofNat_toNat, BitVec.setWidth_eq]

namespace Hxas

/-- A displacement to a known target: the three outcomes of 08 R223. -/
theorem Ctx.disp_num (c : Ctx) (t : Word) (bits : Nat) : c.disp (.num t) bits =
    if t.toNat % 64 ≠ 0 then .error .e7
    else if -(2 ^ (bits - 1)) ≤ blocksTo c.here t ∧ blocksTo c.here t < 2 ^ (bits - 1) then .ok (blocksTo c.here t)
    else .error .e8 := by
  simp [Ctx.disp, eval, bind, Except.bind, blocksTo]

variable {c : Ctx} {t : Word} {bits : Nat}

theorem Ctx.disp_num_unaligned (h : t.toNat % 64 ≠ 0) : c.disp (.num t) bits = .error .e7 := by
  rw [Ctx.disp_num, if_pos h]

theorem Ctx.disp_num_ok_iff {k : Int} : c.disp (.num t) bits = .ok k ↔ t.toNat % 64 = 0 ∧
    -(2 ^ (bits - 1)) ≤ blocksTo c.here t ∧ blocksTo c.here t < 2 ^ (bits - 1) ∧ blocksTo c.here t = k := by
  rw [Ctx.disp_num]
  split
  · next h => simp [h]
  · next h =>
    split
    · next hr => simp [not_not.mp h, hr]
    · next hr => simpa [not_not.mp h] using fun hmin hmax => absurd ⟨hmin, hmax⟩ hr

theorem Ctx.disp_num_far (h : t.toNat % 64 = 0)
    (hr : blocksTo c.here t < -(2 ^ (bits - 1)) ∨ 2 ^ (bits - 1) ≤ blocksTo c.here t) : c.disp (.num t) bits = .error .e8 := by
  rw [Ctx.disp_num, if_neg (not_not.mpr h), if_neg (by omega)]

end Hxas

/-- Settles O60: the pair within LUI's range and in the band above it, then the outcomes of a displacement. -/
theorem assemblerValues : Obligations.AssemblerValues := by
  refine ⟨fun e => Hxas.luiAddi_eq_self, fun e hmin hmax => ⟨Hxas.luiAddi_eq_sub hmin hmax, Hxas.luiAddi_sub_add hmin hmax⟩,
    fun c t bits hbits => ⟨fun k hk => ?_, Hxas.Ctx.disp_num_unaligned,
      fun ht hmin hmax => Hxas.Ctx.disp_num_ok_iff.mpr ⟨ht, hmin, hmax, rfl⟩, Hxas.Ctx.disp_num_far⟩⟩
  obtain ⟨ht, hmin, hmax, rfl⟩ := Hxas.Ctx.disp_num_ok_iff.mp hk
  exact ⟨target_blocksTo (by omega) (by omega) ht hmin hmax, ht⟩

end Sys2Proof.Machine
end

section
/-!
## Decoding the encoding (09 R242 to R266)
-/

namespace Sys2Proof.Laws

/-- Every instruction of the table: the rows that are encoded one by one, then the steps, which have no encoding. -/
theorem roundTrip (i : Instr) : RoundTrip.Statement i := by
  cases i with
  | add => apply RoundTrip.add
  | sub => apply RoundTrip.sub
  | and => apply RoundTrip.and
  | or => apply RoundTrip.or
  | xor => apply RoundTrip.xor
  | andn => apply RoundTrip.andn
  | sll => apply RoundTrip.sll
  | srl => apply RoundTrip.srl
  | sra => apply RoundTrip.sra
  | ror => apply RoundTrip.ror
  | min => apply RoundTrip.min
  | max => apply RoundTrip.max
  | minu => apply RoundTrip.minu
  | maxu => apply RoundTrip.maxu
  | slt => apply RoundTrip.slt
  | sltu => apply RoundTrip.sltu
  | seq => apply RoundTrip.seq
  | sne => apply RoundTrip.sne
  | cmovz => apply RoundTrip.cmovz
  | cmovnz => apply RoundTrip.cmovnz
  | clz => apply RoundTrip.clz
  | ctz => apply RoundTrip.ctz
  | popc => apply RoundTrip.popc
  | mul => apply RoundTrip.mul
  | mulh => apply RoundTrip.mulh
  | mulhu => apply RoundTrip.mulhu
  | mulhsu => apply RoundTrip.mulhsu
  | div => apply RoundTrip.div
  | divu => apply RoundTrip.divu
  | rem => apply RoundTrip.rem
  | remu => apply RoundTrip.remu
  | addi => apply RoundTrip.addi
  | andi => apply RoundTrip.andi
  | ori => apply RoundTrip.ori
  | xori => apply RoundTrip.xori
  | slli => apply RoundTrip.slli
  | srli => apply RoundTrip.srli
  | srai => apply RoundTrip.srai
  | rori => apply RoundTrip.rori
  | seqi => apply RoundTrip.seqi
  | snei => apply RoundTrip.snei
  | slti => apply RoundTrip.slti
  | sltiu => apply RoundTrip.sltiu
  | lui => apply RoundTrip.lui
  | leapc => apply RoundTrip.leapc
  | bfxu => apply RoundTrip.bfxu
  | bfx => apply RoundTrip.bfx
  | bfi => apply RoundTrip.bfi
  | fadd => apply RoundTrip.fadd
  | fsub => apply RoundTrip.fsub
  | fmul => apply RoundTrip.fmul
  | fma => apply RoundTrip.fma
  | fdiv => apply RoundTrip.fdiv
  | fcmp => apply RoundTrip.fcmp
  | fcvtif => apply RoundTrip.fcvtif
  | fcvtfi => apply RoundTrip.fcvtfi
  | beq => apply RoundTrip.beq
  | bne => apply RoundTrip.bne
  | blt => apply RoundTrip.blt
  | bge => apply RoundTrip.bge
  | bltu => apply RoundTrip.bltu
  | bgeu => apply RoundTrip.bgeu
  | j => apply RoundTrip.j
  | call => apply RoundTrip.call
  | jr => apply RoundTrip.jr
  | callr => apply RoundTrip.callr
  | lb => apply RoundTrip.lb
  | lh => apply RoundTrip.lh
  | lw => apply RoundTrip.lw
  | ld => apply RoundTrip.ld
  | lbu => apply RoundTrip.lbu
  | lhu => apply RoundTrip.lhu
  | lwu => apply RoundTrip.lwu
  | sb => apply RoundTrip.sb
  | sh => apply RoundTrip.sh
  | sw => apply RoundTrip.sw
  | sd => apply RoundTrip.sd
  | ldm => apply RoundTrip.ldm
  | stm => apply RoundTrip.stm
  | aadd => apply RoundTrip.aadd
  | afadd => apply RoundTrip.afadd
  | amin => apply RoundTrip.amin
  | amax => apply RoundTrip.amax
  | aminu => apply RoundTrip.aminu
  | amaxu => apply RoundTrip.amaxu
  | aand => apply RoundTrip.aand
  | aor => apply RoundTrip.aor
  | axor => apply RoundTrip.axor
  | aswap => apply RoundTrip.aswap
  | acas => apply RoundTrip.acas
  | fence => apply RoundTrip.fence
  | tclr => apply RoundTrip.tclr
  | tjoin => apply RoundTrip.tjoin
  | twait => apply RoundTrip.twait
  | bar => apply RoundTrip.bar
  | baradd => apply RoundTrip.baradd
  | barfadd => apply RoundTrip.barfadd
  | chsend => apply RoundTrip.chsend
  | chrecv => apply RoundTrip.chrecv
  | amld => apply RoundTrip.amld
  | amst => apply RoundTrip.amst
  | amopAadd => apply RoundTrip.amopAadd
  | amopAfadd => apply RoundTrip.amopAfadd
  | amopAmin => apply RoundTrip.amopAmin
  | amopAmax => apply RoundTrip.amopAmax
  | amopAminu => apply RoundTrip.amopAminu
  | amopAmaxu => apply RoundTrip.amopAmaxu
  | amopAand => apply RoundTrip.amopAand
  | amopAor => apply RoundTrip.amopAor
  | amopAxor => apply RoundTrip.amopAxor
  | amopAswap => apply RoundTrip.amopAswap
  | amopAcas => apply RoundTrip.amopAcas
  | fork => apply RoundTrip.fork
  | meet => apply RoundTrip.meet
  | meetC => apply RoundTrip.meetC
  | done => apply RoundTrip.done
  | align => apply RoundTrip.align
  | yield => apply RoundTrip.yield
  | spawn => apply RoundTrip.spawn
  | waitw => apply RoundTrip.waitw
  | taskend => apply RoundTrip.taskend
  | commit => apply RoundTrip.commit
  | hrq => apply RoundTrip.hrq
  | hrqSw => apply RoundTrip.hrqSw
  | tdef => apply RoundTrip.tdef
  | trel => apply RoundTrip.trel
  | tstat => apply RoundTrip.tstat
  | twaitr => apply RoundTrip.twaitr
  | tfill => apply RoundTrip.tfill
  | tcons => apply RoundTrip.tcons
  | mma => apply RoundTrip.mma
  | mmac => apply RoundTrip.mmac
  | mzero => apply RoundTrip.mzero
  | mstore => apply RoundTrip.mstore
  | mmask => apply RoundTrip.mmask
  | mscale => apply RoundTrip.mscale
  | cpy => apply RoundTrip.cpy
  | cpyw => apply RoundTrip.cpyw
  | cpyq => apply RoundTrip.cpyq
  | cpyc => apply RoundTrip.cpyc
  | bstake => apply RoundTrip.bstake
  | bspeek => apply RoundTrip.bspeek
  | bsemit => apply RoundTrip.bsemit
  | bsskip => apply RoundTrip.bsskip
  | bsalign => apply RoundTrip.bsalign
  | csrr => apply RoundTrip.csrr
  | csrw => apply RoundTrip.csrw
  | csrs => apply RoundTrip.csrs
  | csrc => apply RoundTrip.csrc
  | trap => apply RoundTrip.trap
  | eret => apply RoundTrip.eret
  | halt => apply RoundTrip.halt
  | dbg => apply RoundTrip.dbg
  | tlbw => apply RoundTrip.tlbw
  | tlbi => apply RoundTrip.tlbi
  | cwb => apply RoundTrip.cwb
  | cinv => apply RoundTrip.cinv
  | fmt => apply RoundTrip.fmt
  | vmov => apply RoundTrip.vmov
  | vadd => apply RoundTrip.vadd
  | vsub => apply RoundTrip.vsub
  | vmul => apply RoundTrip.vmul
  | vand => apply RoundTrip.vand
  | vor => apply RoundTrip.vor
  | vxor => apply RoundTrip.vxor
  | vshl => apply RoundTrip.vshl
  | vshr => apply RoundTrip.vshr
  | vmin => apply RoundTrip.vmin
  | vmax => apply RoundTrip.vmax
  | vsra => apply RoundTrip.vsra
  | vminu => apply RoundTrip.vminu
  | vmaxu => apply RoundTrip.vmaxu
  | vmulhu => apply RoundTrip.vmulhu
  | vmadd => apply RoundTrip.vmadd
  | vmovI => apply RoundTrip.vmovI
  | vaddI => apply RoundTrip.vaddI
  | vsubI => apply RoundTrip.vsubI
  | vmulI => apply RoundTrip.vmulI
  | vandI => apply RoundTrip.vandI
  | vorI => apply RoundTrip.vorI
  | vxorI => apply RoundTrip.vxorI
  | vshlI => apply RoundTrip.vshlI
  | vshrI => apply RoundTrip.vshrI
  | vminI => apply RoundTrip.vminI
  | vmaxI => apply RoundTrip.vmaxI
  | vsraI => apply RoundTrip.vsraI
  | vminuI => apply RoundTrip.vminuI
  | vmaxuI => apply RoundTrip.vmaxuI
  | vfadd => apply RoundTrip.vfadd
  | vfsub => apply RoundTrip.vfsub
  | vfmul => apply RoundTrip.vfmul
  | vfmin => apply RoundTrip.vfmin
  | vfmax => apply RoundTrip.vfmax
  | vfma => apply RoundTrip.vfma
  | vfdiv => apply RoundTrip.vfdiv
  | vfsqrt => apply RoundTrip.vfsqrt
  | vfabs => apply RoundTrip.vfabs
  | vfneg => apply RoundTrip.vfneg
  | vceq => apply RoundTrip.vceq
  | vcne => apply RoundTrip.vcne
  | vclt => apply RoundTrip.vclt
  | vcle => apply RoundTrip.vcle
  | vcltu => apply RoundTrip.vcltu
  | vcleu => apply RoundTrip.vcleu
  | vfceq => apply RoundTrip.vfceq
  | vfclt => apply RoundTrip.vfclt
  | vfcle => apply RoundTrip.vfcle
  | vcvt => apply RoundTrip.vcvt
  | vcvtif => apply RoundTrip.vcvtif
  | vcvtuf => apply RoundTrip.vcvtuf
  | vcvtfi => apply RoundTrip.vcvtfi
  | vcvtfu => apply RoundTrip.vcvtfu
  | vperm => apply RoundTrip.vperm
  | vslideup => apply RoundTrip.vslideup
  | vslidedn => apply RoundTrip.vslidedn
  | vziplo => apply RoundTrip.vziplo
  | vziphi => apply RoundTrip.vziphi
  | vcompress => apply RoundTrip.vcompress
  | vexpand => apply RoundTrip.vexpand
  | vextr => apply RoundTrip.vextr
  | vradd => apply RoundTrip.vradd
  | vrmin => apply RoundTrip.vrmin
  | vrmax => apply RoundTrip.vrmax
  | vrand => apply RoundTrip.vrand
  | vror => apply RoundTrip.vror
  | vrxor => apply RoundTrip.vrxor
  | vrfadd => apply RoundTrip.vrfadd
  | vrfmax => apply RoundTrip.vrfmax
  | kand => apply RoundTrip.kand
  | kor => apply RoundTrip.kor
  | kxor => apply RoundTrip.kxor
  | kandn => apply RoundTrip.kandn
  | knot => apply RoundTrip.knot
  | kmov => apply RoundTrip.kmov
  | kread => apply RoundTrip.kread
  | kpopc => apply RoundTrip.kpopc
  | kffs => apply RoundTrip.kffs
  | vqnt => apply RoundTrip.vqnt
  | vdqnt => apply RoundTrip.vdqnt
  | vdot => apply RoundTrip.vdot
  | vhist => apply RoundTrip.vhist
  | vld => apply RoundTrip.vld
  | vlds => apply RoundTrip.vlds
  | vldbc => apply RoundTrip.vldbc
  | vldb => apply RoundTrip.vldb
  | vst => apply RoundTrip.vst
  | vsts => apply RoundTrip.vsts
  | vgather => apply RoundTrip.vgather
  | vscatter => apply RoundTrip.vscatter
  | nop => apply RoundTrip.nop
  | vmov16 => apply RoundTrip.vmov16
  | vadd16 => apply RoundTrip.vadd16
  | vsub16 => apply RoundTrip.vsub16
  | vmul16 => apply RoundTrip.vmul16
  | vand16 => apply RoundTrip.vand16
  | vor16 => apply RoundTrip.vor16
  | vxor16 => apply RoundTrip.vxor16
  | vshl16 => apply RoundTrip.vshl16
  | vshr16 => apply RoundTrip.vshr16
  | vmin16 => apply RoundTrip.vmin16
  | vmax16 => apply RoundTrip.vmax16
  | vfadd16 => apply RoundTrip.vfadd16
  | vfsub16 => apply RoundTrip.vfsub16
  | vfmul16 => apply RoundTrip.vfmul16
  | vfmin16 => apply RoundTrip.vfmin16
  | vfmax16 => apply RoundTrip.vfmax16
  | _ => exact fun _ he => Bool.noConfusion he

/-- Settles O56, by the round trip of each instruction of the table. -/
theorem decodeOfEncode : Obligations.DecodeOfEncode := fun i rest hwf hencoded => roundTrip i hwf hencoded rest

end Sys2Proof.Laws
end

section
/-!
## Encoding what was decoded (09 R245, R246)

A decoder of a major opcode checks every bit of its word that the instruction leaves out, so the word it accepts is the encoding
of the instruction it answers: `Reads` says so of one answer, one lemma for each decoder proves it, and the words and halfwords follow.
-/

namespace Sys2Proof

/-! ### A word is made of its fields -/

theorem ofBool_getLsbD {n : Nat} (w : BitVec n) (i : Nat) : BitVec.ofBool (w.getLsbD i) = w.extractLsb' i 1 := by
  ext j hj
  obtain rfl : j = 0 := by omega
  simp

theorem oddBit {n : Nat} {w : BitVec n} (h : w.getLsbD 0 = true) : 1#1 = w.extractLsb' 0 1 := by
  rw [← ofBool_getLsbD, h]; rfl

section word
variable {w : BitVec 32} (h : w.getLsbD 0 = true)
include h

theorem RR.toWord_ofWord : RR.toWord (w.extractLsb' 1 6) (RR.ofWord w) = w := by
  simp only [RR.toWord, RR.ofWord, oddBit h, ofBool_getLsbD, BitVec.extractLsb'_append_extractLsb'_eq_extractLsb']
  exact extract_all w

theorem RI.toWord_ofWord : RI.toWord (w.extractLsb' 1 6) (RI.ofWord w) = w := by
  simp only [RI.toWord, RI.ofWord, oddBit h, ofBool_getLsbD, BitVec.extractLsb'_append_extractLsb'_eq_extractLsb']
  exact extract_all w

theorem U.toWord_ofWord : U.toWord (w.extractLsb' 1 6) (U.ofWord w) = w := by
  simp only [U.toWord, U.ofWord, oddBit h, BitVec.extractLsb'_append_extractLsb'_eq_extractLsb']
  exact extract_all w

theorem BF.toWord_ofWord : BF.toWord (w.extractLsb' 1 6) (BF.ofWord w) = w := by
  simp only [BF.toWord, BF.ofWord, oddBit h, ofBool_getLsbD, BitVec.extractLsb'_append_extractLsb'_eq_extractLsb']
  exact extract_all w

theorem M.toWord_ofWord : M.toWord (w.extractLsb' 1 6) (M.ofWord w) = w := by
  simp only [M.toWord, M.ofWord, oddBit h, ofBool_getLsbD, BitVec.extractLsb'_append_extractLsb'_eq_extractLsb']
  exact extract_all w

theorem BR.toWord_ofWord : BR.toWord (w.extractLsb' 1 6) (BR.ofWord w) = w := by
  simp only [BR.toWord, BR.ofWord, oddBit h, BitVec.extractLsb'_append_extractLsb'_eq_extractLsb']
  exact extract_all w

theorem J.toWord_ofWord : J.toWord (w.extractLsb' 1 6) (J.ofWord w) = w := by
  simp only [J.toWord, J.ofWord, oddBit h, BitVec.extractLsb'_append_extractLsb'_eq_extractLsb']
  exact extract_all w

theorem VX.toWord_ofWord : VX.toWord (w.extractLsb' 1 6) (VX.ofWord w) = w := by
  simp only [VX.toWord, VX.ofWord, oddBit h, ofBool_getLsbD, BitVec.extractLsb'_append_extractLsb'_eq_extractLsb']
  exact extract_all w

theorem VM.toWord_ofWord : VM.toWord (w.extractLsb' 1 6) (VM.ofWord w) = w := by
  simp only [VM.toWord, VM.ofWord, oddBit h, BitVec.extractLsb'_append_extractLsb'_eq_extractLsb']
  exact extract_all w

theorem X.toWord_ofWord : X.toWord (w.extractLsb' 1 6) (X.ofWord w) = w := by
  simp only [X.toWord, X.ofWord, oddBit h, BitVec.extractLsb'_append_extractLsb'_eq_extractLsb']
  exact extract_all w

theorem P.toWord_ofWord : P.toWord (w.extractLsb' 1 6) (P.ofWord w) = w := by
  simp only [P.toWord, P.ofWord, oddBit h, ofBool_getLsbD, BitVec.extractLsb'_append_extractLsb'_eq_extractLsb']
  exact extract_all w

theorem TC.toWord_ofWord : TC.toWord (w.extractLsb' 1 6) (TC.ofWord w) = w := by
  simp only [TC.toWord, TC.ofWord, oddBit h, BitVec.extractLsb'_append_extractLsb'_eq_extractLsb']
  exact extract_all w

end word

/-! ### Fields within a field -/

/-- A field that a decoder has compared with a number. -/
theorem eq_ofNat_of_toNat {n k : Nat} {x : BitVec n} (h : x.toNat = k) : x = BitVec.ofNat n k := by rw [← h, BitVec.ofNat_toNat, BitVec.setWidth_eq]

/-- The last of four codes, where a decoder has excluded the others. -/
theorem toNat_eq_three {x : BitVec 2} (h0 : x.toNat ≠ 0) (h1 : x.toNat ≠ 1) (h2 : x.toNat ≠ 2) : x.toNat = 3 := by
  have := x.isLt
  omega

theorem zeroExtend_low2 : ∀ {z : BitVec 3}, z.getLsbD 2 = false → (z.extractLsb' 0 2).zeroExtend 3 = z := by decide
theorem zeroExtend_low4 : ∀ {d : BitVec 5}, d.getLsbD 4 = false → (d.extractLsb' 0 4).zeroExtend 5 = d := by decide
theorem zeroExtend_low3 : ∀ {d : BitVec 5}, d.extractLsb' 3 2 = 0 → (d.extractLsb' 0 3).zeroExtend 5 = d := by decide
theorem bit3_getLsbD : ∀ {z : BitVec 3}, z.getLsbD 2 = false → bit3 (z.getLsbD 0) (z.getLsbD 1) = z := by decide
theorem bit3_getLsbD_zero : ∀ {z : BitVec 3}, z.getLsbD 2 = false → z.getLsbD 1 = false → bit3 (z.getLsbD 0) false = z := by decide
theorem bit3_getLsbD_one : ∀ {z : BitVec 3}, z.getLsbD 0 = false → z.getLsbD 2 = false → bit3 false (z.getLsbD 1) = z := by decide
theorem bit3_high_zero : ∀ {z : BitVec 3}, z.extractLsb' 1 2 = 0 → bit3 (z.getLsbD 0) false = z := by decide
theorem high_low2 : ∀ {z : BitVec 3}, BitVec.ofBool (z.getLsbD 2) ++ z.extractLsb' 0 2 = z := by decide
theorem getLsbD_ofBool_append : ∀ (s : Bool) (b : BitVec 5), (BitVec.ofBool s ++ b).getLsbD 5 = s := by decide
theorem extractLsb'_ofBool_append (s : Bool) (b : BitVec 5) : (BitVec.ofBool s ++ b).extractLsb' 0 5 = b := BitVec.extractLsb'_append_eq_right

/-- An immediate of a two-bit code and 12 bits. -/
theorem code_low12 {i : BitVec 14} {k : Nat} (h : (i.extractLsb' 12 2).toNat = k) : BitVec.ofNat 2 k ++ i.extractLsb' 0 12 = i := by
  simp only [← eq_ofNat_of_toNat h, BitVec.extractLsb'_append_extractLsb'_eq_extractLsb']
  exact extract_all i

/-- An immediate of a three-bit code, four zeros and a count. -/
theorem code_count {i : BitVec 14} {k : Nat} (h : (i.extractLsb' 11 3).toNat = k) (hz : i.extractLsb' 7 4 = 0#4) :
    BitVec.ofNat 3 k ++ 0#4 ++ i.extractLsb' 0 7 = i := by
  simp only [← eq_ofNat_of_toNat h, ← hz, BitVec.extractLsb'_append_extractLsb'_eq_extractLsb']
  exact extract_all i

/-- An immediate of four zeros, a one, the size, a two-bit code and a count. -/
theorem code_shift {i : BitVec 14} {k : Nat} (h : (i.extractLsb' 6 2).toNat = k) (hz : i.extractLsb' 10 4 = 0#4) (h9 : i.getLsbD 9 = true) :
    0#4 ++ 1#1 ++ BitVec.ofBool (i.getLsbD 8) ++ BitVec.ofNat 2 k ++ i.extractLsb' 0 6 = i := by
  have h1 : 1#1 = i.extractLsb' 9 1 := by rw [← ofBool_getLsbD, h9]; rfl
  simp only [← eq_ofNat_of_toNat h, ← hz, h1, ofBool_getLsbD, BitVec.extractLsb'_append_extractLsb'_eq_extractLsb']
  exact extract_all i

/-! ### Answers of a decoder -/

/-- The answer `r` to word `w`: an instruction is well-formed and `w` is its encoding. -/
def Reads (w : BitVec 32) (r : Except DecodeError Instr) : Prop := ∀ i, r = .ok i → i.wf = true ∧ i.code = .word w

namespace Reads
variable {w : BitVec 32} {i : Instr} {c : Bool}

theorem ok (hwf : i.wf = true) (hcode : i.code = .word w) : Reads w (.ok i) := by
  rintro _ ⟨⟩
  exact ⟨hwf, hcode⟩

theorem error {e : DecodeError} : Reads w (.error e) := by rintro _ ⟨⟩

theorem only (h : c = true → i.wf = true ∧ i.code = .word w) : Reads w (only c i) := by
  unfold Sys2Proof.only
  split
  · next hc => exact .ok (h hc).1 (h hc).2
  · exact .error

theorem sized {sz : BitVec 3} {i : Bool → Instr} (h : ∀ z, sz = wd z → c = true → (i z).wf = true ∧ (i z).code = .word w) :
    Reads w (sized sz c i) := by
  unfold Sys2Proof.sized
  split
  · next hz => exact .only (h false hz)
  · split
    · next hz => exact .only (h true hz)
    · exact .error

end Reads

/-! ### The scalar majors, 0x01 to 0x12 (09 R249 to R252)

Each proof has one case for every function code that the decoder knows. What the decoder has checked replaces the fields it
constrains, and the encoder's word is then the word that was read. -/

theorem decodeIntRR_reads (f : RR) : Reads (f.toWord 1) (decodeIntRR f) := by
  obtain ⟨sz, fn, lb, la, b, a, d⟩ := f
  dsimp only [decodeIntRR]
  split
  case h_24 => exact .error
  all_goals
    rename_i h
    cases eq_ofNat_of_toNat h
  iterate 18 exact .sized (by rintro z rfl -; exact ⟨rfl, rfl⟩)
  iterate 2
    · refine .only fun hc => ?_
      obtain rfl := of_decide_eq_true hc
      exact ⟨rfl, rfl⟩
  iterate 3
    · refine .sized ?_
      rintro z rfl hc
      simp only [Bool.and_eq_true, Bool.not_eq_true', decide_eq_true_eq] at hc
      obtain ⟨rfl, rfl⟩ := hc
      exact ⟨rfl, rfl⟩

theorem decodeAddi_reads (f : RI) : Reads (f.toWord 2) (decodeAddi f) := .ok rfl rfl
theorem decodeAndi_reads (f : RI) : Reads (f.toWord 3) (decodeAndi f) := .ok rfl rfl
theorem decodeOri_reads (f : RI) : Reads (f.toWord 4) (decodeOri f) := .ok rfl rfl
theorem decodeXori_reads (f : RI) : Reads (f.toWord 5) (decodeXori f) := .ok rfl rfl
theorem decodeLui_reads (f : U) : Reads (f.toWord 8) (decodeLui f) := .ok rfl rfl
theorem decodeLeapc_reads (f : U) : Reads (f.toWord 9) (decodeLeapc f) := .ok rfl rfl

/-- A shift by an immediate count, its operation in the two-bit code `k`. -/
theorem Reads.shiftImm {i : Instr} {imm : BitVec 14} {la : Bool} {a d : BitVec 5} {k : Nat} (h : (imm.extractLsb' 6 2).toNat = k)
    (hwf : i.wf = shiftCount (imm.getLsbD 8) (imm.extractLsb' 0 6))
    (hcode : i.code = .word (RI.toWord 6 ⟨0#4 ++ 1#1 ++ BitVec.ofBool (imm.getLsbD 8) ++ BitVec.ofNat 2 k ++ imm.extractLsb' 0 6, la, a, d⟩)) :
    Reads (RI.toWord 6 ⟨imm, la, a, d⟩) (Sys2Proof.only (decide (imm.extractLsb' 10 4 = 0) && imm.getLsbD 9 &&
      shiftCount (imm.getLsbD 8) (imm.extractLsb' 0 6)) i) := by
  refine .only fun hc => ?_
  simp only [Bool.and_eq_true, decide_eq_true_eq] at hc
  obtain ⟨⟨hz, h9⟩, hcount⟩ := hc
  exact ⟨hwf.trans hcount, by rw [hcode, code_shift h hz h9]⟩

theorem decodeShiftImm_reads (f : RI) : Reads (f.toWord 6) (decodeShiftImm f) := by
  dsimp only [decodeShiftImm]
  split
  iterate 3
    next h => exact .shiftImm h rfl rfl
  next h0 h1 h2 => exact .shiftImm (toNat_eq_three h0 h1 h2) rfl rfl

/-- A compare with an immediate, its relation in the two-bit code `k`. -/
theorem Reads.cmpImm {i : Instr} {imm : BitVec 14} {la : Bool} {a d : BitVec 5} {k : Nat} (h : (imm.extractLsb' 12 2).toNat = k)
    (hwf : i.wf = true) (hcode : i.code = .word (RI.toWord 7 ⟨BitVec.ofNat 2 k ++ imm.extractLsb' 0 12, la, a, d⟩)) :
    Reads (RI.toWord 7 ⟨imm, la, a, d⟩) (.ok i) := .ok hwf (by rw [hcode, code_low12 h])

theorem decodeCmpImm_reads (f : RI) : Reads (f.toWord 7) (decodeCmpImm f) := by
  dsimp only [decodeCmpImm]
  split
  iterate 3
    next h => exact .cmpImm h rfl rfl
  next h0 h1 h2 => exact .cmpImm (toNat_eq_three h0 h1 h2) rfl rfl

theorem decodeBit_reads (f : BF) : Reads (f.toWord 10) (decodeBit f) := by
  obtain ⟨_ | _, len, pos, _ | _, la, a, d⟩ := f
  · exact .only fun hc => ⟨hc, rfl⟩
  · exact .only fun hc => ⟨hc, rfl⟩
  · exact .only fun hc => ⟨hc, rfl⟩
  · exact .error

theorem decodeMulDiv_reads (f : RR) : Reads (f.toWord 11) (decodeMulDiv f) := by
  obtain ⟨sz, fn, lb, la, b, a, d⟩ := f
  dsimp only [decodeMulDiv]
  split
  case h_9 => exact .error
  all_goals
    rename_i h
    cases eq_ofNat_of_toNat h
  iterate 8 exact .sized (by rintro z rfl -; exact ⟨rfl, rfl⟩)

theorem decodeScalarFp_reads (f : RR) : Reads (f.toWord 12) (decodeScalarFp f) := by
  obtain ⟨sz, fn, lb, la, b, a, d⟩ := f
  dsimp only [decodeScalarFp]
  split
  case h_9 => exact .error
  all_goals
    rename_i h
    cases eq_ofNat_of_toNat h
  iterate 6
    · refine .only fun hc => ?_
      obtain rfl := of_decide_eq_true hc
      exact ⟨rfl, rfl⟩
  iterate 2
    · refine .only fun hc => ?_
      simp only [Bool.and_eq_true, Bool.not_eq_true', decide_eq_true_eq] at hc
      obtain ⟨⟨rfl, rfl⟩, rfl⟩ := hc
      exact ⟨rfl, rfl⟩

theorem decodeBranch_reads (f : BR) : Reads (f.toWord 13) (decodeBranch f) := by
  obtain ⟨disp, cond, b, a⟩ := f
  dsimp only [decodeBranch]
  split
  case h_7 => exact .error
  all_goals
    rename_i h
    cases eq_ofNat_of_toNat h
  iterate 6 exact .ok rfl rfl

theorem decodeJump_reads (f : J) : Reads (f.toWord 14) (decodeJump f) := by
  obtain ⟨disp, link⟩ := f
  dsimp only [decodeJump]
  split
  · next h => cases h; exact .ok rfl rfl
  · next h => exact .ok (decide_eq_true h) rfl

theorem decodeJumpReg_reads (f : RI) : Reads (f.toWord 15) (decodeJumpReg f) := by
  obtain ⟨imm, la, a, d⟩ := f
  dsimp only [decodeJumpReg]
  split
  · next h => cases h; exact .ok rfl rfl
  · next h => exact .ok (decide_eq_true h) rfl

theorem decodeLoad_reads (f : M) : Reads (f.toWord 16) (decodeLoad f) := by
  obtain ⟨off, sz, ld, lbase, base, d⟩ := f
  dsimp only [decodeLoad]
  split
  case h_8 => exact .error
  all_goals
    rename_i h
    cases eq_ofNat_of_toNat h
    refine .only fun hc => ?_
  iterate 7
    · rw [Bool.not_eq_true'] at hc
      cases hc
      exact ⟨rfl, rfl⟩

theorem decodeStore_reads (f : M) : Reads (f.toWord 17) (decodeStore f) := by
  obtain ⟨off, sz, ld, lbase, base, d⟩ := f
  dsimp only [decodeStore]
  split
  case h_5 => exact .error
  all_goals
    rename_i h
    cases eq_ofNat_of_toNat h
  iterate 4 exact .ok rfl rfl

theorem decodeMulti_reads (f : M) : Reads (f.toWord 18) (decodeMulti f) := by
  obtain ⟨off, sz, _ | _, lbase, base, d⟩ := f
  · exact .only fun hc => ⟨hc, rfl⟩
  · exact .only fun hc => ⟨hc, rfl⟩

/-! ### Atomics, synchronisation, messages, threads and tasks, 0x13 to 0x18 (09 R253 to R256) -/

theorem decodeAtomic_reads (f : RR) : Reads (f.toWord 19) (decodeAtomic f) := by
  obtain ⟨sz, fn, lb, la, b, a, d⟩ := f
  dsimp only [decodeAtomic]
  split
  case h_12 => exact .error
  all_goals
    rename_i h
    cases eq_ofNat_of_toNat h
  iterate 11 exact .sized (by rintro z rfl -; exact ⟨rfl, rfl⟩)

theorem decodeFence_reads (f : RR) : Reads (f.toWord 20) (decodeFence f) := by
  obtain ⟨sz, fn, lb, la, b, a, d⟩ := f
  dsimp only [decodeFence]
  split
  case h_5 => exact .error
  all_goals
    rename_i h
    cases eq_ofNat_of_toNat h
    refine .only fun hc => ?_
    simp only [Bool.and_eq_true, Bool.not_eq_true', decide_eq_true_eq] at hc
  · obtain ⟨⟨⟨⟨⟨hsz, hd⟩, rfl⟩, rfl⟩, rfl⟩, rfl⟩ := hc
    exact ⟨rfl, congrArg Code.word (by rw [zeroExtend_low2 hsz, zeroExtend_low4 hd]; rfl)⟩
  · obtain ⟨⟨⟨⟨hsz, rfl⟩, rfl⟩, rfl⟩, rfl⟩ := hc
    exact ⟨rfl, congrArg Code.word (by rw [bit3_high_zero hsz]; rfl)⟩
  · obtain ⟨⟨hsz, rfl⟩, rfl⟩ := hc
    exact ⟨rfl, congrArg Code.word (by rw [bit3_getLsbD hsz]; rfl)⟩
  · obtain ⟨⟨⟨⟨h0, h2⟩, rfl⟩, rfl⟩, rfl⟩ := hc
    exact ⟨rfl, congrArg Code.word (by rw [bit3_getLsbD_one h0 h2]; rfl)⟩

theorem decodeBarrier_reads (f : RR) : Reads (f.toWord 21) (decodeBarrier f) := by
  obtain ⟨sz, fn, lb, la, b, a, d⟩ := f
  dsimp only [decodeBarrier]
  split
  case h_4 => exact .error
  all_goals
    rename_i h
    cases eq_ofNat_of_toNat h
  · refine .only fun hc => ?_
    simp only [Bool.and_eq_true, Bool.not_eq_true', decide_eq_true_eq] at hc
    obtain ⟨⟨⟨rfl, rfl⟩, rfl⟩, rfl⟩ := hc
    exact ⟨rfl, rfl⟩
  · exact .sized (by rintro z rfl -; exact ⟨rfl, rfl⟩)
  · refine .only fun hc => ?_
    obtain rfl := of_decide_eq_true hc
    exact ⟨rfl, rfl⟩

theorem decodeMessage_reads (f : RR) : Reads (f.toWord 22) (decodeMessage f) := by
  obtain ⟨sz, fn, lb, la, b, a, d⟩ := f
  dsimp only [decodeMessage]
  split
  case h_16 => exact .error
  all_goals
    rename_i h
    cases eq_ofNat_of_toNat h
  · refine .only fun hc => ?_
    simp only [Bool.and_eq_true, decide_eq_true_eq] at hc
    obtain ⟨rfl, rfl⟩ := hc
    exact ⟨rfl, rfl⟩
  · refine .only fun hc => ?_
    simp only [Bool.and_eq_true, Bool.not_eq_true', decide_eq_true_eq] at hc
    obtain ⟨⟨rfl, rfl⟩, rfl⟩ := hc
    exact ⟨rfl, rfl⟩
  · refine .only fun hc => ?_
    simp only [Bool.and_eq_true, Bool.not_eq_true', decide_eq_true_eq] at hc
    obtain ⟨⟨hsz, rfl⟩, rfl⟩ := hc
    exact ⟨hsz, rfl⟩
  · refine .only fun hc => ?_
    simp only [Bool.and_eq_true, Bool.not_eq_true', decide_eq_true_eq] at hc
    obtain ⟨hsz, rfl⟩ := hc
    exact ⟨rfl, congrArg Code.word (by rw [zeroExtend_low2 hsz]; rfl)⟩
  iterate 11 exact .sized (by rintro z rfl -; exact ⟨rfl, rfl⟩)

theorem decodeThread_reads (f : TC) : Reads (f.toWord 23) (decodeThread f) := by
  obtain ⟨imm, q, p, sub⟩ := f
  dsimp only [decodeThread]
  split
  case h_7 => exact .error
  all_goals
    rename_i h
    cases eq_ofNat_of_toNat h
  · refine .only fun hc => ?_
    simp only [Bool.and_eq_true, decide_eq_true_eq] at hc
    obtain ⟨rfl, rfl⟩ := hc
    exact ⟨rfl, rfl⟩
  · refine .only fun hc => ?_
    obtain rfl := of_decide_eq_true hc
    exact ⟨rfl, rfl⟩
  · exact .ok rfl rfl
  iterate 3
    · refine .only fun hc => ?_
      simp only [Bool.and_eq_true, decide_eq_true_eq] at hc
      obtain ⟨⟨rfl, rfl⟩, rfl⟩ := hc
      exact ⟨rfl, rfl⟩

theorem decodeTask_reads (f : TC) : Reads (f.toWord 24) (decodeTask f) := by
  obtain ⟨imm, q, p, sub⟩ := f
  dsimp only [decodeTask]
  split
  case h_6 => exact .error
  all_goals
    rename_i h
    cases eq_ofNat_of_toNat h
  · refine .only fun hc => ?_
    simp only [Bool.and_eq_true, decide_eq_true_eq] at hc
    obtain ⟨rfl, rfl⟩ := hc
    exact ⟨rfl, rfl⟩
  iterate 3
    · refine .only fun hc => ?_
      simp only [Bool.and_eq_true, decide_eq_true_eq] at hc
      obtain ⟨⟨rfl, rfl⟩, rfl⟩ := hc
      exact ⟨rfl, rfl⟩
  · split
    · next h0 =>
      cases h0
      exact .only fun hc => ⟨hc, rfl⟩
    · refine .only fun hc => ?_
      simp only [Bool.and_eq_true, decide_eq_true_eq] at hc
      obtain ⟨rfl, hrun⟩ := hc
      exact ⟨hrun, rfl⟩

/-! ### Tiles, matrices, copies, bit streams, CSRs, the system and FMT, 0x19 to 0x1F (09 R257 to R262, R245) -/

theorem decodeTile_reads (f : RR) : Reads (f.toWord 25) (decodeTile f) := by
  obtain ⟨sz, fn, lb, la, b, a, d⟩ := f
  dsimp only [decodeTile]
  split
  case h_7 => exact .error
  all_goals
    rename_i h
    cases eq_ofNat_of_toNat h
    refine .only fun hc => ?_
    simp only [Bool.and_eq_true, Bool.not_eq_true', decide_eq_true_eq] at hc
  · obtain ⟨⟨⟨rfl, rfl⟩, rfl⟩, ht⟩ := hc
    exact ⟨ht, rfl⟩
  · obtain ⟨⟨⟨⟨⟨rfl, rfl⟩, rfl⟩, rfl⟩, rfl⟩, ht⟩ := hc
    exact ⟨ht, rfl⟩
  · obtain ⟨⟨⟨⟨rfl, rfl⟩, rfl⟩, rfl⟩, ht⟩ := hc
    exact ⟨ht, rfl⟩
  · obtain ⟨⟨⟨⟨⟨rfl, rfl⟩, rfl⟩, rfl⟩, rfl⟩, ht⟩ := hc
    exact ⟨ht, rfl⟩
  · obtain ⟨⟨⟨⟨rfl, rfl⟩, rfl⟩, rfl⟩, ht⟩ := hc
    exact ⟨ht, rfl⟩
  · obtain ⟨⟨⟨⟨⟨rfl, rfl⟩, rfl⟩, rfl⟩, rfl⟩, ht⟩ := hc
    exact ⟨ht, rfl⟩

theorem decodeMatrix_reads (f : X) : Reads (f.toWord 26) (decodeMatrix f) := by
  obtain ⟨md, cls, fn, b, a, d⟩ := f
  dsimp only [decodeMatrix]
  split
  case h_7 => exact .error
  all_goals
    rename_i h
    cases eq_ofNat_of_toNat h
    refine .only fun hc => ?_
    simp only [Bool.and_eq_true, Bool.not_eq_true', decide_eq_true_eq] at hc
  · obtain ⟨⟨⟨hmd, rfl⟩, ha⟩, hb⟩ := hc
    exact ⟨Bool.and_eq_true_iff.mpr ⟨ha, hb⟩, congrArg Code.word (by rw [bit3_getLsbD hmd]; rfl)⟩
  · obtain ⟨⟨hmd, ha⟩, hb⟩ := hc
    exact ⟨Bool.and_eq_true_iff.mpr ⟨ha, hb⟩, congrArg Code.word (by rw [bit3_getLsbD hmd]; rfl)⟩
  · obtain ⟨⟨⟨⟨h2, h1⟩, rfl⟩, rfl⟩, rfl⟩ := hc
    exact ⟨rfl, congrArg Code.word (by rw [bit3_getLsbD_zero h2 h1]; rfl)⟩
  iterate 2
    · obtain ⟨⟨⟨⟨h2, h1⟩, rfl⟩, rfl⟩, ha⟩ := hc
      exact ⟨ha, congrArg Code.word (by rw [bit3_getLsbD_zero h2 h1]; rfl)⟩
  · obtain ⟨⟨h2, h1⟩, rfl⟩ := hc
    exact ⟨rfl, congrArg Code.word (by rw [bit3_getLsbD_zero h2 h1]; rfl)⟩

theorem decodeCopy_reads (f : X) : Reads (f.toWord 27) (decodeCopy f) := by
  obtain ⟨md, cls, fn, b, a, d⟩ := f
  dsimp only [decodeCopy]
  split
  case h_5 => exact .error
  all_goals
    rename_i h
    cases eq_ofNat_of_toNat h
    refine .only fun hc => ?_
    simp only [Bool.and_eq_true, decide_eq_true_eq] at hc
  iterate 2
    · obtain ⟨⟨rfl, rfl⟩, rfl⟩ := hc
      exact ⟨rfl, rfl⟩
  · obtain ⟨rfl, rfl⟩ := hc
    exact ⟨rfl, rfl⟩
  · obtain ⟨⟨rfl, rfl⟩, rfl⟩ := hc
    exact ⟨rfl, rfl⟩

theorem decodeStream_reads (f : RI) : Reads (f.toWord 28) (decodeStream f) := by
  obtain ⟨imm, la, a, d⟩ := f
  dsimp only [decodeStream]
  split
  case h_6 => exact .error
  all_goals
    rename_i h
    refine .only fun hc => ?_
    simp only [Bool.and_eq_true, Bool.not_eq_true', decide_eq_true_eq] at hc
  iterate 2
    · obtain ⟨⟨⟨hz, hcount⟩, rfl⟩, rfl⟩ := hc
      exact ⟨hcount, congrArg Code.word (by rw [code_count h hz])⟩
  · obtain ⟨⟨hz, hcount⟩, rfl⟩ := hc
    exact ⟨hcount, congrArg Code.word (by rw [code_count h hz])⟩
  iterate 2
    · obtain ⟨⟨⟨⟨hz, hcount⟩, rfl⟩, rfl⟩, rfl⟩ := hc
      exact ⟨hcount, congrArg Code.word (by rw [code_count h hz])⟩

/-- An access to a CSR, its operation in the two-bit code `k`. -/
theorem Reads.csr {i : Instr} {imm : BitVec 14} {la : Bool} {a d : BitVec 5} {k : Nat} (h : (imm.extractLsb' 12 2).toNat = k)
    (hwf : i.wf = csrListed (imm.extractLsb' 0 12)) (hcode : i.code = .word (RI.toWord 29 ⟨BitVec.ofNat 2 k ++ imm.extractLsb' 0 12, la, a, d⟩)) :
    Reads (RI.toWord 29 ⟨imm, la, a, d⟩) (Sys2Proof.only (csrListed (imm.extractLsb' 0 12)) i) :=
  .only fun hc => ⟨hwf.trans hc, by rw [hcode, code_low12 h]⟩

theorem decodeCsr_reads (f : RI) : Reads (f.toWord 29) (decodeCsr f) := by
  obtain ⟨imm, la, a, d⟩ := f
  dsimp only [decodeCsr]
  split
  · next h =>
    refine .only fun hc => ?_
    simp only [Bool.and_eq_true, Bool.not_eq_true', decide_eq_true_eq] at hc
    obtain ⟨⟨hlisted, rfl⟩, rfl⟩ := hc
    exact ⟨hlisted, congrArg Code.word (by rw [code_low12 h])⟩
  iterate 2
    next h => exact .csr h rfl rfl
  next h0 h1 h2 => exact .csr (toNat_eq_three h0 h1 h2) rfl rfl

theorem decodeSystem_reads (f : RR) : Reads (f.toWord 30) (decodeSystem f) := by
  obtain ⟨sz, fn, lb, la, b, a, d⟩ := f
  dsimp only [decodeSystem]
  split
  case h_9 => exact .error
  all_goals
    rename_i h
    cases eq_ofNat_of_toNat h
    refine .only fun hc => ?_
    simp only [Bool.and_eq_true, Bool.not_eq_true', decide_eq_true_eq] at hc
  · obtain ⟨⟨⟨⟨rfl, rfl⟩, rfl⟩, rfl⟩, rfl⟩ := hc
    exact ⟨rfl, rfl⟩
  iterate 2
    · obtain ⟨⟨⟨⟨⟨rfl, rfl⟩, rfl⟩, rfl⟩, rfl⟩, rfl⟩ := hc
      exact ⟨rfl, rfl⟩
  · obtain ⟨⟨⟨⟨rfl, rfl⟩, rfl⟩, rfl⟩, rfl⟩ := hc
    exact ⟨rfl, rfl⟩
  · obtain ⟨rfl, rfl⟩ := hc
    exact ⟨rfl, rfl⟩
  · obtain ⟨⟨⟨hs, rfl⟩, rfl⟩, ht⟩ := hc
    exact ⟨Bool.and_eq_true_iff.mpr ⟨hs, ht⟩, congrArg Code.word (by rw [high_low2]; rfl)⟩
  iterate 2
    · obtain ⟨⟨⟨rfl, rfl⟩, rfl⟩, rfl⟩ := hc
      exact ⟨rfl, rfl⟩

theorem decodePrefix_reads (f : P) : Reads (f.toWord 31) (decodePrefix f) := by
  obtain ⟨zero, sat, rnd, fd, fb, fa⟩ := f
  refine .only fun hc => ?_
  obtain rfl := of_decide_eq_true hc
  exact ⟨rfl, rfl⟩

/-! ### Lanes, 0x20 to 0x2C (09 R263 to R265) -/

theorem decodeVint_reads (f : VX) : Reads (f.toWord 32) (decodeVint f) := by
  obtain ⟨fn, la, s, k, vb, va, vd⟩ := f
  dsimp only [decodeVint]
  split
  case h_17 => exact .error
  all_goals
    rename_i h
    cases eq_ofNat_of_toNat h
  · refine .only fun hc => ?_
    simp only [Bool.and_eq_true, Bool.not_eq_true', decide_eq_true_eq] at hc
    obtain ⟨rfl, rfl⟩ := hc
    exact ⟨rfl, rfl⟩
  iterate 15 exact .ok rfl rfl

theorem decodeVfp_reads (f : VX) : Reads (f.toWord 33) (decodeVfp f) := by
  obtain ⟨fn, la, s, k, vb, va, vd⟩ := f
  dsimp only [decodeVfp]
  split
  case h_11 => exact .error
  all_goals
    rename_i h
    cases eq_ofNat_of_toNat h
  iterate 7 exact .ok rfl rfl
  iterate 3
    · refine .only fun hc => ?_
      simp only [Bool.and_eq_true, Bool.not_eq_true', decide_eq_true_eq] at hc
      obtain ⟨rfl, rfl⟩ := hc
      exact ⟨rfl, rfl⟩

theorem decodeVcmp_reads (f : VX) : Reads (f.toWord 34) (decodeVcmp f) := by
  obtain ⟨fn, la, s, k, vb, va, vd⟩ := f
  dsimp only [decodeVcmp]
  split
  case h_10 => exact .error
  all_goals
    rename_i h
    cases eq_ofNat_of_toNat h
    refine .only fun hc => ?_
    simp only [Bool.and_eq_true, decide_eq_true_eq] at hc
  iterate 9
    · obtain ⟨hz, hd⟩ := hc
      exact ⟨hd, congrArg Code.word (by rw [zeroExtend_low3 hz]; rfl)⟩

theorem decodeVcvt_reads (f : VX) : Reads (f.toWord 35) (decodeVcvt f) := by
  obtain ⟨fn, la, s, k, vb, va, vd⟩ := f
  dsimp only [decodeVcvt]
  split
  case h_6 => exact .error
  all_goals
    rename_i h
    cases eq_ofNat_of_toNat h
    refine .only fun hc => ?_
    simp only [Bool.and_eq_true, Bool.not_eq_true', decide_eq_true_eq] at hc
  iterate 5
    · obtain ⟨rfl, rfl⟩ := hc
      exact ⟨rfl, rfl⟩

theorem decodeVperm_reads (f : VX) : Reads (f.toWord 36) (decodeVperm f) := by
  obtain ⟨fn, la, s, k, vb, va, vd⟩ := f
  dsimp only [decodeVperm]
  split
  case h_9 => exact .error
  all_goals
    rename_i h
    cases eq_ofNat_of_toNat h
  iterate 5 exact .ok rfl rfl
  iterate 2
    · refine .only fun hc => ?_
      simp only [Bool.and_eq_true, Bool.not_eq_true', decide_eq_true_eq] at hc
      obtain ⟨rfl, rfl⟩ := hc
      exact ⟨rfl, rfl⟩
  · refine .only fun hc => ?_
    simp only [Bool.and_eq_true, decide_eq_true_eq] at hc
    obtain ⟨rfl, rfl⟩ := hc
    exact ⟨rfl, rfl⟩

theorem decodeVred_reads (f : VX) : Reads (f.toWord 37) (decodeVred f) := by
  obtain ⟨fn, la, s, k, vb, va, vd⟩ := f
  dsimp only [decodeVred]
  split
  case h_9 => exact .error
  all_goals
    rename_i h
    cases eq_ofNat_of_toNat h
    refine .only fun hc => ?_
    simp only [Bool.and_eq_true, Bool.not_eq_true', decide_eq_true_eq] at hc
  iterate 8
    · obtain ⟨rfl, rfl⟩ := hc
      exact ⟨rfl, rfl⟩

theorem decodeVmask_reads (f : VX) : Reads (f.toWord 38) (decodeVmask f) := by
  obtain ⟨fn, la, s, k, vb, va, vd⟩ := f
  dsimp only [decodeVmask]
  split
  case h_10 => exact .error
  all_goals
    rename_i h
    cases eq_ofNat_of_toNat h
    refine .only fun hc => ?_
    simp only [Bool.and_eq_true, Bool.not_eq_true', decide_eq_true_eq] at hc
  iterate 4
    · obtain ⟨⟨⟨⟨⟨hb, ha⟩, hz⟩, hd⟩, rfl⟩, rfl⟩ := hc
      exact ⟨hd, congrArg Code.word (by rw [zeroExtend_low3 hb, zeroExtend_low3 ha, zeroExtend_low3 hz]; rfl)⟩
  · obtain ⟨⟨⟨⟨⟨ha, hz⟩, hd⟩, rfl⟩, rfl⟩, rfl⟩ := hc
    exact ⟨hd, congrArg Code.word (by rw [zeroExtend_low3 ha, zeroExtend_low3 hz]; rfl)⟩
  · obtain ⟨⟨⟨⟨hz, hd⟩, rfl⟩, rfl⟩, rfl⟩ := hc
    exact ⟨hd, congrArg Code.word (by rw [zeroExtend_low3 hz]; rfl)⟩
  iterate 3
    · obtain ⟨⟨⟨ha, rfl⟩, rfl⟩, rfl⟩ := hc
      exact ⟨rfl, congrArg Code.word (by rw [zeroExtend_low3 ha]; rfl)⟩

theorem decodeVload_reads (f : VM) : Reads (f.toWord 39) (decodeVload f) := by
  obtain ⟨zero, sub, esz, k, x, base, vd⟩ := f
  dsimp only [decodeVload]
  split
  case h_5 => exact .error
  all_goals
    rename_i h
    cases eq_ofNat_of_toNat h
    refine .only fun hc => ?_
    simp only [Bool.and_eq_true, decide_eq_true_eq] at hc
  · obtain ⟨⟨rfl, he⟩, rfl⟩ := hc
    exact ⟨he, rfl⟩
  · obtain ⟨rfl, he⟩ := hc
    exact ⟨he, rfl⟩
  · obtain ⟨⟨rfl, he⟩, rfl⟩ := hc
    exact ⟨he, rfl⟩
  · obtain ⟨⟨⟨rfl, rfl⟩, rfl⟩, rfl⟩ := hc
    exact ⟨rfl, rfl⟩

theorem decodeVstore_reads (f : VM) : Reads (f.toWord 40) (decodeVstore f) := by
  obtain ⟨zero, sub, esz, k, x, base, vd⟩ := f
  dsimp only [decodeVstore]
  split
  case h_3 => exact .error
  all_goals
    rename_i h
    cases eq_ofNat_of_toNat h
    refine .only fun hc => ?_
    simp only [Bool.and_eq_true, decide_eq_true_eq] at hc
  · obtain ⟨⟨rfl, he⟩, rfl⟩ := hc
    exact ⟨he, rfl⟩
  · obtain ⟨rfl, he⟩ := hc
    exact ⟨he, rfl⟩

theorem decodeVindex_reads (f : VM) : Reads (f.toWord 41) (decodeVindex f) := by
  obtain ⟨zero, sub, esz, k, x, base, vd⟩ := f
  dsimp only [decodeVindex]
  split
  case h_3 => exact .error
  all_goals
    rename_i h
    cases eq_ofNat_of_toNat h
    refine .only fun hc => ?_
    simp only [Bool.and_eq_true, decide_eq_true_eq] at hc
  iterate 2
    · obtain ⟨rfl, he⟩ := hc
      exact ⟨he, rfl⟩

theorem decodeVnarrow_reads (f : VX) : Reads (f.toWord 42) (decodeVnarrow f) := by
  obtain ⟨fn, la, s, k, vb, va, vd⟩ := f
  dsimp only [decodeVnarrow]
  split
  case h_4 => exact .error
  all_goals
    rename_i h
    cases eq_ofNat_of_toNat h
    refine .only fun hc => ?_
    simp only [Bool.and_eq_true, Bool.not_eq_true', decide_eq_true_eq] at hc
  iterate 2
    · obtain ⟨⟨rfl, rfl⟩, rfl⟩ := hc
      exact ⟨rfl, rfl⟩
  · obtain ⟨rfl, rfl⟩ := hc
    exact ⟨rfl, rfl⟩

theorem decodeVhist_reads (f : VX) : Reads (f.toWord 43) (decodeVhist f) := by
  obtain ⟨fn, la, s, k, vb, va, vd⟩ := f
  dsimp only [decodeVhist]
  split
  case h_2 => exact .error
  all_goals
    rename_i h
    cases eq_ofNat_of_toNat h
    refine .only fun hc => ?_
    simp only [Bool.and_eq_true, Bool.not_eq_true', decide_eq_true_eq] at hc
  · obtain ⟨rfl, rfl⟩ := hc
    exact ⟨rfl, rfl⟩

theorem decodeVintI_reads (f : VX) : Reads (f.toWord 44) (decodeVintI f) := by
  obtain ⟨fn, la, s, k, vb, va, vd⟩ := f
  dsimp only [decodeVintI]
  split
  case h_15 => exact .error
  all_goals
    rename_i h
    cases eq_ofNat_of_toNat h
  · refine .only fun hc => ?_
    simp only [Bool.and_eq_true, Bool.not_eq_true', decide_eq_true_eq] at hc
    obtain ⟨rfl, rfl⟩ := hc
    exact ⟨rfl, congrArg Code.word (by rw [getLsbD_ofBool_append, extractLsb'_ofBool_append]; rfl)⟩
  iterate 6 exact .ok rfl (congrArg Code.word (by rw [getLsbD_ofBool_append, extractLsb'_ofBool_append]; rfl))
  iterate 2
    · refine .only fun hc => ?_
      rw [Bool.not_eq_true'] at hc
      cases hc
      exact ⟨rfl, rfl⟩
  iterate 2 exact .ok rfl (congrArg Code.word (by rw [getLsbD_ofBool_append, extractLsb'_ofBool_append]; rfl))
  · refine .only fun hc => ?_
    rw [Bool.not_eq_true'] at hc
    cases hc
    exact ⟨rfl, rfl⟩
  iterate 2 exact .ok rfl (congrArg Code.word (by rw [getLsbD_ofBool_append, extractLsb'_ofBool_append]; rfl))

/-! ### Words, halfwords and bytes (09 R242, R243, R247) -/

/-- A decoder of one major opcode, put to the fields of a word of that opcode. -/
theorem Reads.ofFields {α : Type} {toWord : BitVec 6 → α → BitVec 32} {ofWord : BitVec 32 → α} {D : α → Except DecodeError Instr}
    {w : BitVec 32} {m : Nat} (hinv : toWord (w.extractLsb' 1 6) (ofWord w) = w) (hm : (w.extractLsb' 1 6).toNat = m)
    (hD : ∀ f, Reads (toWord (BitVec.ofNat 6 m) f) (D f)) : Reads w (D (ofWord w)) := by
  have h := hD (ofWord w)
  rwa [← eq_ofNat_of_toNat hm, hinv] at h

theorem decode32_reads {w : BitVec 32} (odd : w.getLsbD 0 = true) : Reads w (decode32 w) := by
  unfold decode32
  split
  · next h => exact .ofFields (RR.toWord_ofWord odd) h decodeIntRR_reads
  · next h => exact .ofFields (RI.toWord_ofWord odd) h decodeAddi_reads
  · next h => exact .ofFields (RI.toWord_ofWord odd) h decodeAndi_reads
  · next h => exact .ofFields (RI.toWord_ofWord odd) h decodeOri_reads
  · next h => exact .ofFields (RI.toWord_ofWord odd) h decodeXori_reads
  · next h => exact .ofFields (RI.toWord_ofWord odd) h decodeShiftImm_reads
  · next h => exact .ofFields (RI.toWord_ofWord odd) h decodeCmpImm_reads
  · next h => exact .ofFields (U.toWord_ofWord odd) h decodeLui_reads
  · next h => exact .ofFields (U.toWord_ofWord odd) h decodeLeapc_reads
  · next h => exact .ofFields (BF.toWord_ofWord odd) h decodeBit_reads
  · next h => exact .ofFields (RR.toWord_ofWord odd) h decodeMulDiv_reads
  · next h => exact .ofFields (RR.toWord_ofWord odd) h decodeScalarFp_reads
  · next h => exact .ofFields (BR.toWord_ofWord odd) h decodeBranch_reads
  · next h => exact .ofFields (J.toWord_ofWord odd) h decodeJump_reads
  · next h => exact .ofFields (RI.toWord_ofWord odd) h decodeJumpReg_reads
  · next h => exact .ofFields (M.toWord_ofWord odd) h decodeLoad_reads
  · next h => exact .ofFields (M.toWord_ofWord odd) h decodeStore_reads
  · next h => exact .ofFields (M.toWord_ofWord odd) h decodeMulti_reads
  · next h => exact .ofFields (RR.toWord_ofWord odd) h decodeAtomic_reads
  · next h => exact .ofFields (RR.toWord_ofWord odd) h decodeFence_reads
  · next h => exact .ofFields (RR.toWord_ofWord odd) h decodeBarrier_reads
  · next h => exact .ofFields (RR.toWord_ofWord odd) h decodeMessage_reads
  · next h => exact .ofFields (TC.toWord_ofWord odd) h decodeThread_reads
  · next h => exact .ofFields (TC.toWord_ofWord odd) h decodeTask_reads
  · next h => exact .ofFields (RR.toWord_ofWord odd) h decodeTile_reads
  · next h => exact .ofFields (X.toWord_ofWord odd) h decodeMatrix_reads
  · next h => exact .ofFields (X.toWord_ofWord odd) h decodeCopy_reads
  · next h => exact .ofFields (RI.toWord_ofWord odd) h decodeStream_reads
  · next h => exact .ofFields (RI.toWord_ofWord odd) h decodeCsr_reads
  · next h => exact .ofFields (RR.toWord_ofWord odd) h decodeSystem_reads
  · next h => exact .ofFields (P.toWord_ofWord odd) h decodePrefix_reads
  · next h => exact .ofFields (VX.toWord_ofWord odd) h decodeVint_reads
  · next h => exact .ofFields (VX.toWord_ofWord odd) h decodeVfp_reads
  · next h => exact .ofFields (VX.toWord_ofWord odd) h decodeVcmp_reads
  · next h => exact .ofFields (VX.toWord_ofWord odd) h decodeVcvt_reads
  · next h => exact .ofFields (VX.toWord_ofWord odd) h decodeVperm_reads
  · next h => exact .ofFields (VX.toWord_ofWord odd) h decodeVred_reads
  · next h => exact .ofFields (VX.toWord_ofWord odd) h decodeVmask_reads
  · next h => exact .ofFields (VM.toWord_ofWord odd) h decodeVload_reads
  · next h => exact .ofFields (VM.toWord_ofWord odd) h decodeVstore_reads
  · next h => exact .ofFields (VM.toWord_ofWord odd) h decodeVindex_reads
  · next h => exact .ofFields (VX.toWord_ofWord odd) h decodeVnarrow_reads
  · next h => exact .ofFields (VX.toWord_ofWord odd) h decodeVhist_reads
  · next h => exact .ofFields (VX.toWord_ofWord odd) h decodeVintI_reads
  · exact .error

/-- The fields of an even halfword, in their places (09 R244). -/
theorem halfWord_fields {h : BitVec 16} (even : h.getLsbD 0 = false) {k : Nat} (hk : (h.extractLsb' 1 4).toNat = k) :
    halfWord (h.getLsbD 15) (h.extractLsb' 10 5) (h.extractLsb' 5 5) (BitVec.ofNat 4 k) = h := by
  have h0 : 0#1 = h.extractLsb' 0 1 := by rw [← ofBool_getLsbD, even]; rfl
  simp only [halfWord, ← eq_ofNat_of_toNat hk, h0, ofBool_getLsbD, BitVec.extractLsb'_append_extractLsb'_eq_extractLsb']
  exact extract_all h

/-- Zero in every field is the halfword 0. -/
theorem halfWord_ne_zero {m : Bool} {b d : BitVec 5} (h : halfWord m b d 0 ≠ 0) : (!(!m && decide (b = 0) && decide (d = 0))) = true := by
  rw [Bool.not_eq_true', Bool.eq_false_iff]
  intro hz
  simp only [Bool.and_eq_true, Bool.not_eq_true', decide_eq_true_eq] at hz
  obtain ⟨⟨rfl, rfl⟩, rfl⟩ := hz
  exact h rfl

theorem decode16_reads {h : BitVec 16} (even : h.getLsbD 0 = false) : (decode16 h).wf = true ∧ (decode16 h).code = .half h := by
  unfold decode16
  split
  · next hk =>
    have he := halfWord_fields even hk
    split
    · next h0 => exact ⟨rfl, congrArg Code.half h0.symm⟩
    · next h0 => exact ⟨halfWord_ne_zero fun e => h0 (he.symm.trans e), congrArg Code.half he⟩
  iterate 14
    next hk => exact ⟨rfl, congrArg Code.half (halfWord_fields even hk)⟩
  next =>
    have hk : (h.extractLsb' 1 4).toNat = 15 := by
      have := (h.extractLsb' 1 4).isLt
      simp only [imp_false] at *
      omega
    exact ⟨rfl, congrArg Code.half (halfWord_fields even hk)⟩

/-- A word's bytes are those it was put together from. -/
theorem bytes_append4 (b0 b1 b2 b3 : Byte) : (Code.word (b3 ++ b2 ++ b1 ++ b0)).bytes = [b0, b1, b2, b3] := by
  simp only [Code.bytes, Nat.reduceLeDiff, BitVec.extractLsb'_append_eq_of_le, Nat.reduceSub, BitVec.extractLsb'_append_eq_right, extract_all]

theorem bytes_append2 (b0 b1 : Byte) : (Code.half (b1 ++ b0)).bytes = [b0, b1] := by
  simp only [Code.bytes, Nat.reduceLeDiff, BitVec.extractLsb'_append_eq_of_le, Nat.reduceSub, BitVec.extractLsb'_append_eq_right, extract_all]

/-- An instruction with a code is encoded, in the bytes of that code. -/
theorem encoded_of_code {i : Instr} {c : Code} (h : i.code = c) (hc : c ≠ .none) : i.encoded = true ∧ encode i = c.bytes := by
  subst h
  exact ⟨bne_iff_ne.mpr hc, rfl⟩

theorem encode_of_decode {bs rest : List Byte} {i : Instr} (h : decode bs = .ok (i, rest)) :
    i.wf = true ∧ i.encoded = true ∧ encode i ++ rest = bs := by
  unfold decode at h
  split at h
  · next b0 b1 tail =>
    split at h
    · next odd =>
      split at h
      · next b2 b3 tail =>
        have hodd : (b3 ++ b2 ++ b1 ++ b0).getLsbD 0 = true := by rw [bit_lo (h := by decide), odd]
        cases hj : decode32 (b3 ++ b2 ++ b1 ++ b0) with
        | error e => rw [hj] at h; cases h
        | ok j =>
          rw [hj] at h
          cases h
          obtain ⟨hwf, hcode⟩ := decode32_reads hodd i hj
          obtain ⟨hencoded, hbytes⟩ := encoded_of_code hcode nofun
          exact ⟨hwf, hencoded, by rw [hbytes, bytes_append4]; rfl⟩
      · cases h
    · next even =>
      cases h
      have heven : (b1 ++ b0).getLsbD 0 = false := by rw [bit_lo (h := by decide), Bool.eq_false_iff.mpr even]
      obtain ⟨hwf, hcode⟩ := decode16_reads heven
      obtain ⟨hencoded, hbytes⟩ := encoded_of_code hcode nofun
      exact ⟨hwf, hencoded, by rw [hbytes, bytes_append2]; rfl⟩
  · cases h

/-- Settles O57, by what each decoder reads: a word of its major opcode, or the halfword itself. -/
theorem encodeOfDecode : Obligations.EncodeOfDecode := fun _ _ _ h => encode_of_decode h

end Sys2Proof
end

section
/-!
## The 16-bit forms and the lane operations they share (09 R243, R244; 11 R293, R298)

A lane operation writes `underMask` of its lanes, one that rounds threads the stochastic-rounding state through the active lanes. The
16-bit forms are those operations under mask 0, which is all ones.
-/

namespace Sys2Proof.Machine
variable {s : State} {i : Instr} {srcs : List Opnd} {k : BitVec 3} {d : BitVec 5} {readsD : Bool} {len : Nat}

/-- Under k0 every lane is active (06 R157). -/
theorem kval_zero_getLsbD (x : Thread) {j : Nat} (hj : j < 16) : (x.kval 0).getLsbD j = true := by
  show (0xFFFF#16).getLsbD j = true
  revert j
  decide

theorem underMask_zero (s : State) (d : BitVec 5) (f : Nat → BitVec 32) {j : Nat} (hj : j < 16) : underMask s 0 d f j = f j :=
  if_pos (kval_zero_getLsbD s.me hj)

/-! ### Lanes that do not depend on one another -/

/-- A lane operation writes its lanes under the mask and keeps all else (11 R293). -/
theorem laneOp_gives {f : Nat → BitVec 32} (he : exec i s = laneOp s srcs k d readsD len f)
    (h : s.canIssue .core .plain {} (laneSources srcs k d readsD)) :
    GivesV i s (laneSources srcs k d readsD) d len (underMask s k d f) :=
  ⟨_, he.trans (laneOp_next s srcs k d readsD len f h),
    (s.putV_wrote _ d _ len).congr fun j hj => lane_maskedLanes (s.maskOf k) (s.vx d) f j hj⟩

/-- A lane operation of a 16-bit form. -/
theorem laneOp_gives_all {f : Nat → BitVec 32} (he : exec i s = laneOp s srcs 0 d readsD len f)
    (h : s.canIssue .core .plain {} (laneSources srcs 0 d readsD)) : GivesV i s (laneSources srcs 0 d readsD) d len f := by
  obtain ⟨t, ht, hw⟩ := laneOp_gives he h
  exact ⟨t, ht, hw.congr fun j hj => underMask_zero s d f hj⟩

theorem opMin_eq {w : Nat} (x y : BitVec w) : opMin x y = if x.toInt < y.toInt then x else y := by simp [opMin, BitVec.slt]

theorem opMax_eq {w : Nat} (x y : BitVec w) : opMax x y = if y.toInt < x.toInt then x else y := by simp [opMax, BitVec.slt]

/-! ### Lanes that round (03 R96) -/

/-- The stochastic-rounding state before lane `j`: each active lane leaves its own to the next. -/
def seedBefore (mask : BitVec 16) (g : Nat → BitVec 32 → Coded) (q : BitVec 32) : Nat → BitVec 32
  | 0 => q
  | j + 1 => if mask.getLsbD j then (g j (seedBefore mask g q j)).2 else seedBefore mask g q j

/-- From lane `j` on: each active lane takes its value under the state before it, the others keep theirs. -/
theorem roundedLanes_eq (mask : BitVec 16) (old : BitVec 512) (g : Nat → BitVec 32 → Coded) (q : BitVec 32) (n j : Nat) :
    roundedLanes mask old g (List.range' j n) (seedBefore mask g q j) =
      ((List.range' j n).map (fun i => if mask.getLsbD i then BitVec.ofNat 32 (g i (seedBefore mask g q i)).1 else lane old i),
        seedBefore mask g q (j + n)) := by
  induction n generalizing j with
  | zero => rfl
  | succ n ih =>
    have hnext : (if active mask j then g j (seedBefore mask g q j) else ((lane old j).toNat, seedBefore mask g q j)).2 =
        seedBefore mask g q (j + 1) := by
      rw [seedBefore, active]
      split <;> rfl
    rw [List.range'_succ, roundedLanes, hnext, ih (j + 1), List.map_cons, show j + 1 + n = j + (n + 1) by omega]
    cases ha : mask.getLsbD j <;> simp [active, ha]

/-- A lane operation that rounds, with the mode `m` in force (11 R298). -/
theorem vfpBody_rounds {u : Use} {m : Mode} {g : Mode → Nat → BitVec 32 → Coded} {r : Nat → BitVec 32 → Coded}
    (he : exec i s = settle s (vfpBody s u srcs k d readsD len g))
    (h : s.canIssue .core u m (laneSources srcs k d readsD)) (hr : g m = r) :
    roundsLanes i s (laneSources srcs k d readsD) k d len s.me.run r := by
  subst hr
  have hlanes := roundedLanes_eq (s.maskOf k) (s.vx d) (g m) s.me.srseed 16 0
  rw [← List.range_eq_range'] at hlanes
  have hbody := vfpBody_ok s u srcs k d readsD len g m h
  rw [show s.me.srseed = seedBefore (s.maskOf k) (g m) s.me.srseed 0 from rfl, hlanes] at hbody
  rw [hbody, settle_ok] at he
  refine ⟨seedBefore (s.maskOf k) (g m) s.me.srseed, rfl, fun _ _ => rfl, _, he, ?_⟩
  exact (s.putV_reseed_wrote _ d _ len _).congr fun j hj => lane_map _ j hj

/-! ### NOP -/

theorem execNop_next (h : s.canIssue .any .plain {} []) : exec .nop s = .next (s.retire 2) := by
  show execNop s = _
  simp only [execNop, h.1, bind, Except.bind, settle]

/-- An instruction without operands moves the pc alone. -/
theorem State.retire_moves_pc (s : State) (len : Nat) :
    RegFrame s (s.retire len) [] noReg noReg noReg s.me.run s.me.srseed ∧ Issued s (s.retire len) len :=
  State.retire_frame (.refl [] s.me) (fun _ _ => rfl) (fun _ => rfl) rfl

/-- Settles O7: NOP, the integer forms, then those that round. -/
theorem halfwordResult : Obligations.HalfwordResult := by
  refine ⟨fun s m b d => ⟨fun h => ⟨_, execNop_next h, State.retire_moves_pc s 2⟩, laneOp_gives_all rfl, fun h => ?_⟩, fun s f m b d h => ?_⟩
  · simp only [← opMin_eq, ← opMax_eq]
    refine ⟨?_, ?_, ?_, ?_, ?_, ?_, ?_, ?_, ?_, ?_⟩ <;> exact laneOp_gives_all rfl h
  · refine ⟨?_, ?_, ?_, ?_, ?_⟩ <;> exact vfpBody_rounds rfl h rfl

end Sys2Proof.Machine
end

section
/-! ## The halfword space, the two NOPs, and the words of the spec's examples (09 R243 to R265; 08) -/

namespace Sys2Proof.Machine
variable {s t : State} {os : List Opnd} {v : Word} {run : RunState} {seed : BitVec 32}

theorem decode_even {h : BitVec 16} (even : h.getLsbD 0 = false) (rest : List Byte) :
    decode (h.extractLsb' 0 8 :: h.extractLsb' 8 8 :: rest) = .ok (decode16 h, rest) := decode_half h rest even

/-- A result written to s0 changes no register (06 R157). -/
theorem WroteS.discards (h : WroteS s t os 0 v run seed) (hlast : ∀ r, lastS os r = false ∧ lastV os r = false) :
    RegFrame s t [] noReg noReg noReg run seed :=
  { h.frame with
    scalars := fun r _ _ => by
      by_cases hr : r = 0
      · subst hr
        exact ⟨rfl, rfl⟩
      · exact h.frame.scalars r (decide_eq_false hr) (hlast r).1
    vectors := fun r hd _ => h.frame.vectors r hd (hlast r).2 }

/-- Settles O59: an even halfword decodes, the two NOPs do, and what each of them does. -/
theorem halfwordSpace : Obligations.HalfwordSpace := by
  refine ⟨fun h rest even => ⟨_, decode_even even rest⟩, fun rest => Laws.RoundTrip.nop rfl rfl rest,
    fun rest => Laws.RoundTrip.addi 0 false 0 0 rfl rfl rest, fun s => ⟨fun h => ?_, fun h => ?_⟩⟩
  · obtain ⟨hframe, hissued⟩ := State.retire_moves_pc s 2
    refine ⟨_, execNop_next h, hissued, ?_, ?_, ?_, hframe⟩ <;> rw [State.me_retire]
  · have hw := s.putS_wrote [.s 0 false] 0 (s.x 0 + simm 0#14)
    exact ⟨_, scalarOp_next s _ _ _ h, hw.issued, hw.discards fun r => ⟨rfl, rfl⟩⟩

/-- Settles O58: the words decode as the decoder computes. -/
theorem decodeWords : Obligations.DecodeWords := by
  refine ⟨?_, ?_, ?_, ?_, ?_, ?_, ?_, ?_, ?_, ?_, ?_, ?_⟩ <;> rfl

end Sys2Proof.Machine
end

section
/-! ## Scalar integer and floating-point results (10 R272 to R286)

A scalar instruction writes one value; what is left of each is an equation of values: a 64-bit operation, or the 32-bit operation on the
low halves, sign-extended (R273).
-/

namespace Sys2Proof.Machine
variable {s : State} {i : Instr} {os : List Opnd} {d : BitVec 5} {v r : Word} {z : Bool} {x y : Word} {w : Nat}

/-! ### One register written -/

/-- A scalar operation gives its value, in the form a rule spells it. -/
theorem scalarOp_gives (h : s.canIssue .any .plain {} os) (he : exec i s = scalarOp s os d v) (hv : v = r) : GivesS i s os d r := by
  subst hv
  exact ⟨_, he.trans (scalarOp_next s os d v h), s.putS_wrote os d v⟩

/-- As `scalarOp_gives`, out of rotation (10 R274). -/
theorem scalarLongOp_gives {n : Nat} (h : s.canIssue .any .plain {} os) (he : exec i s = scalarLongOp s os d v n) (hv : v = r) :
    GivesSLate i s os d r n := by
  subst hv
  exact ⟨_, he.trans (scalarLongOp_next s os d v n h), (s.putS_wrote os d v).later n⟩

/-- A scalar floating-point operation gives its value and leaves its stochastic-rounding state (10 R283). -/
theorem scalarFp_gives {f : Mode} {g : Mode → Coded} {q : BitVec 32} (h : s.canIssue .any .fp f os)
    (he : exec i s = settle s (scalarFp s os d g)) (hv : BitVec.ofNat 64 (g f).1 = r) (hq : (g f).2 = q) :
    Completes i s (fun t => WroteS s t os d r s.me.run q) := by
  subst hv hq
  rw [scalarFp_ok s os d g f h, settle_ok] at he
  exact ⟨_, he, s.putS_reseed_wrote os d _ _⟩

/-! ### The two sizes (10 R273) -/

/-- An operation with its two readings: on 64 bits, and on 32. -/
theorem bySize_eq {op : {w : Nat} → BitVec w → BitVec w → BitVec w} {a : Word} {b : BitVec 32} (ha : op x y = a)
    (hb : op (lo32 x) (lo32 y) = b) : bySize z op x y = szd z a b := by
  subst ha hb
  rfl

theorem lo32_toNat (y : Word) : (lo32 y).toNat = y.toNat % 2 ^ 32 := BitVec.toNat_setWidth ..

theorem lo32_toNat_mod (y : Word) : (lo32 y).toNat % 32 = y.toNat % 32 := by
  rw [lo32_toNat, Nat.mod_mod_of_dvd _ (show 32 ∣ 2 ^ 32 by norm_num)]

/-- A shift takes its count modulo the size (10 R276). -/
theorem bySize_shift (sh : {w : Nat} → BitVec w → Nat → BitVec w) :
    bySize z (fun {w} a b => sh a (b.toNat % w)) x y =
      szd z (sh x (if z then y.toNat % 64 else y.toNat % 32)) (sh (lo32 x) (if z then y.toNat % 64 else y.toNat % 32)) := by
  cases z
  · simp only [bySize, szd, Bool.false_eq_true, if_false, ← lo32_toNat_mod y]
    rfl
  · simp only [bySize, szd, if_true]

theorem opMinu_eq (x y : BitVec w) : opMinu x y = if x.toNat < y.toNat then x else y := by simp [opMinu, BitVec.ult]

theorem opMaxu_eq (x y : BitVec w) : opMaxu x y = if y.toNat < x.toNat then x else y := by simp [opMaxu, BitVec.ult]

theorem condEq_eq (x y : BitVec w) : condEq x y = decide (x = y) := rfl
theorem condNe_eq (x y : BitVec w) : condNe x y = decide (x ≠ y) := by
  rw [condNe, bne, decide_not]
  rfl
theorem condLt_eq (x y : BitVec w) : condLt x y = decide (x.toInt < y.toInt) := rfl
theorem condGe_eq (x y : BitVec w) : condGe x y = decide (y.toInt ≤ x.toInt) := rfl
theorem condLtu_eq (x y : BitVec w) : condLtu x y = decide (x.toNat < y.toNat) := rfl
theorem condGeu_eq (x y : BitVec w) : condGeu x y = decide (y.toNat ≤ x.toNat) := rfl

theorem flag_of {c : Bool} {p : Prop} [Decidable p] (h : c = decide p) : flag c = if p then 1 else 0 := by simp [flag, h]

/-- A compare with its two readings. -/
theorem cmpBySize_eq {rel : {w : Nat} → BitVec w → BitVec w → Bool} {a b : Bool} (ha : rel x y = a)
    (hb : rel (lo32 x) (lo32 y) = b) : cmpBySize z rel x y = szc z a b := by
  subst ha hb
  rfl

/-! ### Counts (10 R276) -/

theorem getLsbD_lo32 (x : Word) {j : Nat} (hj : j < 32) : (lo32 x).getLsbD j = x.getLsbD j := by
  simp [lo32, hj]

/-- `c` counts the zero bits above the highest one bit of the low `w` bits. -/
structure LeadingZeros (bit : Nat → Bool) (w c : Nat) : Prop where
  le : c ≤ w
  zeros : ∀ j, j < c → bit (w - 1 - j) = false
  one : c < w → bit (w - 1 - c) = true

/-- `c` counts the zero bits below the lowest one bit of the low `w` bits. -/
structure TrailingZeros (bit : Nat → Bool) (w c : Nat) : Prop where
  le : c ≤ w
  zeros : ∀ j, j < c → bit j = false
  one : c < w → bit c = true

theorem opClz_leadingZeros (x : BitVec w) : LeadingZeros x.getLsbD w (opClz x) := by
  unfold opClz
  by_cases h0 : x = 0
  · rw [if_pos h0, h0]
    exact ⟨le_rfl, fun _ _ => BitVec.getLsbD_zero, fun h => absurd h (lt_irrefl w)⟩
  · have hne : x.toNat ≠ 0 := fun h => h0 (BitVec.eq_of_toNat_eq h)
    have htop : x.toNat.log2 < w := (Nat.log2_lt hne).2 x.isLt
    rw [if_neg h0]
    refine ⟨by omega, fun j hj => ?_, fun _ => ?_⟩
    · exact Nat.testBit_lt_two_pow (Nat.lt_log2_self.trans_le (Nat.pow_le_pow_right (by decide) (by omega)))
    · rw [show w - 1 - (w - 1 - x.toNat.log2) = x.toNat.log2 by omega]
      exact Nat.testBit_log2 hne

theorem opCtz_trailingZeros (x : BitVec w) : TrailingZeros x.getLsbD w (opCtz x) := by
  have hle : opCtz x ≤ w := by simpa [opCtz] using List.findIdx_le_length (p := fun j => x.getLsbD j) (xs := List.range w)
  refine ⟨hle, fun j hj => ?_, fun h => ?_⟩
  · simpa using List.not_of_lt_findIdx hj
  · have hfound := List.findIdx_getElem (p := fun j => x.getLsbD j) (xs := List.range w) (w := by simpa [opCtz] using h)
    rwa [List.getElem_range] at hfound

/-- The low half has the leading zeros of the low 32 bits. -/
theorem LeadingZeros.of_lo32 {c : Nat} (h : LeadingZeros (lo32 x).getLsbD 32 c) : LeadingZeros x.getLsbD 32 c :=
  ⟨h.le, fun j hj => (getLsbD_lo32 x (by omega)).symm.trans (h.zeros j hj),
    fun hc => (getLsbD_lo32 x (by omega)).symm.trans (h.one hc)⟩

theorem TrailingZeros.of_lo32 {c : Nat} (h : TrailingZeros (lo32 x).getLsbD 32 c) : TrailingZeros x.getLsbD 32 c :=
  ⟨h.le, fun j hj => (getLsbD_lo32 x (hj.trans_le h.le)).symm.trans (h.zeros j hj),
    fun hc => (getLsbD_lo32 x hc).symm.trans (h.one hc)⟩

theorem countBySize_clz (z : Bool) (x : Word) :
    ∃ c, LeadingZeros x.getLsbD (if z then 64 else 32) c ∧ countBySize z opClz x = BitVec.ofNat 64 c := by
  cases z
  · exact ⟨_, (opClz_leadingZeros (lo32 x)).of_lo32, rfl⟩
  · exact ⟨_, opClz_leadingZeros x, rfl⟩

theorem countBySize_ctz (z : Bool) (x : Word) :
    ∃ c, TrailingZeros x.getLsbD (if z then 64 else 32) c ∧ countBySize z opCtz x = BitVec.ofNat 64 c := by
  cases z
  · exact ⟨_, (opCtz_trailingZeros (lo32 x)).of_lo32, rfl⟩
  · exact ⟨_, opCtz_trailingZeros x, rfl⟩

theorem countBySize_popc (z : Bool) (x : Word) : countBySize z opPopc x =
    BitVec.ofNat 64 ((List.range (if z then 64 else 32)).countP (fun j => x.getLsbD j)) := by
  cases z
  · refine congrArg (BitVec.ofNat 64) (List.countP_congr fun j hj => ?_)
    rw [← getLsbD_lo32 x (List.mem_range.1 hj)]
    rfl
  · rfl

/-- Settles O1: every operation of INT.RR is `scalarOp` of a value, and the values are those of R276. -/
theorem scalarAluResult : Obligations.ScalarAluResult := by
  refine ⟨fun s z m n b a d h => ?_, fun s z m n b a d => ⟨fun h => ?_, fun h => ?_, fun h => ?_⟩⟩
  · refine ⟨?_, ?_, ?_, ?_, ?_, ?_, ?_, ?_, ?_, ?_, ?_, ?_, ?_, ?_⟩
    iterate 6 exact scalarOp_gives h rfl rfl
    · exact scalarOp_gives h rfl (bySize_shift (fun a n => a <<< n))
    · exact scalarOp_gives h rfl (bySize_shift (fun a n => a >>> n))
    · exact scalarOp_gives h rfl (bySize_shift BitVec.sshiftRight)
    · exact scalarOp_gives h rfl (bySize_shift BitVec.rotateRight)
    · exact scalarOp_gives h rfl (bySize_eq (opMin_eq _ _) (opMin_eq _ _))
    · exact scalarOp_gives h rfl (bySize_eq (opMax_eq _ _) (opMax_eq _ _))
    · exact scalarOp_gives h rfl (bySize_eq (opMinu_eq _ _) (opMinu_eq _ _))
    · exact scalarOp_gives h rfl (bySize_eq (opMaxu_eq _ _) (opMaxu_eq _ _))
  · refine ⟨?_, ?_, ?_, ?_⟩
    · exact scalarOp_gives h rfl (cmpBySize_eq (condLt_eq _ _) (condLt_eq _ _))
    · exact scalarOp_gives h rfl (cmpBySize_eq (condLtu_eq _ _) (condLtu_eq _ _))
    · exact scalarOp_gives h rfl (cmpBySize_eq (condEq_eq _ _) (condEq_eq _ _))
    · exact scalarOp_gives h rfl (cmpBySize_eq (condNe_eq _ _) (condNe_eq _ _))
  · exact ⟨scalarOp_gives h rfl rfl, scalarOp_gives h rfl rfl⟩
  · obtain ⟨c, hc, hclz⟩ := countBySize_clz z (s.x a)
    obtain ⟨e, he, hctz⟩ := countBySize_ctz z (s.x a)
    exact ⟨⟨c, hc.le, hc.zeros, hc.one, scalarOp_gives h rfl hclz⟩, ⟨e, he.le, he.zeros, he.one, scalarOp_gives h rfl hctz⟩,
      scalarOp_gives h rfl (countBySize_popc z _)⟩

end Sys2Proof.Machine
end

section
/-! ## Immediate, upper-immediate and bit-field results (10 R277 to R281) -/

namespace Sys2Proof.Machine
variable {s : State} {z : Bool} {x : Word}

/-- A shift by a count that the size admits (10 R278). -/
theorem bySize_shift_imm (sh : {w : Nat} → BitVec w → Nat → BitVec w) {c : BitVec 6} (hc : z = true ∨ c.toNat < 32) :
    bySize z (fun {w} a b => sh a (b.toNat % w)) x (c.setWidth 64) = szd z (sh x c.toNat) (sh (lo32 x) c.toNat) := by
  have hcount : (c.setWidth 64).toNat = c.toNat := BitVec.toNat_setWidth_of_le (by decide)
  rw [bySize_shift, hcount]
  cases z
  · rw [if_neg Bool.false_ne_true, Nat.mod_eq_of_lt (hc.resolve_left Bool.false_ne_true)]
  · rw [if_pos rfl, Nat.mod_eq_of_lt c.isLt]

/-! ### Bit fields (10 R281) -/

/-- The bits of the mask of a field: those below its length. -/
theorem getLsbD_fieldMask (len j : Nat) : (BitVec.ofNat 64 (2 ^ len - 1)).getLsbD j = (decide (j < 64) && decide (j < len)) := by
  rw [BitVec.getLsbD_ofNat, Nat.testBit_two_pow_sub_one]

theorem getLsbD_bitFieldOf (x : Word) (pos len j : Nat) (hj : j < 64) :
    (bitFieldOf x pos len).getLsbD j = if j < len then x.getLsbD (pos + j) else false := by
  rw [bitFieldOf, BitVec.getLsbD_and, BitVec.getLsbD_ushiftRight, getLsbD_fieldMask]
  by_cases h : j < len <;> simp [hj, h]

/-- Shifted up to the top of the word and back, a value keeps its low bits and repeats bit `l` above them. -/
theorem getLsbD_signFill (f : Word) {l : Nat} (hl : l < 64) {j : Nat} (hj : j < 64) :
    ((f <<< (63 - l)).sshiftRight (63 - l)).getLsbD j = f.getLsbD (min j l) := by
  rw [BitVec.getLsbD_sshiftRight, BitVec.msb_eq_getLsbD_last]
  by_cases h : 63 - l + j < 64
  · simp [hj, h, show min j l = j by omega]
  · simp [h, show min j l = l by omega, show 63 - (63 - l) = l by omega, show ¬ 64 ≤ j by omega, show ¬ 63 < 63 - l by omega,
      BitVec.getLsbD_eq_getElem hl]

/-- A field put in its place: inside it the source's bits, outside it the destination's own. -/
theorem getLsbD_insert (x y : Word) (len p : Nat) {j : Nat} (hj : j < 64) :
    ((y &&& ~~~(BitVec.ofNat 64 (2 ^ len - 1) <<< p)) ||| ((x <<< p) &&& (BitVec.ofNat 64 (2 ^ len - 1) <<< p))).getLsbD j =
      if p ≤ j ∧ j < p + len then x.getLsbD (j - p) else y.getLsbD j := by
  have hmask : (BitVec.ofNat 64 (2 ^ len - 1) <<< p).getLsbD j = decide (p ≤ j ∧ j < p + len) := by
    rw [BitVec.getLsbD_shiftLeft, getLsbD_fieldMask]
    by_cases h : p ≤ j
    · simp [hj, h, show j - p < 64 by omega, Nat.sub_lt_iff_lt_add' h]
    · simp [h, show j < p by omega]
  rw [BitVec.getLsbD_or, BitVec.getLsbD_and, BitVec.getLsbD_not, BitVec.getLsbD_and, hmask]
  by_cases h : p ≤ j ∧ j < p + len
  · simp [h, hj, show ¬ j < p by omega, BitVec.getLsbD_eq_getElem (show j - p < 64 by omega)]
  · simp [h, hj]

/-- Settles O2: the immediates, the upper immediates, and the fields bit by bit. -/
theorem scalarImmediateResult : Obligations.ScalarImmediateResult := by
  refine ⟨fun s n a d h => ⟨fun i => ?_, fun z c hc => ?_, fun i => ?_⟩,
    fun s d => ⟨fun i h => ?_, fun l p n a hfit => ⟨fun h => ?_, fun h => ?_⟩⟩⟩
  · exact ⟨scalarOp_gives h rfl rfl, scalarOp_gives h rfl rfl, scalarOp_gives h rfl rfl, scalarOp_gives h rfl rfl⟩
  · exact ⟨scalarOp_gives h rfl (bySize_shift_imm (fun a n => a <<< n) hc),
      scalarOp_gives h rfl (bySize_shift_imm (fun a n => a >>> n) hc),
      scalarOp_gives h rfl (bySize_shift_imm BitVec.sshiftRight hc), scalarOp_gives h rfl (bySize_shift_imm BitVec.rotateRight hc)⟩
  · exact ⟨scalarOp_gives h rfl (flag_of (condEq_eq _ _)), scalarOp_gives h rfl (flag_of (condNe_eq _ _)),
      scalarOp_gives h rfl (flag_of (condLt_eq _ _)), scalarOp_gives h rfl (flag_of (condLtu_eq _ _))⟩
  · exact ⟨scalarOp_gives h rfl rfl, scalarOp_gives h rfl rfl⟩
  · refine ⟨⟨_, scalarOp_gives h rfl rfl, fun j hj => ?_⟩, ⟨_, scalarOp_gives h rfl rfl, fun j hj => ?_⟩⟩
    · rw [getLsbD_bitFieldOf _ _ _ _ hj]
      exact if_congr Nat.lt_succ_iff rfl rfl
    · rw [getLsbD_signFill _ l.isLt hj, getLsbD_bitFieldOf _ _ _ _ (by omega), if_pos (by omega)]
  · refine ⟨_, scalarOp_gives h rfl rfl, fun j hj => ?_⟩
    rw [getLsbD_insert _ _ _ _ hj]
    exact if_congr (and_congr_right fun _ => by omega) rfl rfl

end Sys2Proof.Machine
end

section
/-! ## Products and quotients (10 R282) -/

namespace Sys2Proof.Machine
variable {w : Nat}

/-- The high half of a product is the quotient by 2^w, towards minus infinity. -/
theorem opMulh_eq (x y : BitVec w) : opMulh x y = BitVec.ofInt w (x.toInt * y.toInt / 2 ^ w) := by
  rw [opMulh, Int.shiftRight_eq_div_pow, Nat.cast_pow, Nat.cast_ofNat]

theorem opMulhu_eq (x y : BitVec w) : opMulhu x y = BitVec.ofNat w (x.toNat * y.toNat / 2 ^ w) := by
  rw [opMulhu, Nat.shiftRight_eq_div_pow]

theorem opMulhsu_eq (x y : BitVec w) : opMulhsu x y = BitVec.ofInt w (x.toInt * y.toNat / 2 ^ w) := by
  rw [opMulhsu, Int.shiftRight_eq_div_pow, Nat.cast_pow, Nat.cast_ofNat]

theorem sdiv_eq_ofInt (x y : BitVec w) : x.sdiv y = BitVec.ofInt w (x.toInt.tdiv y.toInt) := by
  apply BitVec.eq_of_toInt_eq
  rw [BitVec.toInt_sdiv, BitVec.toInt_ofInt]

theorem srem_eq_ofInt (x y : BitVec w) : x.srem y = BitVec.ofInt w (x.toInt.tmod y.toInt) := by
  rw [← BitVec.toInt_srem, BitVec.ofInt_toInt]

/-- A division by -1 leaves no remainder, so neither does the overflow pair. -/
theorem srem_neg_one (x : BitVec w) : x.srem (-1#w) = 0 := by
  apply BitVec.eq_of_toInt_eq
  rw [BitVec.toInt_srem, BitVec.neg_one_eq_allOnes, BitVec.toInt_allOnes]
  split
  · simp
  · next hw =>
    obtain rfl : w = 0 := by omega
    rw [BitVec.eq_nil x]
    rfl

theorem two_pow_eq_intMin (w : Nat) : (2 : BitVec w) ^ (w - 1) = BitVec.intMin w := by
  apply BitVec.eq_of_toNat_eq
  rw [BitVec.toNat_intMin, ← BitVec.toNat_ofNat, BitVec.ofNat_pow]
  rfl

theorem opDiv_eq {k : BitVec w} (hk : k = BitVec.intMin w) (x y : BitVec w) : opDiv x y =
    if y = 0 then -1 else if x = k ∧ y = -1 then x else BitVec.ofInt w (x.toInt.tdiv y.toInt) := by
  rw [opDiv, ← sdiv_eq_ofInt]
  refine ite_congr rfl (fun _ => BitVec.neg_one_eq_allOnes.symm) fun _ => ?_
  split
  · next h =>
    obtain ⟨rfl, rfl⟩ := h
    rw [hk]
    exact BitVec.intMin_sdiv_neg_one
  · rfl

theorem opDivu_eq (x y : BitVec w) : opDivu x y = if y = 0 then -1 else BitVec.ofNat w (x.toNat / y.toNat) := by
  rw [opDivu]
  refine ite_congr rfl (fun _ => BitVec.neg_one_eq_allOnes.symm) fun _ => ?_
  rw [← BitVec.toNat_udiv, BitVec.ofNat_toNat, BitVec.setWidth_eq]

/-- The overflow pair, or any dividend `k` with the divisor -1, leaves 0. -/
theorem opRem_eq {k : BitVec w} (x y : BitVec w) : opRem x y =
    if y = 0 then x else if x = k ∧ y = -1 then 0 else BitVec.ofInt w (x.toInt.tmod y.toInt) := by
  rw [opRem, ← srem_eq_ofInt]
  refine ite_congr rfl (fun _ => rfl) fun _ => ?_
  split
  · next h =>
    obtain ⟨rfl, rfl⟩ := h
    exact srem_neg_one _
  · rfl

theorem opRemu_eq (x y : BitVec w) : opRemu x y = if y = 0 then x else BitVec.ofNat w (x.toNat % y.toNat) := by
  rw [opRemu, ← BitVec.toNat_umod, BitVec.ofNat_toNat, BitVec.setWidth_eq]

/-- Settles O3: no operand is left without a result. -/
theorem multiplyDivideResult : Obligations.MultiplyDivideResult := by
  intro s z m n b a d h
  refine ⟨?_, ?_, ?_, ?_, ?_, ?_, ?_, ?_⟩
  · exact scalarOp_gives h rfl rfl
  · exact scalarOp_gives h rfl (bySize_eq (opMulh_eq _ _) (opMulh_eq _ _))
  · exact scalarOp_gives h rfl (bySize_eq (opMulhu_eq _ _) (opMulhu_eq _ _))
  · exact scalarOp_gives h rfl (bySize_eq (opMulhsu_eq _ _) (opMulhsu_eq _ _))
  · exact scalarLongOp_gives h rfl (bySize_eq (opDiv_eq (two_pow_eq_intMin 64) _ _) (opDiv_eq (two_pow_eq_intMin 32) _ _))
  · exact scalarLongOp_gives h rfl (bySize_eq (opDivu_eq _ _) (opDivu_eq _ _))
  · exact scalarLongOp_gives h rfl (bySize_eq (opRem_eq _ _) (opRem_eq _ _))
  · exact scalarLongOp_gives h rfl (bySize_eq (opRemu_eq _ _) (opRemu_eq _ _))

end Sys2Proof.Machine
end

section
/-! ## Scalar floating point (10 R283 to R286) -/

namespace Sys2Proof.Machine
variable {s : State} {f : Mode} {m n : Bool} {b a d : BitVec 5}

/-- The predicate of FCMP in d[1:0] (10 R285). -/
theorem fcmpHolds_eq (p : BitVec 2) (A B : Ex) : fcmpHolds p A B = (match p.toNat with
    | 0 => A.eq B
    | 1 => A.lt B
    | 2 => A.eq B || A.lt B
    | _ => A.isNan || B.isNan) := by
  obtain ⟨⟨k, hk⟩⟩ := p
  interval_cases k <;> rfl

theorem execFdiv_next (h : s.canIssue .any .fp f (rrOps m n b a)) : Completes (.fdiv m n b a d) s (fun t =>
    WroteS s t (rrOps m n b a) d (BitVec.ofNat 64 (f.fp ((s.fx a).div (s.fx b)) s.me.srseed).1)
      (.waiting (.latency (s.cycle + 20))) (f.fp ((s.fx a).div (s.fx b)) s.me.srseed).2) := by
  have he : exec (.fdiv m n b a d) s = execFdiv m n b a d s := rfl
  rw [execFdiv, scalarFp_ok _ _ _ _ f h] at he
  exact ⟨_, he, (s.putS_reseed_wrote _ d _ _).later 20⟩

/-- Settles O4: every operation is `scalarFp` of a coded value; FDIV alone leaves rotation. -/
theorem scalarFloatResult : Obligations.ScalarFloatResult := by
  refine fun s f m n b a d => ⟨fun h => ?_, fun h => ?_, fun h => ?_⟩
  · exact ⟨scalarFp_gives h rfl rfl rfl, scalarFp_gives h rfl rfl rfl, scalarFp_gives h rfl rfl rfl, execFdiv_next h⟩
  · refine ⟨scalarFp_gives h rfl rfl rfl, scalarFp_gives h rfl ?_ rfl⟩
    have hp : ((s.x d).extractLsb' 0 2).toNat = (s.x d).toNat % 4 := BitVec.extractLsb'_toNat 0 2 (s.x d)
    rw [BitVec.ofNat_toNat, BitVec.setWidth_eq, fcmpHolds_eq, hp]
    rfl
  · refine ⟨scalarFp_gives h rfl rfl rfl, scalarFp_gives h rfl ?_ rfl⟩
    rw [BitVec.ofNat_toNat, BitVec.setWidth_eq]

end Sys2Proof.Machine
end

section
/-! ## Control transfer (10 R287 to R290; 01 R36, R37) -/

namespace Sys2Proof.Machine
variable {s t : State} {instr : Instr} {os : List Opnd} {T : Word} {link : BitVec 5} {dS : Nat → Bool} {run : RunState}
  {seed : BitVec 32}

/-! ### The targets -/

/-- A displacement leads to the start of a fetch block (10 R290). -/
theorem target_aligned {w : Nat} (pc : Word) (i : BitVec w) : (target pc i).toNat % 64 = 0 := by
  have hbase : (blockBase pc).toNat % 64 = 0 := by
    rw [blockBase_eq_shift, BitVec.toNat_shiftLeft, Nat.shiftLeft_eq]
    omega
  rw [target, BitVec.toNat_add, BitVec.toNat_mul, show (64 : Word).toNat = 64 from rfl]
  omega

/-- A TSC's code lies in its store, that of a core's contexts in space 0x0 (01 R10, R36). -/
theorem codeAddress_iff (u : Nat) (T : Word) : codeAddress u T = true ↔ T.toNat < 2 ^ 52 ∧ (isTsc u = true → T.toNat < 2 ^ 17) := by
  unfold codeAddress
  cases isTsc u
  · simp
  · simp only [if_true, decide_eq_true_eq, true_imp_iff]
    omega

/-! ### The checks, in their order (10 R290) -/

/-- The thread at the target, with the address of the next block in its link register. -/
def State.goneTo (s : State) (os : List Opnd) (T : Word) (link : BitVec 5) : State :=
  ((s.consume s.cur os).setS s.cur link.toNat (nextBlock s.me.pc) 0).retireTo T

theorem State.transfer_ok (hc : codeAddress s.cur T = true) (ha : T.toNat % 64 = 0) :
    s.transfer os T link = .ok (s.goneTo os T link) := by
  simp [State.transfer, State.goneTo, hc, ha]

theorem State.transfer_outside (hc : codeAddress s.cur T = false) : s.transfer os T link = localFault T := by
  simp [State.transfer, hc]

theorem State.transfer_unaligned (hc : codeAddress s.cur T = true) (ha : T.toNat % 64 ≠ 0) : s.transfer os T link = alignTrap T := by
  simp [State.transfer, hc, ha]

/-! ### What comes before them -/

theorem jump_eq (h : s.canIssue .any .plain {} os) : jump s os T link = settle s (s.transfer os T link) := by
  simp only [jump, h.1, State.refilled_ok h.2, bind, Except.bind]

theorem branch_taken {i : BitVec 12} {b a : BitVec 5} (h : s.canIssue .any .plain {} [.s a false, .s b false]) :
    branch s i b a true = settle s (s.transfer [.s a false, .s b false] (target s.me.pc i) 0) := by
  simp only [branch, h.1, State.refilled_ok h.2, bind, Except.bind, if_true]

theorem branch_not_taken {i : BitVec 12} {b a : BitVec 5} (h : s.canIssue .any .plain {} [.s a false, .s b false]) :
    branch s i b a false = .next ((s.consume s.cur [.s a false, .s b false]).retire 4) := by
  simp only [branch, h.1, State.refilled_ok h.2, bind, Except.bind, Bool.false_eq_true, if_false, settle]

/-! ### Frames of the pieces of an issue -/

section frames
variable {u : State} {dV dK : Nat → Bool}

theorem State.consume_frame (s : State) : RegFrame s (s.consume s.cur os) os dS dV dK s.me.run s.me.srseed := by
  have hme := s.consume_me os
  have hkept : KeptRest s.me (s.consume s.cur os).me := .of_unread hme.rest
  exact ⟨fun r _ => hme.scalars r, fun r _ => hme.vectors r, fun r _ => kval_congr hkept.k r, hkept.plain, hkept.run, hkept.srseed,
    fun v hv => s.consume_other os v hv ▸ .refl _, fun _ => rfl, rfl⟩

/-- A write to a scalar register: `dS` holds it, or it is s0. -/
theorem State.setS_frame {r : Nat} {v : Word} {g : BitVec 8} (hr : r = 0 ∨ dS r = true) (s : State) :
    RegFrame s (s.setS s.cur r v g) [] dS dV dK s.me.run s.me.srseed := by
  have hout := s.setS_outside s.cur r v g
  obtain ⟨hv, hvt, hkept⟩ := s.setS_keeps s.cur r v g
  refine ⟨?_, ?_, ?_, ?_, ?_, ?_, fun w hw => s.setS_other _ _ _ _ w hw, s.setS_core _ _ _ _, hout⟩
  all_goals rw [State.me, State.cur_of_outside hout]
  · intro q hq _
    by_cases hqr : q = r
    · subst hqr
      obtain rfl : q = 0 := hr.resolve_right (by simp [hq])
      exact ⟨rfl, rfl⟩
    · exact s.sval_setS_ne _ _ _ _ _ hqr
  · exact fun q _ _ => ⟨congrFun hv q, congrFun hvt q⟩
  · exact fun q _ => kval_congr hkept.k q
  · exact hkept.plain
  · exact hkept.run
  · exact hkept.srseed

theorem State.retireTo_frame (s : State) (T : Word) : RegFrame s (s.retireTo T) [] dS dV dK s.me.run s.me.srseed := by
  refine ⟨?_, ?_, ?_, ?_, ?_, ?_, fun w hw => s.retireTo_other T w hw ▸ .refl _, s.retireTo_core T, rfl⟩
  all_goals rw [State.me_retireTo]
  · exact fun _ _ _ => ⟨rfl, rfl⟩
  · exact fun _ _ _ => ⟨rfl, rfl⟩
  · exact fun _ _ => ⟨rfl, rfl⟩
  all_goals rfl

/-- A further piece that reads no register keeps the frame. -/
theorem RegFrame.trans (h : RegFrame s u os dS dV dK run seed) (g : RegFrame u t [] dS dV dK u.me.run u.me.srseed) :
    RegFrame s t os dS dV dK run seed where
  scalars r hd hl := ⟨(g.scalars r hd rfl).1.trans (h.scalars r hd hl).1, (g.scalars r hd rfl).2.trans (h.scalars r hd hl).2⟩
  vectors r hd hl := ⟨(g.vectors r hd rfl).1.trans (h.vectors r hd hl).1, (g.vectors r hd rfl).2.trans (h.vectors r hd hl).2⟩
  masks r hd := ⟨(g.masks r hd).1.trans (h.masks r hd).1, (g.masks r hd).2.trans (h.masks r hd).2⟩
  own := g.own.trans h.own
  run := g.run.trans h.run
  seed := g.seed.trans h.seed
  others v hv := (h.others v hv).trans (g.others v (State.cur_of_outside h.rest ▸ hv))
  cores k := (g.cores k).trans (h.cores k)
  rest := g.rest.trans h.rest

end frames

/-! ### A transfer that completes -/

theorem State.goneTo_frame (hlink : link.toNat = 0 ∨ dS link.toNat = true) :
    RegFrame s (s.goneTo os T link) os dS noReg noReg s.me.run s.me.srseed :=
  (s.consume_frame.trans (State.setS_frame hlink (s.consume s.cur os))).trans (State.retireTo_frame _ T)

theorem State.goneTo_pc : (s.goneTo os T link).me.pc = T ∧ (s.goneTo os T link).me.pfx = false := by
  rw [State.goneTo, State.me_retireTo]
  exact ⟨rfl, rfl⟩

theorem State.goneTo_link (hlink : link ≠ 0) : (s.goneTo os T link).me.sval link.toNat = nextBlock s.me.pc ∧
    (s.goneTo os T link).me.staint link.toNat = 0 := by
  have hne : link.toNat ≠ 0 := fun h => hlink (BitVec.eq_of_toNat_eq h)
  have hcur : ((s.consume s.cur os).setS s.cur link.toNat (nextBlock s.me.pc) 0).cur = s.cur :=
    State.cur_of_outside (State.setS_outside ..)
  have hval := State.sval_setS (s.consume s.cur os) s.cur link.toNat (nextBlock s.me.pc) 0
  have htaint := State.staint_setS (s.consume s.cur os) s.cur link.toNat (nextBlock s.me.pc) 0
  rw [if_neg hne] at hval htaint
  rw [State.goneTo, State.me_retireTo, State.me, hcur]
  exact ⟨hval, htaint⟩

section transfer
variable (he : exec instr s = settle s (s.transfer os T link))
include he

theorem transfer_next (hc : codeAddress s.cur T = true) (ha : T.toNat % 64 = 0) : exec instr s = .next (s.goneTo os T link) := by
  rw [he, State.transfer_ok hc ha, settle_ok]

/-- A transfer with its link (10 R288, R289). -/
theorem transfer_completes (hfar : T.toNat < 2 ^ 52) (htsc : isTsc s.cur = true → T.toNat < 2 ^ 17) (ha : T.toNat % 64 = 0) :
    Completes instr s (fun t => RegFrame s t os (onlyReg link.toNat) noReg noReg s.me.run s.me.srseed ∧
      t.me.pc = T ∧ t.me.pfx = false ∧
      (link ≠ 0 → t.me.sval link.toNat = nextBlock s.me.pc ∧ t.me.staint link.toNat = 0)) :=
  ⟨_, transfer_next he ((codeAddress_iff _ _).2 ⟨hfar, htsc⟩) ha, State.goneTo_frame (.inr (decide_eq_true rfl)), State.goneTo_pc.1,
    State.goneTo_pc.2, State.goneTo_link⟩

end transfer

/-! ### A transfer that fails a check (10 R290; 18 R425) -/

theorem State.wake_cur (s : State) (u : Nat) : (s.wake u).cur = s.cur := by
  unfold State.wake
  split <;> rfl

theorem State.me_trapEntry (htvec : s.me.tvec ≠ 0) (q : TrapReq) : (s.trapEntry s.cur q).me =
    { s.me.entered q with run := if s.me.releasing = [] then .ready else .waiting .push } := by
  rw [State.trapEntry_handled htvec, State.me, State.wake_cur, State.updThread_cur, State.wake_thread, State.thread_updThread_same]
  rfl

theorem State.trapEntry_mem (htvec : s.me.tvec ≠ 0) (q : TrapReq) : (s.trapEntry s.cur q).mem = s.mem := by
  rw [State.trapEntry_handled htvec, State.wake_mem]
  rfl

/-- `t` is at its handler for a fault of class `c` at address `T`: the registers and memory are those of `s` (18 R425). -/
def State.Faulted (s : State) (T : Word) (c : Nat) (t : State) : Prop :=
  t.me.pc = s.me.tvec ∧ t.me.epc = s.me.pc &&& ~~~1#64 ∧ t.me.ecause = BitVec.ofNat 13 c ∧
    t.me.fadr = T ∧ t.me.s = s.me.s ∧ t.mem = s.mem

/-- The TSC stops at its pc, and its cluster takes level 3 with some notice (01 R37). -/
def StopsTsc (instr : Instr) (s : State) : Prop :=
  let cl := clusterOf (coreOf s.cur)
  ∃ reason fn n, exec instr s = .next ((s.stopTsc cl s.me.pc).quenchCluster cl reason fn n)

/-- The trap of an instruction in a context with a handler, with an address and no debugger's concern. -/
theorem trap_completes {c : Nat} (hcore : isTsc s.cur = false) (htvec : s.me.tvec ≠ 0) (hc : c < 8)
    (he : exec instr s = settle s (.error (.trap { cause := c, fadr := some T }))) : Completes instr s (s.Faulted T c) := by
  have hdebug : (s.debugger && decide (c = causeDebug)) = false := by
    rw [decide_eq_false (by unfold causeDebug; omega), Bool.and_false]
  have hcause : ({ cause := c, fadr := some T } : TrapReq).ecause = BitVec.ofNat 13 c := by
    rw [TrapReq.ecause, Nat.zero_mod, Nat.zero_mul, Nat.zero_add, Nat.mod_eq_of_lt (show c < 32 by omega)]
  refine ⟨s.trapEntry s.cur { cause := c, fadr := some T }, ?_, ?_, ?_, ?_, ?_, ?_, State.trapEntry_mem htvec _⟩
  · simp only [he, settle, hcore, hdebug, Bool.false_eq_true, if_false]
  all_goals rw [State.me_trapEntry htvec]
  · rfl
  · rfl
  · exact hcause
  · rfl
  · rfl

/-- A TSC that would trap stops, and its cluster takes level 3 (01 R37). -/
theorem trap_stops {q : TrapReq} (htsc : isTsc s.cur = true) (he : exec instr s = settle s (.error (.trap q))) : StopsTsc instr s := by
  refine ⟨0, 0, 0, ?_⟩
  simp only [he, settle, htsc, if_true]

section transfer
variable (he : exec instr s = settle s (s.transfer os T link))
include he

/-- The first check (10 R290). -/
theorem transfer_local (hcore : isTsc s.cur = false) (htvec : s.me.tvec ≠ 0) (hfar : 2 ^ 52 ≤ T.toNat) :
    Completes instr s (s.Faulted T 3) := by
  have hc : codeAddress s.cur T = false := by
    rw [Bool.eq_false_iff, Ne, codeAddress_iff]
    exact fun h => absurd h.1 (Nat.not_lt.2 hfar)
  rw [State.transfer_outside hc] at he
  exact trap_completes hcore htvec (by decide) he

/-- The second check (10 R290). -/
theorem transfer_align (hcore : isTsc s.cur = false) (htvec : s.me.tvec ≠ 0) (hnear : T.toNat < 2 ^ 52) (ha : T.toNat % 64 ≠ 0) :
    Completes instr s (s.Faulted T 2) := by
  have hc : codeAddress s.cur T = true := (codeAddress_iff _ _).2 ⟨hnear, fun h => absurd h (by simp [hcore])⟩
  rw [State.transfer_unaligned hc ha] at he
  exact trap_completes hcore htvec (by decide) he

/-- Either check, on a TSC (01 R36, R37). -/
theorem transfer_stops (htsc : isTsc s.cur = true) (hbad : 2 ^ 17 ≤ T.toNat ∨ T.toNat % 64 ≠ 0) : StopsTsc instr s := by
  cases hc : codeAddress s.cur T with
  | false =>
    rw [State.transfer_outside hc] at he
    exact trap_stops htsc he
  | true =>
    have hin : T.toNat < 2 ^ 17 := ((codeAddress_iff _ _).1 hc).2 htsc
    rw [State.transfer_unaligned hc (hbad.resolve_left (Nat.not_le.2 hin))] at he
    exact trap_stops htsc he

end transfer

/-! ### Branches (10 R287) -/

section branch
variable {i : BitVec 12} {b a : BitVec 5} {c : Bool} {P : Prop} [Decidable P] (h : s.canIssue .any .plain {} [.s a false, .s b false])
  (he : exec instr s = branch s i b a c) (hc : c = decide P)
include h he hc

/-- A branch whose condition holds is a transfer to its target, without a link. -/
theorem branch_transfers (hp : P) : exec instr s = settle s (s.transfer [.s a false, .s b false] (target s.me.pc i) 0) := by
  rw [he, hc, decide_eq_true hp, branch_taken h]

/-- A branch goes to its target, or moves on. -/
theorem branch_completes :
    (P → (target s.me.pc i).toNat < 2 ^ 52 → (isTsc s.cur = true → (target s.me.pc i).toNat < 2 ^ 17) → Completes instr s (fun t =>
      RegFrame s t [.s a false, .s b false] noReg noReg noReg s.me.run s.me.srseed ∧ t.me.pc = target s.me.pc i ∧ t.me.pfx = false)) ∧
    (¬ P → Completes instr s (fun t =>
      RegFrame s t [.s a false, .s b false] noReg noReg noReg s.me.run s.me.srseed ∧ Issued s t 4)) := by
  refine ⟨fun hp hfar htsc => ?_, fun hp => ?_⟩
  · have hcode := (codeAddress_iff s.cur (target s.me.pc i)).2 ⟨hfar, htsc⟩
    exact ⟨_, transfer_next (branch_transfers h he hc hp) hcode (target_aligned _ _), State.goneTo_frame (.inl rfl), State.goneTo_pc⟩
  · rw [hc, decide_eq_false hp, branch_not_taken h] at he
    exact ⟨_, he, State.retire_frame (s.consume_me _) (s.consume_other _) (fun _ => rfl) (s.consume_outside _)⟩

/-- A branch out of space 0x0. -/
theorem branch_local (hcore : isTsc s.cur = false) (htvec : s.me.tvec ≠ 0) (hfar : 2 ^ 52 ≤ (target s.me.pc i).toNat) (hp : P) :
    Completes instr s (s.Faulted (target s.me.pc i) 3) :=
  transfer_local (branch_transfers h he hc hp) hcore htvec hfar

/-- A branch out of a TSC's store. -/
theorem branch_stops (htsc : isTsc s.cur = true) (hout : 2 ^ 17 ≤ (target s.me.pc i).toNat) (hp : P) : StopsTsc instr s :=
  transfer_stops (branch_transfers h he hc hp) htsc (.inl hout)

end branch

/-- Settles O5: transfers that complete, those of a core's context that fail a check, those of a TSC. -/
theorem controlTransferResult : Obligations.ControlTransferResult := by
  refine ⟨fun s i b a h => ?_, fun s => ⟨fun h i l => ?_, fun i n a d h => ?_⟩,
    fun s hcore htvec => ⟨fun i b a h hfar => ?_, fun i h hfar => ?_, fun i n a d h => ?_⟩,
    fun s htsc => ⟨fun i b a h hout => ?_, fun i h hout => ?_, fun i n a d h hbad => ?_⟩⟩
  · exact ⟨branch_completes h rfl (condEq_eq _ _), branch_completes h rfl (condNe_eq _ _), branch_completes h rfl (condLt_eq _ _),
      branch_completes h rfl (condGe_eq _ _), branch_completes h rfl (condLtu_eq _ _), branch_completes h rfl (condGeu_eq _ _)⟩
  · exact ⟨transfer_completes (jump_eq h), transfer_completes (jump_eq h)⟩
  · exact ⟨transfer_completes (jump_eq h), transfer_completes (jump_eq h)⟩
  · exact ⟨branch_local h rfl (condEq_eq _ _) hcore htvec hfar, branch_local h rfl (condNe_eq _ _) hcore htvec hfar,
      branch_local h rfl (condLt_eq _ _) hcore htvec hfar, branch_local h rfl (condGe_eq _ _) hcore htvec hfar,
      branch_local h rfl (condLtu_eq _ _) hcore htvec hfar, branch_local h rfl (condGeu_eq _ _) hcore htvec hfar⟩
  · exact ⟨transfer_local (jump_eq h) hcore htvec hfar, fun l => transfer_local (jump_eq h) hcore htvec hfar⟩
  · exact ⟨fun hfar => ⟨transfer_local (jump_eq h) hcore htvec hfar, transfer_local (jump_eq h) hcore htvec hfar⟩,
      fun hnear ha => ⟨transfer_align (jump_eq h) hcore htvec hnear ha, transfer_align (jump_eq h) hcore htvec hnear ha⟩⟩
  · exact ⟨branch_stops h rfl (condEq_eq _ _) htsc hout, branch_stops h rfl (condNe_eq _ _) htsc hout,
      branch_stops h rfl (condLt_eq _ _) htsc hout, branch_stops h rfl (condGe_eq _ _) htsc hout,
      branch_stops h rfl (condLtu_eq _ _) htsc hout, branch_stops h rfl (condGeu_eq _ _) htsc hout⟩
  · exact ⟨transfer_stops (jump_eq h) htsc (.inl hout), fun l => transfer_stops (jump_eq h) htsc (.inl hout)⟩
  · exact ⟨transfer_stops (jump_eq h) htsc hbad, transfer_stops (jump_eq h) htsc hbad⟩

end Sys2Proof.Machine
end

section
/-!
## Integer lanes, floating-point lanes and lane conversions (11 R293 to R299, R302, R303)

A rule's reading of a lane is an equation of lanes; the operation, its mask and its frame are those of `laneOp_gives` and, where lanes
round, `vfpBody_rounds`.
-/

namespace Sys2Proof.Machine
variable {s : State} {i : Instr} {srcs : List Opnd} {k : BitVec 3} {d : BitVec 5} {readsD : Bool} {len w : Nat}

/-! ### Integer lanes (11 R296, R297) -/

/-- A lane operation gives its lanes in the form a rule spells them. -/
theorem laneOp_gives_lanes {f r : Nat → BitVec 32} (h : s.canIssue .core .plain {} (laneSources srcs k d readsD))
    (he : exec i s = laneOp s srcs k d readsD len f) (hf : ∀ j, f j = r j) :
    GivesV i s (laneSources srcs k d readsD) d len (underMask s k d r) := by
  obtain rfl := funext hf
  exact laneOp_gives he h

/-- A 5-bit count is below the lane's width. -/
theorem count_mod_lane (i : BitVec 5) : (i.setWidth 32).toNat % 32 = i.toNat := by
  rw [BitVec.toNat_setWidth]
  omega

theorem opSll_count (x : BitVec 32) (i : BitVec 5) : opSll x (i.setWidth 32) = x <<< i.toNat :=
  congrArg (x <<< ·) (count_mod_lane i)

theorem opSrl_count (x : BitVec 32) (i : BitVec 5) : opSrl x (i.setWidth 32) = x >>> i.toNat :=
  congrArg (x >>> ·) (count_mod_lane i)

theorem opSra_count (x : BitVec 32) (i : BitVec 5) : opSra x (i.setWidth 32) = x.sshiftRight i.toNat :=
  congrArg x.sshiftRight (count_mod_lane i)

/-- Settles O6: the operations of two registers, then those of an immediate. -/
theorem laneIntegerResult : Obligations.LaneIntegerResult := by
  refine ⟨fun s n sc k b a d => ⟨laneOp_gives rfl, fun h => ?_, laneOp_gives rfl⟩,
    fun s n k a d => ⟨fun _ => laneOp_gives rfl, fun h => ⟨fun i => ?_, fun i => ?_⟩⟩⟩
  · refine ⟨?_, ?_, ?_, ?_, ?_, ?_, ?_, ?_, ?_, ?_, ?_, ?_, ?_, ?_⟩
    iterate 9 exact laneOp_gives rfl h
    · exact laneOp_gives_lanes h rfl fun _ => opMin_eq _ _
    · exact laneOp_gives_lanes h rfl fun _ => opMax_eq _ _
    · exact laneOp_gives_lanes h rfl fun _ => opMinu_eq _ _
    · exact laneOp_gives_lanes h rfl fun _ => opMaxu_eq _ _
    · exact laneOp_gives_lanes h rfl fun _ => opMulhu_eq _ _
  · refine ⟨?_, ?_, ?_, ?_, ?_, ?_, ?_, ?_, ?_, ?_⟩
    iterate 6 exact laneOp_gives rfl h
    · exact laneOp_gives_lanes h rfl fun _ => opMin_eq _ _
    · exact laneOp_gives_lanes h rfl fun _ => opMax_eq _ _
    · exact laneOp_gives_lanes h rfl fun _ => opMinu_eq _ _
    · exact laneOp_gives_lanes h rfl fun _ => opMaxu_eq _ _
  · exact ⟨laneOp_gives_lanes h rfl fun _ => opSll_count _ i, laneOp_gives_lanes h rfl fun _ => opSrl_count _ i,
      laneOp_gives_lanes h rfl fun _ => opSra_count _ i⟩

/-! ### Lanes that round (11 R298, R299, R302) -/

/-- What a lane operation that rounds leaves, before it leaves rotation. -/
theorem vfpBody_wrote {u : Use} {m : Mode} (g : Mode → Nat → BitVec 32 → Coded) (h : s.canIssue .core u m (laneSources srcs k d readsD)) :
    ∃ t, vfpBody s u srcs k d readsD len g = .ok t ∧ WroteV s t (laneSources srcs k d readsD) d
      (underMask s k d (fun j => BitVec.ofNat 32 (g m j (seedBefore (s.maskOf k) (g m) s.me.srseed j)).1)) len s.me.run
      (seedBefore (s.maskOf k) (g m) s.me.srseed 16) := by
  have hlanes := roundedLanes_eq (s.maskOf k) (s.vx d) (g m) s.me.srseed 16 0
  rw [← List.range_eq_range', seedBefore, Nat.zero_add] at hlanes
  have hwrote := s.putV_reseed_wrote (laneSources srcs k d readsD) d
    (ofLanes (roundedLanes (s.maskOf k) (s.vx d) (g m) (List.range 16) s.me.srseed).1) len
    (roundedLanes (s.maskOf k) (s.vx d) (g m) (List.range 16) s.me.srseed).2
  refine ⟨_, vfpBody_ok s u srcs k d readsD len g m h, ?_⟩
  rw [hlanes] at hwrote ⊢
  exact hwrote.congr fun j hj => lane_map _ j hj

/-- As `vfpBody_rounds`, out of rotation for `n` cycles (11 R295). -/
theorem vfpBody_rounds_late {u : Use} {m : Mode} {g : Mode → Nat → BitVec 32 → Coded} {r : Nat → BitVec 32 → Coded} {n : Nat}
    (he : exec i s = settle s (vfpBody s u srcs k d readsD len g >>= fun t => .ok (t.longLatency n)))
    (h : s.canIssue .core u m (laneSources srcs k d readsD)) (hr : g m = r) :
    roundsLanes i s (laneSources srcs k d readsD) k d len (.waiting (.latency (s.cycle + n))) r := by
  subst hr
  obtain ⟨t, ht, hwrote⟩ := vfpBody_wrote g h
  rw [ht] at he
  exact ⟨seedBefore (s.maskOf k) (g m) s.me.srseed, rfl, fun _ _ => rfl, _, he, hwrote.later n⟩

/-- The smaller or the larger of two lanes, as the statement of 11 R299 spells it: the first of them where neither is less and its
sign is that of `less`. -/
def pickCode (less : Bool) (x y : BitVec 32) : Nat :=
  if (f32 x.toNat).isNan || (f32 y.toNat).isNan then 0x7FC00000
  else if (f32 x.toNat).lt (f32 y.toNat) then (if less then x.toNat else y.toNat)
  else if (f32 y.toNat).lt (f32 x.toNat) then (if less then y.toNat else x.toNat)
  else if (f32 x.toNat).isNeg = less then x.toNat else y.toNat

theorem fminCode_eq_pick (x y : BitVec 32) : fminCode x y = pickCode true x y := rfl

theorem fmaxCode_eq_pick (x y : BitVec 32) : fmaxCode x y = pickCode false x y := by
  simp only [fmaxCode, pickCode, Bool.false_eq_true, if_false]
  cases (f32 x.toNat).isNeg <;> simp

/-- Settles O8: the lanes that round, those of one source, and the conversions. -/
theorem laneFloatResult : Obligations.LaneFloatResult := by
  refine ⟨fun s f n sc k b a d => ⟨fun h => ?_, fun h => vfpBody_rounds rfl h rfl, fun h => ?_⟩,
    fun s n k a d => ⟨fun f h => vfpBody_rounds rfl h rfl, fun h => ?_⟩⟩
  · refine ⟨vfpBody_rounds rfl h rfl, vfpBody_rounds rfl h rfl, vfpBody_rounds rfl h rfl, vfpBody_rounds_late rfl h rfl, ?_, ?_⟩
    · exact vfpBody_rounds rfl h (funext fun j => funext fun q => congrArg (·, q) (fminCode_eq_pick _ _))
    · exact vfpBody_rounds rfl h (funext fun j => funext fun q => congrArg (·, q) (fmaxCode_eq_pick _ _))
  · exact ⟨vfpBody_rounds_late rfl h rfl, vfpBody_rounds rfl h rfl, vfpBody_rounds rfl h rfl⟩
  · exact ⟨laneOp_gives rfl h, laneOp_gives rfl h, laneOp_gives rfl h, laneOp_gives rfl h⟩

end Sys2Proof.Machine
end

section
/-! ## Compares, masks, permutes, reductions and the histogram (11 R300, R301, R304 to R306) -/

namespace Sys2Proof.Machine
variable {s : State} {i : Instr} {os srcs : List Opnd} {k : BitVec 3} {d : BitVec 5} {w : Nat}

/-! ### Mask results (11 R300, R301) -/

/-- An instruction with a mask destination writes its bits under the mask, in the form a rule spells them. -/
theorem maskOp_gives {d : BitVec 3} {f r : Nat → Bool} (h : s.canIssue .core .plain {} (maskOps srcs k d))
    (he : exec i s = maskOp s srcs k d f) (hf : ∀ j, f j = r j) : GivesK i s (maskOps srcs k d) k d r := by
  obtain rfl := funext hf
  exact ⟨_, he.trans (maskOp_next s srcs k d f h),
    (s.putK_wrote _ d _).congr fun j hj => maskBits_bit (s.maskOf k) (s.maskOf d) f j hj⟩

/-- A scalar result of the lane families. -/
theorem laneScalarOp_gives {v r : Word} (h : s.canIssue .core .plain {} os) (he : exec i s = laneScalarOp s os d v) (hv : v = r) :
    GivesS i s os d r := by
  subst hv
  exact ⟨_, he.trans (laneScalarOp_next s os d v h), s.putS_wrote os d v⟩

theorem condLe_eq (x y : BitVec w) : condLe x y = decide (x.toInt ≤ y.toInt) := rfl
theorem condLeu_eq (x y : BitVec w) : condLeu x y = decide (x.toNat ≤ y.toNat) := rfl

/-- Settles O9: the compares, the operations on masks, and the scalar readings of a mask. -/
theorem compareAndMaskResult : Obligations.CompareAndMaskResult := by
  refine ⟨fun s n sc k b a d h => ?_, fun s k b a r q d => ⟨fun h => ?_, fun h => maskOp_gives h rfl fun _ => rfl,
    fun h => maskOp_gives h rfl fun _ => rfl, fun h => ?_⟩⟩
  · refine ⟨?_, ?_, ?_, ?_, ?_, ?_, maskOp_gives h rfl fun _ => rfl, maskOp_gives h rfl fun _ => rfl, maskOp_gives h rfl fun _ => rfl⟩
    · exact maskOp_gives h rfl fun _ => condEq_eq _ _
    · exact maskOp_gives h rfl fun _ => condNe_eq _ _
    · exact maskOp_gives h rfl fun _ => condLt_eq _ _
    · exact maskOp_gives h rfl fun _ => condLe_eq _ _
    · exact maskOp_gives h rfl fun _ => condLtu_eq _ _
    · exact maskOp_gives h rfl fun _ => condLeu_eq _ _
  · refine ⟨?_, ?_, ?_, ?_⟩ <;> exact maskOp_gives h rfl fun _ => rfl
  · have hffs := opCtz_trailingZeros (s.maskAnd k a)
    exact ⟨laneScalarOp_gives h rfl rfl, laneScalarOp_gives h rfl rfl, _, hffs.le, hffs.zeros, hffs.one, laneScalarOp_gives h rfl rfl⟩

/-! ### All 16 lanes (11 R304, R306) -/

/-- An instruction that writes all lanes whatever its mask, in the form a rule spells them. -/
theorem allLanesOp_gives {f r : Nat → BitVec 32} (h : s.canIssue .core .plain {} os) (he : exec i s = allLanesOp s os d f)
    (hf : ∀ j, j < 16 → f j = r j) : GivesV i s os d 4 r :=
  ⟨_, he.trans (allLanesOp_next s os d f h), (s.putV_wrote os d _ 4).congr fun j hj => (lane_map f j hj).trans (hf j hj)⟩

/-- The numbers below `j` are those of a longer range that are below `j`. -/
theorem range_filter_lt {j n : Nat} (hj : j ≤ n) : (List.range n).filter (fun i => decide (i < j)) = List.range j := by
  obtain ⟨m, rfl⟩ := Nat.exists_eq_add_of_le hj
  rw [List.range_add, List.filter_append, List.filter_eq_self.2 (by simp), List.filter_eq_nil_iff.2 (by simp), List.append_nil]

/-- How many selected lanes lie below lane `j`. -/
theorem selected_below (mask : BitVec 16) {j : Nat} (hj : j < 16) :
    ((selected mask).filter (fun i => decide (i < j))).length = (List.range j).countP (fun i => mask.getLsbD i) := by
  rw [selected, List.filter_comm, range_filter_lt hj.le, List.countP_eq_length_filter]
  rfl

theorem foldl_opMin (xs : List (BitVec w)) (e : BitVec w) :
    xs.foldl opMin e = xs.foldl (fun p q => if p.toInt < q.toInt then p else q) e := by
  simp only [← opMin_eq]

theorem foldl_opMax (xs : List (BitVec w)) (e : BitVec w) :
    xs.foldl opMax e = xs.foldl (fun p q => if q.toInt < p.toInt then p else q) e := by
  simp only [← opMax_eq]

/-- Settles O10: permutes, packing and spreading, reductions, and the histogram. -/
theorem permuteResult : Obligations.PermuteResult := by
  refine ⟨fun s n sc k b a d => ⟨fun h => ?_, fun h => ⟨?_, ?_⟩, fun h => laneScalarOp_gives h rfl rfl⟩,
    fun s n k a d => ⟨fun h => ?_, fun h => allLanesOp_gives h rfl fun _ _ => rfl⟩⟩
  · refine ⟨?_, ?_, ?_, ?_, ?_⟩ <;> exact laneOp_gives rfl h
  · refine allLanesOp_gives h rfl fun j _ => ?_
    show (match (selected (s.maskOf k))[j]? with | some i => lane (s.vx a) i | none => 0) = _
    rw [show (List.range 16).filter (fun j => (s.me.kval k.toNat).getLsbD j) = selected (s.maskOf k) from rfl]
    cases (selected (s.maskOf k))[j]? <;> rfl
  · refine allLanesOp_gives h rfl fun j hj => ?_
    rw [selected_below _ hj]
    rfl
  · refine ⟨?_, ?_, ?_, ?_, ?_, ?_, ?_, ?_⟩
    · exact laneScalarOp_gives h rfl rfl
    · exact laneScalarOp_gives h rfl (congrArg sx32 (foldl_opMin _ _))
    · exact laneScalarOp_gives h rfl (congrArg sx32 (foldl_opMax _ _))
    all_goals exact laneScalarOp_gives h rfl rfl

end Sys2Proof.Machine
end

section
/-!
## Runs of vector registers, and the narrow groups (11 R311 to R314)

A run of consecutive vector registers is written one register after another. What it leaves is said once: its frame, each register
written, and each byte of it.
-/

namespace Sys2Proof.Machine
variable {s u t : State} {i : Instr} {os : List Opnd} {dS dV dK : Nat → Bool} {run : RunState} {seed : BitVec 32} {g : BitVec 8}

/-! ### Frames of the pieces of an issue -/

/-- A frame in which no destination is named holds with any. -/
theorem RegFrame.weaken (h : RegFrame s t os noReg noReg noReg run seed) : RegFrame s t os dS dV dK run seed :=
  { h with
    scalars := fun r _ hl => h.scalars r rfl hl
    vectors := fun r _ hl => h.vectors r rfl hl
    masks := fun r _ => h.masks r rfl }

/-- A state differs from itself in nothing. -/
theorem RegFrame.refl (s : State) : RegFrame s s [] dS dV dK s.me.run s.me.srseed :=
  ⟨fun _ _ _ => ⟨rfl, rfl⟩, fun _ _ _ => ⟨rfl, rfl⟩, fun _ _ => ⟨rfl, rfl⟩, rfl, rfl, rfl, fun _ _ => .refl _, fun _ => rfl, rfl⟩

/-- The sources are read, and the instruction issues. -/
def State.readOut (s : State) (os : List Opnd) : State := (s.consume s.cur os).retire 4

theorem State.readOut_frame_issued (s : State) (os : List Opnd) :
    RegFrame s (s.readOut os) os noReg noReg noReg s.me.run s.me.srseed ∧ Issued s (s.readOut os) 4 :=
  State.retire_frame (s.consume_me os) (s.consume_other os) (fun _ => rfl) (s.consume_outside os)

theorem State.readOut_frame (s : State) (os : List Opnd) : RegFrame s (s.readOut os) os noReg noReg noReg s.me.run s.me.srseed :=
  (s.readOut_frame_issued os).1

theorem State.readOut_issued (s : State) (os : List Opnd) : Issued s (s.readOut os) 4 := (s.readOut_frame_issued os).2

theorem State.readOut_cur (s : State) (os : List Opnd) : (s.readOut os).cur = s.cur := State.cur_of_outside (s.readOut_frame os).rest

/-- Noting more registers of the instruction in progress changes none of them. -/
theorem State.uses_frame (s : State) (rs : List (Bool × Nat)) :
    RegFrame s (s.updMe (Thread.uses rs)) [] dS dV dK s.me.run s.me.srseed := by
  have hme : (s.updMe (Thread.uses rs)).me = s.me.uses rs := s.me_updMe _
  refine ⟨?_, ?_, ?_, ?_, ?_, ?_, fun v hv => ?_, fun _ => rfl, rfl⟩
  case refine_7 =>
    rw [State.updMe, State.thread_updThread_ne _ _ _ _ hv]
    exact .refl _
  all_goals rw [hme]
  · exact fun _ _ _ => ⟨rfl, rfl⟩
  · exact fun _ _ _ => ⟨rfl, rfl⟩
  · exact fun _ _ => ⟨rfl, rfl⟩
  all_goals rfl

/-- A write to vector register `r`, which `dV` holds. -/
theorem State.setV_frame {r : Nat} {v : BitVec 512} (hr : dV r = true) (s : State) :
    RegFrame s (s.setV s.cur r v g) [] dS dV dK s.me.run s.me.srseed := by
  have hout := s.setV_outside s.cur r v g
  obtain ⟨hs, hst, hkept⟩ := s.setV_keeps s.cur r v g
  refine ⟨?_, ?_, ?_, ?_, ?_, ?_, fun w hw => s.setV_other _ _ _ _ w hw, s.setV_core _ _ _ _, hout⟩
  all_goals rw [State.me, State.cur_of_outside hout]
  · exact fun q _ _ => ⟨congrFun hs q, congrFun hst q⟩
  · refine fun q hq _ => s.vval_setV_ne _ _ _ _ _ fun hqr => ?_
    rw [hqr, hr] at hq
    cases hq
  · exact fun q _ => kval_congr hkept.k q
  · exact hkept.plain
  · exact hkept.run
  · exact hkept.srseed

/-! ### Runs of vector registers -/

/-- The registers of a run of `n` from `d`. -/
def runRegs (d n : Nat) : Nat → Bool := fun r => decide (d ≤ r ∧ r < d + n)

/-- A register that holds the first 64 of some bytes. -/
def regOfBytes (bs : List Nat) : BitVec 512 := BitVec.ofNat 512 (bytesToNat (bs.take 64))

/-- The first register of a run is written, then the rest. -/
theorem State.putVRun_succ (s : State) (d n : Nat) (bs : List Nat) : s.putVRun s.cur d g (n + 1) bs =
    let u := s.setV s.cur d (regOfBytes bs) g
    u.putVRun u.cur (d + 1) g n (bs.drop 64) := by
  dsimp only
  rw [State.cur_of_outside (s.setV_outside _ _ _ _)]
  rfl

theorem State.putVRun_frame (n : Nat) : ∀ (s : State) (d : Nat) (bs : List Nat), (∀ r, runRegs d n r = true → dV r = true) →
    RegFrame s (s.putVRun s.cur d g n bs) [] dS dV dK s.me.run s.me.srseed := by
  induction n with
  | zero => exact fun s _ _ _ => .refl s
  | succ n ih =>
    intro s d bs hd
    rw [State.putVRun_succ]
    refine (State.setV_frame (hd d ?_) s).trans (ih _ (d + 1) (bs.drop 64) fun r hr => hd r ?_)
    · simp [runRegs]
    · simp only [runRegs, decide_eq_true_eq] at hr ⊢
      omega

/-- A write to a vector register leaves the pc and the pending prefix. -/
theorem State.setV_pc_pfx (s : State) (r : Nat) (v : BitVec 512) :
    (s.setV s.cur r v g).me.pc = s.me.pc ∧ (s.setV s.cur r v g).me.pfx = s.me.pfx := by
  rw [State.me, State.cur_of_outside (s.setV_outside _ _ _ _)]
  obtain ⟨x, hx, id, limbo, hwritten⟩ := s.setV_thread s.cur r v g
  have hpfx : x.bare.pfx = (s.me.uses [(true, r)]).bare.pfx := congrArg Thread.pfx hx.rest
  rw [hwritten]
  exact ⟨(KeptRest.of_bare hx.rest).pc, hpfx⟩

theorem State.setV_reg (s : State) (r : Nat) (v : BitVec 512) :
    (s.setV s.cur r v g).me.vval r = v ∧ (s.setV s.cur r v g).me.vtaint r = g := by
  rw [State.me, State.cur_of_outside (s.setV_outside _ _ _ _)]
  exact s.vval_setV s.cur r v g

theorem State.putVRun_pc_pfx (n : Nat) : ∀ (s : State) (d : Nat) (bs : List Nat),
    (s.putVRun s.cur d g n bs).me.pc = s.me.pc ∧ (s.putVRun s.cur d g n bs).me.pfx = s.me.pfx := by
  induction n with
  | zero => exact fun _ _ _ => ⟨rfl, rfl⟩
  | succ n ih =>
    intro s d bs
    have hfirst := s.setV_pc_pfx (g := g) d (regOfBytes bs)
    have hrest := ih (s.setV s.cur d (regOfBytes bs) g) (d + 1) (bs.drop 64)
    rw [State.putVRun_succ]
    exact ⟨hrest.1.trans hfirst.1, hrest.2.trans hfirst.2⟩

theorem State.putVRun_below (n : Nat) (s : State) (d q : Nat) (bs : List Nat) (hq : q < d) :
    (s.putVRun s.cur d g n bs).me.vval q = s.me.vval q ∧ (s.putVRun s.cur d g n bs).me.vtaint q = s.me.vtaint q :=
  (State.putVRun_frame (dV := runRegs d n) (dS := noReg) (dK := noReg) n s d bs fun _ h => h).vectors q
    (by simp [runRegs, hq]) rfl

/-- Register `q` of a run holds the bytes from `64 q` on. -/
theorem State.putVRun_reg (n : Nat) : ∀ (s : State) (d : Nat) (bs : List Nat) (q : Nat), q < n →
    (s.putVRun s.cur d g n bs).me.vval (d + q) = regOfBytes (bs.drop (64 * q)) ∧ (s.putVRun s.cur d g n bs).me.vtaint (d + q) = g := by
  induction n with
  | zero => exact fun _ _ _ q hq => absurd hq (Nat.not_lt_zero q)
  | succ n ih =>
    intro s d bs q hq
    rw [State.putVRun_succ]
    cases q with
    | zero =>
      have hkeeps := State.putVRun_below (g := g) n (s.setV s.cur d (regOfBytes bs) g) (d + 1) d (bs.drop 64) (Nat.lt_succ_self d)
      have hwritten := s.setV_reg (g := g) d (regOfBytes bs)
      rw [Nat.mul_zero, List.drop_zero, Nat.add_zero]
      exact ⟨hkeeps.1.trans hwritten.1, hkeeps.2.trans hwritten.2⟩
    | succ q =>
      have hlater := ih (s.setV s.cur d (regOfBytes bs) g) (d + 1) (bs.drop 64) q (Nat.lt_of_succ_lt_succ hq)
      rwa [List.drop_drop, show d + 1 + q = d + (q + 1) by omega, show 64 + 64 * q = 64 * (q + 1) by omega] at hlater

theorem State.writeGroup_eq_putVRun (n : Nat) : ∀ (s : State) (d : Nat) (bs : List Nat),
    s.writeGroup d g n bs = s.putVRun s.cur d g n bs := by
  induction n with
  | zero => exact fun _ _ _ => rfl
  | succ n ih =>
    intro s d bs
    rw [State.writeGroup, ih, State.cur_of_outside (s.setV_outside _ _ _ _)]
    rfl

/-! ### Groups (11 R311) -/

theorem groupFits_ok {r : BitVec 5} {n : Nat} (h : r.toNat + n ≤ 32) : groupFits r n = .ok () := if_pos h

/-- The destinations of a group are noted once its sources are read. -/
def State.groupBegun (s : State) (os : List Opnd) (d n : Nat) : State := (s.consume s.cur os).updMe (Thread.uses (regRun true d n))

theorem State.groupBegun_frame (s : State) (os : List Opnd) (d n : Nat) :
    RegFrame s (s.groupBegun os d n) os dS dV dK s.me.run s.me.srseed :=
  s.consume_frame.trans (State.uses_frame _ _)

theorem State.groupBegun_pc (s : State) (os : List Opnd) (d n : Nat) : (s.groupBegun os d n).me.pc = s.me.pc := by
  rw [State.groupBegun, State.me_updMe]
  exact (KeptRest.of_unread (s.consume_me os).rest).pc

theorem State.putGroup_eq (s : State) (os : List Opnd) (d : BitVec 5) (n : Nat) (bs : List Nat) :
    s.putGroup os d n bs = ((s.groupBegun os d.toNat n).putVRun s.cur d.toNat (taintOf s.me os) n bs).retire 4 :=
  congrArg (State.retire · 4) (State.writeGroup_eq_putVRun n _ _ _)

/-- A group is written whole, with the union of the sources' taint. -/
theorem State.putGroup_wrote (s : State) (os : List Opnd) (d : BitVec 5) (n : Nat) (bs : List Nat) :
    RegFrame s (s.putGroup os d n bs) os dS (runRegs d.toNat n) dK s.me.run s.me.srseed ∧ Issued s (s.putGroup os d n bs) 4 ∧
      ∀ q, q < n → (s.putGroup os d n bs).me.vval (d.toNat + q) = regOfBytes (bs.drop (64 * q)) ∧
        (s.putGroup os d n bs).me.vtaint (d.toNat + q) = taintOf s.me os := by
  have hbegun := s.groupBegun_frame (dS := dS) (dV := runRegs d.toNat n) (dK := dK) os d.toNat n
  have hpc := s.groupBegun_pc os d.toNat n
  rw [State.putGroup_eq, ← State.cur_of_outside hbegun.rest]
  generalize s.groupBegun os d.toNat n = u at hbegun hpc ⊢
  have hrun := State.putVRun_frame (g := taintOf s.me os) (dS := dS) (dK := dK) n u d.toNat bs fun _ h => h
  have hrunPc := (State.putVRun_pc_pfx (g := taintOf s.me os) n u d.toNat bs).1.trans hpc
  have hregs := State.putVRun_reg (g := taintOf s.me os) n u d.toNat bs
  generalize u.putVRun u.cur d.toNat (taintOf s.me os) n bs = v at hrun hrunPc hregs ⊢
  refine ⟨(hbegun.trans hrun).trans (State.retire_moves_pc v 4).1.weaken, ⟨?_, ?_⟩, ?_⟩ <;> rw [State.me_retire]
  · exact congrArg (· + BitVec.ofNat 64 4) hrunPc
  · exact hregs

/-! ### The narrow instructions (11 R312 to R314) -/

/-- What VQNT and VDQNT leave: the bytes `bs` in the group, `z` as stochastic-rounding state, the thread out of rotation. -/
theorem State.putGroup_reseed_later (s : State) (os : List Opnd) (d : BitVec 5) (n : Nat) (bs : List Nat) (z : BitVec 32) (late : Nat) :
    let u := ((s.reseed z).putGroup os d n bs).longLatency late
    Issued s u 4 ∧ RegFrame s u os noReg (runRegs d.toNat n) noReg (.waiting (.latency (s.cycle + late))) z ∧
      ∀ q, q < n → u.me.vval (d.toNat + q) = regOfBytes (bs.drop (64 * q)) ∧
        u.me.vtaint (d.toNat + q) = taintOf s.me os := by
  obtain ⟨hframe, hissued, hregs⟩ := (s.reseed z).putGroup_wrote (dS := noReg) (dK := noReg) os d n bs
  have hme := ((s.reseed z).putGroup os d n bs).longLatency_me late
  rw [taintOf_reseed] at hregs
  refine ⟨⟨?_, ?_⟩, ?_, ?_⟩
  case refine_3 =>
    have hlate := (hframe.later late).reseed
    rwa [State.me_reseed] at hlate
  all_goals rw [hme]
  · exact hissued.pc.trans (by rw [State.me_reseed])
  · exact hissued.pfx
  · exact hregs

theorem execVqnt_next {n : Bool} {a d : BitVec 5} {f : Mode} (he : s.enterInstr .core .vqnt = .ok f)
    (ha : a.toNat + groupRegs (chunkBytes f.fa) ≤ 32) (hd : d.toNat + groupRegs (chunkBytes f.fd) ≤ 32)
    (hs : spilledOf s.me (groupOps a (groupRegs (chunkBytes f.fa)) n) = none) :
    let xs := (List.range 96).map (fun j => elemOf f.fa (s.groupBytes a (chunkBytes f.fa)) j)
    let r := quantBlocks f.fd f.rnd (runsOf (blockElems f.fd) (96 / blockElems f.fd) xs) s.me.srseed
    exec (.vqnt n a d) s = .next (((s.reseed r.2).putGroup (groupOps a (groupRegs (chunkBytes f.fa)) n) d
      (groupRegs (chunkBytes f.fd)) r.1).longLatency 32) := by
  show execVqnt n a d s = _
  simp only [execVqnt, he, groupFits_ok ha, groupFits_ok hd, State.refilled_ok hs, bind, Except.bind, settle]

theorem execVdqnt_next {n : Bool} {a d : BitVec 5} {f : Mode} (he : s.enterInstr .core .vdqnt = .ok f)
    (ha : a.toNat + groupRegs (chunkBytes f.fa) ≤ 32) (hd : d.toNat + groupRegs (chunkBytes f.fd) ≤ 32)
    (hs : spilledOf s.me (groupOps a (groupRegs (chunkBytes f.fa)) n) = none) :
    let xs := (List.range 96).map (fun j => elemOf f.fa (s.groupBytes a (chunkBytes f.fa)) j)
    let r := convertAll (fmtOf f.fd) f.rnd f.sat xs s.me.srseed
    exec (.vdqnt n a d) s = .next (((s.reseed r.2).putGroup (groupOps a (groupRegs (chunkBytes f.fa)) n) d
      (groupRegs (chunkBytes f.fd)) (r.1.flatMap (codeBytes (fmtBytes f.fd)))).longLatency 12) := by
  show execVdqnt n a d s = _
  simp only [execVdqnt, he, groupFits_ok ha, groupFits_ok hd, State.refilled_ok hs, bind, Except.bind, settle]

/-- The sources of VDOT (11 R314). -/
def dotOps (f : Mode) (n : Bool) (b a d : BitVec 5) : List Opnd :=
  groupOps a (groupRegs (dotBytes f.fa)) n ++ groupOps b (groupRegs (dotBytes f.fb)) false ++ [.v d false]

theorem execVdot_next {n : Bool} {b a d : BitVec 5} {f : Mode} (he : s.enterInstr .core .dot = .ok f)
    (ha : a.toNat + groupRegs (dotBytes f.fa) ≤ 32) (hb : b.toNat + groupRegs (dotBytes f.fb) ≤ 32)
    (hs : spilledOf s.me (dotOps f n b a d) = none) :
    let r := chunkDot (lane (s.vx d) 0).toNat
      ((List.range (chunkLen f.fa)).map (fun j => elemOf f.fa (s.groupBytes a (dotBytes f.fa)) j))
      ((List.range (chunkLen f.fa)).map (fun j => elemOf f.fb (s.groupBytes b (dotBytes f.fb)) j))
    exec (.vdot n b a d) s = .next ((s.putV (dotOps f n b a d) d
      (ofLanes ((List.range 16).map (fun j => if j = 0 then BitVec.ofNat 32 r else lane (s.vx d) j)))
      (taintOf s.me (dotOps f n b a d)) 4).longLatency 12) := by
  show execVdot n b a d s = _
  unfold dotOps at hs ⊢
  simp only [execVdot, he, groupFits_ok ha, groupFits_ok hb, State.refilled_ok hs, bind, Except.bind, settle]

/-- Settles O19: the two instructions that write a group, then the dot product. -/
theorem narrowResult : Obligations.NarrowResult := by
  refine fun s n a b d f => ⟨fun ha hd hs => ⟨fun he => ?_, fun he => ?_⟩, fun he ha hb hs => ?_⟩
  · exact ⟨_, execVqnt_next he ha hd hs, s.putGroup_reseed_later _ d _ _ _ 32⟩
  · exact ⟨_, execVdqnt_next he ha hd hs, s.putGroup_reseed_later _ d _ _ _ 12⟩
  · exact ⟨_, execVdot_next he ha hb hs, ((s.putV_wrote _ d _ 4).later 12).congr fun j hj => lane_map _ j hj⟩

end Sys2Proof.Machine
end

section
/-!
## The issue step of a load (05 R138, R140, R144)

A load issues in two ways: every access is known at once, or some ask their homes. `startLoad_eq` says both; here is the second.
-/

namespace Sys2Proof.Machine
variable {s u t : State} {i : Instr} {os ops : List Opnd} {zs : List (Access × Place)} {xs : List Access} {acc : Acc4}
  {vs : Nat → Nat} {fin : Finish} {g : Nat} {k : BitVec 3} {d : BitVec 5}

/-! ### Before the issue step -/

theorem map_eq_ok {ε α β : Type} {f : α → β} {x : Except ε α} {b : β} (h : x.map f = .ok b) : ∃ a, x = .ok a ∧ f a = b := by
  cases x with
  | error e => cases h
  | ok a => exact ⟨a, rfl, Except.ok.inj h⟩

theorem bind_eq_ok {ε α β : Type} {f : α → Except ε β} {x : Except ε α} {b : β} (h : x >>= f = .ok b) : ∃ a, x = .ok a ∧ f a = .ok b := by
  cases x with
  | error e => cases h
  | ok a => exact ⟨a, rfl, h⟩

theorem State.checkAll_fst (xs : List Access) : ∀ {ys}, s.checkAll xs = .ok ys → ys.map Prod.fst = xs := by
  induction xs with
  | nil => rintro _ ⟨⟩; rfl
  | cons x xs ih =>
    intro ys h
    unfold State.checkAll at h
    split at h
    · cases h
    all_goals
      obtain ⟨ys', hys, rfl⟩ := map_eq_ok h
      rw [List.map_cons, ih hys]

theorem State.translateAll_fst (ys : List (Access × Option Place)) :
    ∀ {zs}, s.translateAll acc ys = .ok zs → zs.map Prod.fst = ys.map Prod.fst := by
  induction ys with
  | nil => rintro _ ⟨⟩; rfl
  | cons y ys ih =>
    intro zs h
    obtain ⟨x, p⟩ := y
    cases p with
    | some p =>
      obtain ⟨zs', hzs, rfl⟩ := map_eq_ok h
      rw [List.map_cons, List.map_cons, ih hzs]
    | none =>
      unfold State.translateAll at h
      split at h
      · obtain ⟨zs', hzs, rfl⟩ := map_eq_ok h
        rw [List.map_cons, List.map_cons, ih hzs]
      · cases h

theorem State.refilled_eq_ok (h : s.refilled os = .ok ()) : spilledOf s.me os = none := by
  unfold State.refilled at h
  split at h
  · cases h
  · assumption

/-- Accesses that pass have their sources in the physical file and keep their order (05 R138). -/
theorem State.access_ok {pre : List Opnd} (h : s.access acc os pre xs = .ok zs) :
    spilledOf s.me os = none ∧ zs.map Prod.fst = xs := by
  obtain ⟨ys, hys, hready⟩ := bind_eq_ok h
  obtain ⟨_, hrefilled, huntainted⟩ := bind_eq_ok hready
  obtain ⟨_, -, hzs⟩ := bind_eq_ok huntainted
  exact ⟨State.refilled_eq_ok hrefilled, (State.translateAll_fst ys hzs).trans (State.checkAll_fst xs hys)⟩

/-! ### The ways of a load do not depend on what an issue changes -/

theorem Thread.rsb_of_plain {x y : Thread} (h : y.plain = x.plain) : y.rsb = x.rsb := by
  show y.plain.rsb = x.plain.rsb
  rw [h]

theorem State.fifo_of_outside (h : u.outside = s.outside) : u.fifo = s.fifo := by
  show u.outside.fifo = s.outside.fifo
  rw [h]

theorem State.l1Way_congr {x y : Thread} {t : Nat} (hrsb : y.rsb = x.rsb) (hout : u.outside = s.outside)
    (hcore : ∀ k, (u.core k).plain = (s.core k).plain) (z : Access × Place) : u.l1Way y t z = s.l1Way x t z := by
  have hoverlay : ∀ loc n v, y.overlay loc n v = x.overlay loc n v := fun loc n v => by
    simp only [Thread.overlay, Thread.slotFor, hrsb]
  have houtstanding : ∀ line, u.outstanding t line = s.outstanding t line := fun line => by
    simp only [State.outstanding, State.fifo_of_outside hout, State.rq_of_outside hout]
  simp only [State.l1Way, houtstanding, hoverlay, Core.l1_of_plain (hcore _)]

theorem State.way_congr (hplain : u.me.plain = s.me.plain) (hout : u.outside = s.outside)
    (hcore : ∀ k, (u.core k).plain = (s.core k).plain) (z : Access × Place) (direct : Bool) :
    u.way s.cur z direct = s.way s.cur z direct := by
  have hrsb : (u.thread s.cur).rsb = (s.thread s.cur).rsb := by
    have := Thread.rsb_of_plain hplain
    rwa [State.me, State.cur_of_outside hout] at this
  simp only [State.way, Thread.slotFor, hrsb, State.l1Way_congr hrsb hout hcore]

/-- Reading the sources changes no way of a load. -/
theorem State.way_readOut (s : State) (os : List Opnd) (z : Access × Place) (direct : Bool) :
    (s.readOut os).way s.cur z direct = s.way s.cur z direct :=
  have h := s.readOut_frame os
  State.way_congr h.own h.rest h.cores z direct

theorem Thread.freeTag_of_tags {x y : Thread} (h : y.tags = x.tags) : y.freeTag = x.freeTag := by
  simp only [Thread.freeTag, h]

/-! ### The issue step of a load (05 R140, R144) -/

/-- The value of an access that needs no reply. -/
def Way.value : Way → Option Word
  | .now v | .unsettled v => some (BitVec.ofNat 64 v)
  | .home => none

/-- The accesses of a load with the values known at once. -/
def State.pieces (s : State) (t : Nat) (zs : List (Access × Place)) (direct : Bool) : List Piece :=
  zs.map (fun z => ⟨z.1.index, z.2, z.1.width, !direct, (s.way t z direct).value⟩)

/-- The accesses of a load that ask their homes. -/
def State.asked (s : State) (t : Nat) (zs : List (Access × Place)) (direct : Bool) : List (Access × Place) :=
  zs.filter (fun z => decide (s.way t z direct = .home))

/-- The line of an access that reads an unsettled copy. -/
def Way.unsettledLine (z : Access × Place) : Way → Option (Home × Nat)
  | .unsettled _ => some (z.2.home, lineOf z.2.loc)
  | _ => none

/-- The unsettled lines that a load reads. -/
def State.unsettledLines (s : State) (t : Nat) (zs : List (Access × Place)) (direct : Bool) : List (Home × Nat) :=
  (zs.filterMap (fun z => (s.way t z direct).unsettledLine z)).dedup

/-- The request of an access that asks its home, under tag `g`. -/
def loadReq (t g : Nat) (z : Access × Place) : Req :=
  { src := .thread t, place := z.2, kind := .load z.1.width, tag := some g, part := z.1.index }

/-- A load's tag is taken: `n` replies to come from `homes`, and `waits` unsettled lines. -/
def State.tagged (s : State) (t g n : Nat) (waits homes : List (Home × Nat)) : State :=
  s.updThread t (fun x => x.takeTag g n waits homes)

/-- Requests enter the FIFO, in order. -/
def State.sends (s : State) (rs : List Req) : State := { s with fifo := s.fifo ++ rs }

@[simp] theorem State.sends_cur (s : State) (rs : List Req) : (s.sends rs).cur = s.cur := rfl
@[simp] theorem State.sends_mem (s : State) (rs : List Req) : (s.sends rs).mem = s.mem := rfl
@[simp] theorem State.sends_fifo (s : State) (rs : List Req) : (s.sends rs).fifo = s.fifo ++ rs := rfl
@[simp] theorem State.tagged_cur (s : State) (t g n : Nat) (waits homes : List (Home × Nat)) :
    (s.tagged t g n waits homes).cur = s.cur := rfl
@[simp] theorem State.tagged_mem (s : State) (t g n : Nat) (waits homes : List (Home × Nat)) :
    (s.tagged t g n waits homes).mem = s.mem := rfl
@[simp] theorem State.tagged_fifo (s : State) (t g n : Nat) (waits homes : List (Home × Nat)) :
    (s.tagged t g n waits homes).fifo = s.fifo := rfl

theorem State.thread_sends (s : State) (rs : List Req) (u : Nat) : (s.sends rs).thread u = s.thread u := rfl

/-- A thread has a load in flight. -/
def Thread.loading (g : Nat) (fin : Finish) (ps : List Piece) (x : Thread) : Thread := { x with inflight := some ⟨some g, fin, ps⟩ }

section startLoad
variable {t : Nat} {direct : Bool}

theorem State.startLoad_eq : s.startLoad t zs fin direct =
    if s.asked t zs direct = [] && s.unsettledLines t zs direct = [] then .ok (s.finishAccess t fin (s.pieces t zs direct) none)
    else (s.thread t).needTag >>= fun g =>
      let s1 := s.tagged t g (s.asked t zs direct).length (s.unsettledLines t zs direct)
        ((s.asked t zs direct).map (fun z => (z.2.home, lineOf z.2.loc))).dedup
      if s.asked t zs direct = [] then .ok (s1.finishAccess t fin (s.pieces t zs direct) (some g))
      else .ok (((s1.sends ((s.asked t zs direct).map (loadReq t g))).updThread t
        (Thread.loading g fin (s.pieces t zs direct))).stop t (.waiting .reply)) := by
  have hhomes : (zs.map (fun z => (z, s.way t z direct))).filter (fun w => decide (w.2 = .home)) =
      (s.asked t zs direct).map (fun z => (z, s.way t z direct)) := List.filter_map
  unfold State.startLoad
  simp only [hhomes, List.filterMap_map, List.map_map, List.map_eq_nil_iff, List.length_map]
  rfl

theorem Thread.needTag_free {x : Thread} (h : x.freeTag = some g) : x.needTag = .ok g := by
  simp only [Thread.needTag, h]

/-- A load waits for the replies of the accesses that ask their homes (05 R144). -/
def State.asking (s : State) (t : Nat) (zs : List (Access × Place)) (fin : Finish) (direct : Bool) (g : Nat) : State :=
  let s1 := s.tagged t g (s.asked t zs direct).length (s.unsettledLines t zs direct)
    ((s.asked t zs direct).map (fun z => (z.2.home, lineOf z.2.loc))).dedup
  ((s1.sends ((s.asked t zs direct).map (loadReq t g))).updThread t (Thread.loading g fin (s.pieces t zs direct))).stop t
    (.waiting .reply)

theorem State.startLoad_asks (hhome : ∃ z ∈ zs, s.way t z direct = .home) (hg : (s.thread t).freeTag = some g) :
    s.startLoad t zs fin direct = .ok (s.asking t zs fin direct g) := by
  have hasked : s.asked t zs direct ≠ [] := by
    obtain ⟨z, hz, hway⟩ := hhome
    exact List.ne_nil_of_mem (List.mem_filter.2 ⟨hz, decide_eq_true hway⟩)
  rw [State.startLoad_eq, Thread.needTag_free hg]
  simp only [hasked, decide_false, Bool.false_and, Bool.false_eq_true, if_false]
  rfl

end startLoad

/-- The thread of a load that asks homes. -/
theorem State.thread_asking (s : State) (t : Nat) (direct : Bool) : (s.asking t zs fin direct g).thread t =
    { ((s.thread t).takeTag g (s.asked t zs direct).length (s.unsettledLines t zs direct)
        ((s.asked t zs direct).map (fun z => (z.2.home, lineOf z.2.loc))).dedup).loading g fin (s.pieces t zs direct) with
      run := .waiting .reply } := by
  rw [State.asking, State.thread_stop, State.thread_updThread_same, State.thread_sends, State.tagged, State.thread_updThread_same]

theorem State.fifo_asking (s : State) (t : Nat) (direct : Bool) :
    (s.asking t zs fin direct g).fifo = s.fifo ++ (s.asked t zs direct).map (loadReq t g) := by
  rw [State.asking, State.fifo_of_outside (State.stop_outside ..), State.updThread_fifo, State.sends_fifo, State.tagged_fifo]

theorem State.cur_asking (s : State) (t : Nat) (direct : Bool) : (s.asking t zs fin direct g).cur = s.cur := by
  rw [State.asking, State.cur_of_outside (State.stop_outside ..), State.updThread_cur, State.sends_cur, State.tagged_cur]

theorem State.mem_asking (s : State) (t : Nat) (direct : Bool) : (s.asking t zs fin direct g).mem = s.mem := by
  rw [State.asking, State.mem_of_outside (State.stop_outside ..), State.updThread_mem, State.sends_mem, State.tagged_mem]

/-! ### Some accesses ask their homes -/

theorem State.asked_readOut (s : State) (os : List Opnd) (direct : Bool) :
    (s.readOut os).asked s.cur zs direct = s.asked s.cur zs direct := by
  simp only [State.asked, State.way_readOut]

/-- What `AsksHomes` says of the next state. -/
def State.Asked (s : State) (zs : List (Access × Place)) (g : Nat) (t : State) : Prop :=
  t.mem = s.mem ∧ Issued s t 4 ∧ t.me.run = .waiting .reply ∧ t.fifo = s.fifo ++ (s.asked s.cur zs false).map (loadReq s.cur g) ∧
    (NMap.get {} t.me.tags g).busy = true ∧ (NMap.get {} t.me.tags g).replies = (s.asked s.cur zs false).length

theorem State.issueLoad_eq (direct : Bool) : s.issueLoad os zs fin direct = (s.readOut os).startLoad s.cur zs fin direct := rfl

theorem State.thread_readOut (s : State) (os : List Opnd) : (s.readOut os).thread s.cur = (s.readOut os).me := by
  rw [State.me, State.readOut_cur]

theorem State.freeTag_readOut (s : State) (os : List Opnd) : (s.readOut os).me.freeTag = s.me.freeTag :=
  Thread.freeTag_of_tags (Thread.pending_of_plain (s.readOut_frame os).own).1

theorem State.issueLoad_asks (hhome : ∃ z ∈ zs, s.way s.cur z false = .home) (hg : s.me.freeTag = some g) :
    ∃ t, s.issueLoad os zs fin false = .ok t ∧ s.Asked zs g t := by
  have hframe := s.readOut_frame os
  have hissued := s.readOut_issued os
  have hhome' : ∃ z ∈ zs, (s.readOut os).way s.cur z false = .home := by simpa only [State.way_readOut] using hhome
  have hthread := (s.readOut os).thread_asking (zs := zs) (fin := fin) (g := g) s.cur false
  refine ⟨_, (State.issueLoad_eq false).trans (State.startLoad_asks hhome' ((s.freeTag_readOut os).trans hg)), State.mem_asking _ _ _,
    ⟨?_, ?_⟩, ?_, ?_, ?_, ?_⟩
  case refine_4 => rw [State.fifo_asking, State.asked_readOut, State.fifo_of_outside hframe.rest]
  all_goals rw [State.me, State.cur_asking, State.readOut_cur, hthread, State.thread_readOut]
  · exact hissued.pc
  · exact hissued.pfx
  · exact congrArg Tag.busy (NMap.get_set_same ..)
  · exact (congrArg Tag.replies (NMap.get_set_same ..)).trans (congrArg List.length (s.asked_readOut os false))

end Sys2Proof.Machine
end

section
/-! ## Loads that are known at once, and the vector loads (05 R140; 11 R307 to R310, R315) -/

namespace Sys2Proof.Machine
variable {s u t : State} {i : Instr} {os ops : List Opnd} {zs : List (Access × Place)} {xs : List Access}
  {vs : Nat → Nat} {fin : Finish} {g : Nat} {k : BitVec 3} {d : BitVec 5} {one : Bool}

/-! ### The values -/

/-- The accesses with their values, as the result takes them. -/
def knownPieces (zs : List (Access × Place)) (vs : Nat → Nat) : List Piece :=
  zs.map (fun z => ⟨z.1.index, z.2, z.1.width, true, some (BitVec.ofNat 64 (vs z.1.index))⟩)

/-- The value of an access that was made. -/
theorem pieceVal_knownPieces {n : Nat} (h : ∃ z ∈ zs, z.1.index = n) : pieceVal (knownPieces zs vs) n = BitVec.ofNat 64 (vs n) := by
  unfold pieceVal
  cases hfind : (knownPieces zs vs).find? (fun p => p.index = n) with
  | none =>
    obtain ⟨z, hz, hn⟩ := h
    have := List.find?_eq_none.1 hfind _ (List.mem_map_of_mem hz)
    simp [hn] at this
  | some p =>
    obtain ⟨z, -, rfl⟩ := List.mem_map.1 (List.mem_of_find?_eq_some hfind)
    have hn : z.1.index = n := by simpa using List.find?_some hfind
    simp [hn]

theorem State.pieces_known (hk : s.known zs vs) : s.pieces s.cur zs false = knownPieces zs vs := by
  refine List.map_congr_left fun z hz => ?_
  rcases hk z hz with h | h <;> rw [h] <;> rfl

theorem State.asked_known (hk : s.known zs vs) : s.asked s.cur zs false = [] := by
  refine List.filter_eq_nil_iff.2 fun z hz => ?_
  rcases hk z hz with h | h <;> simp [h]

/-- No unsettled line is read where every line is settled, and the other way round. -/
theorem State.unsettledLines_known (hk : s.known zs vs) : s.unsettledLines s.cur zs false = [] ↔ s.settledWays zs = true := by
  rw [State.unsettledLines, List.dedup_eq_nil, List.filterMap_eq_nil_iff, State.settledWays, List.all_eq_true]
  refine forall₂_congr fun z hz => ?_
  rcases hk z hz with h | h <;> simp [h, Way.unsettledLine]

/-! ### The result is written at once -/

/-- `y` differs from `x` in its tags alone. -/
def TagsOnly (x y : Thread) : Prop := ∃ tags age, y = { x with tags := tags, nextAge := age }

/-- A load that is known at once writes its result, under a tag where some line is not settled. -/
theorem State.startLoad_known (hk : s.known zs vs) (hg : s.settledWays zs = true ∨ s.me.freeTag = some g) :
    ∃ u : State, s.startLoad s.cur zs fin false =
        .ok (u.finishAccess s.cur fin (knownPieces zs vs) (if s.settledWays zs then none else some g)) ∧
      u.outside = s.outside ∧ TagsOnly s.me u.me := by
  rw [State.startLoad_eq, State.pieces_known hk, State.asked_known hk]
  by_cases hset : s.settledWays zs = true
  · refine ⟨s, ?_, rfl, s.me.tags, s.me.nextAge, rfl⟩
    simp only [(State.unsettledLines_known hk).2 hset, hset, decide_true, Bool.and_self, if_true]
  · refine ⟨s.tagged s.cur g 0 (s.unsettledLines s.cur zs false) [], ?_, rfl, _, _, s.me_updMe _⟩
    have hlines : s.unsettledLines s.cur zs false ≠ [] := fun h => hset ((State.unsettledLines_known hk).1 h)
    have htag : (s.thread s.cur).needTag = .ok g := Thread.needTag_free (hg.resolve_left hset)
    rw [htag]
    simp only [hlines, hset, decide_true, decide_false, Bool.and_false, Bool.false_eq_true, if_false, if_true]
    rfl

theorem State.known_readOut (hk : s.known zs vs) (os : List Opnd) : (s.readOut os).known zs vs := by
  intro z hz
  rw [State.readOut_cur, State.way_readOut]
  exact hk z hz

theorem State.settledWays_readOut (s : State) (os : List Opnd) : (s.readOut os).settledWays zs = s.settledWays zs := by
  unfold State.settledWays
  rw [State.readOut_cur]
  simp only [State.way_readOut]

/-- The issue step of such a load: only tags of the thread differ when its result is written. -/
theorem State.issueLoad_known (os : List Opnd) (fin : Finish) (hk : s.known zs vs)
    (hg : s.settledWays zs = true ∨ s.me.freeTag = some g) :
    ∃ u : State, s.issueLoad os zs fin false =
        .ok (u.finishAccess u.cur fin (knownPieces zs vs) (if s.settledWays zs then none else some g)) ∧
      u.outside = s.outside ∧ TagsOnly (s.readOut os).me u.me := by
  have hg' : (s.readOut os).settledWays zs = true ∨ (s.readOut os).me.freeTag = some g := by
    rwa [State.settledWays_readOut, State.freeTag_readOut]
  obtain ⟨u, hu, hout, htags⟩ := State.startLoad_known (fin := fin) (State.known_readOut hk os) hg'
  rw [State.settledWays_readOut, State.readOut_cur] at hu
  have hout' := hout.trans (s.readOut_frame os).rest
  exact ⟨u, by rw [State.issueLoad_eq, hu, State.cur_of_outside hout'], hout', htags⟩

/-! ### Reading the destination of a load (05 R136) -/

/-- A source that is not marked last-use stays mapped as it was. -/
theorem Thread.consume_map (now : Nat) (x : Thread) (o : Opnd) {r : Nat} (h : lastV [o] r = false) :
    (NMap.get {} (x.consume now o).v r).map = (NMap.get {} x.v r).map := by
  cases o with
  | s q l =>
    simp only [Thread.consume]
    split
    · rfl
    · split
      · rfl
      · split <;> rfl
  | v q l =>
    simp only [Thread.consume]
    split
    · next hl =>
      have hne : r ≠ q.toNat := fun e => by simp [lastV, hl, e] at h
      rw [NMap.get_set_ne _ _ _ _ _ hne]
    · split
      · rfl
      · rw [NMap.get_set]
        split
        · next e => rw [e]
        · rfl
  | k q => rfl

theorem Thread.consumeAll_map (now : Nat) (os : List Opnd) (x : Thread) {r : Nat} (h : lastV os r = false) :
    (NMap.get {} (os.foldl (Thread.consume now) x).v r).map = (NMap.get {} x.v r).map := by
  induction os generalizing x with
  | nil => rfl
  | cons o os ih =>
    have hparts : lastV [o] r = false ∧ lastV os r = false := by
      simpa only [lastV, List.any_cons, List.any_nil, Bool.or_false, Bool.or_eq_false_iff] using h
    exact (ih (x.consume now o) hparts.2).trans (x.consume_map now o hparts.1)

theorem spilledOf_none_vector {x : Thread} {r : BitVec 5} {l : Bool} (h : spilledOf x os = none) (hr : Opnd.v r l ∈ os) :
    (NMap.get {} x.v r.toNat).map ≠ .spilled := by
  intro hmap
  have hnone : (if (NMap.get {} x.v r.toNat).map = .spilled then some (true, r.toNat) else none) = none :=
    List.findSome?_eq_none_iff.1 h _ hr
  rw [if_pos hmap] at hnone
  cases hnone

theorem State.readOut_v (s : State) (os : List Opnd) : (s.readOut os).me.v = (os.foldl (Thread.consume s.cycle) s.me).v := by
  rw [State.readOut, State.me_retire, State.me, State.consume, State.updThread_cur, State.thread_updThread_same]
  rfl

/-- A vector destination that is read has its own taint, being in the physical file. -/
theorem TagsOnly.oldTaint (h : TagsOnly (s.readOut os).me u.me) (hs : spilledOf s.me os = none) (hd : Opnd.v d false ∈ os)
    (hlast : lastV os d.toNat = false) : u.me.oldTaint d.toNat = s.me.vtaint d.toNat := by
  obtain ⟨tags, age, hu⟩ := h
  have hmap : (NMap.get {} u.me.v d.toNat).map ≠ .spilled := by
    rw [hu]
    show (NMap.get {} (s.readOut os).me.v d.toNat).map ≠ .spilled
    rw [State.readOut_v, Thread.consumeAll_map _ _ _ hlast]
    exact spilledOf_none_vector hs hd
  rw [Thread.oldTaint, if_neg hmap, hu]
  exact ((s.readOut_frame os).vectors d.toNat rfl hlast).2

/-! ### A load that returns to rotation at once (11 R295) -/

theorem State.requeue_thread (s : State) (t u : Nat) : (s.requeue t).thread u = s.thread u := by
  unfold State.requeue
  split <;> rfl

theorem State.requeue_outside (s : State) (t : Nat) : (s.requeue t).outside = s.outside := by
  unfold State.requeue
  split <;> rfl

theorem State.requeue_core (s : State) (t k : Nat) : ((s.requeue t).core k).plain = (s.core k).plain := by
  unfold State.requeue
  split
  · rw [State.core_updCore]
    split
    · next h => rw [h, Core.requeue_plain]
    · rfl
  · rfl

theorem State.requeue_me (s : State) (t : Nat) : (s.requeue t).me = s.me := by
  rw [State.me, State.cur_of_outside (s.requeue_outside t), State.requeue_thread]
  rfl

theorem State.requeue_frame (s : State) (t : Nat) : RegFrame s (s.requeue t) [] noReg noReg noReg s.me.run s.me.srseed := by
  have hme := s.requeue_me t
  refine ⟨fun _ _ _ => ?_, fun _ _ _ => ?_, fun _ _ => ?_, ?_, ?_, ?_, fun v _ => ?_, s.requeue_core t, s.requeue_outside t⟩
  case refine_7 => exact s.requeue_thread t v ▸ .refl _
  all_goals rw [hme]
  all_goals exact ⟨rfl, rfl⟩

theorem Issued.requeue {len : Nat} (h : Issued s t len) (v : Nat) : Issued s (t.requeue v) len :=
  ⟨(congrArg Thread.pc (t.requeue_me v)).trans h.pc, (congrArg Thread.pfx (t.requeue_me v)).trans h.pfx⟩

theorem State.Asked.requeue (h : s.Asked zs g t) (v : Nat) : s.Asked zs g (t.requeue v) := by
  obtain ⟨hmem, hissued, hrun, hfifo, htag⟩ := h
  refine ⟨(State.mem_of_outside (t.requeue_outside v)).trans hmem, hissued.requeue v, ?_,
    (State.fifo_of_outside (t.requeue_outside v)).trans hfifo, ?_⟩ <;> rw [State.requeue_me]
  · exact hrun
  · exact htag

/-- A load that asks homes, and returns to rotation where it need not wait. -/
theorem asksHomes_of_issueLoad (he : exec i s = settle s ((s.issueLoad os zs fin false).map (fun u => u.requeue s.cur))) :
    AsksHomes i s zs := by
  intro g hhome hg
  obtain ⟨t, ht, hasked⟩ := State.issueLoad_asks (os := os) (fin := fin) hhome hg
  rw [ht] at he
  exact ⟨_, he, hasked.requeue s.cur⟩

/-! ### What a known load keeps -/

/-- A load that is known at once has issued, and kept memory, requests, scalar registers and the vector registers outside `dV`. -/
structure LoadedAtOnce (s t : State) (dV : Nat → Bool) : Prop where
  outside : t.outside = s.outside
  sval : ∀ r, t.me.sval r = s.me.sval r
  vval : ∀ r, dV r = false → t.me.vval r = s.me.vval r
  issued : Issued s t 4
  run : t.me.run = s.me.run

/-- Before its result is written, where no source is marked last-use. -/
theorem TagsOnly.loaded {dV : Nat → Bool} (h : TagsOnly (s.readOut os).me u.me) (hout : u.outside = s.outside)
    (hlast : ∀ r, lastS os r = false ∧ lastV os r = false) : LoadedAtOnce s u dV := by
  have hframe := s.readOut_frame os
  have hissued := s.readOut_issued os
  obtain ⟨tags, age, hu⟩ := h
  refine ⟨hout, fun r => ?_, fun r _ => ?_, ⟨?_, ?_⟩, ?_⟩ <;> rw [hu]
  · exact (hframe.scalars r rfl (hlast r).1).1
  · exact (hframe.vectors r rfl (hlast r).2).1
  · exact hissued.pc
  · exact hissued.pfx
  · exact hframe.run

section LoadedAtOnce
variable {dV : Nat → Bool} (h : LoadedAtOnce s u dV)
include h

/-- A further piece that writes vector registers of `dV` alone. -/
theorem LoadedAtOnce.trans (hf : RegFrame u t [] noReg dV noReg u.me.run u.me.srseed) (hpc : t.me.pc = u.me.pc ∧ t.me.pfx = u.me.pfx) :
    LoadedAtOnce s t dV where
  outside := hf.rest.trans h.outside
  sval r := (hf.scalars r rfl rfl).1.trans (h.sval r)
  vval r hr := (hf.vectors r hr rfl).1.trans (h.vval r hr)
  issued := ⟨hpc.1.trans h.issued.pc, hpc.2.trans h.issued.pfx⟩
  run := hf.run.trans h.run

theorem LoadedAtOnce.setV {r : Nat} (v : BitVec 512) (b : BitVec 8) (hr : dV r = true) : LoadedAtOnce s (u.setV u.cur r v b) dV :=
  h.trans (State.setV_frame hr u) (u.setV_pc_pfx r v)

theorem LoadedAtOnce.uses (rs : List (Bool × Nat)) : LoadedAtOnce s (u.updMe (Thread.uses rs)) dV :=
  h.trans (u.uses_frame rs) (by rw [State.me_updMe]; exact ⟨rfl, rfl⟩)

theorem LoadedAtOnce.putVRun {r n : Nat} (b : BitVec 8) (bs : List Nat) (hr : ∀ q, runRegs r n q = true → dV q = true) :
    LoadedAtOnce s (u.putVRun u.cur r b n bs) dV :=
  h.trans (State.putVRun_frame n u r bs hr) (State.putVRun_pc_pfx n u r bs)

theorem LoadedAtOnce.requeue (v : Nat) : LoadedAtOnce s (u.requeue v) dV :=
  h.trans (u.requeue_frame v).weaken (by rw [State.requeue_me]; exact ⟨rfl, rfl⟩)

theorem LoadedAtOnce.mem : u.mem = s.mem := State.mem_of_outside h.outside
theorem LoadedAtOnce.fifo : u.fifo = s.fifo := State.fifo_of_outside h.outside

end LoadedAtOnce

/-! ### Vector loads (11 R307 to R310) -/

/-- The taint of a known load: its tag's, where it has one. -/
def loadTaint (settled : Bool) (g : Nat) : BitVec 8 := if settled then 0 else tagBit g

/-- The lanes a known vector load writes. -/
def loadedLanes (u : State) (d : BitVec 5) (one : Bool) (lanes : BitVec 16) (ps : List Piece) : BitVec 512 :=
  ofLanes ((List.range 16).map (fun j =>
    if active lanes j then (pieceVal ps (if one then 0 else j)).setWidth 32 else lane (u.me.vval d.toNat) j))

theorem State.finishAccess_vector (u : State) (ps : List Piece) (masked settled : Bool) (lanes : BitVec 16) :
    u.finishAccess u.cur (.vector d.toNat one lanes masked) ps (if settled then none else some g) =
      u.setV u.cur d.toNat (loadedLanes u d one lanes ps)
        (if masked then loadTaint settled g ||| u.me.oldTaint d.toNat else loadTaint settled g) := by
  cases settled <;> rfl

section vectorLoad
variable (he : exec i s = vectorLoad s k d ops xs one) (hi : s.enterInstr .core .plain = .ok {})
  (ha : s.access .read (laneSources ops k d false) (ops ++ [.k k]) xs = .ok zs)
include he hi ha

theorem vectorLoad_without_lane (hk : s.me.kval k.toNat = 0) : Completes i s (fun t =>
    RegFrame s t (laneSources ops k d false) noReg noReg noReg s.me.run s.me.srseed ∧ Issued s t 4) := by
  refine ⟨(s.readOut (laneSources ops k d false)).requeue s.cur, ?_, (s.readOut_frame _).trans (State.requeue_frame _ _),
    (s.readOut_issued _).requeue _⟩
  have hmask : s.maskOf k = 0 := hk
  have ha' : s.access .read (laneOps ops k d false) (ops ++ [.k k]) xs = .ok zs := ha
  simp only [he, vectorLoad, hi, ha', hmask, bind, Except.bind, if_true]
  rfl

/-- With a lane selected it is a load. -/
theorem vectorLoad_next (hk : s.me.kval k.toNat ≠ 0) : exec i s = settle s
    ((s.issueLoad (laneSources ops k d false) zs (.vector d.toNat one (s.maskOf k) (k ≠ 0)) false).map (fun u => u.requeue s.cur)) := by
  have hmask : s.maskOf k ≠ 0 := hk
  have ha' : s.access .read (laneOps ops k d false) (ops ++ [.k k]) xs = .ok zs := ha
  simp only [he, vectorLoad, hi, ha', hmask, bind, Except.bind, if_false]
  rfl

end vectorLoad

end Sys2Proof.Machine
end

section
/-! ## The results of vector loads and of VLDB (11 R307 to R310, R315) -/

namespace Sys2Proof.Machine
variable {s u t : State} {i : Instr} {os ops : List Opnd} {zs : List (Access × Place)} {xs : List Access}
  {vs : Nat → Nat} {fin : Finish} {g : Nat} {k : BitVec 3} {d : BitVec 5} {one : Bool}

/-! ### The lanes -/

/-- A lane operation marks no source last-use but its own. -/
theorem last_laneSources {r : Nat} (h : lastS ops r = false ∧ lastV ops r = false) (readsD : Bool) :
    lastS (laneSources ops k d readsD) r = false ∧ lastV (laneSources ops k d readsD) r = false := by
  obtain ⟨hs, hv⟩ := h
  unfold lastS at hs
  unfold lastV at hv
  unfold lastS lastV laneSources
  rw [List.any_append, List.any_append, List.any_append, List.any_append, hs, hv]
  split <;> exact ⟨rfl, rfl⟩

/-- With a mask other than k0 the destination is a source. -/
theorem destination_mem_laneSources (hk : k ≠ 0) : Opnd.v d false ∈ laneSources ops k d false := by
  have hreads : (decide (k ≠ 0) || false) = true := by rw [Bool.or_false, decide_eq_true hk]
  rw [laneSources, if_pos hreads]
  exact List.mem_append_right _ (List.mem_singleton_self _)

/-- The accesses of the selected lanes. -/
theorem exists_access_of_lane {w j : Nat} {addr : Nat → Word} {mask : BitVec 16} (hj : j < 16) (h : mask.getLsbD j = true) :
    ∃ x ∈ laneAccesses mask w addr, x.index = j :=
  ⟨_, List.mem_filterMap.2 ⟨j, List.mem_range.2 hj, if_pos h⟩, rfl⟩

/-- A selected lane takes the bytes of its access, zero-extended; another keeps its own (11 R307). -/
theorem lane_loadedLanes (hz : zs.map Prod.fst = xs)
    (hx : ∀ j, j < 16 → (s.me.kval k.toNat).getLsbD j = true → ∃ x ∈ xs, x.index = if one then 0 else j)
    (hu : u.me.vval d.toNat = s.me.vval d.toNat) {j : Nat} (hj : j < 16) :
    lane (loadedLanes u d one (s.maskOf k) (knownPieces zs vs)) j =
      underMask s k d (fun j => BitVec.ofNat 32 (vs (if one then 0 else j))) j := by
  rw [loadedLanes, lane_map _ j hj, underMask, active, State.maskOf, hu]
  by_cases hmask : (s.me.kval k.toNat).getLsbD j = true
  · obtain ⟨x, hxs, hindex⟩ := hx j hj hmask
    rw [← hz] at hxs
    obtain ⟨z, hzs, rfl⟩ := List.mem_map.1 hxs
    rw [if_pos hmask, if_pos hmask, pieceVal_knownPieces ⟨z, hzs, hindex⟩]
    exact BitVec.setWidth_ofNat_of_le (by decide) _
  · rw [if_neg hmask, if_neg hmask]

/-- The taint of a vector load that is known at once: its tag's, with its destination's where inactive lanes keep their own (11 R310). -/
def State.vectorTaint (s : State) (zs : List (Access × Place)) (g : Nat) (k : BitVec 3) (d : BitVec 5) : BitVec 8 :=
  loadTaint (s.settledWays zs) g ||| (if k = 0 then 0 else s.me.vtaint d.toNat)

theorem TagsOnly.vectorTaint_eq (h : TagsOnly (s.readOut (laneSources ops k d false)).me u.me)
    (hs : spilledOf s.me (laneSources ops k d false) = none) (hlast : lastV (laneSources ops k d false) d.toNat = false) :
    (if decide (k ≠ 0) then loadTaint (s.settledWays zs) g ||| u.me.oldTaint d.toNat else loadTaint (s.settledWays zs) g) =
      s.vectorTaint zs g k d := by
  unfold State.vectorTaint
  by_cases h0 : k = 0
  · rw [decide_eq_false (not_not_intro h0), if_neg Bool.false_ne_true, if_pos h0, BitVec.ofNat_eq_ofNat, BitVec.or_zero]
  · rw [if_pos (decide_eq_true h0), if_neg h0, h.oldTaint hs (destination_mem_laneSources h0) hlast]

section vectorLoad
variable (he : exec i s = vectorLoad s k d ops xs one) (hi : s.enterInstr .core .plain = .ok {})
  (ha : s.access .read (laneSources ops k d false) (ops ++ [.k k]) xs = .ok zs)
  (hops : ∀ r, lastS ops r = false ∧ lastV ops r = false)
  (hx : ∀ j, j < 16 → (s.me.kval k.toNat).getLsbD j = true → ∃ x ∈ xs, x.index = if one then 0 else j)
include he hi ha hops hx

theorem vectorLoad_known (hk : s.me.kval k.toNat ≠ 0) (hv : s.known zs vs) (hg : s.settledWays zs = true ∨ s.me.freeTag = some g) :
    Completes i s (fun t => t.mem = s.mem ∧ t.fifo = s.fifo ∧ Issued s t 4 ∧ t.me.run = s.me.run ∧
      (∀ j, j < 16 → lane (t.me.vval d.toNat) j = underMask s k d (fun j => BitVec.ofNat 32 (vs (if one then 0 else j))) j) ∧
      t.me.vtaint d.toNat = s.vectorTaint zs g k d ∧
      (∀ r, r ≠ d.toNat → t.me.vval r = s.me.vval r) ∧ (∀ r, t.me.sval r = s.me.sval r)) := by
  obtain ⟨hspilled, hz⟩ := State.access_ok ha
  have hlast := fun r => last_laneSources (k := k) (d := d) (hops r) false
  obtain ⟨u, hu, hout, htags⟩ := State.issueLoad_known (laneSources ops k d false) (.vector d.toNat one (s.maskOf k) (k ≠ 0)) hv hg
  have hread := htags.loaded (dV := onlyReg d.toNat) hout hlast
  rw [State.finishAccess_vector, htags.vectorTaint_eq hspilled (hlast _).2] at hu
  have hnext := vectorLoad_next he hi ha hk
  rw [hu] at hnext
  have hdone := (hread.setV (loadedLanes u d one (s.maskOf k) (knownPieces zs vs)) (s.vectorTaint zs g k d) (decide_eq_true rfl)).requeue s.cur
  refine ⟨_, hnext, hdone.mem, hdone.fifo, hdone.issued, hdone.run, fun j hj => ?_, ?_, fun r hr => hdone.vval r (decide_eq_false hr),
    hdone.sval⟩ <;> rw [State.requeue_me]
  · rw [(u.setV_reg _ _).1]
    exact lane_loadedLanes hz hx (htags.loaded (dV := noReg) hout hlast |>.vval _ rfl) hj
  · exact (u.setV_reg _ _).2

end vectorLoad

/-! ### Bytes of a register -/

theorem bytesToNat_lt (bs : List Nat) : bytesToNat bs < 256 ^ bs.length := by
  induction bs with
  | nil => exact Nat.one_pos
  | cons b bs ih =>
    rw [bytesToNat, List.length_cons, Nat.pow_succ]
    omega

/-- A byte of a number made of bytes. -/
theorem bytesToNat_byte (bs : List Nat) (n : Nat) : bytesToNat bs / 256 ^ n % 256 = bs.getD n 0 % 256 := by
  induction bs generalizing n with
  | nil => simp [bytesToNat]
  | cons b bs ih =>
    cases n with
    | zero =>
      rw [bytesToNat, Nat.pow_zero, Nat.div_one, List.getD_cons_zero]
      omega
    | succ n =>
      rw [bytesToNat, Nat.pow_succ, Nat.mul_comm (256 ^ n), ← Nat.div_div_eq_div_mul, List.getD_cons_succ, ← ih n]
      congr 2
      omega

theorem regOfBytes_toNat (bs : List Nat) : (regOfBytes bs).toNat = bytesToNat (bs.take 64) := by
  rw [regOfBytes, BitVec.toNat_ofNat]
  refine Nat.mod_eq_of_lt ((bytesToNat_lt _).trans_le ?_)
  have hlen := List.length_take_le 64 bs
  rw [show 256 = 2 ^ 8 from rfl, ← Nat.pow_mul]
  exact Nat.pow_le_pow_right (n := 2) (j := 512) (by decide) (by omega)

theorem regOfBytes_byte (bs : List Nat) {n : Nat} (hn : n < 64) : (regOfBytes bs).toNat / 256 ^ n % 256 = bs.getD n 0 % 256 := by
  rw [regOfBytes_toNat, bytesToNat_byte, List.getD_eq_getElem?_getD, List.getElem?_take_of_lt hn,
    ← List.getD_eq_getElem?_getD]

/-- Byte `n` of a run is in register `n / 64` of it. -/
theorem State.putVRun_byte {b : BitVec 8} {regs n : Nat} (s : State) (d : Nat) (bs : List Nat) (hn : n / 64 < regs) :
    ((s.putVRun s.cur d b regs bs).me.vval (d + n / 64)).toNat / 256 ^ (n % 64) % 256 = bs.getD n 0 % 256 := by
  rw [(State.putVRun_reg regs s d bs (n / 64) hn).1, regOfBytes_byte _ (Nat.mod_lt _ (by decide)), List.getD_eq_getElem?_getD,
    List.getElem?_drop, Nat.div_add_mod, ← List.getD_eq_getElem?_getD]

/-! ### VLDB (11 R315) -/

/-- The bytes that VLDB writes. -/
def pieceBytes (ps : List Piece) : List Nat := (List.range ps.length).map (fun n => (pieceVal ps n).toNat)

theorem State.finishAccess_vldb (u : State) (ps : List Piece) (regs : Nat) (settled : Bool) :
    u.finishAccess u.cur (.vldb d.toNat regs) ps (if settled then none else some g) =
      (u.updMe (Thread.uses (regRun true d.toNat regs))).putVRun u.cur d.toNat (loadTaint settled g) regs (pieceBytes ps) := by
  cases settled <;> rfl

/-- Each access is numbered as the bytes of the chunk are, and its byte is `vs`'s. -/
theorem pieceBytes_getD {n len : Nat} {addr : Nat → Word} (hz : zs.map Prod.fst = (List.range len).map (fun n => ⟨n, addr n, 1, none⟩))
    (hn : n < len) (hvs : vs n < 256) : (pieceBytes (knownPieces zs vs)).getD n 0 % 256 = vs n := by
  have hlen : (knownPieces zs vs).length = len := by
    have := congrArg List.length hz
    simpa [knownPieces] using this
  have hmade : ∃ z ∈ zs, z.1.index = n := by
    have hmem : (⟨n, addr n, 1, none⟩ : Access) ∈ zs.map Prod.fst := hz ▸ List.mem_map.2 ⟨n, List.mem_range.2 hn, rfl⟩
    obtain ⟨z, hzs, hfst⟩ := List.mem_map.1 hmem
    exact ⟨z, hzs, congrArg Access.index hfst⟩
  have hget : (pieceBytes (knownPieces zs vs)).getD n 0 = (pieceVal (knownPieces zs vs) n).toNat := by
    simp [pieceBytes, hlen, List.getD_eq_getElem?_getD, hn]
  rw [hget, pieceVal_knownPieces hmade, BitVec.toNat_ofNat]
  omega

section vldb
variable {a : BitVec 5} {f : Mode} (he : s.enterInstr .core .vldb = .ok f) (hd : d.toNat + groupRegs (chunkBytes f.fa) ≤ 32)
  (hspace : (s.x a).toNat / 2 ^ 60 ≠ 12)
  (ha : s.access .read [.s a false] [.s a false] ((List.range (chunkBytes f.fa)).map (fun n =>
    { index := n, addr := s.x a + BitVec.ofNat 64 (n * 1), width := 1 })) = .ok zs)
include he hd hspace ha

theorem execVldb_next : exec (.vldb a d) s = settle s
    ((s.issueLoad [.s a false] zs (.vldb d.toNat (groupRegs (chunkBytes f.fa))) false).map (fun u => u.requeue s.cur)) := by
  have ha' : s.access .read [.s a false] [.s a false] ((List.range (chunkBytes f.fa)).map (fun n =>
    { index := n, addr := unitAddr (s.x a) 1 n, width := 1 })) = .ok zs := ha
  show execVldb a d s = _
  simp only [execVldb, he, groupFits_ok hd, hspace, ha', bind, Except.bind, if_false]

theorem vldb_known (hv : s.known zs vs) (hg : s.settledWays zs = true ∨ s.me.freeTag = some g) :
    Completes (.vldb a d) s (fun t => t.mem = s.mem ∧ t.fifo = s.fifo ∧ Issued s t 4 ∧
      ∀ n, n < chunkBytes f.fa → (∀ j, vs j < 256) → (t.me.vval (d.toNat + n / 64)).toNat / 256 ^ (n % 64) % 256 = vs n) := by
  obtain ⟨-, hz⟩ := State.access_ok ha
  have hnext := execVldb_next he hd hspace ha
  obtain ⟨u, hu, hout, htags⟩ := State.issueLoad_known [.s a false] (.vldb d.toNat (groupRegs (chunkBytes f.fa))) hv hg
  have hbegun := (htags.loaded (dV := runRegs d.toNat (groupRegs (chunkBytes f.fa))) hout fun r => ⟨rfl, rfl⟩).uses
    (regRun true d.toNat (groupRegs (chunkBytes f.fa)))
  rw [hu, State.finishAccess_vldb] at hnext
  have hdone := (hbegun.putVRun (loadTaint (s.settledWays zs) g) (pieceBytes (knownPieces zs vs)) fun _ h => h).requeue s.cur
  refine ⟨_, hnext, hdone.mem, hdone.fifo, hdone.issued, fun n hn hvs => ?_⟩
  have hreg : n / 64 < groupRegs (chunkBytes f.fa) := by
    unfold groupRegs
    omega
  rw [State.requeue_me]
  exact (State.putVRun_byte _ d.toNat _ hreg).trans (pieceBytes_getD hz hn (hvs n))

end vldb

/-- What 11 R307 to R310 say of a vector load with address registers `ops` and accesses `xs`. -/
def VectorLoads (i : Instr) (s : State) (k : BitVec 3) (d : BitVec 5) (zs : List (Access × Place)) (ops : List Opnd) (xs : List Access)
    (one : Bool) : Prop :=
  s.access .read (laneSources ops k d false) (ops ++ [.k k]) xs = .ok zs →
  (s.me.kval k.toNat = 0 → Completes i s (fun t =>
    RegFrame s t (laneSources ops k d false) noReg noReg noReg s.me.run s.me.srseed ∧ Issued s t 4)) ∧
  (s.me.kval k.toNat ≠ 0 → ∀ (vs : Nat → Nat) (g : Nat), s.known zs vs → (s.settledWays zs = true ∨ s.me.freeTag = some g) →
    Completes i s (fun t => t.mem = s.mem ∧ t.fifo = s.fifo ∧ Issued s t 4 ∧ t.me.run = s.me.run ∧
      (∀ j, j < 16 → lane (t.me.vval d.toNat) j = underMask s k d (fun j => BitVec.ofNat 32 (vs (if one then 0 else j))) j) ∧
      t.me.vtaint d.toNat = s.vectorTaint zs g k d ∧
      (∀ r, r ≠ d.toNat → t.me.vval r = s.me.vval r) ∧ (∀ r, t.me.sval r = s.me.sval r))) ∧
  (s.me.kval k.toNat ≠ 0 → AsksHomes i s zs)

theorem vectorLoad_loads (he : exec i s = vectorLoad s k d ops xs one) (hi : s.enterInstr .core .plain = .ok {})
    (hops : ∀ r, lastS ops r = false ∧ lastV ops r = false)
    (hx : ∀ j, j < 16 → (s.me.kval k.toNat).getLsbD j = true → ∃ x ∈ xs, x.index = if one then 0 else j) :
    VectorLoads i s k d zs ops xs one := fun ha =>
  ⟨vectorLoad_without_lane he hi ha, fun hk _ _ => vectorLoad_known he hi ha hops hx hk,
    fun hk => asksHomes_of_issueLoad (vectorLoad_next he hi ha hk)⟩

/-- VLDBC in space 0xC makes one access per lane, elsewhere one for all (11 R308). -/
theorem execVldbc_lanes {e : BitVec 2} {a : BitVec 5} (h : (s.x a).toNat / 2 ^ 60 = 12) : exec (.vldbc e k a d) s =
    vectorLoad s k d [.s a false] (laneAccesses (s.maskOf k) (elemWidth e) (fun _ => s.x a)) false := if_pos h

theorem execVldbc_one {e : BitVec 2} {a : BitVec 5} (h : (s.x a).toNat / 2 ^ 60 ≠ 12) : exec (.vldbc e k a d) s =
    vectorLoad s k d [.s a false] (if s.maskOf k = 0 then [] else [{ index := 0, addr := s.x a, width := elemWidth e }]) true := if_neg h

theorem ne_zero_of_getLsbD {w j : Nat} {x : BitVec w} (h : x.getLsbD j = true) : x ≠ 0 := by
  rintro rfl
  simp at h

/-- Settles O14: the vector loads by the lanes their mask selects, VLDBC by its space, then VLDB. -/
theorem vectorLoadResult : Obligations.VectorLoadResult := by
  intro s e k x a d zs
  refine ⟨fun hi => ⟨?_, ?_, ?_, fun h => ?_, fun h => ?_⟩, fun f he hd hspace ha => ⟨fun vs g => vldb_known he hd hspace ha, ?_⟩⟩
  · exact vectorLoad_loads rfl hi (fun _ => ⟨rfl, rfl⟩) fun j => exists_access_of_lane
  · exact vectorLoad_loads rfl hi (fun _ => ⟨rfl, rfl⟩) fun j => exists_access_of_lane
  · exact vectorLoad_loads rfl hi (fun _ => ⟨rfl, rfl⟩) fun j => exists_access_of_lane
  · exact vectorLoad_loads (execVldbc_lanes h) hi (fun _ => ⟨rfl, rfl⟩) fun j => exists_access_of_lane
  · refine vectorLoad_loads (execVldbc_one h) hi (fun _ => ⟨rfl, rfl⟩) fun j _ hmask => ?_
    rw [if_neg (ne_zero_of_getLsbD hmask)]
    exact ⟨_, List.mem_singleton_self _, rfl⟩
  · exact asksHomes_of_issueLoad (execVldb_next he hd hspace ha)

end Sys2Proof.Machine
end

section
/-!
## Stores (05 R142, R144, R147), the vector stores and AMST (11 R307; 12 R336)

A store goes to its slot of the region store buffer or to its home's FIFO; either way memory keeps every byte and the thread its pc.
-/

namespace Sys2Proof.Machine
variable {s t u : State} {i : Instr} {os ops : List Opnd} {zs : List (Access × Place)} {xs : List Access} {k : BitVec 3} {d : BitVec 5}
  {z : Access × Place} {direct : Bool} {v : Nat} {val : Nat → Nat}

/-! ### What every store keeps -/

/-- Stores have been made: memory, the issuing thread's number, its pc and its pending prefix stand. -/
structure StoreKeeps (s t : State) : Prop where
  mem : t.mem = s.mem
  cur : t.cur = s.cur
  pc : t.me.pc = s.me.pc
  pfx : t.me.pfx = s.me.pfx

theorem StoreKeeps.refl (s : State) : StoreKeeps s s := ⟨rfl, rfl, rfl, rfl⟩

theorem StoreKeeps.trans (h : StoreKeeps s u) (g : StoreKeeps u t) : StoreKeeps s t :=
  ⟨g.mem.trans h.mem, g.cur.trans h.cur, g.pc.trans h.pc, g.pfx.trans h.pfx⟩

/-- A change of the issuing thread that keeps its pc and prefix. -/
theorem StoreKeeps.updMe {f : Thread → Thread} (h : (f s.me).pc = s.me.pc ∧ (f s.me).pfx = s.me.pfx) : StoreKeeps s (s.updThread s.cur f) := by
  have hme : (s.updThread s.cur f).me = f s.me := s.me_updMe f
  refine ⟨rfl, rfl, ?_, ?_⟩ <;> rw [hme]
  · exact h.1
  · exact h.2

/-- An overflow drain changes no byte of memory (05 R147). -/
theorem StoreKeeps.overflowDrain (s : State) : StoreKeeps s (s.overflowDrain s.cur) := by
  refine ⟨rfl, rfl, ?_, ?_⟩ <;> rw [State.me_overflowDrain]

theorem StoreKeeps.rsbStore (s : State) (p : Place) (n v : Nat) : StoreKeeps s (s.rsbStore s.cur p n v) := by
  cases h : (s.thread s.cur).slotFor (lineOf p.loc) with
  | some c =>
    simp only [State.rsbStore, h]
    exact .updMe ⟨rfl, rfl⟩
  | none =>
    simp only [State.rsbStore, h]
    split
    · exact (StoreKeeps.overflowDrain s).trans (.updMe (s := s.overflowDrain s.cur) ⟨rfl, rfl⟩)
    · exact .updMe ⟨rfl, rfl⟩

/-- The STORE of `n` bytes of `v` at `p` (05 R142). -/
def storeReq (t : Nat) (p : Place) (n v : Nat) : Req :=
  { src := .thread t, place := p, kind := .store (byteMask (p.loc % 128) n) (placeData (p.loc % 128) v) }

/-- One more store of a thread is outstanding. -/
def Thread.storing (x : Thread) : Thread := { x with storeCount := x.storeCount + 1 }

theorem State.sendStore_eq (s : State) (t : Nat) (p : Place) (n v : Nat) :
    s.sendStore t p n v = (s.sends [storeReq t p n v]).updThread t Thread.storing := rfl

theorem StoreKeeps.sendStore (s : State) (p : Place) (n v : Nat) : StoreKeeps s (s.sendStore s.cur p n v) :=
  StoreKeeps.trans (u := s.sends [storeReq s.cur p n v]) ⟨rfl, rfl, rfl, rfl⟩
    (StoreKeeps.updMe (s := s.sends [storeReq s.cur p n v]) (f := Thread.storing) ⟨rfl, rfl⟩)

theorem StoreKeeps.storeOne (s : State) (z : Access × Place) (direct : Bool) (v : Nat) : StoreKeeps s (s.storeOne s.cur z direct v) := by
  unfold State.storeOne
  dsimp only
  split
  · exact .rsbStore s _ _ _
  · exact .sendStore s _ _ _

theorem StoreKeeps.storeAll (zs : List (Access × Place)) (direct : Bool) (val : Nat → Nat) : ∀ s : State,
    StoreKeeps s (zs.foldl (fun s z => s.storeOne s.cur z direct (val z.1.index)) s) := by
  induction zs with
  | nil => exact .refl
  | cons z zs ih => exact fun s => (StoreKeeps.storeOne s z direct _).trans (ih _)

/-! ### The issue step of a store -/

theorem State.windowWait_mem (s : State) (zs : List (Access × Place)) : (s.windowWait zs).mem = s.mem := by
  unfold State.windowWait
  split <;> rfl

theorem State.windowWait_fifo (s : State) (zs : List (Access × Place)) : (s.windowWait zs).fifo = s.fifo := by
  unfold State.windowWait
  split <;> rfl

/-- Waiting for cluster-memory ways changes the thread's run state alone (02 R65). -/
theorem State.windowWait_me (s : State) (zs : List (Access × Place)) : ∃ run, (s.windowWait zs).me = { s.me with run := run } := by
  unfold State.windowWait
  split
  · exact ⟨s.me.run, rfl⟩
  · exact ⟨_, s.me_stop _⟩

/-- The issue step of any stores: memory stands, and the instruction has issued (05 R142, R144). -/
theorem State.issueStore_issued (s : State) (os : List Opnd) (zs : List (Access × Place)) (direct : Bool) (val : Nat → Nat) :
    (s.issueStore os zs direct val).mem = s.mem ∧ Issued s (s.issueStore os zs direct val) 4 := by
  have hstored := StoreKeeps.storeAll zs direct val s
  unfold State.issueStore
  generalize zs.foldl (fun s z => s.storeOne s.cur z direct (val z.1.index)) s = u at hstored ⊢
  obtain ⟨run, hme⟩ := (u.readOut os).windowWait_me zs
  rw [← hstored.cur]
  change ((u.readOut os).windowWait zs).mem = s.mem ∧ Issued s ((u.readOut os).windowWait zs) 4
  refine ⟨(State.windowWait_mem _ zs).trans ((State.mem_of_outside (u.readOut_frame os).rest).trans hstored.mem), ⟨?_, ?_⟩⟩ <;> rw [hme]
  · exact (u.readOut_issued os).pc.trans (congrArg (· + BitVec.ofNat 64 4) hstored.pc)
  · exact (u.readOut_issued os).pfx

/-! ### The vector stores (11 R307) -/

theorem vectorStore_stores (he : exec i s = vectorStore s k d ops xs) (hi : s.enterInstr .core .plain = .ok {})
    (ha : s.access .write (ops ++ [.k k, .v d false]) (ops ++ [.k k, .v d false]) xs = .ok zs) :
    Completes i s (fun t => t = (s.issueStore (ops ++ [.k k, .v d false]) zs false (fun j => (lane (s.vx d) j).toNat)).requeue s.cur ∧
      t.mem = s.mem ∧ Issued s t 4) := by
  obtain ⟨hmem, hissued⟩ := s.issueStore_issued (ops ++ [.k k, .v d false]) zs false (fun j => (lane (s.vx d) j).toNat)
  refine ⟨_, ?_, rfl, (State.mem_of_outside (State.requeue_outside _ _)).trans hmem, hissued.requeue _⟩
  simp only [he, vectorStore, hi, ha, bind, Except.bind, settle]

/-! ### AMST (12 R336) -/

theorem notLane_ok {a : Word} (h : a.toNat / 2 ^ 60 ≠ 12) : notLane a = .ok () := if_neg h

theorem execAmst_next {e : BitVec 2} {m n : Bool} {b a : BitVec 5} (hi : s.enterInstr .core .plain = .ok {})
    (hspace : (s.x a).toNat / 2 ^ 60 ≠ 12)
    (ha : s.access .write (rrOps m n b a) (rrOps m n b a) [{ index := 0, addr := s.x a, width := 2 ^ e.toNat }] = .ok zs) :
    exec (.amst e m n b a) s = .next (s.issueStore (rrOps m n b a) zs true (fun _ => (s.x b).toNat)) := by
  show execAmst e m n b a s = _
  simp only [execAmst, hi, notLane_ok hspace, ha, bind, Except.bind, settle]

/-- A store past the region store buffer is one STORE in its FIFO (05 R142). -/
theorem State.storeOne_direct (s : State) (z : Access × Place) (v : Nat) :
    s.storeOne s.cur z true v = s.sendStore s.cur z.2 z.1.width (v % 256 ^ z.1.width) := by
  unfold State.storeOne
  rw [Bool.not_true, Bool.and_false]
  rfl

/-- The issue step of one such store. -/
theorem State.issueStore_direct (s : State) (os : List Opnd) (z : Access × Place) (v : Nat) :
    let t := s.issueStore os [z] true (fun _ => v)
    t.me.rsb = s.me.rsb ∧ t.me.storeCount = s.me.storeCount + 1 ∧
      t.fifo = s.fifo ++ [storeReq s.cur z.2 z.1.width (v % 256 ^ z.1.width)] := by
  have hkeeps := StoreKeeps.sendStore s z.2 z.1.width (v % 256 ^ z.1.width)
  have hme := State.me_updMe (s.sends [storeReq s.cur z.2 z.1.width (v % 256 ^ z.1.width)]) Thread.storing
  have hfifo : (s.sendStore s.cur z.2 z.1.width (v % 256 ^ z.1.width)).fifo = s.fifo ++ [storeReq s.cur z.2 z.1.width (v % 256 ^ z.1.width)] :=
    rfl
  have hissue : s.issueStore os [z] true (fun _ => v) =
      ((s.sendStore s.cur z.2 z.1.width (v % 256 ^ z.1.width)).readOut os).windowWait [z] := by
    rw [State.readOut, hkeeps.cur, ← State.storeOne_direct]
    rfl
  change (s.sendStore s.cur z.2 z.1.width (v % 256 ^ z.1.width)).me = s.me.storing at hme
  rw [hissue]
  generalize s.sendStore s.cur z.2 z.1.width (v % 256 ^ z.1.width) = u at hme hfifo ⊢
  have hframe := u.readOut_frame os
  obtain ⟨-, -, hcount, -⟩ := Thread.pending_of_plain hframe.own
  obtain ⟨run, hwait⟩ := (u.readOut os).windowWait_me [z]
  dsimp only
  rw [hwait, State.windowWait_fifo, State.fifo_of_outside hframe.rest, hfifo]
  refine ⟨?_, ?_, rfl⟩
  · rw [Thread.rsb_of_plain hframe.own, hme]
    rfl
  · rw [hcount, hme]
    rfl

/-- Settles O15: the three vector stores, then AMST. -/
theorem vectorStoreResult : Obligations.VectorStoreResult := by
  refine fun s e k x a d zs hi => ⟨vectorStore_stores rfl hi, vectorStore_stores rfl hi, vectorStore_stores rfl hi,
    fun z m n b p hspace ha => ?_⟩
  obtain ⟨hmem, hissued⟩ := s.issueStore_issued (rrOps m n b a) [(_, p)] true (fun _ => (s.x b).toNat)
  exact ⟨_, execAmst_next hi hspace ha, hmem, hissued, s.issueStore_direct _ _ _⟩

end Sys2Proof.Machine
end

section
/-!
## Scalar loads (12 R316, R317, R336; 05 R140, R141)

A scalar load makes one access. It is served from the store buffer or an L1 copy and writes its register at once, or it asks the home.
-/

namespace Sys2Proof.Machine
variable {s t : State} {i : Instr} {os : List Opnd} {zs : List (Access × Place)} {x : Access} {p : Place} {vs : Nat → Nat} {fin : Finish}
  {g v : Nat} {d : BitVec 5} {direct : Bool}

/-! ### One register written -/

theorem reg_eq_zero_iff (d : BitVec 5) : d.toNat = 0 ↔ d = 0 := BitVec.toNat_eq (y := 0#5) |>.symm

theorem State.setS_reg (s : State) (r : Nat) (v : Word) (b : BitVec 8) :
    (s.setS s.cur r v b).me.sval r = (if r = 0 then 0 else v) ∧ (s.setS s.cur r v b).me.staint r = (if r = 0 then 0 else b) := by
  rw [State.me, State.cur_of_outside (s.setS_outside _ _ _ _)]
  exact ⟨s.sval_setS .., s.staint_setS ..⟩

/-- A write to a scalar register leaves every thread's pc and pfx. -/
theorem State.setS_pc_pfx (s : State) (u r : Nat) (v : Word) (b : BitVec 8) (w : Nat) :
    ((s.setS u r v b).thread w).pc = (s.thread w).pc ∧ ((s.setS u r v b).thread w).pfx = (s.thread w).pfx := by
  have hbare : ∀ {y z : Thread}, z.bare = y.bare → z.pc = y.pc ∧ z.pfx = y.pfx := fun {y z} h => by
    have hpfx : z.bare.pfx = y.bare.pfx := by rw [h]
    exact ⟨(KeptRest.of_bare h).pc, hpfx⟩
  by_cases hw : w = u
  · subst hw
    by_cases hr : r = 0
    · rw [State.setS, if_pos hr]
      exact ⟨rfl, rfl⟩
    · obtain ⟨y, hy, id, limbo, hwritten⟩ := s.setS_thread w r v b hr
      rw [hwritten]
      exact hbare (y := (s.thread w).uses [(false, r)]) hy.rest
  · exact hbare (s.setS_other u r v b w hw).rest

theorem Issued.setS {len : Nat} (h : Issued s t len) (r : Nat) (v : Word) (b : BitVec 8) : Issued s (t.setS t.cur r v b) len := by
  have hkeeps := t.setS_pc_pfx t.cur r v b t.cur
  constructor <;> rw [State.me, State.cur_of_outside (t.setS_outside _ _ _ _)]
  · exact hkeeps.1.trans h.pc
  · exact hkeeps.2.trans h.pfx

theorem State.nextAge_readOut (s : State) (os : List Opnd) : (s.readOut os).me.nextAge = s.me.nextAge := by
  have hplain : (s.readOut os).me.plain.nextAge = s.me.plain.nextAge := by rw [(s.readOut_frame os).own]
  exact hplain

/-! ### An access that is known at once -/

/-- A load whose every line is settled needs no tag. -/
theorem State.issueLoad_settled (os : List Opnd) (fin : Finish) (hk : s.known zs vs) (hset : s.settledWays zs = true) :
    s.issueLoad os zs fin false = .ok ((s.readOut os).finishAccess s.cur fin (knownPieces zs vs) none) := by
  have hk' := State.known_readOut hk os
  have hset' : (s.readOut os).settledWays zs = true := (s.settledWays_readOut os).trans hset
  have hstart := State.startLoad_eq (s := s.readOut os) (t := (s.readOut os).cur) (zs := zs) (fin := fin) (direct := false)
  rw [State.pieces_known hk', State.asked_known hk', (State.unsettledLines_known hk').2 hset'] at hstart
  simp only [decide_true, Bool.and_self, if_true] at hstart
  exact hstart

/-- A load has issued and taken tag `g`, which waits for unsettled lines alone. -/
def State.readTagged (s : State) (os : List Opnd) (g : Nat) (waits : List (Home × Nat)) : State := (s.readOut os).tagged s.cur g 0 waits []

theorem State.readTagged_cur (s : State) (os : List Opnd) (g : Nat) (waits : List (Home × Nat)) : (s.readTagged os g waits).cur = s.cur :=
  s.readOut_cur os

theorem State.readTagged_outside (s : State) (os : List Opnd) (g : Nat) (waits : List (Home × Nat)) :
    (s.readTagged os g waits).outside = s.outside := (s.readOut_frame os).rest

theorem State.readTagged_me (s : State) (os : List Opnd) (g : Nat) (waits : List (Home × Nat)) :
    (s.readTagged os g waits).me = (s.readOut os).me.takeTag g 0 waits [] := (s.readOut os).me_updMe (fun y => y.takeTag g 0 waits [])

theorem State.readTagged_issued (s : State) (os : List Opnd) (g : Nat) (waits : List (Home × Nat)) : Issued s (s.readTagged os g waits) 4 := by
  constructor <;> rw [State.readTagged_me]
  · exact (s.readOut_issued os).pc
  · exact (s.readOut_issued os).pfx

theorem State.readTagged_tag (s : State) (os : List Opnd) (g : Nat) (waits : List (Home × Nat)) :
    NMap.get {} (s.readTagged os g waits).me.tags g = ⟨true, s.me.nextAge, 0, waits, []⟩ := by
  rw [State.readTagged_me, ← s.nextAge_readOut os]
  exact NMap.get_set_same ..

/-- A load that reads unsettled copies and asks no home takes a tag that waits for their lines. -/
theorem State.issueLoad_unsettled (os : List Opnd) (fin : Finish) (hk : s.known zs vs) (hset : s.settledWays zs = false)
    (hg : s.me.freeTag = some g) : s.issueLoad os zs fin false =
      .ok ((s.readTagged os g ((s.readOut os).unsettledLines s.cur zs false)).finishAccess s.cur fin (knownPieces zs vs) (some g)) := by
  have hk' := State.known_readOut hk os
  have hlines : (s.readOut os).unsettledLines (s.readOut os).cur zs false ≠ [] := fun h => by
    rw [State.unsettledLines_known hk', s.settledWays_readOut os, hset] at h
    cases h
  have hstart := State.startLoad_eq (s := s.readOut os) (t := (s.readOut os).cur) (zs := zs) (fin := fin) (direct := false)
  have htag : ((s.readOut os).thread (s.readOut os).cur).needTag = .ok g := Thread.needTag_free ((s.freeTag_readOut os).trans hg)
  rw [State.pieces_known hk', State.asked_known hk', htag] at hstart
  simp only [hlines, decide_true, decide_false, Bool.and_false, Bool.false_eq_true, if_false, if_true] at hstart
  exact hstart

theorem State.finishAccess_scalar (u : State) (n : Nat) (sg : Bool) (b : Option Nat) :
    u.finishAccess u.cur (.scalar d.toNat n sg) (knownPieces [(x, p)] vs) b =
      u.setS u.cur d.toNat (extendLoad n sg (pieceVal (knownPieces [(x, p)] vs) 0)) (b.elim 0 tagBit) := by
  cases b <;> rfl

/-- The value a register takes from a single access. -/
theorem pieceVal_one (hx : x.index = 0) : pieceVal (knownPieces [(x, p)] fun _ => v) 0 = BitVec.ofNat 64 v :=
  pieceVal_knownPieces ⟨_, List.mem_singleton_self _, hx⟩

section scalarLoad
variable {n : Nat} {sg : Bool} (he : exec i s = settle s (s.issueLoad os [(x, p)] (.scalar d.toNat n sg) false)) (hx : x.index = 0)
include he hx

/-- Bytes from the store buffer or a settled copy: the register is written, and nothing else changes. -/
theorem scalarLoad_now (hway : s.way s.cur (x, p) false = .now v) : Completes i s (fun t =>
    RegFrame s t os (onlyReg d.toNat) noReg noReg s.me.run s.me.srseed ∧ Issued s t 4 ∧
      t.me.sval d.toNat = (if d = 0 then 0 else extendLoad n sg (BitVec.ofNat 64 v)) ∧ t.me.staint d.toNat = 0) := by
  have hk : s.known [(x, p)] fun _ => v := fun z hz => by rw [List.mem_singleton.1 hz]; exact .inl hway
  have hset : s.settledWays [(x, p)] = true := by simp [State.settledWays, hway]
  rw [State.issueLoad_settled os _ hk hset, ← s.readOut_cur os, State.finishAccess_scalar, pieceVal_one hx] at he
  have hreg := (s.readOut os).setS_reg d.toNat (extendLoad n sg (BitVec.ofNat 64 v)) 0
  simp only [reg_eq_zero_iff, ite_self] at hreg
  exact ⟨_, he, (s.readOut_frame os).weaken.trans (State.setS_frame (.inr (decide_eq_true rfl)) _), (s.readOut_issued os).setS .., hreg⟩

/-- Bytes from an unsettled copy: the register is written under a tag that waits for the line. -/
theorem scalarLoad_unsettled (hway : s.way s.cur (x, p) false = .unsettled v) (hg : s.me.freeTag = some g) : Completes i s (fun t =>
    t.mem = s.mem ∧ t.fifo = s.fifo ∧ Issued s t 4 ∧ t.me.run = s.me.run ∧
      t.me.sval d.toNat = (if d = 0 then 0 else extendLoad n sg (BitVec.ofNat 64 v)) ∧
      t.me.staint d.toNat = (if d = 0 then 0 else tagBit g) ∧
      NMap.get {} t.me.tags g = ⟨true, s.me.nextAge, 0, [(p.home, lineOf p.loc)], []⟩) := by
  have hk : s.known [(x, p)] fun _ => v := fun z hz => by rw [List.mem_singleton.1 hz]; exact .inr hway
  have hset : s.settledWays [(x, p)] = false := by simp [State.settledWays, hway]
  have hlines : (s.readOut os).unsettledLines s.cur [(x, p)] false = [(p.home, lineOf p.loc)] := by
    simp [State.unsettledLines, State.way_readOut, hway, Way.unsettledLine]
  rw [State.issueLoad_unsettled os _ hk hset hg, hlines] at he
  have hcur := s.readTagged_cur os g [(p.home, lineOf p.loc)]
  have hout := s.readTagged_outside os g [(p.home, lineOf p.loc)]
  have hissued := s.readTagged_issued os g [(p.home, lineOf p.loc)]
  have htag := s.readTagged_tag os g [(p.home, lineOf p.loc)]
  have hrun : (s.readTagged os g [(p.home, lineOf p.loc)]).me.run = s.me.run := by
    rw [State.readTagged_me]
    exact (s.readOut_frame os).run
  generalize s.readTagged os g [(p.home, lineOf p.loc)] = u at he hcur hout hissued htag hrun
  rw [← hcur, State.finishAccess_scalar, pieceVal_one hx, Option.elim_some] at he
  have hwrite := State.setS_frame (dS := onlyReg d.toNat) (dV := noReg) (dK := noReg) (r := d.toNat)
    (v := extendLoad n sg (BitVec.ofNat 64 v)) (g := tagBit g) (.inr (decide_eq_true rfl)) u
  have hreg := u.setS_reg d.toNat (extendLoad n sg (BitVec.ofNat 64 v)) (tagBit g)
  simp only [reg_eq_zero_iff] at hreg
  refine ⟨_, he, State.mem_of_outside (hwrite.rest.trans hout), State.fifo_of_outside (hwrite.rest.trans hout), hissued.setS ..,
    hwrite.run.trans hrun, hreg.1, hreg.2, ?_⟩
  rw [(Thread.pending_of_plain hwrite.own).1]
  exact htag

end scalarLoad

/-! ### An access that asks its home -/

/-- A load of one access has asked its home under tag `g`, and left rotation (05 R140). -/
structure AskedOne (s t : State) (x : Access) (p : Place) (fin : Finish) (direct : Bool) (g : Nat) : Prop where
  mem : t.mem = s.mem
  issued : Issued s t 4
  run : t.me.run = .waiting .reply
  fifo : t.fifo = s.fifo ++ [loadReq s.cur g (x, p)]
  tag : NMap.get {} t.me.tags g = ⟨true, s.me.nextAge, 1, [], [(p.home, lineOf p.loc)]⟩
  inflight : t.me.inflight = some ⟨some g, fin, [⟨x.index, p, x.width, !direct, none⟩]⟩

theorem State.issueLoad_asks_one (os : List Opnd) (fin : Finish) (hway : s.way s.cur (x, p) direct = .home)
    (hg : s.me.freeTag = some g) : ∃ t, s.issueLoad os [(x, p)] fin direct = .ok t ∧ AskedOne s t x p fin direct g := by
  have hway' : (s.readOut os).way s.cur (x, p) direct = .home := (s.way_readOut os _ _).trans hway
  have hasked : (s.readOut os).asked s.cur [(x, p)] direct = [(x, p)] := by simp [State.asked, hway']
  have hlines : (s.readOut os).unsettledLines s.cur [(x, p)] direct = [] := by simp [State.unsettledLines, hway', Way.unsettledLine]
  have hpieces : (s.readOut os).pieces s.cur [(x, p)] direct = [⟨x.index, p, x.width, !direct, none⟩] := by
    simp [State.pieces, hway', Way.value]
  have hissued := s.readOut_issued os
  have hframe := s.readOut_frame os
  have hthread := (s.readOut os).thread_asking (zs := [(x, p)]) (fin := fin) (g := g) s.cur direct
  rw [hasked, hlines, hpieces, State.thread_readOut] at hthread
  have hme : ((s.readOut os).asking s.cur [(x, p)] fin direct g).me = _ :=
    Eq.trans (by rw [State.me, State.cur_asking, s.readOut_cur]) hthread
  have hstart := State.startLoad_asks (fin := fin) ⟨_, List.mem_singleton_self _, hway'⟩ ((s.freeTag_readOut os).trans hg)
  refine ⟨_, (State.issueLoad_eq direct).trans hstart, State.mem_asking _ _ _, ⟨?_, ?_⟩, ?_, ?_, ?_, ?_⟩
  case refine_4 =>
    rw [State.fifo_asking, hasked, State.fifo_of_outside hframe.rest]
    rfl
  all_goals rw [hme]
  · exact hissued.pc
  · exact hissued.pfx
  · exact (NMap.get_set_same ..).trans (by rw [s.nextAge_readOut]; rfl)
  · rfl

/-! ### The instructions -/

theorem loadOp_next {o : BitVec 10} {n : Bool} {b : BitVec 5} {bytes : Nat} {sg : Bool} (hi : s.enterInstr .any .plain = .ok {})
    (ha : s.access .read [.s b n] [.s b n] [{ index := 0, addr := effAddr (s.x b) o bytes, width := bytes }] = .ok zs) :
    loadOp s o n b d bytes sg = settle s (s.issueLoad [.s b n] zs (.scalar d.toNat bytes sg) false) := by
  simp only [loadOp, hi, ha, bind, Except.bind]

/-- What 12 R316 and 05 R140 say of a scalar load from base register `b` that extends its bytes by `ext`. -/
def ScalarLoads (s : State) (p : Place) (o : BitVec 10) (n : Bool) (b d : BitVec 5) (i : Instr) (bytes : Nat) (ext : Word → Word) : Prop :=
  let x : Access := { index := 0, addr := s.x b + o.signExtend 64 * BitVec.ofNat 64 bytes, width := bytes }
  s.access .read [.s b n] [.s b n] [x] = .ok [(x, p)] →
  (∀ v, s.way s.cur (x, p) false = .now v → Completes i s (fun t =>
    RegFrame s t [.s b n] (onlyReg d.toNat) noReg noReg s.me.run s.me.srseed ∧ Issued s t 4 ∧
      t.me.sval d.toNat = (if d = 0 then 0 else ext (BitVec.ofNat 64 v)) ∧ t.me.staint d.toNat = 0)) ∧
  (∀ v g, s.way s.cur (x, p) false = .unsettled v → s.me.freeTag = some g → Completes i s (fun t =>
    t.mem = s.mem ∧ t.fifo = s.fifo ∧ Issued s t 4 ∧ t.me.run = s.me.run ∧
      t.me.sval d.toNat = (if d = 0 then 0 else ext (BitVec.ofNat 64 v)) ∧ t.me.staint d.toNat = (if d = 0 then 0 else tagBit g) ∧
      NMap.get {} t.me.tags g = ⟨true, s.me.nextAge, 0, [(p.home, lineOf p.loc)], []⟩)) ∧
  (∀ g, s.way s.cur (x, p) false = .home → s.me.freeTag = some g → Completes i s (fun t =>
    t.mem = s.mem ∧ Issued s t 4 ∧ t.me.run = .waiting .reply ∧
      t.fifo = s.fifo ++ [{ src := .thread s.cur, place := p, kind := .load bytes, tag := some g }] ∧
      NMap.get {} t.me.tags g = ⟨true, s.me.nextAge, 1, [], [(p.home, lineOf p.loc)]⟩))

theorem loadOp_loads {o : BitVec 10} {n : Bool} {b : BitVec 5} {bytes : Nat} {sg : Bool} (hi : s.enterInstr .any .plain = .ok {})
    (he : exec i s = loadOp s o n b d bytes sg) : ScalarLoads s p o n b d i bytes (extendLoad bytes sg) := by
  intro ha
  rw [loadOp_next hi ha] at he
  refine ⟨fun v hway => scalarLoad_now he rfl hway, fun v g hway => scalarLoad_unsettled he rfl hway, fun g hway hg => ?_⟩
  obtain ⟨t, ht, hasked⟩ := State.issueLoad_asks_one [.s b n] (.scalar d.toNat bytes sg) hway hg
  rw [ht] at he
  exact ⟨t, he, hasked.mem, hasked.issued, hasked.run, hasked.fifo, hasked.tag⟩

theorem execAmld_next {e : BitVec 3} {n : Bool} {a : BitVec 5} (hi : s.enterInstr .core .plain = .ok {})
    (hspace : (s.x a).toNat / 2 ^ 60 ≠ 12)
    (ha : s.access .read [.s a n] [.s a n] [{ index := 0, addr := s.x a, width := 2 ^ (e.toNat % 4) }] = .ok zs) :
    exec (.amld e n a d) s = settle s (s.issueLoad [.s a n] zs (.scalar d.toNat (2 ^ (e.toNat % 4)) (sizeSigned e)) true) := by
  show execAmld e n a d s = _
  simp only [execAmld, hi, notLane_ok hspace, ha, bind, Except.bind]

/-- Settles O11: the seven widths and extensions of a scalar load, each by the way its access is served, then AMLD, which always asks. -/
theorem scalarLoadResult : Obligations.ScalarLoadResult := by
  refine ⟨fun s o n b d p hi => ⟨?_, ?_, ?_, ?_, ?_, ?_, ?_⟩, fun s z n a d p g hi hspace ha hg => ?_⟩
  · exact loadOp_loads (sg := true) hi rfl
  · exact loadOp_loads (sg := true) hi rfl
  · exact loadOp_loads (sg := true) hi rfl
  · exact loadOp_loads (sg := false) hi rfl
  · exact loadOp_loads (sg := false) hi rfl
  · exact loadOp_loads (sg := false) hi rfl
  · exact loadOp_loads (sg := false) hi rfl
  · obtain ⟨t, ht, hasked⟩ :=
      State.issueLoad_asks_one (direct := true) [.s a n] (.scalar d.toNat (2 ^ (z.toNat % 4)) (sizeSigned z)) rfl hg
    exact ⟨t, (execAmld_next hi hspace ha).trans (congrArg (settle s) ht), hasked.mem, hasked.issued, hasked.run, hasked.fifo,
      hasked.inflight⟩

end Sys2Proof.Machine
end

section
/-!
## LDM and STM (12 R319, R320)

A run of consecutive scalar registers is written one register after another, as a run of vector registers is.
-/

namespace Sys2Proof.Machine
variable {s u t : State} {i : Instr} {zs : List (Access × Place)} {vs : Nat → Nat} {g : Nat} {dS dV dK : Nat → Bool} {b : BitVec 8}
  {o : BitVec 10} {c : BitVec 3} {n : Bool} {base d : BitVec 5}

/-! ### Runs of scalar registers -/

/-- The first register of a run is written, then the rest. -/
theorem State.putRun_cons (s : State) (d : Nat) (v : Word) (ws : List Word) : s.putRun s.cur d b (v :: ws) =
    let u := s.setS s.cur d v b
    u.putRun u.cur (d + 1) b ws := by
  dsimp only
  rw [State.cur_of_outside (s.setS_outside _ _ _ _)]
  rfl

theorem State.putRun_frame (ws : List Word) : ∀ (s : State) (d : Nat), (∀ r, runRegs d ws.length r = true → dS r = true) →
    RegFrame s (s.putRun s.cur d b ws) [] dS dV dK s.me.run s.me.srseed := by
  induction ws with
  | nil => exact fun s _ _ => .refl s
  | cons v ws ih =>
    intro s d hd
    rw [State.putRun_cons]
    refine (State.setS_frame (.inr (hd d ?_)) s).trans (ih _ (d + 1) fun r hr => hd r ?_)
    · simp [runRegs]
    · simp only [runRegs, decide_eq_true_eq, List.length_cons] at hr ⊢
      omega

theorem Issued.putRun {len : Nat} (ws : List Word) : ∀ {t : State} (d : Nat), Issued s t len → Issued s (t.putRun t.cur d b ws) len := by
  induction ws with
  | nil => exact fun _ h => h
  | cons v ws ih =>
    intro t d h
    rw [State.putRun_cons]
    exact ih (d + 1) (h.setS d v b)

/-- Register `q` of a run holds the word of that number. -/
theorem State.putRun_reg (ws : List Word) : ∀ (s : State) (d q : Nat), q < ws.length → d + q ≠ 0 →
    (s.putRun s.cur d b ws).me.sval (d + q) = ws.getD q 0 ∧ (s.putRun s.cur d b ws).me.staint (d + q) = b := by
  induction ws with
  | nil => exact fun s d q hq => absurd hq (Nat.not_lt_zero q)
  | cons v ws ih =>
    intro s d q hq hne
    rw [State.putRun_cons]
    cases q with
    | zero =>
      have hkeeps := (State.putRun_frame (dS := runRegs (d + 1) ws.length) (dV := noReg) (dK := noReg) (b := b) ws (s.setS s.cur d v b)
        (d + 1) fun _ h => h).scalars d (by simp [runRegs]) rfl
      have hwritten := s.setS_reg d v b
      rw [Nat.add_zero] at hne
      rw [if_neg hne, if_neg hne] at hwritten
      exact ⟨hkeeps.1.trans hwritten.1, hkeeps.2.trans hwritten.2⟩
    | succ q =>
      have hlater := ih (s.setS s.cur d v b) (d + 1) q (Nat.lt_of_succ_lt_succ hq) (by omega)
      rwa [show d + 1 + q = d + (q + 1) by omega] at hlater

/-! ### A multiple load that is known at once -/

/-- The words that an LDM of `k` registers writes. -/
def pieceWords (ps : List Piece) (k : Nat) : List Word := (List.range k).map (pieceVal ps)

theorem State.finishAccess_ldm (u : State) (d k : Nat) (ps : List Piece) (settled : Bool) :
    u.finishAccess u.cur (.ldm d k) ps (if settled then none else some g) =
      (u.updMe (Thread.uses (regRun false d (pieceWords ps k).length))).putRun u.cur d (loadTaint settled g) (pieceWords ps k) := by
  cases settled <;> rfl

/-- A word of an LDM is the one its access of that number reads. -/
theorem pieceWords_getD {a : Word} {k q : Nat} (hz : zs.map Prod.fst = runAccesses a k) (hq : q < k) :
    (pieceWords (knownPieces zs vs) k).getD q 0 = BitVec.ofNat 64 (vs q) := by
  have hmem : (⟨q, a + BitVec.ofNat 64 (8 * q), 8, none⟩ : Access) ∈ zs.map Prod.fst :=
    hz ▸ List.mem_map.2 ⟨q, List.mem_range.2 hq, rfl⟩
  obtain ⟨z, hzs, hfst⟩ := List.mem_map.1 hmem
  have hget : (pieceWords (knownPieces zs vs) k).getD q 0 = pieceVal (knownPieces zs vs) q := by
    simp [pieceWords, List.getD_eq_getElem?_getD, hq]
  rw [hget, pieceVal_knownPieces ⟨z, hzs, congrArg Access.index hfst⟩]

/-- A change of tags alone leaves an issue as it was. -/
theorem TagsOnly.issued_run {os : List Opnd} (h : TagsOnly (s.readOut os).me u.me) : Issued s u 4 ∧ u.me.run = s.me.run := by
  have hissued := s.readOut_issued os
  obtain ⟨tags, age, hu⟩ := h
  refine ⟨⟨?_, ?_⟩, ?_⟩ <;> rw [hu]
  · exact hissued.pc
  · exact hissued.pfx
  · exact (s.readOut_frame os).run

section ldm
variable (hi : s.enterInstr .any .plain = .ok {})
  (ha : s.access .read [.s base n] [.s base n] (runAccesses (effAddr (s.x base) o 8) (c.toNat + 1)) = .ok zs)
include hi ha

theorem execLdm_next : exec (.ldm o c n base d) s =
    settle s (s.issueLoad [.s base n] zs (.ldm d.toNat (c.toNat + 1)) false) := by
  show execLdm o c n base d s = _
  simp only [execLdm, hi, ha, bind, Except.bind]

theorem ldm_known (hv : s.known zs vs) (hg : s.settledWays zs = true ∨ s.me.freeTag = some g) :
    Completes (.ldm o c n base d) s (fun t => t.mem = s.mem ∧ t.fifo = s.fifo ∧ Issued s t 4 ∧ t.me.run = s.me.run ∧
      ∀ q, q ≤ c.toNat → d.toNat + q ≠ 0 → t.me.sval (d.toNat + q) = BitVec.ofNat 64 (vs q) ∧
        t.me.staint (d.toNat + q) = loadTaint (s.settledWays zs) g) := by
  have hz := (State.access_ok ha).2
  have hnext := execLdm_next (d := d) hi ha
  obtain ⟨u, hu, hout, htags⟩ := State.issueLoad_known [.s base n] (.ldm d.toNat (c.toNat + 1)) hv hg
  obtain ⟨hissued, hrun⟩ := htags.issued_run
  rw [hu, State.finishAccess_ldm] at hnext
  have hlen : (pieceWords (knownPieces zs vs) (c.toNat + 1)).length = c.toNat + 1 := by simp [pieceWords]
  rw [hlen] at hnext
  have huse := u.uses_frame (dS := noReg) (dV := noReg) (dK := noReg) (regRun false d.toNat (c.toNat + 1))
  have hme := u.me_updMe (Thread.uses (regRun false d.toNat (c.toNat + 1)))
  rw [← State.updMe_cur u (Thread.uses (regRun false d.toNat (c.toNat + 1)))] at hnext
  generalize u.updMe (Thread.uses (regRun false d.toNat (c.toNat + 1))) = w at hnext huse hme
  have hwritten := State.putRun_frame (dS := fun _ => true) (dV := noReg) (dK := noReg) (b := loadTaint (s.settledWays zs) g)
    (pieceWords (knownPieces zs vs) (c.toNat + 1)) w d.toNat fun _ _ => rfl
  have hout' := hwritten.rest.trans (huse.rest.trans hout)
  have hw : Issued s w 4 := ⟨(congrArg Thread.pc hme).trans hissued.pc, (congrArg Thread.pfx hme).trans hissued.pfx⟩
  refine ⟨_, hnext, State.mem_of_outside hout', State.fifo_of_outside hout', hw.putRun _ _, hwritten.run.trans (huse.run.trans hrun),
    fun q hq hne => ?_⟩
  have hq' : q < c.toNat + 1 := Nat.lt_succ_of_le hq
  rw [← pieceWords_getD hz hq']
  exact State.putRun_reg _ w d.toNat q (hlen.symm ▸ hq') hne

theorem ldm_asks : AsksHomes (.ldm o c n base d) s zs := by
  intro g hhome hg
  obtain ⟨t, ht, hasked⟩ := State.issueLoad_asks (os := [.s base n]) (fin := .ldm d.toNat (c.toNat + 1)) hhome hg
  exact ⟨t, (execLdm_next hi ha).trans (congrArg (settle s) ht), hasked⟩

end ldm

/-- The sources of a STM: its base, then the registers it stores. -/
def stmSources (c : BitVec 3) (n : Bool) (base d : BitVec 5) : List Opnd :=
  .s base n :: (List.range (c.toNat + 1)).map (fun q => .s (BitVec.ofNat 5 (d.toNat + q)) false)

theorem execStm_next (hi : s.enterInstr .any .plain = .ok {})
    (ha : s.access .write (stmSources c n base d) (stmSources c n base d) (runAccesses (effAddr (s.x base) o 8) (c.toNat + 1)) = .ok zs) :
    exec (.stm o c n base d) s =
      .next (s.issueStore (stmSources c n base d) zs false (fun q => (s.me.sval (d.toNat + q)).toNat)) := by
  unfold stmSources at ha ⊢
  show execStm o c n base d s = _
  simp only [execStm, hi, ha, bind, Except.bind, settle]

/-- Settles O13: STM stores its words in order; LDM writes a run of registers, or asks for the words that it does not know. -/
theorem multipleResult : Obligations.MultipleResult := by
  intro s o c n b d zs a xs hi _
  exact ⟨fun ha => ⟨_, execStm_next hi ha, rfl, (s.issueStore_issued _ zs false _).1⟩,
    fun ha => ⟨fun vs g => ldm_known hi ha, ldm_asks hi ha⟩⟩

end Sys2Proof.Machine
end

section
/-!
## Atomics (12 R321, R336; 05 R143, R146)

The issue step of an atomic is a commit point, after which its one request follows the drained stores into the FIFO.
-/

namespace Sys2Proof.Machine
variable {s t : State} {i : Instr} {os : List Opnd} {p : Place} {p? : Option Place} {kind : ReqKind} {g bytes : Nat} {dbl : Bool}
  {a b d : BitVec 5} {m n z : Bool} {op : AtomOp}

/-! ### Before the issue step -/

theorem State.notCancelled_ok (h : s.me.cancel = false) : s.notCancelled = .ok () := by simp [State.notCancelled, h]

/-- What an atomic reads: its address, its operand, and for ACAS the value it compares with (12 R321). -/
def atomicSources (op : AtomOp) (m n : Bool) (b a d : BitVec 5) : List Opnd := rrOps m n b a ++ (if op = .acas then [.s d false] else [])

/-- The access of an atomic. -/
def atomicAccess (s : State) (z : Bool) (a : BitVec 5) : Access := { index := 0, addr := s.x a, width := if z then 8 else 4 }

/-- What an atomic asks of its home. -/
def atomicKind (s : State) (op : AtomOp) (z : Bool) (b d : BitVec 5) : ReqKind := .atomic op z (s.x b) (s.x d) s.me.mc

/-- What must hold before an atomic issues: it may run here, its address passes, and neither `mc` nor a cancel mark forbids it. -/
structure State.MayAtomic (s : State) (op : AtomOp) (amop z : Bool) (a : BitVec 5) (p? : Option Place) : Prop where
  enters : s.enterInstr .core .plain = .ok {}
  space : amop = true → (s.x a).toNat / 2 ^ 60 ≠ 12
  check : s.checkOne (atomicAccess s z a) = .ok p?
  single : op.single = true → s.me.mc ≤ 1
  cancel : s.me.cancel = false

section atomicOp
variable {amop : Bool} (h : s.MayAtomic op amop z a p?)
  (hp : s.readyOne .rmw (atomicSources op m n b a d) (atomicSources op m n b a d) (atomicAccess s z a) p? = .ok p)
include h hp

theorem atomicOp_eq : atomicOp s op amop z m n b a d = settle s
    (if amop && decide (d = 0) then .ok (s.issuePosted (atomicSources op m n b a d) p (atomicKind s op z b d))
    else s.me.needTag >>= fun g =>
      .ok (s.issueAtomic (atomicSources op m n b a d) p (atomicKind s op z b d) (atomicAccess s z a).width d z g)) := by
  obtain ⟨hi, hspace, hcheck, hsingle, hcancel⟩ := h
  have hlane : (if amop then notLane (s.x a) else .ok ()) = .ok () := by
    split
    · next hamop => exact notLane_ok (hspace hamop)
    · rfl
  have hmult : (op.single && decide (1 < s.me.mc)) = false := by
    cases hs : op.single with
    | false => rfl
    | true => simpa using hsingle hs
  unfold atomicSources atomicAccess at *
  simp only [atomicOp, hi, hlane, hcheck, hmult, State.notCancelled_ok hcancel, hp, bind, Except.bind, Bool.false_eq_true, if_false]
  rfl

theorem atomicOp_tagged (hd : amop = false ∨ d ≠ 0) (hg : s.me.freeTag = some g) : atomicOp s op amop z m n b a d =
    .next (s.issueAtomic (atomicSources op m n b a d) p (atomicKind s op z b d) (atomicAccess s z a).width d z g) := by
  have hposted : (amop && decide (d = 0)) = false := by
    rcases hd with hd | hd
    · rw [hd, Bool.false_and]
    · rw [decide_eq_false hd, Bool.and_false]
  rw [atomicOp_eq h hp, hposted, Thread.needTag_free hg]
  rfl

theorem atomicOp_posted (hamop : amop = true) (hd : d = 0) : atomicOp s op amop z m n b a d =
    .next (s.issuePosted (atomicSources op m n b a d) p (atomicKind s op z b d)) := by
  rw [atomicOp_eq h hp, hamop, decide_eq_true hd]
  rfl

end atomicOp

/-- What 12 R321 and R336 say of the issue of an atomic or AMOP. -/
def IssuesAtomic (s : State) (z : Bool) (b a d : BitVec 5) (p : Place) (p? : Option Place) (g : Nat) (i : Instr) (op : AtomOp) (amop : Bool)
    (os : List Opnd) : Prop :=
  s.readyOne .rmw os os (atomicAccess s z a) p? = .ok p →
  ((amop = false ∨ d ≠ 0) → s.me.freeTag = some g →
    exec i s = .next (s.issueAtomic os p (atomicKind s op z b d) (atomicAccess s z a).width d z g)) ∧
  (amop = true → d = 0 → exec i s = .next (s.issuePosted os p (atomicKind s op z b d)))

theorem atomicOp_issues {amop : Bool} (h : s.MayAtomic op amop z a p?) (he : exec i s = atomicOp s op amop z m n b a d) :
    IssuesAtomic s z b a d p p? g i op amop (atomicSources op m n b a d) := fun hp =>
  ⟨fun hd hg => he.trans (atomicOp_tagged h hp hd hg), fun hamop hd => he.trans (atomicOp_posted h hp hamop hd)⟩

/-! ### The issue step of a commit point (05 R146) -/

theorem State.me_readOut_fields (s : State) (os : List Opnd) : (s.readOut os).me.children = s.me.children ∧
    (s.readOut os).me.tcons = s.me.tcons ∧ (s.readOut os).me.hflag = s.me.hflag := by
  have hunread : (s.consume s.cur os).me.unread = s.me.unread := (s.consume_me os).rest
  have hall := congrArg (fun y : Thread => (y.children, y.tcons, y.hflag)) hunread
  simp only [Thread.unread, Prod.mk.injEq] at hall
  rw [State.readOut, State.me_retire]
  exact hall

/-- What the issue step of a commit point leaves, for a thread with no pending children and no TCONS holds. -/
structure CommitIssued (s t : State) : Prop where
  cur : t.cur = s.cur
  mem : t.mem = s.mem
  fifo : t.fifo = s.fifo ++ drainReqs s.cur s.me.rsb
  rsb : t.me.rsb = []
  storeCount : t.me.storeCount = s.me.storeCount + s.me.rsb.length
  pc : t.me.pc = s.me.pc + 4
  regpc : t.me.regpc = (s.me.pc + 4) &&& ~~~1#64
  pin : t.me.pin = s.me.hflag
  nextAge : t.me.nextAge = s.me.nextAge
  run : t.me.run = s.me.run
  releasing : s.me.releasing = [] → t.me.releasing = []

/-- The thread and the FIFOs after a commit point that has no children to release and no holds to end. -/
theorem State.commitPoint_fields (hc : s.me.children = []) (ht : s.me.tcons = []) (pc : Word) :
    (s.commitPoint s.cur pc).cur = s.cur ∧ (s.commitPoint s.cur pc).mem = s.mem ∧
      (s.commitPoint s.cur pc).fifo = s.fifo ++ drainReqs s.cur s.me.rsb ∧ (s.commitPoint s.cur pc).me = s.me.committed pc := by
  rw [State.commitPoint_eq hc ht]
  exact ⟨rfl, rfl, rfl, s.regionBegun_thread s.cur pc⟩

theorem State.issueCommit_issued (os : List Opnd) (hc : s.me.children = []) (ht : s.me.tcons = []) : CommitIssued s (s.issueCommit os) := by
  obtain ⟨hchildren, htcons, hhflag⟩ := s.me_readOut_fields os
  have hframe := s.readOut_frame os
  have hpc : (s.readOut os).me.pc = s.me.pc + 4 := (s.readOut_issued os).pc
  obtain ⟨-, -, hcount, -, hreleasing⟩ := Thread.pending_of_plain hframe.own
  have hrsb := Thread.rsb_of_plain hframe.own
  have hage := s.nextAge_readOut os
  have hcur := s.readOut_cur os
  obtain ⟨hcur', hmem, hfifo, hme⟩ := State.commitPoint_fields (hchildren.trans hc) (htcons.trans ht) (s.readOut os).me.pc
  change CommitIssued s ((s.readOut os).commitPoint (s.readOut os).cur (s.readOut os).me.pc)
  generalize (s.readOut os).commitPoint (s.readOut os).cur (s.readOut os).me.pc = t at hcur' hmem hfifo hme
  refine ⟨hcur'.trans hcur, hmem.trans (State.mem_of_outside hframe.rest), ?_, ?_, ?_, ?_, ?_, ?_, ?_, ?_, fun hr => ?_⟩
  case refine_1 => rw [hfifo, State.fifo_of_outside hframe.rest, hcur, hrsb]
  all_goals rw [hme]
  · rfl
  · exact congrArg₂ (· + ·) hcount (congrArg List.length hrsb)
  · exact hpc
  · exact congrArg (· &&& ~~~1#64) hpc
  · exact hhflag
  · exact hage
  · exact hframe.run
  · exact hreleasing hr

/-! ### The request of an atomic (05 R143) -/

/-- The thread of an atomic that waits for its reply under tag `g`. -/
def Thread.awaitingAtomic (g : Nat) (p : Place) (bytes : Nat) (d : BitVec 5) (dbl : Bool) (x : Thread) : Thread :=
  { x.takeTag g 1 [] [(p.home, lineOf p.loc)] with
    storeCount := x.storeCount + 1
    inflight := some ⟨some g, .atomic d.toNat true dbl, [⟨0, p, bytes, false, none⟩]⟩ }

/-- The ATOMIC request, under a tag or posted. -/
def atomicReq (t : Nat) (p : Place) (kind : ReqKind) (tag : Option Nat) : Req :=
  { src := .thread t, place := p, kind := kind, tag := tag, posted := tag.isNone }

theorem State.issueAtomic_eq : s.issueAtomic os p kind bytes d dbl g =
    (((s.issueCommit os).sends [atomicReq s.cur p kind (some g)]).updThread s.cur
      (Thread.awaitingAtomic g p bytes d dbl)).stop s.cur (.waiting .reply) := rfl

/-- A request that follows the drained stores, and counts as one more store. -/
theorem CommitIssued.posted (h : CommitIssued s t) (r : Req) :
    ((t.sends [r]).updThread s.cur Thread.storing).mem = s.mem ∧
      ((t.sends [r]).updThread s.cur Thread.storing).fifo = s.fifo ++ drainReqs s.cur s.me.rsb ++ [r] ∧
      ((t.sends [r]).updThread s.cur Thread.storing).me = t.me.storing := by
  refine ⟨h.mem, congrArg (· ++ [r]) h.fifo, ?_⟩
  rw [← h.cur]
  exact State.thread_updThread_same _ _ _

/-- The posted AMOP's request has entered its FIFO (12 R336). -/
def State.postAtomic (s : State) (os : List Opnd) (p : Place) (kind : ReqKind) : State :=
  ((s.issueCommit os).sends [atomicReq s.cur p kind none]).updThread s.cur Thread.storing

theorem State.issuePosted_eq : s.issuePosted os p kind =
    if s.waitsForWay p then (s.postAtomic os p kind).windowWait [({ index := 0, addr := 0, width := 8 }, p)]
    else (s.postAtomic os p kind).holdPush := rfl

/-- A thread that may have to wait, for a way or for its children, changes its run state alone. -/
theorem State.holdPush_me (s : State) : ∃ run, s.holdPush.me = { s.me with run := run } := by
  unfold State.holdPush
  split
  · exact ⟨s.me.run, rfl⟩
  · exact ⟨_, s.me_stop _⟩

theorem State.holdPush_outside (s : State) : s.holdPush.outside = s.outside := by
  unfold State.holdPush
  split <;> rfl

theorem State.issuePosted_waits : (s.issuePosted os p kind).mem = (s.postAtomic os p kind).mem ∧
    (s.issuePosted os p kind).fifo = (s.postAtomic os p kind).fifo ∧
    ∃ run, (s.issuePosted os p kind).me = { (s.postAtomic os p kind).me with run := run } := by
  rw [State.issuePosted_eq]
  split
  · exact ⟨State.windowWait_mem .., State.windowWait_fifo .., State.windowWait_me ..⟩
  · exact ⟨State.mem_of_outside (State.holdPush_outside _), State.fifo_of_outside (State.holdPush_outside _), State.holdPush_me _⟩

section commit
variable (hc : s.me.children = []) (ht : s.me.tcons = [])
include hc ht

theorem State.issueAtomic_effect (os : List Opnd) (p : Place) (kind : ReqKind) (bytes : Nat) (d : BitVec 5) (dbl : Bool) (g : Nat) :
    let t := s.issueAtomic os p kind bytes d dbl g
    t.fifo = s.fifo ++ drainReqs s.cur s.me.rsb ++ [atomicReq s.cur p kind (some g)] ∧
    t.me.rsb = [] ∧ t.me.storeCount = s.me.storeCount + s.me.rsb.length + 1 ∧ t.me.run = .waiting .reply ∧
    t.me.pc = s.me.pc + 4 ∧ t.me.regpc = (s.me.pc + 4) &&& ~~~1#64 ∧ t.me.pin = s.me.hflag ∧ t.mem = s.mem ∧
    NMap.get {} t.me.tags g = ⟨true, s.me.nextAge, 1, [], [(p.home, lineOf p.loc)]⟩ ∧
    t.me.inflight = some ⟨some g, .atomic d.toNat true dbl, [⟨0, p, bytes, false, none⟩]⟩ := by
  have h := State.issueCommit_issued os hc ht
  dsimp only
  rw [State.issueAtomic_eq]
  generalize s.issueCommit os = u at h ⊢
  have hme : ((((u.sends [atomicReq s.cur p kind (some g)]).updThread s.cur (Thread.awaitingAtomic g p bytes d dbl)).stop s.cur
      (.waiting .reply)).me) = { u.me.awaitingAtomic g p bytes d dbl with run := .waiting .reply } := by
    rw [← h.cur, State.me]
    exact (State.thread_stop ..).trans (by rw [State.thread_updThread_same]; rfl)
  rw [hme]
  refine ⟨congrArg (· ++ _) h.fifo, h.rsb, congrArg (· + 1) h.storeCount, rfl, h.pc, h.regpc, h.pin, h.mem, ?_, rfl⟩
  exact (NMap.get_set_same ..).trans (by rw [h.nextAge])

theorem State.issuePosted_effect (os : List Opnd) (p : Place) (kind : ReqKind) :
    let u := s.issuePosted os p kind
    u.fifo = s.fifo ++ drainReqs s.cur s.me.rsb ++ [atomicReq s.cur p kind none] ∧
    u.me.storeCount = s.me.storeCount + s.me.rsb.length + 1 ∧ u.me.pc = s.me.pc + 4 ∧ u.mem = s.mem ∧
    (s.me.releasing = [] → s.waitsForWay p = false → u.me.run = s.me.run) := by
  have h := State.issueCommit_issued os hc ht
  obtain ⟨hmem', hfifo', hme⟩ : (s.postAtomic os p kind).mem = s.mem ∧
      (s.postAtomic os p kind).fifo = s.fifo ++ drainReqs s.cur s.me.rsb ++ [atomicReq s.cur p kind none] ∧
      (s.postAtomic os p kind).me = (s.issueCommit os).me.storing := h.posted _
  obtain ⟨hmem, hfifo, run, hwait⟩ := State.issuePosted_waits (s := s) (os := os) (p := p) (kind := kind)
  have hposted := State.issuePosted_eq (s := s) (os := os) (p := p) (kind := kind)
  dsimp only
  generalize s.postAtomic os p kind = v at hmem' hfifo' hme hmem hfifo hwait hposted
  generalize s.issueCommit os = w at h hme
  refine ⟨hfifo.trans hfifo', ?_, ?_, hmem.trans hmem', fun hr hw => ?_⟩
  · rw [hwait, hme]
    exact congrArg (· + 1) h.storeCount
  · rw [hwait, hme]
    exact h.pc
  · have hstays : v.me.releasing = [] := by
      rw [hme]
      exact h.releasing hr
    rw [hposted, hw, if_neg Bool.false_ne_true, State.holdPush, if_pos hstays, hme]
    exact h.run

end commit

/-- Settles O16: the operations of an atomic and of an AMOP, those that an `mc` above 1 forbids apart, then the two issue steps. -/
theorem atomicResult : Obligations.AtomicResult := by
  refine ⟨fun s z m n b a d p p? g hi hcheck hcancel => ?_, fun s os p kind bytes d dbl g hc ht => ?_⟩
  · have hfree : ∀ {op : AtomOp}, op.single = false → op.single = true → s.me.mc ≤ 1 := fun h h' =>
      (Bool.false_ne_true (h.symm.trans h')).elim
    have atomic : ∀ (i : Instr) (op : AtomOp), (op.single = true → s.me.mc ≤ 1) → exec i s = atomicOp s op false z m n b a d →
        IssuesAtomic s z b a d p p? g i op false (atomicSources op m n b a d) := fun i op hsingle he =>
      atomicOp_issues ⟨hi, fun h => (Bool.false_ne_true h).elim, hcheck, hsingle, hcancel⟩ he
    have amop : ∀ (i : Instr) (op : AtomOp), (s.x a).toNat / 2 ^ 60 ≠ 12 → (op.single = true → s.me.mc ≤ 1) →
        exec i s = atomicOp s op true z m n b a d → IssuesAtomic s z b a d p p? g i op true (atomicSources op m n b a d) :=
      fun i op hspace hsingle he => atomicOp_issues ⟨hi, fun _ => hspace, hcheck, hsingle, hcancel⟩ he
    refine ⟨⟨?_, ?_, ?_, ?_, ?_, ?_, ?_, ?_, ?_, fun hmc => ⟨?_, ?_⟩⟩,
      fun hspace => ⟨?_, ?_, ?_, ?_, ?_, ?_, ?_, ?_, ?_, fun hmc => ⟨?_, ?_⟩⟩⟩
    · exact atomic _ .aadd (hfree rfl) rfl
    · exact atomic _ .afadd (hfree rfl) rfl
    · exact atomic _ .amin (hfree rfl) rfl
    · exact atomic _ .amax (hfree rfl) rfl
    · exact atomic _ .aminu (hfree rfl) rfl
    · exact atomic _ .amaxu (hfree rfl) rfl
    · exact atomic _ .aand (hfree rfl) rfl
    · exact atomic _ .aor (hfree rfl) rfl
    · exact atomic _ .axor (hfree rfl) rfl
    · exact atomic _ .aswap (fun _ => hmc) rfl
    · exact atomic _ .acas (fun _ => hmc) rfl
    · exact amop _ .aadd hspace (hfree rfl) rfl
    · exact amop _ .afadd hspace (hfree rfl) rfl
    · exact amop _ .amin hspace (hfree rfl) rfl
    · exact amop _ .amax hspace (hfree rfl) rfl
    · exact amop _ .aminu hspace (hfree rfl) rfl
    · exact amop _ .amaxu hspace (hfree rfl) rfl
    · exact amop _ .aand hspace (hfree rfl) rfl
    · exact amop _ .aor hspace (hfree rfl) rfl
    · exact amop _ .axor hspace (hfree rfl) rfl
    · exact amop _ .aswap hspace (fun _ => hmc) rfl
    · exact amop _ .acas hspace (fun _ => hmc) rfl
  · obtain ⟨hfifo, hrsb, hcount, hrun, hpc, hregpc, hpin, hmem, htag, hinflight⟩ :=
      State.issueAtomic_effect hc ht os p kind bytes d dbl g
    exact ⟨hfifo, hrsb, hcount, hrun, hpc, hregpc, hpin, hmem, htag, hinflight, State.issuePosted_effect hc ht os p kind⟩

end Sys2Proof.Machine
end

section
/-!
## The region store buffer and the scalar stores (12 R316; 05 R142, R144, R147)

A store in space 0x0 goes into the slot of its line. The bytes of a slot are said bit by bit: an overlay takes the bytes of its mask.
-/

namespace Sys2Proof.Machine
variable {s t u : State} {i : Instr} {os : List Opnd} {zs : List (Access × Place)} {z : Access × Place} {p : Place} {c : Slot}
  {rsb : List Slot} {direct : Bool} {val : Nat → Nat} {line off n v k : Nat}

/-! ### Bytes of a line -/

theorem mergeLine_bit (mask : BitVec 128) (x y : BitVec 1024) {j : Nat} (hj : j < 1024) (n : Nat) :
    (mergeLine mask x y n).getLsbD j = if j / 8 < n ∧ mask.getLsbD (j / 8) = true then x.getLsbD j else y.getLsbD j := by
  induction n with
  | zero => simp [mergeLine]
  | succ n ih =>
    have hbyte : (BitVec.ofNat 1024 (255 * 256 ^ n)).getLsbD j = decide (j / 8 = n) := by
      rw [show 255 * 256 ^ n = (2 ^ 8 - 1) * 2 ^ (8 * n) by rw [Nat.pow_mul]; rfl, BitVec.getLsbD_ofNat, Nat.testBit_mul_two_pow,
        Nat.testBit_two_pow_sub_one, decide_eq_true hj, Bool.true_and, ← Bool.decide_and]
      exact decide_eq_decide.2 (by omega)
    unfold mergeLine
    by_cases hm : mask.getLsbD n = true
    · rw [if_pos hm]
      simp only [BitVec.getLsbD_or, BitVec.getLsbD_and, BitVec.getLsbD_not, hbyte, ih, decide_eq_true hj, Bool.true_and]
      by_cases hn : j / 8 = n
      · subst hn
        simp [hm]
      · have hlt : j / 8 < n + 1 ↔ j / 8 < n := by omega
        simp [hn, hlt]
    · rw [if_neg hm, ih]
      by_cases hn : j / 8 = n
      · subst hn
        simp [hm]
      · have hlt : j / 8 < n + 1 ↔ j / 8 < n := by omega
        simp [hlt]

/-- An overlay takes the bytes of its mask from the first line, the others from the second. -/
theorem overlayLine_bit (mask : BitVec 128) (x y : BitVec 1024) {j : Nat} (hj : j < 1024) :
    (overlayLine mask x y).getLsbD j = if mask.getLsbD (j / 8) then x.getLsbD j else y.getLsbD j := by
  have hlt : j / 8 < 128 := by omega
  simp [overlayLine, mergeLine_bit mask x y hj, hlt]

theorem lineField_bit (data : BitVec 1024) (off n k : Nat) :
    (lineField data off n).testBit k = (decide (k < 8 * n) && data.getLsbD (8 * off + k)) := by
  have hpow : ∀ m, 256 ^ m = 2 ^ (8 * m) := fun m => by rw [Nat.pow_mul]
  rw [lineField, hpow, hpow, Nat.testBit_mod_two_pow, Nat.testBit_div_two_pow, Nat.add_comm k]
  rfl

theorem placeData_bit (h : 8 * off + k < 1024) : (placeData off v).getLsbD (8 * off + k) = v.testBit k := by
  rw [placeData, show 256 ^ off = 2 ^ (8 * off) by rw [Nat.pow_mul], BitVec.getLsbD_ofNat, Nat.testBit_mul_two_pow, decide_eq_true h,
    decide_eq_true (Nat.le_add_right _ _), Nat.add_sub_cancel_left]
  rfl

/-- Bytes that agree bit by bit. -/
theorem lineField_congr {x y : BitVec 1024} (h : ∀ k, k < 8 * n → x.getLsbD (8 * off + k) = y.getLsbD (8 * off + k)) :
    lineField x off n = lineField y off n := by
  refine Nat.eq_of_testBit_eq fun k => ?_
  rw [lineField_bit, lineField_bit]
  by_cases hk : k < 8 * n
  · rw [h k hk]
  · rw [decide_eq_false hk, Bool.false_and, Bool.false_and]

theorem lineField_placeData (h : off + n ≤ 128) : lineField (placeData off v) off n = v % 256 ^ n := by
  refine Nat.eq_of_testBit_eq fun k => ?_
  rw [lineField_bit, show 256 ^ n = 2 ^ (8 * n) by rw [Nat.pow_mul], Nat.testBit_mod_two_pow]
  by_cases hk : k < 8 * n
  · rw [placeData_bit (by omega)]
  · rw [decide_eq_false hk, Bool.false_and, Bool.false_and]

/-- Bytes under the mask are those of the value placed. -/
theorem lineField_overlay_placed (h : off + n ≤ 128) (y : BitVec 1024) :
    lineField (overlayLine (byteMask off n) (placeData off v) y) off n = v % 256 ^ n := by
  rw [← lineField_placeData h]
  refine lineField_congr fun k hk => ?_
  have hbyte : (8 * off + k) / 8 < 128 := by omega
  rw [overlayLine_bit _ _ _ (by omega), byteMask_bit hbyte, if_pos (decide_eq_true (by omega))]

/-- Bytes outside the mask stay. -/
theorem lineField_overlay_apart {mask : BitVec 128} (h : off + n ≤ 128) (hm : ∀ b, off ≤ b → b < off + n → mask.getLsbD b = false)
    (x y : BitVec 1024) : lineField (overlayLine mask x y) off n = lineField y off n := by
  refine lineField_congr fun k hk => ?_
  rw [overlayLine_bit _ _ _ (by omega), hm _ (by omega) (by omega), if_neg Bool.false_ne_true]

/-! ### One store into the buffer (05 R142) -/

/-- A slot takes a store of `n` bytes of `v` at `p`, where that is its line. -/
def Slot.taking (p : Place) (n v : Nat) (c : Slot) : Slot :=
  if c.line = lineOf p.loc then
    { c with mask := c.mask ||| byteMask (p.loc % 128) n, data := overlayLine (byteMask (p.loc % 128) n) (placeData (p.loc % 128) v) c.data,
             also := c.joined p }
  else c

/-- The new slot of a store. -/
def newSlot (p : Place) (n v : Nat) : Slot := ⟨lineOf p.loc, p, byteMask (p.loc % 128) n, placeData (p.loc % 128) v, []⟩

/-- The slot of a line among some slots. -/
def slotOf (rsb : List Slot) (line : Nat) : Option Slot := rsb.find? (fun c => c.line = line)

/-- The slots after a store that finds room among them. -/
def storeSlots (p : Place) (n v : Nat) (rsb : List Slot) : List Slot :=
  if (slotOf rsb (lineOf p.loc)).isSome then rsb.map (Slot.taking p n v) else rsb ++ [newSlot p n v]

/-- A thread's store goes into its slots. -/
def Thread.storeSlot (p : Place) (n v : Nat) (x : Thread) : Thread := { x with rsb := storeSlots p n v x.rsb }

theorem Thread.slotFor_eq (x : Thread) (line : Nat) : x.slotFor line = slotOf x.rsb line := rfl

/-- A store that needs a new slot where 32 are in use is preceded by an overflow drain (05 R147). -/
def State.slotRoom (s : State) (t line : Nat) : State :=
  if (slotOf (s.thread t).rsb line).isNone && decide (32 ≤ (s.thread t).rsb.length) then s.overflowDrain t else s

theorem State.overflowDrain_thread (s : State) (t : Nat) : (s.overflowDrain t).thread t =
    { s.thread t with rsb := [], storeCount := (s.thread t).storeCount + (s.thread t).rsb.length, pin := true } := by
  rw [State.overflowDrain, State.thread_updThread_same, State.drainRsb, State.thread_setThread_same]

theorem State.updThread_congr {f g : Thread → Thread} {t : Nat} (h : f (s.thread t) = g (s.thread t)) : s.updThread t f = s.updThread t g :=
  congrArg (s.setThread t) h

theorem State.rsbStore_eq (s : State) (t : Nat) (p : Place) (n v : Nat) :
    s.rsbStore t p n v = (s.slotRoom t (lineOf p.loc)).updThread t (Thread.storeSlot p n v) := by
  unfold State.rsbStore State.slotRoom
  simp only [Thread.slotFor_eq]
  cases h : slotOf (s.thread t).rsb (lineOf p.loc) with
  | some c =>
    refine State.updThread_congr ?_
    simp only [Thread.storeSlot, storeSlots, h, Option.isSome_some, if_true]
    rfl
  | none =>
    by_cases hfull : 32 ≤ (s.thread t).rsb.length
    · simp only [hfull, if_true, Option.isNone_none, decide_true, Bool.and_self]
      refine State.updThread_congr ?_
      rw [State.overflowDrain_thread]
      rfl
    · simp only [hfull, if_false, Option.isNone_none, decide_false, Bool.and_false, Bool.false_eq_true]
      refine State.updThread_congr ?_
      simp only [Thread.storeSlot, storeSlots, h, Option.isSome_none, Bool.false_eq_true, if_false]
      rfl

theorem State.slotRoom_fits {t : Nat} (h : (slotOf (s.thread t).rsb line).isSome ∨ (s.thread t).rsb.length < 32) :
    s.slotRoom t line = s := by
  refine if_neg ?_
  rcases h with h | h
  · rw [Option.isNone_eq_false_iff.2 h, Bool.false_and]
    exact Bool.false_ne_true
  · rw [decide_eq_false (by omega), Bool.and_false]
    exact Bool.false_ne_true

theorem State.slotRoom_full {t : Nat} (h : slotOf (s.thread t).rsb line = none) (hfull : 32 ≤ (s.thread t).rsb.length) :
    s.slotRoom t line = s.overflowDrain t := by
  rw [State.slotRoom, h, decide_eq_true hfull]
  rfl

/-! ### What a slot holds -/

/-- A slot holds the `n` bytes of `v` from byte `off` of its line. -/
structure Slot.Holds (c : Slot) (off n v : Nat) : Prop where
  mask : ∀ b, b < n → c.mask.getLsbD (off + b) = true
  data : lineField c.data off n = v

theorem Slot.taking_line (p : Place) (n v : Nat) (c : Slot) : (c.taking p n v).line = c.line := by
  unfold Slot.taking
  split <;> rfl

theorem slotOf_map_taking (rsb : List Slot) (line : Nat) :
    slotOf (rsb.map (Slot.taking p n v)) line = (slotOf rsb line).map (Slot.taking p n v) := by
  rw [slotOf, List.find?_map, slotOf]
  congr 2
  funext c
  exact congrArg (fun l => decide (l = line)) (c.taking_line p n v)

/-- The slot of a store's line after it. -/
theorem slotOf_storeSlots (p : Place) (n v : Nat) (rsb : List Slot) : slotOf (storeSlots p n v rsb) (lineOf p.loc) =
    some (match slotOf rsb (lineOf p.loc) with
      | some c => c.taking p n v
      | none => newSlot p n v) := by
  unfold storeSlots
  cases h : slotOf rsb (lineOf p.loc) with
  | some c =>
    rw [Option.isSome_some, if_pos rfl, slotOf_map_taking, h]
    rfl
  | none =>
    rw [Option.isSome_none, if_neg Bool.false_ne_true, slotOf, List.find?_append, ← slotOf, h]
    simp [newSlot]

/-- A store that stays within its line is held by the line's slot. -/
theorem storeSlots_holds (rsb : List Slot) (v : Nat) (h : p.loc % 128 + n ≤ 128) :
    ∃ c, slotOf (storeSlots p n v rsb) (lineOf p.loc) = some c ∧ c.Holds (p.loc % 128) n (v % 256 ^ n) := by
  have hmask : ∀ b, b < n → (byteMask (p.loc % 128) n).getLsbD (p.loc % 128 + b) = true := fun b hb => by
    rw [byteMask_bit (by omega)]
    exact decide_eq_true (by omega)
  refine ⟨_, slotOf_storeSlots p n v rsb, ?_⟩
  cases hslot : slotOf rsb (lineOf p.loc) with
  | some c =>
    have hline : c.line = lineOf p.loc := by simpa using List.find?_some hslot
    dsimp only
    rw [Slot.taking, if_pos hline]
    refine ⟨fun b hb => ?_, lineField_overlay_placed h c.data⟩
    rw [BitVec.getLsbD_or, hmask b hb, Bool.or_true]
  | none => exact ⟨hmask, lineField_placeData h⟩

/-- The bytes of two accesses lie apart. -/
def Apart (p : Place) (n : Nat) (q : Place) (m : Nat) : Prop :=
  lineOf p.loc ≠ lineOf q.loc ∨ p.loc + n ≤ q.loc ∨ q.loc + m ≤ p.loc

/-- A store to other bytes leaves what a slot holds. -/
theorem storeSlots_keeps {q : Place} {m w : Nat} (h : q.loc % 128 + m ≤ 128) (hapart : Apart p n q m)
    (hheld : ∃ c, slotOf rsb (lineOf q.loc) = some c ∧ c.Holds (q.loc % 128) m w) (v : Nat) :
    ∃ c, slotOf (storeSlots p n v rsb) (lineOf q.loc) = some c ∧ c.Holds (q.loc % 128) m w := by
  obtain ⟨c, hslot, hmask, hdata⟩ := hheld
  have hline : c.line = lineOf q.loc := by simpa using List.find?_some hslot
  unfold storeSlots
  split
  · refine ⟨c.taking p n v, by rw [slotOf_map_taking, hslot]; rfl, ?_⟩
    unfold Slot.taking
    split
    · next hsame =>
      refine ⟨fun b hb => by rw [BitVec.getLsbD_or, hmask b hb, Bool.true_or], ?_⟩
      rw [← hdata]
      refine lineField_overlay_apart h (fun b hlo hhi => ?_) _ _
      rw [byteMask_bit (by omega)]
      refine decide_eq_false ?_
      have hlines : p.loc / 128 = q.loc / 128 := hsame.symm.trans hline
      rcases hapart with hne | hapart
      · exact absurd hlines hne
      · omega
    · exact ⟨hmask, hdata⟩
  · refine ⟨c, ?_, hmask, hdata⟩
    rw [slotOf, List.find?_append, ← slotOf, hslot]
    rfl

theorem length_storeSlots (p : Place) (n v : Nat) (rsb : List Slot) : (storeSlots p n v rsb).length ≤ rsb.length + 1 := by
  unfold storeSlots
  split
  · rw [List.length_map]
    exact Nat.le_succ _
  · rw [List.length_append, List.length_singleton]

/-! ### The stores of one instruction (05 R144) -/

/-- Whether an access goes to its home's FIFO: outside space 0x0, and always for AMST. -/
def goesOut (direct : Bool) (z : Access × Place) : Bool := direct || decide (2 ^ 60 ≤ z.1.addr.toNat)

theorem inSpace0_eq (direct : Bool) (z : Access × Place) : (inSpace0 z.1.addr && !direct) = !goesOut direct z := by
  have hspace : inSpace0 z.1.addr = !decide (2 ^ 60 ≤ z.1.addr.toNat) := by
    rw [inSpace0, ← decide_not]
    exact decide_eq_decide.2 (by omega)
  rw [hspace, goesOut, Bool.not_or, Bool.and_comm]

theorem State.storeOne_out {t : Nat} (h : goesOut direct z = true) (v : Nat) :
    s.storeOne t z direct v = (s.sends [storeReq t z.2 z.1.width (v % 256 ^ z.1.width)]).updThread t Thread.storing := by
  rw [State.storeOne, inSpace0_eq, h]
  rfl

theorem State.storeOne_in {t : Nat} (h : goesOut direct z = false) (v : Nat) : s.storeOne t z direct v =
    (s.slotRoom t (lineOf z.2.loc)).updThread t (Thread.storeSlot z.2 z.1.width (v % 256 ^ z.1.width)) := by
  rw [State.storeOne, inSpace0_eq, h, ← State.rsbStore_eq]
  rfl

theorem goesOut_false (h : z.1.addr.toNat < 2 ^ 60) : goesOut false z = false := by
  rw [goesOut, Bool.false_or, decide_eq_false (by omega)]

theorem State.storeOne_mem (s : State) (t : Nat) (z : Access × Place) (direct : Bool) (v : Nat) :
    (s.storeOne t z direct v).mem = s.mem := by
  cases h : goesOut direct z with
  | true => rw [State.storeOne_out h]; rfl
  | false =>
    rw [State.storeOne_in h, State.updThread_mem, State.slotRoom]
    split <;> rfl

/-- The accesses of an instruction are stored one after another. -/
def State.storeAll (s : State) (zs : List (Access × Place)) (direct : Bool) (val : Nat → Nat) : State :=
  zs.foldl (fun s z => s.storeOne s.cur z direct (val z.1.index)) s

/-- What one instruction's stores leave where its new slots find room: the requests of those that go out, and a buffer that has grown by
one slot an access at most. -/
structure StoredInOrder (s u : State) (zs : List (Access × Place)) (direct : Bool) (val : Nat → Nat) : Prop where
  cur : u.cur = s.cur
  fifo : u.fifo = s.fifo ++ (zs.filter (goesOut direct)).map (fun z => storeReq s.cur z.2 z.1.width (val z.1.index % 256 ^ z.1.width))
  storeCount : u.me.storeCount = s.me.storeCount + (zs.filter (goesOut direct)).length
  room : u.me.rsb.length ≤ s.me.rsb.length + zs.length

theorem State.storeOne_inOrder (hroom : s.me.rsb.length < 32) (z : Access × Place) (direct : Bool) (val : Nat → Nat) :
    StoredInOrder s (s.storeOne s.cur z direct (val z.1.index)) [z] direct val := by
  cases h : goesOut direct z with
  | true =>
    have hme := (s.sends [storeReq s.cur z.2 z.1.width (val z.1.index % 256 ^ z.1.width)]).me_updMe Thread.storing
    rw [State.storeOne_out h]
    refine ⟨rfl, ?_, ?_, ?_⟩
    · simp [h]
    · rw [List.filter_cons_of_pos h]
      exact congrArg Thread.storeCount hme
    · exact (congrArg (fun x : Thread => x.rsb.length) hme).trans_le (Nat.le_succ _)
  | false =>
    have hme := s.me_updMe (Thread.storeSlot z.2 z.1.width (val z.1.index % 256 ^ z.1.width))
    rw [State.storeOne_in h, State.slotRoom_fits (.inr hroom)]
    refine ⟨rfl, ?_, ?_, ?_⟩
    · simp [h]
    · have hcount := congrArg Thread.storeCount hme
      rw [List.filter_cons_of_neg (by simp [h])]
      exact hcount
    · exact (congrArg (fun x : Thread => x.rsb.length) hme).trans_le (length_storeSlots ..)

theorem StoredInOrder.trans {ys : List (Access × Place)} (h : StoredInOrder s u ys direct val) (g : StoredInOrder u t zs direct val) :
    StoredInOrder s t (ys ++ zs) direct val where
  cur := g.cur.trans h.cur
  fifo := by rw [g.fifo, h.fifo, h.cur, List.filter_append, List.map_append, List.append_assoc]
  storeCount := by rw [g.storeCount, h.storeCount, List.filter_append, List.length_append, Nat.add_assoc]
  room := by
    have := h.room
    have := g.room
    rw [List.length_append]
    omega

theorem State.storeAll_inOrder (direct : Bool) (val : Nat → Nat) (zs : List (Access × Place)) : ∀ s : State,
    s.me.rsb.length + zs.length ≤ 32 → StoredInOrder s (s.storeAll zs direct val) zs direct val := by
  induction zs with
  | nil => exact fun s _ => ⟨rfl, (List.append_nil _).symm, rfl, Nat.le_refl _⟩
  | cons z zs ih =>
    intro s hroom
    rw [List.length_cons] at hroom
    have hfirst := State.storeOne_inOrder (s := s) (by omega) z direct val
    refine StoredInOrder.trans (ys := [z]) hfirst (ih _ ?_)
    have := hfirst.room
    rw [List.length_singleton] at this
    omega

/-- A thread's slot of `p`'s line holds `n` bytes of `v` at `p`. -/
def Thread.Buffers (x : Thread) (p : Place) (n v : Nat) : Prop := ∃ c, x.slotFor (lineOf p.loc) = some c ∧ c.Holds (p.loc % 128) n v

/-- A store in space 0x0 is in its slot, whatever the buffer held. -/
theorem State.storeOne_buffers {t : Nat} (hz : goesOut direct z = false) (h : z.2.loc % 128 + z.1.width ≤ 128) (v : Nat) :
    ((s.storeOne t z direct v).thread t).Buffers z.2 z.1.width (v % 256 ^ z.1.width) := by
  rw [State.storeOne_in hz, State.thread_updThread_same]
  have hheld := storeSlots_holds ((s.slotRoom t (lineOf z.2.loc)).thread t).rsb (v % 256 ^ z.1.width) h
  rwa [Nat.mod_mod] at hheld

/-- Its slot is the line's, and has the store's bytes in its mask where they stay within the line. -/
theorem State.storeOne_slot {t : Nat} (hz : goesOut direct z = false) (v : Nat) : ∃ c ∈ ((s.storeOne t z direct v).thread t).rsb,
    c.line = lineOf z.2.loc ∧
      ∀ b, b < z.1.width → z.2.loc % 128 + z.1.width ≤ 128 → c.mask.getLsbD (z.2.loc % 128 + b) = true := by
  obtain ⟨c, hslot⟩ : ∃ c, slotOf ((s.storeOne t z direct v).thread t).rsb (lineOf z.2.loc) = some c := by
    rw [State.storeOne_in hz, State.thread_updThread_same]
    exact ⟨_, slotOf_storeSlots ..⟩
  refine ⟨c, List.mem_of_find?_eq_some hslot, by simpa using List.find?_some hslot, fun b hb hline => ?_⟩
  obtain ⟨c', hslot', hheld⟩ := State.storeOne_buffers (s := s) (t := t) hz hline v
  obtain rfl : c = c' := Option.some.inj (hslot.symm.trans hslot')
  exact hheld.mask b hb

theorem State.storeOne_keeps_buffered {m w : Nat} (hroom : s.me.rsb.length < 32) (hp : p.loc % 128 + m ≤ 128)
    (hapart : goesOut direct z = false → Apart z.2 z.1.width p m) (hheld : s.me.Buffers p m w) (v : Nat) :
    (s.storeOne s.cur z direct v).me.Buffers p m w := by
  cases h : goesOut direct z with
  | true =>
    have hme := (s.sends [storeReq s.cur z.2 z.1.width (v % 256 ^ z.1.width)]).me_updMe Thread.storing
    rw [State.storeOne_out h]
    change ((s.sends [storeReq s.cur z.2 z.1.width (v % 256 ^ z.1.width)]).updMe Thread.storing).me.Buffers p m w
    rw [hme]
    exact hheld
  | false =>
    have hme := s.me_updMe (Thread.storeSlot z.2 z.1.width (v % 256 ^ z.1.width))
    rw [State.storeOne_in h, State.slotRoom_fits (.inr hroom)]
    change (s.updMe (Thread.storeSlot z.2 z.1.width (v % 256 ^ z.1.width))).me.Buffers p m w
    rw [hme]
    exact storeSlots_keeps hp (hapart h) hheld _

theorem State.storeAll_keeps_buffered {m w : Nat} (hp : p.loc % 128 + m ≤ 128) (direct : Bool) (val : Nat → Nat)
    (zs : List (Access × Place)) : ∀ s : State, s.me.rsb.length + zs.length ≤ 32 → (∀ q ∈ zs, goesOut direct q = false → Apart q.2 q.1.width p m) →
      s.me.Buffers p m w → (s.storeAll zs direct val).me.Buffers p m w := by
  induction zs with
  | nil => exact fun _ _ _ h => h
  | cons z zs ih =>
    intro s hroom hapart hheld
    rw [List.length_cons] at hroom
    have hfirst := (State.storeOne_inOrder (s := s) (by omega) z direct val).room
    rw [List.length_singleton] at hfirst
    refine ih (s.storeOne s.cur z direct (val z.1.index)) (by omega) (fun q hq => hapart q (List.mem_cons_of_mem z hq)) ?_
    exact State.storeOne_keeps_buffered (by omega) hp (hapart z List.mem_cons_self) hheld _

/-- Of several stores, one whose bytes no later one writes is in its slot at the end. -/
theorem State.storeAll_buffers {first later : List (Access × Place)} (hroom : s.me.rsb.length + (first ++ z :: later).length ≤ 32)
    (hz : goesOut direct z = false) (h : z.2.loc % 128 + z.1.width ≤ 128)
    (hapart : ∀ q ∈ later, goesOut direct q = false → Apart q.2 q.1.width z.2 z.1.width) :
    (s.storeAll (first ++ z :: later) direct val).me.Buffers z.2 z.1.width (val z.1.index % 256 ^ z.1.width) := by
  rw [List.length_append, List.length_cons] at hroom
  have hfirst := (State.storeAll_inOrder direct val first s (by omega)).room
  have hthis := State.storeOne_inOrder (s := s.storeAll first direct val) (by omega) z direct val
  have hroom' := hthis.room
  rw [List.length_singleton] at hroom'
  have hsplit : s.storeAll (first ++ z :: later) direct val =
      ((s.storeAll first direct val).storeOne (s.storeAll first direct val).cur z direct (val z.1.index)).storeAll later direct val :=
    List.foldl_append ..
  rw [hsplit]
  refine State.storeAll_keeps_buffered h direct val later _ (by omega) hapart ?_
  rw [State.me, hthis.cur]
  exact State.storeOne_buffers hz h _

/-! ### The issue step -/

/-- After its stores the instruction reads its sources, issues, and may wait for a way: none of that touches what it has stored. -/
theorem State.issueStore_stored (s : State) (os : List Opnd) (zs : List (Access × Place)) (direct : Bool) (val : Nat → Nat) :
    (s.issueStore os zs direct val).fifo = (s.storeAll zs direct val).fifo ∧
      (s.issueStore os zs direct val).me.rsb = (s.storeAll zs direct val).me.rsb ∧
      (s.issueStore os zs direct val).me.storeCount = (s.storeAll zs direct val).me.storeCount ∧
      (s.issueStore os zs direct val).me.pin = (s.storeAll zs direct val).me.pin := by
  have hcur : (s.storeAll zs direct val).cur = s.cur := (StoreKeeps.storeAll zs direct val s).cur
  have hissue : s.issueStore os zs direct val = ((s.storeAll zs direct val).readOut os).windowWait zs := by
    rw [State.readOut, hcur]
    rfl
  rw [hissue]
  generalize s.storeAll zs direct val = u
  have hframe := u.readOut_frame os
  have hpin : (u.readOut os).me.plain.pin = u.me.plain.pin := by rw [hframe.own]
  obtain ⟨-, -, hcount, -⟩ := Thread.pending_of_plain hframe.own
  obtain ⟨run, hwait⟩ := (u.readOut os).windowWait_me zs
  rw [hwait, State.windowWait_fifo]
  exact ⟨State.fifo_of_outside hframe.rest, Thread.rsb_of_plain hframe.own, hcount, hpin⟩

theorem State.issueStore_inOrder (os : List Opnd) (direct : Bool) (val : Nat → Nat) (hroom : s.me.rsb.length + zs.length ≤ 32) :
    let u := s.issueStore os zs direct val
    u.fifo = s.fifo ++ (zs.filter (goesOut direct)).map (fun z => storeReq s.cur z.2 z.1.width (val z.1.index % 256 ^ z.1.width)) ∧
      u.me.storeCount = s.me.storeCount + (zs.filter (goesOut direct)).length := by
  obtain ⟨hfifo, -, hcount, -⟩ := s.issueStore_stored os zs direct val
  have hstored := State.storeAll_inOrder direct val zs s hroom
  exact ⟨hfifo.trans hstored.fifo, hcount.trans hstored.storeCount⟩

theorem State.issueStore_buffers {first later : List (Access × Place)} (os : List Opnd) (val : Nat → Nat)
    (hroom : s.me.rsb.length + (first ++ z :: later).length ≤ 32) (hz : z.1.addr.toNat < 2 ^ 60) (h : z.2.loc % 128 + z.1.width ≤ 128)
    (hapart : ∀ q ∈ later, q.1.addr.toNat < 2 ^ 60 → Apart q.2 q.1.width z.2 z.1.width) :
    (s.issueStore os (first ++ z :: later) false val).me.Buffers z.2 z.1.width (val z.1.index % 256 ^ z.1.width) := by
  have hstored := State.storeAll_buffers (val := val) hroom (goesOut_false hz) h fun q hq hout => hapart q hq (by
    rw [goesOut, Bool.false_or, decide_eq_false_iff_not] at hout
    omega)
  obtain ⟨-, hrsb, -⟩ := s.issueStore_stored os (first ++ z :: later) false val
  unfold Thread.Buffers at hstored ⊢
  rwa [Thread.slotFor_eq, hrsb]

/-! ### The scalar stores (12 R316) -/

theorem storeOp_next {o : BitVec 10} {m n : Bool} {b d : BitVec 5} {bytes : Nat} (hi : s.enterInstr .any .plain = .ok {})
    (ha : s.access .write [.s b n, .s d m] [.s b n, .s d m] [{ index := 0, addr := effAddr (s.x b) o bytes, width := bytes }] = .ok zs) :
    storeOp s o m n b d bytes = .next (s.issueStore [.s b n, .s d m] zs false (fun _ => (s.x d).toNat)) := by
  simp only [storeOp, hi, ha, bind, Except.bind, settle]

section scalarStore
variable {x : Access} (he : exec i s = .next (s.issueStore os [(x, p)] false (fun _ => v)))
include he

/-- In space 0x0 with room the store goes into the buffer alone. -/
theorem scalarStore_fits (ha : x.addr.toNat < 2 ^ 60) (hroom : (s.me.slotFor (lineOf p.loc)).isSome ∨ s.me.rsb.length < 32) :
    Completes i s (fun t => t.mem = s.mem ∧ t.fifo = s.fifo ∧ Issued s t 4 ∧
      t.me.rsb = storeSlots p x.width (v % 256 ^ x.width) s.me.rsb) := by
  obtain ⟨hmem, hissued⟩ := s.issueStore_issued os [(x, p)] false (fun _ => v)
  obtain ⟨hfifo, hrsb, -⟩ := s.issueStore_stored os [(x, p)] false (fun _ => v)
  have hstore : s.storeAll [(x, p)] false (fun _ => v) = s.updMe (Thread.storeSlot p x.width (v % 256 ^ x.width)) :=
    (State.storeOne_in (goesOut_false ha) v).trans (by rw [State.slotRoom_fits hroom]; rfl)
  rw [hstore] at hfifo hrsb
  rw [State.me_updMe] at hrsb
  exact ⟨_, he, hmem, hfifo, hissued, hrsb⟩

/-- Where all slots are in use and none is the line's, the buffer drains first (05 R147). -/
theorem scalarStore_overflows (ha : x.addr.toNat < 2 ^ 60) (hslot : s.me.slotFor (lineOf p.loc) = none) (hfull : 32 ≤ s.me.rsb.length) :
    Completes i s (fun t => t.mem = s.mem ∧ t.fifo = s.fifo ++ drainReqs s.cur s.me.rsb ∧ Issued s t 4 ∧
      t.me.rsb = [newSlot p x.width (v % 256 ^ x.width)] ∧ t.me.pin = true ∧
      t.me.storeCount = s.me.storeCount + s.me.rsb.length) := by
  obtain ⟨hmem, hissued⟩ := s.issueStore_issued os [(x, p)] false (fun _ => v)
  obtain ⟨hfifo, hrsb, hcount, hpin⟩ := s.issueStore_stored os [(x, p)] false (fun _ => v)
  have hstore : s.storeAll [(x, p)] false (fun _ => v) = (s.overflowDrain s.cur).updMe (Thread.storeSlot p x.width (v % 256 ^ x.width)) :=
    (State.storeOne_in (goesOut_false ha) v).trans (by rw [State.slotRoom_full hslot hfull]; rfl)
  rw [hstore] at hfifo hrsb hcount hpin
  rw [State.me_updMe, State.me_overflowDrain] at hrsb hcount hpin
  exact ⟨_, he, hmem, hfifo, hissued, hrsb, hpin, hcount⟩

/-- In another space the store goes to its home's FIFO. -/
theorem scalarStore_out (ha : 2 ^ 60 ≤ x.addr.toNat) : Completes i s (fun t =>
    t.mem = s.mem ∧ Issued s t 4 ∧ t.me.rsb = s.me.rsb ∧ t.fifo = s.fifo ++ [storeReq s.cur p x.width (v % 256 ^ x.width)] ∧
      t.me.storeCount = s.me.storeCount + 1) := by
  obtain ⟨hmem, hissued⟩ := s.issueStore_issued os [(x, p)] false (fun _ => v)
  obtain ⟨hfifo, hrsb, hcount, -⟩ := s.issueStore_stored os [(x, p)] false (fun _ => v)
  have hout : goesOut false (x, p) = true := by rw [goesOut, Bool.false_or, decide_eq_true ha]
  have hstore : s.storeAll [(x, p)] false (fun _ => v) = (s.sends [storeReq s.cur p x.width (v % 256 ^ x.width)]).updMe Thread.storing :=
    State.storeOne_out hout v
  rw [hstore] at hfifo hrsb hcount
  rw [State.me_updMe] at hrsb hcount
  exact ⟨_, he, hmem, hissued, hrsb, hfifo, hcount⟩

end scalarStore

/-- What 12 R316 and 05 R142 say of a scalar store of the low bytes of `d`. -/
def ScalarStores (s : State) (p : Place) (o : BitVec 10) (m n : Bool) (b d : BitVec 5) (i : Instr) (bytes : Nat) : Prop :=
  let a : Word := s.x b + o.signExtend 64 * BitVec.ofNat 64 bytes
  let x : Access := { index := 0, addr := a, width := bytes }
  let w := (s.x d).toNat % 256 ^ bytes
  s.access .write [.s b n, .s d m] [.s b n, .s d m] [x] = .ok [(x, p)] →
  (a.toNat < 2 ^ 60 → (s.me.slotFor (lineOf p.loc)).isSome → Completes i s (fun t =>
    t.mem = s.mem ∧ t.fifo = s.fifo ∧ Issued s t 4 ∧ t.me.rsb = s.me.rsb.map (Slot.taking p bytes w))) ∧
  (a.toNat < 2 ^ 60 → s.me.slotFor (lineOf p.loc) = none → s.me.rsb.length < 32 → Completes i s (fun t =>
    t.mem = s.mem ∧ t.fifo = s.fifo ∧ Issued s t 4 ∧ t.me.rsb = s.me.rsb ++ [newSlot p bytes w])) ∧
  (a.toNat < 2 ^ 60 → s.me.slotFor (lineOf p.loc) = none → 32 ≤ s.me.rsb.length → Completes i s (fun t =>
    t.mem = s.mem ∧ t.fifo = s.fifo ++ drainReqs s.cur s.me.rsb ∧ Issued s t 4 ∧ t.me.rsb = [newSlot p bytes w] ∧
      t.me.pin = true ∧ t.me.storeCount = s.me.storeCount + s.me.rsb.length)) ∧
  (2 ^ 60 ≤ a.toNat → Completes i s (fun t =>
    t.mem = s.mem ∧ Issued s t 4 ∧ t.me.rsb = s.me.rsb ∧ t.fifo = s.fifo ++ [storeReq s.cur p bytes w] ∧
      t.me.storeCount = s.me.storeCount + 1))

theorem storeOp_stores {o : BitVec 10} {m n : Bool} {b d : BitVec 5} {bytes : Nat} (hi : s.enterInstr .any .plain = .ok {})
    (he : exec i s = storeOp s o m n b d bytes) : ScalarStores s p o m n b d i bytes := by
  intro ha
  rw [storeOp_next hi ha] at he
  refine ⟨fun hin hslot => ?_, fun hin hslot hroom => ?_, fun hin => scalarStore_overflows he hin, fun hout => scalarStore_out he hout⟩
  · have hstored := scalarStore_fits he hin (.inl hslot)
    rwa [storeSlots, if_pos (show (slotOf s.me.rsb (lineOf p.loc)).isSome = true from hslot)] at hstored
  · have hstored := scalarStore_fits he hin (.inr hroom)
    rwa [storeSlots, show slotOf s.me.rsb (lineOf p.loc) = none from hslot, Option.isSome_none, if_neg Bool.false_ne_true] at hstored

/-- Settles O12: the four widths of a scalar store, then what one store and the stores of one instruction leave. -/
theorem scalarStoreResult : Obligations.ScalarStoreResult := by
  refine ⟨fun s o m n b d p hi => ⟨?_, ?_, ?_, ?_⟩, fun s t z direct v =>
    ⟨s.storeOne_mem t z direct v, fun os zs => ?_, fun hz hd => ?_, fun os zs val hroom => ?_⟩⟩
  · exact storeOp_stores hi rfl
  · exact storeOp_stores hi rfl
  · exact storeOp_stores hi rfl
  · exact storeOp_stores hi rfl
  · exact (s.issueStore_issued os zs direct _).1
  · subst hd
    exact State.storeOne_slot (goesOut_false hz) v
  · obtain ⟨hfifo, hcount⟩ := State.issueStore_inOrder os direct val hroom
    refine ⟨hfifo, hcount, (s.issueStore_issued os zs direct val).2, fun first later y hzs hd hy hline hapart => ?_⟩
    subst hzs hd
    obtain ⟨c, hslot, hmask, hdata⟩ := State.issueStore_buffers os val hroom hy hline hapart
    exact ⟨c, hslot, hmask, hdata⟩

end Sys2Proof.Machine
end

section
/-!
## Barriers (12 R326 to R328; 06 R169)

A barrier's issue step waits for the thread to be Drained. Its arrival then parks the thread, or completes the barrier: every arrived
thread goes on, one after another, each as it would alone.
-/

namespace Sys2Proof.Machine
variable {s t : State} {u v : Nat} {a : Arrival} {as l : List Arrival}

/-! ### The issue step -/

/-- The arrival of an issuing thread. -/
def arrivalOf (s : State) (kind : Nat) (dbl : Bool) (rs : List (BitVec 5 × Bool)) (a b d : BitVec 5) : Arrival :=
  { launch := s.me.launch, group := s.x a, t := s.cur, kind := kind, dbl := dbl, d := d.toNat, val := s.x b, mc := s.me.mc,
    unmap := lastOf rs }

/-- The sources of a barrier. -/
def barrierSources (rs : List (BitVec 5 × Bool)) : List Opnd := rs.map (fun p => .s p.1 p.2)

theorem barrierOp_next {kind : Nat} {dbl : Bool} {rs : List (BitVec 5 × Bool)} {a b d : BitVec 5}
    (hi : s.enterInstr .core .plain = .ok {}) (hg : groupLegal s.me.rect (coreOf s.cur) (s.x a) = true) (hc : s.me.cancel = false)
    (hs : spilledOf s.me (barrierSources rs) = none) : barrierOp s kind dbl rs a b d =
      .next (((s.reads (barrierSources rs)).beginCommit (.barrier (arrivalOf s kind dbl rs a b d))).awaitDrained s.cur) := by
  unfold barrierSources at hs ⊢
  simp only [barrierOp, hi, hg, State.notCancelled_ok hc, State.refilled_ok hs, bind, Except.bind, if_true, settle]
  rfl

theorem lastOf_one (a : BitVec 5) (n : Bool) : lastOf [(a, n)] = if n then [a] else [] := by cases n <;> rfl

theorem lastOf_two (a b : BitVec 5) (n m : Bool) : lastOf [(a, n), (b, m)] = (if n then [a] else []) ++ (if m then [b] else []) := by
  cases n <;> cases m <;> rfl

/-! ### What a thread that goes on past a barrier takes with it (12 R327) -/

theorem SameThread.kept {x y : Thread} (h : SameThread x y) : y.pc = x.pc ∧ y.run = x.run ∧ (x.releasing = [] → y.releasing = []) :=
  ⟨(KeptRest.of_bare h.rest).pc, (KeptRest.of_bare h.rest).run, (Thread.pending_of_plain (Thread.plain_of_bare h.rest)).2.2.2.2⟩

/-- The barrier's result is in the destination of an arrival that has one, and in its checkpoint (18 R428). -/
def State.takeResult (s : State) (as : List Arrival) (a : Arrival) : State :=
  if a.kind = 0 then s else (s.setS a.t a.d (barrierResult as a) 0).updThread a.t (fun x => x.ckptS a.d)

/-- From `s` to `t` only thread `u` has changed any value, and neither memory nor a cluster has. -/
structure OnlyThread (s t : State) (u : Nat) : Prop where
  others : ∀ v, v ≠ u → SameThread (s.thread v) (t.thread v)
  mem : t.mem = s.mem
  clusters : t.clusters = s.clusters
  cur : t.cur = s.cur

theorem OnlyThread.refl (s : State) (u : Nat) : OnlyThread s s u := ⟨fun _ _ => .refl _, rfl, rfl, rfl⟩

theorem OnlyThread.trans {w : State} (h : OnlyThread s w u) (g : OnlyThread w t u) : OnlyThread s t u where
  others v hv := (h.others v hv).trans (g.others v hv)
  mem := g.mem.trans h.mem
  clusters := g.clusters.trans h.clusters
  cur := g.cur.trans h.cur

theorem State.clusters_of_outside (h : t.outside = s.outside) : t.clusters = s.clusters := by
  show t.outside.clusters = s.outside.clusters
  rw [h]

theorem State.updThread_only (s : State) (u : Nat) (f : Thread → Thread) : OnlyThread s (s.updThread u f) u :=
  ⟨fun v hv => by rw [State.thread_updThread_ne _ _ _ _ hv]; exact .refl _, rfl, rfl, rfl⟩

theorem State.setS_only (s : State) (u r : Nat) (w : Word) (b : BitVec 8) : OnlyThread s (s.setS u r w b) u :=
  have hout := s.setS_outside u r w b
  ⟨s.setS_other u r w b, State.mem_of_outside hout, State.clusters_of_outside hout, State.cur_of_outside hout⟩

theorem State.wake_only (s : State) (u : Nat) : OnlyThread s (s.wake u) u :=
  ⟨fun v hv => by rw [State.wake_other hv]; exact .refl _, s.wake_mem u, s.wake_clusters u, s.wake_cur u⟩

theorem State.takeResult_only (s : State) (as : List Arrival) (a : Arrival) : OnlyThread s (s.takeResult as a) a.t := by
  unfold State.takeResult
  split
  · exact .refl s a.t
  · exact (s.setS_only a.t a.d (barrierResult as a) 0).trans (State.updThread_only _ _ _)

/-- A checkpoint that takes a register changes nothing else of its thread. -/
theorem Thread.ckptS_eq (x : Thread) (d : Nat) : ∃ c, x.ckptS d = { x with ckpt := c } := by
  unfold Thread.ckptS
  split
  · exact ⟨x.ckpt, rfl⟩
  · exact ⟨_, rfl⟩

theorem State.takeResult_thread (s : State) (as : List Arrival) (a : Arrival) :
    ((s.takeResult as a).thread a.t).pc = (s.thread a.t).pc ∧ ((s.takeResult as a).thread a.t).run = (s.thread a.t).run ∧
      ((s.thread a.t).releasing = [] → ((s.takeResult as a).thread a.t).releasing = []) ∧
      (a.kind ≠ 0 → ((s.takeResult as a).thread a.t).sval a.d = if a.d = 0 then 0 else barrierResult as a) := by
  unfold State.takeResult
  split
  · next h => exact ⟨rfl, rfl, id, fun h' => absurd h h'⟩
  · obtain ⟨-, -, hkept⟩ := s.setS_keeps a.t a.d (barrierResult as a) 0
    obtain ⟨c, hc⟩ := ((s.setS a.t a.d (barrierResult as a) 0).thread a.t).ckptS_eq a.d
    rw [State.thread_updThread_same, hc]
    exact ⟨hkept.pc, hkept.run, (Thread.pending_of_plain hkept.plain).2.2.2.2, fun _ => s.sval_setS ..⟩

/-- An arrival that may go on at once: it unmaps nothing, its thread has no children to place, and no pre-emption has stopped it. -/
structure State.CanLeave (s : State) (a : Arrival) : Prop where
  unmap : a.unmap = []
  releasing : (s.thread a.t).releasing = []
  run : (s.thread a.t).run ≠ .waiting .preempt

theorem State.releaseBarrier_eq (h : s.CanLeave a) (as : List Arrival) : s.releaseBarrier as a =
    ((s.takeResult as a).updThread a.t (fun x => { x with pc := x.pc + 4 })).wake a.t := by
  have hrun := (s.takeResult_thread as a).2.1
  have hs0 : s.unmapAt a.t a.unmap = s := by rw [h.unmap]; rfl
  unfold State.releaseBarrier
  rw [hs0]
  exact if_neg (hrun.trans_ne h.run)

/-- Thread `b.t` has gone on past its barrier with the result of `as` (12 R327). -/
structure Left (s t : State) (as : List Arrival) (b : Arrival) : Prop where
  run : (t.thread b.t).run = .ready
  pc : (t.thread b.t).pc = (s.thread b.t).pc + 4
  sval : b.kind ≠ 0 → (t.thread b.t).sval b.d = if b.d = 0 then 0 else barrierResult as b

theorem State.releaseBarrier_left (h : s.CanLeave a) (as : List Arrival) :
    Left s (s.releaseBarrier as a) as a ∧ OnlyThread s (s.releaseBarrier as a) a.t := by
  obtain ⟨hpc, -, hreleasing, hsval⟩ := s.takeResult_thread as a
  have hthread := ((s.takeResult as a).updThread a.t (fun x => { x with pc := x.pc + 4 })).wake_thread a.t
  rw [State.thread_updThread_same, if_pos (hreleasing h.releasing)] at hthread
  rw [State.releaseBarrier_eq h]
  have honly := ((s.takeResult_only as a).trans (State.updThread_only _ a.t (fun x => { x with pc := x.pc + 4 }))).trans
    (State.wake_only _ a.t)
  refine ⟨⟨?_, ?_, fun hk => ?_⟩, honly⟩ <;> rw [hthread]
  · exact congrArg (· + 4) hpc
  · exact hsval hk

theorem State.CanLeave.congr (h : s.CanLeave a) (hx : SameThread (s.thread a.t) (t.thread a.t)) : t.CanLeave a :=
  have hkept := hx.kept
  ⟨h.unmap, hkept.2.2 h.releasing, hkept.2.1.trans_ne h.run⟩

/-- From `s` to `t` threads of `ts` alone have changed, and neither memory nor a cluster has. -/
structure OnlyThreads (s t : State) (ts : List Nat) : Prop where
  others : ∀ v, v ∉ ts → SameThread (s.thread v) (t.thread v)
  mem : t.mem = s.mem
  clusters : t.clusters = s.clusters

theorem OnlyThread.cons {w : State} {ts : List Nat} (h : OnlyThread s w u) (g : OnlyThreads w t ts) : OnlyThreads s t (u :: ts) where
  others v hv := by
    rw [List.mem_cons, not_or] at hv
    exact (h.others v hv.1).trans (g.others v hv.2)
  mem := g.mem.trans h.mem
  clusters := g.clusters.trans h.clusters

theorem Left.congr {w : State} {b : Arrival} (h : Left s w as b) (hx : SameThread (w.thread b.t) (t.thread b.t)) : Left s t as b :=
  ⟨hx.kept.2.1.trans h.run, hx.kept.1.trans h.pc, fun hk => (hx.sval b.d).trans (h.sval hk)⟩

/-- Threads that go on one after another each go on as they would alone. -/
theorem State.releaseAll_left (as l : List Arrival) : ∀ s : State, (l.map (·.t)).Nodup → (∀ b ∈ l, s.CanLeave b) →
    (∀ b ∈ l, Left s (l.foldl (fun s b => s.releaseBarrier as b) s) as b) ∧
      OnlyThreads s (l.foldl (fun s b => s.releaseBarrier as b) s) (l.map (·.t)) := by
  induction l with
  | nil => exact fun s _ _ => ⟨fun b hb => (List.not_mem_nil hb).elim, ⟨fun _ _ => .refl _, rfl, rfl⟩⟩
  | cons a l ih =>
    intro s hnodup hcan
    rw [List.map_cons, List.nodup_cons] at hnodup
    obtain ⟨hleft, honly⟩ := State.releaseBarrier_left (hcan a List.mem_cons_self) as
    have hne : ∀ b ∈ l, b.t ≠ a.t := fun b hb he => hnodup.1 (he ▸ List.mem_map_of_mem hb)
    obtain ⟨hlater, honly'⟩ := ih (s.releaseBarrier as a) hnodup.2 fun b hb =>
      (hcan b (List.mem_cons_of_mem a hb)).congr (honly.others b.t (hne b hb))
    refine ⟨fun b hb => ?_, honly.cons honly'⟩
    rcases List.mem_cons.1 hb with rfl | hb
    · exact hleft.congr (honly'.others b.t hnodup.1)
    · have hpc := (honly.others b.t (hne b hb)).kept.1
      exact ⟨(hlater b hb).run, (hlater b hb).pc.trans (congrArg (· + 4) hpc), (hlater b hb).sval⟩

/-! ### An arrival (12 R326, R327) -/

/-- Whether an arrival is at the barrier of a launch's group. -/
def atBarrier (launch : Nat) (group : Word) (b : Arrival) : Bool := decide (b.launch = launch) && decide (b.group = group)

/-- An arrival is registered, and its thread parks. -/
def State.arrives (s : State) (u : Nat) (a : Arrival) : State :=
  ((s.updThread u (fun x => { x with stage := none })).updCluster (groupHome a.group) (fun c => { c with
    arrivals := c.arrivals ++ [{ a with mc := (s.thread u).mc }] })).stop u (.parked .barrier)

theorem State.arrives_thread (s : State) (u : Nat) (a : Arrival) :
    (s.arrives u a).thread u = { s.thread u with stage := none, run := .parked .barrier } := by
  rw [State.arrives, State.thread_stop, State.thread_updCluster, State.thread_updThread_same]

theorem State.arrives_other (a : Arrival) (hv : v ≠ u) : (s.arrives u a).thread v = s.thread v := by
  rw [State.arrives, State.stop_other _ _ _ _ hv, State.thread_updCluster, State.thread_updThread_ne _ _ _ _ hv]

theorem State.arrives_cluster (s : State) (u : Nat) (a : Arrival) : (s.arrives u a).cluster (groupHome a.group) =
    { s.cluster (groupHome a.group) with arrivals := (s.cluster (groupHome a.group)).arrivals ++ [{ a with mc := (s.thread u).mc }] } := by
  rw [State.arrives, State.cluster_congr (State.stop_clusters ..), State.cluster_updCluster_same]
  rfl

theorem State.arrives_members (a : Arrival) (launch : Nat) (group : Word) (hv : v ≠ u) :
    v ∈ (s.arrives u a).members launch group ↔ v ∈ s.members launch group := by
  simp only [State.members, List.mem_filter, State.arrives_other a hv]

theorem State.arrives_pc (s : State) (u : Nat) (a : Arrival) (v : Nat) : ((s.arrives u a).thread v).pc = (s.thread v).pc := by
  by_cases hv : v = u
  · rw [hv, State.arrives_thread]
  · rw [State.arrives_other a hv]

/-- What may leave a barrier may still leave it after an arrival, the thread that parked among it. -/
theorem State.CanLeave.arrives {b : Arrival} (h : s.CanLeave b) (u : Nat) (a : Arrival) : (s.arrives u a).CanLeave b := by
  obtain ⟨hunmap, hreleasing, hrun⟩ := h
  by_cases hbu : b.t = u
  · have hthread := s.arrives_thread u a
    rw [← hbu] at hthread
    refine ⟨hunmap, ?_, ?_⟩ <;> rw [← hbu, hthread]
    · exact hreleasing
    · exact fun e => by cases e
  · have hthread := State.arrives_other (s := s) a hbu
    refine ⟨hunmap, ?_, ?_⟩ <;> rw [hthread]
    · exact hreleasing
    · exact hrun

/-- A thread that waits Drained with its arrival pending. -/
structure State.Arrives (s : State) (u : Nat) (a : Arrival) : Prop where
  stage : (s.thread u).stage = some (.barrier a)
  run : (s.thread u).run = .waiting .drained
  drained : (s.thread u).drained = true

theorem exec_barrierArrival (h : s.Arrives u a) :
    exec (.barrierArrival u) s = .next ((s.arrives u a).checkBarrier (groupHome a.group) a.launch a.group) := by
  show execBarrierArrival u s = _
  simp only [execBarrierArrival, h.stage, h.run, h.drained, decide_true, Bool.and_self, if_true]
  rfl

section check
variable {cl launch : Nat} {group : Word} (hw : (s.cluster cl).withdrawn = [])
include hw

theorem State.withdrawnNow_nil : s.withdrawnNow cl = [] := by rw [State.withdrawnNow, hw, ite_self]

/-- The arrivals at a barrier leave their cluster. -/
def State.clearArrivals (s : State) (cl launch : Nat) (group : Word) : State :=
  s.updCluster cl (fun c => { c with arrivals := c.arrivals.filter (fun a => !atBarrier launch group a)
                                     withdrawn := c.withdrawn.filter (fun a => !atBarrier launch group a) })

/-- With no arrival withdrawn a barrier completes when every member is among those that have arrived. -/
theorem State.checkBarrier_eq (has : (s.cluster cl).arrivals.filter (atBarrier launch group) = as) : s.checkBarrier cl launch group =
    if as = [] || s.savedMember launch group || !(s.members launch group).all (fun t => as.any (fun a => a.t = t)) then s
    else as.foldl (fun s b => s.releaseBarrier as b) (s.clearArrivals cl launch group) := by
  unfold State.checkBarrier
  rw [State.withdrawnNow_nil hw]
  simp only [List.filter_nil, List.append_nil]
  rw [← has]
  rfl

/-- While a member has not arrived a barrier stays as it is. -/
theorem State.checkBarrier_waits (has : (s.cluster cl).arrivals.filter (atBarrier launch group) = as) (hv : v ∈ s.members launch group)
    (hv' : v ∉ as.map (·.t)) : s.checkBarrier cl launch group = s := by
  have hall : (s.members launch group).all (fun t => as.any (fun a => a.t = t)) = false := by
    refine List.all_eq_false.2 ⟨v, hv, fun h => hv' ?_⟩
    obtain ⟨b, hb, he⟩ := List.any_eq_true.1 h
    exact List.mem_map.2 ⟨b, hb, of_decide_eq_true he⟩
  rw [State.checkBarrier_eq hw has, hall, Bool.not_false, Bool.or_true, if_pos rfl]

/-- With every member arrived it completes. -/
theorem State.checkBarrier_completes (has : (s.cluster cl).arrivals.filter (atBarrier launch group) = as) (hne : as ≠ [])
    (hsaved : s.savedMember launch group = false) (hall : ∀ v ∈ s.members launch group, v ∈ as.map (·.t)) :
    s.checkBarrier cl launch group = as.foldl (fun s b => s.releaseBarrier as b) (s.clearArrivals cl launch group) := by
  have hall' : (s.members launch group).all (fun t => as.any (fun a => a.t = t)) = true := by
    refine List.all_eq_true.2 fun v hv => ?_
    obtain ⟨b, hb, he⟩ := List.mem_map.1 (hall v hv)
    exact List.any_eq_true.2 ⟨b, hb, decide_eq_true he⟩
  rw [State.checkBarrier_eq hw has, hall', hsaved, decide_eq_false hne]
  rfl

end check

/-- The arrivals at a barrier once thread `u`'s is registered. -/
def State.arrived (s : State) (u : Nat) (a : Arrival) : List Arrival :=
  (s.cluster (groupHome a.group)).arrivals.filter (atBarrier a.launch a.group) ++ [{ a with mc := (s.thread u).mc }]

theorem atBarrier_own (a : Arrival) (n : Nat) : atBarrier a.launch a.group { a with mc := n } = true := by
  rw [atBarrier, decide_eq_true rfl, decide_eq_true rfl]
  rfl

theorem State.arrives_filter (s : State) (u : Nat) (a : Arrival) :
    ((s.arrives u a).cluster (groupHome a.group)).arrivals.filter (atBarrier a.launch a.group) = s.arrived u a := by
  rw [State.arrives_cluster, List.filter_append, List.filter_cons_of_pos (atBarrier_own a _)]
  rfl

/-- The other arrivals at its cluster when a barrier completes. -/
theorem State.arrives_others (s : State) (u : Nat) (a : Arrival) :
    ((s.arrives u a).cluster (groupHome a.group)).arrivals.filter (fun b => !atBarrier a.launch a.group b) =
      (s.cluster (groupHome a.group)).arrivals.filter (fun b => !atBarrier a.launch a.group b) := by
  rw [State.arrives_cluster]
  simp only [List.filter_append, List.filter_cons, List.filter_nil, atBarrier_own, Bool.not_true, Bool.false_eq_true, if_false,
    List.append_nil]

theorem State.arrives_withdrawn (hw : (s.cluster (groupHome a.group)).withdrawn = []) :
    ((s.arrives u a).cluster (groupHome a.group)).withdrawn = [] := by
  rw [State.arrives_cluster]
  exact hw

section arrival
variable (h : s.Arrives u a) (ht : a.t = u) (hw : (s.cluster (groupHome a.group)).withdrawn = [])
include h ht hw

/-- The thread parks while a member has not arrived (12 R327). -/
theorem barrierArrival_parks (hv : v ∈ s.members a.launch a.group) (hne : v ≠ u)
    (hv' : v ∉ ((s.cluster (groupHome a.group)).arrivals.filter (atBarrier a.launch a.group)).map (·.t)) :
    Completes (.barrierArrival u) s (fun t =>
      (t.thread u).run = .parked .barrier ∧ (t.thread u).pc = (s.thread u).pc ∧ t.mem = s.mem ∧
      (t.cluster (groupHome a.group)).arrivals = (s.cluster (groupHome a.group)).arrivals ++ [{ a with mc := (s.thread u).mc }]) := by
  have habsent : v ∉ (s.arrived u a).map (·.t) := by
    rw [State.arrived, List.map_append, List.mem_append, not_or]
    refine ⟨hv', fun hmem => hne ?_⟩
    rw [List.map_singleton, List.mem_singleton, ht] at hmem
    exact hmem
  have hwaits := State.checkBarrier_waits (State.arrives_withdrawn hw) (s.arrives_filter u a)
    ((State.arrives_members a _ _ hne).2 hv) habsent
  refine ⟨_, (exec_barrierArrival h).trans (congrArg _ hwaits), ?_, ?_, rfl, ?_⟩
  · rw [State.arrives_thread]
  · rw [State.arrives_thread]
  · rw [State.arrives_cluster]

/-- With the last member's arrival every arrived thread goes on (12 R327). -/
theorem barrierArrival_releases (hsaved : s.savedMember a.launch a.group = false)
    (hall : ∀ v ∈ s.members a.launch a.group,
      v = u ∨ v ∈ ((s.cluster (groupHome a.group)).arrivals.filter (atBarrier a.launch a.group)).map (·.t))
    (hnodup : ((s.arrived u a).map (·.t)).Nodup) (hcan : ∀ b ∈ s.arrived u a, s.CanLeave b) :
    Completes (.barrierArrival u) s (fun t => t.mem = s.mem ∧
      (t.cluster (groupHome a.group)).arrivals =
        (s.cluster (groupHome a.group)).arrivals.filter (fun b => !atBarrier a.launch a.group b) ∧
      ∀ b ∈ s.arrived u a, Left s t (s.arrived u a) b) := by
  have hown : ({ a with mc := (s.thread u).mc } : Arrival) ∈ s.arrived u a := List.mem_append_right _ (List.mem_singleton_self _)
  have hall' : ∀ v ∈ (s.arrives u a).members a.launch a.group, v ∈ (s.arrived u a).map (·.t) := fun v hv => by
    by_cases hvu : v = u
    · exact List.mem_map.2 ⟨_, hown, ht.trans hvu.symm⟩
    · have := (hall v ((State.arrives_members a _ _ hvu).1 hv)).resolve_left hvu
      rw [State.arrived, List.map_append]
      exact List.mem_append_left _ this
  have hcompletes := State.checkBarrier_completes (State.arrives_withdrawn hw) (s.arrives_filter u a) (List.ne_nil_of_mem hown)
    (show (s.arrives u a).savedMember a.launch a.group = false from hsaved) hall'
  have hcan' : ∀ b ∈ s.arrived u a, ((s.arrives u a).clearArrivals (groupHome a.group) a.launch a.group).CanLeave b := fun b hb =>
    ((hcan b hb).arrives u a).congr (.refl _)
  obtain ⟨hleft, honly⟩ := State.releaseAll_left (s.arrived u a) (s.arrived u a) _ hnodup hcan'
  refine ⟨_, (exec_barrierArrival h).trans (congrArg _ hcompletes), honly.mem, ?_, fun b hb => ?_⟩
  · rw [State.cluster_congr honly.clusters, State.clearArrivals, State.cluster_updCluster_same]
    exact s.arrives_others u a
  · obtain ⟨hrun, hpcb, hsval⟩ := hleft b hb
    exact ⟨hrun, hpcb.trans (congrArg (· + 4) (s.arrives_pc u a b.t)), hsval⟩

end arrival

end Sys2Proof.Machine
end

section
/-!
## Channels (12 R329 to R332; log entry 85)

A thread that meets a channel record in its turn sends a word, which goes into the FIFO or to the first waiting receiver, or takes the
oldest word, after which the first waiting sender's goes in.
-/

namespace Sys2Proof.Machine
variable {s t u : State} {os : List Opnd} {cl chan i : Nat} {r : Chan} {w : ChanWait} {ws : List ChanWait} {x y : Word}
  {xs : List Word} {m n send : Bool} {a b d : BitVec 5}

/-! ### The issue of a channel instruction -/

/-- The number of a channel in its cluster. -/
def channelNumber (a : Word) : Nat := a.toNat % 64

theorem field_channelNumber (a : Word) : field a 5 0 = channelNumber a := by
  rw [field, Nat.pow_zero, Nat.div_one]
  rfl

/-- The record that the issuing thread meets. -/
def State.chanAt (s : State) (a : Word) (i : Nat) : Chan := (s.cluster (channelCluster a)).record i s.me.launch (channelNumber a)

/-- The tie of a channel's senders, or of its receivers, in one cycle. -/
def State.chanTie (s : State) (a : Word) (send : Bool) : Tie := .chan (channelCluster a) s.me.launch (channelNumber a) send

/-- A channel instruction may issue: it may run here, its channel word is legal, its sources are there, and its channel has record `i`. -/
structure State.MayMeet (s : State) (os : List Opnd) (a : Word) (i : Nat) : Prop where
  enters : s.enterInstr .core .plain = .ok {}
  legal : channelLegal s.me.rect a = true
  record : (s.cluster (channelCluster a)).channel s.me.launch (channelNumber a) = some i
  mapped : spilledOf s.me os = none
  untainted : taintOf s.me os = 0

theorem State.untainted_ok (h : taintOf s.me os = 0) : s.untainted os = .ok () := if_pos h

theorem State.meetChannel_ok (h : s.tieOk (.chan cl s.me.launch chan send) s.cur = true) :
    s.meetChannel cl chan send = .ok (s.tie (.chan cl s.me.launch chan send) s.cur) := if_pos h

theorem State.meetChannel_late (h : s.tieOk (.chan cl s.me.launch chan send) s.cur = false) :
    s.meetChannel cl chan send = .error (.goto s) := if_neg (by rw [h]; exact Bool.false_ne_true)

/-- The issuing thread has met its channel in the order of the cycle (log entry 85). -/
def State.metChannel (s : State) (a : Word) (send : Bool) : State := s.tie (s.chanTie a send) s.cur

theorem State.storesSettled_me (hrsb : s.me.rsb = []) (hcount : s.me.storeCount = 0) : s.me.storesSettled = true := by
  rw [Thread.storesSettled, hrsb, hcount]
  rfl

section send
variable (h : s.MayMeet (rrOps m n b a) (s.x a) i) (hrsb : s.me.rsb = []) (hcount : s.me.storeCount = 0)
include h hrsb hcount

/-- A CHSEND that comes too late in its cycle leaves the state as it was. -/
theorem execChsend_late (hlate : s.tieOk (s.chanTie (s.x a) true) s.cur = false) : exec (.chsend m n b a) s = .next s := by
  have hsettled := State.storesSettled_me hrsb hcount
  obtain ⟨hi, hlegal, hrecord, hmapped, huntainted⟩ := h
  show execChsend m n b a s = _
  simp only [execChsend, hi, hlegal, State.refilled_ok hmapped, State.untainted_ok huntainted, hrsb, hsettled, field_channelNumber, hrecord,
    State.meetChannel_late hlate, bind, Except.bind, if_true, Bool.not_true, Bool.false_eq_true, if_false, settle]

/-- A CHSEND with room in the FIFO puts its word there, or hands it on. -/
theorem execChsend_puts (hok : s.tieOk (s.chanTie (s.x a) true) s.cur = true) (hroom : (s.chanAt (s.x a) i).fifo.length < 8) :
    exec (.chsend m n b a) s = .next ((((s.metChannel (s.x a) true).channelPut (channelCluster (s.x a)) i (s.chanAt (s.x a) i) s.cur
      (s.x b)).consume s.cur (rrOps m n b a)).retire 4) := by
  have hsettled := State.storesSettled_me hrsb hcount
  obtain ⟨hi, hlegal, hrecord, hmapped, huntainted⟩ := h
  unfold State.chanAt at hroom
  show execChsend m n b a s = _
  simp only [execChsend, hi, hlegal, State.refilled_ok hmapped, State.untainted_ok huntainted, hrsb, hsettled, field_channelNumber, hrecord,
    State.meetChannel_ok hok, bind, Except.bind, if_true, Bool.not_true, Bool.false_eq_true, if_false]
  exact (congrArg (settle s) (if_pos hroom)).trans rfl

end send

/-- A record of whose words `xs` are left. -/
def Chan.left (r : Chan) (xs : List Word) : Chan := { r with fifo := xs }

/-- A record of whose senders `ws` are left. -/
def Chan.unblocked (r : Chan) (ws : List ChanWait) : Chan := { r with sends := ws }

/-- The oldest word of a record is taken into register `d`. -/
def State.takesWord (s : State) (os : List Opnd) (a : Word) (i : Nat) (d : BitVec 5) (x : Word) (xs : List Word) : State :=
  (((s.setChan (channelCluster a) i ((s.chanAt a i).left xs)).consume s.cur os).setS s.cur d.toNat x 0).retire 4

section receive
variable (h : s.MayMeet [.s a n] (s.x a) i)
include h

/-- A CHRECV that comes too late in its cycle leaves the state as it was. -/
theorem execChrecv_late (hlate : s.tieOk (s.chanTie (s.x a) false) s.cur = false) : exec (.chrecv n a d) s = .next s := by
  obtain ⟨hi, hlegal, hrecord, hmapped, huntainted⟩ := h
  show execChrecv n a d s = _
  simp only [execChrecv, hi, hlegal, State.refilled_ok hmapped, State.untainted_ok huntainted, field_channelNumber, hrecord,
    State.meetChannel_late hlate, bind, Except.bind, if_true, settle]

/-- A CHRECV takes the oldest word; where a sender waits, its word goes in (12 R332). -/
theorem execChrecv_takes (hok : s.tieOk (s.chanTie (s.x a) false) s.cur = true) (hfifo : (s.chanAt (s.x a) i).fifo = x :: xs) :
    exec (.chrecv n a d) s = .next (match (s.chanAt (s.x a) i).sends with
      | [] => (s.metChannel (s.x a) false).takesWord [.s a n] (s.x a) i d x xs
      | w :: ws => (((s.metChannel (s.x a) false).takesWord [.s a n] (s.x a) i d x xs).channelPut (channelCluster (s.x a)) i
          (((s.chanAt (s.x a) i).left xs).unblocked ws) w.t w.word).channelDone w none) := by
  obtain ⟨hi, hlegal, hrecord, hmapped, huntainted⟩ := h
  have hfifo' : (((s.tie (.chan (channelCluster (s.x a)) s.me.launch (channelNumber (s.x a)) false) s.cur).cluster
    (channelCluster (s.x a))).record i (s.tie (.chan (channelCluster (s.x a)) s.me.launch (channelNumber (s.x a)) false) s.cur).me.launch
    (channelNumber (s.x a))).fifo = x :: xs := hfifo
  show execChrecv n a d s = _
  simp only [execChrecv, hi, hlegal, State.refilled_ok hmapped, State.untainted_ok huntainted, field_channelNumber, hrecord,
    State.meetChannel_ok hok, bind, Except.bind, if_true, hfifo']
  change settle s (match (s.chanAt (s.x a) i).sends with
    | [] => .ok ((s.metChannel (s.x a) false).takesWord [.s a n] (s.x a) i d x xs)
    | w :: ws => .ok ((((s.metChannel (s.x a) false).takesWord [.s a n] (s.x a) i d x xs).channelPut (channelCluster (s.x a)) i
      (((s.chanAt (s.x a) i).left xs).unblocked ws) w.t w.word).channelDone w none)) = _
  cases (s.chanAt (s.x a) i).sends <;> rfl

end receive

/-! ### Records and the threads that wait on them (12 R330) -/

/-- A record's FIFO reads back, be the record in use or free. -/
theorem State.setChan_fifo (s : State) (cl i : Nat) (r : Chan) : (NMap.get {} ((s.setChan cl i r).cluster cl).chans i).fifo = r.fifo := by
  rw [State.setChan, State.cluster_updCluster_same, NMap.get_set_same]
  split
  · next h =>
    simp only [Bool.and_eq_true, decide_eq_true_eq] at h
    exact h.1.1.symm
  · rfl

/-- A record with a word in its FIFO is kept whole. -/
theorem State.setChan_get (s : State) (cl i : Nat) {r : Chan} (h : r.fifo ≠ []) :
    NMap.get {} ((s.setChan cl i r).cluster cl).chans i = r := by
  rw [State.setChan, State.cluster_updCluster_same, NMap.get_set_same, decide_eq_false h]
  rfl

/-- The cluster counts a send (12 R333). -/
def State.countSend (s : State) (cl : Nat) : State := s.updCluster cl (fun c => { c with sends := (s.cluster cl).sends + 1 })

/-- A record after the `k`th send of its cluster, by thread `u`, whose word `x` goes into the FIFO. -/
def Chan.stored (r : Chan) (u k : Nat) (x : Word) : Chan := { r with last := some u, sent := k, fifo := r.fifo ++ [x] }

/-- A record after such a send, whose word its first receiver takes. -/
def Chan.handed (r : Chan) (u k : Nat) (ws : List ChanWait) : Chan := { r with last := some u, sent := k, recvs := ws }

theorem State.channelPut_stores (s : State) (cl i u : Nat) (x : Word) (hr : r.recvs = []) : s.channelPut cl i r u x =
    (s.countSend cl).setChan cl i (r.stored u ((s.cluster cl).sends + 1) x) := by
  obtain ⟨live, launch, chan, fifo, last, recvs, sends, sent⟩ := r
  subst hr
  rfl

theorem State.channelPut_hands (s : State) (cl i u : Nat) (x : Word) (hr : r.recvs = w :: ws) : s.channelPut cl i r u x =
    ((s.countSend cl).setChan cl i (r.handed u ((s.cluster cl).sends + 1) ws)).channelDone w (some x) := by
  obtain ⟨live, launch, chan, fifo, last, recvs, sends, sent⟩ := r
  subst hr
  rfl

theorem Thread.unmapped_pc (now : Nat) (rs : List (BitVec 5)) : ∀ x : Thread,
    (rs.foldl (fun x r => Thread.consume now x (.s r true)) x).pc = x.pc := by
  induction rs with
  | nil => exact fun _ => rfl
  | cons r rs ih => exact fun x => (ih _).trans (KeptRest.of_unread (x.consume_frame now (.s r true)).rest).pc

theorem State.unmap_pc (s : State) (u : Nat) (rs : List (BitVec 5)) : ((s.unmap u rs).thread u).pc = (s.thread u).pc := by
  rw [State.unmap, State.thread_updThread_same]
  exact Thread.unmapped_pc _ _ _

/-- A thread that waited on a channel goes on, a receiver with its word; no other thread changes. -/
theorem State.channelDone_passes (s : State) (w : ChanWait) (o : Option Word) : OnlyThread s (s.channelDone w o) w.t ∧
    ((s.channelDone w o).thread w.t).pc = (s.thread w.t).pc + 4 ∧
    ∀ x, o = some x → ((s.channelDone w o).thread w.t).sval w.d = if w.d = 0 then 0 else x := by
  have hunmap := (s.unmap_pc w.t w.unmap)
  have honly : OnlyThread s (s.unmap w.t w.unmap) w.t := State.updThread_only ..
  unfold State.channelDone
  generalize s.unmap w.t w.unmap = s1 at hunmap honly
  cases o with
  | none =>
    refine ⟨(honly.trans (State.updThread_only _ _ _)).trans (State.wake_only _ _), ?_, fun x hx => nomatch hx⟩
    rw [State.wake_thread, State.thread_updThread_same]
    exact congrArg (· + 4) hunmap
  | some x =>
    have hpc := (s1.setS_pc_pfx w.t w.d x 0 w.t).1
    refine ⟨((honly.trans (s1.setS_only w.t w.d x 0)).trans (State.updThread_only _ _ _)).trans (State.wake_only _ _), ?_, ?_⟩
    · rw [State.wake_thread, State.thread_updThread_same]
      exact congrArg (· + 4) (hpc.trans hunmap)
    · rintro _ ⟨⟩
      rw [State.wake_thread, State.thread_updThread_same]
      exact s1.sval_setS w.t w.d x 0

/-! ### Sending (12 R331) -/

theorem Issued.of_pc {s' : State} {len : Nat} (h : Issued s' t len) (hpc : s'.me.pc = s.me.pc) : Issued s t len :=
  ⟨h.pc.trans (congrArg (· + _) hpc), h.pfx⟩

theorem State.readOut_cluster (s : State) (os : List Opnd) (cl : Nat) : (s.readOut os).cluster cl = s.cluster cl :=
  State.cluster_congr (State.clusters_of_outside (s.readOut_frame os).rest) cl

section send
variable (h : s.MayMeet (rrOps m n b a) (s.x a) i) (hrsb : s.me.rsb = []) (hcount : s.me.storeCount = 0)
  (hok : s.tieOk (s.chanTie (s.x a) true) s.cur = true) (hroom : (s.chanAt (s.x a) i).fifo.length < 8)
include h hrsb hcount hok hroom

/-- With no receiver waiting the word goes into the FIFO. -/
theorem chsend_stores (hr : (s.chanAt (s.x a) i).recvs = []) : Completes (.chsend m n b a) s (fun t => Issued s t 4 ∧ t.mem = s.mem ∧
    (NMap.get {} (t.cluster (channelCluster (s.x a))).chans i).fifo = (s.chanAt (s.x a) i).fifo ++ [s.x b] ∧
    (NMap.get {} (t.cluster (channelCluster (s.x a))).chans i).last = some s.cur) := by
  have hnext := execChsend_puts h hrsb hcount hok hroom
  rw [State.channelPut_stores _ _ _ _ _ hr] at hnext
  have hget := ((s.metChannel (s.x a) true).countSend (channelCluster (s.x a))).setChan_get (channelCluster (s.x a)) i
    (r := (s.chanAt (s.x a) i).stored s.cur (((s.metChannel (s.x a) true).cluster (channelCluster (s.x a))).sends + 1) (s.x b))
    (by simp [Chan.stored])
  rw [← State.readOut_cluster _ (rrOps m n b a)] at hget
  exact ⟨_, hnext, (State.readOut_issued _ (rrOps m n b a)).of_pc rfl, rfl, congrArg Chan.fifo hget, congrArg Chan.last hget⟩

/-- The first waiting receiver takes the word. -/
theorem chsend_hands (hr : (s.chanAt (s.x a) i).recvs = w :: ws) (hw : w.t ≠ s.cur) : Completes (.chsend m n b a) s (fun t =>
    Issued s t 4 ∧ (t.thread w.t).sval w.d = if w.d = 0 then 0 else s.x b) := by
  have hnext := execChsend_puts h hrsb hcount hok hroom
  rw [State.channelPut_hands _ _ _ _ _ hr] at hnext
  obtain ⟨honly, -, hval⟩ := State.channelDone_passes
    (((s.metChannel (s.x a) true).countSend (channelCluster (s.x a))).setChan (channelCluster (s.x a)) i
      ((s.chanAt (s.x a) i).handed s.cur (((s.metChannel (s.x a) true).cluster (channelCluster (s.x a))).sends + 1) ws)) w (some (s.x b))
  have hcur := honly.cur.trans (show _ = s.cur from rfl)
  have hme := (honly.others s.cur hw.symm).kept.1
  generalize State.channelDone _ w (some (s.x b)) = u at hnext honly hval hcur hme
  rw [← hcur] at hnext
  refine ⟨_, hnext, (u.readOut_issued (rrOps m n b a)).of_pc ?_, ?_⟩
  · rw [State.me, hcur]
    exact hme
  · have hother := (u.readOut_frame (rrOps m n b a)).others w.t (by rw [hcur]; exact hw)
    exact (hother.sval w.d).trans (hval _ rfl)

end send

/-! ### Receiving (12 R332) -/

/-- Taking a word writes it, untainted, into the destination, as any result is written. -/
theorem State.takesWord_wrote (s : State) (a : Word) (i : Nat) (d : BitVec 5) (x : Word) (xs : List Word) (ht : taintOf s.me os = 0) :
    WroteS (s.setChan (channelCluster a) i ((s.chanAt a i).left xs)) (s.takesWord os a i d x xs) os d x s.me.run s.me.srseed := by
  have hput := (s.setChan (channelCluster a) i ((s.chanAt a i).left xs)).putS_wrote os d x
  have hsame : (s.setChan (channelCluster a) i ((s.chanAt a i).left xs)).putS os d x 4 = s.takesWord os a i d x xs := by
    unfold State.putS State.takesWord
    rw [show taintOf (s.setChan (channelCluster a) i ((s.chanAt a i).left xs)).me os = 0 from ht]
    rfl
  rw [hsame] at hput
  exact hput

/-- From `s` to `t` the issuing thread has taken word `x` into register `d`; no other thread has changed, and no byte. -/
structure TookWord (s t : State) (d : BitVec 5) (x : Word) : Prop where
  issued : Issued s t 4
  mem : t.mem = s.mem
  cur : t.cur = s.cur
  sval : t.me.sval d.toNat = if d = 0 then 0 else x
  others : ∀ v, v ≠ s.cur → SameThread (s.thread v) (t.thread v)

theorem State.takesWord_took (s : State) (a : Word) (i : Nat) (d : BitVec 5) (x : Word) (xs : List Word) (ht : taintOf s.me os = 0) :
    TookWord s ((s.metChannel a false).takesWord os a i d x xs) d x := by
  have hwrote := (s.metChannel a false).takesWord_wrote a i d x xs ht
  exact ⟨hwrote.issued.of_pc rfl, (State.mem_of_outside hwrote.frame.rest).trans rfl, (State.cur_of_outside hwrote.frame.rest).trans rfl,
    hwrote.val, hwrote.frame.others⟩

/-- What another thread's going on leaves of an issue. -/
theorem Issued.congr {len : Nat} (h : Issued s u len) (hcur : t.cur = u.cur) (hx : SameThread u.me (t.thread u.cur)) : Issued s t len := by
  have hpfx : (t.thread u.cur).bare.pfx = u.me.bare.pfx := by rw [hx.rest]
  constructor <;> rw [State.me, hcur]
  · exact hx.kept.1.trans h.pc
  · exact hpfx.trans h.pfx

section receive
variable (h : s.MayMeet [.s a n] (s.x a) i) (hok : s.tieOk (s.chanTie (s.x a) false) s.cur = true)
  (hfifo : (s.chanAt (s.x a) i).fifo = x :: xs)
include h hok hfifo

/-- With no sender waiting the rest of the FIFO stays. -/
theorem chrecv_takes (hs : (s.chanAt (s.x a) i).sends = []) : Completes (.chrecv n a d) s (fun t => Issued s t 4 ∧ t.mem = s.mem ∧
    t.me.sval d.toNat = (if d = 0 then 0 else x) ∧ (NMap.get {} (t.cluster (channelCluster (s.x a))).chans i).fifo = xs) := by
  have hnext := execChrecv_takes (d := d) h hok hfifo
  rw [hs] at hnext
  have htook := s.takesWord_took (s.x a) i d x xs h.untainted
  have hout := ((s.metChannel (s.x a) false).takesWord_wrote (s.x a) i d x xs h.untainted).frame.rest
  refine ⟨_, hnext, htook.issued, htook.mem, htook.sval, ?_⟩
  rw [State.cluster_congr (State.clusters_of_outside hout)]
  exact State.setChan_fifo ..

/-- The first waiting sender's word goes in behind, and the sender goes on. -/
theorem chrecv_refills (hs : (s.chanAt (s.x a) i).sends = w :: ws) (hr : (s.chanAt (s.x a) i).recvs = []) (hw : w.t ≠ s.cur) :
    Completes (.chrecv n a d) s (fun t => Issued s t 4 ∧ t.mem = s.mem ∧ t.me.sval d.toNat = (if d = 0 then 0 else x) ∧
      (NMap.get {} (t.cluster (channelCluster (s.x a))).chans i).fifo = xs ++ [w.word] ∧
      (NMap.get {} (t.cluster (channelCluster (s.x a))).chans i).sends = ws ∧ (t.thread w.t).pc = (s.thread w.t).pc + 4) := by
  have hnext := execChrecv_takes (d := d) h hok hfifo
  have htook := s.takesWord_took (s.x a) i d x xs h.untainted
  rw [hs] at hnext
  dsimp only at hnext
  rw [State.channelPut_stores (r := ((s.chanAt (s.x a) i).left xs).unblocked ws) _ _ _ _ _ hr] at hnext
  generalize (s.metChannel (s.x a) false).takesWord [.s a n] (s.x a) i d x xs = u at hnext htook
  have hget := (u.countSend (channelCluster (s.x a))).setChan_get (channelCluster (s.x a)) i
    (r := (((s.chanAt (s.x a) i).left xs).unblocked ws).stored w.t ((u.cluster (channelCluster (s.x a))).sends + 1) w.word)
    (by simp [Chan.stored])
  obtain ⟨honly, hpc, -⟩ := State.channelDone_passes ((u.countSend (channelCluster (s.x a))).setChan (channelCluster (s.x a)) i
    ((((s.chanAt (s.x a) i).left xs).unblocked ws).stored w.t ((u.cluster (channelCluster (s.x a))).sends + 1) w.word)) w none
  rw [← State.cluster_congr honly.clusters] at hget
  have hcur := honly.cur.trans (show _ = u.cur from rfl)
  have hown : SameThread u.me (State.thread _ u.cur) := honly.others u.cur (by rw [htook.cur]; exact hw.symm)
  refine ⟨_, hnext, htook.issued.congr hcur hown, honly.mem.trans htook.mem, ?_, congrArg Chan.fifo hget, congrArg Chan.sends hget,
    hpc.trans (congrArg (· + 4) (htook.others w.t hw).kept.1)⟩
  rw [State.me, hcur]
  exact (hown.sval d.toNat).trans htook.sval

end receive

/-! ### Barriers and channels as a whole -/

theorem tieOk_of_not_late {k : Tie} {rank : Nat} (h : ¬ s.tieOk k rank = false) : s.tieOk k rank = true := by
  rwa [Bool.not_eq_false] at h

/-- Settles O18: the three barriers' issue, a channel's sends and receives, and the arrival of a Drained thread. -/
theorem barrierAndChannelResult : Obligations.BarrierAndChannelResult := by
  refine ⟨fun s n m z a b d hi => ⟨fun hg hc => ⟨fun hs => ?_, fun hs => ⟨?_, ?_⟩⟩, fun hlegal i hrecord =>
    ⟨fun hlate hrsb hcount hs ht => ?_, fun hlate hs ht => ?_, fun hok =>
      ⟨fun hrsb hcount hroom hs ht => ⟨fun hr => ?_, fun w ws hr hw => ?_⟩, fun v vs hf hsends hs ht => ?_,
        fun v vs w ws hf hsends hr hw hs ht => ?_⟩⟩⟩,
    fun s u a hstage hrun hdrained ht hw => ⟨fun v hv hne hv' => ?_, fun hsaved hall hnodup hcan => ?_⟩⟩
  · rw [← lastOf_one]
    exact barrierOp_next (rs := [(a, n)]) hi hg hc hs
  · rw [← lastOf_two]
    exact barrierOp_next (rs := [(a, n), (b, m)]) hi hg hc hs
  · rw [← lastOf_two]
    exact barrierOp_next (rs := [(a, n), (b, m)]) hi hg hc hs
  · exact execChsend_late ⟨hi, hlegal, hrecord, hs, ht⟩ hrsb hcount hlate
  · exact execChrecv_late ⟨hi, hlegal, hrecord, hs, ht⟩ hlate
  · exact chsend_stores ⟨hi, hlegal, hrecord, hs, ht⟩ hrsb hcount (tieOk_of_not_late (hok true)) hroom hr
  · exact chsend_hands ⟨hi, hlegal, hrecord, hs, ht⟩ hrsb hcount (tieOk_of_not_late (hok true)) hroom hr hw
  · exact chrecv_takes ⟨hi, hlegal, hrecord, hs, ht⟩ (tieOk_of_not_late (hok false)) hf hsends
  · exact chrecv_refills ⟨hi, hlegal, hrecord, hs, ht⟩ (tieOk_of_not_late (hok false)) hf hsends hr hw
  · exact barrierArrival_parks ⟨hstage, hrun, hdrained⟩ ht hw hv hne hv'
  · obtain ⟨t, hnext, hmem, harrivals, hleft⟩ := barrierArrival_releases ⟨hstage, hrun, hdrained⟩ ht hw hsaved hall hnodup
      fun b hb => ⟨(hcan b hb).1, (hcan b hb).2.1, (hcan b hb).2.2⟩
    exact ⟨t, hnext, hmem, harrivals, fun b hb => ⟨(hleft b hb).run, (hleft b hb).pc, (hleft b hb).sval⟩⟩

end Sys2Proof.Machine
end
